-- ==== Sys2Proof/Word.lean ====
section
/-! DEFINITION. The word types of the machine (R2, R97) and nothing else: 64-bit scalar words, bytes, 512-bit
vectors, 128-byte lines. -/

namespace Sys2Proof

/-- A scalar register, address or system register value. -/
abbrev Word := BitVec 64

/-- One byte of storage. -/
abbrev Byte := BitVec 8

/-- A vector register (R192). -/
abbrev VReg := BitVec 512

/-- The data of one 128-byte line (R52, R66). -/
abbrev Line := BitVec 1024

/-- One bit per byte of a line: the dirty and present masks of R54. -/
abbrev LineMask := BitVec 128

/-- A 5-bit register field (R125). -/
abbrev Reg := BitVec 5

/-- A predicate register number (R125). -/
abbrev Pred := BitVec 3

/-- A tile handle number (R125). -/
abbrev Tile := BitVec 4

/-- A lookahead count (R126). -/
abbrev La := BitVec 4

end Sys2Proof
end

