-- ==== Sys2Proof/Config.lean ====
section
/-! DEFINITION. What the spec leaves open and the model leaves free: opaque constants with no body, so that nothing
can be proved of their values, and the fixed numbers of the module (R10, R21, R65). -/

namespace Sys2Proof.Config

/-- Free choices (log 2): the n-th open choice of a run. Where the spec gives no order between messages of different
pairs, or names no victim, the choice is this number modulo the number of candidates. -/
opaque freePick : Nat → Nat

/-- The serial of a line before its first counted write, which R87 does not define (log 8). -/
opaque lineSerial : Nat → BitVec 32

/-- Which value within the bound of R210 a binary32 special function returns for an input (log 7):
operation number and input bits give the index of the candidate. -/
opaque specialPick : Nat → BitVec 32 → Nat

/-- Which value within the bound of R225 a binary32 activation returns for an input (log 7). -/
opaque activationPick : Nat → BitVec 32 → Nat

/-- Bytes of a save image whose layout R316 does not give (log 13). -/
opaque freeByte : Nat → Byte

/-- The ECC syndrome of a poisoned line's failing code word, of which R307 gives no value; from the line's key (log 2). -/
opaque eccSyndrome : Nat → BitVec 32

/-- How many bytes of second-tier port p its device fills, which the fitting fixes (R365): the rest is a hole. -/
opaque secondTierCapacity : Nat → Nat

/-- What a 64-byte network flit of a link's data flit writes, whose layout the spec does not give: offset and bytes in the
receive range (R366, R368; log 20). -/
opaque linkWrite : Nat → Option (Nat × List Byte)

/-- The bus address of BAR2 in units of its 4 GiB, which the host assigns (R364; log 20). -/
opaque bar2 : Nat

/-- The payload of the data flit that carries a write to a link's aperture, whose layout the spec does not give: the offset of
a line, its bytes and the mask of those written (R366, R368; log 20). -/
opaque linkPayload : Nat → BitVec 1024 → BitVec 128 → Nat

/-- The CRC-64 of bytes 0 to 199 of a link flit, whose polynomial the spec does not give (R366; log 20). -/
opaque linkCrc : Nat → BitVec 64

/-- The number by which a report names a bond among a chiplet's links and bonds, which R307 does not assign (log 2). -/
opaque bondNumber : Nat → Nat

/-- The delay a link measures, in ticks (R367; log 20). -/
opaque linkDelay : Nat → Nat

/-- Unwrapping of a wrapped key (R370): the key pair, or none where it fails (log 14). -/
opaque unwrapKey : Nat → Option (BitVec 512)

/-- Whether an image or a routing-table set carries a good LMS signature (R355, R369; log 14). -/
opaque signatureGood : Nat → Nat → Bool

/-- The SHA-256 of a firmware image (R369; log 14). -/
opaque imageHash : Nat → BitVec 256

/-- The module's fuses, which hold its identity and attestation keys, LMS keys both (R369; log 14). -/
opaque fuses : Nat

/-- The signature that the attestation key among the fuses makes: over an image hash, a map of live chiplets and a nonce (R369;
log 14). -/
opaque attest : Nat → Nat × List (Nat × Nat) × Nat → Nat

/-- Reticle sites of a module (R10, R349). -/
def sites : Nat := 42

/-- The service reticles SV0 to SV3 (R349). -/
def serviceSites : List Nat := [0, 5, 36, 41]

/-- Whether a site is one of the 38 compute reticles. -/
def isCompute (site : Nat) : Bool := site < sites && !serviceSites.contains site

/-- The size of a local array (R52). -/
def arrayBytes : Nat := 524288

end Sys2Proof.Config
end

