-- ==== Sys2Proof/Syntax.lean ====
section
/-! DEFINITION. The instruction set as data: one constructor of `Instr` per row of spec/opcode_table.json. The first
334 are the instructions with an encoding (fields an instruction does not use are dropped, R4); the others are the table's
events, the steps of the ports, slices, control dies, channels and sensors, which carry the message they are about. -/

namespace Sys2Proof

/-! ### Operand kinds of the encoded instructions -/

/-- Scalar floating-point type codes of OP 0x06 (R127, R158). -/
inductive SFmt where | f64 | f32
  deriving DecidableEq, Repr

/-- Rounding field of OP 0x06 and 0x07 (R31, R127): five static modes, or `FCTL.RM`. -/
inductive Rm where | rne | rtz | rdn | rup | rod | dyn
  deriving DecidableEq, Repr

/-- The load types of `ldx` in the order of R128. -/
inductive LdTy where | i8 | w8 | i16 | w16 | i32 | w32 | i64
  deriving DecidableEq, Repr

/-- Width codes of the atomics (R128, R174). -/
inductive AWidth where | w32 | w64
  deriving DecidableEq, Repr

/-- Fence scopes (R83). -/
inductive Scope where | strand | core | cluster | reticle | partition | package
  deriving DecidableEq, Repr

/-- Integer lane types (R129). -/
inductive LaneTy where | i8 | i16 | i32 | w8 | w16 | w32
  deriving DecidableEq, Repr

/-- Floating-point lane types (R129). -/
inductive FLane where | f32 | f16 | bf16
  deriving DecidableEq, Repr

/-- DX element types (R35, R129). -/
inductive DxTy where | d16 | d8 | d4
  deriving DecidableEq, Repr

/-- Trap causes of R299. -/
inductive Cause where
  | illegal | privileged | misaligned | localRange | noSuchCore | leaseViolation | rangeLocked | queueTimeout
  | vigilTimeout | adventFull | adventFault | accOwned | scall | brk | stewardOnly | eccUncorrectable
  | walkRaceExhausted | keyRevoked
  deriving DecidableEq, Repr

/-- Atomic operations (R174). -/
inductive AtomOp where | swap | cas | add | and | or | xor | min | max
  deriving DecidableEq, Repr

/-- Reduction operations (R183). -/
inductive RedOp where | add | minI | minW | maxI | maxW
  deriving DecidableEq, Repr

/-! ### What a message carries -/

/-- Where a location's accesses are performed (R74): a core's scratchpad behind its port, or a slice.
Cores and slices are named by their physical key (see `State`). -/
inductive Home where
  | pad (core : Nat)
  | slice (slice : Nat)
  deriving DecidableEq, Repr

/-- One access as a home performs it. Widths `n` are in bytes; `mask` has one bit per bit of the datum, so that a
partial vector store and a sub-byte merge (R89, R195) are the same access. -/
inductive Access where
  | read (n mask : Nat)
  | readAck (n : Nat)
  | write (n mask value : Nat)
  | writeAck (n value : Nat)
  | rmw (op : AtomOp) (signed : Bool) (n : Nat) (x cmp : Word)
  | fill
  | writeback (mask : LineMask) (data : Line)
  /-- an engine's access or an instruction fetch that needs the line at its slice; it has no answer (R66, R75) -/
  | touch (fetch : Bool)
  deriving DecidableEq, Repr

/-- A request message (R63, R66): who asked, from which instruction, at which byte of the home's storage (scratchpad
offset, or VA[56:0] of partition `part`), for which lane of a gather or scatter. -/
structure Req where
  core : Nat
  strand : Nat
  pc : Word
  part : Nat
  addr : Nat
  /-- the full 64-bit address, for TVAL -/
  full : Word
  lane : Nat
  access : Access
  deriving DecidableEq, Repr

/-- The answer to a load, atomic or acknowledged access (R22, R86, R87). -/
structure Reply where
  lane : Nat
  value : Nat
  serial : BitVec 32
  err : Option (Cause × Word)
  deriving DecidableEq, Repr

/-- A refused posted store (R72): its address and its PC. -/
structure Refused where
  addr : Word
  pc : Word
  deriving DecidableEq, Repr

/-- The answer to an L1 fill (R54): the bytes under a copy-destination range stay not present. -/
structure Fill where
  data : Line
  blocked : LineMask
  err : Option Cause
  deriving DecidableEq, Repr

/-- The kinds of range-lock entries (R69). -/
inductive LockKind where | view | copySource | copyDest | split | strip
  deriving DecidableEq, Repr

/-- The space a locked range lies in, by location and not by the form of the address (R69). -/
inductive Place where
  | pad (core : Nat)
  | virt (part : Nat)
  deriving DecidableEq, Repr

/-- Equal rows at a constant stride: the strip of R69, and the interior of a split entry (R346). -/
structure Rows where
  base : Nat
  stride : Nat
  len : Nat
  count : Nat
  deriving DecidableEq, Repr

/-- A range-lock entry (R69): the bytes base .. base + len - 1 of one place, registered by one strand. -/
structure LockEntry where
  id : Nat
  core : Nat
  strand : Nat
  kind : LockKind
  place : Place
  base : Nat
  len : Nat
  rows : Rows
  deriving DecidableEq, Repr

/-- What a home answers to a registration (R69, R70, R71). -/
inductive LockAnswer where
  | acked
  | full (first : Word)
  | conflict
  deriving DecidableEq, Repr

/-- A frame (R18). -/
structure Frame where
  entry : Word
  args : Vector Word 6
  fmta : BitVec 16
  fmtb : BitVec 16
  scla : BitVec 16
  sclb : BitVec 16
  deriving DecidableEq, Repr

/-- A group-table entry's name: partition and index (R19, R336). -/
structure GroupRef where
  part : Nat
  idx : Nat
  deriving DecidableEq, Repr

/-- What a copy unit carries: the destination bytes, and for a converted block its scale bytes (R254). -/
structure CopyData where
  bytes : List Byte
  scale : List Byte
  deriving DecidableEq, Repr

/-! ### What the host's commands carry -/

/-- A calendar ring's configuration (R60, R141), with the directive's index for R345. -/
structure RingCfg where
  n : Nat
  base : Nat
  days : Nat
  daySize : Nat
  prod : BitVec 16
  cons : BitVec 16
  wait : Nat
  index : Nat
  deriving DecidableEq, Repr

/-- A group image (R336); `members` are packed partition-relative names. -/
structure GroupImage where
  count : Nat
  wait : Nat
  zeros : Nat
  members : List Nat
  deriving DecidableEq, Repr

/-- A `.group` directive (R141). -/
structure GroupCfg where
  idx : Nat
  image : GroupImage
  index : Nat
  deriving DecidableEq, Repr

/-- A residency-lease range (R329). -/
structure LeaseRange where
  base : Nat
  len : Nat
  read : Bool
  write : Bool
  exec : Bool
  index : Nat
  deriving DecidableEq, Repr

/-- A virtual section of an image (R140); `code` sections have read and execute rights. -/
structure Section where
  base : Nat
  code : Bool
  bytes : List Byte
  deriving DecidableEq, Repr

/-- A `.frame` directive (R141): the core's packed name, ENTRY, the arguments, the four pointers as byte offsets of the
scratchpad, and the directive's index. -/
structure FrameCfg where
  core : Nat
  entry : Word
  args : Vector Word 6
  fmta : Nat
  fmtb : Nat
  scla : Nat
  sclb : Nat
  index : Nat
  deriving DecidableEq, Repr

/-- A LAUNCH's run block (R141, R341). -/
structure RunBlock where
  maintenance : Bool
  blocks : List (Nat × Nat)
  entry : Word
  slots : Word
  sloten : BitVec 16
  slotsIndex : Nat
  scratch : Nat
  almS : Nat
  almN : Nat
  almBase : Nat
  dqN : Nat
  dqBase : Nat
  scratchIndex : Nat
  rings : List RingCfg
  groups : List GroupCfg
  ranges : List LeaseRange
  frames : List FrameCfg
  trapvec : Word
  sections : List Section
  scratchData : List (Nat × List Byte)
  deriving DecidableEq, Repr

/-- A leaf the host asks to map (R325, R329). -/
structure Leaf where
  frame : Nat
  tier : Nat
  ps : Nat
  writable : Bool
  executable : Bool
  deriving DecidableEq, Repr

/-- A chiplet's physical name (R349): `chip` 0 block, 1 memory stack, 2 control die, 3 service reticle. -/
structure Chip where
  site : Nat
  chip : Nat
  index : Nat
  deriving DecidableEq, Repr

/-- A bond between two routers (R353, R360). -/
structure Bond where
  x1 : Nat
  y1 : Nat
  x2 : Nat
  y2 : Nat
  deriving DecidableEq, Repr

/-- Where an ECC error is detected, and whether it is correctable (R307, R309). A corrected one names its structure by the
LOCATION and ADDRESS of its report. -/
inductive EccPlace where
  | corrected (location address : Word)
  | line (key : Nat)
  | strandState (core strand : Nat)
  | coreState (core unit : Nat)
  deriving DecidableEq, Repr

/-- A detected error: its place and its syndrome (R307). -/
structure EccError where
  place : EccPlace
  syndrome : BitVec 32
  deriving DecidableEq, Repr

/-- A Higrim link flit (R366). -/
structure LinkFlit where
  type : Nat
  vc : Nat
  seq : Nat
  ack : Nat
  linkId : Nat
  payload : Nat
  crcGood : Bool
  deriving DecidableEq, Repr

/-- The header of a host's message (R339), with the function it came through (R364): none for the physical function,
n for virtual function n. -/
structure Request where
  function : Option Nat
  seq : Nat
  part : Nat
  reticle : Nat
  deriving DecidableEq, Repr

/-- A router's routing table (R355): its port-enable map, the dead and fenced bonds on its ports, and behind each port the
blocks that are fenced, as 4 * site + block. -/
structure RoutingTable where
  enables : BitVec 8
  bonds : List Bond
  behind : List (Nat × List Nat)
  deriving DecidableEq, Repr

/-- A link between modules, or a bond of the wafer (R309, R353, R366). -/
inductive LinkName where
  | higrim (n : Nat)
  | bond (b : Bond)
  deriving DecidableEq, Repr

/-! ### Events as messages -/

/-- The events of the table as data a state can hold: messages in flight, and inputs of the host and of the
environment. Each is the operand of the constructor of `Instr` of the same name (`Event.instr`). -/
inductive Event where
  /-- R133. An encoding that is not an instruction traps with ILLEGAL_INSTRUCTION. -/
  | unassignedEncoding (word : BitVec 32)
  /-- R275. A write to DOORBELL sets the writer's DBSRC bit in the steward. -/
  | doorbellWrite (core strand : Nat)
  /-- R275. A steward read of HOSTMSG pops the oldest host message. -/
  | hostmsgRead (core strand : Nat)
  /-- R280. Writing 1 to IPEND W1C bits clears doorbell sources or the intercalation notice. -/
  | ipendWrite (core strand : Nat) (v : Word)
  /-- R284. Writing TCMP sets the timer compare value and clears the timer interrupt. -/
  | tcmpWrite (core strand : Nat) (v : Word)
  /-- R282. A steward write of ADVQ or ADVQH sets quotas after the sum check. -/
  | advqWrite (core : Nat) (high : Bool) (v : Word)
  /-- R276. A write to TSTATUS ignores an illegal or higher MODE. -/
  | tstatusWrite (core strand : Nat) (v : Word)
  /-- R30. A write to FCTL sets flags and ignores RM values 5 to 7. -/
  | fctlWrite (core strand : Nat) (v : Word)
  /-- R285. Takes the lowest-numbered enabled pending interrupt at an owned slot. -/
  | interruptEntry (core strand : Nat)
  /-- R284. CALENDS reaches TCMP and the timer interrupt becomes pending. -/
  | timerExpiry (core strand : Nat)
  /-- R289. A waiting strand returns to RUNNING when an enabled interrupt is pending. -/
  | wfiWake (core strand : Nat)
  /-- R301. Takes the oldest pending deferred RANGE_LOCKED before the next instruction. -/
  | deferredTrap (core strand : Nat)
  /-- R102. A long-latency instruction's result or completion reaches the strand. -/
  | longLatencyComplete (core strand : Nat)
  /-- R294. A pending slot table takes effect when CALENDS mod 16 is 0. -/
  | slotTableSwitch (core : Nat)
  /-- R190. A yield ends after 2^12 cc without a frame. -/
  | yieldTimeout (core strand : Nat)
  /-- R64. A core's port performs a remote request at its banks. -/
  | portRequest (core : Nat) (q : Req)
  /-- R66. A slice performs an access to one of its lines in arrival order. -/
  | sliceAccess (slice : Nat) (q : Req)
  /-- R22. DRAM data for a slice miss return and the line is installed. -/
  | sliceMissFill (slice line : Nat)
  /-- R327. A control die starts a page-table walk for a slice's translation miss. -/
  | walkRequest (slice line : Nat)
  /-- R327. A page-table entry read returns and the walk continues or installs the translation. -/
  | walkEntryReturn (slice line : Nat)
  /-- R328. After its backoff, a walk rereads an entry found invalid. -/
  | walkRetry (slice line : Nat)
  /-- R328. Retry 64 still finds V = 0 and raises a machine check. -/
  | walkRaceExhausted (slice line : Nat)
  /-- R22. A response to a load or atomic arrives and is written to the destination. -/
  | loadResponse (core strand : Nat) (home : Home) (r : Reply)
  /-- R81. A posted store's acknowledgement or refusal returns and the counter falls. -/
  | postedStoreAck (core strand : Nat) (home : Home) (refused : Option Refused)
  /-- R54. A fetched line fills the non-dirty bytes of its L1 frame. -/
  | l1FillResponse (core line : Nat) (r : Fill)
  /-- R54. A home replies that an L1 write-back was performed or refused. -/
  | l1WritebackReply (core line : Nat) (performed : Bool)
  /-- R70. The control die resends a refused launch or completion write-back every 2^16 cc. -/
  | writebackRetry (core : Nat)
  /-- R69. A home registers a range in its lock list or filter and acknowledges. -/
  | lockRegistration (home : Home) (e : LockEntry)
  /-- R69. A registration acknowledgement returns to the registering instruction. -/
  | lockRegistrationAck (core : Nat) (lock : Nat) (home : Home) (answer : LockAnswer)
  /-- R71. A refused registration still fails after QLIMIT cc and traps or ends the copy. -/
  | registrationRetryTimeout (core strand : Nat)
  /-- R73. A release message frees a range lock at a remote home. -/
  | lockRelease (home : Home) (owner lock : Nat)
  /-- R114. A blocked queue port access traps after QLIMIT cc. -/
  | queueTimeout (core strand : Nat)
  /-- R185. A vigil whose condition has not held by 2^x cc traps. -/
  | vigilTimeout (core strand : Nat)
  /-- R62. A day barrier's conditions hold, the pointer advances and members proceed. -/
  | dayBarrierAdvance (core ring : Nat) (drain : Bool)
  /-- R62. A member waiting 2^WAIT cc withdraws and traps with VIGIL_TIMEOUT. -/
  | dayBarrierTimeout (core strand : Nat)
  /-- R116. A core's arrival reaches the group root and is counted. -/
  | barrierArrival (g : GroupRef) (core from_ : Nat)
  /-- R117. A strand waiting 2^W cc sends its core's withdrawal to the root. -/
  | groupWaitTimeout (core strand : Nat)
  /-- R117. The root clears an arrival if the episode is open and the waiters trap. -/
  | barrierWithdrawal (g : GroupRef) (core : Nat) (reduction : Bool) (from_ : Nat)
  /-- R182. The root accepts or refuses a broadcast value by credit and floods it. -/
  | broadcastAccept (g : GroupRef) (core strand : Nat) (v : Word)
  /-- R182. A flooded value enters a member core's broadcast buffer. -/
  | broadcastFloodArrival (g : GroupRef) (core seq : Nat) (v : Word)
  /-- R182. A credit returns to the root once every member popped the value. -/
  | broadcastCreditReturn (g : GroupRef) (core seq from_ : Nat)
  /-- R182. A send refused for 2^W cc traps with VIGIL_TIMEOUT. -/
  | bcastSendTimeout (core strand : Nat)
  /-- R182. A receive on an empty buffer for 2^W cc traps with VIGIL_TIMEOUT. -/
  | bcastRecvTimeout (core strand : Nat)
  /-- R183. A contribution reaches the root and completes the episode when all have come. -/
  | reductionContribution (g : GroupRef) (core strand : Nat) (op : RedOp) (v : Word) (from_ : Nat)
  /-- R108. A victim deque resolves a theft and replies with a frame or empty. -/
  | theftRequest (victim thief strand : Nat)
  /-- R109. A theft reply returns to a take, which succeeds or asks the next victim. -/
  | theftReply (thief strand : Nat) (fr : Option Frame)
  /-- R110. Every 2^K cc the levelling unit compares depths and asks a neighbour for a grant. -/
  | levellingInterval (core : Nat)
  /-- R110. A neighbour reserves places and grants or refuses frames. -/
  | levellingGrantRequest (core asker count : Nat)
  /-- R110. A grant returns and the unit sends frames from its far end. -/
  | levellingGrant (core granter count : Nat)
  /-- R110. A levelled frame is appended at the receiver's far end. -/
  | levelledFrameArrival (core sender : Nat) (fr : Option Frame) (unused : Nat)
  /-- R235. A 6 cc tile step ends on the array and updates the node's materialised region. -/
  | tileStep (cluster : Nat)
  /-- R241. The array lease ends and passes to the next requesting core. -/
  | arrayLeaseHandover (cluster : Nat)
  /-- R223. A twload's tile is in its weight slot and the node becomes DONE. -/
  | twloadFetchComplete (core node : Nat)
  /-- R240. No bank frees within QLIMIT cc and ACC_OWNED is raised. -/
  | accBankWaitTimeout (core strand : Nat)
  /-- R91. The channel begins a copy once acknowledgements, L1 actions and registrations are done. -/
  | copyStart (core copy : Nat)
  /-- R256. A streamer reads a unit at its home and pushes it to the destination. -/
  | streamerUnitRead (core copy unit : Nat)
  /-- R255. A copy unit is performed at its destination home in unit order. -/
  | copyUnitWrite (core copy unit : Nat) (data : CopyData)
  /-- R249. The status word is written once every counted unit is performed. -/
  | copyStatusWrite (core copy : Nat)
  /-- R253. After its release, cpyh sends the core's barrier arrival. -/
  | cpyhArrival (core copy : Nat)
  /-- R253. cpyh's barrier wait expires and the copy ends with VIGIL_TIMEOUT. -/
  | cpyhBarrierTimeout (core copy : Nat)
  /-- R253. On episode completion cpyh registers its source strips and begins reads. -/
  | cpyhSourceRegistration (core copy : Nat)
  /-- R257. A router announces its core is back and the channel resends refused units. -/
  | copyResume (target : Nat)
  /-- R311. The host requests a region switch and the lead die proposes a stop value. -/
  | intercalationRequest (rq : Request) (run : Nat) (saveBase : Word) (incoming : Option (Nat × Word))
  /-- R311. A control die accepts or rejects a proposed stop value. -/
  | intercalationProposal (part run site : Nat)
  /-- R311. On unanimous acceptance the lead die commits and the save area is pinned. -/
  | intercalationCommit (part run : Nat)
  /-- R312. At CALENDS = T a core stops issuing. -/
  | intercalationStop (core : Nat)
  /-- R313. The core's NI, lease, copies and L1 have wound down and its image save begins. -/
  | switchOutPoint (core : Nat)
  /-- R315. Every unit of a core image has been performed at its home slice. -/
  | coreSwitchedOut (core : Nat)
  /-- R314. The control dies copy the region's eject buffers into the eject section. -/
  | ejectSectionCopy (part run : Nat)
  /-- R319. Cores are restored, ejected messages re-injected and routers announce. -/
  | resume (part run : Nat)
  /-- R319. At CALENDS = T′ every core issues again. -/
  | resumeIssue (part run : Nat)
  /-- R335. The launch endpoint creates a partition on a rectangle of sites. -/
  | createPartition (rq : Request) (c0 c1 s0 s1 : Nat) (ptroot : Nat)
  /-- R335. Revokes keys, clears storage and applies logs before freeing the sites. -/
  | destroyPartition (rq : Request)
  /-- R341. Checks and sets up a run block through steps 1 to 6. -/
  | launch (rq : Request) (rb : RunBlock)
  /-- R341. At the agreed CALENDS every steward begins at the entry. -/
  | stewardStart (part run : Nat)
  /-- R342. The host ends a run, stopping its region and harvesting it. -/
  | endRun (rq : Request) (run : Nat) (trapped : Option (Nat × Nat))
  /-- R340. Places a host value in a core's host-message queue. -/
  | hostmsg (rq : Request) (name : Nat) (v : Word)
  /-- R344. After a core retires the control dies make its package-scope release. -/
  | completionRelease (core : Nat)
  /-- R331. Ends a lease: merges dirty logs, clears PIN and posts the completion message. -/
  | harvest (part run : Nat)
  /-- R332. At 8,192 entries the control die sets D bits and empties the log. -/
  | dirtyLogMerge (site : Nat)
  /-- R333. Slices apply the invalidation log, dropping overlapping translations. -/
  | invalidationLogApply (site : Nat)
  /-- R329. The lease endpoint maps a page with the size the host gives. -/
  | mapPage (rq : Request) (va : Word) (leaf : Leaf) (tables : List Nat)
  /-- R333. Unmaps a page and logs the invalidation. -/
  | unmapPage (rq : Request) (va : Word)
  /-- R330. Moves a page of at most 2 MiB to a new frame while leased. -/
  | movePage (rq : Request) (va : Word) (frame : Nat)
  /-- R333. Clears a page's dirty bit and logs the invalidation. -/
  | clearD (rq : Request) (va : Word)
  /-- R339. Returns dirty-page information to the host. -/
  | dirtyQuery (rq : Request) (va : Word)
  /-- R336. Writes a group-table entry that no run holds. -/
  | groupTableWrite (rq : Request) (idx : Nat) (im : GroupImage)
  /-- R339. Reads a group-table entry that no run holds. -/
  | groupTableRead (rq : Request) (idx : Nat)
  /-- R370. Unwraps a wrapped key and loads it into a key slot. -/
  | keyLoad (rq : Request) (wrapped : Nat) (slot target : Nat)
  /-- R338. Clears a key slot and raises its generation. -/
  | keyClear (rq : Request) (slot : Nat)
  /-- R338. Sets the partition's write key slot. -/
  | setWriteSlot (rq : Request) (slot : Nat)
  /-- R339. Returns journal entries from a sequence number. -/
  | journalRead (rq : Request) (seq : Nat)
  /-- R354. Replaces a start record's ACTION with 0 or 1. -/
  | startRecord (rq : Request) (chip : Chip) (action : Nat)
  /-- R356. Ends runs and clears strand state while keeping arrays and training. -/
  | warmReset (rq : Request)
  /-- R356. Ends runs, resets registers and repeats the procession from LINKS_TRAINED. -/
  | coldReset (rq : Request)
  /-- R361. Switches 1 to 4 idle reticles to retention. -/
  | retentionEntry (rq : Request) (sites : List Nat)
  /-- R361. Returns retained reticles to READY. -/
  | retentionExit (rq : Request) (sites : List Nat)
  /-- R361. Switches more than 4 idle reticles off. -/
  | powerOff (rq : Request) (sites : List Nat)
  /-- R361. Closes header switches and repeats the procession. -/
  | powerOn (rq : Request) (sites : List Nat)
  /-- R368. Binds a Higrim link to one partition at each end. -/
  | linkBind (rq : Request) (link tag : Nat) (rxBase : Word) (rxLen : Nat)
  /-- R369. Writes, verifies and commits a signed firmware image for the next cold reset. -/
  | firmwareUpdate (rq : Request) (image signature : Nat)
  /-- R309. An ECC error is detected and corrected, poisoned or raised as a machine check. -/
  | eccErrorDetected (e : EccError)
  /-- R351. The module's 4.8 V becomes good and bring-up limits start. -/
  | modulePowerGood
  /-- R351. A chiplet's rails are within 3% of nominal. -/
  | powerGood (chip : Chip)
  /-- R351. A chiplet's PLL locks to its parent's reference. -/
  | clockLocked (chip : Chip)
  /-- R351. Every bond group has trained or been marked dead. -/
  | linksTrained (chip : Chip)
  /-- R351. The configuration image is loaded and its checksum holds. -/
  | configLoaded (chip : Chip)
  /-- R351. Array self-test passes and the remap table is written. -/
  | selfTestPassed (chip : Chip) (live : List Nat)
  /-- R351. The control die records the chiplet as READY. -/
  | chipReady (chip : Chip)
  /-- R351. A procession step overruns its limit and the chiplet is FENCED. -/
  | bringupLimitOverrun (chip : Chip) (why : Nat)
  /-- R352. A bring-up wavefront from a non-parent neighbour is adopted or refused. -/
  | wavefrontArrival (chip source : Chip) (origin : Nat)
  /-- R353. A bond group failing three training attempts is marked dead. -/
  | bondMarkedDead (bond : Bond)
  /-- R355. A router receives and checks a new routing table and acknowledges. -/
  | routingTableLoad (router set : Nat) (table : RoutingTable) (crc signature : Nat)
  /-- R355. Every router switches to its new table at the commit value. -/
  | routingTableCommit
  /-- R355. A missing acknowledgement by T − 8,192 aborts the update everywhere. -/
  | routingUpdateAbort
  /-- R357. A failed regulator phase is reported and may cap or fence the block. -/
  | regulatorPhaseFailure (site block : Nat)
  /-- R358. A rail droop below 0.589 V stretches the block's clock. -/
  | droopStretch (site block : Nat)
  /-- R358. A sag lasting more than 1 ms caps the block at clock step 1. -/
  | droopCap (site block : Nat)
  /-- R360. A periodic bond supply reading may mark the bond suspect and fence its block. -/
  | bondSupplyReading (bond : Bond) (drop : Nat)
  /-- R363. A band's hottest sensor sets its clock step or sends MIGRATE. -/
  | thermalReading (band milliC : Nat)
  /-- R363. A band at 105 °C for 10 ms is fenced and its regions stopped. -/
  | thermalFence (band : Nat)
  /-- R363. A band 100 ms below the lower threshold returns one clock step up. -/
  | thermalStepUp (band : Nat)
  /-- R367. A Higrim link flit is checked, accepted, dropped or used for calends correction. -/
  | linkFlitReceive (link : Nat) (f : LinkFlit)
  /-- R367. Eight resends of one flit take the link down. -/
  | linkRetryExhausted (link : LinkName)
  /-- R367. Every 2^14 ticks a link sends a calends flit. -/
  | calendsFlitSend (link : Nat)
  /-- R248. An instruction waiting to write a bound register, or a copy waiting for a place in a full channel, traps with RANGE_LOCKED after QLIMIT cc. -/
  | copyWaitTimeout (core strand : Nat)
  /-- R235. The view reads, bank reads or weight decompression for a tile step return and the step is staged, making the core request the array. -/
  | operandFetchComplete (core strand : Nat)
  /-- R85. A second-tier port's completion, the PCI Express link's acceptance of a posted write, or a service-reticle agent's acceptance returns to a waiting package-scope release. -/
  | secondTierCompletion (core strand : Nat)
  /-- R156. Instruction words read from their home slice through the instruction cache return, or the fetch faults. -/
  | instructionFetchReturn (core strand : Nat)
  /-- R358. The block's rail recovers above 0.589 V and its cc return to normal length. -/
  | droopEnd (site block : Nat)
  /-- R354. The module loses power, every chiplet goes dark and only the journal and start records in SV0's nonvolatile store survive. -/
  | powerLoss
  /-- R329. The host refuses a launch page fault and the launch is refused at step 3. -/
  | pageFaultRefusal (rq : Request) (run va : Nat)
  deriving DecidableEq, Repr

/-! ### The instructions and events -/

/-- One constructor per row of spec/opcode_table.json. -/
inductive Instr where
  /-- R145. Writes the 64-bit sum of a and b to d. -/
  | add (d : Reg) (a : Reg) (b : Reg)
  /-- R145. Writes a minus b to d. -/
  | sub (d : Reg) (a : Reg) (b : Reg)
  /-- R145. Writes the bitwise AND of a and b to d. -/
  | and (d : Reg) (a : Reg) (b : Reg)
  /-- R145. Writes the bitwise OR of a and b to d. -/
  | or (d : Reg) (a : Reg) (b : Reg)
  /-- R145. Writes the bitwise XOR of a and b to d. -/
  | xor (d : Reg) (a : Reg) (b : Reg)
  /-- R145. Writes a AND NOT b to d. -/
  | andn (d : Reg) (a : Reg) (b : Reg)
  /-- R145. Writes a OR NOT b to d. -/
  | orn (d : Reg) (a : Reg) (b : Reg)
  /-- R145. Writes NOT (a XOR b) to d. -/
  | xnor (d : Reg) (a : Reg) (b : Reg)
  /-- R145. Writes the sign-extended low 32 bits of a plus b to d. -/
  | addw (d : Reg) (a : Reg) (b : Reg)
  /-- R145. Writes the sign-extended low 32 bits of a minus b to d. -/
  | subw (d : Reg) (a : Reg) (b : Reg)
  /-- R145. Writes a plus b shifted left by 1 to d. -/
  | lea1 (d : Reg) (a : Reg) (b : Reg)
  /-- R145. Writes a plus b shifted left by 2 to d. -/
  | lea2 (d : Reg) (a : Reg) (b : Reg)
  /-- R145. Writes a plus b shifted left by 3 to d. -/
  | lea3 (d : Reg) (a : Reg) (b : Reg)
  /-- R145. Writes a plus b shifted left by 4 to d. -/
  | lea4 (d : Reg) (a : Reg) (b : Reg)
  /-- R146. Forms a named-scratchpad address from a packed core name and an offset. -/
  | gname (d : Reg) (a : Reg) (b : Reg)
  /-- R147. Shifts a left by b[5:0]. -/
  | sll (d : Reg) (a : Reg) (b : Reg)
  /-- R147. Shifts a right with zero fill by b[5:0]. -/
  | srl (d : Reg) (a : Reg) (b : Reg)
  /-- R147. Shifts a right with sign fill by b[5:0]. -/
  | sra (d : Reg) (a : Reg) (b : Reg)
  /-- R147. Rotates a left by b[5:0]. -/
  | rol (d : Reg) (a : Reg) (b : Reg)
  /-- R147. Rotates a right by b[5:0]. -/
  | ror (d : Reg) (a : Reg) (b : Reg)
  /-- R147. Shifts the low word of a left and sign-extends the 32-bit result. -/
  | sllw (d : Reg) (a : Reg) (b : Reg)
  /-- R147. Shifts the low word of a right with zero fill and sign-extends. -/
  | srlw (d : Reg) (a : Reg) (b : Reg)
  /-- R147. Shifts the low word of a right with sign fill and sign-extends. -/
  | sraw (d : Reg) (a : Reg) (b : Reg)
  /-- R147. Counts the leading zero bits of a. -/
  | clz (d : Reg) (a : Reg)
  /-- R147. Counts the trailing zero bits of a. -/
  | ctz (d : Reg) (a : Reg)
  /-- R147. Counts the one bits of a. -/
  | popc (d : Reg) (a : Reg)
  /-- R147. Reverses the bit order of a. -/
  | brev (d : Reg) (a : Reg)
  /-- R147. Reverses the byte order of a. -/
  | bswap (d : Reg) (a : Reg)
  /-- R148. Gathers the bits of a selected by mask b into the low bits of d. -/
  | bext (d : Reg) (a : Reg) (b : Reg)
  /-- R148. Scatters the low bits of a to the positions selected by mask b. -/
  | bdep (d : Reg) (a : Reg) (b : Reg)
  /-- R149. Writes the low 64 bits of a times b. -/
  | mul (d : Reg) (a : Reg) (b : Reg)
  /-- R149. Writes the high 64 bits of the signed product. -/
  | mulhI64 (d : Reg) (a : Reg) (b : Reg)
  /-- R149. Writes the high 64 bits of the unsigned product. -/
  | mulhW64 (d : Reg) (a : Reg) (b : Reg)
  /-- R149. Writes the full 64-bit product of the sign-extended low words. -/
  | mulI32 (d : Reg) (a : Reg) (b : Reg)
  /-- R149. Writes the signed 64-bit quotient. -/
  | divI64 (d : Reg) (a : Reg) (b : Reg)
  /-- R149. Writes the unsigned 64-bit quotient. -/
  | divW64 (d : Reg) (a : Reg) (b : Reg)
  /-- R149. Writes the signed 64-bit remainder. -/
  | remI64 (d : Reg) (a : Reg) (b : Reg)
  /-- R149. Writes the unsigned 64-bit remainder. -/
  | remW64 (d : Reg) (a : Reg) (b : Reg)
  /-- R149. Writes the sign-extended signed 32-bit quotient. -/
  | divI32 (d : Reg) (a : Reg) (b : Reg)
  /-- R149. Writes the zero-extended unsigned 32-bit quotient. -/
  | divW32 (d : Reg) (a : Reg) (b : Reg)
  /-- R149. Writes the sign-extended signed 32-bit remainder. -/
  | remI32 (d : Reg) (a : Reg) (b : Reg)
  /-- R149. Writes the zero-extended unsigned 32-bit remainder. -/
  | remW32 (d : Reg) (a : Reg) (b : Reg)
  /-- R150. Writes 1 if a equals b, else 0. -/
  | seq (d : Reg) (a : Reg) (b : Reg)
  /-- R150. Writes 1 if a differs from b, else 0. -/
  | sne (d : Reg) (a : Reg) (b : Reg)
  /-- R150. Writes 1 if a is less than b, signed. -/
  | sltI64 (d : Reg) (a : Reg) (b : Reg)
  /-- R150. Writes 1 if a is less than b, unsigned. -/
  | sltW64 (d : Reg) (a : Reg) (b : Reg)
  /-- R150. Writes 1 if a is at most b, signed. -/
  | sleI64 (d : Reg) (a : Reg) (b : Reg)
  /-- R150. Writes 1 if a is at most b, unsigned. -/
  | sleW64 (d : Reg) (a : Reg) (b : Reg)
  /-- R150. Writes the signed smaller of a and b. -/
  | minI64 (d : Reg) (a : Reg) (b : Reg)
  /-- R150. Writes the unsigned smaller of a and b. -/
  | minW64 (d : Reg) (a : Reg) (b : Reg)
  /-- R150. Writes the signed larger of a and b. -/
  | maxI64 (d : Reg) (a : Reg) (b : Reg)
  /-- R150. Writes the unsigned larger of a and b. -/
  | maxW64 (d : Reg) (a : Reg) (b : Reg)
  /-- R150. Writes 0 if b is nonzero, else a. -/
  | czn (d : Reg) (a : Reg) (b : Reg)
  /-- R150. Writes 0 if b is zero, else a. -/
  | czz (d : Reg) (a : Reg) (b : Reg)
  /-- R159. Adds two binary64 or binary32 values with one rounding. -/
  | fadd (t : SFmt) (rm : Rm) (d : Reg) (a : Reg) (b : Reg)
  /-- R159. Subtracts two floating-point values with one rounding. -/
  | fsub (t : SFmt) (rm : Rm) (d : Reg) (a : Reg) (b : Reg)
  /-- R159. Multiplies two floating-point values with one rounding. -/
  | fmul (t : SFmt) (rm : Rm) (d : Reg) (a : Reg) (b : Reg)
  /-- R159. Divides two floating-point values with one rounding. -/
  | fdiv (t : SFmt) (rm : Rm) (d : Reg) (a : Reg) (b : Reg)
  /-- R159. Takes the rounded square root of a. -/
  | fsqrt (t : SFmt) (rm : Rm) (d : Reg) (a : Reg)
  /-- R161. Writes the minimumNumber of a and b. -/
  | fmin (t : SFmt) (d : Reg) (a : Reg) (b : Reg)
  /-- R161. Writes the maximumNumber of a and b. -/
  | fmax (t : SFmt) (d : Reg) (a : Reg) (b : Reg)
  /-- R162. Writes a with b's sign. -/
  | fsgnj (t : SFmt) (d : Reg) (a : Reg) (b : Reg)
  /-- R162. Writes a with the inverse of b's sign. -/
  | fsgnjn (t : SFmt) (d : Reg) (a : Reg) (b : Reg)
  /-- R162. Writes a with the XOR of both signs. -/
  | fsgnjx (t : SFmt) (d : Reg) (a : Reg) (b : Reg)
  /-- R159. Computes d plus a times b fused with one rounding. -/
  | fmac (t : SFmt) (rm : Rm) (d : Reg) (a : Reg) (b : Reg)
  /-- R159. Computes d minus a times b fused with one rounding. -/
  | fmsc (t : SFmt) (rm : Rm) (d : Reg) (a : Reg) (b : Reg)
  /-- R163. Narrows binary64 to binary32. -/
  | fcvtF32F64 (rm : Rm) (d : Reg) (a : Reg)
  /-- R163. Widens binary32 to binary64 exactly. -/
  | fcvtF64F32 (d : Reg) (a : Reg)
  /-- R163. Narrows binary32 to binary16. -/
  | fcvtF16F32 (rm : Rm) (d : Reg) (a : Reg)
  /-- R163. Widens binary16 to binary32 exactly. -/
  | fcvtF32F16 (d : Reg) (a : Reg)
  /-- R163. Narrows binary32 to bfloat16. -/
  | fcvtBf16F32 (rm : Rm) (d : Reg) (a : Reg)
  /-- R163. Widens bfloat16 to binary32 exactly. -/
  | fcvtF32Bf16 (d : Reg) (a : Reg)
  /-- R163. Narrows binary64 to binary16. -/
  | fcvtF16F64 (rm : Rm) (d : Reg) (a : Reg)
  /-- R163. Widens binary16 to binary64 exactly. -/
  | fcvtF64F16 (d : Reg) (a : Reg)
  /-- R163. Converts a signed 64-bit integer to binary64. -/
  | fcvtF64I64 (rm : Rm) (d : Reg) (a : Reg)
  /-- R163. Converts an unsigned 64-bit integer to binary64. -/
  | fcvtF64W64 (rm : Rm) (d : Reg) (a : Reg)
  /-- R163. Converts a signed 64-bit integer to binary32. -/
  | fcvtF32I64 (rm : Rm) (d : Reg) (a : Reg)
  /-- R163. Converts an unsigned 64-bit integer to binary32. -/
  | fcvtF32W64 (rm : Rm) (d : Reg) (a : Reg)
  /-- R163. Converts binary64 to a saturated signed 64-bit integer. -/
  | fcvtI64F64 (rm : Rm) (d : Reg) (a : Reg)
  /-- R163. Converts binary64 to a saturated unsigned 64-bit integer. -/
  | fcvtW64F64 (rm : Rm) (d : Reg) (a : Reg)
  /-- R163. Converts binary32 to a saturated signed 64-bit integer. -/
  | fcvtI64F32 (rm : Rm) (d : Reg) (a : Reg)
  /-- R163. Converts binary32 to a saturated unsigned 64-bit integer. -/
  | fcvtW64F32 (rm : Rm) (d : Reg) (a : Reg)
  /-- R163. Converts binary64 to a saturated signed 32-bit integer. -/
  | fcvtI32F64 (rm : Rm) (d : Reg) (a : Reg)
  /-- R163. Converts binary64 to a saturated unsigned 32-bit integer. -/
  | fcvtW32F64 (rm : Rm) (d : Reg) (a : Reg)
  /-- R163. Converts binary32 to a saturated signed 32-bit integer. -/
  | fcvtI32F32 (rm : Rm) (d : Reg) (a : Reg)
  /-- R163. Converts binary32 to a saturated unsigned 32-bit integer. -/
  | fcvtW32F32 (rm : Rm) (d : Reg) (a : Reg)
  /-- R164. Writes a one-hot class of a binary64 value. -/
  | fclassF64 (d : Reg) (a : Reg)
  /-- R164. Writes a one-hot class of a binary32 value. -/
  | fclassF32 (d : Reg) (a : Reg)
  /-- R165. Compares binary64 values for equality. -/
  | feqF64 (d : Reg) (a : Reg) (b : Reg)
  /-- R165. Compares binary64 values for less than. -/
  | fltF64 (d : Reg) (a : Reg) (b : Reg)
  /-- R165. Compares binary64 values for less or equal. -/
  | fleF64 (d : Reg) (a : Reg) (b : Reg)
  /-- R165. Compares binary32 values for equality. -/
  | feqF32 (d : Reg) (a : Reg) (b : Reg)
  /-- R165. Compares binary32 values for less than. -/
  | fltF32 (d : Reg) (a : Reg) (b : Reg)
  /-- R165. Compares binary32 values for less or equal. -/
  | fleF32 (d : Reg) (a : Reg) (b : Reg)
  /-- R151. Adds a sign-extended immediate to a. -/
  | addi (d : Reg) (a : Reg) (imm : BitVec 15)
  /-- R151. ANDs a with a sign-extended immediate. -/
  | andi (d : Reg) (a : Reg) (imm : BitVec 15)
  /-- R151. ORs a with a sign-extended immediate. -/
  | ori (d : Reg) (a : Reg) (imm : BitVec 15)
  /-- R151. XORs a with a sign-extended immediate. -/
  | xori (d : Reg) (a : Reg) (imm : BitVec 15)
  /-- R151. Writes 1 if a is less than the immediate, signed. -/
  | sltiI64 (d : Reg) (a : Reg) (imm : BitVec 15)
  /-- R151. Shifts a left by an immediate amount. -/
  | slli (d : Reg) (a : Reg) (sh : BitVec 6)
  /-- R151. Shifts a right with zero fill by an immediate amount. -/
  | srli (d : Reg) (a : Reg) (sh : BitVec 6)
  /-- R151. Shifts a right with sign fill by an immediate amount. -/
  | srai (d : Reg) (a : Reg) (sh : BitVec 6)
  /-- R151. Rotates a right by an immediate amount. -/
  | rori (d : Reg) (a : Reg) (sh : BitVec 6)
  /-- R151. Writes 1 if a is less than the sign-extended immediate, unsigned. -/
  | sltiW64 (d : Reg) (a : Reg) (imm : BitVec 15)
  /-- R152. Loads a sign-extended upper immediate into d. -/
  | lih (d : Reg) (imm : BitVec 20)
  /-- R152. Adds an upper immediate to the PC. -/
  | addpc (d : Reg) (imm : BitVec 20)
  /-- R154. Jumps PC-relative and writes the link. -/
  | jal (d : Reg) (imm : BitVec 20)
  /-- R154. Jumps to a plus an immediate and writes the link. -/
  | jalr (d : Reg) (a : Reg) (imm : BitVec 15)
  /-- R153. Branches if a equals b. -/
  | beq (a : Reg) (b : Reg) (off : BitVec 15)
  /-- R153. Branches if a differs from b. -/
  | bne (a : Reg) (b : Reg) (off : BitVec 15)
  /-- R153. Branches if a is less than b, signed. -/
  | bltI64 (a : Reg) (b : Reg) (off : BitVec 15)
  /-- R153. Branches if a is at least b, signed. -/
  | bgeI64 (a : Reg) (b : Reg) (off : BitVec 15)
  /-- R153. Branches if a is less than b, unsigned. -/
  | bltW64 (a : Reg) (b : Reg) (off : BitVec 15)
  /-- R153. Branches if a is at least b, unsigned. -/
  | bgeW64 (a : Reg) (b : Reg) (off : BitVec 15)
  /-- R157. Starts a hardware loop with a count from a register. -/
  | loop (a : Reg) (len : BitVec 15)
  /-- R157. Starts a hardware loop with an immediate count. -/
  | loopi (n : BitVec 10) (len : BitVec 15)
  /-- R132. Does nothing. -/
  | nop
  /-- R132. Hints a prefetch of a virtual line into the L1. -/
  | pf (a : Reg) (imm : BitVec 15)
  /-- R132. Hints that the next conditional branch is likely taken. -/
  | hlikely
  /-- R132. Hints that the next conditional branch is likely not taken. -/
  | hunlikely
  /-- R169. Loads a sign-extended byte. -/
  | ldI8 (d : Reg) (a : Reg) (la : La) (imm : BitVec 11)
  /-- R169. Loads a zero-extended byte. -/
  | ldW8 (d : Reg) (a : Reg) (la : La) (imm : BitVec 11)
  /-- R169. Loads a sign-extended halfword. -/
  | ldI16 (d : Reg) (a : Reg) (la : La) (imm : BitVec 11)
  /-- R169. Loads a zero-extended halfword. -/
  | ldW16 (d : Reg) (a : Reg) (la : La) (imm : BitVec 11)
  /-- R169. Loads a sign-extended word. -/
  | ldI32 (d : Reg) (a : Reg) (la : La) (imm : BitVec 11)
  /-- R169. Loads a zero-extended word. -/
  | ldW32 (d : Reg) (a : Reg) (la : La) (imm : BitVec 11)
  /-- R169. Loads a doubleword. -/
  | ldI64 (d : Reg) (a : Reg) (la : La) (imm : BitVec 11)
  /-- R170. Stores a byte. -/
  | stW8 (d : Reg) (a : Reg) (la : La) (imm : BitVec 11)
  /-- R170. Stores a halfword. -/
  | stW16 (d : Reg) (a : Reg) (la : La) (imm : BitVec 11)
  /-- R170. Stores a word. -/
  | stW32 (d : Reg) (a : Reg) (la : La) (imm : BitVec 11)
  /-- R170. Stores a doubleword. -/
  | stW64 (d : Reg) (a : Reg) (la : La) (imm : BitVec 11)
  /-- R171. Loads at a plus a scaled index. -/
  | ldx (t : LdTy) (d : Reg) (a : Reg) (b : Reg) (la : La)
  /-- R171. Stores d at a plus a scaled index. -/
  | stx (w : BitVec 2) (d : Reg) (a : Reg) (b : Reg) (la : La)
  /-- R172. Stores at the home and returns the line's serial. -/
  | stAck (w : BitVec 2) (d : Reg) (a : Reg) (b : Reg) (la : La)
  /-- R173. Loads at the home and places the line's serial in LASTSEQ. -/
  | ldAck (w : BitVec 2) (d : Reg) (a : Reg) (b : Reg) (la : La)
  /-- R174. Atomically swaps a value at its home. -/
  | aswap (w : AWidth) (d : Reg) (a : Reg) (b : Reg) (la : La)
  /-- R174. Atomically compares and swaps at its home. -/
  | acas (w : AWidth) (d : Reg) (a : Reg) (b : Reg) (la : La)
  /-- R174. Atomically adds at its home. -/
  | aadd (w : AWidth) (d : Reg) (a : Reg) (b : Reg) (la : La)
  /-- R174. Atomically ANDs at its home. -/
  | aand (w : AWidth) (d : Reg) (a : Reg) (b : Reg) (la : La)
  /-- R174. Atomically ORs at its home. -/
  | aor (w : AWidth) (d : Reg) (a : Reg) (b : Reg) (la : La)
  /-- R174. Atomically XORs at its home. -/
  | axor (w : AWidth) (d : Reg) (a : Reg) (b : Reg) (la : La)
  /-- R174. Atomically keeps the smaller value at its home. -/
  | amin (sg : Bool) (w : AWidth) (d : Reg) (a : Reg) (b : Reg) (la : La)
  /-- R174. Atomically keeps the larger value at its home. -/
  | amax (sg : Bool) (w : AWidth) (d : Reg) (a : Reg) (b : Reg) (la : La)
  /-- R175. Waits for the release conditions of its scope before later writes. -/
  | fenceRel (sc : Scope) (la : La)
  /-- R175. Waits for earlier reads and performs the scope's acquire action. -/
  | fenceAcq (sc : Scope) (la : La)
  /-- R175. Performs a release and then an acquire of its scope. -/
  | fenceFull (sc : Scope) (la : La)
  /-- R175. Waits until the acknowledgement counter is zero. -/
  | fenceAck (la : La)
  /-- R176. Looks up a granule in the almanac. -/
  | alook (d : Reg) (a : Reg) (la : La)
  /-- R177. Claims an almanac entry and starts a copy of the granule into its slot. -/
  | alfill (d : Reg) (a : Reg) (b : Reg) (la : La)
  /-- R178. Invalidates an almanac entry. -/
  | alevict (a : Reg) (la : La)
  /-- R181. Arrives at a group barrier and waits for the episode to complete. -/
  | bar (a : Reg) (la : La)
  /-- R182. Sends a value to the group root for broadcast. -/
  | bcastSend (a : Reg) (b : Reg) (la : La)
  /-- R182. Pops the oldest broadcast value for the group. -/
  | bcastRecv (d : Reg) (a : Reg) (la : La)
  /-- R183. Contributes to a group sum reduction. -/
  | redAdd (d : Reg) (a : Reg) (b : Reg) (la : La)
  /-- R183. Contributes to a signed minimum reduction. -/
  | redMinI64 (d : Reg) (a : Reg) (b : Reg) (la : La)
  /-- R183. Contributes to an unsigned minimum reduction. -/
  | redMinW64 (d : Reg) (a : Reg) (b : Reg) (la : La)
  /-- R183. Contributes to a signed maximum reduction. -/
  | redMaxI64 (d : Reg) (a : Reg) (b : Reg) (la : La)
  /-- R183. Contributes to an unsigned maximum reduction. -/
  | redMaxW64 (d : Reg) (a : Reg) (b : Reg) (la : La)
  /-- R184. Arrives at a ring's fill barrier. -/
  | daybarFill (r : BitVec 5) (la : La)
  /-- R184. Arrives at a ring's drain barrier. -/
  | daybarDrain (r : BitVec 5) (la : La)
  /-- R185. Waits until a queue holds an entry. -/
  | vigilQne (d : Reg) (q : BitVec 5) (x : BitVec 5) (la : La)
  /-- R185. Waits until a queue has room. -/
  | vigilQnf (d : Reg) (q : BitVec 5) (x : BitVec 5) (la : La)
  /-- R185. Waits until a ring's drain day holds data. -/
  | vigilReady (d : Reg) (q : BitVec 5) (x : BitVec 5) (la : La)
  /-- R185. Waits until a ring's fill barrier would not wait for room. -/
  | vigilRoom (d : Reg) (q : BitVec 5) (x : BitVec 5) (la : La)
  /-- R186. Writes the number of entries in a queue. -/
  | qcount (d : Reg) (q : BitVec 5) (la : La)
  /-- R187. Pushes a frame at the near end of the core's deque. -/
  | spawn (a : Reg) (la : La)
  /-- R188. Pops or steals a frame and continues at its entry. -/
  | take (d : Reg) (la : La)
  /-- R189. Releases, decrements a join counter and skips unless last. -/
  | join (a : Reg) (la : La)
  /-- R190. Waits until the deque holds a frame or 2^12 cc pass. -/
  | yield (la : La)
  /-- R191. Zeroes the shadow format registers. -/
  | retire (la : La)
  /-- R261. Clears a long accumulator. -/
  | laz (a : Reg) (la : La)
  /-- R261. Adds a binary32 value exactly to a long accumulator. -/
  | laadd (a : Reg) (b : Reg) (la : La)
  /-- R261. Adds an exact binary32 product to a long accumulator. -/
  | laaddp (a : Reg) (b : Reg) (d : Reg) (la : La)
  /-- R261. Rounds a long accumulator to binary32. -/
  | larndF32 (d : Reg) (a : Reg) (la : La)
  /-- R261. Rounds a long accumulator to binary64. -/
  | larndF64 (d : Reg) (a : Reg) (la : La)
  /-- R251. Starts a contiguous byte copy. -/
  | cpy (d : Reg) (a : Reg) (b : Reg) (la : La)
  /-- R252. Starts a two-dimensional row copy. -/
  | cpy2 (d : Reg) (a : Reg) (b : Reg) (la : La)
  /-- R253. Starts a halo fill from neighbouring cores. -/
  | cpyh (d : Reg) (a : Reg) (b : Reg) (la : La)
  /-- R254. Starts a copy with format conversion in the NIs. -/
  | cpyf (d : Reg) (a : Reg) (b : Reg) (la : La)
  /-- R258. Cancels the copy bound to a register. -/
  | cpycan (d : Reg) (la : La)
  /-- R247. Copies an engine register to a general register. -/
  | erd (d : Reg) (a : Reg)
  /-- R247. Copies a general register to an engine register. -/
  | ewr (d : Reg) (a : Reg)
  /-- R195. Loads 64 bytes into the active bytes of a vector register. -/
  | vld (d : Reg) (a : Reg) (b : Reg) (la : La) (p : Pred)
  /-- R195. Stores the active bytes of a vector register. -/
  | vst (d : Reg) (a : Reg) (b : Reg) (la : La) (p : Pred)
  /-- R195. Loads 64 bytes and zeroes inactive bytes. -/
  | vldZ (d : Reg) (a : Reg) (b : Reg) (la : La) (p : Pred)
  /-- R196. Gathers 32-bit elements by index. -/
  | vgathW32 (d : Reg) (a : Reg) (b : Reg) (la : La) (p : Pred)
  /-- R196. Scatters 32-bit elements by index. -/
  | vscatW32 (d : Reg) (a : Reg) (b : Reg) (la : La) (p : Pred)
  /-- R196. Gathers 16-bit elements by index. -/
  | vgathW16 (d : Reg) (a : Reg) (b : Reg) (la : La) (p : Pred)
  /-- R196. Scatters 16-bit elements by index. -/
  | vscatW16 (d : Reg) (a : Reg) (b : Reg) (la : La) (p : Pred)
  /-- R195. Loads 4 bytes and broadcasts them to active lanes. -/
  | vlbc (d : Reg) (a : Reg) (b : Reg) (la : La) (p : Pred)
  /-- R198. Adds integer lanes modulo the width. -/
  | vadd (t : LaneTy) (d : Reg) (a : Reg) (b : Reg) (p : Pred) (z : Bool)
  /-- R198. Subtracts integer lanes modulo the width. -/
  | vsub (t : LaneTy) (d : Reg) (a : Reg) (b : Reg) (p : Pred) (z : Bool)
  /-- R198. Multiplies integer lanes modulo the width. -/
  | vmul (t : LaneTy) (d : Reg) (a : Reg) (b : Reg) (p : Pred) (z : Bool)
  /-- R198. Writes the high half of integer lane products. -/
  | vmulh (t : LaneTy) (d : Reg) (a : Reg) (b : Reg) (p : Pred) (z : Bool)
  /-- R198. Writes the smaller integer lane. -/
  | vmin (t : LaneTy) (d : Reg) (a : Reg) (b : Reg) (p : Pred) (z : Bool)
  /-- R198. Writes the larger integer lane. -/
  | vmax (t : LaneTy) (d : Reg) (a : Reg) (b : Reg) (p : Pred) (z : Bool)
  /-- R198. Adds integer lanes with saturation. -/
  | vadds (t : LaneTy) (d : Reg) (a : Reg) (b : Reg) (p : Pred) (z : Bool)
  /-- R198. Subtracts integer lanes with saturation. -/
  | vsubs (t : LaneTy) (d : Reg) (a : Reg) (b : Reg) (p : Pred) (z : Bool)
  /-- R199. ANDs two vector registers. -/
  | vand (d : Reg) (a : Reg) (b : Reg) (p : Pred) (z : Bool)
  /-- R199. ORs two vector registers. -/
  | vor (d : Reg) (a : Reg) (b : Reg) (p : Pred) (z : Bool)
  /-- R199. XORs two vector registers. -/
  | vxor (d : Reg) (a : Reg) (b : Reg) (p : Pred) (z : Bool)
  /-- R199. ANDs va with NOT vb. -/
  | vandn (d : Reg) (a : Reg) (b : Reg) (p : Pred) (z : Bool)
  /-- R199. Shifts lanes left. -/
  | vsll (t : LaneTy) (d : Reg) (a : Reg) (b : Reg) (p : Pred) (z : Bool)
  /-- R199. Shifts lanes right with zero fill. -/
  | vsrl (t : LaneTy) (d : Reg) (a : Reg) (b : Reg) (p : Pred) (z : Bool)
  /-- R199. Shifts lanes right with sign fill. -/
  | vsra (t : LaneTy) (d : Reg) (a : Reg) (b : Reg) (p : Pred) (z : Bool)
  /-- R200. Adds float lanes. -/
  | vfadd (t : FLane) (d : Reg) (a : Reg) (b : Reg) (p : Pred) (z : Bool)
  /-- R200. Subtracts float lanes. -/
  | vfsub (t : FLane) (d : Reg) (a : Reg) (b : Reg) (p : Pred) (z : Bool)
  /-- R200. Multiplies float lanes. -/
  | vfmul (t : FLane) (d : Reg) (a : Reg) (b : Reg) (p : Pred) (z : Bool)
  /-- R200. Divides float lanes. -/
  | vfdiv (t : FLane) (d : Reg) (a : Reg) (b : Reg) (p : Pred) (z : Bool)
  /-- R200. Takes the square root of float lanes. -/
  | vfsqrt (t : FLane) (d : Reg) (a : Reg) (p : Pred) (z : Bool)
  /-- R200. Writes the minimumNumber of float lanes. -/
  | vfmin (t : FLane) (d : Reg) (a : Reg) (b : Reg) (p : Pred) (z : Bool)
  /-- R200. Writes the maximumNumber of float lanes. -/
  | vfmax (t : FLane) (d : Reg) (a : Reg) (b : Reg) (p : Pred) (z : Bool)
  /-- R200. Clears the sign bit of float lanes. -/
  | vfabs (t : FLane) (d : Reg) (a : Reg) (p : Pred) (z : Bool)
  /-- R201. Fused multiply-add of binary32 lanes. -/
  | vfmaF32 (d : Reg) (a : Reg) (b : Reg) (c : Reg) (p : Pred)
  /-- R201. Fused multiply-subtract of binary32 lanes. -/
  | vfmsF32 (d : Reg) (a : Reg) (b : Reg) (c : Reg) (p : Pred)
  /-- R201. Negated fused multiply-add of binary32 lanes. -/
  | vfnmaF32 (d : Reg) (a : Reg) (b : Reg) (c : Reg) (p : Pred)
  /-- R201. Negated fused multiply-subtract of binary32 lanes. -/
  | vfnmsF32 (d : Reg) (a : Reg) (b : Reg) (c : Reg) (p : Pred)
  /-- R201. Fused multiply-add of binary16 lanes. -/
  | vfmaF16 (d : Reg) (a : Reg) (b : Reg) (c : Reg) (p : Pred)
  /-- R201. Fused multiply-add of bfloat16 lanes. -/
  | vfmaBf16 (d : Reg) (a : Reg) (b : Reg) (c : Reg) (p : Pred)
  /-- R201. Integer multiply-add of 32-bit lanes. -/
  | vmaddI32 (d : Reg) (a : Reg) (b : Reg) (c : Reg) (p : Pred)
  /-- R201. Integer multiply-add of 16-bit lanes. -/
  | vmaddI16 (d : Reg) (a : Reg) (b : Reg) (c : Reg) (p : Pred)
  /-- R202. Sets predicate lanes where integer lanes are equal. -/
  | vceq (t : LaneTy) (d : Reg) (a : Reg) (b : Reg) (p : Pred) (z : Bool)
  /-- R202. Sets predicate lanes where integer lanes differ. -/
  | vcne (t : LaneTy) (d : Reg) (a : Reg) (b : Reg) (p : Pred) (z : Bool)
  /-- R202. Sets predicate lanes where integer lanes are less. -/
  | vclt (t : LaneTy) (d : Reg) (a : Reg) (b : Reg) (p : Pred) (z : Bool)
  /-- R202. Sets predicate lanes where integer lanes are less or equal. -/
  | vcle (t : LaneTy) (d : Reg) (a : Reg) (b : Reg) (p : Pred) (z : Bool)
  /-- R202. Sets predicate lanes where float lanes are equal. -/
  | vcfeq (t : FLane) (d : Reg) (a : Reg) (b : Reg) (p : Pred) (z : Bool)
  /-- R202. Sets predicate lanes where float lanes are less. -/
  | vcflt (t : FLane) (d : Reg) (a : Reg) (b : Reg) (p : Pred) (z : Bool)
  /-- R202. Sets predicate lanes where float lanes are less or equal. -/
  | vcfle (t : FLane) (d : Reg) (a : Reg) (b : Reg) (p : Pred) (z : Bool)
  /-- R202. Sets predicate lanes where either float lane is NaN. -/
  | vcfun (t : FLane) (d : Reg) (a : Reg) (b : Reg) (p : Pred) (z : Bool)
  /-- R203. ANDs two predicates. -/
  | pand (d : Reg) (a : Reg) (b : Reg)
  /-- R203. ORs two predicates. -/
  | por (d : Reg) (a : Reg) (b : Reg)
  /-- R203. XORs two predicates. -/
  | pxor (d : Reg) (a : Reg) (b : Reg)
  /-- R203. ANDs a predicate with NOT another. -/
  | pandn (d : Reg) (a : Reg) (b : Reg)
  /-- R203. Inverts a predicate. -/
  | pnot (d : Reg) (a : Reg)
  /-- R203. Loads a predicate from a general register. -/
  | pfromg (d : Reg) (a : Reg)
  /-- R203. Copies a predicate to a general register. -/
  | ptog (d : Reg) (a : Reg)
  /-- R204. Permutes lanes by index. -/
  | vperm (t : LaneTy) (d : Reg) (a : Reg) (b : Reg) (p : Pred) (z : Bool)
  /-- R204. Interleaves the low halves of two registers. -/
  | vzipl (t : LaneTy) (d : Reg) (a : Reg) (b : Reg) (p : Pred) (z : Bool)
  /-- R204. Interleaves the high halves of two registers. -/
  | vziph (t : LaneTy) (d : Reg) (a : Reg) (b : Reg) (p : Pred) (z : Bool)
  /-- R204. Takes the even lanes of two registers. -/
  | vunzpe (t : LaneTy) (d : Reg) (a : Reg) (b : Reg) (p : Pred) (z : Bool)
  /-- R204. Takes the odd lanes of two registers. -/
  | vunzpo (t : LaneTy) (d : Reg) (a : Reg) (b : Reg) (p : Pred) (z : Bool)
  /-- R204. Reverses lane order. -/
  | vrev (t : LaneTy) (d : Reg) (a : Reg) (p : Pred) (z : Bool)
  /-- R204. Slides lanes by a signed scalar amount. -/
  | vslide (t : LaneTy) (d : Reg) (a : Reg) (b : Reg) (p : Pred) (z : Bool)
  /-- R204. Broadcasts one lane selected by a scalar. -/
  | vbcl (t : LaneTy) (d : Reg) (a : Reg) (b : Reg) (p : Pred) (z : Bool)
  /-- R205. Sums active integer lanes into lane 0. -/
  | vradd (t : LaneTy) (d : Reg) (a : Reg) (b : Reg) (p : Pred)
  /-- R205. Reduces active integer lanes to their minimum. -/
  | vrmin (t : LaneTy) (d : Reg) (a : Reg) (b : Reg) (p : Pred)
  /-- R205. Reduces active integer lanes to their maximum. -/
  | vrmax (t : LaneTy) (d : Reg) (a : Reg) (b : Reg) (p : Pred)
  /-- R205. Sums active float lanes in a fixed pairwise tree. -/
  | vrfadd (t : FLane) (d : Reg) (a : Reg) (b : Reg) (p : Pred)
  /-- R205. Reduces active float lanes to their minimumNumber. -/
  | vrfmin (t : FLane) (d : Reg) (a : Reg) (b : Reg) (p : Pred)
  /-- R205. Reduces active float lanes to their maximumNumber. -/
  | vrfmax (t : FLane) (d : Reg) (a : Reg) (b : Reg) (p : Pred)
  /-- R206. Widens binary16 lanes to binary32. -/
  | vcvtF32F16 (d : Reg) (a : Reg) (p : Pred)
  /-- R206. Narrows binary32 lanes of two registers to binary16. -/
  | vcvtF16F32 (d : Reg) (a : Reg) (b : Reg) (p : Pred)
  /-- R206. Widens bfloat16 lanes to binary32. -/
  | vcvtF32Bf16 (d : Reg) (a : Reg) (p : Pred)
  /-- R206. Narrows binary32 lanes to bfloat16. -/
  | vcvtBf16F32 (d : Reg) (a : Reg) (b : Reg) (p : Pred)
  /-- R206. Converts signed 32-bit lanes to binary32. -/
  | vcvtF32I32 (d : Reg) (a : Reg) (p : Pred)
  /-- R206. Converts unsigned 32-bit lanes to binary32. -/
  | vcvtF32W32 (d : Reg) (a : Reg) (p : Pred)
  /-- R206. Converts binary32 lanes to saturated signed integers. -/
  | vcvtI32F32 (d : Reg) (a : Reg) (p : Pred)
  /-- R206. Converts binary32 lanes to saturated unsigned integers. -/
  | vcvtW32F32 (d : Reg) (a : Reg) (p : Pred)
  /-- R206. Sign-extends bytes to 32-bit lanes. -/
  | vcvtI32I8 (d : Reg) (a : Reg) (p : Pred)
  /-- R206. Saturates 32-bit lanes of two registers to bytes. -/
  | vcvtI8I32 (d : Reg) (a : Reg) (b : Reg) (p : Pred)
  /-- R207. Widens half a D16 block to binary32 lanes. -/
  | vcvtF32D16 (d : Reg) (a : Reg) (b : Reg) (p : Pred)
  /-- R207. Widens half a D8 block to binary32 lanes. -/
  | vcvtF32D8 (d : Reg) (a : Reg) (b : Reg) (p : Pred)
  /-- R207. Widens half a D4 block to binary32 lanes. -/
  | vcvtF32D4 (d : Reg) (a : Reg) (b : Reg) (p : Pred)
  /-- R207. Encodes 32 binary32 values as a D16 block under a given scale pair. -/
  | vcvtD16F32 (d : Reg) (a : Reg) (b : Reg) (p : Pred)
  /-- R207. Encodes 32 binary32 values as a D8 block under a given scale pair. -/
  | vcvtD8F32 (d : Reg) (a : Reg) (b : Reg) (p : Pred)
  /-- R207. Encodes 32 binary32 values as a D4 block under a given scale pair. -/
  | vcvtD4F32 (d : Reg) (a : Reg) (b : Reg) (p : Pred)
  /-- R208. Widens MXFP8 E4M3 elements to binary32. -/
  | vcvtF32E4m3 (d : Reg) (a : Reg) (b : Reg) (p : Pred)
  /-- R208. Widens MXFP8 E5M2 elements to binary32. -/
  | vcvtF32E5m2 (d : Reg) (a : Reg) (b : Reg) (p : Pred)
  /-- R208. Widens MXFP6 E2M3 elements to binary32. -/
  | vcvtF32E2m3 (d : Reg) (a : Reg) (b : Reg) (p : Pred)
  /-- R208. Widens MXFP6 E3M2 elements to binary32. -/
  | vcvtF32E3m2 (d : Reg) (a : Reg) (b : Reg) (p : Pred)
  /-- R208. Widens MXFP4 E2M1 elements to binary32. -/
  | vcvtF32E2m1 (d : Reg) (a : Reg) (b : Reg) (p : Pred)
  /-- R208. Widens MXINT8 elements to binary32. -/
  | vcvtF32Mxi8 (d : Reg) (a : Reg) (b : Reg) (p : Pred)
  /-- R208. Encodes 32 binary32 values as an E4M3 block with its scale. -/
  | vcvtE4m3F32 (d : Reg) (a : Reg) (b : Reg) (p : Pred)
  /-- R208. Encodes 32 binary32 values as an E5M2 block with its scale. -/
  | vcvtE5m2F32 (d : Reg) (a : Reg) (b : Reg) (p : Pred)
  /-- R208. Encodes 32 binary32 values as an E2M3 block with its scale. -/
  | vcvtE2m3F32 (d : Reg) (a : Reg) (b : Reg) (p : Pred)
  /-- R208. Encodes 32 binary32 values as an E3M2 block with its scale. -/
  | vcvtE3m2F32 (d : Reg) (a : Reg) (b : Reg) (p : Pred)
  /-- R208. Encodes 32 binary32 values as an E2M1 block with its scale. -/
  | vcvtE2m1F32 (d : Reg) (a : Reg) (b : Reg) (p : Pred)
  /-- R208. Encodes 32 binary32 values as an MXINT8 block with its scale. -/
  | vcvtMxi8F32 (d : Reg) (a : Reg) (b : Reg) (p : Pred)
  /-- R210. Approximates the reciprocal of float lanes. -/
  | vrcp (t : FLane) (d : Reg) (a : Reg) (p : Pred) (z : Bool)
  /-- R210. Approximates the reciprocal square root of float lanes. -/
  | vrsqrt (t : FLane) (d : Reg) (a : Reg) (p : Pred) (z : Bool)
  /-- R210. Approximates 2^x of float lanes. -/
  | vexp2 (t : FLane) (d : Reg) (a : Reg) (p : Pred) (z : Bool)
  /-- R210. Approximates log2 of float lanes. -/
  | vlog2 (t : FLane) (d : Reg) (a : Reg) (p : Pred) (z : Bool)
  /-- R210. Approximates tanh of float lanes. -/
  | vtanh (t : FLane) (d : Reg) (a : Reg) (p : Pred) (z : Bool)
  /-- R210. Approximates the logistic function of float lanes. -/
  | vsigm (t : FLane) (d : Reg) (a : Reg) (p : Pred) (z : Bool)
  /-- R211. Copies lanes of va to vd. -/
  | vmov (t : LaneTy) (d : Reg) (a : Reg) (p : Pred) (z : Bool)
  /-- R211. Broadcasts a general register to active lanes. -/
  | vdup (t : LaneTy) (d : Reg) (a : Reg) (p : Pred) (z : Bool)
  /-- R211. Inserts a general register into one lane. -/
  | vins (t : LaneTy) (d : Reg) (a : Reg) (b : Reg)
  /-- R211. Extracts one lane into a general register. -/
  | vext (t : LaneTy) (d : Reg) (a : Reg) (b : Reg)
  /-- R211. Selects lanes of va or vb by predicate. -/
  | vmerge (t : LaneTy) (d : Reg) (a : Reg) (b : Reg) (p : Pred)
  /-- R209. Adds the exact dot product of two DX blocks to a binary32 accumulator. -/
  | vdxdot (t : DxTy) (d : Reg) (a : Reg) (b : Reg) (p : Pred)
  /-- R207. Computes the DX scale pair of 32 binary32 values. -/
  | vdxamax (t : DxTy) (d : Reg) (a : Reg) (b : Reg) (p : Pred)
  /-- R222. Appends a view node of a stored array and registers its lock. -/
  | tview (m : Tile) (a : Reg) (la : La)
  /-- R223. Appends a DXZ weight node for a B operand. -/
  | twload (m : Tile) (a : Reg) (la : La)
  /-- R224. Appends a masked tile product node, initial or accumulating. -/
  | tmma (m : Tile) (ma : Tile) (mb : Tile) (g : BitVec 5) (acc : Bool) (la : La)
  /-- R225. Appends an element-wise sum node. -/
  | tadd (m : Tile) (ma : Tile) (mb : Tile) (la : La)
  /-- R225. Appends an element-wise product node. -/
  | tmulw (m : Tile) (ma : Tile) (mb : Tile) (la : La)
  /-- R225. Appends a node scaling a tile by a binary32 scalar. -/
  | tscale (m : Tile) (ma : Tile) (b : Reg) (la : La)
  /-- R225. Appends a ReLU activation node. -/
  | tactRelu (m : Tile) (ma : Tile) (la : La)
  /-- R225. Appends a GELU activation node. -/
  | tactGelu (m : Tile) (ma : Tile) (la : La)
  /-- R225. Appends a logistic activation node. -/
  | tactSigm (m : Tile) (ma : Tile) (la : La)
  /-- R225. Appends a tanh activation node. -/
  | tactTanh (m : Tile) (ma : Tile) (la : La)
  /-- R225. Appends an exponential activation node. -/
  | tactExp (m : Tile) (ma : Tile) (la : La)
  /-- R226. Appends a format conversion node. -/
  | tcvt (m : Tile) (ma : Tile) (b : Reg) (la : La)
  /-- R227. Appends a row-sum reduction node. -/
  | tredRowsum (m : Tile) (ma : Tile) (la : La)
  /-- R227. Appends a column-sum reduction node. -/
  | tredColsum (m : Tile) (ma : Tile) (la : La)
  /-- R227. Appends a row-maximum reduction node. -/
  | tredRowmax (m : Tile) (ma : Tile) (la : La)
  /-- R227. Appends a column-maximum reduction node. -/
  | tredColmax (m : Tile) (ma : Tile) (la : La)
  /-- R228. Appends a row and column masking node. -/
  | tmask (m : Tile) (ma : Tile) (b : Reg) (la : La)
  /-- R229. Demands a region of a node and waits until it is materialised. -/
  | tforce (m : Tile) (a : Reg) (la : La)
  /-- R230. Demands a region and writes it through a map record. -/
  | tstore (m : Tile) (a : Reg) (b : Reg) (la : La)
  /-- R231. Empties a handle and releases its node or value. -/
  | tdrop (m : Tile) (la : La)
  /-- R234. Reads status, region, fault address or PC of a handle's node. -/
  | tquery (m : Tile) (a : Reg) (la : La)
  /-- R287. Traps with SCALL for a service request. -/
  | scall
  /-- R287. Traps with BREAK. -/
  | brk
  /-- R288. Returns from a trap, restoring status and loop state. -/
  | rett
  /-- R289. Waits for an enabled pending interrupt. -/
  | wfi
  /-- R290. Retires the core from its run once its deque is empty. -/
  | halt
  /-- R291. Reads a system register. -/
  | srr (d : Reg) (sys : BitVec 12)
  /-- R291. Writes a system register. -/
  | srw (sys : BitVec 12) (a : Reg)
  /-- R291. Exchanges a system register with a general register. -/
  | srx (d : Reg) (sys : BitVec 12) (a : Reg)
  /-- R292. Starts a dormant strand at a given PC after a core-scope release. -/
  | startS (a : Reg) (b : Reg)
  /-- R293. Stops a strand, winds down its activity and makes it DORMANT. -/
  | reap (a : Reg)
  /-- R294. Replaces the slot table from the next rotation. -/
  | slotw (a : Reg) (b : Reg)
  /-- R295. Waits until every slice has applied all earlier invalidation entries. -/
  | ptsync
  /-- R295. Waits until the core has no message outstanding on either network. -/
  | netsync
  /-- R296. Writes back every dirty byte of the core's L1. -/
  | l1wb
  /-- R296. Marks clean L1 bytes not present and invalidates the instruction cache. -/
  | l1inv
  /-- R297. Writes an accumulator bank image to memory and clears its tag. -/
  | accspill (k : BitVec 5) (a : Reg)
  /-- R297. Restores an accumulator bank and its tag from an image. -/
  | accfill (k : BitVec 5) (a : Reg)
  /-- R298. Loads a key slot from scratchpad and zeroes the source. -/
  | kslotw (d : Reg) (a : Reg)
  /-- R298. Revokes a key slot. -/
  | kslotclr (d : Reg)
  /-- R298. Sets a network-select entry once the block is quiet. -/
  | nselw (d : Reg) (a : Reg)
  /-- R336. Writes a group-table entry from an image after checks. -/
  | grpw (d : Reg) (a : Reg)
  /-- R298. Fences a block. -/
  | blkfence (d : Reg)
  /-- R133. An encoding that is not an instruction traps with ILLEGAL_INSTRUCTION. -/
  | unassignedEncoding (word : BitVec 32)
  /-- R275. A write to DOORBELL sets the writer's DBSRC bit in the steward. -/
  | doorbellWrite (core strand : Nat)
  /-- R275. A steward read of HOSTMSG pops the oldest host message. -/
  | hostmsgRead (core strand : Nat)
  /-- R280. Writing 1 to IPEND W1C bits clears doorbell sources or the intercalation notice. -/
  | ipendWrite (core strand : Nat) (v : Word)
  /-- R284. Writing TCMP sets the timer compare value and clears the timer interrupt. -/
  | tcmpWrite (core strand : Nat) (v : Word)
  /-- R282. A steward write of ADVQ or ADVQH sets quotas after the sum check. -/
  | advqWrite (core : Nat) (high : Bool) (v : Word)
  /-- R276. A write to TSTATUS ignores an illegal or higher MODE. -/
  | tstatusWrite (core strand : Nat) (v : Word)
  /-- R30. A write to FCTL sets flags and ignores RM values 5 to 7. -/
  | fctlWrite (core strand : Nat) (v : Word)
  /-- R285. Takes the lowest-numbered enabled pending interrupt at an owned slot. -/
  | interruptEntry (core strand : Nat)
  /-- R284. CALENDS reaches TCMP and the timer interrupt becomes pending. -/
  | timerExpiry (core strand : Nat)
  /-- R289. A waiting strand returns to RUNNING when an enabled interrupt is pending. -/
  | wfiWake (core strand : Nat)
  /-- R301. Takes the oldest pending deferred RANGE_LOCKED before the next instruction. -/
  | deferredTrap (core strand : Nat)
  /-- R102. A long-latency instruction's result or completion reaches the strand. -/
  | longLatencyComplete (core strand : Nat)
  /-- R294. A pending slot table takes effect when CALENDS mod 16 is 0. -/
  | slotTableSwitch (core : Nat)
  /-- R190. A yield ends after 2^12 cc without a frame. -/
  | yieldTimeout (core strand : Nat)
  /-- R64. A core's port performs a remote request at its banks. -/
  | portRequest (core : Nat) (q : Req)
  /-- R66. A slice performs an access to one of its lines in arrival order. -/
  | sliceAccess (slice : Nat) (q : Req)
  /-- R22. DRAM data for a slice miss return and the line is installed. -/
  | sliceMissFill (slice line : Nat)
  /-- R327. A control die starts a page-table walk for a slice's translation miss. -/
  | walkRequest (slice line : Nat)
  /-- R327. A page-table entry read returns and the walk continues or installs the translation. -/
  | walkEntryReturn (slice line : Nat)
  /-- R328. After its backoff, a walk rereads an entry found invalid. -/
  | walkRetry (slice line : Nat)
  /-- R328. Retry 64 still finds V = 0 and raises a machine check. -/
  | walkRaceExhausted (slice line : Nat)
  /-- R22. A response to a load or atomic arrives and is written to the destination. -/
  | loadResponse (core strand : Nat) (home : Home) (r : Reply)
  /-- R81. A posted store's acknowledgement or refusal returns and the counter falls. -/
  | postedStoreAck (core strand : Nat) (home : Home) (refused : Option Refused)
  /-- R54. A fetched line fills the non-dirty bytes of its L1 frame. -/
  | l1FillResponse (core line : Nat) (r : Fill)
  /-- R54. A home replies that an L1 write-back was performed or refused. -/
  | l1WritebackReply (core line : Nat) (performed : Bool)
  /-- R70. The control die resends a refused launch or completion write-back every 2^16 cc. -/
  | writebackRetry (core : Nat)
  /-- R69. A home registers a range in its lock list or filter and acknowledges. -/
  | lockRegistration (home : Home) (e : LockEntry)
  /-- R69. A registration acknowledgement returns to the registering instruction. -/
  | lockRegistrationAck (core : Nat) (lock : Nat) (home : Home) (answer : LockAnswer)
  /-- R71. A refused registration still fails after QLIMIT cc and traps or ends the copy. -/
  | registrationRetryTimeout (core strand : Nat)
  /-- R73. A release message frees a range lock at a remote home. -/
  | lockRelease (home : Home) (owner lock : Nat)
  /-- R114. A blocked queue port access traps after QLIMIT cc. -/
  | queueTimeout (core strand : Nat)
  /-- R185. A vigil whose condition has not held by 2^x cc traps. -/
  | vigilTimeout (core strand : Nat)
  /-- R62. A day barrier's conditions hold, the pointer advances and members proceed. -/
  | dayBarrierAdvance (core ring : Nat) (drain : Bool)
  /-- R62. A member waiting 2^WAIT cc withdraws and traps with VIGIL_TIMEOUT. -/
  | dayBarrierTimeout (core strand : Nat)
  /-- R116. A core's arrival reaches the group root and is counted. -/
  | barrierArrival (g : GroupRef) (core from_ : Nat)
  /-- R117. A strand waiting 2^W cc sends its core's withdrawal to the root. -/
  | groupWaitTimeout (core strand : Nat)
  /-- R117. The root clears an arrival if the episode is open and the waiters trap. -/
  | barrierWithdrawal (g : GroupRef) (core : Nat) (reduction : Bool) (from_ : Nat)
  /-- R182. The root accepts or refuses a broadcast value by credit and floods it. -/
  | broadcastAccept (g : GroupRef) (core strand : Nat) (v : Word)
  /-- R182. A flooded value enters a member core's broadcast buffer. -/
  | broadcastFloodArrival (g : GroupRef) (core seq : Nat) (v : Word)
  /-- R182. A credit returns to the root once every member popped the value. -/
  | broadcastCreditReturn (g : GroupRef) (core seq from_ : Nat)
  /-- R182. A send refused for 2^W cc traps with VIGIL_TIMEOUT. -/
  | bcastSendTimeout (core strand : Nat)
  /-- R182. A receive on an empty buffer for 2^W cc traps with VIGIL_TIMEOUT. -/
  | bcastRecvTimeout (core strand : Nat)
  /-- R183. A contribution reaches the root and completes the episode when all have come. -/
  | reductionContribution (g : GroupRef) (core strand : Nat) (op : RedOp) (v : Word) (from_ : Nat)
  /-- R108. A victim deque resolves a theft and replies with a frame or empty. -/
  | theftRequest (victim thief strand : Nat)
  /-- R109. A theft reply returns to a take, which succeeds or asks the next victim. -/
  | theftReply (thief strand : Nat) (fr : Option Frame)
  /-- R110. Every 2^K cc the levelling unit compares depths and asks a neighbour for a grant. -/
  | levellingInterval (core : Nat)
  /-- R110. A neighbour reserves places and grants or refuses frames. -/
  | levellingGrantRequest (core asker count : Nat)
  /-- R110. A grant returns and the unit sends frames from its far end. -/
  | levellingGrant (core granter count : Nat)
  /-- R110. A levelled frame is appended at the receiver's far end. -/
  | levelledFrameArrival (core sender : Nat) (fr : Option Frame) (unused : Nat)
  /-- R235. A 6 cc tile step ends on the array and updates the node's materialised region. -/
  | tileStep (cluster : Nat)
  /-- R241. The array lease ends and passes to the next requesting core. -/
  | arrayLeaseHandover (cluster : Nat)
  /-- R223. A twload's tile is in its weight slot and the node becomes DONE. -/
  | twloadFetchComplete (core node : Nat)
  /-- R240. No bank frees within QLIMIT cc and ACC_OWNED is raised. -/
  | accBankWaitTimeout (core strand : Nat)
  /-- R91. The channel begins a copy once acknowledgements, L1 actions and registrations are done. -/
  | copyStart (core copy : Nat)
  /-- R256. A streamer reads a unit at its home and pushes it to the destination. -/
  | streamerUnitRead (core copy unit : Nat)
  /-- R255. A copy unit is performed at its destination home in unit order. -/
  | copyUnitWrite (core copy unit : Nat) (data : CopyData)
  /-- R249. The status word is written once every counted unit is performed. -/
  | copyStatusWrite (core copy : Nat)
  /-- R253. After its release, cpyh sends the core's barrier arrival. -/
  | cpyhArrival (core copy : Nat)
  /-- R253. cpyh's barrier wait expires and the copy ends with VIGIL_TIMEOUT. -/
  | cpyhBarrierTimeout (core copy : Nat)
  /-- R253. On episode completion cpyh registers its source strips and begins reads. -/
  | cpyhSourceRegistration (core copy : Nat)
  /-- R257. A router announces its core is back and the channel resends refused units. -/
  | copyResume (target : Nat)
  /-- R311. The host requests a region switch and the lead die proposes a stop value. -/
  | intercalationRequest (rq : Request) (run : Nat) (saveBase : Word) (incoming : Option (Nat × Word))
  /-- R311. A control die accepts or rejects a proposed stop value. -/
  | intercalationProposal (part run site : Nat)
  /-- R311. On unanimous acceptance the lead die commits and the save area is pinned. -/
  | intercalationCommit (part run : Nat)
  /-- R312. At CALENDS = T a core stops issuing. -/
  | intercalationStop (core : Nat)
  /-- R313. The core's NI, lease, copies and L1 have wound down and its image save begins. -/
  | switchOutPoint (core : Nat)
  /-- R315. Every unit of a core image has been performed at its home slice. -/
  | coreSwitchedOut (core : Nat)
  /-- R314. The control dies copy the region's eject buffers into the eject section. -/
  | ejectSectionCopy (part run : Nat)
  /-- R319. Cores are restored, ejected messages re-injected and routers announce. -/
  | resume (part run : Nat)
  /-- R319. At CALENDS = T′ every core issues again. -/
  | resumeIssue (part run : Nat)
  /-- R335. The launch endpoint creates a partition on a rectangle of sites. -/
  | createPartition (rq : Request) (c0 c1 s0 s1 : Nat) (ptroot : Nat)
  /-- R335. Revokes keys, clears storage and applies logs before freeing the sites. -/
  | destroyPartition (rq : Request)
  /-- R341. Checks and sets up a run block through steps 1 to 6. -/
  | launch (rq : Request) (rb : RunBlock)
  /-- R341. At the agreed CALENDS every steward begins at the entry. -/
  | stewardStart (part run : Nat)
  /-- R342. The host ends a run, stopping its region and harvesting it. -/
  | endRun (rq : Request) (run : Nat) (trapped : Option (Nat × Nat))
  /-- R340. Places a host value in a core's host-message queue. -/
  | hostmsg (rq : Request) (name : Nat) (v : Word)
  /-- R344. After a core retires the control dies make its package-scope release. -/
  | completionRelease (core : Nat)
  /-- R331. Ends a lease: merges dirty logs, clears PIN and posts the completion message. -/
  | harvest (part run : Nat)
  /-- R332. At 8,192 entries the control die sets D bits and empties the log. -/
  | dirtyLogMerge (site : Nat)
  /-- R333. Slices apply the invalidation log, dropping overlapping translations. -/
  | invalidationLogApply (site : Nat)
  /-- R329. The lease endpoint maps a page with the size the host gives. -/
  | mapPage (rq : Request) (va : Word) (leaf : Leaf) (tables : List Nat)
  /-- R333. Unmaps a page and logs the invalidation. -/
  | unmapPage (rq : Request) (va : Word)
  /-- R330. Moves a page of at most 2 MiB to a new frame while leased. -/
  | movePage (rq : Request) (va : Word) (frame : Nat)
  /-- R333. Clears a page's dirty bit and logs the invalidation. -/
  | clearD (rq : Request) (va : Word)
  /-- R339. Returns dirty-page information to the host. -/
  | dirtyQuery (rq : Request) (va : Word)
  /-- R336. Writes a group-table entry that no run holds. -/
  | groupTableWrite (rq : Request) (idx : Nat) (im : GroupImage)
  /-- R339. Reads a group-table entry that no run holds. -/
  | groupTableRead (rq : Request) (idx : Nat)
  /-- R370. Unwraps a wrapped key and loads it into a key slot. -/
  | keyLoad (rq : Request) (wrapped : Nat) (slot target : Nat)
  /-- R338. Clears a key slot and raises its generation. -/
  | keyClear (rq : Request) (slot : Nat)
  /-- R338. Sets the partition's write key slot. -/
  | setWriteSlot (rq : Request) (slot : Nat)
  /-- R339. Returns journal entries from a sequence number. -/
  | journalRead (rq : Request) (seq : Nat)
  /-- R354. Replaces a start record's ACTION with 0 or 1. -/
  | startRecord (rq : Request) (chip : Chip) (action : Nat)
  /-- R356. Ends runs and clears strand state while keeping arrays and training. -/
  | warmReset (rq : Request)
  /-- R356. Ends runs, resets registers and repeats the procession from LINKS_TRAINED. -/
  | coldReset (rq : Request)
  /-- R361. Switches 1 to 4 idle reticles to retention. -/
  | retentionEntry (rq : Request) (sites : List Nat)
  /-- R361. Returns retained reticles to READY. -/
  | retentionExit (rq : Request) (sites : List Nat)
  /-- R361. Switches more than 4 idle reticles off. -/
  | powerOff (rq : Request) (sites : List Nat)
  /-- R361. Closes header switches and repeats the procession. -/
  | powerOn (rq : Request) (sites : List Nat)
  /-- R368. Binds a Higrim link to one partition at each end. -/
  | linkBind (rq : Request) (link tag : Nat) (rxBase : Word) (rxLen : Nat)
  /-- R369. Writes, verifies and commits a signed firmware image for the next cold reset. -/
  | firmwareUpdate (rq : Request) (image signature : Nat)
  /-- R309. An ECC error is detected and corrected, poisoned or raised as a machine check. -/
  | eccErrorDetected (e : EccError)
  /-- R351. The module's 4.8 V becomes good and bring-up limits start. -/
  | modulePowerGood
  /-- R351. A chiplet's rails are within 3% of nominal. -/
  | powerGood (chip : Chip)
  /-- R351. A chiplet's PLL locks to its parent's reference. -/
  | clockLocked (chip : Chip)
  /-- R351. Every bond group has trained or been marked dead. -/
  | linksTrained (chip : Chip)
  /-- R351. The configuration image is loaded and its checksum holds. -/
  | configLoaded (chip : Chip)
  /-- R351. Array self-test passes and the remap table is written. -/
  | selfTestPassed (chip : Chip) (live : List Nat)
  /-- R351. The control die records the chiplet as READY. -/
  | chipReady (chip : Chip)
  /-- R351. A procession step overruns its limit and the chiplet is FENCED. -/
  | bringupLimitOverrun (chip : Chip) (why : Nat)
  /-- R352. A bring-up wavefront from a non-parent neighbour is adopted or refused. -/
  | wavefrontArrival (chip source : Chip) (origin : Nat)
  /-- R353. A bond group failing three training attempts is marked dead. -/
  | bondMarkedDead (bond : Bond)
  /-- R355. A router receives and checks a new routing table and acknowledges. -/
  | routingTableLoad (router set : Nat) (table : RoutingTable) (crc signature : Nat)
  /-- R355. Every router switches to its new table at the commit value. -/
  | routingTableCommit
  /-- R355. A missing acknowledgement by T − 8,192 aborts the update everywhere. -/
  | routingUpdateAbort
  /-- R357. A failed regulator phase is reported and may cap or fence the block. -/
  | regulatorPhaseFailure (site block : Nat)
  /-- R358. A rail droop below 0.589 V stretches the block's clock. -/
  | droopStretch (site block : Nat)
  /-- R358. A sag lasting more than 1 ms caps the block at clock step 1. -/
  | droopCap (site block : Nat)
  /-- R360. A periodic bond supply reading may mark the bond suspect and fence its block. -/
  | bondSupplyReading (bond : Bond) (drop : Nat)
  /-- R363. A band's hottest sensor sets its clock step or sends MIGRATE. -/
  | thermalReading (band milliC : Nat)
  /-- R363. A band at 105 °C for 10 ms is fenced and its regions stopped. -/
  | thermalFence (band : Nat)
  /-- R363. A band 100 ms below the lower threshold returns one clock step up. -/
  | thermalStepUp (band : Nat)
  /-- R367. A Higrim link flit is checked, accepted, dropped or used for calends correction. -/
  | linkFlitReceive (link : Nat) (f : LinkFlit)
  /-- R367. Eight resends of one flit take the link down. -/
  | linkRetryExhausted (link : LinkName)
  /-- R367. Every 2^14 ticks a link sends a calends flit. -/
  | calendsFlitSend (link : Nat)
  /-- R248. An instruction waiting to write a bound register, or a copy waiting for a place in a full channel, traps with RANGE_LOCKED after QLIMIT cc. -/
  | copyWaitTimeout (core strand : Nat)
  /-- R235. The view reads, bank reads or weight decompression for a tile step return and the step is staged, making the core request the array. -/
  | operandFetchComplete (core strand : Nat)
  /-- R85. A second-tier port's completion, the PCI Express link's acceptance of a posted write, or a service-reticle agent's acceptance returns to a waiting package-scope release. -/
  | secondTierCompletion (core strand : Nat)
  /-- R156. Instruction words read from their home slice through the instruction cache return, or the fetch faults. -/
  | instructionFetchReturn (core strand : Nat)
  /-- R358. The block's rail recovers above 0.589 V and its cc return to normal length. -/
  | droopEnd (site block : Nat)
  /-- R354. The module loses power, every chiplet goes dark and only the journal and start records in SV0's nonvolatile store survive. -/
  | powerLoss
  /-- R329. The host refuses a launch page fault and the launch is refused at step 3. -/
  | pageFaultRefusal (rq : Request) (run va : Nat)
  deriving DecidableEq, Repr

/-- The constructor of `Instr` that performs an event. -/
noncomputable def Event.instr : Event → Instr
  | .unassignedEncoding word => .unassignedEncoding word
  | .doorbellWrite core strand => .doorbellWrite core strand
  | .hostmsgRead core strand => .hostmsgRead core strand
  | .ipendWrite core strand v => .ipendWrite core strand v
  | .tcmpWrite core strand v => .tcmpWrite core strand v
  | .advqWrite core high v => .advqWrite core high v
  | .tstatusWrite core strand v => .tstatusWrite core strand v
  | .fctlWrite core strand v => .fctlWrite core strand v
  | .interruptEntry core strand => .interruptEntry core strand
  | .timerExpiry core strand => .timerExpiry core strand
  | .wfiWake core strand => .wfiWake core strand
  | .deferredTrap core strand => .deferredTrap core strand
  | .longLatencyComplete core strand => .longLatencyComplete core strand
  | .slotTableSwitch core => .slotTableSwitch core
  | .yieldTimeout core strand => .yieldTimeout core strand
  | .portRequest core q => .portRequest core q
  | .sliceAccess slice q => .sliceAccess slice q
  | .sliceMissFill slice line => .sliceMissFill slice line
  | .walkRequest slice line => .walkRequest slice line
  | .walkEntryReturn slice line => .walkEntryReturn slice line
  | .walkRetry slice line => .walkRetry slice line
  | .walkRaceExhausted slice line => .walkRaceExhausted slice line
  | .loadResponse core strand home r => .loadResponse core strand home r
  | .postedStoreAck core strand home refused => .postedStoreAck core strand home refused
  | .l1FillResponse core line r => .l1FillResponse core line r
  | .l1WritebackReply core line performed => .l1WritebackReply core line performed
  | .writebackRetry core => .writebackRetry core
  | .lockRegistration home e => .lockRegistration home e
  | .lockRegistrationAck core lock home answer => .lockRegistrationAck core lock home answer
  | .registrationRetryTimeout core strand => .registrationRetryTimeout core strand
  | .lockRelease home owner lock => .lockRelease home owner lock
  | .queueTimeout core strand => .queueTimeout core strand
  | .vigilTimeout core strand => .vigilTimeout core strand
  | .dayBarrierAdvance core ring drain => .dayBarrierAdvance core ring drain
  | .dayBarrierTimeout core strand => .dayBarrierTimeout core strand
  | .barrierArrival g core from_ => .barrierArrival g core from_
  | .groupWaitTimeout core strand => .groupWaitTimeout core strand
  | .barrierWithdrawal g core reduction from_ => .barrierWithdrawal g core reduction from_
  | .broadcastAccept g core strand v => .broadcastAccept g core strand v
  | .broadcastFloodArrival g core seq v => .broadcastFloodArrival g core seq v
  | .broadcastCreditReturn g core seq from_ => .broadcastCreditReturn g core seq from_
  | .bcastSendTimeout core strand => .bcastSendTimeout core strand
  | .bcastRecvTimeout core strand => .bcastRecvTimeout core strand
  | .reductionContribution g core strand op v from_ => .reductionContribution g core strand op v from_
  | .theftRequest victim thief strand => .theftRequest victim thief strand
  | .theftReply thief strand fr => .theftReply thief strand fr
  | .levellingInterval core => .levellingInterval core
  | .levellingGrantRequest core asker count => .levellingGrantRequest core asker count
  | .levellingGrant core granter count => .levellingGrant core granter count
  | .levelledFrameArrival core sender fr unused => .levelledFrameArrival core sender fr unused
  | .tileStep cluster => .tileStep cluster
  | .arrayLeaseHandover cluster => .arrayLeaseHandover cluster
  | .twloadFetchComplete core node => .twloadFetchComplete core node
  | .accBankWaitTimeout core strand => .accBankWaitTimeout core strand
  | .copyStart core copy => .copyStart core copy
  | .streamerUnitRead core copy unit => .streamerUnitRead core copy unit
  | .copyUnitWrite core copy unit data => .copyUnitWrite core copy unit data
  | .copyStatusWrite core copy => .copyStatusWrite core copy
  | .cpyhArrival core copy => .cpyhArrival core copy
  | .cpyhBarrierTimeout core copy => .cpyhBarrierTimeout core copy
  | .cpyhSourceRegistration core copy => .cpyhSourceRegistration core copy
  | .copyResume target => .copyResume target
  | .intercalationRequest rq run saveBase incoming => .intercalationRequest rq run saveBase incoming
  | .intercalationProposal part run site => .intercalationProposal part run site
  | .intercalationCommit part run => .intercalationCommit part run
  | .intercalationStop core => .intercalationStop core
  | .switchOutPoint core => .switchOutPoint core
  | .coreSwitchedOut core => .coreSwitchedOut core
  | .ejectSectionCopy part run => .ejectSectionCopy part run
  | .resume part run => .resume part run
  | .resumeIssue part run => .resumeIssue part run
  | .createPartition rq c0 c1 s0 s1 ptroot => .createPartition rq c0 c1 s0 s1 ptroot
  | .destroyPartition rq => .destroyPartition rq
  | .launch rq rb => .launch rq rb
  | .stewardStart part run => .stewardStart part run
  | .endRun rq run trapped => .endRun rq run trapped
  | .hostmsg rq name v => .hostmsg rq name v
  | .completionRelease core => .completionRelease core
  | .harvest part run => .harvest part run
  | .dirtyLogMerge site => .dirtyLogMerge site
  | .invalidationLogApply site => .invalidationLogApply site
  | .mapPage rq va leaf tables => .mapPage rq va leaf tables
  | .unmapPage rq va => .unmapPage rq va
  | .movePage rq va frame => .movePage rq va frame
  | .clearD rq va => .clearD rq va
  | .dirtyQuery rq va => .dirtyQuery rq va
  | .groupTableWrite rq idx im => .groupTableWrite rq idx im
  | .groupTableRead rq idx => .groupTableRead rq idx
  | .keyLoad rq wrapped slot target => .keyLoad rq wrapped slot target
  | .keyClear rq slot => .keyClear rq slot
  | .setWriteSlot rq slot => .setWriteSlot rq slot
  | .journalRead rq seq => .journalRead rq seq
  | .startRecord rq chip action => .startRecord rq chip action
  | .warmReset rq => .warmReset rq
  | .coldReset rq => .coldReset rq
  | .retentionEntry rq sites => .retentionEntry rq sites
  | .retentionExit rq sites => .retentionExit rq sites
  | .powerOff rq sites => .powerOff rq sites
  | .powerOn rq sites => .powerOn rq sites
  | .linkBind rq link tag rxBase rxLen => .linkBind rq link tag rxBase rxLen
  | .firmwareUpdate rq image signature => .firmwareUpdate rq image signature
  | .eccErrorDetected e => .eccErrorDetected e
  | .modulePowerGood => .modulePowerGood
  | .powerGood chip => .powerGood chip
  | .clockLocked chip => .clockLocked chip
  | .linksTrained chip => .linksTrained chip
  | .configLoaded chip => .configLoaded chip
  | .selfTestPassed chip live => .selfTestPassed chip live
  | .chipReady chip => .chipReady chip
  | .bringupLimitOverrun chip why => .bringupLimitOverrun chip why
  | .wavefrontArrival chip source origin => .wavefrontArrival chip source origin
  | .bondMarkedDead bond => .bondMarkedDead bond
  | .routingTableLoad router set table crc signature => .routingTableLoad router set table crc signature
  | .routingTableCommit => .routingTableCommit
  | .routingUpdateAbort => .routingUpdateAbort
  | .regulatorPhaseFailure site block => .regulatorPhaseFailure site block
  | .droopStretch site block => .droopStretch site block
  | .droopCap site block => .droopCap site block
  | .bondSupplyReading bond drop => .bondSupplyReading bond drop
  | .thermalReading band milliC => .thermalReading band milliC
  | .thermalFence band => .thermalFence band
  | .thermalStepUp band => .thermalStepUp band
  | .linkFlitReceive link f => .linkFlitReceive link f
  | .linkRetryExhausted link => .linkRetryExhausted link
  | .calendsFlitSend link => .calendsFlitSend link
  | .copyWaitTimeout core strand => .copyWaitTimeout core strand
  | .operandFetchComplete core strand => .operandFetchComplete core strand
  | .secondTierCompletion core strand => .secondTierCompletion core strand
  | .instructionFetchReturn core strand => .instructionFetchReturn core strand
  | .droopEnd site block => .droopEnd site block
  | .powerLoss => .powerLoss
  | .pageFaultRefusal rq run va => .pageFaultRefusal rq run va

end Sys2Proof
end

