-- ==== Sys2Proof/WellFormed.lean ====
section
/-! DEFINITION. The ranges of the literal operands an instruction may carry (R128, R130, R297), and of the names an event
may carry. A word whose literal is outside its range is not an instruction (R133). -/

namespace Sys2Proof

/-- A queue or ring number written as a literal is 0 to 3 (R128). -/
def literalFour (q : BitVec 5) : Bool := q.toNat < 4

/-- A limit exponent is 4 to 24 (R128). -/
def literalLimit (x : BitVec 5) : Bool := 4 ≤ x.toNat && x.toNat ≤ 24

/-- gM of `tmma` is 1 to 29 (R130). -/
def literalMask (g : BitVec 5) : Bool := 1 ≤ g.toNat && g.toNat ≤ 29

/-- An accumulator bank number is 0 to 7 (R297). -/
def literalBank (k : BitVec 5) : Bool := k.toNat < 8

/-- A chiplet's name is in range (R349). -/
def Chip.ok (c : Chip) : Bool := c.site < Config.sites && c.chip < 4 && c.index < 4

/-- Whether an instruction's literal operands are in range. -/
def Instr.wellFormed : Instr → Bool
  | .daybarFill r _ => literalFour r
  | .daybarDrain r _ => literalFour r
  | .vigilQne _ q x _ => literalFour q && literalLimit x
  | .vigilQnf _ q x _ => literalFour q && literalLimit x
  | .vigilReady _ q x _ => literalFour q && literalLimit x
  | .vigilRoom _ q x _ => literalFour q && literalLimit x
  | .qcount _ q _ => literalFour q
  | .tmma _ _ _ g _ _ => literalMask g
  | .accspill k _ => literalBank k
  | .accfill k _ => literalBank k
  | .powerGood c => c.ok
  | .clockLocked c => c.ok
  | .linksTrained c => c.ok
  | .configLoaded c => c.ok
  | .selfTestPassed c _ => c.ok
  | .chipReady c => c.ok
  | _ => true

end Sys2Proof
end

