-- ==== Sys2Proof/Decode.lean ====
section
/-! DEFINITION. The decoder (R122 to R133), total on every word, with a name for each way a word is refused, and the
encoder written from the same tables. Words are natural numbers below 2^32; fields are taken by division, so that
both directions are arithmetic. The compiler has no run-time form for an inductive type of more than 244 constructors
with fields, so what builds an `Instr` is marked noncomputable (log 15); the kernel evaluates it. -/

namespace Sys2Proof

/-- Why a word is not an instruction (R133). Each raises ILLEGAL_INSTRUCTION. -/
inductive Reject where
  /-- the major opcode is not assigned -/
  | opcode
  /-- a function value is not assigned -/
  | function
  /-- a type or width code is not assigned -/
  | typeCode
  /-- rounding code 5 or 6 on an operation that rounds (R158) -/
  | rounding
  /-- a literal operand is outside its range (R128, R130) -/
  | literal
  /-- fewer than four bytes -/
  | short
  deriving DecidableEq, Repr

/-- Bits [lo + n - 1 : lo] of a word. -/
def fld (w lo n : Nat) : Nat := w / 2 ^ lo % 2 ^ n

/-- The same bits as a bit vector. -/
def bits (w lo n : Nat) : BitVec n := BitVec.ofNat n (fld w lo n)

/-- Type codes of OP 0x06 (R127). -/
def SFmt.ofCode : Nat → Option SFmt
  | 0 => some .f64 | 1 => some .f32 | _ => none
/-- The code of a scalar format (R127). -/
def SFmt.code : SFmt → Nat
  | .f64 => 0 | .f32 => 1

/-- Rounding codes (R127). -/
def Rm.ofCode : Nat → Option Rm
  | 0 => some .rne | 1 => some .rtz | 2 => some .rdn | 3 => some .rup | 4 => some .rod | 7 => some .dyn | _ => none
/-- The code of a rounding field (R127). -/
def Rm.code : Rm → Nat
  | .rne => 0 | .rtz => 1 | .rdn => 2 | .rup => 3 | .rod => 4 | .dyn => 7

/-- Load types of `ldx` (R128). -/
def LdTy.ofCode : Nat → Option LdTy
  | 0 => some .i8 | 1 => some .w8 | 2 => some .i16 | 3 => some .w16 | 4 => some .i32 | 5 => some .w32 | 6 => some .i64
  | _ => none
/-- The code of a load type (R128). -/
def LdTy.code : LdTy → Nat
  | .i8 => 0 | .w8 => 1 | .i16 => 2 | .w16 => 3 | .i32 => 4 | .w32 => 5 | .i64 => 6

/-- Atomic width codes (R128). -/
def AWidth.ofCode : Nat → Option AWidth
  | 2 => some .w32 | 3 => some .w64 | _ => none
/-- The code of an atomic width (R128). -/
def AWidth.code : AWidth → Nat
  | .w32 => 2 | .w64 => 3

/-- Scope codes (R83). -/
def Scope.ofCode : Nat → Option Scope
  | 0 => some .strand | 1 => some .core | 2 => some .cluster | 3 => some .reticle | 4 => some .partition
  | 5 => some .package | _ => none
/-- The code of a scope (R83). -/
def Scope.code : Scope → Nat
  | .strand => 0 | .core => 1 | .cluster => 2 | .reticle => 3 | .partition => 4 | .package => 5

/-- Integer lane type codes (R129). -/
def LaneTy.ofCode : Nat → Option LaneTy
  | 0 => some .i8 | 1 => some .i16 | 2 => some .i32 | 4 => some .w8 | 5 => some .w16 | 6 => some .w32 | _ => none
/-- The code of an integer lane type (R129). -/
def LaneTy.code : LaneTy → Nat
  | .i8 => 0 | .i16 => 1 | .i32 => 2 | .w8 => 4 | .w16 => 5 | .w32 => 6

/-- Float lane type codes (R129). -/
def FLane.ofCode : Nat → Option FLane
  | 0 => some .f32 | 1 => some .f16 | 2 => some .bf16 | _ => none
/-- The code of a float lane type (R129). -/
def FLane.code : FLane → Nat
  | .f32 => 0 | .f16 => 1 | .bf16 => 2

/-- DX type codes (R129). -/
def DxTy.ofCode : Nat → Option DxTy
  | 0 => some .d16 | 1 => some .d8 | 2 => some .d4 | _ => none
/-- The code of a DX type (R129). -/
def DxTy.code : DxTy → Nat
  | .d16 => 0 | .d8 => 1 | .d4 => 2

/-- Mode codes of `tmma` (R130): 0 `init`, 1 `acc`. -/
def accOfCode : Nat → Option Bool
  | 0 => some false | 1 => some true | _ => none

noncomputable section

/-- OP 0x01. -/
def decodeOp01 (wd : Nat) : Except Reject Instr :=
  match fld wd 20 5 with
  | 0 => .ok (.nop)
  | 1 => .ok (.pf (bits wd 15 5) (bits wd 0 15))
  | 2 => .ok (.hlikely)
  | 3 => .ok (.hunlikely)
  | _ => .ok .nop

/-- OP 0x02. -/
def decodeOp02 (wd : Nat) : Except Reject Instr :=
  match fld wd 0 10 with
  | 0 => .ok (.add (bits wd 20 5) (bits wd 15 5) (bits wd 10 5))
  | 1 => .ok (.sub (bits wd 20 5) (bits wd 15 5) (bits wd 10 5))
  | 2 => .ok (.and (bits wd 20 5) (bits wd 15 5) (bits wd 10 5))
  | 3 => .ok (.or (bits wd 20 5) (bits wd 15 5) (bits wd 10 5))
  | 4 => .ok (.xor (bits wd 20 5) (bits wd 15 5) (bits wd 10 5))
  | 5 => .ok (.andn (bits wd 20 5) (bits wd 15 5) (bits wd 10 5))
  | 6 => .ok (.orn (bits wd 20 5) (bits wd 15 5) (bits wd 10 5))
  | 7 => .ok (.xnor (bits wd 20 5) (bits wd 15 5) (bits wd 10 5))
  | 8 => .ok (.addw (bits wd 20 5) (bits wd 15 5) (bits wd 10 5))
  | 9 => .ok (.subw (bits wd 20 5) (bits wd 15 5) (bits wd 10 5))
  | 10 => .ok (.lea1 (bits wd 20 5) (bits wd 15 5) (bits wd 10 5))
  | 11 => .ok (.lea2 (bits wd 20 5) (bits wd 15 5) (bits wd 10 5))
  | 12 => .ok (.lea3 (bits wd 20 5) (bits wd 15 5) (bits wd 10 5))
  | 13 => .ok (.lea4 (bits wd 20 5) (bits wd 15 5) (bits wd 10 5))
  | 16 => .ok (.gname (bits wd 20 5) (bits wd 15 5) (bits wd 10 5))
  | _ => .error .function

/-- OP 0x03. -/
def decodeOp03 (wd : Nat) : Except Reject Instr :=
  match fld wd 0 10 with
  | 0 => .ok (.sll (bits wd 20 5) (bits wd 15 5) (bits wd 10 5))
  | 1 => .ok (.srl (bits wd 20 5) (bits wd 15 5) (bits wd 10 5))
  | 2 => .ok (.sra (bits wd 20 5) (bits wd 15 5) (bits wd 10 5))
  | 3 => .ok (.rol (bits wd 20 5) (bits wd 15 5) (bits wd 10 5))
  | 4 => .ok (.ror (bits wd 20 5) (bits wd 15 5) (bits wd 10 5))
  | 5 => .ok (.sllw (bits wd 20 5) (bits wd 15 5) (bits wd 10 5))
  | 6 => .ok (.srlw (bits wd 20 5) (bits wd 15 5) (bits wd 10 5))
  | 7 => .ok (.sraw (bits wd 20 5) (bits wd 15 5) (bits wd 10 5))
  | 8 => .ok (.clz (bits wd 20 5) (bits wd 15 5))
  | 9 => .ok (.ctz (bits wd 20 5) (bits wd 15 5))
  | 10 => .ok (.popc (bits wd 20 5) (bits wd 15 5))
  | 11 => .ok (.brev (bits wd 20 5) (bits wd 15 5))
  | 12 => .ok (.bswap (bits wd 20 5) (bits wd 15 5))
  | 13 => .ok (.bext (bits wd 20 5) (bits wd 15 5) (bits wd 10 5))
  | 14 => .ok (.bdep (bits wd 20 5) (bits wd 15 5) (bits wd 10 5))
  | _ => .error .function

/-- OP 0x04. -/
def decodeOp04 (wd : Nat) : Except Reject Instr :=
  match fld wd 0 10 with
  | 0 => .ok (.mul (bits wd 20 5) (bits wd 15 5) (bits wd 10 5))
  | 1 => .ok (.mulhI64 (bits wd 20 5) (bits wd 15 5) (bits wd 10 5))
  | 2 => .ok (.mulhW64 (bits wd 20 5) (bits wd 15 5) (bits wd 10 5))
  | 3 => .ok (.mulI32 (bits wd 20 5) (bits wd 15 5) (bits wd 10 5))
  | 8 => .ok (.divI64 (bits wd 20 5) (bits wd 15 5) (bits wd 10 5))
  | 9 => .ok (.divW64 (bits wd 20 5) (bits wd 15 5) (bits wd 10 5))
  | 10 => .ok (.remI64 (bits wd 20 5) (bits wd 15 5) (bits wd 10 5))
  | 11 => .ok (.remW64 (bits wd 20 5) (bits wd 15 5) (bits wd 10 5))
  | 12 => .ok (.divI32 (bits wd 20 5) (bits wd 15 5) (bits wd 10 5))
  | 13 => .ok (.divW32 (bits wd 20 5) (bits wd 15 5) (bits wd 10 5))
  | 14 => .ok (.remI32 (bits wd 20 5) (bits wd 15 5) (bits wd 10 5))
  | 15 => .ok (.remW32 (bits wd 20 5) (bits wd 15 5) (bits wd 10 5))
  | _ => .error .function

/-- OP 0x05. -/
def decodeOp05 (wd : Nat) : Except Reject Instr :=
  match fld wd 0 10 with
  | 0 => .ok (.seq (bits wd 20 5) (bits wd 15 5) (bits wd 10 5))
  | 1 => .ok (.sne (bits wd 20 5) (bits wd 15 5) (bits wd 10 5))
  | 2 => .ok (.sltI64 (bits wd 20 5) (bits wd 15 5) (bits wd 10 5))
  | 3 => .ok (.sltW64 (bits wd 20 5) (bits wd 15 5) (bits wd 10 5))
  | 4 => .ok (.sleI64 (bits wd 20 5) (bits wd 15 5) (bits wd 10 5))
  | 5 => .ok (.sleW64 (bits wd 20 5) (bits wd 15 5) (bits wd 10 5))
  | 6 => .ok (.minI64 (bits wd 20 5) (bits wd 15 5) (bits wd 10 5))
  | 7 => .ok (.minW64 (bits wd 20 5) (bits wd 15 5) (bits wd 10 5))
  | 8 => .ok (.maxI64 (bits wd 20 5) (bits wd 15 5) (bits wd 10 5))
  | 9 => .ok (.maxW64 (bits wd 20 5) (bits wd 15 5) (bits wd 10 5))
  | 10 => .ok (.czn (bits wd 20 5) (bits wd 15 5) (bits wd 10 5))
  | 11 => .ok (.czz (bits wd 20 5) (bits wd 15 5) (bits wd 10 5))
  | _ => .error .function

/-- OP 0x06. -/
def decodeOp06 (wd : Nat) : Except Reject Instr :=
  match fld wd 0 5 with
  | 0 => (match SFmt.ofCode (fld wd 8 2) with | some t => (match Rm.ofCode (fld wd 5 3) with | some rm => .ok (.fadd t rm (bits wd 20 5) (bits wd 15 5) (bits wd 10 5)) | none => .error .rounding) | none => .error .typeCode)
  | 1 => (match SFmt.ofCode (fld wd 8 2) with | some t => (match Rm.ofCode (fld wd 5 3) with | some rm => .ok (.fsub t rm (bits wd 20 5) (bits wd 15 5) (bits wd 10 5)) | none => .error .rounding) | none => .error .typeCode)
  | 2 => (match SFmt.ofCode (fld wd 8 2) with | some t => (match Rm.ofCode (fld wd 5 3) with | some rm => .ok (.fmul t rm (bits wd 20 5) (bits wd 15 5) (bits wd 10 5)) | none => .error .rounding) | none => .error .typeCode)
  | 3 => (match SFmt.ofCode (fld wd 8 2) with | some t => (match Rm.ofCode (fld wd 5 3) with | some rm => .ok (.fdiv t rm (bits wd 20 5) (bits wd 15 5) (bits wd 10 5)) | none => .error .rounding) | none => .error .typeCode)
  | 4 => (match SFmt.ofCode (fld wd 8 2) with | some t => (match Rm.ofCode (fld wd 5 3) with | some rm => .ok (.fsqrt t rm (bits wd 20 5) (bits wd 15 5)) | none => .error .rounding) | none => .error .typeCode)
  | 5 => (match SFmt.ofCode (fld wd 8 2) with | some t => .ok (.fmin t (bits wd 20 5) (bits wd 15 5) (bits wd 10 5)) | none => .error .typeCode)
  | 6 => (match SFmt.ofCode (fld wd 8 2) with | some t => .ok (.fmax t (bits wd 20 5) (bits wd 15 5) (bits wd 10 5)) | none => .error .typeCode)
  | 7 => (match SFmt.ofCode (fld wd 8 2) with | some t => .ok (.fsgnj t (bits wd 20 5) (bits wd 15 5) (bits wd 10 5)) | none => .error .typeCode)
  | 8 => (match SFmt.ofCode (fld wd 8 2) with | some t => .ok (.fsgnjn t (bits wd 20 5) (bits wd 15 5) (bits wd 10 5)) | none => .error .typeCode)
  | 9 => (match SFmt.ofCode (fld wd 8 2) with | some t => .ok (.fsgnjx t (bits wd 20 5) (bits wd 15 5) (bits wd 10 5)) | none => .error .typeCode)
  | 10 => (match SFmt.ofCode (fld wd 8 2) with | some t => (match Rm.ofCode (fld wd 5 3) with | some rm => .ok (.fmac t rm (bits wd 20 5) (bits wd 15 5) (bits wd 10 5)) | none => .error .rounding) | none => .error .typeCode)
  | 11 => (match SFmt.ofCode (fld wd 8 2) with | some t => (match Rm.ofCode (fld wd 5 3) with | some rm => .ok (.fmsc t rm (bits wd 20 5) (bits wd 15 5) (bits wd 10 5)) | none => .error .rounding) | none => .error .typeCode)
  | _ => .error .function

/-- OP 0x07. -/
def decodeOp07 (wd : Nat) : Except Reject Instr :=
  if fld wd 8 2 ≠ 0 then .error .typeCode else
  match fld wd 0 5 with
  | 0 => (match Rm.ofCode (fld wd 5 3) with | some rm => .ok (.fcvtF32F64 rm (bits wd 20 5) (bits wd 15 5)) | none => .error .rounding)
  | 1 => .ok (.fcvtF64F32 (bits wd 20 5) (bits wd 15 5))
  | 2 => (match Rm.ofCode (fld wd 5 3) with | some rm => .ok (.fcvtF16F32 rm (bits wd 20 5) (bits wd 15 5)) | none => .error .rounding)
  | 3 => .ok (.fcvtF32F16 (bits wd 20 5) (bits wd 15 5))
  | 4 => (match Rm.ofCode (fld wd 5 3) with | some rm => .ok (.fcvtBf16F32 rm (bits wd 20 5) (bits wd 15 5)) | none => .error .rounding)
  | 5 => .ok (.fcvtF32Bf16 (bits wd 20 5) (bits wd 15 5))
  | 6 => (match Rm.ofCode (fld wd 5 3) with | some rm => .ok (.fcvtF16F64 rm (bits wd 20 5) (bits wd 15 5)) | none => .error .rounding)
  | 7 => .ok (.fcvtF64F16 (bits wd 20 5) (bits wd 15 5))
  | 8 => (match Rm.ofCode (fld wd 5 3) with | some rm => .ok (.fcvtF64I64 rm (bits wd 20 5) (bits wd 15 5)) | none => .error .rounding)
  | 9 => (match Rm.ofCode (fld wd 5 3) with | some rm => .ok (.fcvtF64W64 rm (bits wd 20 5) (bits wd 15 5)) | none => .error .rounding)
  | 10 => (match Rm.ofCode (fld wd 5 3) with | some rm => .ok (.fcvtF32I64 rm (bits wd 20 5) (bits wd 15 5)) | none => .error .rounding)
  | 11 => (match Rm.ofCode (fld wd 5 3) with | some rm => .ok (.fcvtF32W64 rm (bits wd 20 5) (bits wd 15 5)) | none => .error .rounding)
  | 12 => (match Rm.ofCode (fld wd 5 3) with | some rm => .ok (.fcvtI64F64 rm (bits wd 20 5) (bits wd 15 5)) | none => .error .rounding)
  | 13 => (match Rm.ofCode (fld wd 5 3) with | some rm => .ok (.fcvtW64F64 rm (bits wd 20 5) (bits wd 15 5)) | none => .error .rounding)
  | 14 => (match Rm.ofCode (fld wd 5 3) with | some rm => .ok (.fcvtI64F32 rm (bits wd 20 5) (bits wd 15 5)) | none => .error .rounding)
  | 15 => (match Rm.ofCode (fld wd 5 3) with | some rm => .ok (.fcvtW64F32 rm (bits wd 20 5) (bits wd 15 5)) | none => .error .rounding)
  | 16 => (match Rm.ofCode (fld wd 5 3) with | some rm => .ok (.fcvtI32F64 rm (bits wd 20 5) (bits wd 15 5)) | none => .error .rounding)
  | 17 => (match Rm.ofCode (fld wd 5 3) with | some rm => .ok (.fcvtW32F64 rm (bits wd 20 5) (bits wd 15 5)) | none => .error .rounding)
  | 18 => (match Rm.ofCode (fld wd 5 3) with | some rm => .ok (.fcvtI32F32 rm (bits wd 20 5) (bits wd 15 5)) | none => .error .rounding)
  | 19 => (match Rm.ofCode (fld wd 5 3) with | some rm => .ok (.fcvtW32F32 rm (bits wd 20 5) (bits wd 15 5)) | none => .error .rounding)
  | 20 => .ok (.fclassF64 (bits wd 20 5) (bits wd 15 5))
  | 21 => .ok (.fclassF32 (bits wd 20 5) (bits wd 15 5))
  | 22 => .ok (.feqF64 (bits wd 20 5) (bits wd 15 5) (bits wd 10 5))
  | 23 => .ok (.fltF64 (bits wd 20 5) (bits wd 15 5) (bits wd 10 5))
  | 24 => .ok (.fleF64 (bits wd 20 5) (bits wd 15 5) (bits wd 10 5))
  | 25 => .ok (.feqF32 (bits wd 20 5) (bits wd 15 5) (bits wd 10 5))
  | 26 => .ok (.fltF32 (bits wd 20 5) (bits wd 15 5) (bits wd 10 5))
  | 27 => .ok (.fleF32 (bits wd 20 5) (bits wd 15 5) (bits wd 10 5))
  | _ => .error .function

/-- OP 0x08. -/
def decodeOp08 (wd : Nat) : Except Reject Instr :=
  .ok (.addi (bits wd 20 5) (bits wd 15 5) (bits wd 0 15))

/-- OP 0x09. -/
def decodeOp09 (wd : Nat) : Except Reject Instr :=
  .ok (.andi (bits wd 20 5) (bits wd 15 5) (bits wd 0 15))

/-- OP 0x0A. -/
def decodeOp0A (wd : Nat) : Except Reject Instr :=
  .ok (.ori (bits wd 20 5) (bits wd 15 5) (bits wd 0 15))

/-- OP 0x0B. -/
def decodeOp0B (wd : Nat) : Except Reject Instr :=
  .ok (.xori (bits wd 20 5) (bits wd 15 5) (bits wd 0 15))

/-- OP 0x0C. -/
def decodeOp0C (wd : Nat) : Except Reject Instr :=
  .ok (.sltiI64 (bits wd 20 5) (bits wd 15 5) (bits wd 0 15))

/-- OP 0x0D. -/
def decodeOp0D (wd : Nat) : Except Reject Instr :=
  match fld wd 13 2 with
  | 0 => .ok (.slli (bits wd 20 5) (bits wd 15 5) (bits wd 0 6))
  | 1 => .ok (.srli (bits wd 20 5) (bits wd 15 5) (bits wd 0 6))
  | 2 => .ok (.srai (bits wd 20 5) (bits wd 15 5) (bits wd 0 6))
  | 3 => .ok (.rori (bits wd 20 5) (bits wd 15 5) (bits wd 0 6))
  | _ => .error .function

/-- OP 0x0E. -/
def decodeOp0E (wd : Nat) : Except Reject Instr :=
  .ok (.sltiW64 (bits wd 20 5) (bits wd 15 5) (bits wd 0 15))

/-- OP 0x0F. -/
def decodeOp0F (wd : Nat) : Except Reject Instr :=
  .ok (.lih (bits wd 20 5) (bits wd 0 20))

/-- OP 0x10. -/
def decodeOp10 (wd : Nat) : Except Reject Instr :=
  .ok (.addpc (bits wd 20 5) (bits wd 0 20))

/-- OP 0x11. -/
def decodeOp11 (wd : Nat) : Except Reject Instr :=
  .ok (.jal (bits wd 20 5) (bits wd 0 20))

/-- OP 0x12. -/
def decodeOp12 (wd : Nat) : Except Reject Instr :=
  .ok (.jalr (bits wd 20 5) (bits wd 15 5) (bits wd 0 15))

/-- OP 0x13. -/
def decodeOp13 (wd : Nat) : Except Reject Instr :=
  .ok (.beq (bits wd 20 5) (bits wd 15 5) (bits wd 0 15))

/-- OP 0x14. -/
def decodeOp14 (wd : Nat) : Except Reject Instr :=
  .ok (.bne (bits wd 20 5) (bits wd 15 5) (bits wd 0 15))

/-- OP 0x15. -/
def decodeOp15 (wd : Nat) : Except Reject Instr :=
  .ok (.bltI64 (bits wd 20 5) (bits wd 15 5) (bits wd 0 15))

/-- OP 0x16. -/
def decodeOp16 (wd : Nat) : Except Reject Instr :=
  .ok (.bgeI64 (bits wd 20 5) (bits wd 15 5) (bits wd 0 15))

/-- OP 0x17. -/
def decodeOp17 (wd : Nat) : Except Reject Instr :=
  .ok (.bltW64 (bits wd 20 5) (bits wd 15 5) (bits wd 0 15))

/-- OP 0x18. -/
def decodeOp18 (wd : Nat) : Except Reject Instr :=
  .ok (.bgeW64 (bits wd 20 5) (bits wd 15 5) (bits wd 0 15))

/-- OP 0x19. -/
def decodeOp19 (wd : Nat) : Except Reject Instr :=
  .ok (.loop (bits wd 15 5) (bits wd 0 15))

/-- OP 0x1A. -/
def decodeOp1A (wd : Nat) : Except Reject Instr :=
  .ok (.loopi (bits wd 15 10) (bits wd 0 15))

/-- OP 0x20. -/
def decodeOp20 (wd : Nat) : Except Reject Instr :=
  .ok (.ldI8 (bits wd 20 5) (bits wd 15 5) (bits wd 11 4) (bits wd 0 11))

/-- OP 0x21. -/
def decodeOp21 (wd : Nat) : Except Reject Instr :=
  .ok (.ldW8 (bits wd 20 5) (bits wd 15 5) (bits wd 11 4) (bits wd 0 11))

/-- OP 0x22. -/
def decodeOp22 (wd : Nat) : Except Reject Instr :=
  .ok (.ldI16 (bits wd 20 5) (bits wd 15 5) (bits wd 11 4) (bits wd 0 11))

/-- OP 0x23. -/
def decodeOp23 (wd : Nat) : Except Reject Instr :=
  .ok (.ldW16 (bits wd 20 5) (bits wd 15 5) (bits wd 11 4) (bits wd 0 11))

/-- OP 0x24. -/
def decodeOp24 (wd : Nat) : Except Reject Instr :=
  .ok (.ldI32 (bits wd 20 5) (bits wd 15 5) (bits wd 11 4) (bits wd 0 11))

/-- OP 0x25. -/
def decodeOp25 (wd : Nat) : Except Reject Instr :=
  .ok (.ldW32 (bits wd 20 5) (bits wd 15 5) (bits wd 11 4) (bits wd 0 11))

/-- OP 0x26. -/
def decodeOp26 (wd : Nat) : Except Reject Instr :=
  .ok (.ldI64 (bits wd 20 5) (bits wd 15 5) (bits wd 11 4) (bits wd 0 11))

/-- OP 0x28. -/
def decodeOp28 (wd : Nat) : Except Reject Instr :=
  .ok (.stW8 (bits wd 20 5) (bits wd 15 5) (bits wd 11 4) (bits wd 0 11))

/-- OP 0x29. -/
def decodeOp29 (wd : Nat) : Except Reject Instr :=
  .ok (.stW16 (bits wd 20 5) (bits wd 15 5) (bits wd 11 4) (bits wd 0 11))

/-- OP 0x2A. -/
def decodeOp2A (wd : Nat) : Except Reject Instr :=
  .ok (.stW32 (bits wd 20 5) (bits wd 15 5) (bits wd 11 4) (bits wd 0 11))

/-- OP 0x2B. -/
def decodeOp2B (wd : Nat) : Except Reject Instr :=
  .ok (.stW64 (bits wd 20 5) (bits wd 15 5) (bits wd 11 4) (bits wd 0 11))

/-- OP 0x2C. -/
def decodeOp2C (wd : Nat) : Except Reject Instr :=
  match fld wd 2 4 with
  | 0 | 1 => (match LdTy.ofCode (fld wd 0 3) with | some t => .ok (.ldx t (bits wd 20 5) (bits wd 15 5) (bits wd 10 5) (bits wd 6 4)) | none => .error .typeCode)
  | 2 => .ok (.stx (bits wd 0 2) (bits wd 20 5) (bits wd 15 5) (bits wd 10 5) (bits wd 6 4))
  | 4 => .ok (.stAck (bits wd 0 2) (bits wd 20 5) (bits wd 15 5) (bits wd 10 5) (bits wd 6 4))
  | 6 => .ok (.ldAck (bits wd 0 2) (bits wd 20 5) (bits wd 15 5) (bits wd 10 5) (bits wd 6 4))
  | _ => .error .function

/-- OP 0x2D. -/
def decodeOp2D (wd : Nat) : Except Reject Instr :=
  match fld wd 2 4 with
  | 0 => (match AWidth.ofCode (fld wd 0 2) with | some w => .ok (.aswap w (bits wd 20 5) (bits wd 15 5) (bits wd 10 5) (bits wd 6 4)) | none => .error .typeCode)
  | 2 => (match AWidth.ofCode (fld wd 0 2) with | some w => .ok (.acas w (bits wd 20 5) (bits wd 15 5) (bits wd 10 5) (bits wd 6 4)) | none => .error .typeCode)
  | 4 => (match AWidth.ofCode (fld wd 0 2) with | some w => .ok (.aadd w (bits wd 20 5) (bits wd 15 5) (bits wd 10 5) (bits wd 6 4)) | none => .error .typeCode)
  | 6 => (match AWidth.ofCode (fld wd 0 2) with | some w => .ok (.aand w (bits wd 20 5) (bits wd 15 5) (bits wd 10 5) (bits wd 6 4)) | none => .error .typeCode)
  | 8 => (match AWidth.ofCode (fld wd 0 2) with | some w => .ok (.aor w (bits wd 20 5) (bits wd 15 5) (bits wd 10 5) (bits wd 6 4)) | none => .error .typeCode)
  | 10 => (match AWidth.ofCode (fld wd 0 2) with | some w => .ok (.axor w (bits wd 20 5) (bits wd 15 5) (bits wd 10 5) (bits wd 6 4)) | none => .error .typeCode)
  | 12 | 13 => (match AWidth.ofCode (fld wd 0 2) with | some w => .ok (.amin (fld wd 2 1 == 1) w (bits wd 20 5) (bits wd 15 5) (bits wd 10 5) (bits wd 6 4)) | none => .error .typeCode)
  | 14 | 15 => (match AWidth.ofCode (fld wd 0 2) with | some w => .ok (.amax (fld wd 2 1 == 1) w (bits wd 20 5) (bits wd 15 5) (bits wd 10 5) (bits wd 6 4)) | none => .error .typeCode)
  | _ => .error .function

/-- OP 0x2E. -/
def decodeOp2E (wd : Nat) : Except Reject Instr :=
  match fld wd 3 3 with
  | 0 => (match Scope.ofCode (fld wd 0 3) with | some sc => .ok (.fenceRel sc (bits wd 6 4)) | none => .error .typeCode)
  | 1 => (match Scope.ofCode (fld wd 0 3) with | some sc => .ok (.fenceAcq sc (bits wd 6 4)) | none => .error .typeCode)
  | 2 => (match Scope.ofCode (fld wd 0 3) with | some sc => .ok (.fenceFull sc (bits wd 6 4)) | none => .error .typeCode)
  | 3 => if fld wd 0 3 = 0 then .ok (.fenceAck (bits wd 6 4)) else .error .literal
  | _ => .error .function

/-- OP 0x2F. -/
def decodeOp2F (wd : Nat) : Except Reject Instr :=
  match fld wd 0 6 with
  | 0 => .ok (.alook (bits wd 20 5) (bits wd 15 5) (bits wd 6 4))
  | 1 => .ok (.alfill (bits wd 20 5) (bits wd 15 5) (bits wd 10 5) (bits wd 6 4))
  | 2 => .ok (.alevict (bits wd 15 5) (bits wd 6 4))
  | _ => .error .function

/-- OP 0x30. -/
def decodeOp30 (wd : Nat) : Except Reject Instr :=
  match fld wd 0 6 with
  | 0 => .ok (.bar (bits wd 15 5) (bits wd 6 4))
  | 1 => .ok (.bcastSend (bits wd 15 5) (bits wd 10 5) (bits wd 6 4))
  | 2 => .ok (.bcastRecv (bits wd 20 5) (bits wd 15 5) (bits wd 6 4))
  | 3 => .ok (.redAdd (bits wd 20 5) (bits wd 15 5) (bits wd 10 5) (bits wd 6 4))
  | 4 => .ok (.redMinI64 (bits wd 20 5) (bits wd 15 5) (bits wd 10 5) (bits wd 6 4))
  | 5 => .ok (.redMinW64 (bits wd 20 5) (bits wd 15 5) (bits wd 10 5) (bits wd 6 4))
  | 6 => .ok (.redMaxI64 (bits wd 20 5) (bits wd 15 5) (bits wd 10 5) (bits wd 6 4))
  | 7 => .ok (.redMaxW64 (bits wd 20 5) (bits wd 15 5) (bits wd 10 5) (bits wd 6 4))
  | 8 => .ok (.daybarFill (bits wd 15 5) (bits wd 6 4))
  | 9 => .ok (.daybarDrain (bits wd 15 5) (bits wd 6 4))
  | _ => .error .function

/-- OP 0x31. -/
def decodeOp31 (wd : Nat) : Except Reject Instr :=
  match fld wd 0 6 with
  | 0 => .ok (.vigilQne (bits wd 20 5) (bits wd 15 5) (bits wd 10 5) (bits wd 6 4))
  | 1 => .ok (.vigilQnf (bits wd 20 5) (bits wd 15 5) (bits wd 10 5) (bits wd 6 4))
  | 2 => .ok (.vigilReady (bits wd 20 5) (bits wd 15 5) (bits wd 10 5) (bits wd 6 4))
  | 3 => .ok (.vigilRoom (bits wd 20 5) (bits wd 15 5) (bits wd 10 5) (bits wd 6 4))
  | 8 => .ok (.qcount (bits wd 20 5) (bits wd 15 5) (bits wd 6 4))
  | _ => .error .function

/-- OP 0x32. -/
def decodeOp32 (wd : Nat) : Except Reject Instr :=
  match fld wd 0 6 with
  | 0 => .ok (.spawn (bits wd 15 5) (bits wd 6 4))
  | 1 => .ok (.take (bits wd 20 5) (bits wd 6 4))
  | 2 => .ok (.join (bits wd 15 5) (bits wd 6 4))
  | 3 => .ok (.yield (bits wd 6 4))
  | 4 => .ok (.retire (bits wd 6 4))
  | _ => .error .function

/-- OP 0x38. -/
def decodeOp38 (wd : Nat) : Except Reject Instr :=
  match fld wd 0 6 with
  | 0 => .ok (.laz (bits wd 15 5) (bits wd 6 4))
  | 1 => .ok (.laadd (bits wd 15 5) (bits wd 10 5) (bits wd 6 4))
  | 2 => .ok (.laaddp (bits wd 15 5) (bits wd 10 5) (bits wd 20 5) (bits wd 6 4))
  | 3 => .ok (.larndF32 (bits wd 20 5) (bits wd 15 5) (bits wd 6 4))
  | 4 => .ok (.larndF64 (bits wd 20 5) (bits wd 15 5) (bits wd 6 4))
  | _ => .error .function

/-- OP 0x39. -/
def decodeOp39 (wd : Nat) : Except Reject Instr :=
  match fld wd 0 6 with
  | 0 => .ok (.cpy (bits wd 20 5) (bits wd 15 5) (bits wd 10 5) (bits wd 6 4))
  | 1 => .ok (.cpy2 (bits wd 20 5) (bits wd 15 5) (bits wd 10 5) (bits wd 6 4))
  | 2 => .ok (.cpyh (bits wd 20 5) (bits wd 15 5) (bits wd 10 5) (bits wd 6 4))
  | 3 => .ok (.cpyf (bits wd 20 5) (bits wd 15 5) (bits wd 10 5) (bits wd 6 4))
  | 4 => .ok (.cpycan (bits wd 20 5) (bits wd 6 4))
  | _ => .error .function

/-- OP 0x3A. -/
def decodeOp3A (wd : Nat) : Except Reject Instr :=
  match fld wd 0 10 with
  | 0 => .ok (.erd (bits wd 20 5) (bits wd 15 5))
  | 1 => .ok (.ewr (bits wd 20 5) (bits wd 15 5))
  | _ => .error .function

/-- OP 0x40. -/
def decodeOp40 (wd : Nat) : Except Reject Instr :=
  match fld wd 3 3 with
  | 0 => .ok (.vld (bits wd 20 5) (bits wd 15 5) (bits wd 10 5) (bits wd 6 4) (bits wd 0 3))
  | 1 => .ok (.vst (bits wd 20 5) (bits wd 15 5) (bits wd 10 5) (bits wd 6 4) (bits wd 0 3))
  | 2 => .ok (.vldZ (bits wd 20 5) (bits wd 15 5) (bits wd 10 5) (bits wd 6 4) (bits wd 0 3))
  | 3 => .ok (.vgathW32 (bits wd 20 5) (bits wd 15 5) (bits wd 10 5) (bits wd 6 4) (bits wd 0 3))
  | 4 => .ok (.vscatW32 (bits wd 20 5) (bits wd 15 5) (bits wd 10 5) (bits wd 6 4) (bits wd 0 3))
  | 5 => .ok (.vgathW16 (bits wd 20 5) (bits wd 15 5) (bits wd 10 5) (bits wd 6 4) (bits wd 0 3))
  | 6 => .ok (.vscatW16 (bits wd 20 5) (bits wd 15 5) (bits wd 10 5) (bits wd 6 4) (bits wd 0 3))
  | 7 => .ok (.vlbc (bits wd 20 5) (bits wd 15 5) (bits wd 10 5) (bits wd 6 4) (bits wd 0 3))
  | _ => .error .function

/-- OP 0x41. -/
def decodeOp41 (wd : Nat) : Except Reject Instr :=
  match fld wd 3 3 with
  | 0 => (match LaneTy.ofCode (fld wd 0 3) with | some t => .ok (.vadd t (bits wd 20 5) (bits wd 15 5) (bits wd 10 5) (bits wd 7 3) (fld wd 6 1 == 1)) | none => .error .typeCode)
  | 1 => (match LaneTy.ofCode (fld wd 0 3) with | some t => .ok (.vsub t (bits wd 20 5) (bits wd 15 5) (bits wd 10 5) (bits wd 7 3) (fld wd 6 1 == 1)) | none => .error .typeCode)
  | 2 => (match LaneTy.ofCode (fld wd 0 3) with | some t => .ok (.vmul t (bits wd 20 5) (bits wd 15 5) (bits wd 10 5) (bits wd 7 3) (fld wd 6 1 == 1)) | none => .error .typeCode)
  | 3 => (match LaneTy.ofCode (fld wd 0 3) with | some t => .ok (.vmulh t (bits wd 20 5) (bits wd 15 5) (bits wd 10 5) (bits wd 7 3) (fld wd 6 1 == 1)) | none => .error .typeCode)
  | 4 => (match LaneTy.ofCode (fld wd 0 3) with | some t => .ok (.vmin t (bits wd 20 5) (bits wd 15 5) (bits wd 10 5) (bits wd 7 3) (fld wd 6 1 == 1)) | none => .error .typeCode)
  | 5 => (match LaneTy.ofCode (fld wd 0 3) with | some t => .ok (.vmax t (bits wd 20 5) (bits wd 15 5) (bits wd 10 5) (bits wd 7 3) (fld wd 6 1 == 1)) | none => .error .typeCode)
  | 6 => (match LaneTy.ofCode (fld wd 0 3) with | some t => .ok (.vadds t (bits wd 20 5) (bits wd 15 5) (bits wd 10 5) (bits wd 7 3) (fld wd 6 1 == 1)) | none => .error .typeCode)
  | 7 => (match LaneTy.ofCode (fld wd 0 3) with | some t => .ok (.vsubs t (bits wd 20 5) (bits wd 15 5) (bits wd 10 5) (bits wd 7 3) (fld wd 6 1 == 1)) | none => .error .typeCode)
  | _ => .error .function

/-- OP 0x42. -/
def decodeOp42 (wd : Nat) : Except Reject Instr :=
  match fld wd 3 3 with
  | 0 => .ok (.vand (bits wd 20 5) (bits wd 15 5) (bits wd 10 5) (bits wd 7 3) (fld wd 6 1 == 1))
  | 1 => .ok (.vor (bits wd 20 5) (bits wd 15 5) (bits wd 10 5) (bits wd 7 3) (fld wd 6 1 == 1))
  | 2 => .ok (.vxor (bits wd 20 5) (bits wd 15 5) (bits wd 10 5) (bits wd 7 3) (fld wd 6 1 == 1))
  | 3 => .ok (.vandn (bits wd 20 5) (bits wd 15 5) (bits wd 10 5) (bits wd 7 3) (fld wd 6 1 == 1))
  | 4 => (match LaneTy.ofCode (fld wd 0 3) with | some t => .ok (.vsll t (bits wd 20 5) (bits wd 15 5) (bits wd 10 5) (bits wd 7 3) (fld wd 6 1 == 1)) | none => .error .typeCode)
  | 5 => (match LaneTy.ofCode (fld wd 0 3) with | some t => .ok (.vsrl t (bits wd 20 5) (bits wd 15 5) (bits wd 10 5) (bits wd 7 3) (fld wd 6 1 == 1)) | none => .error .typeCode)
  | 6 => (match LaneTy.ofCode (fld wd 0 3) with | some t => .ok (.vsra t (bits wd 20 5) (bits wd 15 5) (bits wd 10 5) (bits wd 7 3) (fld wd 6 1 == 1)) | none => .error .typeCode)
  | _ => .error .function

/-- OP 0x43. -/
def decodeOp43 (wd : Nat) : Except Reject Instr :=
  match fld wd 3 3 with
  | 0 => (match FLane.ofCode (fld wd 0 3) with | some t => .ok (.vfadd t (bits wd 20 5) (bits wd 15 5) (bits wd 10 5) (bits wd 7 3) (fld wd 6 1 == 1)) | none => .error .typeCode)
  | 1 => (match FLane.ofCode (fld wd 0 3) with | some t => .ok (.vfsub t (bits wd 20 5) (bits wd 15 5) (bits wd 10 5) (bits wd 7 3) (fld wd 6 1 == 1)) | none => .error .typeCode)
  | 2 => (match FLane.ofCode (fld wd 0 3) with | some t => .ok (.vfmul t (bits wd 20 5) (bits wd 15 5) (bits wd 10 5) (bits wd 7 3) (fld wd 6 1 == 1)) | none => .error .typeCode)
  | 3 => (match FLane.ofCode (fld wd 0 3) with | some t => .ok (.vfdiv t (bits wd 20 5) (bits wd 15 5) (bits wd 10 5) (bits wd 7 3) (fld wd 6 1 == 1)) | none => .error .typeCode)
  | 4 => (match FLane.ofCode (fld wd 0 3) with | some t => .ok (.vfsqrt t (bits wd 20 5) (bits wd 15 5) (bits wd 7 3) (fld wd 6 1 == 1)) | none => .error .typeCode)
  | 5 => (match FLane.ofCode (fld wd 0 3) with | some t => .ok (.vfmin t (bits wd 20 5) (bits wd 15 5) (bits wd 10 5) (bits wd 7 3) (fld wd 6 1 == 1)) | none => .error .typeCode)
  | 6 => (match FLane.ofCode (fld wd 0 3) with | some t => .ok (.vfmax t (bits wd 20 5) (bits wd 15 5) (bits wd 10 5) (bits wd 7 3) (fld wd 6 1 == 1)) | none => .error .typeCode)
  | 7 => (match FLane.ofCode (fld wd 0 3) with | some t => .ok (.vfabs t (bits wd 20 5) (bits wd 15 5) (bits wd 7 3) (fld wd 6 1 == 1)) | none => .error .typeCode)
  | _ => .error .function

/-- OP 0x44. -/
def decodeOp44 (wd : Nat) : Except Reject Instr :=
  match fld wd 0 2 with
  | 0 => .ok (.vfmaF32 (bits wd 20 5) (bits wd 15 5) (bits wd 10 5) (bits wd 5 5) (bits wd 2 3))
  | 1 => .ok (.vfmsF32 (bits wd 20 5) (bits wd 15 5) (bits wd 10 5) (bits wd 5 5) (bits wd 2 3))
  | 2 => .ok (.vfnmaF32 (bits wd 20 5) (bits wd 15 5) (bits wd 10 5) (bits wd 5 5) (bits wd 2 3))
  | 3 => .ok (.vfnmsF32 (bits wd 20 5) (bits wd 15 5) (bits wd 10 5) (bits wd 5 5) (bits wd 2 3))
  | _ => .error .function

/-- OP 0x45. -/
def decodeOp45 (wd : Nat) : Except Reject Instr :=
  match fld wd 0 2 with
  | 0 => .ok (.vfmaF16 (bits wd 20 5) (bits wd 15 5) (bits wd 10 5) (bits wd 5 5) (bits wd 2 3))
  | 1 => .ok (.vfmaBf16 (bits wd 20 5) (bits wd 15 5) (bits wd 10 5) (bits wd 5 5) (bits wd 2 3))
  | 2 => .ok (.vmaddI32 (bits wd 20 5) (bits wd 15 5) (bits wd 10 5) (bits wd 5 5) (bits wd 2 3))
  | 3 => .ok (.vmaddI16 (bits wd 20 5) (bits wd 15 5) (bits wd 10 5) (bits wd 5 5) (bits wd 2 3))
  | _ => .error .function

/-- OP 0x46. -/
def decodeOp46 (wd : Nat) : Except Reject Instr :=
  match fld wd 3 3 with
  | 0 => (match LaneTy.ofCode (fld wd 0 3) with | some t => .ok (.vceq t (bits wd 20 5) (bits wd 15 5) (bits wd 10 5) (bits wd 7 3) (fld wd 6 1 == 1)) | none => .error .typeCode)
  | 1 => (match LaneTy.ofCode (fld wd 0 3) with | some t => .ok (.vcne t (bits wd 20 5) (bits wd 15 5) (bits wd 10 5) (bits wd 7 3) (fld wd 6 1 == 1)) | none => .error .typeCode)
  | 2 => (match LaneTy.ofCode (fld wd 0 3) with | some t => .ok (.vclt t (bits wd 20 5) (bits wd 15 5) (bits wd 10 5) (bits wd 7 3) (fld wd 6 1 == 1)) | none => .error .typeCode)
  | 3 => (match LaneTy.ofCode (fld wd 0 3) with | some t => .ok (.vcle t (bits wd 20 5) (bits wd 15 5) (bits wd 10 5) (bits wd 7 3) (fld wd 6 1 == 1)) | none => .error .typeCode)
  | 4 => (match FLane.ofCode (fld wd 0 3) with | some t => .ok (.vcfeq t (bits wd 20 5) (bits wd 15 5) (bits wd 10 5) (bits wd 7 3) (fld wd 6 1 == 1)) | none => .error .typeCode)
  | 5 => (match FLane.ofCode (fld wd 0 3) with | some t => .ok (.vcflt t (bits wd 20 5) (bits wd 15 5) (bits wd 10 5) (bits wd 7 3) (fld wd 6 1 == 1)) | none => .error .typeCode)
  | 6 => (match FLane.ofCode (fld wd 0 3) with | some t => .ok (.vcfle t (bits wd 20 5) (bits wd 15 5) (bits wd 10 5) (bits wd 7 3) (fld wd 6 1 == 1)) | none => .error .typeCode)
  | 7 => (match FLane.ofCode (fld wd 0 3) with | some t => .ok (.vcfun t (bits wd 20 5) (bits wd 15 5) (bits wd 10 5) (bits wd 7 3) (fld wd 6 1 == 1)) | none => .error .typeCode)
  | _ => .error .function

/-- OP 0x47. -/
def decodeOp47 (wd : Nat) : Except Reject Instr :=
  match fld wd 0 3 with
  | 0 => .ok (.pand (bits wd 20 5) (bits wd 15 5) (bits wd 10 5))
  | 1 => .ok (.por (bits wd 20 5) (bits wd 15 5) (bits wd 10 5))
  | 2 => .ok (.pxor (bits wd 20 5) (bits wd 15 5) (bits wd 10 5))
  | 3 => .ok (.pandn (bits wd 20 5) (bits wd 15 5) (bits wd 10 5))
  | 4 => .ok (.pnot (bits wd 20 5) (bits wd 15 5))
  | 5 => .ok (.pfromg (bits wd 20 5) (bits wd 15 5))
  | 6 => .ok (.ptog (bits wd 20 5) (bits wd 15 5))
  | _ => .error .function

/-- OP 0x48. -/
def decodeOp48 (wd : Nat) : Except Reject Instr :=
  match fld wd 3 3 with
  | 0 => (match LaneTy.ofCode (fld wd 0 3) with | some t => .ok (.vperm t (bits wd 20 5) (bits wd 15 5) (bits wd 10 5) (bits wd 7 3) (fld wd 6 1 == 1)) | none => .error .typeCode)
  | 1 => (match LaneTy.ofCode (fld wd 0 3) with | some t => .ok (.vzipl t (bits wd 20 5) (bits wd 15 5) (bits wd 10 5) (bits wd 7 3) (fld wd 6 1 == 1)) | none => .error .typeCode)
  | 2 => (match LaneTy.ofCode (fld wd 0 3) with | some t => .ok (.vziph t (bits wd 20 5) (bits wd 15 5) (bits wd 10 5) (bits wd 7 3) (fld wd 6 1 == 1)) | none => .error .typeCode)
  | 3 => (match LaneTy.ofCode (fld wd 0 3) with | some t => .ok (.vunzpe t (bits wd 20 5) (bits wd 15 5) (bits wd 10 5) (bits wd 7 3) (fld wd 6 1 == 1)) | none => .error .typeCode)
  | 4 => (match LaneTy.ofCode (fld wd 0 3) with | some t => .ok (.vunzpo t (bits wd 20 5) (bits wd 15 5) (bits wd 10 5) (bits wd 7 3) (fld wd 6 1 == 1)) | none => .error .typeCode)
  | 5 => (match LaneTy.ofCode (fld wd 0 3) with | some t => .ok (.vrev t (bits wd 20 5) (bits wd 15 5) (bits wd 7 3) (fld wd 6 1 == 1)) | none => .error .typeCode)
  | 6 => (match LaneTy.ofCode (fld wd 0 3) with | some t => .ok (.vslide t (bits wd 20 5) (bits wd 15 5) (bits wd 10 5) (bits wd 7 3) (fld wd 6 1 == 1)) | none => .error .typeCode)
  | 7 => (match LaneTy.ofCode (fld wd 0 3) with | some t => .ok (.vbcl t (bits wd 20 5) (bits wd 15 5) (bits wd 10 5) (bits wd 7 3) (fld wd 6 1 == 1)) | none => .error .typeCode)
  | _ => .error .function

/-- OP 0x49. -/
def decodeOp49 (wd : Nat) : Except Reject Instr :=
  match fld wd 3 3 with
  | 0 => (match LaneTy.ofCode (fld wd 0 3) with | some t => .ok (.vradd t (bits wd 20 5) (bits wd 15 5) (bits wd 10 5) (bits wd 7 3)) | none => .error .typeCode)
  | 1 => (match LaneTy.ofCode (fld wd 0 3) with | some t => .ok (.vrmin t (bits wd 20 5) (bits wd 15 5) (bits wd 10 5) (bits wd 7 3)) | none => .error .typeCode)
  | 2 => (match LaneTy.ofCode (fld wd 0 3) with | some t => .ok (.vrmax t (bits wd 20 5) (bits wd 15 5) (bits wd 10 5) (bits wd 7 3)) | none => .error .typeCode)
  | 4 => (match FLane.ofCode (fld wd 0 3) with | some t => .ok (.vrfadd t (bits wd 20 5) (bits wd 15 5) (bits wd 10 5) (bits wd 7 3)) | none => .error .typeCode)
  | 5 => (match FLane.ofCode (fld wd 0 3) with | some t => .ok (.vrfmin t (bits wd 20 5) (bits wd 15 5) (bits wd 10 5) (bits wd 7 3)) | none => .error .typeCode)
  | 6 => (match FLane.ofCode (fld wd 0 3) with | some t => .ok (.vrfmax t (bits wd 20 5) (bits wd 15 5) (bits wd 10 5) (bits wd 7 3)) | none => .error .typeCode)
  | _ => .error .function

/-- OP 0x4A. -/
def decodeOp4A (wd : Nat) : Except Reject Instr :=
  match fld wd 0 7 with
  | 0 => .ok (.vcvtF32F16 (bits wd 20 5) (bits wd 15 5) (bits wd 7 3))
  | 1 => .ok (.vcvtF16F32 (bits wd 20 5) (bits wd 15 5) (bits wd 10 5) (bits wd 7 3))
  | 2 => .ok (.vcvtF32Bf16 (bits wd 20 5) (bits wd 15 5) (bits wd 7 3))
  | 3 => .ok (.vcvtBf16F32 (bits wd 20 5) (bits wd 15 5) (bits wd 10 5) (bits wd 7 3))
  | 4 => .ok (.vcvtF32I32 (bits wd 20 5) (bits wd 15 5) (bits wd 7 3))
  | 5 => .ok (.vcvtF32W32 (bits wd 20 5) (bits wd 15 5) (bits wd 7 3))
  | 6 => .ok (.vcvtI32F32 (bits wd 20 5) (bits wd 15 5) (bits wd 7 3))
  | 7 => .ok (.vcvtW32F32 (bits wd 20 5) (bits wd 15 5) (bits wd 7 3))
  | 8 => .ok (.vcvtI32I8 (bits wd 20 5) (bits wd 15 5) (bits wd 7 3))
  | 9 => .ok (.vcvtI8I32 (bits wd 20 5) (bits wd 15 5) (bits wd 10 5) (bits wd 7 3))
  | 16 => .ok (.vcvtF32D16 (bits wd 20 5) (bits wd 15 5) (bits wd 10 5) (bits wd 7 3))
  | 17 => .ok (.vcvtF32D8 (bits wd 20 5) (bits wd 15 5) (bits wd 10 5) (bits wd 7 3))
  | 18 => .ok (.vcvtF32D4 (bits wd 20 5) (bits wd 15 5) (bits wd 10 5) (bits wd 7 3))
  | 20 => .ok (.vcvtD16F32 (bits wd 20 5) (bits wd 15 5) (bits wd 10 5) (bits wd 7 3))
  | 21 => .ok (.vcvtD8F32 (bits wd 20 5) (bits wd 15 5) (bits wd 10 5) (bits wd 7 3))
  | 22 => .ok (.vcvtD4F32 (bits wd 20 5) (bits wd 15 5) (bits wd 10 5) (bits wd 7 3))
  | 24 => .ok (.vcvtF32E4m3 (bits wd 20 5) (bits wd 15 5) (bits wd 10 5) (bits wd 7 3))
  | 25 => .ok (.vcvtF32E5m2 (bits wd 20 5) (bits wd 15 5) (bits wd 10 5) (bits wd 7 3))
  | 26 => .ok (.vcvtF32E2m3 (bits wd 20 5) (bits wd 15 5) (bits wd 10 5) (bits wd 7 3))
  | 27 => .ok (.vcvtF32E3m2 (bits wd 20 5) (bits wd 15 5) (bits wd 10 5) (bits wd 7 3))
  | 28 => .ok (.vcvtF32E2m1 (bits wd 20 5) (bits wd 15 5) (bits wd 10 5) (bits wd 7 3))
  | 29 => .ok (.vcvtF32Mxi8 (bits wd 20 5) (bits wd 15 5) (bits wd 10 5) (bits wd 7 3))
  | 32 => .ok (.vcvtE4m3F32 (bits wd 20 5) (bits wd 15 5) (bits wd 10 5) (bits wd 7 3))
  | 33 => .ok (.vcvtE5m2F32 (bits wd 20 5) (bits wd 15 5) (bits wd 10 5) (bits wd 7 3))
  | 34 => .ok (.vcvtE2m3F32 (bits wd 20 5) (bits wd 15 5) (bits wd 10 5) (bits wd 7 3))
  | 35 => .ok (.vcvtE3m2F32 (bits wd 20 5) (bits wd 15 5) (bits wd 10 5) (bits wd 7 3))
  | 36 => .ok (.vcvtE2m1F32 (bits wd 20 5) (bits wd 15 5) (bits wd 10 5) (bits wd 7 3))
  | 37 => .ok (.vcvtMxi8F32 (bits wd 20 5) (bits wd 15 5) (bits wd 10 5) (bits wd 7 3))
  | _ => .error .function

/-- OP 0x4B. -/
def decodeOp4B (wd : Nat) : Except Reject Instr :=
  match fld wd 3 3 with
  | 0 => (match FLane.ofCode (fld wd 0 3) with | some t => .ok (.vrcp t (bits wd 20 5) (bits wd 15 5) (bits wd 7 3) (fld wd 6 1 == 1)) | none => .error .typeCode)
  | 1 => (match FLane.ofCode (fld wd 0 3) with | some t => .ok (.vrsqrt t (bits wd 20 5) (bits wd 15 5) (bits wd 7 3) (fld wd 6 1 == 1)) | none => .error .typeCode)
  | 2 => (match FLane.ofCode (fld wd 0 3) with | some t => .ok (.vexp2 t (bits wd 20 5) (bits wd 15 5) (bits wd 7 3) (fld wd 6 1 == 1)) | none => .error .typeCode)
  | 3 => (match FLane.ofCode (fld wd 0 3) with | some t => .ok (.vlog2 t (bits wd 20 5) (bits wd 15 5) (bits wd 7 3) (fld wd 6 1 == 1)) | none => .error .typeCode)
  | 4 => (match FLane.ofCode (fld wd 0 3) with | some t => .ok (.vtanh t (bits wd 20 5) (bits wd 15 5) (bits wd 7 3) (fld wd 6 1 == 1)) | none => .error .typeCode)
  | 5 => (match FLane.ofCode (fld wd 0 3) with | some t => .ok (.vsigm t (bits wd 20 5) (bits wd 15 5) (bits wd 7 3) (fld wd 6 1 == 1)) | none => .error .typeCode)
  | _ => .error .function

/-- OP 0x4C. -/
def decodeOp4C (wd : Nat) : Except Reject Instr :=
  match fld wd 3 3 with
  | 0 => (match LaneTy.ofCode (fld wd 0 3) with | some t => .ok (.vmov t (bits wd 20 5) (bits wd 15 5) (bits wd 7 3) (fld wd 6 1 == 1)) | none => .error .typeCode)
  | 1 => (match LaneTy.ofCode (fld wd 0 3) with | some t => .ok (.vdup t (bits wd 20 5) (bits wd 15 5) (bits wd 7 3) (fld wd 6 1 == 1)) | none => .error .typeCode)
  | 2 => (match LaneTy.ofCode (fld wd 0 3) with | some t => .ok (.vins t (bits wd 20 5) (bits wd 15 5) (bits wd 10 5)) | none => .error .typeCode)
  | 3 => (match LaneTy.ofCode (fld wd 0 3) with | some t => .ok (.vext t (bits wd 20 5) (bits wd 15 5) (bits wd 10 5)) | none => .error .typeCode)
  | 4 => (match LaneTy.ofCode (fld wd 0 3) with | some t => .ok (.vmerge t (bits wd 20 5) (bits wd 15 5) (bits wd 10 5) (bits wd 7 3)) | none => .error .typeCode)
  | _ => .error .function

/-- OP 0x4D. -/
def decodeOp4D (wd : Nat) : Except Reject Instr :=
  match fld wd 3 4 with
  | 0 => (match DxTy.ofCode (fld wd 0 3) with | some t => .ok (.vdxdot t (bits wd 20 5) (bits wd 15 5) (bits wd 10 5) (bits wd 7 3)) | none => .error .typeCode)
  | 1 => (match DxTy.ofCode (fld wd 0 3) with | some t => .ok (.vdxamax t (bits wd 20 5) (bits wd 15 5) (bits wd 10 5) (bits wd 7 3)) | none => .error .typeCode)
  | _ => .error .function

/-- OP 0x60. -/
def decodeOp60 (wd : Nat) : Except Reject Instr :=
  match fld wd 0 7 with
  | 0 => .ok (.tview (bits wd 21 4) (bits wd 16 5) (bits wd 7 4))
  | _ => .error .function

/-- OP 0x61. -/
def decodeOp61 (wd : Nat) : Except Reject Instr :=
  match fld wd 0 7 with
  | 0 => .ok (.twload (bits wd 21 4) (bits wd 16 5) (bits wd 7 4))
  | _ => .error .function

/-- OP 0x62. -/
def decodeOp62 (wd : Nat) : Except Reject Instr :=
  (match accOfCode (fld wd 0 2) with | some acc => .ok (.tmma (bits wd 21 4) (bits wd 16 4) (bits wd 11 4) (bits wd 2 5) acc (bits wd 7 4)) | none => .error .function)

/-- OP 0x63. -/
def decodeOp63 (wd : Nat) : Except Reject Instr :=
  match fld wd 0 7 with
  | 0 => .ok (.tadd (bits wd 21 4) (bits wd 16 4) (bits wd 11 4) (bits wd 7 4))
  | 8 => .ok (.tmulw (bits wd 21 4) (bits wd 16 4) (bits wd 11 4) (bits wd 7 4))
  | 16 => .ok (.tscale (bits wd 21 4) (bits wd 16 4) (bits wd 11 5) (bits wd 7 4))
  | 24 => .ok (.tactRelu (bits wd 21 4) (bits wd 16 4) (bits wd 7 4))
  | 25 => .ok (.tactGelu (bits wd 21 4) (bits wd 16 4) (bits wd 7 4))
  | 26 => .ok (.tactSigm (bits wd 21 4) (bits wd 16 4) (bits wd 7 4))
  | 27 => .ok (.tactTanh (bits wd 21 4) (bits wd 16 4) (bits wd 7 4))
  | 28 => .ok (.tactExp (bits wd 21 4) (bits wd 16 4) (bits wd 7 4))
  | 32 => .ok (.tcvt (bits wd 21 4) (bits wd 16 4) (bits wd 11 5) (bits wd 7 4))
  | 40 => .ok (.tredRowsum (bits wd 21 4) (bits wd 16 4) (bits wd 7 4))
  | 41 => .ok (.tredColsum (bits wd 21 4) (bits wd 16 4) (bits wd 7 4))
  | 42 => .ok (.tredRowmax (bits wd 21 4) (bits wd 16 4) (bits wd 7 4))
  | 43 => .ok (.tredColmax (bits wd 21 4) (bits wd 16 4) (bits wd 7 4))
  | _ => .error .function

/-- OP 0x64. -/
def decodeOp64 (wd : Nat) : Except Reject Instr :=
  match fld wd 0 7 with
  | 0 => .ok (.tmask (bits wd 21 4) (bits wd 16 4) (bits wd 11 5) (bits wd 7 4))
  | _ => .error .function

/-- OP 0x65. -/
def decodeOp65 (wd : Nat) : Except Reject Instr :=
  match fld wd 0 7 with
  | 0 => .ok (.tforce (bits wd 21 4) (bits wd 16 5) (bits wd 7 4))
  | 1 => .ok (.tstore (bits wd 21 4) (bits wd 16 5) (bits wd 11 5) (bits wd 7 4))
  | _ => .error .function

/-- OP 0x66. -/
def decodeOp66 (wd : Nat) : Except Reject Instr :=
  match fld wd 0 7 with
  | 0 => .ok (.tdrop (bits wd 21 4) (bits wd 7 4))
  | 1 => .ok (.tquery (bits wd 21 4) (bits wd 16 5) (bits wd 7 4))
  | _ => .error .function

/-- OP 0x70. -/
def decodeOp70 (wd : Nat) : Except Reject Instr :=
  match fld wd 0 3 with
  | 0 => .ok (.scall)
  | 1 => .ok (.brk)
  | 2 => .ok (.rett)
  | 3 => .ok (.wfi)
  | 4 => .ok (.halt)
  | _ => .error .function

/-- OP 0x71. -/
def decodeOp71 (wd : Nat) : Except Reject Instr :=
  match fld wd 0 3 with
  | 0 => .ok (.srr (bits wd 20 5) (bits wd 3 12))
  | 1 => .ok (.srw (bits wd 3 12) (bits wd 15 5))
  | 2 => .ok (.srx (bits wd 20 5) (bits wd 3 12) (bits wd 15 5))
  | _ => .error .function

/-- OP 0x72. -/
def decodeOp72 (wd : Nat) : Except Reject Instr :=
  match fld wd 0 3 with
  | 0 => .ok (.startS (bits wd 15 5) (bits wd 10 5))
  | 1 => .ok (.reap (bits wd 15 5))
  | 2 => .ok (.slotw (bits wd 15 5) (bits wd 10 5))
  | _ => .error .function

/-- OP 0x73. -/
def decodeOp73 (wd : Nat) : Except Reject Instr :=
  match fld wd 0 3 with
  | 0 => .ok (.ptsync)
  | 1 => .ok (.netsync)
  | 2 => .ok (.l1wb)
  | 3 => .ok (.l1inv)
  | 4 => .ok (.accspill (bits wd 20 5) (bits wd 15 5))
  | 5 => .ok (.accfill (bits wd 20 5) (bits wd 15 5))
  | _ => .error .function

/-- OP 0x74. -/
def decodeOp74 (wd : Nat) : Except Reject Instr :=
  match fld wd 0 3 with
  | 0 => .ok (.kslotw (bits wd 20 5) (bits wd 15 5))
  | 1 => .ok (.kslotclr (bits wd 20 5))
  | 2 => .ok (.nselw (bits wd 20 5) (bits wd 15 5))
  | 3 => .ok (.grpw (bits wd 20 5) (bits wd 15 5))
  | 4 => .ok (.blkfence (bits wd 20 5))
  | _ => .error .function

/-- OP 0x00 to 0x0F, by bits [28:25]. -/
def decodeGroup0 (wd : Nat) : Except Reject Instr :=
  match fld wd 25 4 with
  | 1 => decodeOp01 wd
  | 2 => decodeOp02 wd
  | 3 => decodeOp03 wd
  | 4 => decodeOp04 wd
  | 5 => decodeOp05 wd
  | 6 => decodeOp06 wd
  | 7 => decodeOp07 wd
  | 8 => decodeOp08 wd
  | 9 => decodeOp09 wd
  | 10 => decodeOp0A wd
  | 11 => decodeOp0B wd
  | 12 => decodeOp0C wd
  | 13 => decodeOp0D wd
  | 14 => decodeOp0E wd
  | 15 => decodeOp0F wd
  | _ => .error .opcode

/-- OP 0x10 to 0x1F, by bits [28:25]. -/
def decodeGroup1 (wd : Nat) : Except Reject Instr :=
  match fld wd 25 4 with
  | 0 => decodeOp10 wd
  | 1 => decodeOp11 wd
  | 2 => decodeOp12 wd
  | 3 => decodeOp13 wd
  | 4 => decodeOp14 wd
  | 5 => decodeOp15 wd
  | 6 => decodeOp16 wd
  | 7 => decodeOp17 wd
  | 8 => decodeOp18 wd
  | 9 => decodeOp19 wd
  | 10 => decodeOp1A wd
  | _ => .error .opcode

/-- OP 0x20 to 0x2F, by bits [28:25]. -/
def decodeGroup2 (wd : Nat) : Except Reject Instr :=
  match fld wd 25 4 with
  | 0 => decodeOp20 wd
  | 1 => decodeOp21 wd
  | 2 => decodeOp22 wd
  | 3 => decodeOp23 wd
  | 4 => decodeOp24 wd
  | 5 => decodeOp25 wd
  | 6 => decodeOp26 wd
  | 8 => decodeOp28 wd
  | 9 => decodeOp29 wd
  | 10 => decodeOp2A wd
  | 11 => decodeOp2B wd
  | 12 => decodeOp2C wd
  | 13 => decodeOp2D wd
  | 14 => decodeOp2E wd
  | 15 => decodeOp2F wd
  | _ => .error .opcode

/-- OP 0x30 to 0x3F, by bits [28:25]. -/
def decodeGroup3 (wd : Nat) : Except Reject Instr :=
  match fld wd 25 4 with
  | 0 => decodeOp30 wd
  | 1 => decodeOp31 wd
  | 2 => decodeOp32 wd
  | 8 => decodeOp38 wd
  | 9 => decodeOp39 wd
  | 10 => decodeOp3A wd
  | _ => .error .opcode

/-- OP 0x40 to 0x4F, by bits [28:25]. -/
def decodeGroup4 (wd : Nat) : Except Reject Instr :=
  match fld wd 25 4 with
  | 0 => decodeOp40 wd
  | 1 => decodeOp41 wd
  | 2 => decodeOp42 wd
  | 3 => decodeOp43 wd
  | 4 => decodeOp44 wd
  | 5 => decodeOp45 wd
  | 6 => decodeOp46 wd
  | 7 => decodeOp47 wd
  | 8 => decodeOp48 wd
  | 9 => decodeOp49 wd
  | 10 => decodeOp4A wd
  | 11 => decodeOp4B wd
  | 12 => decodeOp4C wd
  | 13 => decodeOp4D wd
  | _ => .error .opcode

/-- OP 0x60 to 0x6F, by bits [28:25]. -/
def decodeGroup6 (wd : Nat) : Except Reject Instr :=
  match fld wd 25 4 with
  | 0 => decodeOp60 wd
  | 1 => decodeOp61 wd
  | 2 => decodeOp62 wd
  | 3 => decodeOp63 wd
  | 4 => decodeOp64 wd
  | 5 => decodeOp65 wd
  | 6 => decodeOp66 wd
  | _ => .error .opcode

/-- OP 0x70 to 0x7F, by bits [28:25]. -/
def decodeGroup7 (wd : Nat) : Except Reject Instr :=
  match fld wd 25 4 with
  | 0 => decodeOp70 wd
  | 1 => decodeOp71 wd
  | 2 => decodeOp72 wd
  | 3 => decodeOp73 wd
  | 4 => decodeOp74 wd
  | _ => .error .opcode

/-- The instruction whose fields a word holds, before the checks of literal fields (R127 to R131, R133). -/
def decodeFields (wd : Nat) : Except Reject Instr :=
  match fld wd 29 3 with
  | 0 => decodeGroup0 wd
  | 1 => decodeGroup1 wd
  | 2 => decodeGroup2 wd
  | 3 => decodeGroup3 wd
  | 4 => decodeGroup4 wd
  | 6 => decodeGroup6 wd
  | 7 => decodeGroup7 wd
  | _ => .error .opcode

/-- Decode one word: its fields, then the literal ranges of R128 and R130. -/
def decode (w : Nat) : Except Reject Instr :=
  match decodeFields w with
  | .ok i => if i.wellFormed then .ok i else .error .literal
  | .error r => .error r

/-- The little-endian word at the head of a byte list (R122), and the bytes after it. -/
def wordOfBytes : List Byte → Option (Nat × List Byte)
  | b0 :: b1 :: b2 :: b3 :: rest =>
    some (b0.toNat + b1.toNat * 0x100 + b2.toNat * 0x10000 + b3.toNat * 0x1000000, rest)
  | _ => none

/-- Decode the instruction at the head of a byte list, with the rest of the list. -/
def decodeBytes (bs : List Byte) : Except Reject (Instr × List Byte) :=
  match wordOfBytes bs with
  | some (w, rest) => (decode w).map (·, rest)
  | none => .error .short

/-- The instruction a strand executes for a fetched word: what it decodes to, or the trap of R133. -/
def instrOfWord (w : BitVec 32) : Instr :=
  match decode w.toNat with
  | .ok i => i
  | .error _ => .unassignedEncoding w

/-- The four bytes of a word, lowest address first (R2, R122). -/
def bytesOfWord (w : Nat) : List Byte :=
  [BitVec.ofNat 8 w, BitVec.ofNat 8 (w / 0x100), BitVec.ofNat 8 (w / 0x10000), BitVec.ofNat 8 (w / 0x1000000)]

/-- What the decoder reads from an instruction whose bits are `w`, numbered as spec/opcode_table.json numbers them.
Every instruction is one word, stored little-endian. -/
def decodeTableWord (nbits w : Nat) : Option Instr :=
  match decodeBytes (bytesOfWord (w % 2 ^ nbits)) with
  | .ok (i, _) => some i
  | .error _ => none

end

/-- The word of an instruction (R123 to R131); events have none. Fields an instruction does not use are zero. -/
def encode : Instr → Option Nat
  | .add d a b => some (0x04000000 + d.toNat * 0x100000 + a.toNat * 0x8000 + b.toNat * 0x400)
  | .sub d a b => some (0x04000001 + d.toNat * 0x100000 + a.toNat * 0x8000 + b.toNat * 0x400)
  | .and d a b => some (0x04000002 + d.toNat * 0x100000 + a.toNat * 0x8000 + b.toNat * 0x400)
  | .or d a b => some (0x04000003 + d.toNat * 0x100000 + a.toNat * 0x8000 + b.toNat * 0x400)
  | .xor d a b => some (0x04000004 + d.toNat * 0x100000 + a.toNat * 0x8000 + b.toNat * 0x400)
  | .andn d a b => some (0x04000005 + d.toNat * 0x100000 + a.toNat * 0x8000 + b.toNat * 0x400)
  | .orn d a b => some (0x04000006 + d.toNat * 0x100000 + a.toNat * 0x8000 + b.toNat * 0x400)
  | .xnor d a b => some (0x04000007 + d.toNat * 0x100000 + a.toNat * 0x8000 + b.toNat * 0x400)
  | .addw d a b => some (0x04000008 + d.toNat * 0x100000 + a.toNat * 0x8000 + b.toNat * 0x400)
  | .subw d a b => some (0x04000009 + d.toNat * 0x100000 + a.toNat * 0x8000 + b.toNat * 0x400)
  | .lea1 d a b => some (0x0400000A + d.toNat * 0x100000 + a.toNat * 0x8000 + b.toNat * 0x400)
  | .lea2 d a b => some (0x0400000B + d.toNat * 0x100000 + a.toNat * 0x8000 + b.toNat * 0x400)
  | .lea3 d a b => some (0x0400000C + d.toNat * 0x100000 + a.toNat * 0x8000 + b.toNat * 0x400)
  | .lea4 d a b => some (0x0400000D + d.toNat * 0x100000 + a.toNat * 0x8000 + b.toNat * 0x400)
  | .gname d a b => some (0x04000010 + d.toNat * 0x100000 + a.toNat * 0x8000 + b.toNat * 0x400)
  | .sll d a b => some (0x06000000 + d.toNat * 0x100000 + a.toNat * 0x8000 + b.toNat * 0x400)
  | .srl d a b => some (0x06000001 + d.toNat * 0x100000 + a.toNat * 0x8000 + b.toNat * 0x400)
  | .sra d a b => some (0x06000002 + d.toNat * 0x100000 + a.toNat * 0x8000 + b.toNat * 0x400)
  | .rol d a b => some (0x06000003 + d.toNat * 0x100000 + a.toNat * 0x8000 + b.toNat * 0x400)
  | .ror d a b => some (0x06000004 + d.toNat * 0x100000 + a.toNat * 0x8000 + b.toNat * 0x400)
  | .sllw d a b => some (0x06000005 + d.toNat * 0x100000 + a.toNat * 0x8000 + b.toNat * 0x400)
  | .srlw d a b => some (0x06000006 + d.toNat * 0x100000 + a.toNat * 0x8000 + b.toNat * 0x400)
  | .sraw d a b => some (0x06000007 + d.toNat * 0x100000 + a.toNat * 0x8000 + b.toNat * 0x400)
  | .clz d a => some (0x06000008 + d.toNat * 0x100000 + a.toNat * 0x8000)
  | .ctz d a => some (0x06000009 + d.toNat * 0x100000 + a.toNat * 0x8000)
  | .popc d a => some (0x0600000A + d.toNat * 0x100000 + a.toNat * 0x8000)
  | .brev d a => some (0x0600000B + d.toNat * 0x100000 + a.toNat * 0x8000)
  | .bswap d a => some (0x0600000C + d.toNat * 0x100000 + a.toNat * 0x8000)
  | .bext d a b => some (0x0600000D + d.toNat * 0x100000 + a.toNat * 0x8000 + b.toNat * 0x400)
  | .bdep d a b => some (0x0600000E + d.toNat * 0x100000 + a.toNat * 0x8000 + b.toNat * 0x400)
  | .mul d a b => some (0x08000000 + d.toNat * 0x100000 + a.toNat * 0x8000 + b.toNat * 0x400)
  | .mulhI64 d a b => some (0x08000001 + d.toNat * 0x100000 + a.toNat * 0x8000 + b.toNat * 0x400)
  | .mulhW64 d a b => some (0x08000002 + d.toNat * 0x100000 + a.toNat * 0x8000 + b.toNat * 0x400)
  | .mulI32 d a b => some (0x08000003 + d.toNat * 0x100000 + a.toNat * 0x8000 + b.toNat * 0x400)
  | .divI64 d a b => some (0x08000008 + d.toNat * 0x100000 + a.toNat * 0x8000 + b.toNat * 0x400)
  | .divW64 d a b => some (0x08000009 + d.toNat * 0x100000 + a.toNat * 0x8000 + b.toNat * 0x400)
  | .remI64 d a b => some (0x0800000A + d.toNat * 0x100000 + a.toNat * 0x8000 + b.toNat * 0x400)
  | .remW64 d a b => some (0x0800000B + d.toNat * 0x100000 + a.toNat * 0x8000 + b.toNat * 0x400)
  | .divI32 d a b => some (0x0800000C + d.toNat * 0x100000 + a.toNat * 0x8000 + b.toNat * 0x400)
  | .divW32 d a b => some (0x0800000D + d.toNat * 0x100000 + a.toNat * 0x8000 + b.toNat * 0x400)
  | .remI32 d a b => some (0x0800000E + d.toNat * 0x100000 + a.toNat * 0x8000 + b.toNat * 0x400)
  | .remW32 d a b => some (0x0800000F + d.toNat * 0x100000 + a.toNat * 0x8000 + b.toNat * 0x400)
  | .seq d a b => some (0x0A000000 + d.toNat * 0x100000 + a.toNat * 0x8000 + b.toNat * 0x400)
  | .sne d a b => some (0x0A000001 + d.toNat * 0x100000 + a.toNat * 0x8000 + b.toNat * 0x400)
  | .sltI64 d a b => some (0x0A000002 + d.toNat * 0x100000 + a.toNat * 0x8000 + b.toNat * 0x400)
  | .sltW64 d a b => some (0x0A000003 + d.toNat * 0x100000 + a.toNat * 0x8000 + b.toNat * 0x400)
  | .sleI64 d a b => some (0x0A000004 + d.toNat * 0x100000 + a.toNat * 0x8000 + b.toNat * 0x400)
  | .sleW64 d a b => some (0x0A000005 + d.toNat * 0x100000 + a.toNat * 0x8000 + b.toNat * 0x400)
  | .minI64 d a b => some (0x0A000006 + d.toNat * 0x100000 + a.toNat * 0x8000 + b.toNat * 0x400)
  | .minW64 d a b => some (0x0A000007 + d.toNat * 0x100000 + a.toNat * 0x8000 + b.toNat * 0x400)
  | .maxI64 d a b => some (0x0A000008 + d.toNat * 0x100000 + a.toNat * 0x8000 + b.toNat * 0x400)
  | .maxW64 d a b => some (0x0A000009 + d.toNat * 0x100000 + a.toNat * 0x8000 + b.toNat * 0x400)
  | .czn d a b => some (0x0A00000A + d.toNat * 0x100000 + a.toNat * 0x8000 + b.toNat * 0x400)
  | .czz d a b => some (0x0A00000B + d.toNat * 0x100000 + a.toNat * 0x8000 + b.toNat * 0x400)
  | .fadd t rm d a b => some (0x0C000000 + t.code * 0x100 + rm.code * 0x20 + d.toNat * 0x100000 + a.toNat * 0x8000 + b.toNat * 0x400)
  | .fsub t rm d a b => some (0x0C000001 + t.code * 0x100 + rm.code * 0x20 + d.toNat * 0x100000 + a.toNat * 0x8000 + b.toNat * 0x400)
  | .fmul t rm d a b => some (0x0C000002 + t.code * 0x100 + rm.code * 0x20 + d.toNat * 0x100000 + a.toNat * 0x8000 + b.toNat * 0x400)
  | .fdiv t rm d a b => some (0x0C000003 + t.code * 0x100 + rm.code * 0x20 + d.toNat * 0x100000 + a.toNat * 0x8000 + b.toNat * 0x400)
  | .fsqrt t rm d a => some (0x0C000004 + t.code * 0x100 + rm.code * 0x20 + d.toNat * 0x100000 + a.toNat * 0x8000)
  | .fmin t d a b => some (0x0C000005 + t.code * 0x100 + d.toNat * 0x100000 + a.toNat * 0x8000 + b.toNat * 0x400)
  | .fmax t d a b => some (0x0C000006 + t.code * 0x100 + d.toNat * 0x100000 + a.toNat * 0x8000 + b.toNat * 0x400)
  | .fsgnj t d a b => some (0x0C000007 + t.code * 0x100 + d.toNat * 0x100000 + a.toNat * 0x8000 + b.toNat * 0x400)
  | .fsgnjn t d a b => some (0x0C000008 + t.code * 0x100 + d.toNat * 0x100000 + a.toNat * 0x8000 + b.toNat * 0x400)
  | .fsgnjx t d a b => some (0x0C000009 + t.code * 0x100 + d.toNat * 0x100000 + a.toNat * 0x8000 + b.toNat * 0x400)
  | .fmac t rm d a b => some (0x0C00000A + t.code * 0x100 + rm.code * 0x20 + d.toNat * 0x100000 + a.toNat * 0x8000 + b.toNat * 0x400)
  | .fmsc t rm d a b => some (0x0C00000B + t.code * 0x100 + rm.code * 0x20 + d.toNat * 0x100000 + a.toNat * 0x8000 + b.toNat * 0x400)
  | .fcvtF32F64 rm d a => some (0x0E000000 + rm.code * 0x20 + d.toNat * 0x100000 + a.toNat * 0x8000)
  | .fcvtF64F32 d a => some (0x0E000001 + d.toNat * 0x100000 + a.toNat * 0x8000)
  | .fcvtF16F32 rm d a => some (0x0E000002 + rm.code * 0x20 + d.toNat * 0x100000 + a.toNat * 0x8000)
  | .fcvtF32F16 d a => some (0x0E000003 + d.toNat * 0x100000 + a.toNat * 0x8000)
  | .fcvtBf16F32 rm d a => some (0x0E000004 + rm.code * 0x20 + d.toNat * 0x100000 + a.toNat * 0x8000)
  | .fcvtF32Bf16 d a => some (0x0E000005 + d.toNat * 0x100000 + a.toNat * 0x8000)
  | .fcvtF16F64 rm d a => some (0x0E000006 + rm.code * 0x20 + d.toNat * 0x100000 + a.toNat * 0x8000)
  | .fcvtF64F16 d a => some (0x0E000007 + d.toNat * 0x100000 + a.toNat * 0x8000)
  | .fcvtF64I64 rm d a => some (0x0E000008 + rm.code * 0x20 + d.toNat * 0x100000 + a.toNat * 0x8000)
  | .fcvtF64W64 rm d a => some (0x0E000009 + rm.code * 0x20 + d.toNat * 0x100000 + a.toNat * 0x8000)
  | .fcvtF32I64 rm d a => some (0x0E00000A + rm.code * 0x20 + d.toNat * 0x100000 + a.toNat * 0x8000)
  | .fcvtF32W64 rm d a => some (0x0E00000B + rm.code * 0x20 + d.toNat * 0x100000 + a.toNat * 0x8000)
  | .fcvtI64F64 rm d a => some (0x0E00000C + rm.code * 0x20 + d.toNat * 0x100000 + a.toNat * 0x8000)
  | .fcvtW64F64 rm d a => some (0x0E00000D + rm.code * 0x20 + d.toNat * 0x100000 + a.toNat * 0x8000)
  | .fcvtI64F32 rm d a => some (0x0E00000E + rm.code * 0x20 + d.toNat * 0x100000 + a.toNat * 0x8000)
  | .fcvtW64F32 rm d a => some (0x0E00000F + rm.code * 0x20 + d.toNat * 0x100000 + a.toNat * 0x8000)
  | .fcvtI32F64 rm d a => some (0x0E000010 + rm.code * 0x20 + d.toNat * 0x100000 + a.toNat * 0x8000)
  | .fcvtW32F64 rm d a => some (0x0E000011 + rm.code * 0x20 + d.toNat * 0x100000 + a.toNat * 0x8000)
  | .fcvtI32F32 rm d a => some (0x0E000012 + rm.code * 0x20 + d.toNat * 0x100000 + a.toNat * 0x8000)
  | .fcvtW32F32 rm d a => some (0x0E000013 + rm.code * 0x20 + d.toNat * 0x100000 + a.toNat * 0x8000)
  | .fclassF64 d a => some (0x0E000014 + d.toNat * 0x100000 + a.toNat * 0x8000)
  | .fclassF32 d a => some (0x0E000015 + d.toNat * 0x100000 + a.toNat * 0x8000)
  | .feqF64 d a b => some (0x0E000016 + d.toNat * 0x100000 + a.toNat * 0x8000 + b.toNat * 0x400)
  | .fltF64 d a b => some (0x0E000017 + d.toNat * 0x100000 + a.toNat * 0x8000 + b.toNat * 0x400)
  | .fleF64 d a b => some (0x0E000018 + d.toNat * 0x100000 + a.toNat * 0x8000 + b.toNat * 0x400)
  | .feqF32 d a b => some (0x0E000019 + d.toNat * 0x100000 + a.toNat * 0x8000 + b.toNat * 0x400)
  | .fltF32 d a b => some (0x0E00001A + d.toNat * 0x100000 + a.toNat * 0x8000 + b.toNat * 0x400)
  | .fleF32 d a b => some (0x0E00001B + d.toNat * 0x100000 + a.toNat * 0x8000 + b.toNat * 0x400)
  | .addi d a imm => some (0x10000000 + d.toNat * 0x100000 + a.toNat * 0x8000 + imm.toNat)
  | .andi d a imm => some (0x12000000 + d.toNat * 0x100000 + a.toNat * 0x8000 + imm.toNat)
  | .ori d a imm => some (0x14000000 + d.toNat * 0x100000 + a.toNat * 0x8000 + imm.toNat)
  | .xori d a imm => some (0x16000000 + d.toNat * 0x100000 + a.toNat * 0x8000 + imm.toNat)
  | .sltiI64 d a imm => some (0x18000000 + d.toNat * 0x100000 + a.toNat * 0x8000 + imm.toNat)
  | .slli d a sh => some (0x1A000000 + d.toNat * 0x100000 + a.toNat * 0x8000 + sh.toNat)
  | .srli d a sh => some (0x1A002000 + d.toNat * 0x100000 + a.toNat * 0x8000 + sh.toNat)
  | .srai d a sh => some (0x1A004000 + d.toNat * 0x100000 + a.toNat * 0x8000 + sh.toNat)
  | .rori d a sh => some (0x1A006000 + d.toNat * 0x100000 + a.toNat * 0x8000 + sh.toNat)
  | .sltiW64 d a imm => some (0x1C000000 + d.toNat * 0x100000 + a.toNat * 0x8000 + imm.toNat)
  | .lih d imm => some (0x1E000000 + d.toNat * 0x100000 + imm.toNat)
  | .addpc d imm => some (0x20000000 + d.toNat * 0x100000 + imm.toNat)
  | .jal d imm => some (0x22000000 + d.toNat * 0x100000 + imm.toNat)
  | .jalr d a imm => some (0x24000000 + d.toNat * 0x100000 + a.toNat * 0x8000 + imm.toNat)
  | .beq a b off => some (0x26000000 + a.toNat * 0x100000 + b.toNat * 0x8000 + off.toNat)
  | .bne a b off => some (0x28000000 + a.toNat * 0x100000 + b.toNat * 0x8000 + off.toNat)
  | .bltI64 a b off => some (0x2A000000 + a.toNat * 0x100000 + b.toNat * 0x8000 + off.toNat)
  | .bgeI64 a b off => some (0x2C000000 + a.toNat * 0x100000 + b.toNat * 0x8000 + off.toNat)
  | .bltW64 a b off => some (0x2E000000 + a.toNat * 0x100000 + b.toNat * 0x8000 + off.toNat)
  | .bgeW64 a b off => some (0x30000000 + a.toNat * 0x100000 + b.toNat * 0x8000 + off.toNat)
  | .loop a len => some (0x32000000 + a.toNat * 0x8000 + len.toNat)
  | .loopi n len => some (0x34000000 + n.toNat * 0x8000 + len.toNat)
  | .nop => some (0x02000000)
  | .pf a imm => some (0x02100000 + a.toNat * 0x8000 + imm.toNat)
  | .hlikely => some (0x02200000)
  | .hunlikely => some (0x02300000)
  | .ldI8 d a la imm => some (0x40000000 + d.toNat * 0x100000 + a.toNat * 0x8000 + la.toNat * 0x800 + imm.toNat)
  | .ldW8 d a la imm => some (0x42000000 + d.toNat * 0x100000 + a.toNat * 0x8000 + la.toNat * 0x800 + imm.toNat)
  | .ldI16 d a la imm => some (0x44000000 + d.toNat * 0x100000 + a.toNat * 0x8000 + la.toNat * 0x800 + imm.toNat)
  | .ldW16 d a la imm => some (0x46000000 + d.toNat * 0x100000 + a.toNat * 0x8000 + la.toNat * 0x800 + imm.toNat)
  | .ldI32 d a la imm => some (0x48000000 + d.toNat * 0x100000 + a.toNat * 0x8000 + la.toNat * 0x800 + imm.toNat)
  | .ldW32 d a la imm => some (0x4A000000 + d.toNat * 0x100000 + a.toNat * 0x8000 + la.toNat * 0x800 + imm.toNat)
  | .ldI64 d a la imm => some (0x4C000000 + d.toNat * 0x100000 + a.toNat * 0x8000 + la.toNat * 0x800 + imm.toNat)
  | .stW8 d a la imm => some (0x50000000 + d.toNat * 0x100000 + a.toNat * 0x8000 + la.toNat * 0x800 + imm.toNat)
  | .stW16 d a la imm => some (0x52000000 + d.toNat * 0x100000 + a.toNat * 0x8000 + la.toNat * 0x800 + imm.toNat)
  | .stW32 d a la imm => some (0x54000000 + d.toNat * 0x100000 + a.toNat * 0x8000 + la.toNat * 0x800 + imm.toNat)
  | .stW64 d a la imm => some (0x56000000 + d.toNat * 0x100000 + a.toNat * 0x8000 + la.toNat * 0x800 + imm.toNat)
  | .ldx t d a b la => some (0x58000000 + t.code + d.toNat * 0x100000 + a.toNat * 0x8000 + b.toNat * 0x400 + la.toNat * 0x40)
  | .stx w d a b la => some (0x58000008 + w.toNat + d.toNat * 0x100000 + a.toNat * 0x8000 + b.toNat * 0x400 + la.toNat * 0x40)
  | .stAck w d a b la => some (0x58000010 + w.toNat + d.toNat * 0x100000 + a.toNat * 0x8000 + b.toNat * 0x400 + la.toNat * 0x40)
  | .ldAck w d a b la => some (0x58000018 + w.toNat + d.toNat * 0x100000 + a.toNat * 0x8000 + b.toNat * 0x400 + la.toNat * 0x40)
  | .aswap w d a b la => some (0x5A000000 + w.code + d.toNat * 0x100000 + a.toNat * 0x8000 + b.toNat * 0x400 + la.toNat * 0x40)
  | .acas w d a b la => some (0x5A000008 + w.code + d.toNat * 0x100000 + a.toNat * 0x8000 + b.toNat * 0x400 + la.toNat * 0x40)
  | .aadd w d a b la => some (0x5A000010 + w.code + d.toNat * 0x100000 + a.toNat * 0x8000 + b.toNat * 0x400 + la.toNat * 0x40)
  | .aand w d a b la => some (0x5A000018 + w.code + d.toNat * 0x100000 + a.toNat * 0x8000 + b.toNat * 0x400 + la.toNat * 0x40)
  | .aor w d a b la => some (0x5A000020 + w.code + d.toNat * 0x100000 + a.toNat * 0x8000 + b.toNat * 0x400 + la.toNat * 0x40)
  | .axor w d a b la => some (0x5A000028 + w.code + d.toNat * 0x100000 + a.toNat * 0x8000 + b.toNat * 0x400 + la.toNat * 0x40)
  | .amin sg w d a b la => some (0x5A000030 + sg.toNat * 0x4 + w.code + d.toNat * 0x100000 + a.toNat * 0x8000 + b.toNat * 0x400 + la.toNat * 0x40)
  | .amax sg w d a b la => some (0x5A000038 + sg.toNat * 0x4 + w.code + d.toNat * 0x100000 + a.toNat * 0x8000 + b.toNat * 0x400 + la.toNat * 0x40)
  | .fenceRel sc la => some (0x5C000000 + sc.code + la.toNat * 0x40)
  | .fenceAcq sc la => some (0x5C000008 + sc.code + la.toNat * 0x40)
  | .fenceFull sc la => some (0x5C000010 + sc.code + la.toNat * 0x40)
  | .fenceAck la => some (0x5C000018 + la.toNat * 0x40)
  | .alook d a la => some (0x5E000000 + d.toNat * 0x100000 + a.toNat * 0x8000 + la.toNat * 0x40)
  | .alfill d a b la => some (0x5E000001 + d.toNat * 0x100000 + a.toNat * 0x8000 + b.toNat * 0x400 + la.toNat * 0x40)
  | .alevict a la => some (0x5E000002 + a.toNat * 0x8000 + la.toNat * 0x40)
  | .bar a la => some (0x60000000 + a.toNat * 0x8000 + la.toNat * 0x40)
  | .bcastSend a b la => some (0x60000001 + a.toNat * 0x8000 + b.toNat * 0x400 + la.toNat * 0x40)
  | .bcastRecv d a la => some (0x60000002 + d.toNat * 0x100000 + a.toNat * 0x8000 + la.toNat * 0x40)
  | .redAdd d a b la => some (0x60000003 + d.toNat * 0x100000 + a.toNat * 0x8000 + b.toNat * 0x400 + la.toNat * 0x40)
  | .redMinI64 d a b la => some (0x60000004 + d.toNat * 0x100000 + a.toNat * 0x8000 + b.toNat * 0x400 + la.toNat * 0x40)
  | .redMinW64 d a b la => some (0x60000005 + d.toNat * 0x100000 + a.toNat * 0x8000 + b.toNat * 0x400 + la.toNat * 0x40)
  | .redMaxI64 d a b la => some (0x60000006 + d.toNat * 0x100000 + a.toNat * 0x8000 + b.toNat * 0x400 + la.toNat * 0x40)
  | .redMaxW64 d a b la => some (0x60000007 + d.toNat * 0x100000 + a.toNat * 0x8000 + b.toNat * 0x400 + la.toNat * 0x40)
  | .daybarFill r la => some (0x60000008 + r.toNat * 0x8000 + la.toNat * 0x40)
  | .daybarDrain r la => some (0x60000009 + r.toNat * 0x8000 + la.toNat * 0x40)
  | .vigilQne d q x la => some (0x62000000 + d.toNat * 0x100000 + q.toNat * 0x8000 + x.toNat * 0x400 + la.toNat * 0x40)
  | .vigilQnf d q x la => some (0x62000001 + d.toNat * 0x100000 + q.toNat * 0x8000 + x.toNat * 0x400 + la.toNat * 0x40)
  | .vigilReady d q x la => some (0x62000002 + d.toNat * 0x100000 + q.toNat * 0x8000 + x.toNat * 0x400 + la.toNat * 0x40)
  | .vigilRoom d q x la => some (0x62000003 + d.toNat * 0x100000 + q.toNat * 0x8000 + x.toNat * 0x400 + la.toNat * 0x40)
  | .qcount d q la => some (0x62000008 + d.toNat * 0x100000 + q.toNat * 0x8000 + la.toNat * 0x40)
  | .spawn a la => some (0x64000000 + a.toNat * 0x8000 + la.toNat * 0x40)
  | .take d la => some (0x64000001 + d.toNat * 0x100000 + la.toNat * 0x40)
  | .join a la => some (0x64000002 + a.toNat * 0x8000 + la.toNat * 0x40)
  | .yield la => some (0x64000003 + la.toNat * 0x40)
  | .retire la => some (0x64000004 + la.toNat * 0x40)
  | .laz a la => some (0x70000000 + a.toNat * 0x8000 + la.toNat * 0x40)
  | .laadd a b la => some (0x70000001 + a.toNat * 0x8000 + b.toNat * 0x400 + la.toNat * 0x40)
  | .laaddp a b d la => some (0x70000002 + a.toNat * 0x8000 + b.toNat * 0x400 + d.toNat * 0x100000 + la.toNat * 0x40)
  | .larndF32 d a la => some (0x70000003 + d.toNat * 0x100000 + a.toNat * 0x8000 + la.toNat * 0x40)
  | .larndF64 d a la => some (0x70000004 + d.toNat * 0x100000 + a.toNat * 0x8000 + la.toNat * 0x40)
  | .cpy d a b la => some (0x72000000 + d.toNat * 0x100000 + a.toNat * 0x8000 + b.toNat * 0x400 + la.toNat * 0x40)
  | .cpy2 d a b la => some (0x72000001 + d.toNat * 0x100000 + a.toNat * 0x8000 + b.toNat * 0x400 + la.toNat * 0x40)
  | .cpyh d a b la => some (0x72000002 + d.toNat * 0x100000 + a.toNat * 0x8000 + b.toNat * 0x400 + la.toNat * 0x40)
  | .cpyf d a b la => some (0x72000003 + d.toNat * 0x100000 + a.toNat * 0x8000 + b.toNat * 0x400 + la.toNat * 0x40)
  | .cpycan d la => some (0x72000004 + d.toNat * 0x100000 + la.toNat * 0x40)
  | .erd d a => some (0x74000000 + d.toNat * 0x100000 + a.toNat * 0x8000)
  | .ewr d a => some (0x74000001 + d.toNat * 0x100000 + a.toNat * 0x8000)
  | .vld d a b la p => some (0x80000000 + d.toNat * 0x100000 + a.toNat * 0x8000 + b.toNat * 0x400 + la.toNat * 0x40 + p.toNat)
  | .vst d a b la p => some (0x80000008 + d.toNat * 0x100000 + a.toNat * 0x8000 + b.toNat * 0x400 + la.toNat * 0x40 + p.toNat)
  | .vldZ d a b la p => some (0x80000010 + d.toNat * 0x100000 + a.toNat * 0x8000 + b.toNat * 0x400 + la.toNat * 0x40 + p.toNat)
  | .vgathW32 d a b la p => some (0x80000018 + d.toNat * 0x100000 + a.toNat * 0x8000 + b.toNat * 0x400 + la.toNat * 0x40 + p.toNat)
  | .vscatW32 d a b la p => some (0x80000020 + d.toNat * 0x100000 + a.toNat * 0x8000 + b.toNat * 0x400 + la.toNat * 0x40 + p.toNat)
  | .vgathW16 d a b la p => some (0x80000028 + d.toNat * 0x100000 + a.toNat * 0x8000 + b.toNat * 0x400 + la.toNat * 0x40 + p.toNat)
  | .vscatW16 d a b la p => some (0x80000030 + d.toNat * 0x100000 + a.toNat * 0x8000 + b.toNat * 0x400 + la.toNat * 0x40 + p.toNat)
  | .vlbc d a b la p => some (0x80000038 + d.toNat * 0x100000 + a.toNat * 0x8000 + b.toNat * 0x400 + la.toNat * 0x40 + p.toNat)
  | .vadd t d a b p z => some (0x82000000 + t.code + d.toNat * 0x100000 + a.toNat * 0x8000 + b.toNat * 0x400 + p.toNat * 0x80 + z.toNat * 0x40)
  | .vsub t d a b p z => some (0x82000008 + t.code + d.toNat * 0x100000 + a.toNat * 0x8000 + b.toNat * 0x400 + p.toNat * 0x80 + z.toNat * 0x40)
  | .vmul t d a b p z => some (0x82000010 + t.code + d.toNat * 0x100000 + a.toNat * 0x8000 + b.toNat * 0x400 + p.toNat * 0x80 + z.toNat * 0x40)
  | .vmulh t d a b p z => some (0x82000018 + t.code + d.toNat * 0x100000 + a.toNat * 0x8000 + b.toNat * 0x400 + p.toNat * 0x80 + z.toNat * 0x40)
  | .vmin t d a b p z => some (0x82000020 + t.code + d.toNat * 0x100000 + a.toNat * 0x8000 + b.toNat * 0x400 + p.toNat * 0x80 + z.toNat * 0x40)
  | .vmax t d a b p z => some (0x82000028 + t.code + d.toNat * 0x100000 + a.toNat * 0x8000 + b.toNat * 0x400 + p.toNat * 0x80 + z.toNat * 0x40)
  | .vadds t d a b p z => some (0x82000030 + t.code + d.toNat * 0x100000 + a.toNat * 0x8000 + b.toNat * 0x400 + p.toNat * 0x80 + z.toNat * 0x40)
  | .vsubs t d a b p z => some (0x82000038 + t.code + d.toNat * 0x100000 + a.toNat * 0x8000 + b.toNat * 0x400 + p.toNat * 0x80 + z.toNat * 0x40)
  | .vand d a b p z => some (0x84000000 + d.toNat * 0x100000 + a.toNat * 0x8000 + b.toNat * 0x400 + p.toNat * 0x80 + z.toNat * 0x40)
  | .vor d a b p z => some (0x84000008 + d.toNat * 0x100000 + a.toNat * 0x8000 + b.toNat * 0x400 + p.toNat * 0x80 + z.toNat * 0x40)
  | .vxor d a b p z => some (0x84000010 + d.toNat * 0x100000 + a.toNat * 0x8000 + b.toNat * 0x400 + p.toNat * 0x80 + z.toNat * 0x40)
  | .vandn d a b p z => some (0x84000018 + d.toNat * 0x100000 + a.toNat * 0x8000 + b.toNat * 0x400 + p.toNat * 0x80 + z.toNat * 0x40)
  | .vsll t d a b p z => some (0x84000020 + t.code + d.toNat * 0x100000 + a.toNat * 0x8000 + b.toNat * 0x400 + p.toNat * 0x80 + z.toNat * 0x40)
  | .vsrl t d a b p z => some (0x84000028 + t.code + d.toNat * 0x100000 + a.toNat * 0x8000 + b.toNat * 0x400 + p.toNat * 0x80 + z.toNat * 0x40)
  | .vsra t d a b p z => some (0x84000030 + t.code + d.toNat * 0x100000 + a.toNat * 0x8000 + b.toNat * 0x400 + p.toNat * 0x80 + z.toNat * 0x40)
  | .vfadd t d a b p z => some (0x86000000 + t.code + d.toNat * 0x100000 + a.toNat * 0x8000 + b.toNat * 0x400 + p.toNat * 0x80 + z.toNat * 0x40)
  | .vfsub t d a b p z => some (0x86000008 + t.code + d.toNat * 0x100000 + a.toNat * 0x8000 + b.toNat * 0x400 + p.toNat * 0x80 + z.toNat * 0x40)
  | .vfmul t d a b p z => some (0x86000010 + t.code + d.toNat * 0x100000 + a.toNat * 0x8000 + b.toNat * 0x400 + p.toNat * 0x80 + z.toNat * 0x40)
  | .vfdiv t d a b p z => some (0x86000018 + t.code + d.toNat * 0x100000 + a.toNat * 0x8000 + b.toNat * 0x400 + p.toNat * 0x80 + z.toNat * 0x40)
  | .vfsqrt t d a p z => some (0x86000020 + t.code + d.toNat * 0x100000 + a.toNat * 0x8000 + p.toNat * 0x80 + z.toNat * 0x40)
  | .vfmin t d a b p z => some (0x86000028 + t.code + d.toNat * 0x100000 + a.toNat * 0x8000 + b.toNat * 0x400 + p.toNat * 0x80 + z.toNat * 0x40)
  | .vfmax t d a b p z => some (0x86000030 + t.code + d.toNat * 0x100000 + a.toNat * 0x8000 + b.toNat * 0x400 + p.toNat * 0x80 + z.toNat * 0x40)
  | .vfabs t d a p z => some (0x86000038 + t.code + d.toNat * 0x100000 + a.toNat * 0x8000 + p.toNat * 0x80 + z.toNat * 0x40)
  | .vfmaF32 d a b c p => some (0x88000000 + d.toNat * 0x100000 + a.toNat * 0x8000 + b.toNat * 0x400 + c.toNat * 0x20 + p.toNat * 0x4)
  | .vfmsF32 d a b c p => some (0x88000001 + d.toNat * 0x100000 + a.toNat * 0x8000 + b.toNat * 0x400 + c.toNat * 0x20 + p.toNat * 0x4)
  | .vfnmaF32 d a b c p => some (0x88000002 + d.toNat * 0x100000 + a.toNat * 0x8000 + b.toNat * 0x400 + c.toNat * 0x20 + p.toNat * 0x4)
  | .vfnmsF32 d a b c p => some (0x88000003 + d.toNat * 0x100000 + a.toNat * 0x8000 + b.toNat * 0x400 + c.toNat * 0x20 + p.toNat * 0x4)
  | .vfmaF16 d a b c p => some (0x8A000000 + d.toNat * 0x100000 + a.toNat * 0x8000 + b.toNat * 0x400 + c.toNat * 0x20 + p.toNat * 0x4)
  | .vfmaBf16 d a b c p => some (0x8A000001 + d.toNat * 0x100000 + a.toNat * 0x8000 + b.toNat * 0x400 + c.toNat * 0x20 + p.toNat * 0x4)
  | .vmaddI32 d a b c p => some (0x8A000002 + d.toNat * 0x100000 + a.toNat * 0x8000 + b.toNat * 0x400 + c.toNat * 0x20 + p.toNat * 0x4)
  | .vmaddI16 d a b c p => some (0x8A000003 + d.toNat * 0x100000 + a.toNat * 0x8000 + b.toNat * 0x400 + c.toNat * 0x20 + p.toNat * 0x4)
  | .vceq t d a b p z => some (0x8C000000 + t.code + d.toNat * 0x100000 + a.toNat * 0x8000 + b.toNat * 0x400 + p.toNat * 0x80 + z.toNat * 0x40)
  | .vcne t d a b p z => some (0x8C000008 + t.code + d.toNat * 0x100000 + a.toNat * 0x8000 + b.toNat * 0x400 + p.toNat * 0x80 + z.toNat * 0x40)
  | .vclt t d a b p z => some (0x8C000010 + t.code + d.toNat * 0x100000 + a.toNat * 0x8000 + b.toNat * 0x400 + p.toNat * 0x80 + z.toNat * 0x40)
  | .vcle t d a b p z => some (0x8C000018 + t.code + d.toNat * 0x100000 + a.toNat * 0x8000 + b.toNat * 0x400 + p.toNat * 0x80 + z.toNat * 0x40)
  | .vcfeq t d a b p z => some (0x8C000020 + t.code + d.toNat * 0x100000 + a.toNat * 0x8000 + b.toNat * 0x400 + p.toNat * 0x80 + z.toNat * 0x40)
  | .vcflt t d a b p z => some (0x8C000028 + t.code + d.toNat * 0x100000 + a.toNat * 0x8000 + b.toNat * 0x400 + p.toNat * 0x80 + z.toNat * 0x40)
  | .vcfle t d a b p z => some (0x8C000030 + t.code + d.toNat * 0x100000 + a.toNat * 0x8000 + b.toNat * 0x400 + p.toNat * 0x80 + z.toNat * 0x40)
  | .vcfun t d a b p z => some (0x8C000038 + t.code + d.toNat * 0x100000 + a.toNat * 0x8000 + b.toNat * 0x400 + p.toNat * 0x80 + z.toNat * 0x40)
  | .pand d a b => some (0x8E000000 + d.toNat * 0x100000 + a.toNat * 0x8000 + b.toNat * 0x400)
  | .por d a b => some (0x8E000001 + d.toNat * 0x100000 + a.toNat * 0x8000 + b.toNat * 0x400)
  | .pxor d a b => some (0x8E000002 + d.toNat * 0x100000 + a.toNat * 0x8000 + b.toNat * 0x400)
  | .pandn d a b => some (0x8E000003 + d.toNat * 0x100000 + a.toNat * 0x8000 + b.toNat * 0x400)
  | .pnot d a => some (0x8E000004 + d.toNat * 0x100000 + a.toNat * 0x8000)
  | .pfromg d a => some (0x8E000005 + d.toNat * 0x100000 + a.toNat * 0x8000)
  | .ptog d a => some (0x8E000006 + d.toNat * 0x100000 + a.toNat * 0x8000)
  | .vperm t d a b p z => some (0x90000000 + t.code + d.toNat * 0x100000 + a.toNat * 0x8000 + b.toNat * 0x400 + p.toNat * 0x80 + z.toNat * 0x40)
  | .vzipl t d a b p z => some (0x90000008 + t.code + d.toNat * 0x100000 + a.toNat * 0x8000 + b.toNat * 0x400 + p.toNat * 0x80 + z.toNat * 0x40)
  | .vziph t d a b p z => some (0x90000010 + t.code + d.toNat * 0x100000 + a.toNat * 0x8000 + b.toNat * 0x400 + p.toNat * 0x80 + z.toNat * 0x40)
  | .vunzpe t d a b p z => some (0x90000018 + t.code + d.toNat * 0x100000 + a.toNat * 0x8000 + b.toNat * 0x400 + p.toNat * 0x80 + z.toNat * 0x40)
  | .vunzpo t d a b p z => some (0x90000020 + t.code + d.toNat * 0x100000 + a.toNat * 0x8000 + b.toNat * 0x400 + p.toNat * 0x80 + z.toNat * 0x40)
  | .vrev t d a p z => some (0x90000028 + t.code + d.toNat * 0x100000 + a.toNat * 0x8000 + p.toNat * 0x80 + z.toNat * 0x40)
  | .vslide t d a b p z => some (0x90000030 + t.code + d.toNat * 0x100000 + a.toNat * 0x8000 + b.toNat * 0x400 + p.toNat * 0x80 + z.toNat * 0x40)
  | .vbcl t d a b p z => some (0x90000038 + t.code + d.toNat * 0x100000 + a.toNat * 0x8000 + b.toNat * 0x400 + p.toNat * 0x80 + z.toNat * 0x40)
  | .vradd t d a b p => some (0x92000000 + t.code + d.toNat * 0x100000 + a.toNat * 0x8000 + b.toNat * 0x400 + p.toNat * 0x80)
  | .vrmin t d a b p => some (0x92000008 + t.code + d.toNat * 0x100000 + a.toNat * 0x8000 + b.toNat * 0x400 + p.toNat * 0x80)
  | .vrmax t d a b p => some (0x92000010 + t.code + d.toNat * 0x100000 + a.toNat * 0x8000 + b.toNat * 0x400 + p.toNat * 0x80)
  | .vrfadd t d a b p => some (0x92000020 + t.code + d.toNat * 0x100000 + a.toNat * 0x8000 + b.toNat * 0x400 + p.toNat * 0x80)
  | .vrfmin t d a b p => some (0x92000028 + t.code + d.toNat * 0x100000 + a.toNat * 0x8000 + b.toNat * 0x400 + p.toNat * 0x80)
  | .vrfmax t d a b p => some (0x92000030 + t.code + d.toNat * 0x100000 + a.toNat * 0x8000 + b.toNat * 0x400 + p.toNat * 0x80)
  | .vcvtF32F16 d a p => some (0x94000000 + d.toNat * 0x100000 + a.toNat * 0x8000 + p.toNat * 0x80)
  | .vcvtF16F32 d a b p => some (0x94000001 + d.toNat * 0x100000 + a.toNat * 0x8000 + b.toNat * 0x400 + p.toNat * 0x80)
  | .vcvtF32Bf16 d a p => some (0x94000002 + d.toNat * 0x100000 + a.toNat * 0x8000 + p.toNat * 0x80)
  | .vcvtBf16F32 d a b p => some (0x94000003 + d.toNat * 0x100000 + a.toNat * 0x8000 + b.toNat * 0x400 + p.toNat * 0x80)
  | .vcvtF32I32 d a p => some (0x94000004 + d.toNat * 0x100000 + a.toNat * 0x8000 + p.toNat * 0x80)
  | .vcvtF32W32 d a p => some (0x94000005 + d.toNat * 0x100000 + a.toNat * 0x8000 + p.toNat * 0x80)
  | .vcvtI32F32 d a p => some (0x94000006 + d.toNat * 0x100000 + a.toNat * 0x8000 + p.toNat * 0x80)
  | .vcvtW32F32 d a p => some (0x94000007 + d.toNat * 0x100000 + a.toNat * 0x8000 + p.toNat * 0x80)
  | .vcvtI32I8 d a p => some (0x94000008 + d.toNat * 0x100000 + a.toNat * 0x8000 + p.toNat * 0x80)
  | .vcvtI8I32 d a b p => some (0x94000009 + d.toNat * 0x100000 + a.toNat * 0x8000 + b.toNat * 0x400 + p.toNat * 0x80)
  | .vcvtF32D16 d a b p => some (0x94000010 + d.toNat * 0x100000 + a.toNat * 0x8000 + b.toNat * 0x400 + p.toNat * 0x80)
  | .vcvtF32D8 d a b p => some (0x94000011 + d.toNat * 0x100000 + a.toNat * 0x8000 + b.toNat * 0x400 + p.toNat * 0x80)
  | .vcvtF32D4 d a b p => some (0x94000012 + d.toNat * 0x100000 + a.toNat * 0x8000 + b.toNat * 0x400 + p.toNat * 0x80)
  | .vcvtD16F32 d a b p => some (0x94000014 + d.toNat * 0x100000 + a.toNat * 0x8000 + b.toNat * 0x400 + p.toNat * 0x80)
  | .vcvtD8F32 d a b p => some (0x94000015 + d.toNat * 0x100000 + a.toNat * 0x8000 + b.toNat * 0x400 + p.toNat * 0x80)
  | .vcvtD4F32 d a b p => some (0x94000016 + d.toNat * 0x100000 + a.toNat * 0x8000 + b.toNat * 0x400 + p.toNat * 0x80)
  | .vcvtF32E4m3 d a b p => some (0x94000018 + d.toNat * 0x100000 + a.toNat * 0x8000 + b.toNat * 0x400 + p.toNat * 0x80)
  | .vcvtF32E5m2 d a b p => some (0x94000019 + d.toNat * 0x100000 + a.toNat * 0x8000 + b.toNat * 0x400 + p.toNat * 0x80)
  | .vcvtF32E2m3 d a b p => some (0x9400001A + d.toNat * 0x100000 + a.toNat * 0x8000 + b.toNat * 0x400 + p.toNat * 0x80)
  | .vcvtF32E3m2 d a b p => some (0x9400001B + d.toNat * 0x100000 + a.toNat * 0x8000 + b.toNat * 0x400 + p.toNat * 0x80)
  | .vcvtF32E2m1 d a b p => some (0x9400001C + d.toNat * 0x100000 + a.toNat * 0x8000 + b.toNat * 0x400 + p.toNat * 0x80)
  | .vcvtF32Mxi8 d a b p => some (0x9400001D + d.toNat * 0x100000 + a.toNat * 0x8000 + b.toNat * 0x400 + p.toNat * 0x80)
  | .vcvtE4m3F32 d a b p => some (0x94000020 + d.toNat * 0x100000 + a.toNat * 0x8000 + b.toNat * 0x400 + p.toNat * 0x80)
  | .vcvtE5m2F32 d a b p => some (0x94000021 + d.toNat * 0x100000 + a.toNat * 0x8000 + b.toNat * 0x400 + p.toNat * 0x80)
  | .vcvtE2m3F32 d a b p => some (0x94000022 + d.toNat * 0x100000 + a.toNat * 0x8000 + b.toNat * 0x400 + p.toNat * 0x80)
  | .vcvtE3m2F32 d a b p => some (0x94000023 + d.toNat * 0x100000 + a.toNat * 0x8000 + b.toNat * 0x400 + p.toNat * 0x80)
  | .vcvtE2m1F32 d a b p => some (0x94000024 + d.toNat * 0x100000 + a.toNat * 0x8000 + b.toNat * 0x400 + p.toNat * 0x80)
  | .vcvtMxi8F32 d a b p => some (0x94000025 + d.toNat * 0x100000 + a.toNat * 0x8000 + b.toNat * 0x400 + p.toNat * 0x80)
  | .vrcp t d a p z => some (0x96000000 + t.code + d.toNat * 0x100000 + a.toNat * 0x8000 + p.toNat * 0x80 + z.toNat * 0x40)
  | .vrsqrt t d a p z => some (0x96000008 + t.code + d.toNat * 0x100000 + a.toNat * 0x8000 + p.toNat * 0x80 + z.toNat * 0x40)
  | .vexp2 t d a p z => some (0x96000010 + t.code + d.toNat * 0x100000 + a.toNat * 0x8000 + p.toNat * 0x80 + z.toNat * 0x40)
  | .vlog2 t d a p z => some (0x96000018 + t.code + d.toNat * 0x100000 + a.toNat * 0x8000 + p.toNat * 0x80 + z.toNat * 0x40)
  | .vtanh t d a p z => some (0x96000020 + t.code + d.toNat * 0x100000 + a.toNat * 0x8000 + p.toNat * 0x80 + z.toNat * 0x40)
  | .vsigm t d a p z => some (0x96000028 + t.code + d.toNat * 0x100000 + a.toNat * 0x8000 + p.toNat * 0x80 + z.toNat * 0x40)
  | .vmov t d a p z => some (0x98000000 + t.code + d.toNat * 0x100000 + a.toNat * 0x8000 + p.toNat * 0x80 + z.toNat * 0x40)
  | .vdup t d a p z => some (0x98000008 + t.code + d.toNat * 0x100000 + a.toNat * 0x8000 + p.toNat * 0x80 + z.toNat * 0x40)
  | .vins t d a b => some (0x98000010 + t.code + d.toNat * 0x100000 + a.toNat * 0x8000 + b.toNat * 0x400)
  | .vext t d a b => some (0x98000018 + t.code + d.toNat * 0x100000 + a.toNat * 0x8000 + b.toNat * 0x400)
  | .vmerge t d a b p => some (0x98000020 + t.code + d.toNat * 0x100000 + a.toNat * 0x8000 + b.toNat * 0x400 + p.toNat * 0x80)
  | .vdxdot t d a b p => some (0x9A000000 + t.code + d.toNat * 0x100000 + a.toNat * 0x8000 + b.toNat * 0x400 + p.toNat * 0x80)
  | .vdxamax t d a b p => some (0x9A000008 + t.code + d.toNat * 0x100000 + a.toNat * 0x8000 + b.toNat * 0x400 + p.toNat * 0x80)
  | .tview m a la => some (0xC0000000 + m.toNat * 0x200000 + a.toNat * 0x10000 + la.toNat * 0x80)
  | .twload m a la => some (0xC2000000 + m.toNat * 0x200000 + a.toNat * 0x10000 + la.toNat * 0x80)
  | .tmma m ma mb g acc la => some (0xC4000000 + m.toNat * 0x200000 + ma.toNat * 0x10000 + mb.toNat * 0x800 + g.toNat * 0x4 + acc.toNat + la.toNat * 0x80)
  | .tadd m ma mb la => some (0xC6000000 + m.toNat * 0x200000 + ma.toNat * 0x10000 + mb.toNat * 0x800 + la.toNat * 0x80)
  | .tmulw m ma mb la => some (0xC6000008 + m.toNat * 0x200000 + ma.toNat * 0x10000 + mb.toNat * 0x800 + la.toNat * 0x80)
  | .tscale m ma b la => some (0xC6000010 + m.toNat * 0x200000 + ma.toNat * 0x10000 + b.toNat * 0x800 + la.toNat * 0x80)
  | .tactRelu m ma la => some (0xC6000018 + m.toNat * 0x200000 + ma.toNat * 0x10000 + la.toNat * 0x80)
  | .tactGelu m ma la => some (0xC6000019 + m.toNat * 0x200000 + ma.toNat * 0x10000 + la.toNat * 0x80)
  | .tactSigm m ma la => some (0xC600001A + m.toNat * 0x200000 + ma.toNat * 0x10000 + la.toNat * 0x80)
  | .tactTanh m ma la => some (0xC600001B + m.toNat * 0x200000 + ma.toNat * 0x10000 + la.toNat * 0x80)
  | .tactExp m ma la => some (0xC600001C + m.toNat * 0x200000 + ma.toNat * 0x10000 + la.toNat * 0x80)
  | .tcvt m ma b la => some (0xC6000020 + m.toNat * 0x200000 + ma.toNat * 0x10000 + b.toNat * 0x800 + la.toNat * 0x80)
  | .tredRowsum m ma la => some (0xC6000028 + m.toNat * 0x200000 + ma.toNat * 0x10000 + la.toNat * 0x80)
  | .tredColsum m ma la => some (0xC6000029 + m.toNat * 0x200000 + ma.toNat * 0x10000 + la.toNat * 0x80)
  | .tredRowmax m ma la => some (0xC600002A + m.toNat * 0x200000 + ma.toNat * 0x10000 + la.toNat * 0x80)
  | .tredColmax m ma la => some (0xC600002B + m.toNat * 0x200000 + ma.toNat * 0x10000 + la.toNat * 0x80)
  | .tmask m ma b la => some (0xC8000000 + m.toNat * 0x200000 + ma.toNat * 0x10000 + b.toNat * 0x800 + la.toNat * 0x80)
  | .tforce m a la => some (0xCA000000 + m.toNat * 0x200000 + a.toNat * 0x10000 + la.toNat * 0x80)
  | .tstore m a b la => some (0xCA000001 + m.toNat * 0x200000 + a.toNat * 0x10000 + b.toNat * 0x800 + la.toNat * 0x80)
  | .tdrop m la => some (0xCC000000 + m.toNat * 0x200000 + la.toNat * 0x80)
  | .tquery m a la => some (0xCC000001 + m.toNat * 0x200000 + a.toNat * 0x10000 + la.toNat * 0x80)
  | .scall => some (0xE0000000)
  | .brk => some (0xE0000001)
  | .rett => some (0xE0000002)
  | .wfi => some (0xE0000003)
  | .halt => some (0xE0000004)
  | .srr d sys => some (0xE2000000 + d.toNat * 0x100000 + sys.toNat * 0x8)
  | .srw sys a => some (0xE2000001 + sys.toNat * 0x8 + a.toNat * 0x8000)
  | .srx d sys a => some (0xE2000002 + d.toNat * 0x100000 + sys.toNat * 0x8 + a.toNat * 0x8000)
  | .startS a b => some (0xE4000000 + a.toNat * 0x8000 + b.toNat * 0x400)
  | .reap a => some (0xE4000001 + a.toNat * 0x8000)
  | .slotw a b => some (0xE4000002 + a.toNat * 0x8000 + b.toNat * 0x400)
  | .ptsync => some (0xE6000000)
  | .netsync => some (0xE6000001)
  | .l1wb => some (0xE6000002)
  | .l1inv => some (0xE6000003)
  | .accspill k a => some (0xE6000004 + k.toNat * 0x100000 + a.toNat * 0x8000)
  | .accfill k a => some (0xE6000005 + k.toNat * 0x100000 + a.toNat * 0x8000)
  | .kslotw d a => some (0xE8000000 + d.toNat * 0x100000 + a.toNat * 0x8000)
  | .kslotclr d => some (0xE8000001 + d.toNat * 0x100000)
  | .nselw d a => some (0xE8000002 + d.toNat * 0x100000 + a.toNat * 0x8000)
  | .grpw d a => some (0xE8000003 + d.toNat * 0x100000 + a.toNat * 0x8000)
  | .blkfence d => some (0xE8000004 + d.toNat * 0x100000)
  | .unassignedEncoding _ => none
  | .doorbellWrite _ _ => none
  | .hostmsgRead _ _ => none
  | .ipendWrite _ _ _ => none
  | .tcmpWrite _ _ _ => none
  | .advqWrite _ _ _ => none
  | .tstatusWrite _ _ _ => none
  | .fctlWrite _ _ _ => none
  | .interruptEntry _ _ => none
  | .timerExpiry _ _ => none
  | .wfiWake _ _ => none
  | .deferredTrap _ _ => none
  | .longLatencyComplete _ _ => none
  | .slotTableSwitch _ => none
  | .yieldTimeout _ _ => none
  | .portRequest _ _ => none
  | .sliceAccess _ _ => none
  | .sliceMissFill _ _ => none
  | .walkRequest _ _ => none
  | .walkEntryReturn _ _ => none
  | .walkRetry _ _ => none
  | .walkRaceExhausted _ _ => none
  | .loadResponse _ _ _ _ => none
  | .postedStoreAck _ _ _ _ => none
  | .l1FillResponse _ _ _ => none
  | .l1WritebackReply _ _ _ => none
  | .writebackRetry _ => none
  | .lockRegistration _ _ => none
  | .lockRegistrationAck _ _ _ _ => none
  | .registrationRetryTimeout _ _ => none
  | .lockRelease _ _ _ => none
  | .queueTimeout _ _ => none
  | .vigilTimeout _ _ => none
  | .dayBarrierAdvance _ _ _ => none
  | .dayBarrierTimeout _ _ => none
  | .barrierArrival _ _ _ => none
  | .groupWaitTimeout _ _ => none
  | .barrierWithdrawal _ _ _ _ => none
  | .broadcastAccept _ _ _ _ => none
  | .broadcastFloodArrival _ _ _ _ => none
  | .broadcastCreditReturn _ _ _ _ => none
  | .bcastSendTimeout _ _ => none
  | .bcastRecvTimeout _ _ => none
  | .reductionContribution _ _ _ _ _ _ => none
  | .theftRequest _ _ _ => none
  | .theftReply _ _ _ => none
  | .levellingInterval _ => none
  | .levellingGrantRequest _ _ _ => none
  | .levellingGrant _ _ _ => none
  | .levelledFrameArrival _ _ _ _ => none
  | .tileStep _ => none
  | .arrayLeaseHandover _ => none
  | .twloadFetchComplete _ _ => none
  | .accBankWaitTimeout _ _ => none
  | .copyStart _ _ => none
  | .streamerUnitRead _ _ _ => none
  | .copyUnitWrite _ _ _ _ => none
  | .copyStatusWrite _ _ => none
  | .cpyhArrival _ _ => none
  | .cpyhBarrierTimeout _ _ => none
  | .cpyhSourceRegistration _ _ => none
  | .copyResume _ => none
  | .intercalationRequest _ _ _ _ => none
  | .intercalationProposal _ _ _ => none
  | .intercalationCommit _ _ => none
  | .intercalationStop _ => none
  | .switchOutPoint _ => none
  | .coreSwitchedOut _ => none
  | .ejectSectionCopy _ _ => none
  | .resume _ _ => none
  | .resumeIssue _ _ => none
  | .createPartition _ _ _ _ _ _ => none
  | .destroyPartition _ => none
  | .launch _ _ => none
  | .stewardStart _ _ => none
  | .endRun _ _ _ => none
  | .hostmsg _ _ _ => none
  | .completionRelease _ => none
  | .harvest _ _ => none
  | .dirtyLogMerge _ => none
  | .invalidationLogApply _ => none
  | .mapPage _ _ _ _ => none
  | .unmapPage _ _ => none
  | .movePage _ _ _ => none
  | .clearD _ _ => none
  | .dirtyQuery _ _ => none
  | .groupTableWrite _ _ _ => none
  | .groupTableRead _ _ => none
  | .keyLoad _ _ _ _ => none
  | .keyClear _ _ => none
  | .setWriteSlot _ _ => none
  | .journalRead _ _ => none
  | .startRecord _ _ _ => none
  | .warmReset _ => none
  | .coldReset _ => none
  | .retentionEntry _ _ => none
  | .retentionExit _ _ => none
  | .powerOff _ _ => none
  | .powerOn _ _ => none
  | .linkBind _ _ _ _ _ => none
  | .firmwareUpdate _ _ _ => none
  | .eccErrorDetected _ => none
  | .modulePowerGood => none
  | .powerGood _ => none
  | .clockLocked _ => none
  | .linksTrained _ => none
  | .configLoaded _ => none
  | .selfTestPassed _ _ => none
  | .chipReady _ => none
  | .bringupLimitOverrun _ _ => none
  | .wavefrontArrival _ _ _ => none
  | .bondMarkedDead _ => none
  | .routingTableLoad _ _ _ _ _ => none
  | .routingTableCommit => none
  | .routingUpdateAbort => none
  | .regulatorPhaseFailure _ _ => none
  | .droopStretch _ _ => none
  | .droopCap _ _ => none
  | .bondSupplyReading _ _ => none
  | .thermalReading _ _ => none
  | .thermalFence _ => none
  | .thermalStepUp _ => none
  | .linkFlitReceive _ _ => none
  | .linkRetryExhausted _ => none
  | .calendsFlitSend _ => none
  | .copyWaitTimeout _ _ => none
  | .operandFetchComplete _ _ => none
  | .secondTierCompletion _ _ => none
  | .instructionFetchReturn _ _ => none
  | .droopEnd _ _ => none
  | .powerLoss => none
  | .pageFaultRefusal _ _ _ => none

end Sys2Proof
end

