-- ==== Sys2Proof/Machine/State.lean ====
section
/-! DEFINITION. The state of the module as plain data: everything the spec gives the machine, one record per unit, each
held in a list by its physical key. INVENTORY.md lists every field with its rule and reset value.

Keys. A site is 0 to 41 (R349). A block is 4 * site + block, a cluster is 16 * (4 * site + block) + logical cluster,
a core is 4 * cluster + core, so that a core's key has the layout of a packed name (R146) with the site in the place
of the partition-relative reticle. A slice is 32 * site + 16 * stack + s (R322). -/

namespace Sys2Proof.Machine

/-- Why the machine stops. Every trap, task end and machine check of the spec is a next state, so none of them is here. -/
inductive Fault where
  /-- For behaviour to which the spec gives no effect; the spec leaves none, so no meaning raises it: safe. -/
  | unspecified (what : String)
  deriving DecidableEq, Repr

/-- Why an instruction has no meaning. -/
inductive Refusal where
  /-- For an arm of `exec` that has no meaning; every arm has one, so none raises it: safe. -/
  | notModelled (mnemonic : String)
  deriving DecidableEq, Repr

/-! ### Strands -/

/-- Life states (R98). -/
inductive Life where | dormant | running | waiting | faulted
  deriving DecidableEq, Repr

/-- One hardware-loop level (R97, R104). -/
structure Level where
  start : Word
  stop : Word
  count : Word
  active : Bool
  deriving DecidableEq, Repr

/-- A tile handle (R212). A VALUE records its bank, format, shape, kind and appending PC. -/
inductive Handle where
  | empty
  | node (n : Nat)
  | value (bank fmt rows cols kind : Nat) (pc : Word)
  deriving DecidableEq, Repr

/-- Where the answer of a long-latency instruction goes. -/
inductive Dest where
  | none
  /-- n bytes, extended, to a scalar register; `seq` when the serial goes to LASTSEQ (R86, R173) -/
  | scalar (d : Reg) (n : Nat) (signed seq : Bool)
  /-- the serial to a scalar register (R172) -/
  | serial (d : Reg)
  /-- the active bytes of a vector register (R195) -/
  | bytes (vd : Reg) (active : Word) (zero : Bool)
  /-- four bytes to every active 32-bit lane (R195) -/
  | broadcast (vd : Reg) (active : Word)
  /-- one element of n bytes per lane that answers (R196) -/
  | lanes (vd : Reg) (n : Nat)
  /-- the decrement of `join` (R189) -/
  | joined
  /-- the image of accumulator bank k, in doublewords (R297) -/
  | bank (k : Nat)
  deriving DecidableEq, Repr

/-- Part of a demand: a computed node and the product region asked of it, or a weight node (R232). -/
structure Work where
  node : Nat
  rows : BitVec 32
  cols : BitVec 32
  deriving DecidableEq, Repr

/-- What a tile step writes: positions with their bits, and scale pairs of rows. -/
structure StepOut where
  cells : List (Nat × Nat × Nat)
  pairs : List (Nat × Nat)
  deriving DecidableEq, Repr

/-- What an outstanding long-latency instruction waits for. -/
inductive Phase where
  /-- `want` element answers of n bytes, of which `got` have come; `need` are the (address, lane) pairs that wait for
  an L1 fill -/
  | access (dest : Dest) (n : Nat) (need : List (Word × Nat)) (want : Nat) (got : List Reply)
  /-- a result that a full queue port holds back (R113) -/
  | push (d : Reg) (v : Word) (since : Nat)
  /-- a fence: release still to do, acquire to do, scope (R175) -/
  | fence (release acquire : Bool) (scope : Scope)
  /-- a package-scope release that waits for the second tier (R85); whether an acquire follows -/
  | tier (acquire : Bool)
  | fenceAck
  | vigil (fn : Nat) (d : Reg) (q x : Nat)
  | daybar (ring : Nat) (drain : Bool)
  /-- barrier of R181; `waits` once the strand waits for the episode, its core's arrival being made -/
  | barrier (g : GroupRef) (waits : Bool)
  | reduce (g : GroupRef) (d : Reg) (op : RedOp) (b : Word) (waits : Bool)
  /-- `first` is the tick of the first send, once its release is done (R180, R182) -/
  | bcastSend (g : GroupRef) (v : Word) (inFlight : Bool) (first : Option Nat)
  /-- `first` is the tick of the first look at the buffer, once its release is done; `push` that of the first push tried -/
  | bcastRecv (g : GroupRef) (d : Reg) (first push : Option Nat)
  /-- `take`: victims asked, empty replies, and the frame or failure once known, with its tick (R109, R113) -/
  | take (d : Reg) (asked : List Nat) (replies : Nat) (result : Option (Option Frame × Nat))
  /-- `join` waiting for its release before the decrement is sent (R189) -/
  | joinRelease (addr : Word)
  | yield
  /-- range registrations (lock and home) not yet answered, and those refused for want of an entry, with the first byte
  refused; the node and handle they are for, or the copy (R69, R71, R220, R248) -/
  | register (waiting refused : List (Nat × Home)) (first : Word) (node : Option (Nat × Tile)) (copy : Option Nat)
  /-- tile work to be done before the instruction is executed again; what the step at its head computes from the operands
  fetched for it; since when that step waits for a bank (R229, R235, R237, R238, R240) -/
  | demand (work : List Work) (fetched : Option StepOut) (bankSince : Option Nat)
  | l1wb
  | netsync
  /-- the invalidation entries appended before it issued: how many each site had appended (R295) -/
  | ptsync (marks : List (Nat × Nat))
  /-- elements of a `tstore`, virtual elements of a scatter, or doublewords of a bank whose tag is then cleared, still to be
  sent: address, bytes, bit mask and value (R197, R230, R297) -/
  | storing (tile : Bool) (spill : Option Nat) (todo : List (Word × Nat × Nat × Nat))
  /-- words of a long accumulator still to be written: tick, address, scratchpad offset and value (R262) -/
  | adding (todo : List (Nat × Word × Nat × Nat))
  /-- complete, to end at the strand's next slot (R102); the target when it transfers control -/
  | done (target : Option (Word × Bool))
  deriving DecidableEq, Repr

/-- A map record (R217). -/
structure MapRec where
  base : Word
  rstride : Word
  cstride : Word
  roff : BitVec 32
  coff : BitVec 32
  rows : Nat
  cols : Nat
  fmt : Nat
  flags : BitVec 8
  zero38 : BitVec 16
  sbase : Word
  srstride : Word
  ibase : Word
  deriving DecidableEq, Repr

/-- A write-back of an L1 on behalf of one instruction or copy: the lines in flight when it began that no home has answered since,
and the first of them that was refused (R70, R175, R180). -/
structure Cleaning where
  awaited : List Nat
  refused : Option Nat
  deriving DecidableEq, Repr

/-- The outstanding long-latency instruction of a strand (R102, R103, R317). -/
structure Outst where
  word : BitVec 32
  pc : Word
  la : Nat
  retired : Nat
  since : Nat
  /-- the trap its home reported, taken at the strand's next slot -/
  err : Option (Cause × Word)
  /-- the queue entries the instruction popped at issue; an exact trap puts them back (R114, R166) -/
  pops : List (Nat × Word)
  /-- the write-back of its release, once begun (R83, R180) -/
  cleaning : Option Cleaning
  /-- the map record it read at issue (R220) -/
  record : Option MapRec
  /-- what it read at issue of registers that a copy may still write (R220, R257) -/
  scalars : List (Reg × Word)
  /-- the tick of its first issue (R235) -/
  order : Nat
  phase : Phase
  deriving DecidableEq, Repr

/-- Why an instruction that has not issued waits (R100). -/
inductive StallWhy where
  | queue (q : Nat) (push : Bool)
  | bound
  | channel
  | counter
  /-- an `alevict` of an almanac entry, which leaves in the cc its copy retires (R179) -/
  | evict (entry : Nat)
  /-- that entry has left -/
  | evicted
  /-- a `reap` of a strand is under way (R293) -/
  | reap (target : Nat)
  | other
  deriving DecidableEq, Repr

/-- A wait before issue, counted from its first attempt (R114, R248). -/
structure Stall where
  pc : Word
  since : Nat
  why : StallWhy
  deriving DecidableEq, Repr

/-- A strand (R97). -/
structure Strand where
  pc : Word
  life : Life
  g : Vector Word 32
  v : Vector VReg 32
  p : Vector Word 8
  m : Vector Handle 16
  e : Vector Word 32
  level0 : Level
  level1 : Level
  fctl : BitVec 8
  fmta : BitVec 16
  fmtb : BitVec 16
  scla : BitVec 16
  sclb : BitVec 16
  lastseq : BitVec 32
  status : Word
  tstatus : Word
  tcause : Word
  tpc : Word
  tval : Word
  tattr : Word
  tshadow : BitVec 4
  scratch : Word
  tls0 : Word
  tle0 : Word
  tlc0 : Word
  tls1 : Word
  tle1 : Word
  tlc1 : Word
  tcmp : Word
  dbsrc : BitVec 16
  xn : Bool
  acks : Nat
  refusals : List Refused
  outst : Option Outst
  skip : Nat
  stall : Option Stall
  /-- queue entries already popped by an instruction that is being executed again after its tile work (R220, R238) -/
  popped : List (Nat × Word)
  /-- an instruction whose tile work is done is being executed again (R220, R238) -/
  rerun : Bool
  /-- the map record that it read at issue (R220) -/
  record : Option MapRec
  /-- what it read at issue of registers that a copy may still write (R220, R257) -/
  scalars : List (Reg × Word)
  /-- the tick of its first issue (R235) -/
  order : Option Nat
  /-- the outstanding instruction that a stop has recorded for reissue (R312, R317) -/
  again : Option Outst
  /-- the fault of the fetch of a PC, not yet raised (R122, R300, R309) -/
  fetchErr : Option (Word × Cause)
  /-- the tick from which a strand that `start` began issues (R292) -/
  startAt : Nat
  /-- the steward is reaping it: it issues nothing (R293) -/
  reaping : Bool
  deriving DecidableEq, Repr

/-! ### Tiles -/

/-- The operation that appended an advent node (R214); `tact` and `tred` carry their sub-operation. -/
inductive NodeKind where
  | view | twload | tmma (acc : Bool) | tadd | tmulw | tscale | tact (f : Nat) | tcvt | tred (k : Nat) | tmask
  deriving DecidableEq, Repr

/-- Node states that stand in the table (R216). A DROPPED node leaves it. -/
inductive NodeState where | pending | demanded | evaluating | done | faulted
  deriving DecidableEq, Repr

/-- A source of a node: a node of the table, or a VALUE's bank with its format and shape (R214). -/
inductive Source where
  | node (n : Nat)
  | value (bank fmt rows cols : Nat)
  deriving DecidableEq, Repr

/-- An advent node (R214). -/
structure Node where
  kind : NodeKind
  owner : Nat
  age : Nat
  pc : Word
  state : NodeState
  sources : List Source
  map : MapRec
  rowMask : BitVec 32
  colMask : BitVec 32
  depth : Word
  scale : BitVec 32
  mask : Word
  fmt : Nat
  rmat : BitVec 32
  cmat : BitVec 32
  bank : Option Nat
  slot : Option Nat
  lock : Option Nat
  fault : Option (Cause × Word)
  /-- shares its accumulator source's bank (R236) -/
  inPlace : Bool
  deriving DecidableEq, Repr

/-- The owner tag of an accumulator bank (R68); absent when V = 0. -/
structure BankTag where
  ctx : Nat
  core : Nat
  strand : Nat
  deriving DecidableEq, Repr

/-- An accumulator bank: 1,024 binary32 elements, (i, j) at bit 32 * (32 i + j), and its scale store (R68, R297). -/
structure Bank where
  data : BitVec 32768
  scales : BitVec 512
  tag : Option BankTag
  deriving DecidableEq, Repr

/-- What the cores of a cluster share (R67, R68, R241): banks, weight slots (bound core and node, and the fetched
bytes), and the array lease. -/
structure Cluster where
  banks : Vector Bank 8
  slots : List (Nat × Nat × Nat × List Byte)
  holder : Option Nat
  steps : Nat
  requests : List (Nat × Nat)
  deriving DecidableEq, Repr

/-! ### Cores -/

/-- A queue (R113, R114). -/
structure Queue where
  entries : List Word
  head : Nat
  deriving DecidableEq, Repr

/-- A calendar ring (R60 to R62): configuration, pointers and arrival sets with the ticks of arrival. -/
structure Ring where
  cfg : RingCfg
  fill : Nat
  drain : Nat
  fillArr : BitVec 16
  drainArr : BitVec 16
  deriving DecidableEq, Repr

/-- An almanac entry (R59). -/
structure AlEntry where
  tag : Nat
  filling : Option Nat
  deriving DecidableEq, Repr

/-- An L1 line frame (R54). -/
structure L1Frame where
  line : Nat
  data : Line
  dirty : LineMask
  present : LineMask
  filling : Bool
  /-- fills asked for before the line was dropped or an acquire: their answers, which come first, install nothing
  (R55, R79) -/
  stale : Nat
  /-- the bytes of a write-back that has not been answered -/
  sent : LineMask
  /-- the line leaves its frame when that write-back is performed -/
  evict : Bool
  refused : Bool
  deriving DecidableEq, Repr

/-- The kinds of copies (R251 to R254); `alfill` fills the almanac slot it names (R177). -/
inductive CopyKind where | cpy | cpy2 | cpyh | cpyf | alfill (slot : Nat)
  deriving DecidableEq, Repr

/-- Where a copy stands (R71, R91, R253, R255, R257). -/
inductive CopyPhase where
  /-- its registration at issue is not complete -/
  | registering
  /-- registered, waiting for the start conditions of R91 -/
  | starting
  /-- `cpyh` waiting to send its arrival; the write-back of its release, once begun -/
  | arriving (cleaning : Option Cleaning)
  | barrier (since : Nat)
  /-- its episode is complete: `cpyh` goes on to its sources -/
  | passed
  /-- `cpyh` registering its source strips: (lock, home) pairs not answered and refused, since when -/
  | sources (waiting refused : List (Nat × Home)) (since : Nat)
  | running
  /-- a unit was refused; units already sent are still in flight -/
  | refused
  /-- the PENDING status has been written -/
  | pending
  /-- no more units are sent; `code` is the final outcome -/
  | ending
  deriving DecidableEq, Repr

/-- A copy in flight (R249 to R259). `geo` is its geometry record, `gb` its scalar operand, `rm` its rounding mode. The
units below `next` have been read; `inFlight` of them have not yet been performed, and `refusedAt` is the lowest one
refused. `busy` until a status word is written to its bound register. -/
structure Copy where
  id : Nat
  strand : Nat
  reg : Reg
  kind : CopyKind
  geo : List Word
  gb : Word
  rm : Nat
  next : Nat
  inFlight : Nat
  refusedAt : Option Nat
  phase : CopyPhase
  code : Nat
  busy : Bool
  locks : List Nat
  deriving DecidableEq, Repr

/-- Who makes a core's arrival at a barrier, or its contribution: a strand or a `cpyh` (R116, R183, R253). -/
inductive Arriver where
  | strand (n : Nat)
  | copy (id : Nat)
  /-- one that was reaped after its message had left -/
  | gone
  deriving DecidableEq, Repr

/-- A core's part in an open episode of a group: who arrives for it, whether the arrival has left the core, and whether a
withdrawal from the episode has (R116, R117, R180, R183). -/
structure Arrival where
  idx : Nat
  reduction : Bool
  arriver : Arriver
  sent : Bool
  withdrawn : Bool
  deriving DecidableEq, Repr

/-- The deque (R107 to R110, R264). `reserved` places are held for frames in flight to it, `leaving` frames it sent have
not yet been appended. -/
structure Deque where
  hw : List Frame
  base : Nat
  slots : Nat
  first : Nat
  overN : Nat
  reserved : Nat
  leaving : Nat
  steal : Nat
  taken : Bool
  deriving DecidableEq, Repr

/-- A slot table that `slotw` has written, and the tick of its issue; it takes effect in a rotation after it completes (R294). -/
structure SlotTable where
  slots : Word
  sloten : BitVec 16
  since : Nat
  deriving DecidableEq, Repr

/-- A core (R11, R12). -/
structure Core where
  run : Option (Nat × Nat)
  retired : Bool
  stopped : Bool
  switchedOut : Bool
  scr : Nat
  calends : Word
  ticks : Nat
  slots : Word
  sloten : BitVec 16
  pendingSlots : List SlotTable
  advq : Word
  advqh : Word
  qlimit : BitVec 25
  balance : BitVec 5
  tvec : Word
  pctx : BitVec 16
  hostmsg : List Word
  queues : Vector Queue 4
  rings : List (Nat × Ring)
  almS : Nat
  almN : Nat
  almBase : Nat
  almanac : List (Nat × AlEntry)
  deque : Deque
  levelAt : Nat
  l1 : List (Nat × L1Frame)
  l1Use : List Nat
  icache : List (Nat × Line)
  locks : List LockEntry
  portLocks : List LockEntry
  nextId : Nat
  nodes : List (Nat × Node)
  nextAge : Nat
  copies : List Copy
  bcast : List (Nat × List (Nat × Word))
  arrivals : List Arrival
  strands : Vector Strand 16
  deriving DecidableEq, Repr

/-! ### Slices, control dies and the module -/

/-- A line a slice holds (R66): its data, and the bytes not yet written to memory. -/
structure SliceLine where
  part : Nat
  line : Nat
  /-- the physical key of the line's first byte (see `Memory`) -/
  phys : Nat
  /-- the size of its page and the D bit, as the translation it was fetched under showed them (R332) -/
  ps : Nat
  d : Bool
  data : Line
  dirty : LineMask
  deriving DecidableEq, Repr

/-- A translation-cache entry (R327). -/
structure TEntry where
  va : Nat
  ps : Nat
  tier : Nat
  frame : Nat
  d : Bool
  deriving DecidableEq, Repr

/-- A page-table walk under way (R327, R328). -/
structure Walk where
  line : Nat
  level : Nat
  table : Nat
  retries : Nat
  deriving DecidableEq, Repr

/-- A shared-cache slice (R65, R66, R69, R327). -/
structure Slice where
  lines : List SliceLine
  tcache : List TEntry
  filter : List LockEntry
  waiting : List Req
  walks : List Walk
  deriving DecidableEq, Repr

/-- A reticle's logs (R332, R333). -/
structure Reticle where
  dirtyLog : List Word
  invLog : List Word
  seq : Nat
  deriving DecidableEq, Repr

/-- A partition (R334, R338). -/
structure Partition where
  num : Nat
  c0 : Nat
  c1 : Nat
  s0 : Nat
  s1 : Nat
  ptroot : Nat
  /-- the slices of its compute reticles that were live when it was created, by key (R322) -/
  slices : List Nat
  /-- none until the key endpoint sets it -/
  writeSlot : Option Nat
  deriving DecidableEq, Repr

/-- A group-table entry with its episodes at the root (R19, R116 to R118, R182, R183, R336). -/
structure Group where
  ref : GroupRef
  image : GroupImage
  run : Option Nat
  members : List Nat
  expected : List Nat
  arrived : List Nat
  redOp : Option RedOp
  redValues : List (Nat × Word)
  seq : Nat
  unpopped : List (Nat × List Nat)
  deriving DecidableEq, Repr

/-- What a launch has changed and its refusal puts back (R341): the group entries that its own replaced, its cores as they
stood, the bytes, serials and poison of the scratchpads it cleared, and the lines its sections were written over. -/
structure Undo where
  groups : List Group
  cores : List (Nat × Core)
  cells : List Host.Cell
  serials : List (Nat × BitVec 32)
  poison : List Nat
  lines : List (Nat × Line)
  deriving DecidableEq, Repr

/-- The life of a run (R309, R311, R331, R341, R342). -/
inductive RunLife where
  | paging (rb : RunBlock)
  /-- set up but for the lines of its sections still to be written (R140) and for write-backs of its cores' L1s (R53), and
  then with a start value proposed, which the control dies of the listed sites have accepted (R341) -/
  | settingUp (old : Undo) (todo : List Nat)
  | agreeing (old : Undo) (accepted : List Nat)
  | starting | live | switchingOut | switchedOut
  /-- restored; the sites whose control dies have accepted the resume value (R319) -/
  | rejoining (accepted : List Nat)
  | resuming | stopped (outcome : Nat)
  deriving DecidableEq, Repr

/-- An intercalation in progress (R311, R319). -/
structure Intercalation where
  asked : Request
  saveBase : Word
  incoming : Option (Nat × Word)
  stop : Word
  accepted : List Nat
  committed : Bool
  deriving DecidableEq, Repr

/-- A run (R329, R335, R341). -/
structure Run where
  part : Nat
  ctx : Nat
  /-- the request that is being served for it: its LAUNCH, later that which brings it in again -/
  asked : Request
  blocks : List (Nat × Nat)
  lease : List LeaseRange
  sections : List Section
  entry : Word
  maintenance : Bool
  scr : Nat
  startT : Word
  /-- the `CALENDS` value from which its cores issue: T of R341, then T′ of each resume (R319) -/
  issueFrom : Word
  life : RunLife
  inter : Option Intercalation
  saveBase : Word
  dirty : Nat
  cause : Nat
  causeCore : Nat
  deriving DecidableEq, Repr

/-- A key slot (R338): the partition and key pair it holds, and its generation. -/
structure KeySlot where
  key : Option (Nat × BitVec 512)
  gen : BitVec 16
  deriving DecidableEq, Repr

/-- An error report (R307). -/
structure Report where
  time : Word
  location : Word
  address : Word
  syndrome : BitVec 32
  cause : Nat
  kind : Nat
  part : Nat
  deriving DecidableEq, Repr

/-- What the journal records (R339, R345, R352 to R355, R357, R360). -/
inductive JournalWhat where
  | accepted (op : Nat)
  | done (op : Nat)
  | refused (op reason index : Nat)
  | report (r : Report)
  | bringup (chip : Chip) (state : Nat)
  | completed (run outcome : Nat)
  | stewardFaulted (run core : Nat)
  | wavefrontRefused (chip : Chip)
  | bondDead (bond : Bond)
  | fenced (chip : Chip)
  | routingAborted
  | reset (cold : Bool)
  | firmware (image : Nat)
  deriving DecidableEq, Repr

/-- A journal entry (R339, R354). `seq` is the host SEQ of the command it records, or of the last one recorded for its
PART before it. -/
structure JournalEntry where
  seq : Nat
  part : Nat
  what : JournalWhat
  deriving DecidableEq, Repr

/-- A completion message (R342). -/
structure Completion where
  part : Nat
  ctx : Nat
  outcome : Nat
  start : Word
  stop : Word
  dirty : Nat
  cause : Nat
  core : Nat
  deriving DecidableEq, Repr

/-- Bring-up states (R283). -/
inductive Bringup where
  | dark | powerGood | clockLocked | linksTrained | configLoaded | selfTestPassed | ready | fenced
  deriving DecidableEq, Repr

/-- A chiplet in the procession (R351, R352); whether its links train at half lane rate (R354). -/
structure Chiplet where
  state : Bringup
  parent : Option Chip
  origin : Nat
  halfRate : Bool
  deriving DecidableEq, Repr

/-- A start record (R354). -/
structure StartRecord where
  chip : Chip
  state : Nat
  fail : Nat
  action : Nat
  attempts : Nat
  deriving DecidableEq, Repr

/-- A message to the host: replies with the request they answer, whose SEQ, PART and function they carry, and what the module
sends unasked (R308, R329, R339, R342, R345, R354, R363, R364, R365). -/
inductive ToHost where
  | accepted (rq : Request) (op : Nat)
  | done (rq : Request) (op : Nat)
  | refused (rq : Request) (op reason index : Nat)
  | data (rq : Request) (op : Nat) (words : List Nat)
  | journal (rq : Request) (entries : List JournalEntry) (records : List StartRecord)
  | completion (c : Completion)
  /-- a page that a launch waits for: partition, run context and address (R329) -/
  | pageFault (part ctx : Nat) (va : Nat)
  | report (r : Report)
  /-- the reports of KIND 3 of a link, up to 64 at a time (R308) -/
  | retries (link : Nat) (rs : List Report)
  | migrate (part band : Nat)
  | temperature (band milliC : Nat)
  | supplyDrop (bond : Bond) (milliV : Nat)
  | railLow (site block : Nat) (low : Bool)
  /-- the bytes of a second-tier device that lie beyond its port's window (R365) -/
  | unused (port bytes : Nat)
  deriving DecidableEq, Repr

/-- A block's remap, regulators and clock (R350, R357 to R359). `stretched` is the tick at which the sag of its rail
began. -/
structure Block where
  live : List Nat
  failedPhases : Nat
  step : Nat
  cap : Nat
  stretched : Option Word
  deriving DecidableEq, Repr

/-- A thermal band (R363): its clock step, its hottest sensor's last reading, since when that is below the threshold of its
step, and since when it is 105 °C or above. -/
structure Band where
  step : Nat
  milliC : Nat
  cool : Option Word
  hot : Option Word
  deriving DecidableEq, Repr

/-- The binding of a Higrim link at this end (R368): the partition, the tag, and the receive range. -/
structure LinkBinding where
  part : Nat
  tag : Nat
  base : Word
  len : Nat
  deriving DecidableEq, Repr

/-- One direction pair of a Higrim link (R366 to R368). -/
structure Link where
  up : Bool
  bound : Option LinkBinding
  sent : Nat
  acked : Nat
  received : Nat
  /-- flits sent and not acknowledged, the lowest SEQ first; with a data flit, the partition and the virtual line that were
  written (R309) -/
  unacked : List (LinkFlit × Option (Nat × Nat))
  /-- how often in a row the lowest of them has been sent again (R367) -/
  resends : Nat
  /-- what has left on the lanes, oldest first, in the form of R366 -/
  lanes : List Nat
  /-- reports of KIND 3 not yet delivered (R308) -/
  retried : List Report
  deriving DecidableEq, Repr

/-- A routing-table update (R355). -/
structure RoutingUpdate where
  /-- the table set that its signature is over -/
  set : Nat
  loaded : List (Nat × RoutingTable)
  /-- the commit value, once every router has acknowledged, and the sites whose control dies have accepted it -/
  stop : Option Word
  accepted : List Nat
  deriving DecidableEq, Repr

/-- A MOVE in progress (R330): the page, its size, its entry as it stood, and the new frame. -/
structure Move where
  page : Nat
  ps : Nat
  raw : Nat
  at_ : Nat
  frame : Nat
  /-- every slice has written its dirty lines of the page back and dropped its translation -/
  flushed : Bool
  deriving DecidableEq, Repr

/-- A lease-endpoint change that waits until every slice has applied the entries appended for it, and how many each site
had appended then (R333). -/
structure Change where
  asked : Request
  op : Nat
  marks : List (Nat × Nat)
  move : Option Move
  deriving DecidableEq, Repr

/-- The module. -/
structure State where
  /-- the strand whose instruction `exec` runs: core key and strand number -/
  cur : Nat × Nat
  /-- the word `exec`'s instruction was fetched as, for TVAL (R133, R142) -/
  ir : BitVec 32
  agenda : List Event
  turn : Nat
  fresh : Nat
  wafer : Word
  mem : List Host.Cell
  serials : List (Nat × BitVec 32)
  poison : List Nat
  lineKeys : List (Nat × Nat × BitVec 16)
  cores : List (Nat × Core)
  clusters : List (Nat × Cluster)
  slices : List (Nat × Slice)
  reticles : List (Nat × Reticle)
  partitions : List Partition
  runs : List Run
  groups : List Group
  changes : List Change
  saved : List (Nat × Nat × Nat × Core)
  /-- messages in the eject buffers, with the core each was addressed to (R314) -/
  ejected : List (Nat × Event)
  /-- the eject sections of switched-out runs, by partition and context (R318) -/
  ejectSections : List (Nat × Nat × List Event)
  keySlots : Vector KeySlot 64
  nsel : List (Nat × Nat × Bool)
  /-- entries computed anew, which are written once their holder has nothing outstanding to their block (R337) -/
  nselDue : List (Nat × Nat × Bool)
  journal : List JournalEntry
  startRecords : List StartRecord
  reports : List Report
  toHost : List ToHost
  chiplets : List (Chip × Chiplet)
  blocks : List (Nat × Block)
  deadBonds : List Bond
  /-- the last supply drop of a bond group in millivolts, and how many readings in a row were too high (R360) -/
  bondReadings : List (Bond × Nat × Nat)
  /-- the routing tables in force, by router; one without a row has no dead or fenced bond (R355) -/
  routing : List (Nat × RoutingTable)
  update : Option RoutingUpdate
  bands : Vector Band 7
  lowPower : List (Nat × Bool)
  links : Vector Link 24
  firmware : Nat
  nextFirmware : Option Nat
  modulePower : Bool
  deriving DecidableEq, Repr

/-! ### Reset values -/

/-- Nothing to put back. -/
def Undo.empty : Undo := { groups := [], cores := [], cells := [], serials := [], poison := [], lines := [] }

/-- An inactive loop level (R97). -/
def Level.off : Level := { start := 0, stop := 0, count := 0, active := false }

/-- A DORMANT strand with every register at the value R97, R275 and R276 give. -/
def Strand.reset : Strand where
  pc := 0
  life := .dormant
  g := Vector.replicate 32 0
  v := Vector.replicate 32 0
  p := Vector.replicate 8 0
  m := Vector.replicate 16 .empty
  e := Vector.replicate 32 0
  level0 := .off
  level1 := .off
  fctl := 0
  fmta := 0
  fmtb := 0
  scla := 0
  sclb := 0
  lastseq := 0
  status := 0
  tstatus := 0
  tcause := 0
  tpc := 0
  tval := 0
  tattr := 0
  tshadow := 0
  scratch := 0
  tls0 := 0
  tle0 := 0
  tlc0 := 0
  tls1 := 0
  tle1 := 0
  tlc1 := 0
  tcmp := BitVec.allOnes 64
  dbsrc := 0
  xn := false
  acks := 0
  refusals := []
  outst := none
  skip := 0
  stall := none
  popped := []
  rerun := false
  record := none
  scalars := []
  order := none
  again := none
  fetchErr := none
  startAt := 0
  reaping := false

/-- An empty deque with no overflow region (R107, R141). -/
def Deque.reset : Deque :=
  { hw := [], base := 0, slots := 0, first := 0, overN := 0, reserved := 0, leaving := 0, steal := 0, taken := false }

/-- A core that holds no run (R273 to R282, R356). -/
def Core.reset : Core where
  run := none
  retired := false
  stopped := false
  switchedOut := false
  scr := 0
  calends := 0
  ticks := 0
  slots := 0xFEDCBA9876543210
  sloten := 0xFFFF
  pendingSlots := []
  advq := 0x0606060606060606
  advqh := 0x0606060606060606
  qlimit := 4096
  balance := 16
  tvec := 0
  pctx := 0
  hostmsg := []
  queues := Vector.replicate 4 { entries := [], head := 0 }
  rings := []
  almS := 6
  almN := 0
  almBase := 0
  almanac := []
  deque := .reset
  levelAt := 0
  l1 := []
  l1Use := []
  icache := []
  locks := []
  portLocks := []
  nextId := 0
  nodes := []
  nextAge := 0
  copies := []
  bcast := []
  arrivals := []
  strands := Vector.replicate 16 Strand.reset

/-- A free accumulator bank. -/
def Bank.reset : Bank := { data := 0, scales := 0, tag := none }

/-- A cluster with free banks, unbound weight slots and an idle array. -/
def Cluster.reset : Cluster :=
  { banks := Vector.replicate 8 Bank.reset, slots := [], holder := none, steps := 0, requests := [] }

/-- An empty slice. -/
def Slice.reset : Slice := { lines := [], tcache := [], filter := [], waiting := [], walks := [] }

/-- A reticle with empty logs. -/
def Reticle.reset : Reticle := { dirtyLog := [], invLog := [], seq := 0 }

/-- A dark chiplet. -/
def Chiplet.reset : Chiplet := { state := .dark, parent := none, origin := 42, halfRate := false }

/-- A block before its self-test: every physical cluster live (log 5), clock step 0. -/
def Block.reset : Block :=
  { live := List.range 20, failedPhases := 0, step := 0, cap := 0, stretched := none }

/-- An unbound link that is up (log 5). -/
def Link.reset : Link :=
  { up := true, bound := none, sent := 0, acked := 0, received := 0, unacked := [], resends := 0, lanes := [], retried := [] }

/-- The module right after reset: nothing placed, no partition, no run, every unit at its reset value. -/
def State.reset : State where
  cur := (256, 0)
  ir := 0
  agenda := []
  turn := 0
  fresh := 0
  wafer := 0
  mem := []
  serials := []
  poison := []
  lineKeys := []
  cores := []
  clusters := []
  slices := []
  reticles := []
  partitions := []
  runs := []
  groups := []
  changes := []
  saved := []
  ejected := []
  ejectSections := []
  keySlots := Vector.replicate 64 { key := none, gen := 0 }
  nsel := []
  nselDue := []
  journal := []
  startRecords := []
  reports := []
  toHost := []
  chiplets := []
  blocks := []
  deadBonds := []
  bondReadings := []
  routing := []
  update := none
  bands := Vector.replicate 7 { step := 0, milliC := 0, cool := none, hot := none }
  lowPower := []
  links := Vector.replicate 24 Link.reset
  firmware := 0
  nextFirmware := none
  modulePower := false

end Sys2Proof.Machine
end

