-- ==== Sys2Proof/Machine/Memory.lean ====
section
/-! DEFINITION. Keyed lists, and memory: the bytes of every array of the module in one canonical list (R52, R325). -/

namespace Sys2Proof.Machine

/-! ### Keyed lists -/

/-- The value listed for a key, or a default. -/
def lookupD {α : Type} (d : α) (k : Nat) : List (Nat × α) → α
  | [] => d
  | (j, v) :: r => if j = k then v else lookupD d k r

/-- List a value for a key, in place of the one listed before. -/
def assign {α : Type} (k : Nat) (v : α) : List (Nat × α) → List (Nat × α)
  | [] => [(k, v)]
  | (j, w) :: r => if j = k then (k, v) :: r else (j, w) :: assign k v r

/-- Drop a key. -/
def unassign {α : Type} (k : Nat) (l : List (Nat × α)) : List (Nat × α) :=
  l.filter fun e => e.1 != k

/-! ### Memory

A byte's key says which array holds it: first-tier bytes have their physical address (R325), second-tier bytes
2^60 + offset, host bytes 2^70 + bus address, and byte o of the local array of core c has 2^80 + 2^19 c + o. -/

/-- What a byte that nothing has written reads as (log 4). -/
def unwritten : Byte := 0

/-- The byte a memory list holds for a key. -/
def cellRead (k : Nat) : List Host.Cell → Byte
  | [] => unwritten
  | (j, b) :: r => if j = k then b else if k < j then unwritten else cellRead k r

/-- Write a byte, keeping addresses strictly rising and no entry equal to `unwritten`. -/
def cellWrite (k : Nat) (v : Byte) : List Host.Cell → List Host.Cell
  | [] => if v = unwritten then [] else [(k, v)]
  | (j, b) :: r =>
    if k < j then (if v = unwritten then (j, b) :: r else (k, v) :: (j, b) :: r)
    else if j = k then (if v = unwritten then r else (k, v) :: r)
    else (j, b) :: cellWrite k v r

/-- The canonical form of a memory list whose keys are all at least `lo`. -/
def cellsFrom (lo : Nat) : List Host.Cell → Bool
  | [] => true
  | (j, b) :: r => decide (lo ≤ j) && (b != unwritten) && cellsFrom (j + 1) r

/-- The canonical form: addresses strictly rising, no entry equal to what an unlisted address reads as. -/
def Memory.wf (m : List Host.Cell) : Bool := cellsFrom 0 m

/-- Key of byte o of a core's local array. -/
def padKey (core off : Nat) : Nat := 2 ^ 80 + core * 2 ^ 19 + off

/-- Key of a physical address of a tier (R325). -/
def tierKey (tier addr : Nat) : Nat :=
  match tier with
  | 0 => addr % 2 ^ 43
  | 1 => 2 ^ 60 + addr % 2 ^ 45
  | _ => 2 ^ 70 + addr % 2 ^ 56

/-- The byte at a key. -/
def State.byte (s : State) (k : Nat) : Byte := cellRead k s.mem

/-- Write the byte at a key. -/
def State.setByte (s : State) (k : Nat) (v : Byte) : State := { s with mem := cellWrite k v s.mem }

/-- The n bytes from a key. -/
def State.bytes (s : State) (k : Nat) : Nat → List Byte
  | 0 => []
  | n + 1 => s.byte k :: s.bytes (k + 1) n

/-- Write bytes from a key on. -/
def State.setBytes (s : State) (k : Nat) : List Byte → State
  | [] => s
  | b :: r => (s.setByte k b).setBytes (k + 1) r

/-- The number whose little-endian bytes are given (R2). -/
def ofBytes : List Byte → Nat
  | [] => 0
  | b :: r => b.toNat + 256 * ofBytes r

/-- The n little-endian bytes of a number (R2). -/
def toBytes : Nat → Nat → List Byte
  | 0, _ => []
  | n + 1, v => BitVec.ofNat 8 v :: toBytes n (v / 256)

/-- The little-endian datum of n bytes at a key. -/
def State.load (s : State) (k n : Nat) : Nat := ofBytes (s.bytes k n)

/-- Write a little-endian datum of n bytes at a key. -/
def State.store (s : State) (k n v : Nat) : State := s.setBytes k (toBytes n v)

/-- Bits lo .. lo + n - 1 of a number. -/
def slot (lo n w : Nat) : Nat := w / 2 ^ lo % 2 ^ n

/-- The n low bits of v put in place of bits lo .. lo + n - 1 of w. -/
def putSlot (lo n v w : Nat) : Nat := w - slot lo n w * 2 ^ lo + (v % 2 ^ n) * 2 ^ lo

/-- A number whose bits under the mask come from `new` and the others from `old` (R89). -/
def mergeBits (mask new old : Nat) : Nat := (new &&& mask) ||| (old ^^^ (old &&& mask))

/-- Write the bits under a mask of the n bytes at a key. -/
def State.storeMasked (s : State) (k n mask v : Nat) : State := s.store k n (mergeBits mask v (s.load k n))

end Sys2Proof.Machine
end

