-- ==== Sys2Proof/Machine/Ops.lean ====
section
/-! DEFINITION. The named operations over the state that every meaning is made of: access to the units, names, completion
of an instruction with its loop end action, trap entry and return, faults that end a task, queues and messages. -/

namespace Sys2Proof.Machine

/-- What a meaning answers. -/
abbrev Out := Host.Outcome State Fault Refusal

/-! ### Order -/

/-- A list in ascending order of a key, entries of one key in their order. -/
def sortBy {α : Type} (key : α → Nat) (l : List α) : List α :=
  l.foldr (fun x acc => (acc.takeWhile fun y => key y < key x) ++ x :: acc.dropWhile fun y => key y < key x) []

/-! ### Units -/

def State.core (s : State) (c : Nat) : Core := lookupD Core.reset c s.cores
def State.setCore (s : State) (c : Nat) (k : Core) : State := { s with cores := assign c k s.cores }
def State.modCore (s : State) (c : Nat) (f : Core → Core) : State := s.setCore c (f (s.core c))

/-- Strand n of a core; strand numbers are taken modulo 16. -/
def Core.strand (k : Core) (n : Nat) : Strand := k.strands[n % 16]'(Nat.mod_lt _ (by decide))
def Core.setStrand (k : Core) (n : Nat) (t : Strand) : Core :=
  { k with strands := k.strands.set (n % 16) t (Nat.mod_lt _ (by decide)) }

def State.strand (s : State) (c n : Nat) : Strand := (s.core c).strand n
def State.setStrand (s : State) (c n : Nat) (t : Strand) : State := s.setCore c ((s.core c).setStrand n t)
def State.modStrand (s : State) (c n : Nat) (f : Strand → Strand) : State := s.setStrand c n (f (s.strand c n))

def State.cluster (s : State) (k : Nat) : Cluster := lookupD Cluster.reset k s.clusters
def State.setCluster (s : State) (k : Nat) (v : Cluster) : State := { s with clusters := assign k v s.clusters }
def State.modCluster (s : State) (k : Nat) (f : Cluster → Cluster) : State := s.setCluster k (f (s.cluster k))

def State.slice (s : State) (k : Nat) : Slice := lookupD Slice.reset k s.slices
def State.setSlice (s : State) (k : Nat) (v : Slice) : State := { s with slices := assign k v s.slices }
def State.modSlice (s : State) (k : Nat) (f : Slice → Slice) : State := s.setSlice k (f (s.slice k))

def State.reticle (s : State) (k : Nat) : Reticle := lookupD Reticle.reset k s.reticles
def State.setReticle (s : State) (k : Nat) (v : Reticle) : State := { s with reticles := assign k v s.reticles }

/-- Block `4 * site + block`. -/
def State.block (s : State) (k : Nat) : Block := lookupD Block.reset k s.blocks
def State.setBlock (s : State) (k : Nat) (v : Block) : State := { s with blocks := assign k v s.blocks }

/-- Link n of 24. -/
def State.link (s : State) (n : Nat) : Link := s.links[n % 24]'(Nat.mod_lt _ (by decide))
def State.setLink (s : State) (n : Nat) (v : Link) : State :=
  { s with links := s.links.set (n % 24) v (Nat.mod_lt _ (by decide)) }

/-- The issuing core, strand number and strand. -/
def State.cc (s : State) : Nat := s.cur.1
def State.cn (s : State) : Nat := s.cur.2 % 16
def State.me (s : State) : Strand := s.strand s.cur.1 s.cur.2
def State.setMe (s : State) (t : Strand) : State := s.setStrand s.cur.1 s.cur.2 t
def State.modMe (s : State) (f : Strand → Strand) : State := s.setMe (f s.me)

/-- The state of a chiplet's bring-up. -/
def State.bringup (s : State) (chip : Chip) : Bringup := ((s.chiplets.find? fun e => e.1 == chip).map fun e => e.2.state).getD .dark

/-- Put a message or an input in flight. -/
def State.post (s : State) (e : Event) : State := { s with agenda := s.agenda ++ [e] }
def State.posts (s : State) (es : List Event) : State := { s with agenda := s.agenda ++ es }

/-- A message arrives at a core: from its stop point a core takes only answers to its own requests, and from its
switch-out point nothing; what it does not take is ejected into its router's buffer (R313, R314). -/
def State.arrive (s : State) (c : Nat) (answer : Bool) (e : Event) (go : Out) : Out :=
  let k := s.core c
  if k.switchedOut || (k.stopped && !answer) then .next { s with ejected := s.ejected ++ [(c, e)] } else go

/-- The next free choice among `n` candidates (log 2). -/
def State.pick (s : State) (n : Nat) : Nat := if n ≤ 1 then 0 else Config.freePick s.fresh % n
/-- The counter of free choices moves on. -/
def State.picked (s : State) : State := { s with fresh := s.fresh + 1 }

/-! ### Names (R146, R334, R349, R350) -/

def siteOf (core : Nat) : Nat := core / 256
def blockOf (core : Nat) : Nat := core / 64
def clusterOf (core : Nat) : Nat := core / 4

/-- NAMECOUNT of a block (R350). -/
def Block.nameCount (b : Block) : Nat := min 16 b.live.length

/-- The physical cluster of a core's logical cluster (R350). -/
def State.physCluster (s : State) (c : Nat) : Nat := (s.block (blockOf c)).live.getD (c / 4 % 16) (c / 4 % 16)

/-- A partition's record, if it exists. -/
def State.partition? (s : State) (p : Nat) : Option Partition := s.partitions.find? fun q => q.num == p

/-- Columns of a partition's rectangle. -/
def Partition.width (p : Partition) : Nat := p.c1 - p.c0 + 1
def Partition.height (p : Partition) : Nat := p.s1 - p.s0 + 1

/-- The partition-relative number of a site, if the partition holds it (R334). -/
def Partition.rel? (p : Partition) (site : Nat) : Option Nat :=
  let col := site % 6
  let row := site / 6
  if p.c0 ≤ col && col ≤ p.c1 && p.s0 ≤ row && row ≤ p.s1 then some ((row - p.s0) * p.width + (col - p.c0)) else none

/-- The site of a partition-relative number, if it is in the partition (R334). -/
def Partition.site? (p : Partition) (rel : Nat) : Option Nat :=
  if rel < p.width * p.height then some (6 * (p.s0 + rel / p.width) + p.c0 + rel % p.width) else none

/-- The partition number and run context of a core's run (R335). -/
def State.runOf (s : State) (c : Nat) : Option Run :=
  match (s.core c).run with
  | none => none
  | some r => s.runs.find? fun q => q.part == r.1 && q.ctx == r.2

/-- Change one run's record. -/
def State.modRun (s : State) (part ctx : Nat) (f : Run → Run) : State :=
  { s with runs := s.runs.map fun r => if r.part == part && r.ctx == ctx then f r else r }

/-- The partition of a core's run; 0xFFFF (module-owned) when it is in none. -/
def State.partOf (s : State) (c : Nat) : Nat := match (s.core c).run with | some r => r.1 | none => 0xFFFF

/-- The partition-relative reticle of a core (R334). -/
def State.relReticle (s : State) (c : Nat) : Nat :=
  match s.partition? (s.partOf c) with
  | some p => (p.rel? (siteOf c)).getD 0
  | none => 0

/-- A core's packed partition-relative name (R146). -/
def State.nameOf (s : State) (c : Nat) : Nat := s.relReticle c % 64 * 256 + c % 256

/-- The core a packed name names in a partition: the site must be a compute site of the partition and the cluster below
its block's NAMECOUNT (R50, R334, R350). -/
def State.named? (s : State) (part name : Nat) : Option Nat :=
  match s.partition? part with
  | none => none
  | some p =>
    match p.site? (name / 256) with
    | none => none
    | some site =>
      let c := site * 256 + name % 256
      if Config.isCompute site && name / 4 % 16 < (s.block (blockOf c)).nameCount then some c else none

/-- The cores of a run region in partition-relative name order (R329, R335). -/
def State.regionCores (s : State) (r : Run) : List Nat :=
  let blocks := (List.range 256).filter fun b => r.blocks.any fun x => x.1 * 4 + x.2 == b
  blocks.flatMap fun b => (List.range 64).filterMap fun i => s.named? r.part (b * 64 + i)

/-- Whether a core lies in the run region of a run. -/
def State.inRegion (s : State) (r : Run) (c : Nat) : Bool :=
  match s.partition? r.part with
  | none => false
  | some p => match p.rel? (siteOf c) with
    | none => false
    | some q => r.blocks.any fun x => x.1 == q && x.2 == c / 64 % 4

/-! ### Status (R276) -/

/-- The stored fields of STATUS and TSTATUS: HIE, DIE, XIE, TIE, IE, TIN, ADVSTRICT, QMAP, MODE. -/
def statusFields : Word := 0xF19B

/-- The value of STATUS: the loop bits L1A and L0A are the live loop state (R272, R276). -/
def Strand.statusWord (t : Strand) : Word :=
  (t.status &&& statusFields) ||| (if t.level0.active then 0x20 else 0) ||| (if t.level1.active then 0x40 else 0)

def Strand.mode (t : Strand) : Nat := (t.status &&& 3).toNat
def Strand.qmap (t : Strand) : Bool := t.status.getLsbD 3
def Strand.advStrict (t : Strand) : Bool := t.status.getLsbD 4
def Strand.tin (t : Strand) : Bool := t.status.getLsbD 7
def Strand.ie (t : Strand) : Bool := t.status.getLsbD 8

/-- Codes of life states (R279). -/
def Life.code : Life → Nat
  | .dormant => 0
  | .running => 1
  | .waiting => 2
  | .faulted => 3

/-- Codes of trap causes (R299). -/
def causeCode : Cause → Nat
  | .illegal => 0x01
  | .privileged => 0x02
  | .misaligned => 0x03
  | .localRange => 0x04
  | .noSuchCore => 0x05
  | .leaseViolation => 0x06
  | .rangeLocked => 0x07
  | .queueTimeout => 0x08
  | .vigilTimeout => 0x09
  | .adventFull => 0x0A
  | .adventFault => 0x0B
  | .accOwned => 0x0C
  | .scall => 0x0F
  | .brk => 0x10
  | .stewardOnly => 0x11
  | .eccUncorrectable => 0x13
  | .walkRaceExhausted => 0x14
  | .keyRevoked => 0x15

/-! ### Loops and completion (R104 to R106, R288) -/

/-- Where an instruction goes when it completes: on, or to the target of a taken transfer, which cancels the loops its
target leaves when `cancels` (R106). -/
inductive Flow where
  | on
  | to (target : Word) (cancels : Bool)
  deriving DecidableEq, Repr

/-- Whether an address lies in a level's body. -/
def Level.holds (l : Level) (a : Word) : Bool := decide (l.start.toNat ≤ a.toNat) && decide (a.toNat ≤ l.stop.toNat)

/-- The levels after a taken transfer to `a` that cancels (R106). -/
def cancelLevels (l0 l1 : Level) (a : Word) : Level × Level :=
  if l1.active && !l1.holds a then
    ({ l0 with active := false }, { l1 with active := false })
  else if l0.active && !l0.holds a then
    if l1.active then (l1, { l1 with active := false }) else ({ l0 with active := false }, l1)
  else (l0, l1)

/-- The end action of level 0 when no level 1 can follow (R105). -/
def Strand.endInner (t : Strand) (go : Word) : Strand :=
  if 1 < t.level0.count.toNat then
    { t with level0 := { t.level0 with count := t.level0.count - 1 }, pc := t.level0.start }
  else { t with level0 := { t.level0 with count := 0, active := false }, pc := go }

/-- The end action at address `at` (R105): level 0 first and, when it is exhausted there, the level that takes its
place. `go` is the address that follows. -/
def Strand.endAction (t : Strand) (pc go : Word) : Strand :=
  if t.level0.active && t.level0.stop == pc then
    if 1 < t.level0.count.toNat then t.endInner go
    else if t.level1.active then
      let u := { t with level0 := t.level1, level1 := { t.level1 with active := false }, pc := go }
      if u.level0.stop == pc then u.endInner go else u
    else t.endInner go
  else if t.level1.active && t.level1.stop == pc then
    if 1 < t.level1.count.toNat then
      { t with level1 := { t.level1 with count := t.level1.count - 1 }, pc := t.level1.start }
    else { t with level1 := { t.level1 with count := 0, active := false }, pc := go }
  else { t with pc := go }

/-- An instruction at `pc`, with `skip` instructions behind it already retired, completes. -/
def Strand.complete (t : Strand) (pc : Word) (skip : Nat) (f : Flow) : Strand :=
  let t := { t with stall := none, skip := 0, popped := [], rerun := false, record := none, scalars := [], order := none }
  match f with
  | .on => t.endAction pc (pc + BitVec.ofNat 64 (4 * (skip + 1)))
  | .to a true =>
    let l := cancelLevels t.level0 t.level1 a
    { t with pc := a, level0 := l.1, level1 := l.2 }
  | .to a false => { t with pc := a }

/-- The issuing strand's ordinary instruction completes. -/
def State.retire (s : State) (f : Flow) : State := s.modMe fun t => t.complete t.pc t.skip f

/-- Whether an address is the last of an active loop's body (R102). -/
def Strand.atEnd (t : Strand) (pc : Word) : Bool :=
  (t.level0.active && t.level0.stop == pc) || (t.level1.active && t.level1.stop == pc)

/-! ### Reports (R307, R308) -/

/-- A LOCATION field. -/
def location (site chip index unit inst strand : Nat) : Word :=
  BitVec.ofNat 64 (site * 2 ^ 58 + chip * 2 ^ 56 + index * 2 ^ 54 + unit * 2 ^ 48 + inst * 2 ^ 32 + strand)

/-- The location of a unit of a core. -/
def State.coreLocation (s : State) (c unit strand : Nat) : Word :=
  location (siteOf c) 0 (c / 64 % 4) unit (4 * s.physCluster c + c % 4) strand

/-- Journal an entry for a PART under a host SEQ (R339). -/
def State.noteAs (s : State) (seq part : Nat) (w : JournalWhat) : State :=
  { s with journal := s.journal ++ [{ seq, part, what := w }] }

/-- The last host SEQ journaled for a PART (R339). -/
def State.lastSeq (s : State) (part : Nat) : Nat :=
  ((s.journal.filter fun e => e.part == part).getLast?.map JournalEntry.seq).getD 0

/-- Journal an entry that no command of the host makes. -/
def State.note (s : State) (part : Nat) (w : JournalWhat) : State := s.noteAs (s.lastSeq part) part w

/-- Send a message to the host. -/
def State.tell (s : State) (m : ToHost) : State := { s with toHost := s.toHost ++ [m] }

/-- A control die journals a report (R308). -/
def State.journalReport (s : State) (r : Report) : State := { s with reports := s.reports ++ [r] }.note r.part (.report r)

/-- The control die journals a report and delivers it through its telemetry to the owner in PART (R308). -/
def State.report (s : State) (r : Report) : State := (s.journalReport r).tell (.report r)

/-! ### Queues (R113, R114) -/

def Core.queue (k : Core) (q : Nat) : Queue := k.queues[q % 4]'(Nat.mod_lt _ (by decide))
def Core.setQueue (k : Core) (q : Nat) (v : Queue) : Core :=
  { k with queues := k.queues.set (q % 4) v (Nat.mod_lt _ (by decide)) }

/-- Pop the head of a queue. -/
def Core.popQueue (k : Core) (q : Nat) : Core :=
  match (k.queue q).entries with
  | [] => k
  | _ :: r => k.setQueue q { entries := r, head := ((k.queue q).head + 1) % 16 }

/-- Push at the tail of a queue. -/
def Core.pushQueue (k : Core) (q : Nat) (v : Word) : Core :=
  k.setQueue q { k.queue q with entries := (k.queue q).entries ++ [v] }

/-- The places of a queue kept for entries that other strands than n have popped by instructions that are not complete: a late trap
puts them back (R114; log 25). -/
def Core.keptPlaces (k : Core) (q n : Nat) : Nat :=
  ((List.range 16).flatMap fun i =>
    if i = n % 16 then [] else ((k.strand i).popped ++ ((k.strand i).outst.map Outst.pops).getD []).filter fun e => e.1 == q % 4).length

/-- The places of a queue that are taken for strand n: its entries, and those kept for other strands. -/
def Core.queueUse (k : Core) (q n : Nat) : Nat := (k.queue q).entries.length + k.keptPlaces q n

/-- The queue a register field names while QMAP is set. -/
def Strand.port? (t : Strand) (r : Reg) : Option Nat :=
  if t.qmap && 24 ≤ r.toNat && r.toNat < 28 then some (r.toNat - 24) else none

/-! ### A core's part in a group's episode (R116, R117, R180, R183, R253) -/

def CopyPhase.inBarrier : CopyPhase → Bool
  | .barrier _ => true
  | _ => false

/-- The group of a `cpyh` (R253). -/
def Copy.group (k : Copy) (part : Nat) : GroupRef := { part, idx := k.gb.toNat / 256 % 256 }

/-- A `cpyh` waits in a group's barrier episode. -/
def Copy.waitsIn (k : Copy) (g : GroupRef) : Bool := k.kind == .cpyh && k.phase.inBarrier && k.group g.part == g

/-! A core's part in an open episode is held in its `arrivals`, from the first strand or `cpyh` that executes the group's
operation on, whether or not its message has left the core: those that come later join it (R116, R180, R183, R253). -/

def Core.arrival? (k : Core) (idx : Nat) (red : Bool) : Option Arrival :=
  k.arrivals.find? fun a => a.idx == idx && a.reduction == red
def Core.dropArrival (k : Core) (idx : Nat) (red : Bool) : Core :=
  { k with arrivals := k.arrivals.filter fun a => !(a.idx == idx && a.reduction == red) }
def Core.putArrival (k : Core) (a : Arrival) : Core :=
  { k with arrivals := a :: (k.dropArrival a.idx a.reduction).arrivals }

/-- The core's arrival leaves it. -/
def Core.sendArrival (k : Core) (idx : Nat) (red : Bool) : Core :=
  { k with arrivals := k.arrivals.map fun a => if a.idx == idx && a.reduction == red then { a with sent := true } else a }
/-- Its withdrawal from the episode leaves it, or has been answered without effect on the arrival (R117). -/
def Core.setWithdrawn (k : Core) (idx : Nat) (red w : Bool) : Core :=
  { k with arrivals := k.arrivals.map fun a => if a.idx == idx && a.reduction == red then { a with withdrawn := w } else a }

/-- A core's arrival or contribution for an episode has left it. -/
def Core.arrivalSent (k : Core) (idx : Nat) (red : Bool) : Bool := (k.arrival? idx red).any Arrival.sent

/-- A phase of a strand whose joined arrival is no more: it is yet to arrive. -/
def Phase.rejoined (idx : Nat) (red : Bool) : Phase → Phase
  | .barrier g w => .barrier g (w && (red || g.idx != idx))
  | .reduce g d op b w => .reduce g d op b (w && !(red && g.idx == idx))
  | p => p

/-- A core's part in an episode is given up without its strands: those that joined it arrive anew, the next one for the
core, as if it had not been (R116, R183). -/
def State.rejoin (s : State) (c idx : Nat) (red : Bool) : State :=
  let back := if red then [] else (s.core c).copies.filter fun x => x.waitsIn { part := s.partOf c, idx }
  let s := s.modCore c fun k =>
    { k.dropArrival idx red with
      strands := k.strands.map fun t => { t with outst := t.outst.map fun o => { o with phase := o.phase.rejoined idx red } }
      copies := k.copies.map fun x => if back.contains x then { x with phase := .arriving none } else x }
  s.posts (back.map fun x => Event.cpyhArrival c x.id)

/-- An arriver gives up before its message has left the core (R180). -/
def State.forsake (s : State) (c : Nat) (who : Arriver) : State :=
  ((s.core c).arrivals.filter fun a => a.arriver == who && !a.sent).foldl (fun s a => s.rejoin c a.idx a.reduction) s

/-- A core that has waited for its group's limit sends its withdrawal from the episode to the root, once (R117). -/
def State.withdraw (s : State) (r : GroupRef) (c : Nat) (red : Bool) : State :=
  match (s.core c).arrival? r.idx red with
  | some { withdrawn := false, .. } =>
    (s.modCore c fun k => k.setWithdrawn r.idx red true).post (.barrierWithdrawal r c red c)
  | _ => s

/-! ### Traps (R271, R272, R309, R310) -/

/-- A strand s of 1 to 15 that enters FAULTED sets bit s of the steward's DBSRC (R98, R280). -/
def State.doorbell (s : State) (c n : Nat) : State :=
  s.modStrand c 0 fun t => { t with dbsrc := t.dbsrc ||| BitVec.ofNat 16 (2 ^ (n % 16)) }

/-- The first fault of a run, for its completion message (R342). -/
def State.firstFault (s : State) (c n code : Nat) : State :=
  match s.runOf c with
  | none => s
  | some r => s.modRun r.part r.ctx fun r =>
    if r.cause = 0 then { r with cause := code, causeCore := s.nameOf c * 16 + n % 16 } else r

/-- A strand enters FAULTED: the doorbell of strands 1 to 15, the journal entry of a steward (R98, R310). An arrival that it has
not sent is given up (R116, R180). -/
def State.enterFaulted (s : State) (c n code : Nat) : State :=
  let s := (s.forsake c (.strand (n % 16))).modStrand c n fun t => { t with life := .faulted, stall := none }
  let s := s.firstFault c n code
  if n % 16 = 0 then s.note (s.partOf c) (.stewardFaulted ((s.core c).run.elim 0 Prod.snd) (s.nameOf c))
  else s.doorbell c n

/-- The trap registers of step 3 of R272. -/
def Strand.saveTrap (t : Strand) (cause tpc tval tattr : Word) (shadow : Nat) : Strand :=
  { t with tcause := cause, tpc, tval, tattr, tshadow := BitVec.ofNat 4 shadow }

/-- Trap or interrupt entry of a strand whose TIN is 0 (R272). -/
def Strand.enter (t : Strand) (tvec cause tpc tval tattr : Word) (shadow : Nat) : Strand :=
  let u := t.saveTrap cause tpc tval tattr shadow
  let mode : Word := if t.mode = 3 then 3 else 1
  { u with
    tstatus := t.statusWord
    tls0 := t.level0.start, tle0 := t.level0.stop, tlc0 := t.level0.count
    tls1 := t.level1.start, tle1 := t.level1.stop, tlc1 := t.level1.count
    level0 := { t.level0 with active := false }
    level1 := { t.level1 with active := false }
    status := (t.status &&& 0xF010) ||| 0x80 ||| mode
    pc := tvec
    skip := 0
    rerun := false
    record := none
    scalars := []
    order := none
    fetchErr := none
    stall := none }

/-- A trap taken while TIN is 1: the strand enters FAULTED with a report of KIND 7 (R272, R309). -/
def State.machineCheck (s : State) (c n : Nat) (pc : Word) (code first : Nat) : State :=
  let r : Report :=
    { time := (s.core c).calends, location := s.coreLocation c 9 (n % 16), address := pc,
      syndrome := BitVec.ofNat 32 first, cause := code, kind := 7, part := s.partOf c }
  (s.enterFaulted c n code).report r

/-- Take a trap or an interrupt (R272). -/
def State.entry (s : State) (c n : Nat) (cause tpc tval tattr : Word) (shadow : Nat) (at_ : Word) : State :=
  let t := s.strand c n
  if t.tin then s.machineCheck c n at_ (cause.toNat % 256) (t.tcause.toNat % 256)
  else s.setStrand c n (t.enter (s.core c).tvec cause tpc tval tattr shadow)

/-- A fault that ends the task (R310): the trap registers are written, the handler is not entered. -/
def State.endTask (s : State) (c n : Nat) (cause : Cause) (tpc tval : Word) (shadow : Nat) : State :=
  let s := s.modStrand c n fun t => t.saveTrap (BitVec.ofNat 64 (causeCode cause)) tpc tval 0 shadow
  s.enterFaulted c n (causeCode cause)

/-- Put entries back at the heads of their queues: an exact trap leaves the instruction without effect (R114, R166). -/
def Core.unpop (k : Core) : List (Nat × Word) → Core
  | [] => k
  | (q, v) :: r =>
    (k.setQueue q { entries := v :: (k.queue q).entries, head := ((k.queue q).head + 15) % 16 }).unpop r

/-- A strand's instruction gives back what it popped. -/
def State.unpop (s : State) (c n : Nat) : State :=
  match (s.strand c n).popped with
  | [] => s
  | l => (s.modCore c fun k => k.unpop l).modStrand c n fun t => { t with popped := [] }

/-- The fate of a cause raised exactly at an instruction (R299, R309): two causes end the task, the others trap. -/
def State.raise (s : State) (c n : Nat) (cause : Cause) (tpc tval tattr : Word) (shadow : Nat) : State :=
  let s := s.unpop c n
  match cause with
  | .leaseViolation => s.endTask c n cause tpc tval shadow
  | .walkRaceExhausted => s.endTask c n cause tpc tval shadow
  | _ => s.entry c n (BitVec.ofNat 64 (causeCode cause)) tpc tval tattr shadow tpc

/-- The issuing strand's instruction, which has not issued, traps with `TPC` at it and a retired count of `skip`, since
the instructions it skips retired before (R103). -/
def State.trap (s : State) (cause : Cause) (tval : Word) : State :=
  s.raise s.cur.1 s.cur.2 cause s.me.pc tval 0 s.me.skip

/-- The same with an attributed PC (R239, R240). -/
def State.trapAttr (s : State) (cause : Cause) (tval tattr : Word) : State :=
  s.raise s.cur.1 s.cur.2 cause s.me.pc tval tattr s.me.skip

/-- TVAL of an encoding or privilege trap: the instruction word, zero-extended (R133). -/
def State.word (s : State) : Word := s.ir.zeroExtend 64

/-- Return from a trap (R288). -/
def Strand.returned (t : Strand) : Strand :=
  let m : Word := if (t.tstatus &&& 3).toNat > t.mode then t.status &&& 3 else t.tstatus &&& 3
  { t with
    status := (t.tstatus &&& 0xF198) ||| m
    level0 := { start := t.tls0, stop := t.tle0, count := t.tlc0, active := t.tstatus.getLsbD 5 }
    level1 := { start := t.tls1, stop := t.tle1, count := t.tlc1, active := t.tstatus.getLsbD 6 }
    skip := t.tshadow.toNat
    pc := t.tpc
    stall := none }

/-- A general register's own value; g0 reads zero (R97). -/
def Strand.greg (t : Strand) (r : Reg) : Word := if r = 0 then 0 else t.g[r.toFin]

/-! ### Long-latency instructions (R102, R103) -/

/-- The issuing strand's instruction becomes outstanding. Its shadow budget is la less what a return already skips
(log 10), and 0 at the end of an active loop's body (R102). It keeps what it read of registers that a copy may still write. -/
def State.hold (s : State) (la : La) (p : Phase) : State :=
  let k := s.core s.cur.1
  let ticks := k.ticks
  s.modMe fun t =>
    let read := (k.copies.filter fun x => x.strand == s.cn && !x.busy).map fun x => (x.reg, t.greg x.reg)
    { t with
      outst := some { word := s.ir, pc := t.pc, la := if t.atEnd t.pc then 0 else la.toNat, retired := t.skip,
                      since := ticks, err := none, pops := t.popped, cleaning := none, record := t.record,
                      scalars := if t.rerun then t.scalars else read, order := t.order.getD ticks, phase := p }
      popped := []
      rerun := false
      record := none
      scalars := []
      order := none
      pc := t.pc + BitVec.ofNat 64 (4 * (t.skip + 1))
      skip := 0
      stall := none }

/-- Change the phase of a strand's outstanding instruction. -/
def State.setPhase (s : State) (c n : Nat) (p : Phase) : State :=
  s.modStrand c n fun t => match t.outst with
    | none => t
    | some o => { t with outst := some { o with phase := p } }

/-- A trap for an outstanding instruction is due at the strand's next slot; the first one met stands (R300). -/
def State.setErr (s : State) (c n : Nat) (cause : Cause) (tval : Word) : State :=
  s.modStrand c n fun t => match t.outst with
    | none => t
    | some o => if o.err.isSome then t else { t with outst := some { o with err := some (cause, tval) } }

/-- An outstanding instruction completes. -/
def State.finish (s : State) (c n : Nat) (f : Flow) : State :=
  s.modStrand c n fun t => match t.outst with
    | none => t
    | some o => { t with outst := none }.complete o.pc o.retired f

/-- An outstanding instruction traps, exactly at itself, with its retired shadow counted (R103). -/
def State.finishTrap (s : State) (c n : Nat) (cause : Cause) (tval tattr : Word) : State :=
  match (s.strand c n).outst with
  | none => s
  | some o => (s.modStrand c n fun t => { t with outst := none, popped := o.pops }).raise c n cause o.pc tval tattr o.retired

/-- Whether two reasons to wait are one wait: any blocked queue port counts from the first attempt (R114). -/
def StallWhy.same : StallWhy → StallWhy → Bool
  | .queue _ _, .queue _ _ => true
  | a, b => a == b

/-- The issuing strand cannot issue: its slot stays empty and the wait is counted from its first attempt
(R100, R114, R248). -/
def State.wait (s : State) (why : StallWhy) : State :=
  let ticks := (s.core s.cur.1).ticks
  s.modMe fun t => match t.stall with
    | some w => { t with stall := some { pc := t.pc, since := if w.pc == t.pc && w.why.same why then w.since else ticks, why } }
    | none => { t with stall := some { pc := t.pc, since := ticks, why } }

/-- The wait limit QLIMIT: values below 64 act as 64 (R275). -/
def Core.limit (k : Core) : Nat := max 64 k.qlimit.toNat

/-! ### Registers -/

/-- Write a general register; g0 discards. -/
def Strand.setGreg (t : Strand) (r : Reg) (v : Word) : Strand :=
  if r = 0 then t else { t with g := t.g.set r.toFin v }

/-- The value of a source field: a queue's head under QMAP, else the register (R113, R143). -/
def State.readG (s : State) (c n : Nat) (r : Reg) : Word :=
  match (s.strand c n).port? r with
  | some q => ((s.core c).queue q).entries.headD 0
  | none => (s.strand c n).greg r

/-- Write a destination field: a push under QMAP, else the register. -/
def State.writeG (s : State) (c n : Nat) (r : Reg) (v : Word) : State :=
  match (s.strand c n).port? r with
  | some q => s.modCore c fun k => k.pushQueue q v
  | none => s.modStrand c n fun t => t.setGreg r v

/-- A predicate; p0 reads all ones (R97). -/
def Strand.preg (t : Strand) (p : Pred) : Word := if p = 0 then BitVec.allOnes 64 else t.p[p.toFin]
def Strand.setPreg (t : Strand) (p : Pred) (v : Word) : Strand :=
  if p = 0 then t else { t with p := t.p.set p.toFin v }

def Strand.vreg (t : Strand) (r : Reg) : VReg := t.v[r.toFin]
def Strand.setVreg (t : Strand) (r : Reg) (v : VReg) : Strand := { t with v := t.v.set r.toFin v }
def Strand.ereg (t : Strand) (r : Reg) : Word := t.e[r.toFin]
def Strand.setEreg (t : Strand) (r : Reg) (v : Word) : Strand := { t with e := t.e.set r.toFin v }
def Strand.handle (t : Strand) (m : Tile) : Handle := t.m[m.toFin]
def Strand.setHandle (t : Strand) (m : Tile) (h : Handle) : Strand := { t with m := t.m.set m.toFin h }

end Sys2Proof.Machine
end

