-- ==== Sys2Proof/Machine/Access.lean ====
section
/-! DEFINITION. Address checks (R49 to R51), range locks (R69, R70), homes (R64 to R66, R74 to R77), translation
(R322 to R328), and the first-level cache (R54, R55). -/

namespace Sys2Proof.Machine

/-! ### Address checks (R49 to R51) -/

/-- The right an access needs of its page (R329). -/
inductive Right where | read | write | exec
  deriving DecidableEq, Repr

/-- Where a checked access goes: an offset of the issuing core's scratchpad, of another core's, a virtual address, or
a physical byte (space 0x3, log 9). -/
inductive Target where
  | own (off : Nat)
  | pad (core off : Nat)
  | virt (va : Nat)
  | phys (key : Nat)
  deriving DecidableEq, Repr

def rangeGrants (r : LeaseRange) : Right → Bool
  | .read => r.read
  | .write => r.write
  | .exec => r.exec

/-- Whether some range of the lease covers the 4 KiB page of a virtual address with a right (R329: ranges are whole
pages, and rights are united at each byte). -/
def pageLeased (lease : List LeaseRange) (va : Nat) (w : Right) : Bool :=
  lease.any fun r => rangeGrants r w && r.base ≤ va / 4096 * 4096 && va / 4096 * 4096 < r.base + r.len

/-- The first byte of [va, va + n) outside the lease, if any. -/
def firstUnleased (lease : List LeaseRange) (va n : Nat) (w : Right) : Option Nat :=
  let pages := if n = 0 then 0 else (va + n - 1) / 4096 - va / 4096 + 1
  ((List.range pages).find? fun i => !pageLeased lease ((va / 4096 + i) * 4096) w).map fun i =>
    max va ((va / 4096 + i) * 4096)

/-- A ring of a core, if configured. -/
def Core.ring? (k : Core) (r : Nat) : Option Ring := (k.rings.find? fun e => e.1 == r).map Prod.snd

/-- The offset a ring-relative address reaches with the present pointers (R61). -/
def Ring.reach (r : Ring) (drain : Bool) (k off : Nat) : Nat :=
  r.cfg.base + ((if drain then r.drain else r.fill) + k) % r.cfg.days * r.cfg.daySize + off

/-- Bits [hi:lo] of an address. -/
def field (hi lo : Nat) (a : Word) : Nat := a.toNat / 2 ^ lo % 2 ^ (hi + 1 - lo)

/-- Checks 1 to 6 of R50 on an access of n bytes by a strand of core c in `mode`, and the place it reaches. -/
def State.target (s : State) (c mode : Nat) (a : Word) (n : Nat) (w : Right) : Except (Cause × Word) Target :=
  let k := s.core c
  let sel := field 63 60 a
  let off := field 18 0 a
  if 4 ≤ sel && sel < 8 then .error (.localRange, a)
  else if sel = 3 && mode ≠ 3 then .error (.privileged, a)
  else if (sel = 0 && field 59 19 a ≠ 0) || (sel = 1 && field 53 19 a ≠ 0) || (sel = 2 && field 45 19 a ≠ 0)
      || (sel = 3 && field 59 43 a ≠ 0) || (8 ≤ sel && field 62 57 a ≠ 0) then .error (.localRange, a)
  else if a.toNat % n ≠ 0 then .error (.misaligned, a)
  else if sel = 0 then (if k.scr ≤ off then .error (.localRange, a) else .ok (.own off))
  else if sel = 1 then
    match k.ring? (field 59 58 a) with
    | none => .error (.localRange, a)
    | some r =>
      if r.cfg.days ≤ field 56 54 a || r.cfg.daySize ≤ off then .error (.localRange, a)
      else .ok (.own (r.reach (field 57 57 a == 1) (field 56 54 a) off))
  else if sel = 2 then
    match s.runOf c with
    | none => .error (.noSuchCore, a)
    | some r =>
      match s.named? r.part (field 59 46 a) with
      | none => .error (.noSuchCore, a)
      | some t =>
        if !s.inRegion r t then .error (.noSuchCore, a)
        else if k.scr ≤ off then .error (.localRange, a)
        else if t = c then .ok (.own off) else .ok (.pad t off)
  else if sel = 3 then
    if 48 * 2 ^ 30 ≤ field 35 0 a then .error (.localRange, a) else .ok (.phys (tierKey 0 a.toNat))
  else
    match s.runOf c with
    | none => .error (.leaseViolation, a)
    | some r =>
      if pageLeased r.lease (field 56 0 a) w then .ok (.virt (field 56 0 a)) else .error (.leaseViolation, a)

/-! ### Range locks (R69, R70) -/

/-- Whether [lo, lo + n) meets [base, base + len). -/
def overlaps (base len lo n : Nat) : Bool := lo < base + len && base < lo + n

/-- Whether [lo, lo + n) meets one of the rows. -/
def rowsMeet (r : Rows) (lo n : Nat) : Bool :=
  (List.range r.count).any fun i => overlaps (r.base + i * r.stride) r.len lo n

/-- Whether [lo, lo + n) lies wholly inside the rows, byte by byte. -/
def rowsHold (r : Rows) (lo n : Nat) : Bool := (List.range n).all fun i => rowsMeet r (lo + i) 1

/-- Whether an access conflicts with an entry: a write over a view or a copy source, any access over a copy
destination (R70). A split entry is a copy destination for the strands of its own core; for others its interior is a
copy source (R69). -/
def lockConflict (e : LockEntry) (sameCore write : Bool) (lo n : Nat) : Bool :=
  match e.kind with
  | .view => write && overlaps e.base e.len lo n
  | .copySource => write && overlaps e.base e.len lo n
  | .copyDest => overlaps e.base e.len lo n
  | .strip => write && rowsMeet e.rows lo n
  | .split => overlaps e.base e.len lo n && (sameCore || write || !rowsHold e.rows lo n)

/-- What check 7 of R50 finds at the issuing core (R70): nothing, a refusal, the strand's own copy, or the locks of
its own views, whose nodes a store forces first. -/
inductive Verdict where
  | clear
  | locked
  | stall
  | views (locks : List Nat)
  deriving DecidableEq, Repr

/-- The locks of the views a store retires. -/
def Verdict.locks : Verdict → List Nat
  | .views l => l
  | _ => []

/-- The place a target's bytes lie in, as locks record it. -/
def State.placeOf (s : State) (c : Nat) : Target → Option (Place × Nat)
  | .own off => some (.pad c, off)
  | .pad t off => some (.pad t, off)
  | .virt va => some (.virt (s.partOf c), va)
  | .phys _ => none

/-- Check 7 at the issuing core, for strand n of core c (R70). -/
def State.verdict (s : State) (c n : Nat) (t : Target) (write : Bool) (len : Nat) : Verdict :=
  match s.placeOf c t with
  | none => .clear
  | some (place, lo) =>
    let k := s.core c
    let mine := k.locks.filter fun e => e.place == place && lockConflict e true write lo len
    let theirs := match t with
      | .own _ => k.portLocks.any fun e => lockConflict e false write lo len
      | _ => false
    if theirs || mine.any fun e => e.strand != n % 16 then .locked
    else if mine.any fun e => e.kind != .view then .stall
    else if mine.isEmpty then .clear
    else .views (mine.map LockEntry.id)

/-- Whether a home refuses an access of core rc: entries of rc itself were checked at issue (R70). -/
def State.padRefuses (s : State) (c rc : Nat) (write : Bool) (lo len : Nat) : Bool :=
  let k := s.core c
  (k.locks.any fun e => e.core != rc && e.place == .pad c && lockConflict e (e.core == rc) write lo len)
    || (k.portLocks.any fun e => e.core != rc && lockConflict e false write lo len)

/-- The same at a slice's lock filter. -/
def Slice.refuses (k : Slice) (part rc : Nat) (write : Bool) (lo len : Nat) : Bool :=
  k.filter.any fun e => e.core != rc && e.place == .virt part && lockConflict e false write lo len

/-! ### Serials and poison (R87, R168, R338) -/

/-- The serial of a line, whose key is its byte key / 128: it travels with the line, so that every name of the line has the
same serial (R87). A scratchpad serial is 0 from the launch's clearing on; the first serial of a line of memory is free
(log 8). The line is listed from then on. -/
def State.serial (s : State) (key : Nat) : BitVec 32 × State :=
  match s.serials.find? fun e => e.1 == key with
  | some e => (e.2, s)
  | none =>
    if 2 ^ 73 ≤ key then (0, s)
    else
      let v := Config.lineSerial s.fresh
      (v, { s.picked with serials := (key, v) :: s.serials })

/-- A write performed on a line: its serial rises by one (R87). -/
def State.bump (s : State) (key : Nat) : BitVec 32 × State :=
  let r := s.serial key
  (r.1 + 1, { r.2 with serials := assign key (r.1 + 1) r.2.serials })

/-- Why a line of memory reads as poison, if it does: an ECC error, or a key slot that is empty or of another
generation (R168, R338). `key` is its byte key / 128. A line with no recorded key was never written back. -/
def State.poisoned? (s : State) (key : Nat) : Option Cause :=
  if s.poison.contains key then some .eccUncorrectable
  else match s.lineKeys.find? fun e => e.1 == key with
    | none => none
    | some (_, slot, gen) =>
      let k := s.keySlots[slot % 64]'(Nat.mod_lt _ (by decide))
      if k.key.isNone || k.gen != gen then some .keyRevoked else none

/-- Why a slice's copy of a line reads as poison, if it does. Dirty bytes are not yet under any key: they will be under
the write slot (R338). -/
def State.linePoison (s : State) (l : SliceLine) : Option Cause :=
  if s.poison.contains (l.phys / 128) then some .eccUncorrectable
  else if l.dirty ≠ 0 then none else s.poisoned? (l.phys / 128)

/-- The control dies as the party that asks for a line (no core has this key). -/
def dieAgent : Nat := 2 ^ 21

/-- The `CALENDS` value at which an access of a party is in a report: a core's own, or the control dies' (R307). -/
def State.clockOf (s : State) (c : Nat) : Word := if c = dieAgent then s.wafer else (s.core c).calends

/-- The report of an access that met poison (R168, R307). -/
def State.poisonReport (s : State) (time loc addr : Word) (part key : Nat) (why : Cause) : State :=
  let rec_ := match s.lineKeys.find? fun e => e.1 == key with
    | some (_, slot, gen) => gen.toNat * 2 ^ 16 + slot
    | none => 0
  s.report { time, location := loc, address := addr,
             syndrome := if why = .keyRevoked then BitVec.ofNat 32 rec_ else Config.eccSyndrome key,
             cause := causeCode why, kind := if why = .keyRevoked then 6 else 2, part }

/-! ### Homes of virtual lines and translation (R65, R322 to R328) -/

/-- Reversal of 16 bits. -/
def brev16 (x : Nat) : Nat := (List.range 16).foldl (fun a i => a + x / 2 ^ i % 2 * 2 ^ (15 - i)) 0

/-- The slice index of a line among N slices (R323). -/
def homeIndex (line n : Nat) : Nat :=
  let x := (line % 2 ^ 16) ^^^ (line / 2 ^ 16 % 2 ^ 16) ^^^ (line / 2 ^ 32 % 2 ^ 16) ^^^ (line / 2 ^ 48 % 4)
  brev16 x * n / 2 ^ 16

/-- The home slice of a line of a partition. -/
def State.homeSlice (s : State) (part line : Nat) : Nat :=
  match s.partition? part with
  | none => 0
  | some p => p.slices.getD (homeIndex line p.slices.length) 0

/-- A page-table entry as read (R325). -/
structure Pte where
  raw : Nat
  at_ : Nat
  deriving DecidableEq, Repr

def Pte.v (e : Pte) : Bool := e.raw % 2 == 1
def Pte.pin (e : Pte) : Bool := e.raw / 2 % 2 == 1
def Pte.leaf (e : Pte) : Bool := e.raw / 4 % 2 == 1
def Pte.w (e : Pte) : Bool := e.raw / 8 % 2 == 1
def Pte.x (e : Pte) : Bool := e.raw / 16 % 2 == 1
def Pte.d (e : Pte) : Bool := e.raw / 32 % 2 == 1
def Pte.ps (e : Pte) : Nat := e.raw / 64 % 16
def Pte.tier (e : Pte) : Nat := e.raw / 1024 % 4
def Pte.frame (e : Pte) : Nat := e.raw / 4096 % 2 ^ 44

/-- Whether an entry counts as valid at a level: V = 1 and the table of R326 kept. -/
def Pte.good (e : Pte) (level : Nat) : Bool :=
  e.v && e.raw / 2 ^ 56 == 0 && e.tier != 3 &&
    (if level = 0 then e.leaf && e.ps ≤ 8
     else if level = 1 then (!e.leaf || 9 ≤ e.ps)
     else !e.leaf)

/-- Whether a leaf maps a hole of second-tier memory: offsets that no device fills (R365). -/
def Pte.hole (e : Pte) : Bool :=
  let size := 2 ^ (12 + e.ps)
  let a := e.frame * 4096 / size * size % 2 ^ 45
  e.leaf && e.tier == 1 && min (2 ^ 40) (Config.secondTierCapacity (a / 2 ^ 40)) < a % 2 ^ 40 + size

/-- The entry a table page holds for an address at a level (R324). -/
def State.pte (s : State) (table level va : Nat) : Pte :=
  let a := table + 8 * (va / 2 ^ (12 + 9 * level) % 512)
  { raw := s.load (tierKey 0 a) 8, at_ := a }

/-- A walk from a table at `level` down, with one unit of fuel per level: the leaf with its level, or the level at
which an entry is not valid. -/
def State.walkFrom (s : State) (va : Nat) : Nat → Nat → Nat → Except (Nat × Pte) (Nat × Pte)
  | 0, level, table => .error (level, s.pte table level va)
  | fuel + 1, level, table =>
    let e := s.pte table level va
    if !e.good level then .error (level, e)
    else if e.leaf then .ok (level, e)
    else s.walkFrom va fuel (level - 1) (e.frame * 4096)

/-- The leaf that maps a virtual address of a partition (R324). -/
def State.leafOf (s : State) (part va : Nat) : Option Pte :=
  match s.partition? part with
  | none => none
  | some p => match s.walkFrom va 5 4 p.ptroot with
    | .ok (_, e) => some e
    | .error _ => none

/-- The cached translation of a leaf (R327). -/
def Pte.cached (e : Pte) (va : Nat) : TEntry :=
  { va := va / 2 ^ (12 + e.ps) * 2 ^ (12 + e.ps), ps := e.ps, tier := e.tier, frame := e.frame, d := e.d }

/-- Whether a cached translation covers an address. -/
def TEntry.covers (e : TEntry) (va : Nat) : Bool := va / 2 ^ (12 + e.ps) * 2 ^ (12 + e.ps) == e.va

/-- The byte key an address has under a translation: frame bits below the page size are ignored (R325). -/
def TEntry.key (e : TEntry) (va : Nat) : Nat :=
  tierKey e.tier (e.frame * 4096 / 2 ^ (12 + e.ps) * 2 ^ (12 + e.ps) + va % 2 ^ (12 + e.ps))

/-- A slice's translation of an address, if cached. -/
def Slice.tlb? (k : Slice) (va : Nat) : Option TEntry := k.tcache.find? fun e => e.covers va

/-- Cache a translation: the newest first, at most 4,096, so that the least recently used one leaves (R327). -/
def Slice.cache (k : Slice) (e : TEntry) : Slice :=
  { k with tcache := (e :: k.tcache.filter fun x => !(x.va == e.va && x.ps == e.ps)).take 4096 }

/-! ### Slices (R66) -/

def Slice.line? (k : Slice) (part line : Nat) : Option SliceLine :=
  k.lines.find? fun l => l.part == part && l.line == line

def Slice.dropLine (k : Slice) (part line : Nat) : Slice :=
  { k with lines := k.lines.filter fun l => !(l.part == part && l.line == line) }

def Slice.putLine (k : Slice) (l : SliceLine) : Slice :=
  { k with lines := l :: (k.dropLine l.part l.line).lines }

/-- The bytes of a line under a mask written to memory, byte i at `key` + i. -/
def State.setMasked (s : State) (key : Nat) (data : Line) (mask : LineMask) : State :=
  (List.range 128).foldl
    (fun s i => if mask.getLsbD i then s.setByte (key + i) (data.extractLsb' (8 * i) 8) else s) s

/-- The key of a byte of a link's 64 MiB aperture in BAR2, link n's being the n-th (R364, R368, log 20). -/
def apertureKey (n off : Nat) : Nat := tierKey 2 (Config.bar2 % 2 ^ 24 * 2 ^ 32 + n % 24 * 2 ^ 26 + off % 2 ^ 26)

/-- The link, and the offset in its aperture, that a key names. -/
def aperture? (k : Nat) : Option (Nat × Nat) :=
  if k < 2 ^ 70 then none
  else
    let o := k - 2 ^ 70
    if o / 2 ^ 32 = Config.bar2 % 2 ^ 24 && o % 2 ^ 32 / 2 ^ 26 < 24 then some (o % 2 ^ 32 / 2 ^ 26, o % 2 ^ 26) else none

/-- The service reticle of a link: six to each (log 20). -/
def linkSite (n : Nat) : Nat := Config.serviceSites.getD (n % 24 / 6) 0

/-- A service reticle's functions are usable: it is READY (R351). -/
def State.serviceReady (s : State) (site : Nat) : Bool := s.bringup { site, chip := 3, index := 0 } == .ready

/-- The 208 bytes of a flit: header, payload, and the CRC-64 over both (R366). -/
def linkWire (f : LinkFlit) : Nat :=
  let body := f.type % 2 ^ 8 + f.vc % 2 * 2 ^ 8 + f.seq % 2 ^ 12 * 2 ^ 16 + f.ack % 2 ^ 12 * 2 ^ 32 + f.linkId % 2 ^ 16 * 2 ^ 48
    + f.payload % 2 ^ 1536 * 2 ^ 64
  body + (Config.linkCrc body).toNat * 2 ^ 1600

/-- A flit of this end, with what it acknowledges and the binding's tag. Every message over a link is a posted write, so that
VC names requests (R366, R368). -/
def Link.flit (l : Link) (type seq payload : Nat) : LinkFlit :=
  { type, vc := 0, seq, ack := l.received, linkId := (l.bound.map LinkBinding.tag).getD 0, payload, crcGood := true }

/-- A data or calends flit takes the next SEQ, leaves on the lanes, and stands until it is acknowledged (R366, R367). -/
def Link.send (l : Link) (type payload : Nat) (wrote : Option (Nat × Nat)) : Link :=
  let f := l.flit type ((l.sent + 1) % 4096) payload
  { l with sent := f.seq, unacked := l.unacked ++ [(f, wrote)], lanes := l.lanes ++ [linkWire f] }

/-- An acknowledgement-only flit leaves: it uses no SEQ (R366, R367; log 20). -/
def Link.acknowledges (l : Link) : Link := { l with lanes := l.lanes ++ [linkWire (l.flit 3 l.sent 0)] }

/-- Every flit from the lowest unacknowledged SEQ on leaves again (R367). -/
def Link.resend (l : Link) : Link :=
  { l with resends := l.resends + 1, lanes := l.lanes ++ l.unacked.map fun x => linkWire { x.1 with ack := l.received } }

/-- A posted write over a link: one data flit with the binding's tag, if the link is up and bound to the partition that writes
and its service reticle is READY (R351, R366, R368); else the write reaches nothing (log 20). `line` is the virtual line that
was written. -/
def State.sendData (s : State) (n part line payload : Nat) : State :=
  let l := s.link n
  if l.up && s.serviceReady (linkSite n) && l.bound.any fun b => b.part == part then s.setLink n (l.send 1 payload (some (part, line)))
  else s

/-- A slice writes a line's dirty bytes. A write to a link's aperture is sent over the link (R368). Others reach memory,
encrypted under the partition's write slot, which the line then records; host memory is not encrypted (R338). -/
def State.writeLine (s : State) (l : SliceLine) : State :=
  if l.dirty = 0 then s
  else match aperture? l.phys with
  | some (n, off) => s.sendData n l.part l.line (Config.linkPayload off l.data l.dirty)
  | none =>
    let s := s.setMasked l.phys l.data l.dirty
    match s.partition? l.part with
    | none => s
    | some p =>
      if 2 ^ 70 ≤ l.phys then s
      else
        let key := l.phys / 128
        let rest := s.lineKeys.filter fun e => e.1 != key
        match p.writeSlot with
        | none => { s with lineKeys := rest }
        | some w => { s with lineKeys := (key, w, (s.keySlots[w % 64]'(Nat.mod_lt _ (by decide))).gen) :: rest }

/-- The 128 bytes of memory from a key. -/
def State.memLine (s : State) (key : Nat) : Line := BitVec.ofNat 1024 (s.load key 128)

/-- The set of a line within its slice; R66 does not give the index (log 11). -/
def sliceSet (line : Nat) : Nat := line % 2048

/-- Install a line, evicting one of a full set; the victim is a free choice (log 11). -/
def State.installLine (s : State) (k part line : Nat) (e : TEntry) : State :=
  let phys := e.key (line * 128)
  let sl := s.slice k
  let same := sl.lines.filter fun l => sliceSet l.line == sliceSet line
  let full := 16 ≤ same.length
  let victim := if full then same[s.pick same.length]? else none
  let s := match victim with
    | none => s
    | some v => ((s.writeLine v).modSlice k fun sl => sl.dropLine v.part v.line).picked
  s.modSlice k fun sl => sl.putLine { part, line, phys, ps := e.ps, d := e.d, data := s.memLine phys, dirty := 0 }

/-- The translation of an address for a slice, at once: cached, or the leaf as the table holds it, unless it maps a hole
(R365). -/
def State.translateNow (s : State) (k part va : Nat) : Option TEntry :=
  ((s.slice k).tlb? va).or (((s.leafOf part va).filter fun p => !p.hole).map fun p => p.cached va)

/-- A line at its home slice: an engine has it at hand (`State.lineAtHand`); for the write-backs of a reset it is made
present at once (log 11). -/
def State.ensureLine (s : State) (part line : Nat) : Except Cause (SliceLine × State) :=
  let k := s.homeSlice part line
  match (s.slice k).line? part line with
  | some l => .ok (l, s)
  | none => match s.translateNow k part (line * 128) with
    | none => .error .walkRaceExhausted
    | some e =>
      let s := (s.modSlice k fun sl => sl.cache e).installLine k part line e
      match (s.slice k).line? part line with
      | some l => .ok (l, s)
      | none => .error .walkRaceExhausted

/-- The slice line that holds a physical line, if any. -/
def State.heldAt (s : State) (phys : Nat) : Option (Nat × SliceLine) :=
  s.slices.findSome? fun e => (e.2.lines.find? fun l => l.phys == phys / 128 * 128).map fun l => (e.1, l)

/-- A slice-direct read of n bytes of one line (log 9): the slice's copy where it holds one. -/
def State.physLoad (s : State) (key n : Nat) : Nat :=
  match s.heldAt key with
  | some (_, l) => l.data.toNat / 2 ^ (8 * (key % 128)) % 2 ^ (8 * n)
  | none => s.load key n

/-- All copies of a leaf (R326): the addresses of its consecutive entries. -/
def Pte.copies (e : Pte) : List Nat :=
  let n := if 9 ≤ e.ps then 2 ^ (e.ps - 9) else 2 ^ e.ps
  (List.range n).map fun i => e.at_ / (8 * n) * (8 * n) + 8 * i

/-- Write every copy of a leaf. -/
def State.writeLeaf (s : State) (e : Pte) (v : Nat) : State :=
  e.copies.foldl (fun s a => s.store (tierKey 0 a) 8 v) s

/-- A move of a page keeps the entry as it stood: whether it covers an address of a partition without D (R330). -/
def Change.undirtied (x : Change) (part va : Nat) : Bool :=
  x.asked.part == part && x.move.any fun m => va / 2 ^ (12 + m.ps) * 2 ^ (12 + m.ps) == m.page && m.raw / 32 % 2 == 0

/-- Merge one dirty-log entry: set D in the leaf of its page, or in the entry that a move will write (R330, R332). The count
of pages whose D bit it set. -/
def State.mergeEntry (s : State) (part : Nat) (w : Word) : Nat × State :=
  let va := field 44 0 w * 4096
  match s.leafOf part va with
  | none =>
    if s.changes.any fun x => x.undirtied part va then
      (1, { s with changes := s.changes.map fun x =>
        if x.undirtied part va then { x with move := x.move.map fun m => { m with raw := m.raw + 32 } } else x })
    else (0, s)
  | some e => if e.d then (0, s) else (1, s.writeLeaf e (e.raw + 32))

/-- The partition that holds a site. -/
def State.partAt (s : State) (site : Nat) : Option Partition := s.partitions.find? fun p => (p.rel? site).isSome

/-- The owner of a physical line: the partition of its site, for first-tier memory and local arrays (R307). -/
def State.lineOwner (s : State) (key : Nat) : Nat :=
  let site? := if key < 2 ^ 43 / 128 then some (key * 128 / 2 ^ 37) else if key < 2 ^ 80 / 128 then none
    else some (siteOf ((key * 128 - 2 ^ 80) / 2 ^ 19))
  ((site?.bind s.partAt).map Partition.num).getD 0xFFFF

/-- The LOCATION and ADDRESS of a physical line: a core's local array and an offset, or DRAM and a physical address; memory
of the other tiers belongs to a second-tier port (R307, R349, R365). -/
def State.lineLocation (s : State) (key : Nat) : Word × Word :=
  let a := key * 128
  if a < 2 ^ 43 then (location (a / 2 ^ 37) 1 (a / 2 ^ 36 % 2) 6 0 0, BitVec.ofNat 64 a)
  else if a < 2 ^ 80 then
    let port := a % 2 ^ 60 / 2 ^ 40 % 32
    (location (Config.serviceSites.getD (port / 8) 0) 3 0 14 port 0, BitVec.ofNat 64 (a % 2 ^ 60))
  else (s.coreLocation ((a - 2 ^ 80) / 2 ^ 19) 0 0, BitVec.ofNat 64 (a % 2 ^ 19))

/-- The report of poison that core c met in space 0x3: at the slice that holds the line, or in the line itself (R307). -/
def State.physReport (s : State) (c key : Nat) (why : Cause) : State :=
  let loc := match s.heldAt key with
    | some (k, _) => location (k / 32) 1 (k / 16 % 2) 3 (k % 16) 0
    | none => (s.lineLocation (key / 128)).1
  s.poisonReport (s.clockOf c) loc (s.lineLocation (key / 128)).2 (s.lineOwner (key / 128)) (key / 128) why

/-- Merge and empty a reticle's dirty log; the number of pages whose D bit it set (R332). -/
def State.mergeLog (s : State) (site : Nat) : Nat × State :=
  match s.partAt site with
  | none => (0, s)
  | some p =>
    let r := s.reticle site
    let out := r.dirtyLog.foldl (fun a w => let m := a.2.mergeEntry p.num w; (a.1 + m.1, m.2)) (0, s)
    (out.1, out.2.setReticle site { r with dirtyLog := [] })

/-- A slice is about to write a line it holds: if its cached translation shows D = 0 it logs the page and sets its copy of D
(R332). No translation is looked up for a hit (R327): a line whose translation has been replaced shows the D it was fetched
with (log 11). An append that finds the log full waits for the merge. The line as it then stands. -/
def State.dirtyTouch (s : State) (k : Nat) (l : SliceLine) : SliceLine × State :=
  let known := (s.slice k).tlb? (l.line * 128)
  if (known.map TEntry.d).getD l.d then (l, s)
  else
    let site := k / 32
    let s := if 16384 ≤ (s.reticle site).dirtyLog.length then (s.mergeLog site).2 else s
    let idx := match s.partition? l.part with
      | some p => p.slices.idxOf k
      | none => 0
    let page := l.line * 128 / 2 ^ (12 + l.ps) * 2 ^ (12 + l.ps)
    let w : Word := BitVec.ofNat 64 (idx * 2 ^ 49 + l.ps * 2 ^ 45 + page / 4096)
    let r := s.reticle site
    let s := s.setReticle site { r with dirtyLog := r.dirtyLog ++ [w] }
    let s := if (s.reticle site).dirtyLog.length = 8192 then s.post (.dirtyLogMerge site) else s
    ({ l with d := true }, match known with
      | some e => s.modSlice k fun sl => { sl with tcache := sl.tcache.map fun x => if x == e then { x with d := true } else x }
      | none => s)

/-- n bytes of a line from byte `off`. -/
def lineBytes (data : Line) (off n : Nat) : Nat := data.toNat / 2 ^ (8 * off) % 2 ^ (8 * n)

/-- Masked update of n bytes of a line. -/
def linePut (data : Line) (off n mask v : Nat) : Line :=
  BitVec.ofNat 1024 (putSlot (8 * off) (8 * n) (mergeBits mask v (lineBytes data off n)) data.toNat)

/-- The byte mask of n bytes from `off`. -/
def byteMask (off n : Nat) : LineMask := BitVec.ofNat 128 ((2 ^ n - 1) * 2 ^ off)

/-- The byte mask of the bytes of an n-byte datum that a bit mask touches. -/
def touchedBytes (off n mask : Nat) : LineMask :=
  (List.range n).foldl (fun m i => if mask / 2 ^ (8 * i) % 256 = 0 then m else m ||| byteMask (off + i) 1) 0

/-- Write n bytes of a line present at its slice: log the page, count the write (R66, R87, R332). -/
def State.sliceWrite (s : State) (k : Nat) (l : SliceLine) (off n mask v : Nat) : BitVec 32 × State :=
  let t := s.dirtyTouch k l
  let l := t.1
  let s := t.2.modSlice k fun sl =>
    sl.putLine { l with data := linePut l.data off n mask v, dirty := l.dirty ||| touchedBytes off n mask }
  s.bump (l.phys / 128)

/-- A slice-direct write of the bits under a mask of n bytes of one line (log 9), to the slice's copy where it holds one:
the line's serial after it (R87). A write of no byte does nothing. -/
def State.physStore (s : State) (key n mask v : Nat) : BitVec 32 × State :=
  if mask = 0 then (0, s)
  else match s.heldAt key with
  | some (k, l) => s.sliceWrite k l (key % 128) n mask v
  | none => (s.storeMasked key n mask v).bump (key / 128)

/-! ### Atomic operations (R174) -/

/-- Sign extension of an n-byte value. -/
def signExt (n v : Nat) : Int := if 2 ^ (8 * n - 1) ≤ v % 2 ^ (8 * n) then (v % 2 ^ (8 * n) : Int) - 2 ^ (8 * n) else v % 2 ^ (8 * n)

/-- The new value of an atomic: `x` and `cmp` are the operands, of which n bytes count. -/
def atomNew (op : AtomOp) (sg : Bool) (n old : Nat) (x cmp : Word) : Nat :=
  let m := 2 ^ (8 * n)
  let x := x.toNat % m
  let less := if sg then decide (signExt n old < signExt n x) else decide (old < x)
  match op with
  | .swap => x
  | .cas => if old = cmp.toNat % m then x else old
  | .add => (old + x) % m
  | .and => old &&& x
  | .or => old ||| x
  | .xor => old ^^^ x
  | .min => if less then old else x
  | .max => if less then x else old

/-! ### Performing a request at its home (R64, R66, R70, R75, R168) -/

def replyOk (lane value : Nat) (serial : BitVec 32) : Reply := { lane, value, serial, err := none }
def replyErr (q : Req) (cause : Cause) : Reply := { lane := q.lane, value := 0, serial := 0, err := some (cause, q.full) }

/-- Whether an access writes. -/
def accessWrites : Access → Bool
  | .read _ _ => false
  | .readAck _ => false
  | .fill => false
  | .write _ _ _ => true
  | .writeAck _ _ => true
  | .rmw _ _ _ _ _ => true
  | .writeback _ _ => true
  | .touch _ => false

/-- The byte runs of an n-byte datum that a bit mask touches: the whole, or single bytes. -/
def touchedRuns (n mask : Nat) : List (Nat × Nat) :=
  if mask = 2 ^ (8 * n) - 1 then [(0, n)]
  else (List.range n).filterMap fun i => if mask / 2 ^ (8 * i) % 256 = 0 then none else some (i, 1)

/-- The byte runs an access reaches, from its address (R70, R195). -/
def accessRuns : Access → List (Nat × Nat)
  | .read n mask => touchedRuns n mask
  | .readAck n => [(0, n)]
  | .fill => [(0, 128)]
  | .write n mask _ => touchedRuns n mask
  | .writeAck n _ => [(0, n)]
  | .rmw _ _ n _ _ => [(0, n)]
  | .writeback _ _ => [(0, 128)]
  | .touch _ => []

/-- The answer of a home that does not perform a request. -/
def refuseReply (q : Req) (home : Home) (cause : Cause) : Event :=
  match q.access with
  | .write _ _ _ => .postedStoreAck q.core q.strand home (if cause = .rangeLocked then some { addr := q.full, pc := q.pc } else none)
  | .fill => .l1FillResponse q.core (q.addr / 128) { data := 0, blocked := BitVec.allOnes 128, err := some cause }
  | .writeback _ _ => .l1WritebackReply q.core (q.addr / 128) (cause != .rangeLocked)
  | _ => .loadResponse q.core q.strand home (replyErr q cause)

/-- An access performed on n bytes of a scratchpad: the value it reads and the serial it returns (R74, R86, R87). -/
def State.applyPad (s : State) (key : Nat) (a : Access) : Nat × BitVec 32 × State :=
  let line := key / 128
  match a with
  | .read n _ => (s.load key n, 0, s)
  | .readAck n => let r := s.serial line; (s.load key n, r.1, r.2)
  | .write n mask v => if mask = 0 then (0, 0, s) else let r := (s.storeMasked key n mask v).bump line; (0, r.1, r.2)
  | .writeAck n v => let r := (s.store key n v).bump line; (0, r.1, r.2)
  | .rmw op sg n x cmp =>
    let old := s.load key n
    let r := (s.store key n (atomNew op sg n old x cmp)).bump line
    (old, r.1, r.2)
  | .fill => (0, 0, s)
  | .writeback _ _ => (0, 0, s)
  | .touch _ => (0, 0, s)

/-- The answer of a home that performed a request. -/
def performReply (q : Req) (home : Home) (value : Nat) (serial : BitVec 32) : Event :=
  match q.access with
  | .write _ _ _ => .postedStoreAck q.core q.strand home none
  | _ => .loadResponse q.core q.strand home (replyOk q.lane value serial)

/-- A request performed at a core's scratchpad (R64). -/
def State.performPad (s : State) (c : Nat) (q : Req) : State :=
  let key := padKey c q.addr
  if (accessRuns q.access).any fun r => s.padRefuses c q.core (accessWrites q.access) (q.addr + r.1) r.2 then s.post (refuseReply q (.pad c) .rangeLocked)
  else match s.poisoned? (key / 128) with
    | some why =>
      (s.poisonReport (s.core c).calends (s.coreLocation c 0 0) q.full (s.partOf c) (key / 128) why).post (refuseReply q (.pad c) why)
    | none =>
      let r := s.applyPad key q.access
      r.2.2.post (performReply q (.pad c) r.1 r.2.1)

/-- The bytes of a line that lie under a copy-destination range, of the asking core or of another: a fill does not deliver
them (R54). -/
def Slice.blocked (k : Slice) (part line : Nat) : LineMask :=
  (List.range 128).foldl (fun m i =>
    if k.filter.any fun e => e.place == .virt part && lockConflict e false false (line * 128 + i) 1 then m ||| byteMask i 1
    else m) 0

/-- Whether a write-back's bytes meet a lock of another core. -/
def Slice.blocksWriteback (k : Slice) (part rc line : Nat) (mask : LineMask) : Bool :=
  (List.range 128).any fun i => mask.getLsbD i && k.refuses part rc true (line * 128 + i) 1

/-- A request performed at a slice that holds its line (R66). -/
def State.performSlice (s : State) (k : Nat) (q : Req) (l : SliceLine) : State :=
  let sl := s.slice k
  let off := q.addr % 128
  let refused := match q.access with
    | .fill => false
    | .touch _ => false
    | .writeback mask _ => sl.blocksWriteback q.part q.core l.line mask
    | a => (accessRuns a).any fun r => sl.refuses q.part q.core (accessWrites a) (q.addr + r.1) r.2
  let answer (s : State) (value : Nat) (serial : BitVec 32) : State := s.post (performReply q (.slice k) value serial)
  if refused then s.post (refuseReply q (.slice k) .rangeLocked)
  else if q.access = .touch false || q.access = .touch true then s
  else match s.linePoison l with
    | some why =>
      let site := k / 32
      let s := s.poisonReport (s.clockOf q.core) (location site 1 (k / 16 % 2) 3 (k % 16) 0) q.full q.part (l.phys / 128) why
      s.post (refuseReply q (.slice k) why)
    | none =>
      match q.access with
      | .touch _ => s
      | .read n _ => answer s (lineBytes l.data off n) 0
      | .readAck n =>
        let r := s.serial (l.phys / 128)
        answer r.2 (lineBytes l.data off n) r.1
      | .write n mask v => answer (if mask = 0 then s else (s.sliceWrite k l off n mask v).2) 0 0
      | .writeAck n v =>
        let r := s.sliceWrite k l off n (2 ^ (8 * n) - 1) v
        answer r.2 0 r.1
      | .rmw op sg n x cmp =>
        let old := lineBytes l.data off n
        let r := s.sliceWrite k l off n (2 ^ (8 * n) - 1) (atomNew op sg n old x cmp)
        answer r.2 old r.1
      | .fill => s.post (.l1FillResponse q.core l.line { data := l.data, blocked := sl.blocked q.part l.line, err := none })
      | .writeback mask data =>
        let t := s.dirtyTouch k l
        let l := t.1
        let s := t.2
        let bits := (List.range 128).foldl (fun m i => if mask.getLsbD i then m + 255 * 2 ^ (8 * i) else m) 0
        let s := s.modSlice k fun sl => sl.putLine
          { l with data := BitVec.ofNat 1024 (mergeBits bits data.toNat l.data.toNat), dirty := l.dirty ||| mask }
        ((s.bump (l.phys / 128)).2).post (.l1WritebackReply q.core l.line true)

/-- Memory stack 2 * site + t serves lines: it and its reticle's control die are READY, and its site is not in a low-power
state (R351, R361, log 4). -/
def State.stackServes (s : State) (t : Nat) : Bool :=
  s.bringup { site := t / 2, chip := 1, index := t % 2 } == .ready && s.bringup { site := t / 2, chip := 2, index := 0 } == .ready
    && !(s.lowPower.any fun x => x.1 == t / 2)

/-- The memory behind a key serves lines: its stack, its second-tier port's service reticle, or for the PCI Express link's bus
space the service reticle of the link whose aperture it is, else any one (R351, R365, R368; log 12). -/
def State.keyServes (s : State) (key : Nat) : Bool :=
  if key < 2 ^ 43 then s.stackServes (key / 2 ^ 36)
  else if key < 2 ^ 70 then s.serviceReady (Config.serviceSites.getD (key % 2 ^ 60 / 2 ^ 40 % 32 / 8) 0)
  else match aperture? key with
    | some (n, _) => s.serviceReady (linkSite n)
    | none => Config.serviceSites.any s.serviceReady

/-- A slice serves its waiting requests in arrival order until one misses; that miss starts a fill, or a walk when its
translation is not cached (R66, R327). A slice whose stack does not serve lines yet keeps them (R351). -/
def State.serve (s : State) (k : Nat) : Nat → State
  | 0 => s
  | fuel + 1 =>
    match (s.slice k).waiting with
    | [] => s
    | q :: rest =>
      if !s.stackServes (k / 16) then s else
      match (s.slice k).line? q.part (q.addr / 128) with
      | some l => ((s.modSlice k fun sl => { sl with waiting := rest }).performSlice k q l).serve k fuel
      | none =>
        match (s.slice k).tlb? (q.addr) with
        | some _ => s.post (.sliceMissFill k (q.addr / 128))
        | none => s.post (.walkRequest k (q.addr / 128))

/-- A slice goes on with its waiting requests. -/
def State.serveAll (s : State) (k : Nat) : State := s.serve k ((s.slice k).waiting.length + 1)

/-- A request joins the end of a slice's queue, so that each slice performs its accesses in arrival order (R66, R75). -/
def State.enqueue (s : State) (k : Nat) (q : Req) : State :=
  let idle := (s.slice k).waiting.isEmpty
  let s := s.modSlice k fun sl => { sl with waiting := sl.waiting ++ [q] }
  if idle then s.serveAll k else s

/-! ### Engine accesses at a slice (R66, R75, R327, R328) -/

/-- A line's home slice can serve an engine at once: it holds the line and no earlier request waits. -/
def State.lineAtHand (s : State) (part line : Nat) : Bool :=
  let h := s.homeSlice part line
  let k := s.slice h
  s.stackServes (h / 16) && k.waiting.isEmpty && (k.line? part line).isSome

/-- An engine asks for a line that its home slice does not hold: once, in the slice's arrival order. -/
def State.touchLine (s : State) (c n : Nat) (full : Word) (fetch : Bool) (part line : Nat) : State :=
  let k := s.homeSlice part line
  let q : Req := { core := c, strand := n, pc := 0, part, addr := line * 128, full, lane := 0, access := .touch fetch }
  if ((s.slice k).line? part line).isSome || (s.slice k).waiting.contains q then s else s.enqueue k q

/-- An event tries again before any later message of its pair. -/
def State.again (s : State) (e : Event) : State := { s with agenda := e :: s.agenda }

/-- The run of a core has been stopped. -/
def State.halted (s : State) (c : Nat) : Bool :=
  match s.runOf c with
  | none => false
  | some r => match r.life with
    | .stopped _ => true
    | _ => false

/-- An engine's access to lines of core c's partition, as event e: performed when every line is at hand; else the first
that is not is asked for, and e tries again. `stopped` when the run has been stopped meanwhile. -/
def State.withLines (s : State) (c n : Nat) (full : Word) (lines : List Nat) (e : Event) (stopped go : Out) : Out :=
  let part := s.partOf c
  match lines.find? fun l => !s.lineAtHand part l with
  | none => go
  | some l => if s.halted c then stopped else .next ((s.touchLine c n full false part l).again e)

/-! ### The first-level cache (R52, R54, R343) -/

def Core.frame? (k : Core) (line : Nat) : Option (Nat × L1Frame) := k.l1.find? fun e => e.2.line == line

/-- The frame numbers of a line's set, from the lowest way that is L1 (R52): way * 128 + set. -/
def Core.setFrames (k : Core) (line : Nat) : List Nat :=
  (List.range (32 - k.scr / 16384)).map fun i => (k.scr / 16384 + i) * 128 + line % 128

/-- A frame becomes the most recently used. -/
def Core.touch (k : Core) (f : Nat) : Core := { k with l1Use := (k.l1Use.filter fun x => x != f) ++ [f] }

def Core.setFrame (k : Core) (f : Nat) (v : L1Frame) : Core := { k with l1 := assign f v k.l1 }
def Core.freeFrame (k : Core) (f : Nat) : Core :=
  { k with l1 := unassign f k.l1, l1Use := k.l1Use.filter fun x => x != f }

/-- A new frame's content. -/
def emptyFrame (line : Nat) : L1Frame :=
  { line, data := 0, dirty := 0, present := 0, filling := false, stale := 0, sent := 0, evict := false, refused := false }

/-- A frame whose fills are all answered. -/
def L1Frame.quiet (f : L1Frame) : Bool := !f.filling && f.stale == 0

/-- A frame that is to leave and owes nothing: no byte of its own, no write-back and no fill unanswered. -/
def L1Frame.gone (f : L1Frame) : Bool := f.evict && f.dirty == 0 && f.present == 0 && f.sent == 0 && f.quiet

/-- The fill under way, if any, will install nothing (R55, R79). -/
def L1Frame.ignoreFill (f : L1Frame) : L1Frame :=
  if f.filling then { f with filling := false, stale := f.stale + 1 } else f

/-- Put a frame back, or free it when it is to leave. -/
def Core.keepFrame (k : Core) (f : Nat) (v : L1Frame) : Core := if v.gone then k.freeFrame f else k.setFrame f v

/-- What an allocation finds (R54). -/
inductive Alloc where
  | got (s : State)
  | wait (s : State)
  | locked
  deriving DecidableEq, Repr

/-- Send the dirty bytes of a frame under a mask to their home slice; `evict` when the line is to leave its frame (R54). -/
def State.writebackBytes (s : State) (c n f : Nat) (fr : L1Frame) (mask : LineMask) (evict : Bool) : State :=
  let part := s.partOf c
  let s := s.modCore c fun k => k.setFrame f
    { fr with dirty := fr.dirty &&& ~~~mask, sent := fr.dirty &&& mask, evict := evict || fr.evict, refused := false }
  s.post (.sliceAccess (s.homeSlice part fr.line)
    { core := c, strand := n, pc := 0, part, addr := fr.line * 128, full := BitVec.ofNat 64 (2 ^ 63 + fr.line * 128), lane := 0,
      access := .writeback (fr.dirty &&& mask) fr.data })

/-- The same for every dirty byte. -/
def State.writeback (s : State) (c n f : Nat) (fr : L1Frame) (evict : Bool) : State :=
  s.writebackBytes c n f fr (BitVec.allOnes 128) evict

/-- Find a frame for a line that has none (R54, R343). -/
def State.allocate (s : State) (c n line : Nat) : Alloc :=
  let k := s.core c
  let fs := k.setFrames line
  match fs.find? fun f => !(k.l1.any fun e => e.1 == f) with
  | some f => .got (s.modCore c fun k => (k.setFrame f (emptyFrame line)).touch f)
  | none =>
    let held := k.l1.filter fun e => fs.contains e.1
    let quiet := held.filter fun e => e.2.quiet
    if quiet.isEmpty then .wait s
    else if quiet.all fun e => e.2.refused then .locked
    else if quiet.any fun e => e.2.evict then .wait s
    else
      let order := k.l1Use.filter fun f => quiet.any fun e => e.1 == f && !e.2.refused
      match order.head? with
      | none => .wait s
      | some f =>
        let fr := lookupD (emptyFrame line) f k.l1
        if fr.sent ≠ 0 then .wait s
        else if fr.dirty ≠ 0 then .wait (s.writeback c n f fr true)
        else .got (s.modCore c fun k => ((k.freeFrame f).setFrame f (emptyFrame line)).touch f)

/-- The L1 drops a line for an access performed at its home: dirty bytes are written back first, on the same pair, none of
its bytes can be read any more, and a fill on its way installs nothing (R55, R76, R79, R80). The frame stands while an
answer is owed to it. No answer while an earlier write-back of older bytes is in flight. -/
def State.dropLine (s : State) (c n line : Nat) : Option State :=
  match (s.core c).frame? line with
  | none => some s
  | some (f, fr) =>
    let left := { fr.ignoreFill with present := 0, evict := true }
    if fr.sent ≠ 0 && fr.dirty ≠ 0 then none
    else if fr.dirty ≠ 0 then some (s.writeback c n f left true)
    else some (s.modCore c fun k => k.keepFrame f left)

/-- The L1 writes back a line's dirty bytes and keeps it (R55). -/
def State.cleanLine (s : State) (c n line : Nat) : Option State :=
  match (s.core c).frame? line with
  | none => some s
  | some (f, fr) =>
    if fr.dirty = 0 then some s
    else if fr.sent ≠ 0 then none
    else some (s.writeback c n f fr false)

/-- The L1 writes back the dirty bytes of a line that lie in [va, va + n) (R55). -/
def State.cleanBytes (s : State) (c i va n line : Nat) : Option State :=
  match (s.core c).frame? line with
  | none => some s
  | some (f, fr) =>
    let lo := max va (line * 128)
    let mask := byteMask (lo - line * 128) (min (va + n) (line * 128 + 128) - lo)
    if fr.dirty &&& mask = 0 then some s
    else if fr.sent ≠ 0 then none
    else some (s.writebackBytes c i f fr mask false)

/-- The same for a list of lines. -/
def State.overLines (f : State → Nat → Option State) : List Nat → State → Option State
  | [], s => some s
  | l :: r, s => match f s l with
    | none => none
    | some s => State.overLines f r s

/-- The lines a byte range touches. -/
def linesOf (va n : Nat) : List Nat :=
  if n = 0 then [] else (List.range ((va + n - 1) / 128 - va / 128 + 1)).map fun i => va / 128 + i

/-- Write back every dirty byte of the L1 (R55); none while a line has both bytes in flight and newer dirty bytes. -/
def State.cleanAll (s : State) (c n : Nat) : Option State :=
  State.overLines (fun s l => s.cleanLine c n l) ((s.core c).l1.map fun e => e.2.line) s

/-- Whether some write-back of the L1 is unanswered. -/
def Core.writingBack (k : Core) : Bool := k.l1.any fun e => e.2.sent != 0

/-- A home has answered the write-back of a line: what waits for it goes on (R70). -/
def Cleaning.answer (w : Cleaning) (line : Nat) (performed : Bool) : Cleaning :=
  if !w.awaited.contains line then w
  else { awaited := w.awaited.filter fun l => l != line, refused := if performed then w.refused else w.refused.or (some line) }

/-- The same for every instruction and copy of a core that waits. -/
def Core.cleaned (k : Core) (line : Nat) (performed : Bool) : Core :=
  { k with
    strands := k.strands.map fun t => { t with outst := t.outst.map fun o =>
      { o with cleaning := o.cleaning.map fun w => w.answer line performed } }
    copies := k.copies.map fun x => match x.phase with
      | .arriving (some w) => { x with phase := .arriving (some (w.answer line performed)) }
      | _ => x }

/-- The line of the first refused write-back (R70). -/
def Core.refusedLine? (k : Core) : Option Nat := (k.l1.find? fun e => e.2.refused).map fun e => e.2.line

/-- The acquire action on the L1: every byte that is not dirty becomes not present, and a fill asked for before installs
nothing (R55, R84). -/
def Core.forgetClean (k : Core) : Core :=
  { k with l1 := k.l1.map fun e => (e.1, { e.2.ignoreFill with present := e.2.dirty }) }

/-- The L1 holds these bytes of a line. -/
def Core.presentBytes (k : Core) (va n : Nat) : Option Nat :=
  match k.frame? (va / 128) with
  | none => none
  | some (_, fr) =>
    if fr.present &&& byteMask (va % 128) n = byteMask (va % 128) n then some (lineBytes fr.data (va % 128) n) else none

/-- A fill request for a line whose frame has been chosen (R54). -/
def State.requestFill (s : State) (c n line : Nat) : State :=
  let part := s.partOf c
  let s := s.modCore c fun k => match k.frame? line with
    | none => k
    | some (f, fr) => k.setFrame f { fr with filling := true, evict := false }
  s.post (.sliceAccess (s.homeSlice part line)
    { core := c, strand := n, pc := 0, part, addr := line * 128, full := BitVec.ofNat 64 (2 ^ 63 + line * 128), lane := 0, access := .fill })

/-- Ask for the lines that waiting elements need, in their order; where one finds no usable frame, it and those after it
are asked again later. The address of an element that finds only refused write-backs (R54, R196). -/
def State.askFills (c n : Nat) : List (Word × Nat) → State → State × Option Word
  | [], s => (s, none)
  | (a, _) :: r, s =>
    let line := field 56 0 a / 128
    match (s.core c).frame? line with
    | some (_, fr) => State.askFills c n r (if fr.filling then s else s.requestFill c n line)
    | none => match s.allocate c n line with
      | .got s => State.askFills c n r (s.requestFill c n line)
      | .wait s => (s, none)
      | .locked => (s, some a)

/-- Store bytes into a line's frame: they become dirty and present (R54). -/
def Core.storeFrame (k : Core) (va n mask v : Nat) : Core :=
  match k.frame? (va / 128) with
  | none => k
  | some (f, fr) =>
    let m := touchedBytes (va % 128) n mask
    (k.setFrame f { fr with data := linePut fr.data (va % 128) n mask v, dirty := fr.dirty ||| m, present := fr.present ||| m,
                            evict := false }).touch f

end Sys2Proof.Machine
end

