-- ==== Sys2Proof/Machine/Deque.lean ====
section
/-! DEFINITION. The deque (R18, R107 to R111, R264). `hw` holds the hardware part, the near end first. -/

namespace Sys2Proof.Machine

/-- The 64-byte image of a frame (R18). -/
def frameImage (f : Frame) : Nat :=
  f.entry.toNat + (List.range 6).foldl (fun a i => a + (f.args.toList.getD i 0).toNat * 2 ^ (64 * (i + 1))) 0
    + (f.fmta.toNat + f.fmtb.toNat * 2 ^ 16 + f.scla.toNat * 2 ^ 32 + f.sclb.toNat * 2 ^ 48) * 2 ^ 448

/-- The frame a 64-byte image holds (R18). -/
def frameOfImage (w : Nat) : Frame where
  entry := BitVec.ofNat 64 (slot 0 64 w)
  args := Vector.ofFn fun i => BitVec.ofNat 64 (slot (64 * (i.val + 1)) 64 w)
  fmta := BitVec.ofNat 16 (slot 448 16 w)
  fmtb := BitVec.ofNat 16 (slot 464 16 w)
  scla := BitVec.ofNat 16 (slot 480 16 w)
  sclb := BitVec.ofNat 16 (slot 496 16 w)

/-- The frames in both parts (R107). -/
def Deque.depth (q : Deque) : Nat := q.hw.length + q.overN

/-- Places not occupied or reserved (R107, R110). -/
def Deque.room (q : Deque) : Nat := 32 + q.slots - (q.depth + q.reserved)

/-- The array key of the overflow slot i places after F (R107). -/
def Core.dequeKey (k : Core) (c i : Nat) : Nat := padKey c (k.deque.base + 64 * ((k.deque.first + i) % k.deque.slots))

def State.modDeque (s : State) (c : Nat) (f : Deque → Deque) : State := s.modCore c fun k => { k with deque := f k.deque }

/-- Push a frame at the near end; the farthest of 33 hardware frames moves to the overflow region (R107). -/
def State.pushNear (s : State) (c : Nat) (f : Frame) : State :=
  let k := s.core c
  if k.deque.hw.length < 32 then s.modDeque c fun q => { q with hw := f :: q.hw }
  else
    let far := (k.deque.hw.getLast?).getD f
    (s.store (k.dequeKey c k.deque.overN) 64 (frameImage far)).modDeque c fun q =>
      { q with hw := f :: q.hw.dropLast, overN := q.overN + 1 }

/-- A `take` of strand n gives up the frame it holds: the frame goes to the near end of the core's deque, at once or, while that has
no place, as a reply still on its way (R108, R111; log 43). -/
def State.giveBack (s : State) (c n : Nat) (f : Frame) : State :=
  if 1 ≤ (s.core c).deque.room then s.pushNear c f else s.post (.theftReply c n (some f))

/-- A frame is on its way to a core. -/
def State.frameComes (s : State) (c : Nat) : Bool :=
  s.agenda.any fun e => match e with
    | .theftReply t _ (some _) => t == c
    | _ => false

/-- Pop the near-end frame; when the hardware part empties, the nearest overflow frame moves back (R107, R108). -/
def State.popNear (s : State) (c : Nat) : Option (Frame × State) :=
  let k := s.core c
  match k.deque.hw with
  | [] => none
  | f :: r =>
    if r.isEmpty && 0 < k.deque.overN then
      let g := frameOfImage (s.load (k.dequeKey c (k.deque.overN - 1)) 64)
      some (f, s.modDeque c fun q => { q with hw := [g], overN := q.overN - 1 })
    else some (f, s.modDeque c fun q => { q with hw := r })

/-- Pop the far-end frame (R107, R108). -/
def State.popFar (s : State) (c : Nat) : Option (Frame × State) :=
  let k := s.core c
  if 0 < k.deque.overN then
    some (frameOfImage (s.load (k.dequeKey c 0) 64),
      s.modDeque c fun q => { q with first := (q.first + 1) % q.slots, overN := q.overN - 1 })
  else match k.deque.hw.getLast? with
    | none => none
    | some f => some (f, s.modDeque c fun q => { q with hw := q.hw.dropLast })

/-- The nearest overflow frame moves back to the far end of the hardware part (R107). -/
def State.overflowBack (s : State) (c : Nat) : State :=
  let g := frameOfImage (s.load ((s.core c).dequeKey c ((s.core c).deque.overN - 1)) 64)
  s.modDeque c fun q => { q with hw := q.hw ++ [g], overN := q.overN - 1 }

/-- Append a levelled frame at the far end, in a reserved place (R110). Where the overflow region is full, its nearest
frame moves back to the hardware part, since the deque is one sequence (R107). -/
def State.appendFar (s : State) (c : Nat) (f : Frame) : State :=
  let k := s.core c
  if k.deque.overN = 0 && k.deque.hw.length < 32 then s.modDeque c fun q => { q with hw := q.hw ++ [f] }
  else
    let s := if k.deque.overN < k.deque.slots then s else s.overflowBack c
    let s := s.modDeque c fun q => { q with first := (q.first + q.slots - 1) % q.slots, overN := q.overN + 1 }
    s.store ((s.core c).dequeKey c 0) 64 (frameImage f)

/-- Whether a core has retired from its run. -/
def State.isRetired (s : State) (c : Nat) : Bool := (s.core c).retired

/-- The sibling cores of a core in core order (R109). -/
def siblings (c : Nat) : List Nat := ((List.range 4).map fun i => 4 * clusterOf c + i).filter fun x => x != c

/-- The next victim of a `take`, with the steal pointer after it (R109). Fuel: the cores of the region. -/
def nextVictim (cores : List Nat) (sib asked : List Nat) (self : Nat) (retired : Nat → Bool) : Nat → Nat → Option Nat × Nat
  | 0, p => (none, p)
  | fuel + 1, p =>
    let x := cores.getD (p % cores.length) self
    let p' := (p + 1) % cores.length
    if x = self || sib.contains x || asked.contains x || retired x then nextVictim cores sib asked self retired fuel p' else (some x, p')

/-- The core a `take` of core c asks next (R109): its siblings first, then five cores from the steal
pointer. -/
def State.victim (s : State) (c : Nat) (asked : List Nat) : Option Nat × Nat :=
  let p := (s.core c).deque.steal
  match (siblings c).find? fun x => !asked.contains x && !s.isRetired x with
  | some x => (some x, p)
  | none =>
    let cores := match s.runOf c with
      | some r => s.regionCores r
      | none => []
    if cores.isEmpty || 5 ≤ (asked.filter fun x => !(siblings c).contains x).length then (none, p) else nextVictim cores (siblings c) asked c s.isRetired cores.length p

end Sys2Proof.Machine
end

