-- ==== Sys2Proof/Machine/Num.lean ====
section
/-! DEFINITION. Exact numbers and the binary formats (R27 to R34): decoding, rounding with flags, and the arithmetic,
comparison and conversion rules of R158 to R165, for every binary format. -/

namespace Sys2Proof.Machine

/-- An exact-or-special value (R43): NaN, an infinity, or (-1)^neg * m * 2^e. A zero has m = 0 and keeps its sign. -/
inductive Num where
  | nan
  | inf (neg : Bool)
  | fin (neg : Bool) (m : Nat) (e : Int)
  deriving DecidableEq, Repr

/-- Rounding modes (R31). -/
inductive Mode where | rne | rtz | rdn | rup | rod
  deriving DecidableEq, Repr

/-- Sticky flags in the order of FCTL[4:0]: NV DZ OF UF NX (R30). -/
abbrev Flags := BitVec 5

def fNV : Flags := 16
def fDZ : Flags := 8
def fOF : Flags := 4
def fUF : Flags := 2
def fNX : Flags := 1

/-- A binary format: exponent and fraction widths (R27). -/
structure Flt where
  exp : Nat
  frac : Nat
  deriving DecidableEq, Repr

def binary64 : Flt := ⟨11, 52⟩
def binary32 : Flt := ⟨8, 23⟩
def binary16 : Flt := ⟨5, 10⟩
def bfloat16 : Flt := ⟨8, 7⟩

/-- The exponent bias (R27). -/
def Flt.bias (f : Flt) : Nat := 2 ^ (f.exp - 1) - 1
/-- Bits of a value. -/
def Flt.width (f : Flt) : Nat := 1 + f.exp + f.frac
/-- The exponent field of a value. -/
def Flt.expOf (f : Flt) (x : Nat) : Nat := x / 2 ^ f.frac % 2 ^ f.exp
/-- The fraction field of a value. -/
def Flt.fracOf (f : Flt) (x : Nat) : Nat := x % 2 ^ f.frac
/-- The sign of a value. -/
def Flt.sign (f : Flt) (x : Nat) : Bool := x / 2 ^ (f.exp + f.frac) % 2 == 1
/-- All-ones exponent field. -/
def Flt.top (f : Flt) : Nat := 2 ^ f.exp - 1
/-- The canonical NaN (R27, R29). -/
def Flt.canonNan (f : Flt) : Nat := f.top * 2 ^ f.frac + 2 ^ (f.frac - 1)
def Flt.isNan (f : Flt) (x : Nat) : Bool := f.expOf x == f.top && f.fracOf x != 0
/-- A NaN whose quiet bit is clear (R27). -/
def Flt.isSnan (f : Flt) (x : Nat) : Bool := f.isNan x && f.fracOf x < 2 ^ (f.frac - 1)
/-- The bits of a signed infinity. -/
def Flt.infBits (f : Flt) (neg : Bool) : Nat := (if neg then 2 ^ (f.exp + f.frac) else 0) + f.top * 2 ^ f.frac
/-- The bits of the largest finite value. -/
def Flt.maxBits (f : Flt) (neg : Bool) : Nat := f.infBits neg - 1

/-- `value(bits, fmt)` (R43). -/
def Flt.value (f : Flt) (x : Nat) : Num :=
  let e := f.expOf x
  let m := f.fracOf x
  if e = f.top then (if m = 0 then .inf (f.sign x) else .nan)
  else if e = 0 then .fin (f.sign x) m (1 - f.bias - f.frac)
  else .fin (f.sign x) (2 ^ f.frac + m) (e - f.bias - f.frac)

/-- Round m * 2^e to a multiple of 2^q: the multiple and whether it is exact (R31). -/
def roundAt (mode : Mode) (neg : Bool) (m : Nat) (e q : Int) : Nat × Bool :=
  if q ≤ e then (m * 2 ^ (e - q).toNat, true)
  else
    let k := (q - e).toNat
    let d := m / 2 ^ k
    let r := m % 2 ^ k
    if r = 0 then (d, true)
    else
      let up := match mode with
        | .rne => decide (2 ^ k < 2 * r) || (decide (2 * r = 2 ^ k) && d % 2 == 1)
        | .rtz => false
        | .rdn => neg
        | .rup => !neg
        | .rod => d % 2 == 0
      (if up then d + 1 else d, false)

/-- `round(x, fmt, mode)` with the flags of R33 (R32). -/
def Flt.round (f : Flt) (mode : Mode) : Num → Nat × Flags
  | .nan => (f.canonNan, 0)
  | .inf neg => (f.infBits neg, 0)
  | .fin neg m e =>
    let s := if neg then 2 ^ (f.exp + f.frac) else 0
    if m = 0 then (s, 0)
    else
      let top : Int := e + Nat.log2 m
      let emin : Int := 1 - f.bias
      let free := roundAt mode neg m e (top - f.frac)
      let q := max top emin - f.frac
      let r := roundAt mode neg m e q
      let bits := (q - (emin - f.frac)).toNat * 2 ^ f.frac + r.1
      -- x' exceeds the largest finite value: its exponent passes the bias
      let ovf := decide ((f.bias : Int) < (top - f.frac) + Nat.log2 (max free.1 1))
      if ovf then
        let toInf := match mode with
          | .rne => true
          | .rtz => false
          | .rdn => neg
          | .rup => !neg
          | .rod => false
        (if toInf then f.infBits neg else f.maxBits neg, fOF ||| fNX)
      else
        let tiny := decide ((top - f.frac) + Nat.log2 (max free.1 1) < emin)
        (s + bits, (if r.2 then 0 else fNX) ||| (if tiny && !r.2 then fUF else 0))

/-- Signalling operands raise NV (R33). -/
def Flt.snanFlag (f : Flt) (xs : List Nat) : Flags := if xs.any f.isSnan then fNV else 0

/-- ROD acts as RNE on operations that do not narrow (R31, R158). -/
def Mode.plain : Mode → Mode
  | .rod => .rne
  | m => m

/-- Negation of an exact value. -/
def Num.negate : Num → Num
  | .nan => .nan
  | .inf n => .inf (!n)
  | .fin n m e => .fin (!n) m e

/-- The signed integer m * 2^(e - low) of a finite value at a common exponent. -/
def signedAt (neg : Bool) (m : Nat) (e low : Int) : Int :=
  let v : Int := m * 2 ^ (e - low).toNat
  if neg then -v else v

/-- The exact sum, with the sign of an exact zero under `mode` (R160), and NV for infinities of opposite sign. -/
def Num.add (mode : Mode) : Num → Num → Num × Flags
  | .nan, _ => (.nan, 0)
  | _, .nan => (.nan, 0)
  | .inf a, .inf b => if a = b then (.inf a, 0) else (.nan, fNV)
  | .inf a, .fin _ _ _ => (.inf a, 0)
  | .fin _ _ _, .inf b => (.inf b, 0)
  | .fin na ma ea, .fin nb mb eb =>
    let low := min ea eb
    let v := signedAt na ma ea low + signedAt nb mb eb low
    if v = 0 then
      (if ma = 0 && mb = 0 && na = nb then .fin na 0 0 else .fin (decide (mode = .rdn)) 0 0, 0)
    else (.fin (decide (v < 0)) v.natAbs low, 0)

/-- The exact product, and NV for zero times infinity. -/
def Num.mul : Num → Num → Num × Flags
  | .nan, _ => (.nan, 0)
  | _, .nan => (.nan, 0)
  | .inf a, .inf b => (.inf (a != b), 0)
  | .inf a, .fin b m _ => if m = 0 then (.nan, fNV) else (.inf (a != b), 0)
  | .fin a m _, .inf b => if m = 0 then (.nan, fNV) else (.inf (a != b), 0)
  | .fin a ma ea, .fin b mb eb => (.fin (a != b) (ma * mb) (ea + eb), 0)

/-- The quotient to more bits than any format holds, with a last bit that stands for the rest. -/
def Num.div : Num → Num → Num × Flags
  | .nan, _ => (.nan, 0)
  | _, .nan => (.nan, 0)
  | .inf _, .inf _ => (.nan, fNV)
  | .inf a, .fin b _ _ => (.inf (a != b), 0)
  | .fin a _ _, .inf b => (.fin (a != b) 0 0, 0)
  | .fin a ma ea, .fin b mb eb =>
    if mb = 0 then (if ma = 0 then (.nan, fNV) else (.inf (a != b), fDZ))
    else
      let n := ma * 2 ^ 192
      (.fin (a != b) (2 * (n / mb) + (if n % mb = 0 then 0 else 1)) (ea - eb - 193), 0)

/-- The integer square root, bit by bit. -/
def isqrt (n : Nat) : Nat :=
  (List.range (Nat.log2 n / 2 + 1)).foldr (fun i r => if (r + 2 ^ i) * (r + 2 ^ i) ≤ n then r + 2 ^ i else r) 0

/-- The square root in the same form. -/
def Num.sqrt : Num → Num × Flags
  | .nan => (.nan, 0)
  | .inf n => if n then (.nan, fNV) else (.inf false, 0)
  | .fin n m e =>
    if m = 0 then (.fin n 0 0, 0)
    else if n then (.nan, fNV)
    else
      let odd := e % 2 ≠ 0
      let m' := (if odd then 2 * m else m) * 2 ^ 256
      let e' := (if odd then e - 1 else e) - 256
      let r := isqrt m'
      (.fin false (2 * r + (if r * r = m' then 0 else 1)) (e' / 2 - 1), 0)

/-- a * b + c with one rounding; a product of zero and infinity is invalid whatever the addend (R33, R159). -/
def Num.fma (mode : Mode) (a b c : Num) : Num × Flags :=
  let p := a.mul b
  if p.2 ≠ 0 then (.nan, p.2) else p.1.add mode c

/-- Whether an exact value is less than another; NaN is ordered with nothing. -/
def Num.lt : Num → Num → Bool
  | .nan, _ => false
  | _, .nan => false
  | .inf a, .inf b => a && !b
  | .inf a, .fin _ _ _ => a
  | .fin _ _ _, .inf b => !b
  | .fin na ma ea, .fin nb mb eb =>
    let low := min ea eb
    decide (signedAt na ma ea low < signedAt nb mb eb low)

/-- Equality of exact values: zeros of both signs are equal. -/
def Num.eqv (a b : Num) : Bool := a != .nan && b != .nan && !a.lt b && !b.lt a

/-- A float operation on bits: the exact result rounded once, with the flags of both (R159). -/
def Flt.finish (f : Flt) (mode : Mode) (xs : List Nat) (r : Num × Flags) : Nat × Flags :=
  let o := f.round mode r.1
  (o.1, f.snanFlag xs ||| r.2 ||| o.2)

def Flt.add (f : Flt) (mode : Mode) (a b : Nat) : Nat × Flags :=
  f.finish mode.plain [a, b] ((f.value a).add mode.plain (f.value b))
def Flt.sub (f : Flt) (mode : Mode) (a b : Nat) : Nat × Flags :=
  f.finish mode.plain [a, b] ((f.value a).add mode.plain (f.value b).negate)
def Flt.mul (f : Flt) (mode : Mode) (a b : Nat) : Nat × Flags :=
  f.finish mode.plain [a, b] ((f.value a).mul (f.value b))
def Flt.div (f : Flt) (mode : Mode) (a b : Nat) : Nat × Flags :=
  f.finish mode.plain [a, b] ((f.value a).div (f.value b))
def Flt.sqrt (f : Flt) (mode : Mode) (a : Nat) : Nat × Flags :=
  f.finish mode.plain [a] (f.value a).sqrt
/-- (-1)^np * a * b + (-1)^nc * c (R159, R201). -/
def Flt.fma (f : Flt) (mode : Mode) (np nc : Bool) (a b c : Nat) : Nat × Flags :=
  let va := if np then (f.value a).negate else f.value a
  let vc := if nc then (f.value c).negate else f.value c
  f.finish mode.plain [a, b, c] (va.fma mode.plain (f.value b) vc)

/-- minimumNumber and maximumNumber (R161): the chosen operand's bits. -/
def Flt.pickNumber (f : Flt) (greater : Bool) (a b : Nat) : Nat × Flags :=
  let fl := f.snanFlag [a, b]
  if f.isNan a then (if f.isNan b then f.canonNan else b, fl)
  else if f.isNan b then (a, fl)
  else
    let va := f.value a
    let vb := f.value b
    let less := if va.eqv vb then f.sign a && !f.sign b else va.lt vb
    (if less != greater then a else b, fl)

/-- a with another sign (R162). -/
def Flt.withSign (f : Flt) (a : Nat) (neg : Bool) : Nat :=
  a % 2 ^ (f.exp + f.frac) + (if neg then 2 ^ (f.exp + f.frac) else 0)

/-- Conversion between binary formats (R163): `mode` applies to narrowing ones, exact ones never round. -/
def Flt.convert (src dst : Flt) (mode : Mode) (a : Nat) : Nat × Flags :=
  let o := dst.round mode (src.value a)
  (o.1, src.snanFlag [a] ||| o.2)

/-- `round_int(y, mode)` of a finite value: the integer and whether it is exact (R43). -/
def roundInt (mode : Mode) (neg : Bool) (m : Nat) (e : Int) : Int × Bool :=
  let r := roundAt mode neg m e 0
  (if neg then -(r.1 : Int) else r.1, r.2)

/-- `sat` into [lo, hi] (R26). -/
def satInt (lo hi v : Int) : Int := if v < lo then lo else if hi < v then hi else v

/-- Bounds of an n-bit integer type. -/
def intLo (signed : Bool) (n : Nat) : Int := if signed then -(2 ^ (n - 1) : Int) else 0
def intHi (signed : Bool) (n : Nat) : Int := if signed then 2 ^ (n - 1) - 1 else 2 ^ n - 1

/-- Conversion of an exact value to an integer type (R34). -/
def Num.toInt (mode : Mode) (signed : Bool) (n : Nat) : Num → Int × Flags
  | .nan => (0, fNV)
  | .inf neg => (if neg then intLo signed n else intHi signed n, fNV)
  | .fin neg m e =>
    let r := roundInt mode.plain neg m e
    let v := satInt (intLo signed n) (intHi signed n) r.1
    (v, if v ≠ r.1 then fNV else if r.2 then 0 else fNX)

/-- The exact value of an integer. -/
def Num.ofInt (v : Int) : Num := .fin (decide (v < 0)) v.natAbs 0

/-- Conversion of an integer to a binary format (R163). -/
def Flt.ofInt (f : Flt) (mode : Mode) (v : Int) : Nat × Flags := f.round mode.plain (Num.ofInt v)

/-- The class mask of R164. -/
def Flt.classify (f : Flt) (x : Nat) : Nat :=
  let neg := f.sign x
  if f.isSnan x then 2 ^ 8
  else if f.isNan x then 2 ^ 9
  else if f.expOf x = f.top then (if neg then 1 else 2 ^ 7)
  else if f.expOf x = 0 then
    (if f.fracOf x = 0 then (if neg then 2 ^ 3 else 2 ^ 4) else (if neg then 2 ^ 2 else 2 ^ 5))
  else (if neg then 2 else 2 ^ 6)

/-- The comparisons of R165: equal, less, less or equal; `quiet` raises NV for signalling NaNs only. -/
inductive Cmp where | eq | lt | le
  deriving DecidableEq, Repr

def Flt.compare (f : Flt) (c : Cmp) (a b : Nat) : Bool × Flags :=
  let va := f.value a
  let vb := f.value b
  match c with
  | .eq => (va.eqv vb, f.snanFlag [a, b])
  | .lt => (va.lt vb, if f.isNan a || f.isNan b then fNV else 0)
  | .le => (va.lt vb || va.eqv vb, if f.isNan a || f.isNan b then fNV else 0)

end Sys2Proof.Machine
end

