-- ==== Sys2Proof/Machine/Flags.lean ====
section
/-! DEFINITION. FCTL: the rounding mode an operation uses and the sticky flags it raises (R30, R31, R33, R158). -/

namespace Sys2Proof.Machine

/-- The mode FCTL.RM codes (R31); codes 5 to 7 are never stored (R30). -/
def Strand.rm (t : Strand) : Mode :=
  match (t.fctl >>> 5).toNat with
  | 0 => .rne
  | 1 => .rtz
  | 2 => .rdn
  | 3 => .rup
  | _ => .rod

/-- The mode of an instruction's rounding field (R158). -/
def Strand.mode? (t : Strand) : Rm → Mode
  | .rne => .rne
  | .rtz => .rtz
  | .rdn => .rdn
  | .rup => .rup
  | .rod => .rod
  | .dyn => t.rm

/-- Flags are sticky (R30). -/
def Strand.flag (t : Strand) (f : Flags) : Strand := { t with fctl := t.fctl ||| f.zeroExtend 8 }

/-- The issuing strand raises flags. -/
def State.flag (s : State) (f : Flags) : State := s.modMe fun t => t.flag f

/-- A write to FCTL: RM values 5 to 7 leave RM unchanged, the other fields are written (R30). -/
def Strand.writeFctl (t : Strand) (v : Word) : Strand :=
  let rm := v.extractLsb' 5 3
  { t with fctl := (if 5 ≤ rm.toNat then t.fctl.extractLsb' 5 3 else rm) ++ v.extractLsb' 0 5 }

/-- A scalar type code's format (R158). -/
def fmtOf : SFmt → Flt
  | .f64 => binary64
  | .f32 => binary32

/-- A lane type's format (R200). -/
def laneFmt : FLane → Flt
  | .f32 => binary32
  | .f16 => binary16
  | .bf16 => bfloat16

end Sys2Proof.Machine
end

