-- ==== Sys2Proof/Machine/Operands.lean ====
section
/-! DEFINITION. Operand forms: registers and queue ports (R113, R114, R143), the wait for bound registers (R248), the
completion of a register-only instruction, vector lanes and predicates (R192), and immediates. -/

namespace Sys2Proof.Machine

/-! ### Scalar operands -/

/-- A register of strand n is busy: its copy has not written a status word (R248). -/
def Core.busyReg (k : Core) (n : Nat) (r : Reg) : Bool :=
  k.copies.any fun c => c.strand == n % 16 && c.reg == r && c.busy

/-- A register of strand n is bound to a copy that has not retired (R248). -/
def Core.boundReg (k : Core) (n : Nat) (r : Reg) : Bool := k.copies.any fun c => c.strand == n % 16 && c.reg == r

/-- The distinct queues a list of fields names. -/
def Strand.ports (t : Strand) (rs : List Reg) : List Nat := (rs.filterMap t.port?).eraseDups

/-- Whether this instruction has already popped a queue. -/
def Strand.hasPopped (t : Strand) (q : Nat) : Bool := t.popped.any fun e => e.1 == q

/-- The lowest-numbered queue that blocks an instruction, and whether a push blocks (R113, R114). An instruction that
pops and pushes one queue pops first. -/
def State.blockedQueue (s : State) (srcs pushes : List Reg) : Option (Nat × Bool) :=
  let t := s.me
  let k := s.core s.cur.1
  let pop := t.ports srcs
  let push := t.ports pushes
  (List.range 4).findSome? fun q =>
    let n := (k.queue q).entries.length
    let pops := pop.contains q && !t.hasPopped q
    if pops && n == 0 then some (q, false)
    else if push.contains q && 16 ≤ k.queueUse q s.cur.2 - (if pops then 1 else 0) then some (q, true)
    else none

/-- Why the issuing strand's instruction cannot issue yet: it reads a busy register, writes a bound one, or a queue
port blocks it (R100, R113, R248). `pushes` are destinations pushed at issue, `writes` all destinations. -/
def State.blocked (s : State) (srcs pushes writes : List Reg) : Option StallWhy :=
  let t := s.me
  let k := s.core s.cur.1
  if srcs.any fun r => (t.port? r).isNone && k.busyReg s.cur.2 r then some .other
  else if writes.any fun r => (t.port? r).isNone && k.boundReg s.cur.2 r then some .bound
  else match s.blockedQueue srcs pushes with
    | some (q, push) => some (.queue q push)
    | none => none

/-- An instruction takes effect only when its operands are available; else its slot is empty (R100). -/
def State.gate (s : State) (srcs pushes writes : List Reg) (go : Out) : Out :=
  match s.blocked srcs pushes writes with
  | some w => .next (s.wait w)
  | none => go

/-- The value of a source field of the issuing strand: what the instruction popped or read at its issue, a queue's head, or the
register (R113, R220). -/
def State.read (s : State) (r : Reg) : Word :=
  match s.me.port? r with
  | some q => match s.me.popped.find? fun e => e.1 == q with
    | some e => e.2
    | none => ((s.core s.cur.1).queue q).entries.headD 0
  | none => match if s.me.rerun then s.me.scalars.find? fun e => e.1 == r else none with
    | some e => e.2
    | none => s.me.greg r

/-- Write a destination of the issuing strand: a push under QMAP. -/
def State.write (s : State) (r : Reg) (v : Word) : State := s.writeG s.cur.1 s.cur.2 r v

/-- Pop one queue for the issuing instruction and record the entry. -/
def State.popOne (s : State) (q : Nat) : State :=
  if s.me.hasPopped q then s
  else
    let v := ((s.core s.cur.1).queue q).entries.headD 0
    (s.modCore s.cur.1 fun k => k.popQueue q).modMe fun t => { t with popped := t.popped ++ [(q, v)] }

/-- Pop every queue the source fields name, once each (R113). -/
def State.pops (s : State) (srcs : List Reg) : State := (s.me.ports srcs).foldl State.popOne s

/-- A register-only instruction: sources `srcs`, destination `d` with value `v` (R142, R143). -/
def State.result (s : State) (srcs : List Reg) (d : Reg) (v : Word) : Out :=
  s.gate srcs [d] [d] (.next (((s.pops srcs).write d v).retire .on))

/-- The same with flags raised (R158). -/
def State.resultFlags (s : State) (srcs : List Reg) (d : Reg) (v : Nat × Flags) : Out :=
  s.gate srcs [d] [d] (.next ((((s.pops srcs).write d (BitVec.ofNat 64 v.1)).flag v.2).retire .on))

/-- One operand. -/
def op1 (s : State) (d a : Reg) (f : Word → Word) : Out := s.result [a] d (f (s.read a))

/-- Two operands. -/
def op2 (s : State) (d a b : Reg) (f : Word → Word → Word) : Out := s.result [a, b] d (f (s.read a) (s.read b))

/-- Sign extension of an immediate or a 32-bit result. -/
def sext64 {n : Nat} (v : BitVec n) : Word := v.signExtend 64

/-- The low 32 bits of a value, sign-extended. -/
def sextW (v : Word) : Word := (v.truncate 32).signExtend 64

/-- 1 or 0. -/
def ofBool (b : Bool) : Word := if b then 1 else 0

/-- A value as a signed integer. -/
def sint (v : Word) : Int := v.toInt

/-! ### Vector lanes (R192) -/

/-- Lane width in bytes of an integer lane type. -/
def laneBytes : LaneTy → Nat
  | .i8 => 1
  | .w8 => 1
  | .i16 => 2
  | .w16 => 2
  | .i32 => 4
  | .w32 => 4

/-- Whether an integer lane type is signed. -/
def laneSigned : LaneTy → Bool
  | .i8 => true
  | .i16 => true
  | .i32 => true
  | _ => false

/-- Lane width in bytes of a float lane type. -/
def flaneBytes : FLane → Nat
  | .f32 => 4
  | _ => 2

/-- Lane i of w bytes. -/
def vlane (v : VReg) (w i : Nat) : Nat := v.toNat / 2 ^ (8 * w * i) % 2 ^ (8 * w)

/-- Lane i as a signed or unsigned integer. -/
def vlaneInt (v : VReg) (w : Nat) (signed : Bool) (i : Nat) : Int :=
  let x := vlane v w i
  if signed && 2 ^ (8 * w - 1) ≤ x then (x : Int) - 2 ^ (8 * w) else x

/-- A register from its lanes, lane 0 first; each is taken modulo the lane width. -/
def ofLanes (w : Nat) : List Nat → Nat
  | [] => 0
  | x :: r => x % 2 ^ (8 * w) + 2 ^ (8 * w) * ofLanes w r

/-- An integer as a lane's bits. -/
def laneOfInt (w : Nat) (x : Int) : Nat := (x % 2 ^ (8 * w)).toNat

/-- Whether lane i of w bytes is active under a predicate (R192). -/
def active (p : Word) (w i : Nat) : Bool := p.getLsbD (i * w)

/-- A destination register of 64 / w lanes: active lanes take `f i`, inactive ones become zero under Z or keep
their old value (R192). -/
def vbuild (w : Nat) (p : Word) (z : Bool) (old : VReg) (f : Nat → Nat) : VReg :=
  BitVec.ofNat 512 (ofLanes w ((List.range (64 / w)).map fun i =>
    if active p w i then f i else if z then 0 else vlane old w i))

/-- The flags of the active lanes (R33, R192). -/
def vflags (w : Nat) (p : Word) (f : Nat → Flags) : Flags :=
  (List.range (64 / w)).foldl (fun a i => if active p w i then a ||| f i else a) 0

/-- The issuing strand's vector and predicate operands. -/
def State.rv (s : State) (r : Reg) : VReg := s.me.vreg r
def State.rp (s : State) (p : Pred) : Word := s.me.preg p

/-- A vector instruction without scalar operands completes with its destination and flags (R193). -/
def State.vresult (s : State) (d : Reg) (v : VReg) (fl : Flags) : Out :=
  .next (((s.modMe fun t => t.setVreg d v).flag fl).retire .on)

/-- The low bits of a field that name a predicate (R125). -/
def predOf (r : Reg) : Pred := r.truncate 3

/-- A predicate instruction completes. -/
def State.presult (s : State) (d : Pred) (v : Word) (fl : Flags) : Out :=
  .next (((s.modMe fun t => t.setPreg d v).flag fl).retire .on)

end Sys2Proof.Machine
end

