-- ==== Sys2Proof/Machine/Advent.lean ====
section
/-! DEFINITION. The advent table as a graph (R212 to R216, R232, R233, R236, R243 to R245): which nodes a node uses, what
a demand needs, and how nodes and values leave. -/

namespace Sys2Proof.Machine

/-! ### Kinds and shapes -/

/-- Source nodes are views and weight nodes (R213). -/
def NodeKind.isSource : NodeKind → Bool
  | .view => true
  | .twload => true
  | _ => false

/-- The shape of a computed node (R213). -/
def NodeKind.shape : NodeKind → Nat × Nat
  | .tred k => if k % 2 = 0 then (32, 1) else (1, 32)
  | _ => (32, 32)

/-- The KIND field of `tquery` (R234). -/
def NodeKind.code : NodeKind → Nat
  | .view => 0
  | .twload => 1
  | .tmma _ => 2
  | .tadd => 3
  | .tmulw => 3
  | .tscale => 3
  | .tact _ => 3
  | .tcvt => 4
  | .tred _ => 5
  | .tmask => 6

/-- The STATE field of `tquery` (R234). -/
def NodeState.code : NodeState → Nat
  | .pending => 1
  | .demanded => 2
  | .evaluating => 3
  | .done => 4
  | .faulted => 5

/-- A bitmap with the n low bits set. -/
def lowBits (n : Nat) : BitVec 32 := BitVec.ofNat 32 (2 ^ n - 1)

/-- DX format codes (R25). -/
def isDxCode (c : Nat) : Bool := 0x20 ≤ c && c ≤ 0x22

/-! ### Nodes of a core -/

def Core.node? (k : Core) (i : Nat) : Option Node := (k.nodes.find? fun e => e.1 == i).map Prod.snd
def Core.setNode (k : Core) (i : Nat) (v : Node) : Core := { k with nodes := assign i v k.nodes }
def Core.modNode (k : Core) (i : Nat) (f : Node → Node) : Core :=
  match k.node? i with
  | none => k
  | some v => k.setNode i (f v)
def Core.dropNode (k : Core) (i : Nat) : Core := { k with nodes := unassign i k.nodes }

/-- The lowest-numbered free entry of the 96 (R215). -/
def Core.freeNode (k : Core) : Option Nat := (List.range 96).find? fun i => (k.node? i).isNone

/-- The nodes a strand holds: every node of its in the table (R215; a DONE computed node is not in the table). -/
def Core.heldNodes (k : Core) (n : Nat) : List (Nat × Node) := k.nodes.filter fun e => e.2.owner == n % 16

/-- A strand's quota (R282). -/
def Core.quota (k : Core) (n : Nat) : Nat :=
  let i := n % 16
  if i < 8 then k.advq.toNat / 2 ^ (8 * i) % 256 else k.advqh.toNat / 2 ^ (8 * (i - 8)) % 256

/-- Whether a node is used by a computed node; those in the table are not final (R216, R304). -/
def Core.nodeUsed (k : Core) (i : Nat) : Bool :=
  k.nodes.any fun e => !e.2.kind.isSource && e.2.sources.any fun x => x == .node i

/-- Whether a bank's value is read by a computed node of strand n. -/
def Core.valueUsed (k : Core) (n b : Nat) : Bool :=
  k.nodes.any fun e => e.2.owner == n % 16 && !e.2.kind.isSource && (e.2.bank == some b || e.2.sources.any fun x => match x with
    | .value b' _ _ _ => b' == b
    | .node _ => false)

/-- Whether some handle of the core names a node. -/
def Core.nodeNamed (k : Core) (i : Nat) : Bool := k.strands.toList.any fun t => t.m.toList.any fun h => h == .node i

/-- Whether a handle of strand n names a bank's value. -/
def Core.valueNamed (k : Core) (n b : Nat) : Bool := (k.strand n).m.toList.any fun h => match h with
  | .value b' _ _ _ _ _ => b' == b
  | _ => false

/-- Whether a bank carries the tag of a strand of a core (R68, R240). -/
def Core.owns (k : Core) (c n : Nat) (b : Bank) : Bool :=
  b.tag == some { ctx := k.pctx.toNat, core := c % 4, strand := n % 16 }

/-! ### Locks of nodes and copies -/

/-- The homes at which a range is registered beside the issuing core's own table, in ascending order (R69). -/
def State.lockHomes (s : State) (c : Nat) (place : Place) (base len : Nat) : List Home :=
  match place with
  | .pad t => if t = c then [] else [.pad t]
  | .virt p =>
      (sortBy id ((linesOf base len).map fun l => s.homeSlice p l).eraseDups).map Home.slice

/-- Free a lock: at once in the core's own table, and by release messages at remote homes (R73). -/
def State.releaseLock (s : State) (c id : Nat) : State :=
  match (s.core c).locks.find? fun e => e.id == id with
  | none => s
  | some e =>
    let hs := s.lockHomes c e.place e.base e.len
    (s.modCore c fun k => { k with locks := k.locks.filter fun e => e.id != id }).posts
      (hs.map fun h => Event.lockRelease h c id)

/-! ### Leaving the table (R216, R243 to R245) -/

/-- Bank b of a cluster, of the eight (R68). -/
def Cluster.bank (cl : Cluster) (b : Nat) : Bank := cl.banks[b % 8]'(Nat.mod_lt _ (by decide))
def Cluster.setBank (cl : Cluster) (b : Nat) (v : Bank) : Cluster :=
  { cl with banks := cl.banks.set (b % 8) v (Nat.mod_lt _ (by decide)) }

/-- Strand n releases a bank unless a value or node of it still needs the bank: the tag is cleared, where it is the strand's
own (R240, R245). -/
def State.freeBank (s : State) (c n b : Nat) : State :=
  let k := s.core c
  if k.valueUsed n b || k.valueNamed n b || !k.owns c n ((s.cluster (clusterOf c)).bank b) then s
  else s.modCluster (clusterOf c) fun cl => cl.setBank b { cl.bank b with tag := none }

/-- Free the weight slot of a core's node (R244). -/
def State.freeSlot (s : State) (c i : Nat) : State :=
  s.modCluster (clusterOf c) fun cl => { cl with slots := cl.slots.filter fun e => !(e.2.1 == c && e.2.2.1 == i) }

/-- A node leaves the table, with its lock, slot and bank; sources that nothing names or uses any more leave after it.
Fuel: the number of nodes. -/
def State.leave (c : Nat) : Nat → Nat → State → State
  | 0, _, s => s
  | fuel + 1, i, s =>
    match (s.core c).node? i with
    | none => s
    | some v =>
      let s := match v.lock with
        | some id => s.releaseLock c id
        | none => s
      let s := (s.modCore c fun k => k.dropNode i).freeSlot c i
      let s := match v.bank with
        | some b => s.freeBank c v.owner b
        | none => s
      v.sources.foldl (fun s x => match x with
        | .node j => if (s.core c).nodeNamed j || (s.core c).nodeUsed j then s else State.leave c fuel j s
        | .value b _ _ _ => s.freeBank c v.owner b) s

/-- A node that no handle names and no computed node uses leaves (R216). -/
def State.reconsider (s : State) (c i : Nat) : State :=
  if (s.core c).nodeNamed i || (s.core c).nodeUsed i then s else s.leave c 100 i

/-- The old content of a handle of strand n is released once the handle no longer holds it (R245). -/
def State.releaseHandle (s : State) (c n : Nat) : Handle → State
  | .empty => s
  | .node i => s.reconsider c i
  | .value b _ _ _ _ _ => s.freeBank c n b

/-- Set a handle of a strand and release what it named (R245). -/
def State.putHandle (s : State) (c n : Nat) (m : Tile) (h : Handle) : State :=
  let old := (s.strand c n).handle m
  (s.modStrand c n fun t => t.setHandle m h).releaseHandle c n old

/-- Replace references to a node by references to its value (R216, R243). -/
def Core.settle (k : Core) (i : Nat) (x : Source) : Core :=
  { k with nodes := k.nodes.map fun e =>
      (e.1, { e.2 with sources := e.2.sources.map fun y => if y == .node i then x else y }) }

/-- The bank of a node: its own, or its accumulator source's in an in-place chain. Fuel: the chain's length. -/
def Core.bankOf (k : Core) : Nat → Node → Option Nat
  | 0, v => v.bank
  | fuel + 1, v =>
    match v.bank with
    | some b => some b
    | none =>
      if !v.inPlace then none
      else match v.sources[2]? with
        | some (Source.value b _ _ _) => some b
        | some (Source.node j) => match k.node? j with
          | some u => k.bankOf fuel u
          | none => none
        | none => none

/-- A computed node is fully materialised: it leaves the table, its handle becomes a VALUE, its readers read the value,
and an in-place consumer keeps the bank (R216, R236, R243). -/
def State.nodeDone (s : State) (c i : Nat) : State :=
  match (s.core c).node? i with
  | none => s
  | some v =>
    let b := ((s.core c).bankOf 96 v).getD 0
    let sh := v.kind.shape
    let s := s.modCore c fun k => (k.settle i (.value b v.fmt sh.1 sh.2)).dropNode i
    let s := s.modStrand c v.owner fun t =>
      { t with m := t.m.map fun h => if h == .node i then .value b v.fmt sh.1 sh.2 v.kind.code v.pc else h }
    let s := s.freeBank c v.owner b
    v.sources.foldl (fun s x => match x with
      | .node j => s.reconsider c j
      | .value b' _ _ _ => if b' = b then s else s.freeBank c v.owner b') s

/-! ### Demands (R232, R233) -/

/-- A region of rows and columns. -/
structure Region where
  rows : BitVec 32
  cols : BitVec 32
  deriving DecidableEq, Repr

/-- The demand widened as the node's kind requires and cut to its shape: whole rows for a conversion to DX (R226). -/
def Node.clip (v : Node) (r : Region) : Region :=
  let sh := v.kind.shape
  let rows := r.rows &&& lowBits sh.1
  let cols := r.cols &&& lowBits sh.2
  if rows = 0 || cols = 0 then ⟨0, 0⟩
  else if v.kind = .tcvt && isDxCode v.fmt then ⟨rows, lowBits 32⟩ else ⟨rows, cols⟩

/-- The rows and columns of the positions a demand adds to the materialised product (R233); zero when it adds none. -/
def Node.fresh (v : Node) (r : Region) : Region :=
  let r := v.clip r
  if r.rows = 0 then ⟨0, 0⟩
  else
    let nr := r.rows &&& ~~~v.rmat
    let nc := r.cols &&& ~~~v.cmat
    if nr = 0 && nc = 0 then ⟨0, 0⟩
    else ⟨if nc = 0 then nr else v.rmat ||| r.rows, if nr = 0 then nc else v.cmat ||| r.cols⟩

/-- Elements in a 32-byte K block of an operand format (R46). -/
def kBlock (fmt : Nat) : Nat := if fmt = 0x21 then 32 else if fmt = 0x22 then 64 else 16

/-- The enabled depth elements of a `tmma` node in ascending order (R224); the node's map holds the operand format. -/
def Node.depthOn (v : Node) : List Nat :=
  let e := kBlock v.map.fmt
  let kbeg := (v.depth.extractLsb' 0 9).toNat
  let kend := (v.depth.extractLsb' 16 9).toNat
  (List.range (6 * e)).filter fun k => kbeg ≤ k && k < kend && v.depth.getLsbD (32 + k / e)

/-- What new rows and columns of a node demand of its sources, in order (R232); a computed operand of `tmma` supplies
the enabled depth elements below 32 (R224). -/
def Node.pulls (v : Node) (n : Region) : List Region :=
  let all := lowBits 32
  match v.kind with
  | .view => []
  | .twload => []
  | .tmma acc =>
    let ks : BitVec 32 := v.depthOn.foldl (fun m k => if k < 32 then m ||| BitVec.ofNat 32 (2 ^ k) else m) 0
    [⟨n.rows &&& v.rowMask, ks⟩, ⟨ks, n.cols &&& v.colMask⟩] ++ (if acc then [n] else [])
  | .tcvt => [if isDxCode v.fmt then ⟨n.rows, all⟩ else n]
  | .tmask =>
    let r := n.rows &&& v.mask.extractLsb' 0 32
    let c := n.cols &&& v.mask.extractLsb' 32 32
    [⟨r, c⟩]
  | .tred k => [if k % 2 = 0 then ⟨n.rows, all⟩ else ⟨all, n.cols⟩]
  | _ => [n, n]

/-- Unite a demand on a node into a list of demands. -/
def addDemand (ds : List (Nat × Region)) (i : Nat) (r : Region) : List (Nat × Region) :=
  if r.rows = 0 || r.cols = 0 then ds
  else match ds.find? fun e => e.1 == i with
    | none => (i, r) :: ds
    | some e => (i, ⟨e.2.rows ||| r.rows, e.2.cols ||| r.cols⟩) :: ds.filter fun e => e.1 != i

/-- Nodes by descending AGE number: a node comes before every node it reads (R214). -/
def Core.youngestFirst (k : Core) : List (Nat × Node) := (sortBy (fun e => e.2.age) k.nodes).reverse

/-- The work of a set of demands in ascending AGE (R232, R235). A FAULTED node and an unfetched weight node stand in it
with no region. -/
def Core.plan (k : Core) (ds : List (Nat × Region)) : List Work :=
  (k.youngestFirst.foldl (fun (a : List (Nat × Region) × List Work) e =>
    match a.1.find? fun d => d.1 == e.1 with
    | none => a
    | some (_, r) =>
      if e.2.state = .faulted then (a.1, { node := e.1, rows := 0, cols := 0 } :: a.2)
      else match e.2.kind with
        | .view => a
        | .twload => if e.2.state = .done then a else (a.1, { node := e.1, rows := 0, cols := 0 } :: a.2)
        | _ =>
          let c := e.2.clip r
          let f := e.2.fresh r
          if f.rows = 0 then a
          else
            let ds := (e.2.sources.zip (e.2.pulls f)).foldl (fun ds p => match p.1 with
              | .node j => addDemand ds j p.2
              | .value _ _ _ _ => ds) a.1
            (ds, { node := e.1, rows := c.rows, cols := c.cols } :: a.2)) (ds, [])).2

/-- The whole shape of a node, as a demand (R237, R238). -/
def Node.whole (v : Node) : Region := ⟨lowBits v.kind.shape.1, lowBits v.kind.shape.2⟩

/-- Whether a source node's range lock is one of the given ones. -/
def Node.locked (v : Node) (locks : List Nat) : Bool :=
  match v.lock with
  | some id => locks.contains id
  | none => false

/-- Whether a source is one of the given nodes. -/
def Source.isOneOf (x : Source) (nodes : List (Nat × Node)) : Bool :=
  match x with
  | .node j => nodes.any fun y => y.1 == j
  | .value _ _ _ _ => false

/-- The demands of a write over views of the strand: every computed node that reads one directly, whole (R238). -/
def Core.forced (k : Core) (locks : List Nat) : List (Nat × Region) :=
  let srcs := k.nodes.filter fun e => e.2.locked locks
  (k.nodes.filter fun e => !e.2.kind.isSource && e.2.sources.any fun x => x.isOneOf srcs).map fun e => (e.1, e.2.whole)

/-- The source nodes of a write's views leave as DONE once nothing is left to force: their handles become EMPTY (R238). -/
def State.retireViews (s : State) (c : Nat) (locks : List Nat) : State :=
  let srcs := ((s.core c).nodes.filter fun e => e.2.locked locks).map Prod.fst
  srcs.foldl (fun s i =>
    let s := s.modCore c fun k => { k with strands := k.strands.map fun t =>
      { t with m := t.m.map fun h => if h == .node i then .empty else h } }
    s.leave c 100 i) s

/-- The nodes of a strand's abandoned demand become PENDING again (R242). -/
def Core.abandon (k : Core) (n : Nat) : Core :=
  { k with nodes := k.nodes.map fun e =>
      if e.2.owner == n % 16 && (e.2.state == .demanded || e.2.state == .evaluating)
      then (e.1, { e.2 with state := .pending }) else e }

/-- A strand's staged steps leave the array's requests. -/
def State.unstage (s : State) (c n : Nat) : State :=
  s.modCluster (clusterOf c) fun cl => { cl with requests := cl.requests.filter fun r => !(r.1 == c && r.2 == n % 16) }

/-- The fault trap of a demand that reaches a FAULTED node (R239). -/
def faultTval (i : Nat) (cause : Cause) : Word := BitVec.ofNat 64 (causeCode cause * 256 + i)

end Sys2Proof.Machine
end

