-- ==== Sys2Proof/Machine/Dx.lean ====
section
/-! DEFINITION. DX and MX blocks (R35 to R42) and the exact block products of R46. -/

namespace Sys2Proof.Machine

/-! ### DX (R35 to R38) -/

/-- A DX width: 16, 8 or 4 bits an element. -/
structure Dx where
  bits : Nat
  deriving DecidableEq, Repr

def d16 : Dx := ⟨16⟩
def d8 : Dx := ⟨8⟩
def d4 : Dx := ⟨4⟩

/-- Magnitude width w = b - 2. -/
def Dx.w (x : Dx) : Nat := x.bits - 2
/-- Largest magnitude. -/
def Dx.mmax (x : Dx) : Nat := 2 ^ x.w - 1

/-- `from_dx(e, E0, E1, fmt)` (R35, R37). -/
def Dx.value (x : Dx) (el e0 e1 : Nat) : Num :=
  let sel := el / 2 ^ (x.bits - 1) % 2
  let s := el / 2 ^ (x.bits - 2) % 2
  let m := el % 2 ^ x.w
  let e := if sel = 1 then e1 else e0
  if e = 0xFF then .nan
  else if m = 0 then .fin false 0 0
  else .fin (s == 1) m ((e : Int) - 127 - (x.w - 1 : Nat))

/-- Element i of a block held as one little-endian number (R36). -/
def Dx.elem (x : Dx) (blk i : Nat) : Nat := blk / 2 ^ (i * x.bits) % 2 ^ x.bits

def Num.isNan : Num → Bool
  | .nan => true
  | _ => false

def Num.isInf : Num → Bool
  | .inf _ => true
  | _ => false

/-- The magnitude of a value. -/
def Num.abs : Num → Num
  | .nan => .nan
  | .inf _ => .inf false
  | .fin _ m e => .fin false m e

def Num.signBit : Num → Bool
  | .nan => false
  | .inf n => n
  | .fin n _ _ => n

/-- The largest magnitude of a list of values; zero for none. -/
def maxAbs (xs : List Num) : Num :=
  xs.foldl (fun a x => if a.lt x.abs then x.abs else a) (.fin false 0 0)

/-- The scale pair of `to_dx` and its flags: the first half of R38. -/
def Dx.scales (x : Dx) (xs : List Num) : Nat × Nat × Flags :=
  if xs.any Num.isNan then (0xFF, 0xFF, fNV)
  else
    let e0 := match maxAbs xs with
      | .nan => 0xFF
      | .inf _ => 254
      | .fin _ m e => if m = 0 then 0 else (min (max (e + Nat.log2 m + 127) 0) 254).toNat
    (e0, e0 - x.w, 0)

/-- round_int(|v| * 2^(127 + f - E)) and whether it is exact (R38). -/
def Dx.scaled (x : Dx) (mode : Mode) (m : Nat) (e : Int) (scale : Nat) : Nat × Bool :=
  roundAt mode false m (e + (127 + (x.w - 1 : Nat)) - scale) 0

/-- One element under a given scale pair, neither scale NaN unless only E1 is (R38, R207). -/
def Dx.encodeOne (x : Dx) (mode : Mode) (e0 e1 : Nat) (v : Num) : Nat × Flags :=
  let place (sel : Nat) (neg : Bool) (m : Nat) : Nat :=
    sel * 2 ^ (x.bits - 1) + (if neg && m != 0 then 2 ^ (x.bits - 2) else 0) + m
  match v with
  | .nan => (0, fNV)
  | .inf n => (place 0 n x.mmax, fOF ||| fNX)
  | .fin n m e =>
    let r1 := x.scaled mode m e e1
    if e1 != 0xFF && r1.1 ≤ x.mmax then (place 1 n r1.1, if r1.2 then 0 else fNX)
    else
      let r0 := x.scaled mode m e e0
      if x.mmax < r0.1 then (place 0 n x.mmax, fNX) else (place 0 n r0.1, if r0.2 then 0 else fNX)

/-- A block as one number, from its elements. -/
def packElems (bits : Nat) (els : List Nat) : Nat := els.foldr (fun e a => e % 2 ^ bits + 2 ^ bits * a) 0

/-- The element loop of `to_dx` under a given scale pair: all elements zero under E0 = 0xFF, where a NaN raises NV as in any
conversion to DX (R33, R38, R207). -/
def Dx.encode (x : Dx) (mode : Mode) (e0 e1 : Nat) (xs : List Num) : Nat × Flags :=
  if e0 = 0xFF then (0, if xs.contains .nan then fNV else 0)
  else
    let rs := xs.map (x.encodeOne mode e0 e1)
    (packElems x.bits (rs.map Prod.fst), rs.foldl (fun a r => a ||| r.2) 0)

/-- `to_dx` (R38): the block, E0, E1 and the flags. -/
def Dx.ofValues (x : Dx) (mode : Mode) (xs : List Num) : Nat × Nat × Nat × Flags :=
  let sc := x.scales xs
  if sc.1 = 0xFF then (0, 0xFF, 0xFF, sc.2.2)
  else
    let b := x.encode mode sc.1 sc.2.1 xs
    (b.1, sc.1, sc.2.1, b.2)

/-! ### MX (R40 to R42) -/

/-- An MX format: element bits, exponent and fraction widths (no exponent field for MXINT8), bias and emax (R40). -/
structure Mx where
  bits : Nat
  exp : Nat
  frac : Nat
  bias : Nat
  emax : Nat
  deriving DecidableEq, Repr

def e4m3 : Mx := ⟨8, 4, 3, 7, 8⟩
def e5m2 : Mx := ⟨8, 5, 2, 15, 15⟩
def e2m3 : Mx := ⟨6, 2, 3, 1, 2⟩
def e3m2 : Mx := ⟨6, 3, 2, 3, 4⟩
def e2m1 : Mx := ⟨4, 2, 1, 1, 2⟩
def mxi8 : Mx := ⟨8, 0, 6, 0, 0⟩

/-- The element value before the scale (R40). -/
def Mx.raw (x : Mx) (el : Nat) : Num :=
  if x.exp = 0 then
    let neg := 128 ≤ el
    .fin (neg && true) (if neg then 256 - el else el) (-6)
  else
    let s := el / 2 ^ (x.bits - 1) % 2 == 1
    let e := el / 2 ^ x.frac % 2 ^ x.exp
    let m := el % 2 ^ x.frac
    if x = e4m3 && e = 15 && m = 7 then .nan
    else if x = e5m2 && e = 31 then (if m = 0 then .inf s else .nan)
    else if e = 0 then .fin s m (1 - (x.bias : Int) - x.frac)
    else .fin s (2 ^ x.frac + m) ((e : Int) - x.bias - x.frac)

/-- `from_mx(e, X, fmt)` (R41). -/
def Mx.value (x : Mx) (el sc : Nat) : Num :=
  if sc = 0xFF then .nan
  else match x.raw el with
    | .nan => .nan
    | .inf s => .inf s
    | .fin s m e => .fin s m (e + sc - 127)

/-- Element i of a packed block. -/
def Mx.elem (x : Mx) (blk i : Nat) : Nat := blk / 2 ^ (i * x.bits) % 2 ^ x.bits

/-- The bits of the largest finite element magnitude (R40). -/
def Mx.maxElem (x : Mx) : Nat :=
  if x.exp = 0 then 127
  else if x = e4m3 then 0x7E
  else if x = e5m2 then 0x7B
  else 2 ^ (x.bits - 1) - 1

/-- One element, already divided by the scale, rounded into the element format and saturated (R42), with the flags of R33:
UF for an inexact element that is tiny after rounding; MXINT8 has no normal range, so that only one that rounds to zero is
(log 44). -/
def Mx.encodeOne (x : Mx) (mode : Mode) (v : Num) : Nat × Flags :=
  let sgn (n : Bool) (m : Nat) : Nat :=
    if x.exp = 0 then (if n then (256 - m) % 256 else m) else (if n then 2 ^ (x.bits - 1) else 0) + m
  match v with
  | .nan => (0, fNV)
  | .inf n => (sgn n x.maxElem, fOF ||| fNX)
  | .fin n m e =>
    if m = 0 then (sgn n 0, 0)
    else
      let low : Int := if x.exp = 0 then -6 else 1 - (x.bias : Int) - x.frac
      let q : Int := if x.exp = 0 then -6 else max (e + Nat.log2 m - x.frac) low
      let r := roundAt mode n m e q
      let bits := (q - low).toNat * 2 ^ x.frac + r.1
      let ef := if x.exp = 0 then r.1 else bits
      let top : Int := e + Nat.log2 m - x.frac
      let tiny := if x.exp = 0 then r.1 == 0
        else decide (top + Nat.log2 (max (roundAt mode n m e top).1 1) < 1 - (x.bias : Int))
      if x.maxElem < ef then (sgn n x.maxElem, fNX)
      else (sgn n ef, if r.2 then 0 else if tiny then fNX ||| fUF else fNX)

/-- `to_mx` (R42): the packed block, X and the flags. -/
def Mx.ofValues (x : Mx) (mode : Mode) (xs : List Num) : Nat × Nat × Flags :=
  if xs.any Num.isNan then (0, 0xFF, fNV)
  else
    let sc : Nat := match maxAbs xs with
      | .nan => 0xFF
      | .inf _ => (min (max ((127 : Int) - x.emax + 127) 0) 254).toNat
      | .fin _ m e => if m = 0 then 0 else (min (max (e + Nat.log2 m - x.emax + 127) 0) 254).toNat
    let rs := xs.map fun v => x.encodeOne mode (match v with
      | .fin s m e => .fin s m (e - sc + 127)
      | w => w)
    (packElems x.bits (rs.map Prod.fst), sc, rs.foldl (fun a r => a ||| r.2) 0)

/-! ### Exact sums of products (R46) -/

/-- The exact sum of finite values. -/
def exactSum (xs : List Num) : Num :=
  xs.foldl (fun a x => (a.add .rne x).1) (.fin false 0 0)

/-- One step of the loop of R46: accumulator c (binary32 bits) and the factor pairs of one K block. The flags are those
`vdxdot` raises (R209): NX, OF and UF as the rounding requires (R33; that R209 does not name UF is log 44's), NV where it
turns a number into NaN or c is a signalling NaN (R33). -/
def blockStep (c : Nat) (ps : List (Num × Num)) : Nat × Flags :=
  let cv := binary32.value c
  let prods := ps.map fun p => p.1.mul p.2
  let pos := prods.any fun p => p.1 == .inf false
  let neg := prods.any fun p => p.1 == .inf true
  if cv.isNan then (binary32.canonNan, if binary32.isSnan c then fNV else 0)
  else if (ps.any fun p => p.1.isNan || p.2.isNan) || (prods.any fun p => p.2 != 0) || (pos && neg)
      || (cv == .inf false && neg) || (cv == .inf true && pos) then (binary32.canonNan, fNV)
  else if pos then (binary32.infBits false, 0)
  else if neg then (binary32.infBits true, 0)
  else if cv.isInf then (c, 0)
  else
    match exactSum (prods.map Prod.fst) with
    | .fin n m e =>
      if m = 0 then (c, 0)
      else binary32.round .rne ((cv.add .rne (.fin n m e)).1)
    | _ => (c, 0)

/-- The loop of R46 over K blocks. -/
def blockLoop (c : Nat) (blocks : List (List (Num × Num))) : Nat :=
  blocks.foldl (fun c b => (blockStep c b).1) c

end Sys2Proof.Machine
end

