-- ==== Sys2Proof/Machine/Fun.lean ====
section
/-! DEFINITION. The special functions (R210) and activations (R225): the exact value to several hundred bits, the
correctly rounded result of 16-bit lanes, and the set of binary32 results within the bound, of which an opaque constant
names one (log 7). -/

namespace Sys2Proof.Machine

/-! ### Fixed point -/

/-- Fraction bits of the fixed-point work. -/
def fxBits : Nat := 768
def fxOne : Int := 2 ^ fxBits
/-- Product of fixed-point numbers. -/
def fxMul (a b : Int) : Int := a * b / fxOne
/-- Quotient of fixed-point numbers. -/
def fxDiv (a b : Int) : Int := a * fxOne / b

/-- The sum of x^(2k+1) / (2k+1), k below fuel: `atanh x`; with alternating signs `atan x`. -/
def oddSeries (alt : Bool) (x2 : Int) : Nat → Nat → Int → Int
  | 0, _, _ => 0
  | fuel + 1, k, p =>
    let t := p / (2 * k + 1 : Nat)
    (if alt && k % 2 == 1 then -t else t) + oddSeries alt x2 fuel (k + 1) (fxMul p x2)

def atanhFx (x : Int) : Int := oddSeries false (fxMul x x) 400 0 x
def atanFx (x : Int) : Int := oddSeries true (fxMul x x) 400 0 x

/-- ln 2 = 2 atanh (1/3). -/
def ln2Fx : Int := 2 * atanhFx (fxOne / 3)
/-- pi = 16 atan (1/5) - 4 atan (1/239). -/
def piFx : Int := 16 * atanFx (fxOne / 5) - 4 * atanFx (fxOne / 239)

/-- The sum of x^k / k!. -/
def expSeries (x : Int) : Nat → Nat → Int → Int
  | 0, _, _ => 0
  | fuel + 1, k, t => t + expSeries x fuel (k + 1) (fxMul t x / (k + 1 : Nat))

/-- e^x of a fixed-point x in [0, 1). -/
def expFx (x : Int) : Int := expSeries x 200 0 fxOne

/-- An approximate nonzero real: (-1)^neg * m * 2^e, within a relative error far below any rounding boundary. -/
structure Near where
  neg : Bool
  m : Nat
  e : Int
  deriving DecidableEq, Repr

/-- A fixed-point number as an approximate real. -/
def Near.ofFx (v : Int) : Near := ⟨decide (v < 0), v.natAbs, -(fxBits : Int)⟩

/-- 2^t of a fixed-point t. -/
def exp2Near (t : Int) : Near :=
  let n := t / fxOne
  ⟨false, (expFx (fxMul (t % fxOne) ln2Fx)).toNat, n - (fxBits : Int)⟩

/-- A finite exact value as fixed point (bits below the last are dropped). -/
def toFx (neg : Bool) (m : Nat) (e : Int) : Int :=
  let v : Int := if 0 ≤ e + fxBits then (m * 2 ^ (e + fxBits).toNat : Nat) else (m / 2 ^ (-(e + fxBits)).toNat : Nat)
  if neg then -v else v

/-- An approximate real as fixed point. -/
def Near.fx (x : Near) : Int := toFx x.neg x.m x.e

/-- e^t of a fixed-point t. -/
def expNear (t : Int) : Near := exp2Near (fxDiv t ln2Fx)

/-- log2 of m * 2^e, m > 0. -/
def log2Fx (m : Nat) (e : Int) : Int :=
  let k := Nat.log2 m
  let x := toFx false m (-(k : Int))
  (e + k) * fxOne + fxDiv (2 * atanhFx (fxDiv (x - fxOne) (x + fxOne))) ln2Fx

/-- The quotient of approximate reals. -/
def Near.div (a b : Near) : Near := ⟨a.neg != b.neg, a.m * 2 ^ (2 * fxBits) / max b.m 1, a.e - b.e - (2 * fxBits : Nat)⟩

/-- The sum of one and an approximate real, to 768 bits after the point or better. -/
def Near.onePlus (a : Near) : Near := Near.ofFx (fxOne + a.fx)

/-- Just below one. -/
def Near.belowOne (neg : Bool) : Near := ⟨neg, 2 ^ 700 - 1, -700⟩

/-- 1 / (1 + e^-x) (R210): for negative x as e^x / (1 + e^x), whose relative error stays small; below one for every x. -/
def sigmNear (neg : Bool) (m : Nat) (e : Int) : Near :=
  let t := if (e + Nat.log2 m) < 12 then toFx false m e else 4096 * fxOne
  let d := expNear (-t)
  if neg then d.div d.onePlus else if 480 * fxOne ≤ t then Near.belowOne false else (Near.ofFx fxOne).div d.onePlus

/-- tanh x for x > 0: (1 - d) / (1 + d), d = e^-2x; below one for every x. -/
def tanhNear (neg : Bool) (m : Nat) (e : Int) : Near :=
  let t := if (e + Nat.log2 m) < 8 then toFx false m (e + 1) else 512 * fxOne
  let d := expNear (-t)
  let r := (Near.ofFx (fxOne - d.fx)).div d.onePlus
  if 480 * fxOne ≤ t then Near.belowOne neg else { r with neg := neg }

/-- The sum of (-1)^n z^(2n+1) / (n! (2n+1)). -/
def erfSeries (z2 : Int) : Nat → Nat → Int → Int
  | 0, _, _ => 0
  | fuel + 1, n, p => p / (2 * n + 1 : Nat) + erfSeries z2 fuel (n + 1) (-(fxMul p z2) / (n + 1 : Nat))

/-- Square root of a nonnegative fixed-point number. -/
def fxSqrt (v : Int) : Int := (isqrt (v.toNat * 2 ^ fxBits) : Nat)

/-- erf z, |z| below 16. -/
def erfFx (z : Int) : Int := fxDiv (2 * erfSeries (fxMul z z) 900 0 z) (fxSqrt piFx)

/-- (a / 2)(1 + erf(a / sqrt 2)) (R225). From |a| = 20 on, the value is a less a negligible part, or a negligible
negative number. -/
def geluNear (neg : Bool) (m : Nat) (e : Int) : Near :=
  if 20 * fxOne ≤ toFx false m (min e 1024) ∨ 10 < e + Nat.log2 m then
    (if neg then ⟨true, 1, -400⟩ else ⟨false, m * 2 ^ 200 - 1, e - 200⟩)
  else
    let h := fxOne + erfFx (fxDiv (toFx neg m e) (fxSqrt (2 * fxOne)))
    ⟨neg, m * h.toNat, e - 1 - (fxBits : Int)⟩

/-! ### Rounding -/

/-- Correct rounding of an approximate value that is not exact (R210). -/
def roundNear (f : Flt) (x : Near) : Nat × Flags := f.round .rne (.fin x.neg (2 * x.m + 1) (x.e - 1))

/-- The order of binary32 values on a line: an integer that grows with the value. -/
def ordBits (b : Nat) : Int := if 2 ^ 31 ≤ b then -((b - 2 ^ 31 : Nat) : Int) else b
/-- The finite or infinite value at a place of the line; zero keeps the sign of the exact result. -/
def bitsAt (neg : Bool) (i : Int) : Nat :=
  if i < 0 then 2 ^ 31 + i.natAbs else if i = 0 then (if neg then 2 ^ 31 else 0) else i.toNat

/-- The unit in the last place of the exact result, as a power of two (R210). -/
def ulpExp (x : Near) : Int := max (x.e + Nat.log2 (max x.m 1)) (-126) - 23

/-- The binary32 values within `b` units in the last place of the exact result, at least the nearest one; `x` is `err` units of its own
last place or less from it (0 where it is exact, 1 where it is an approximation). -/
def within (b err : Nat) (x : Near) : List Nat :=
  let r := (roundNear binary32 x).1
  let c := (List.range (2 * b + 3)).map fun i => bitsAt x.neg (ordBits r + (i : Int) - (b + 1 : Nat))
  let ok := c.filter fun v => match binary32.value v with
    | .fin n m e =>
      let u := ulpExp x
      let low := min e (min x.e u)
      let d := signedAt n m e low - signedAt x.neg x.m x.e low
      decide (d.natAbs + err ≤ b * 2 ^ (u - low).toNat)
    | _ => false
  if ok.isEmpty then [r] else ok

/-- The binary32 result an opaque choice names, with the flags of an inexact finite result: NX, and UF when the exact value
rounds below the normal range (R33, R210). A result that overflows is infinite. -/
def chosen (b err idx : Nat) (x : Near) : Nat × Flags :=
  let r := roundNear binary32 x
  if binary32.expOf r.1 = binary32.top then r
  else
    let c := within b err x
    let v := c.getD (idx % c.length) r.1
    (v, fNX ||| (r.2 &&& fUF))

/-- The special functions in the order of R210. -/
inductive Special where | rcp | rsqrt | exp2 | log2 | tanh | sigm
  deriving DecidableEq, Repr

def Special.code : Special → Nat
  | .rcp => 0
  | .rsqrt => 1
  | .exp2 => 2
  | .log2 => 3
  | .tanh => 4
  | .sigm => 5

/-- What a function gives at an exact value: a special or exact result with its flags, or an inexact real. -/
inductive FunResult where
  | exact (v : Num) (fl : Flags)
  | near (x : Near)
  deriving DecidableEq, Repr

/-- Whether m is a power of two. -/
def isPow2 (m : Nat) : Bool := m == 2 ^ Nat.log2 m

/-- The functions of R210 at finite values, with their special and exact cases. -/
def Special.at : Special → Num → FunResult
  | _, .nan => .exact .nan 0
  | .rcp, .inf n => .exact (.fin n 0 0) 0
  | .rcp, .fin n m e =>
    if m = 0 then .exact (.inf n) fDZ
    else if isPow2 m then .exact (.fin n 1 (-(e + Nat.log2 m))) 0
    else .near ⟨n, 2 ^ 512 / m, -e - 512⟩
  | .rsqrt, .inf n => if n then .exact .nan fNV else .exact (.fin false 0 0) 0
  | .rsqrt, .fin n m e =>
    if m = 0 then .exact (.inf n) fDZ
    else if n then .exact .nan fNV
    else
      let k := e + Nat.log2 m
      if isPow2 m && k % 2 == 0 then .exact (.fin false 1 (-(k / 2))) 0
      else
        let m' := if e % 2 = 0 then m else 2 * m
        let e' := if e % 2 = 0 then e else e - 1
        .near ⟨false, isqrt (2 ^ 1024 / m'), -(e' / 2) - 512⟩
  | .exp2, .inf n => if n then .exact (.fin false 0 0) 0 else .exact (.inf false) 0
  | .exp2, .fin n m e =>
    if m = 0 then .exact (.fin false 1 0) 0
    else if 10 < e + Nat.log2 m then (if n then .near ⟨false, 1, -2048⟩ else .near ⟨false, 1, 2048⟩)
    else
      let t := toFx n m e
      if t % fxOne = 0 then .exact (.fin false 1 (t / fxOne)) 0 else .near (exp2Near t)
  | .log2, .inf n => if n then .exact .nan fNV else .exact (.inf false) 0
  | .log2, .fin n m e =>
    if m = 0 then .exact (.inf true) fDZ
    else if n then .exact .nan fNV
    else if isPow2 m then .exact (Num.ofInt (e + Nat.log2 m)) 0
    else .near (Near.ofFx (log2Fx m e))
  | .tanh, .inf n => .exact (.fin n 1 0) 0
  | .tanh, .fin n m e => if m = 0 then .exact (.fin n 0 0) 0 else .near (tanhNear n m e)
  | .sigm, .inf n => if n then .exact (.fin false 0 0) 0 else .exact (.fin false 1 0) 0
  | .sigm, .fin n m e => if m = 0 then .exact (.fin false 1 (-1)) 0 else .near (sigmNear n m e)

/-- The bound of a binary32 result in units in the last place (R210). -/
def Special.bound : Special → Nat
  | .rcp => 1
  | .rsqrt => 1
  | _ => 2

/-- `vexp2` of an integer whose result 2^e is subnormal: within the bound in binary32 lanes, exact in the others; it raises
NX, as every finite result does that R210 does not name, and UF where the value returned is not 2^e (R33, R210). -/
def expInt (f : Flt) (idx : Nat) (e : Int) : Nat × Flags :=
  let r := f.round .rne (.fin false 1 e)
  let v := if f = binary32 then (chosen 2 0 idx ⟨false, 2 ^ 200, e - 200⟩).1 else r.1
  (v, fNX ||| (if v = r.1 then r.2 else fUF))

/-- A lane of a special function (R210). A binary32 `vexp2` whose exact value rounds to zero is below the subnormal range. -/
def Special.lane (k : Special) (f : Flt) (a : Nat) : Nat × Flags :=
  let idx := Config.specialPick k.code (BitVec.ofNat 32 a)
  let r := match k.at (f.value a) with
    | .exact v fl =>
      let o := f.round .rne v
      match k, v with
      | .exp2, .fin _ 1 e => if e < 1 - (f.bias : Int) ∧ o.1 ≠ 0 then expInt f idx e else (o.1, fl ||| o.2)
      | _, _ => (o.1, fl ||| o.2)
    | .near x => if f ≠ binary32 ∨ (k = Special.exp2 ∧ (roundNear f x).1 = 0) then roundNear f x else chosen k.bound 1 idx x
  (r.1, f.snanFlag [a] ||| r.2)

/-- The activations of `tact` in the order of R225. -/
inductive Activation where | relu | gelu | sigm | tanh | exp
  deriving DecidableEq, Repr

def Activation.code : Activation → Nat
  | .relu => 0
  | .gelu => 1
  | .sigm => 2
  | .tanh => 3
  | .exp => 4

/-- An activation at an exact value (R225). The operand of a tile node is rounded to no format first; its choice within
the bound depends on the binary32 bits of the operand. -/
def Activation.at : Activation → Num → FunResult
  | _, .nan => .exact .nan 0
  | .relu, .inf n => if n then .exact (.fin false 0 0) 0 else .exact (.inf false) 0
  | .relu, .fin n m e => if n || m = 0 then .exact (.fin false 0 0) 0 else .exact (.fin false m e) 0
  | .gelu, .inf n => if n then .exact (.fin true 0 0) 0 else .exact (.inf false) 0
  | .gelu, .fin n m e => if m = 0 then .exact (.fin n 0 0) 0 else .near (geluNear n m e)
  | .sigm, v => Special.sigm.at v
  | .tanh, v => Special.tanh.at v
  | .exp, .inf n => if n then .exact (.fin false 0 0) 0 else .exact (.inf false) 0
  | .exp, .fin n m e =>
    if m = 0 then .exact (.fin false 1 0) 0
    else if 10 < e + Nat.log2 m then (if n then .near ⟨false, 1, -2048⟩ else .near ⟨false, 1, 2048⟩)
    else .near (expNear (toFx n m e))

/-- The binary32 result of an activation, within 2 ulp (R225). -/
def Activation.result (k : Activation) (v : Num) : Nat :=
  match k.at v with
  | .exact w _ => (binary32.round .rne w).1
  | .near x => (chosen 2 1 (Config.activationPick k.code (BitVec.ofNat 32 (binary32.round .rne v).1)) x).1

end Sys2Proof.Machine
end

