-- ==== Sys2Proof/Machine/Home.lean ====
section
/-! DEFINITION. Accesses the engines make at a home in one step: the reads of views and copies, the writes of copies
(R56, R93, R218, R255), the checks on a whole range (R219, R250), and the stop of a run region (R309). -/

namespace Sys2Proof.Machine

/-! ### The stop of a run region (R309, R310, R363) -/

/-- Whether a run stands on its cores: it is set up and not switched out. -/
def Run.placed (r : Run) : Bool :=
  match r.life with
  | .paging _ => false
  | .switchedOut => false
  | _ => true

/-- A run region stops: its cores issue no more, and are switched out as at an intercalation with no incoming context.
The run is marked in the journal when it is harvested with this outcome (R309). -/
def State.stopRun (s : State) (part ctx outcome : Nat) : State :=
  match s.runs.find? fun r => r.part == part && r.ctx == ctx with
  | none => s
  | some r =>
    match r.life with
    | .stopped _ => s
    | _ =>
      let cores := s.regionCores r
      let s := s.modRun part ctx fun r => { r with life := .stopped outcome }
      if r.placed then
        let s := cores.foldl (fun s c => s.modCore c fun k => { k with stopped := true }) s
        s.posts (cores.map Event.switchOutPoint)
      else s.post (.harvest part ctx)

/-- The run of a core stops (R309). -/
def State.stopRunOf (s : State) (c outcome : Nat) : State :=
  match (s.core c).run with
  | none => s
  | some r => s.stopRun r.1 r.2 outcome

/-! ### Spots -/

/-- Where a checked address of space 0x0, 0x2 or the virtual space lies: a scratchpad offset or a virtual address. -/
def State.spot (s : State) (c : Nat) (a : Word) : Place × Nat :=
  let sel := field 63 60 a
  if sel = 0 then (.pad c, field 18 0 a)
  else if sel = 2 then (.pad ((s.named? (s.partOf c) (field 59 46 a)).getD c), field 18 0 a)
  else (.virt (s.partOf c), field 56 0 a)

/-- The report of an engine access that met poison (R168, R307). -/
def State.homeReport (s : State) (c : Nat) (a : Word) (place : Place) (k key : Nat) (why : Cause) : State :=
  let loc := match place with
    | .pad t => s.coreLocation t 0 0
    | .virt p => let h := s.homeSlice p (k / 128); location (h / 32) 1 (h / 16 % 2) 3 (h % 16) 0
  let part := match place with
    | .pad _ => s.partOf c
    | .virt p => p
  s.poisonReport (s.clockOf c) loc a part key why

/-- Read n bytes of one line at their home, without a check of the address (R218, R255): the datum, or why the read
fails. `a` is the address as the instruction named it. -/
def State.homeRead (s : State) (c : Nat) (a : Word) (place : Place) (k n : Nat) : Except (Cause × Word × State) (Nat × State) :=
  match place with
  | .pad t =>
    match s.poisoned? (padKey t k / 128) with
    | some why => .error (why, a, s.homeReport c a place k (padKey t k / 128) why)
    | none => .ok (s.load (padKey t k) n, s)
  | .virt p =>
    match s.ensureLine p (k / 128) with
    | .error why => .error (why, a, s)
    | .ok (l, s) =>
      match s.linePoison l with
      | some why => .error (why, a, s.homeReport c a place k (l.phys / 128) why)
      | none => .ok (lineBytes l.data (k % 128) n, s)

/-- Read n bytes at a spot, one byte at a time, so that they may lie on several lines (R255). -/
def State.homeBytes (s : State) (c : Nat) (a : Word) (place : Place) (k : Nat) :
    Nat → Except (Cause × Word × State) (List Byte × State)
  | 0 => .ok ([], s)
  | n + 1 => match s.homeRead c a place k 1 with
    | .error e => .error e
    | .ok (v, s) => match State.homeBytes s c (a + 1) place (k + 1) n with
      | .error e => .error e
      | .ok (r, s) => .ok (BitVec.ofNat 8 v :: r, s)

/-- Write the bits under a mask of n bytes of one line at its home, as one counted write (R87, R255). A poisoned line
discards it with a report (R168). -/
def State.homeWrite (s : State) (c : Nat) (a : Word) (place : Place) (k n mask v : Nat) : State :=
  match place with
  | .pad t =>
    match s.poisoned? (padKey t k / 128) with
    | some why => s.homeReport c a place k (padKey t k / 128) why
    | none => ((s.storeMasked (padKey t k) n mask v).bump (padKey t k / 128)).2
  | .virt p =>
    match s.ensureLine p (k / 128) with
    | .error _ => s.stopRunOf c 1
    | .ok (l, s) =>
      match s.linePoison l with
      | some why => s.homeReport c a place k (l.phys / 128) why
      | none => (s.sliceWrite (s.homeSlice p (k / 128)) l (k % 128) n mask v).2

/-- Write bytes at a home, line by line, each part as one counted write. Fuel: the number of bytes. -/
def State.homeWriteBytes (c : Nat) (place : Place) : Nat → Word → Nat → List Byte → State → State
  | 0, _, _, _, s => s
  | fuel + 1, a, k, bs, s =>
    if bs.isEmpty then s
    else
      let n := min bs.length (128 - k % 128)
      State.homeWriteBytes c place fuel (a + BitVec.ofNat 64 n) (k + n) (bs.drop n)
        (s.homeWrite c a place k n (2 ^ (8 * n) - 1) (ofBytes (bs.take n)))

/-! ### Ranges as a whole (R219 check 5, R250 check 5) -/

/-- A byte range of exact addresses. -/
structure Span where
  lo : Int
  hi : Int
  deriving DecidableEq, Repr

/-- The smallest range that covers two. -/
def Span.join (a b : Span) : Span := ⟨min a.lo b.lo, max a.hi b.hi⟩

/-- Check 5 on a range: it stays within 64 bits and within one of the spaces 0x0, 0x2 and virtual, and every byte passes
checks 1 to 6 of R50. The place and its first byte, or the trap at the first failing byte. -/
def State.rangeCheck (s : State) (c mode : Nat) (r : Span) (w : Right) : Except (Cause × Word) (Place × Nat × Nat) :=
  let lo : Word := BitVec.ofInt 64 r.lo
  let n := (r.hi - r.lo).toNat
  if r.lo < 0 || 2 ^ 64 < r.hi then .error (.localRange, lo)
  else match s.target c mode lo 1 w with
    | .error e => .error e
    | .ok _ =>
      let virt := field 63 63 lo = 1
      if field 63 60 lo = 1 || field 63 60 lo = 3 then .error (.localRange, lo)
      else
        let p := s.spot c lo
        if virt then
          match firstUnleased (match s.runOf c with | some r => r.lease | none => []) p.2 (min n (2 ^ 57 - p.2)) w with
          | some va => .error (.leaseViolation, BitVec.ofNat 64 (2 ^ 63 + va))
          | none => if 2 ^ 57 - p.2 < n then .error (.localRange, BitVec.ofNat 64 (2 ^ 63 + 2 ^ 57)) else .ok (p.1, p.2, n)
        else if (s.core c).scr < p.2 + n then .error (.localRange, lo + BitVec.ofNat 64 ((s.core c).scr - p.2))
        else .ok (p.1, p.2, n)

/-! ### Registering a range (R69 to R71) -/

/-- Whether bytes [lo, lo + n) meet the halo part of a split entry: its range less its interior rows (R69). -/
def haloMeets (e : LockEntry) (lo n : Nat) : Bool :=
  let a := max e.base lo
  let b := min (e.base + e.len) (lo + n)
  a < b && !rowsHold e.rows a (b - a)

/-- Whether two entries' ranges conflict, so that a copy's registration ends the copy (R70): each as an access over the
other. To an entry of another core, a new split entry is a copy destination in its halo part and a copy source in its
interior (R69, R346). -/
def lockMeets (held new : LockEntry) (sameCore : Bool) : Bool :=
  match new.kind with
  | .view => false
  | .copySource => lockConflict held sameCore false new.base new.len
  | .copyDest => lockConflict held sameCore true new.base new.len
  | .split =>
    if sameCore then lockConflict held true true new.base new.len
    else match held.kind with
      | .view => haloMeets new held.base held.len
      | .copySource => haloMeets new held.base held.len
      | .strip => (List.range held.rows.count).any fun i => haloMeets new (held.rows.base + i * held.rows.stride) held.rows.len
      | _ => overlaps held.base held.len new.base new.len
  | .strip => (List.range new.rows.count).any fun i =>
      lockConflict held sameCore false (new.rows.base + i * new.rows.stride) new.rows.len

/-- Whether a copy's access to bytes at their home conflicts with a lock that is not one of the copy's own: a write over a
view or a copy source, any access over a copy destination (R70). `own` are the copy's locks at core c. -/
def State.copyConflict (s : State) (c : Nat) (own : List Nat) (place : Place) (lo n : Nat) (write : Bool) : Bool :=
  let hit (e : LockEntry) : Bool :=
    !(e.core == c && own.contains e.id) && e.place == place && lockConflict e (e.core == c) write lo n
  match place with
  | .pad t => (s.core t).locks.any hit || (s.core t).portLocks.any hit
  | .virt part => (linesOf lo n).any fun l => (s.slice (s.homeSlice part l)).filter.any hit

/-- Registration messages for an entry, to the homes named. -/
def State.sendRegistrations (s : State) (e : LockEntry) (hs : List Home) : State :=
  s.posts (hs.map fun h => Event.lockRegistration h e)

end Sys2Proof.Machine
end

