-- ==== Sys2Proof/Machine/TileEval.lean ====
section
/-! DEFINITION. The values of tiles: map records, views, weight tiles, and one step of each computed node
(R39, R46, R217, R218, R223 to R228, R233, R240). -/

namespace Sys2Proof.Machine

/-! ### Format codes (R25) -/

def codeFlt (c : Nat) : Option Flt :=
  if c = 0x10 then some binary64 else if c = 0x11 then some binary32 else if c = 0x12 then some binary16
  else if c = 0x13 then some bfloat16 else none

/-- The DX width of a DX or DXZ code. -/
def codeDx (c : Nat) : Option Dx :=
  if c = 0x20 || c = 0x28 then some d16 else if c = 0x21 || c = 0x29 then some d8
  else if c = 0x22 || c = 0x2A then some d4 else none

/-- The formats of views, `tstore` and `tcvt` (R222, R226, R230). -/
def tileCode (c : Nat) : Bool := c = 0x11 || c = 0x12 || c = 0x13 || isDxCode c

/-! ### Map records (R217) -/

/-- The map record whose 64 bytes are the little-endian number w. -/
def MapRec.ofNat (w : Nat) : MapRec where
  base := BitVec.ofNat 64 (slot 0 64 w)
  rstride := BitVec.ofNat 64 (slot 64 64 w)
  cstride := BitVec.ofNat 64 (slot 128 64 w)
  roff := BitVec.ofNat 32 (slot 192 32 w)
  coff := BitVec.ofNat 32 (slot 224 32 w)
  rows := slot 256 16 w
  cols := slot 272 16 w
  fmt := slot 288 8 w
  flags := BitVec.ofNat 8 (slot 296 8 w)
  zero38 := BitVec.ofNat 16 (slot 304 16 w)
  sbase := BitVec.ofNat 64 (slot 320 64 w)
  srstride := BitVec.ofNat 64 (slot 384 64 w)
  ibase := BitVec.ofNat 64 (slot 448 64 w)

def MapRec.trans (m : MapRec) : Bool := m.flags.getLsbD 0

/-- The stored position of a logical one, if it lies within the extents (R218). -/
def MapRec.stored? (m : MapRec) (i j : Nat) : Option (Nat × Nat) :=
  let r : Int := (if m.trans then j else i) + m.roff.toInt
  let c : Int := (if m.trans then i else j) + m.coff.toInt
  if r < 0 || m.rows ≤ r || c < 0 || m.cols ≤ c then none else some (r.toNat, c.toNat)

/-- The address of a stored element in a binary format (R218). -/
def MapRec.elemAt (m : MapRec) (r c : Nat) : Word :=
  m.base + BitVec.ofInt 64 (r * m.rstride.toInt + c * m.cstride.toInt)

/-- The address of a stored DX block, and of its scale pair (R218). -/
def MapRec.blockAt (m : MapRec) (x : Dx) (r q : Nat) : Word := m.base + BitVec.ofInt 64 (r * m.rstride.toInt + q * (4 * x.bits))
def MapRec.pairAt (m : MapRec) (r q : Nat) : Word := m.sbase + BitVec.ofInt 64 (r * m.srstride.toInt + 2 * q)

/-! ### Operand reads -/

/-- What stops an operand read: it fails, with the report its home filed; or its home slice cannot serve it yet, and the
line is asked for (R66, R239). -/
inductive Stop where
  | fault (cause : Cause) (at_ : Word) (s : State)
  | line (at_ : Word) (part line : Nat)

/-- The outcome of operand reads. -/
abbrev Fetch (α : Type) := Except Stop (α × State)

def Num.zero : Num := .fin false 0 0

/-- The first line of n bytes at a place that its home slice cannot serve at once. -/
def State.absent? (s : State) (p : Place × Nat) (n : Nat) : Option (Nat × Nat) :=
  match p with
  | (.pad _, _) => none
  | (.virt part, va) => ((linesOf va n).find? fun l => !s.lineAtHand part l).map fun l => (part, l)

/-- Read n bytes of a line at an address of space 0x0, 0x2 or the virtual space (R218). -/
def State.rd (s : State) (c : Nat) (a : Word) (n : Nat) : Fetch Nat :=
  let p := s.spot c a
  match s.absent? p n with
  | some (part, l) => .error (.line a part l)
  | none => match s.homeRead c a p.1 p.2 n with
    | .error (cause, x, u) => .error (.fault cause x u)
    | .ok r => .ok r

/-- Read n bytes, which may lie on several lines. -/
def State.rdBytes (s : State) (c : Nat) (a : Word) (n : Nat) : Fetch (List Byte) :=
  let p := s.spot c a
  match s.absent? p n with
  | some (part, l) => .error (.line a part l)
  | none => match s.homeBytes c a p.1 p.2 n with
    | .error (cause, x, u) => .error (.fault cause x u)
    | .ok r => .ok r

/-- `elem` of R218. -/
def State.viewElem (s : State) (c : Nat) (m : MapRec) (i j : Nat) : Fetch Num :=
  match m.stored? i j with
  | none => .ok (.zero, s)
  | some (r, k) =>
    match codeFlt m.fmt with
    | some f => match s.rd c (m.elemAt r k) (f.width / 8) with
      | .error e => .error e
      | .ok (v, s) => .ok (f.value v, s)
    | none => match codeDx m.fmt with
      | none => .ok (.zero, s)
      | some x => match s.rd c (m.blockAt x r (k / 32)) (4 * x.bits) with
        | .error e => .error e
        | .ok (blk, s) => match s.rd c (m.pairAt r (k / 32)) 2 with
          | .error e => .error e
          | .ok (p, s) => .ok (x.value (x.elem blk (k % 32)) (p % 256) (p / 256), s)

/-- An element of an accumulator bank, as bits and as a value (R68). -/
def Bank.bits (b : Bank) (i j : Nat) : Nat := b.data.toNat / 2 ^ (32 * (32 * i + j)) % 2 ^ 32
def Bank.elem (b : Bank) (i j : Nat) : Num := binary32.value (b.bits i j)
def Bank.put (b : Bank) (i j v : Nat) : Bank := { b with data := BitVec.ofNat 32768 (putSlot (32 * (32 * i + j)) 32 v b.data.toNat) }

/-! ### Weight tiles (R39, R223)

A weight slot holds, for block x, 70 bytes: its record, filled to 68 bytes with zeros, and its scale pair. -/

/-- Blocks of 32 depth elements in a column. -/
def MapRec.blocks (m : MapRec) : Nat := (m.rows + 31) / 32

/-- Bytes of a DXZ record with n stored elements of b bits (R39). -/
def recordBytes (n b : Nat) : Nat := 4 + 4 * ((n * b + 31) / 32)

def popMask (m : Nat) : Nat := (List.range 32).foldl (fun a i => a + m / 2 ^ i % 2) 0

/-- Read the index, record and scale pair of block x (R223). An offset that is not a multiple of 4, or a record past
the record area, fails with LOCAL_RANGE at the address of the index entry (R239, and the worked demand after R245). -/
def State.readBlock (s : State) (c : Nat) (m : MapRec) (dx : Dx) (x : Nat) : Fetch (List Byte) :=
  let at_ := m.ibase + BitVec.ofNat 64 (4 * x)
  match s.rd c at_ 4 with
  | .error e => .error e
  | .ok (off, s) =>
    let a := m.base + BitVec.ofNat 64 off
    if off % 4 ≠ 0 || m.cstride.toNat < off + 4 then .error (.fault .localRange at_ s)
    else match s.rd c a 4 with
      | .error e => .error e
      | .ok (mask, s) =>
        let n := recordBytes (popMask mask) dx.bits
        if m.cstride.toNat < off + n then .error (.fault .localRange at_ s)
        else match s.rdBytes c a n with
          | .error e => .error e
          | .ok (bs, s) => match s.rdBytes c (m.sbase + BitVec.ofNat 64 (2 * x)) 2 with
            | .error e => .error e
            | .ok (pair, s) => .ok (bs ++ List.replicate (68 - n) 0 ++ pair, s)

/-- Read a whole weight tile, block by block. -/
def State.readTile (c : Nat) (m : MapRec) (dx : Dx) : List Nat → State → Fetch (List Byte)
  | [], s => .ok ([], s)
  | x :: r, s => match s.readBlock c m dx x with
    | .error e => .error e
    | .ok (b, s) => match State.readTile c m dx r s with
      | .error e => .error e
      | .ok (bs, s) => .ok (b ++ bs, s)

/-- Element (k, j) of the weight tile in a slot: decompressed under R39; +0 beyond its extents. -/
def weightElem (m : MapRec) (dx : Dx) (bytes : List Byte) (k j : Nat) : Num :=
  if m.rows ≤ k || m.cols ≤ j then .zero
  else
    let blk := (bytes.drop (70 * (j * m.blocks + k / 32))).take 70
    let mask := ofBytes (blk.take 4)
    let i := k % 32
    if mask / 2 ^ i % 2 = 0 then .zero
    else dx.value (ofBytes ((blk.drop 4).take 64) / 2 ^ (popMask (mask % 2 ^ i) * dx.bits) % 2 ^ dx.bits)
      (ofBytes ((blk.drop 68).take 1)) (ofBytes ((blk.drop 69).take 1))

/-- The bytes of the weight slot bound to a node. -/
def State.slotOf (s : State) (c i : Nat) : Option (Nat × List Byte) :=
  ((s.cluster (clusterOf c)).slots.find? fun e => e.2.1 == c && e.2.2.1 == i).map fun e => (e.1, e.2.2.2)

/-! ### Banks (R236, R240) -/

/-- TVAL of ACC_OWNED for bank b (R240). -/
def accTval (t : Option BankTag) (alloc : Bool) (b : Nat) : Word :=
  let t := t.getD { ctx := 0, core := 0, strand := 0 }
  BitVec.ofNat 64 (t.ctx * 2 ^ 32 + t.core * 2 ^ 30 + t.strand * 2 ^ 26 + (if alloc then 256 else 0) + b)

/-- What an attempt to bind a bank finds (R240). -/
inductive Binding where
  | bound (b : Nat)
  | owned (tval : Word)
  | wait
  deriving DecidableEq, Repr

/-- The bank a node's first step takes (R240). -/
def State.bindBank (s : State) (c : Nat) : Binding :=
  let cl := s.cluster (clusterOf c)
  match (List.range 8).find? fun b => (cl.bank b).tag.isNone with
  | some b => .bound b
  | none => match (List.range 8).find? fun b => match (cl.bank b).tag with
      | some t => t.ctx != (s.core c).pctx.toNat
      | none => false with
    | some b => .owned (accTval (cl.bank b).tag true b)
    | none => .wait

/-- The banks a step reads or writes beside a new one: the node's own and those of its sources; the first that carries
another owner's tag (R240). -/
def State.displaced? (s : State) (c n : Nat) (v : Node) : Option Word :=
  let k := s.core c
  let own := (k.bankOf 96 v).toList
  let src := v.sources.filterMap fun x => match x with
    | .value b _ _ _ => some b
    | .node j => match k.node? j with
      | some u => if u.kind.isSource then none else k.bankOf 96 u
      | none => none
  let cl := s.cluster (clusterOf c)
  ((own ++ src).find? fun b => !k.owns c n (cl.bank b)).map fun b => accTval (cl.bank b).tag false b

/-! ### Source values -/

/-- Position (i, j) of a source (R218, R223, R224, R227). -/
def State.sourceElem (s : State) (c : Nat) (x : Source) (i j : Nat) : Fetch Num :=
  let k := s.core c
  let cl := s.cluster (clusterOf c)
  match x with
  | .value b _ rows cols => .ok (if i < rows && j < cols then (cl.bank b).elem i j else .zero, s)
  | .node m => match k.node? m with
    | none => .ok (.zero, s)
    | some v => match v.kind with
      | .view => s.viewElem c v.map i j
      | .twload => .ok (weightElem v.map ((codeDx v.map.fmt).getD d16) (((s.slotOf c m).map Prod.snd).getD []) i j, s)
      | _ =>
        let sh := v.kind.shape
        .ok (if i < sh.1 && j < sh.2 then (cl.bank ((k.bankOf 96 v).getD 0)).elem i j else .zero, s)

/-- The positions of one row of a source. -/
def State.sourceRow (c : Nat) (x : Source) (i : Nat) : List Nat → State → Fetch (List (Nat × Num))
  | [], s => .ok ([], s)
  | j :: r, s => match s.sourceElem c x i j with
    | .error e => .error e
    | .ok (v, s) => match State.sourceRow c x i r s with
      | .error e => .error e
      | .ok (vs, s) => .ok ((j, v) :: vs, s)

/-- The positions is x js of a source, row by row. -/
def State.sourceGrid (c : Nat) (x : Source) (js : List Nat) : List Nat → State → Fetch (List (Nat × List (Nat × Num)))
  | [], s => .ok ([], s)
  | i :: r, s => match State.sourceRow c x i js s with
    | .error e => .error e
    | .ok (vs, s) => match State.sourceGrid c x js r s with
      | .error e => .error e
      | .ok (g, s) => .ok ((i, vs) :: g, s)

/-- An element of a grid that was read. -/
def gridAt (g : List (Nat × List (Nat × Num))) (i j : Nat) : Num := lookupD .zero j (lookupD [] i g)

/-- The numbers of the bits a bitmap sets. -/
def bitsOf (b : BitVec 32) : List Nat := (List.range 32).filter fun i => b.getLsbD i

/-! ### Products (R46, R224) -/

/-- The factor pairs of output (i, j), one list for each K block (R46). -/
def Node.factors (v : Node) (ks : List Nat) (a b : List (Nat × List (Nat × Num))) (i j : Nat) : List (List (Num × Num)) :=
  let e := kBlock v.map.fmt
  (List.range 6).map fun q => (ks.filter fun k => k / e == q).map fun k => (gridAt a i k, gridAt b k j)

/-! ### Element-wise and reducing operations (R225 to R228) -/

/-- A value rounded to binary32. -/
def roundF32 (v : Num) : Nat := (binary32.round .rne v).1

/-- The sum of R227: exact, rounded once, under the NaN and infinity rules of R46. -/
def sumTile (xs : List Num) : Nat :=
  let pos := xs.any fun x => x == .inf false
  let neg := xs.any fun x => x == .inf true
  if (xs.any Num.isNan) || (pos && neg) then binary32.canonNan
  else if pos then binary32.infBits false
  else if neg then binary32.infBits true
  else match exactSum xs with
    | .fin n m e => if m = 0 then 0 else roundF32 (.fin n m e)
    | v => roundF32 v

/-- The maximumNumber of R227: the canonical NaN only of NaNs, -0 below +0. -/
def maxTile (xs : List Num) : Nat :=
  match (xs.filter fun x => !x.isNan).map roundF32 with
  | [] => binary32.canonNan
  | b :: r => r.foldl (fun a x => (binary32.pickNumber true a x).1) b

/-- The activation a sub-op names (R225). -/
def activationOf (f : Nat) : Activation :=
  match f with
  | 0 => .relu
  | 1 => .gelu
  | 2 => .sigm
  | 3 => .tanh
  | _ => .exp

/-- The value of a rounded binary format, held in binary32 (R226). -/
def roundTo (f : Flt) (v : Num) : Nat := roundF32 (f.value (f.round .rne v).1)

/-- A node's grid operand over a region. -/
def State.operand (s : State) (c : Nat) (v : Node) (idx : Nat) (r : Region) : Fetch (List (Nat × List (Nat × Num))) :=
  match v.sources[idx]? with
  | none => .ok ([], s)
  | some x => State.sourceGrid c x (bitsOf r.cols) (bitsOf r.rows) s

/-- The positions a demand on a node adds (R233). -/
def Node.added (v : Node) (r : Region) : List (Nat × Nat) :=
  let r := v.clip r
  (bitsOf (v.rmat ||| r.rows)).flatMap fun i => (bitsOf (v.cmat ||| r.cols)).filterMap fun j =>
    if v.rmat.getLsbD i && v.cmat.getLsbD j then none else some (i, j)

/-- Cells from the positions added and a function of the position. -/
def cellsOf (ps : List (Nat × Nat)) (f : Nat → Nat → Nat) : StepOut := { cells := ps.map fun p => (p.1, p.2, f p.1 p.2), pairs := [] }

/-- One step of a computed node over the positions a demand adds: its operands are fetched and its values computed
(R46, R224 to R228, R235). -/
def State.evalNode (s : State) (c : Nat) (v : Node) (r : Region) : Fetch StepOut :=
  let ps := v.added r
  let f := v.fresh r
  let all := lowBits 32
  match v.kind with
  | .view => .ok ({ cells := [], pairs := [] }, s)
  | .twload => .ok ({ cells := [], pairs := [] }, s)
  | .tmma acc =>
    let rows := f.rows &&& v.rowMask
    let cols := f.cols &&& v.colMask
    let ks := v.depthOn
    match v.sources[0]?, v.sources[1]? with
    | some xa, some xb =>
      match State.sourceGrid c xa ks (bitsOf rows) s with
      | .error e => .error e
      | .ok (a, s) => match State.sourceGrid c xb (bitsOf cols) ks s with
        | .error e => .error e
        | .ok (b, s) => match (if acc then s.operand c v 2 f else .ok ([], s)) with
          | .error e => .error e
          | .ok (g, s) => .ok (cellsOf ps fun i j =>
              let c0 := if acc then roundF32 (gridAt g i j) else 0
              if v.rowMask.getLsbD i && v.colMask.getLsbD j then blockLoop c0 (v.factors ks a b i j) else c0, s)
    | _, _ => .ok ({ cells := [], pairs := [] }, s)
  | .tadd => match s.operand c v 0 f with
    | .error e => .error e
    | .ok (a, s) => match s.operand c v 1 f with
      | .error e => .error e
      | .ok (b, s) => .ok (cellsOf ps fun i j => roundF32 ((gridAt a i j).add .rne (gridAt b i j)).1, s)
  | .tmulw => match s.operand c v 0 f with
    | .error e => .error e
    | .ok (a, s) => match s.operand c v 1 f with
      | .error e => .error e
      | .ok (b, s) => .ok (cellsOf ps fun i j => roundF32 ((gridAt a i j).mul (gridAt b i j)).1, s)
  | .tscale => match s.operand c v 0 f with
    | .error e => .error e
    | .ok (a, s) => .ok (cellsOf ps fun i j => roundF32 ((gridAt a i j).mul (binary32.value v.scale.toNat)).1, s)
  | .tact k => match s.operand c v 0 f with
    | .error e => .error e
    | .ok (a, s) => .ok (cellsOf ps fun i j => (activationOf k).result (gridAt a i j), s)
  | .tcvt =>
    match codeFlt v.fmt with
    | some t => match s.operand c v 0 f with
      | .error e => .error e
      | .ok (a, s) => .ok (cellsOf ps fun i j => roundTo t (gridAt a i j), s)
    | none => match s.operand c v 0 ⟨f.rows, all⟩ with
      | .error e => .error e
      | .ok (a, s) =>
        let dx := (codeDx v.fmt).getD d16
        let blk := fun i => dx.ofValues .rne ((List.range 32).map fun j => gridAt a i j)
        .ok ({ cells := ps.map fun p => let b := blk p.1; (p.1, p.2, roundF32 (dx.value (dx.elem b.1 p.2) b.2.1 b.2.2.1))
               pairs := (bitsOf f.rows).map fun i => let b := blk i; (i, b.2.1 + 256 * b.2.2.1) }, s)
  | .tred k => match s.operand c v 0 (if k % 2 = 0 then ⟨f.rows, all⟩ else ⟨all, f.cols⟩) with
    | .error e => .error e
    | .ok (a, s) => .ok (cellsOf ps fun i j =>
        let xs := (List.range 32).map fun t => if k % 2 = 0 then gridAt a i t else gridAt a t j
        if k < 2 then sumTile xs else maxTile xs, s)
  | .tmask =>
    let on := fun i j => v.mask.getLsbD i && v.mask.getLsbD (32 + j)
    match s.operand c v 0 ⟨f.rows &&& v.mask.extractLsb' 0 32, f.cols &&& v.mask.extractLsb' 32 32⟩ with
    | .error e => .error e
    | .ok (a, s) => .ok (cellsOf ps fun i j => if on i j then roundF32 (gridAt a i j) else 0, s)

/-- Write a step's results to a bank. -/
def Bank.apply (b : Bank) (o : StepOut) : Bank :=
  let b := o.cells.foldl (fun b x => b.put x.1 x.2.1 x.2.2) b
  { b with scales := BitVec.ofNat 512 (o.pairs.foldl (fun w p => putSlot (16 * p.1) 16 p.2 w) b.scales.toNat) }

end Sys2Proof.Machine
end

