-- ==== Sys2Proof/Machine/TileStep.lean ====
section
/-! DEFINITION. Demands in time: operand fetch, weight slots, the array and its leases (R216, R223, R235, R237 to R241). -/

namespace Sys2Proof.Machine

/-- The strand's demand is abandoned and its instruction traps, exactly at itself (R239, R240, R242). -/
def State.demandTrap (s : State) (c n : Nat) (cause : Cause) (tval tattr : Word) : State :=
  (((s.modCore c fun k => k.abandon n).unstage c n)).finishTrap c n cause tval tattr

/-- A node becomes FAULTED and releases its lock and slot (R73, R239). -/
def State.markFaulted (s : State) (c i : Nat) (cause : Cause) (at_ : Word) : State :=
  match (s.core c).node? i with
  | none => s
  | some v =>
    let s := match v.lock with
      | some id => s.releaseLock c id
      | none => s
    (s.modCore c fun k => k.setNode i { v with state := .faulted, fault := some (cause, at_), lock := none }).freeSlot c i

/-- A node becomes FAULTED and its demanding strand traps with ADVENT_FAULT (R239). -/
def State.nodeFault (s : State) (c n i : Nat) (cause : Cause) (at_ : Word) : State :=
  (s.markFaulted c i cause at_).demandTrap c n .adventFault (faultTval i cause) (((s.core c).node? i).elim 0 Node.pc)

/-- Weight slots of a core: c owns slots 32 c to 32 c + 31 of its cluster (R223). -/
def coreSlots (c : Nat) : List Nat := (List.range 32).map fun i => 32 * (c % 4) + i

/-- A weight node binds the lowest free slot of its core, and its tile is fetched (R223). -/
def State.beginWeights (s : State) (c n i : Nat) (v : Node) : State :=
  let s := s.freeSlot c i
  let used := (s.cluster (clusterOf c)).slots.filter fun e => e.2.1 == c
  match (coreSlots c).find? fun x => !(used.any fun e => e.1 == x) with
  | none => s.demandTrap c n .adventFull (BitVec.ofNat 64 (2 ^ 16 + 256 * used.length + 32)) 0
  | some x =>
    let s := s.modCluster (clusterOf c) fun cl => { cl with slots := cl.slots ++ [(x, c, i, [])] }
    (s.modCore c fun k => k.setNode i { v with state := .evaluating, slot := some x }).post (.twloadFetchComplete c i)

/-- The head of a demand's work is to be served. -/
def State.beginWork (s : State) (c n : Nat) : List Work → State
  | [] => s
  | _ :: _ => s.post (.operandFetchComplete c n)

/-- The issuing instruction makes these demands: with nothing to do `go` runs; otherwise it stays outstanding until the
work is done, and is then executed again (R229, R237, R238). -/
def State.demanding (s : State) (la : La) (srcs : List Reg) (ds : List (Nat × Region)) (go : Out) : Out :=
  match (s.core s.cur.1).plan ds with
  | [] => go
  | w =>
    let s := (s.pops srcs).hold la (.demand w none none)
    let s := s.modCore s.cur.1 fun k => w.foldl (fun k x => k.modNode x.node fun v =>
      if v.state = .pending then { v with state := .demanded } else v) k
    .next (s.beginWork s.cur.1 s.cn w)

/-- The work a strand's demand has left, if it is demanding. -/
def Strand.work? (t : Strand) : Option (List Work × Option StepOut × Option Nat) :=
  match t.outst with
  | some o => match o.phase with
    | .demand w fetched since => some (w, fetched, since)
    | _ => none
  | none => none

/-- The first item of a demand's work is done: the next begins. When none is left, the instruction is executed again
at the strand's next slot. -/
def State.workDone (s : State) (c n : Nat) : State :=
  match (s.strand c n).work? with
  | some (_ :: r, _, _) => (s.setPhase c n (.demand r none none)).beginWork c n r
  | _ => s

/-- Whether a demand of an older instruction of the core is still being served (R235). -/
def Core.olderDemand (k : Core) (n order : Nat) : Bool :=
  (List.range 16).any fun i => i != n % 16 && match (k.strand i).outst with
    | some o => (match o.phase with
      | .demand (_ :: _) _ _ => true
      | _ => false) && o.order < order
    | none => false

/-- A strand's staged step leaves the requests. -/
def Cluster.dropRequest (k : Cluster) (c n : Nat) : Cluster := { k with requests := k.requests.erase (c, n) }

/-- The core to which the array passes: the first requesting one after the holder, modulo 4 (R241). -/
def Cluster.nextHolder (k : Cluster) (cl from_ : Nat) : Option Nat :=
  (((List.range 4).map fun i => 4 * cl + (from_ + 1 + i) % 4)).find? fun c => k.requests.any fun r => r.1 == c

/-- A lease continues: the holder has a staged step and has run fewer than 64 (R241). -/
def Cluster.leased (k : Cluster) : Bool :=
  match k.holder with
  | none => false
  | some h => k.steps < 64 && k.requests.any fun r => r.1 == h

/-- Bind a node's bank as its first step starts, with the owner's tag (R68, R240). -/
def State.takeBank (s : State) (c n : Nat) (w : Work) (v : Node) (b : Nat) : State :=
  let tag : BankTag := { ctx := (s.core c).pctx.toNat, core := c % 4, strand := n % 16 }
  (s.modCluster (clusterOf c) fun cl => cl.setBank b { cl.bank b with tag := some tag }).modCore c fun k =>
    k.setNode w.node { v with bank := some b }

/-- What becomes of a step at the head of the holder's requests: it starts, or finds no bank (R240). -/
inductive Start where
  | runs (s : State)
  | held (s : State)
  deriving DecidableEq, Repr

/-- A step with its operands fetched starts on the array: its bank is bound if it is the node's first; with none to be had
it traps, or leaves the array and waits (R216, R240). -/
def State.tryStep (s : State) (c n : Nat) : Start :=
  match (s.strand c n).work? with
  | some (w :: rest, fetched, since) => match (s.core c).node? w.node with
    | none => .runs s
    | some v =>
      let runs (s : State) : Start := .runs (s.modCore c fun k => k.modNode w.node fun v => { v with state := .evaluating })
      if ((s.core c).bankOf 96 v).isSome then runs s
      else match s.bindBank c with
        | .bound b => runs (s.takeBank c n w v b)
        | .owned tval => .held (s.demandTrap c n .accOwned tval v.pc)
        | .wait =>
          let s := s.modCluster (clusterOf c) fun k => k.dropRequest c n
          .held ((s.setPhase c n (.demand (w :: rest) fetched (some (since.getD (s.core c).ticks)))).post (.operandFetchComplete c n))
  | _ => .runs s

/-- The first step of the holder's that can starts; when none can, the lease ends (R216, R241). Fuel: more than the steps a
core stages. -/
def State.startStep (cl : Nat) : Nat → State → State
  | 0, s => s
  | fuel + 1, s => match (s.cluster cl).holder with
    | none => s
    | some h => match (s.cluster cl).requests.find? fun r => r.1 == h with
      | none => s.post (.arrayLeaseHandover cl)
      | some (c, n) => match s.tryStep c n with
        | .runs s => s.post (.tileStep cl)
        | .held s => State.startStep cl fuel s

/-- A fetched step is staged: the core requests the array, and an idle array passes to it (R235, R241). -/
def State.stage (s : State) (c n : Nat) : State :=
  let cl := clusterOf c
  let s := s.modCluster cl fun k => { k with requests := k.requests ++ [(c, n % 16)] }
  if (s.cluster cl).holder.isNone then s.post (.arrayLeaseHandover cl) else s

/-- A computed node's step ends on the array: its positions are in its bank (R216, R233). -/
def State.stepEnds (s : State) (c n : Nat) (w : Work) (v : Node) (b : Nat) (o : StepOut) : State :=
  let s := s.modCluster (clusterOf c) fun cl => cl.setBank b ((cl.bank b).apply o)
  let r := v.clip ⟨w.rows, w.cols⟩
  let v := { v with rmat := v.rmat ||| r.rows, cmat := v.cmat ||| r.cols, state := .pending }
  let s := s.modCore c fun k => k.setNode w.node v
  let sh := v.kind.shape
  let s := if v.rmat = lowBits sh.1 && v.cmat = lowBits sh.2 then s.nodeDone c w.node else s
  s.workDone c n

/-- A step's operand reads failed: the node faults, or the run stops at a translation that failed (R239, R309). -/
def State.readFailed (s : State) (c n i : Nat) (cause : Cause) (at_ : Word) : State :=
  if cause = .walkRaceExhausted then s.stopRunOf c 1 else s.nodeFault c n i cause at_

end Sys2Proof.Machine
end

