-- ==== Sys2Proof/Machine/Mem.lean ====
section
/-! DEFINITION. The memory accesses of a strand (R166 to R174, R195 to R197): checks of every element, the places where
each is performed, posted and acknowledged accesses, and the delivery of results. -/

namespace Sys2Proof.Machine

/-! ### Elements -/

/-- One element of an access: its lane, address, place, width in bytes, bit mask and, for a store, value. -/
structure Elem where
  lane : Nat
  addr : Word
  at_ : Target
  n : Nat
  mask : Nat
  value : Nat
  deriving DecidableEq, Repr

/-- All bits of n bytes. -/
def fullMask (n : Nat) : Nat := 2 ^ (8 * n) - 1

/-- A place some bytes on. -/
def Target.plus : Target → Nat → Target
  | .own o, i => .own (o + i)
  | .pad c o, i => .pad c (o + i)
  | .virt v, i => .virt (v + i)
  | .phys k, i => .phys (k + i)

/-- Another core's scratchpad. -/
def Target.isPad : Target → Bool
  | .pad _ _ => true
  | _ => false

/-- A virtual address. -/
def Target.isVirt : Target → Bool
  | .virt _ => true
  | _ => false

def Verdict.join : Verdict → Verdict → Verdict
  | .locked, _ => .locked
  | _, .locked => .locked
  | .stall, _ => .stall
  | _, .stall => .stall
  | .views a, .views b => .views ((a ++ b).eraseDups)
  | .views a, .clear => .views a
  | .clear, v => v

/-- The range-lock verdict on the bytes an element reaches (R70, R195). -/
def State.elemVerdict (s : State) (c n : Nat) (write : Bool) (e : Elem) : Verdict :=
  (touchedRuns e.n e.mask).foldl (fun v r => v.join (s.verdict c n (e.at_.plus r.1) write r.2)) .clear

/-- Checks 1 to 7 of R50 on one element of the issuing strand. -/
def State.checkElem (s : State) (w : Right) (lane : Nat) (addr : Word) (n mask value : Nat) : Except (Cause × Word) Elem :=
  match s.target s.cur.1 s.me.mode addr n w with
  | .error e => .error e
  | .ok t =>
    let e : Elem := { lane, addr, at_ := t, n, mask, value }
    match s.elemVerdict s.cur.1 s.cur.2 (w == .write) e with
    | .locked => .error (.rangeLocked, addr)
    | _ => .ok e

/-- Checks on every element; the lowest failing lane decides (R197). -/
def State.checkElems (s : State) (w : Right) : List (Nat × Word × Nat × Nat × Nat) → Except (Cause × Word) (List Elem)
  | [] => .ok []
  | x :: r => match s.checkElem w x.1 x.2.1 x.2.2.1 x.2.2.2.1 x.2.2.2.2 with
    | .error e => .error e
    | .ok e => match State.checkElems s w r with
      | .error e => .error e
      | .ok es => .ok (e :: es)

/-- The verdict on all elements together. -/
def State.verdicts (s : State) (write : Bool) (es : List Elem) : Verdict :=
  es.foldl (fun v e => v.join (s.elemVerdict s.cur.1 s.cur.2 write e)) .clear

/-! ### Destinations -/

/-- Extension of n bytes to 64 bits. -/
def extendTo (n : Nat) (signed : Bool) (v : Nat) : Word :=
  if signed then BitVec.ofInt 64 (signExt n v) else BitVec.ofNat 64 (v % 2 ^ (8 * n))

/-- Bytes of a vector register replaced under a byte predicate; the others keep or become zero (R195). -/
def putBytes (old : VReg) (v : Nat) (p : Word) (zero : Bool) : VReg := vbuild 1 p zero old fun i => v / 2 ^ (8 * i) % 256

/-- Doubleword i of a bank image that was read. -/
def imageWord (got : List Reply) (i : Nat) : Nat := ((got.find? fun r => r.lane == i).map Reply.value).getD 0

/-- The bank an image of 528 doublewords describes (R297). -/
def Bank.ofImage (got : List Reply) : Bank where
  data := BitVec.ofNat 32768 ((List.range 512).foldl (fun a i => a + imageWord got i * 2 ^ (64 * i)) 0)
  scales := BitVec.ofNat 512 ((List.range 8).foldl (fun a i => a + imageWord got (512 + i) * 2 ^ (64 * i)) 0)
  tag :=
    let w := imageWord got 520
    if w % 2 = 0 then none
    else some { ctx := slot 1 16 w, core := slot 17 2 w, strand := slot 19 4 w }

/-- Doubleword i of a bank's image (R297). -/
def Bank.imageWord (b : Bank) (i : Nat) : Nat :=
  if i < 512 then b.data.toNat / 2 ^ (64 * i) % 2 ^ 64
  else if i < 520 then b.scales.toNat / 2 ^ (64 * (i - 512)) % 2 ^ 64
  else if i = 520 then match b.tag with
    | none => 0
    | some t => 1 + t.ctx % 2 ^ 16 * 2 + t.core % 4 * 2 ^ 17 + t.strand % 16 * 2 ^ 19
  else 0

/-- Write a result to its destination when it reaches strand n (R169, R172 to R174, R195, R196). -/
def State.deliver (s : State) (c n : Nat) (d : Dest) (got : List Reply) : State :=
  let r := got.headD { lane := 0, value := 0, serial := 0, err := none }
  match d with
  | .none => s
  | .scalar d n' sg seq =>
    let s := if seq then s.modStrand c n fun t => { t with lastseq := r.serial } else s
    s.writeG c n d (extendTo n' sg r.value)
  | .serial d => s.writeG c n d (r.serial.zeroExtend 64)
  | .bytes vd p z => s.modStrand c n fun t => t.setVreg vd (putBytes (t.vreg vd) r.value p z)
  | .broadcast vd p => s.modStrand c n fun t => t.setVreg vd (vbuild 4 p false (t.vreg vd) fun _ => r.value)
  | .lanes vd w => s.modStrand c n fun t => t.setVreg vd (BitVec.ofNat 512 (ofLanes w ((List.range (64 / w)).map fun i =>
      match got.find? fun r => r.lane == i with
      | some r => r.value
      | none => vlane (t.vreg vd) w i)))
  | .joined => s.modStrand c n fun t => { t with lastseq := r.serial }
  | .bank b => s.modCluster (clusterOf c) fun cl => cl.setBank b (Bank.ofImage got)

/-- Whether the queue a result would be pushed to is full (R113). -/
def State.fullPort (s : State) (c n : Nat) (d : Reg) : Bool :=
  match (s.strand c n).port? d with
  | some q => 16 ≤ (s.core c).queueUse q n
  | none => false

/-- The value of a scalar destination, if the destination is one. -/
def Dest.scalar? : Dest → List Reply → Option (Reg × Word)
  | .scalar d n sg _, r :: _ => some (d, extendTo n sg r.value)
  | .serial d, r :: _ => some (d, r.serial.zeroExtend 64)
  | _, _ => Option.none

/-- The acquire action on a core of cluster scope or wider: bytes that are not dirty leave the L1, and the instruction
cache empties (R55, R83, R156). -/
def Core.acquire (k : Core) : Core := { k.forgetClean with icache := [] }

/-- Where the strand goes when its answers are delivered: `join` skips an instruction unless it brought the counter to
zero, when it acquires (R189). Shadow instructions that have retired are behind it too (R103; log 27). -/
def Dest.flow (d : Dest) (pc : Word) (retired : Nat) (got : List Reply) : Option (Word × Bool) :=
  match d, got with
  | .joined, r :: _ => if r.value = 1 then Option.none else some (pc + BitVec.ofNat 64 (4 * (max 1 retired + 1)), true)
  | _, _ => Option.none

/-- An outstanding access has all its answers: the fault of the lowest lane traps; a full queue holds the result back;
else the result is written (R113, R166, R197). -/
def State.answered (s : State) (c n : Nat) : State :=
  match (s.strand c n).outst with
  | none => s
  | some o => match o.phase with
    | .access d _ _ want got =>
      if got.length < want then s
      else
        let got := sortBy Reply.lane got
        match got.findSome? Reply.err with
        | some (cause, a) => s.setErr c n cause a
        | none => match d.scalar? got with
          | some (r, v) =>
            if s.fullPort c n r then
              let s := match d, got with
                | .scalar _ _ _ true, x :: _ => s.modStrand c n fun t => { t with lastseq := x.serial }
                | _, _ => s
              s.setPhase c n (.push r v (s.core c).ticks)
            else (s.deliver c n d got).setPhase c n (.done none)
          | none =>
            let s := match d, got with
              | .joined, r :: _ => if r.value = 1 then s.modCore c Core.acquire else s
              | _, _ => s
            (s.deliver c n d got).setPhase c n (.done (d.flow o.pc o.retired got))
    | _ => s

/-- The results of the issuing instruction are all at hand: it completes in the pipeline, or waits for its queue. -/
def State.complete (s : State) (srcs : List Reg) (la : La) (d : Dest) (got : List Reply) : State :=
  let s := s.pops srcs
  let held : Bool := match d.scalar? got with
    | some (r, _) => s.fullPort s.cur.1 s.cur.2 r
    | none => false
  if held then (s.hold la (.access d 0 [] got.length got)).answered s.cur.1 s.cur.2
  else
    let s := match d, got with
      | .joined, r :: _ => if r.value = 1 then s.modCore s.cur.1 Core.acquire else s
      | _, _ => s
    let t := s.me
    (s.deliver s.cur.1 s.cur.2 d got).retire (match d.flow t.pc t.skip got with
      | some (a, c) => .to a c
      | none => .on)

/-! ### Requests -/

/-- A request of the issuing strand. -/
def State.request (s : State) (addr : Word) (off lane : Nat) (a : Access) : Req :=
  { core := s.cur.1, strand := s.cn, pc := s.me.pc, part := s.partOf s.cur.1, addr := off, full := addr, lane, access := a }

/-- The L1 holds the bytes an element needs. -/
def Core.presentMask (k : Core) (va n mask : Nat) : Option Nat :=
  match k.frame? (va / 128) with
  | none => if mask = 0 then some 0 else none
  | some (_, fr) =>
    let m := touchedBytes (va % 128) n mask
    if fr.present &&& m = m then some (lineBytes fr.data (va % 128) n) else none

/-- What an element of a load finds at issue: a value, poison, or nothing yet (R54, R74, R168). -/
def State.atHand (s : State) (e : Elem) : Option (Except Cause Nat) :=
  let look (key : Nat) (v : Nat) : Option (Except Cause Nat) := match s.poisoned? (key / 128) with
    | some why => some (.error why)
    | none => some (.ok v)
  match e.at_ with
  | .own o => look (padKey s.cur.1 o) (s.load (padKey s.cur.1 o) e.n)
  | .phys k => look k (s.physLoad k e.n)
  | .pad _ _ => none
  | .virt va => ((s.core s.cur.1).presentMask va e.n e.mask).map Except.ok

/-- The replies of the elements at hand, or the poison of the lowest lane. -/
def State.handReplies (s : State) : List Elem → Except (Cause × Word) (List Reply)
  | [] => .ok []
  | e :: r => match s.atHand e with
    | some (.error why) => .error (why, e.addr)
    | none => s.handReplies r
    | some (.ok v) => (s.handReplies r).map fun rs => replyOk e.lane v 0 :: rs

/-- The frames of hits become the most recently used (R54). -/
def State.touchHits (s : State) (es : List Elem) : State :=
  es.foldl (fun s e => match e.at_ with
    | .virt va => match (s.core s.cur.1).frame? (va / 128) with
      | some (f, _) => s.modCore s.cur.1 fun k => k.touch f
      | none => s
    | _ => s) s

/-- The report of poison met in the issuing core's own array (R168). -/
def State.ownPoison (s : State) (a : Word) (off : Nat) (why : Cause) : State :=
  s.poisonReport (s.core s.cur.1).calends (s.coreLocation s.cur.1 0 0) a (s.partOf s.cur.1) (padKey s.cur.1 off / 128) why

/-- The issuing strand traps at poison, with a report for its own array or for a line of space 0x3. -/
def State.poisonTrap (s : State) (es : List Elem) (cause : Cause) (a : Word) : State :=
  match es.find? fun e => e.addr == a with
  | some e => match e.at_ with
    | .own o => (s.ownPoison a o cause).trap cause a
    | .phys k => (s.physReport s.cur.1 k cause).trap cause a
    | _ => s.trap cause a
  | none => s.trap cause a

/-! ### Loads (R169, R171, R195, R196) -/

/-- A load of the elements (lane, address, bytes, bit mask) into a destination. -/
def State.loads (s : State) (la : La) (srcs writes : List Reg) (d : Dest) (xs : List (Nat × Word × Nat × Nat)) : Out :=
  s.gate srcs [] writes (
    match s.checkElems .read (xs.map fun x => (x.1, x.2.1, x.2.2.1, x.2.2.2, 0)) with
    | .error (cause, a) => .next (s.trap cause a)
    | .ok es =>
      if s.verdicts false es = .stall then .next (s.wait .other)
      else match s.handReplies es with
        | .error (cause, a) => .next (s.poisonTrap es cause a)
        | .ok got =>
          let far := es.filter fun e => (s.atHand e).isNone
          if far.isEmpty then .next ((s.touchHits es).complete srcs la d got)
          else
            let virt := far.filterMap fun e => match e.at_ with
              | .virt _ => some (e.addr, e.lane)
              | _ => none
            let n := (far.head?.map Elem.n).getD 1
            match State.askFills s.cur.1 s.cn virt s with
            | (_, some a) => .next (s.trap .rangeLocked a)
            | (u, none) =>
              let msgs := far.filterMap fun e => match e.at_ with
                | .pad t off => some (Event.portRequest t (s.request e.addr off e.lane (.read e.n e.mask)))
                | _ => none
              .next (((((u.touchHits es).pops srcs).hold la (.access d n virt es.length got))).posts msgs))

/-! ### Stores (R170, R171, R195 to R197, R230) -/

/-- A write to the issuing core's own scratchpad; poison discards it with a report (R77, R168). -/
def State.storeOwn (s : State) (c : Nat) (a : Word) (off n mask v : Nat) : State :=
  if mask = 0 then s
  else match s.poisoned? (padKey c off / 128) with
    | some why => s.poisonReport (s.core c).calends (s.coreLocation c 0 0) a (s.partOf c) (padKey c off / 128) why
    | none => ((s.storeMasked (padKey c off) n mask v).bump (padKey c off / 128)).2

/-- The places of a strand's acknowledgement counter that posted stores on their way or refusals not yet taken hold (R81, R301;
log 25). -/
def Strand.posted (t : Strand) : Nat := t.acks + t.refusals.length

/-- A posted store leaves the core: the counter rises (R81). -/
def State.postStore (s : State) (c n : Nat) (e : Event) : State :=
  (s.modStrand c n fun t => { t with acks := t.acks + 1 }).post e

/-- What becomes of a write: performed or sent; waiting, where it may have sent a victim's write-back; or in a set whose
frames hold only refused write-backs (R54). -/
inductive Stored where
  | done (s : State)
  | wait (s : State)
  | locked
  deriving DecidableEq, Repr

/-- One write of strand n, which has passed its checks: performed locally, in the L1, or sent; it waits for the counter, a
frame or a write-back (R54, R80, R81). A tile write bypasses the L1. -/
def State.storeOne (s : State) (c n : Nat) (pc : Word) (tile : Bool) (a : Word) (t : Target) (nb mask v : Nat) : Stored :=
  let q (off : Nat) : Req :=
    { core := c, strand := n % 16, pc, part := s.partOf c, addr := off, full := a, lane := 0, access := .write nb mask v }
  match t with
  | .own off => .done (s.storeOwn c a off nb mask v)
  | .phys k => .done (match s.poisoned? (k / 128) with
    | some why => s.physReport c k why
    | none => (s.physStore k nb mask v).2)
  | .pad t off => if 64 ≤ (s.strand c n).posted then .wait s else .done (s.postStore c n (.portRequest t (q off)))
  | .virt va =>
    if mask = 0 then .done s
    else if tile then
      if 64 ≤ (s.strand c n).posted then .wait s
      else match s.dropLine c n (va / 128) with
        | none => .wait s
        | some s => .done (s.postStore c n (.sliceAccess (s.homeSlice (s.partOf c) (va / 128)) (q va)))
    else match (s.core c).frame? (va / 128) with
      | some _ => .done (s.modCore c fun k => k.storeFrame va nb mask v)
      | none => match s.allocate c n (va / 128) with
        | .got s => .done (s.modCore c fun k => k.storeFrame va nb mask v)
        | .wait s => .wait s
        | .locked => .locked

/-- Where a write that waits goes; its checks were made at issue. -/
def State.spotTarget (s : State) (c : Nat) (a : Word) : Target :=
  match s.spot c a with
  | (.pad t, off) => if t = c then .own off else .pad t off
  | (.virt _, va) => .virt va

/-- What is left of waiting writes: those not yet performed, and whether the first of them is to trap (R54). -/
structure Drained where
  todo : List (Word × Nat × Nat × Nat)
  locked : Option Word
  state : State
  deriving DecidableEq, Repr

/-- Perform waiting writes in order until one must wait. -/
def State.drain (c n : Nat) (pc : Word) (tile : Bool) : List (Word × Nat × Nat × Nat) → State → Drained
  | [], s => { todo := [], locked := none, state := s }
  | x :: r, s => match s.storeOne c n pc tile x.1 (s.spotTarget c x.1) x.2.1 x.2.2.1 x.2.2.2 with
    | .done s => State.drain c n pc tile r s
    | .wait s => { todo := x :: r, locked := none, state := s }
    | .locked => { todo := x :: r, locked := some x.1, state := s }

/-- The tag of a spilled bank is cleared once its image is written (R297). -/
def State.spilled (s : State) (c : Nat) : Option Nat → State
  | none => s
  | some b => s.modCluster (clusterOf c) fun cl => cl.setBank b { cl.bank b with tag := none }

/-- The issuing instruction's writes: when all are made it completes; else it stays outstanding for the rest, and traps at
its next slot where a set holds only refused write-backs (R54). -/
def Drained.finish (d : Drained) (la : La) (tile : Bool) (spill : Option Nat) : State :=
  let s := d.state
  if d.todo.isEmpty then (s.spilled s.cur.1 spill).retire .on
  else match d.locked with
    | none => s.hold la (.storing tile spill d.todo)
    | some a => (s.hold la (.storing tile spill d.todo)).setErr s.cur.1 s.cur.2 .rangeLocked a

/-- Whether an allocation for a virtual store finds only refused write-backs, which traps (R54). -/
def State.frameLocked (s : State) (e : Elem) : Bool :=
  match e.at_ with
  | .virt va => e.mask ≠ 0 && ((s.core s.cur.1).frame? (va / 128)).isNone && (match s.allocate s.cur.1 s.cn (va / 128) with
    | .locked => true
    | _ => false)
  | _ => false

/-- Elements of a scatter that a later lane overwrites at the same place are not performed (R196). -/
def lastWrites : List Elem → List Elem
  | [] => []
  | e :: r => if r.any fun x => x.at_ == e.at_ then lastWrites r else e :: lastWrites r

/-- A store of the elements (lane, address, bytes, bit mask, value), one of them for all but scatters. -/
def State.stores (s : State) (la : La) (srcs : List Reg) (xs : List (Nat × Word × Nat × Nat × Nat)) : Out :=
  s.gate srcs [] [] (
    match s.checkElems .write xs with
    | .error (cause, a) => .next (s.trap cause a)
    | .ok es =>
      let es := lastWrites es
      let v := s.verdicts true es
      let remote := (es.filter fun e => e.at_.isPad).length
      if v = .stall then .next (s.wait .other)
      else if remote ≠ 0 && 64 < s.me.posted + remote then .next (s.wait .counter)
      else match es.find? fun e => s.frameLocked e with
      | some e => .next (s.trap .rangeLocked e.addr)
      | none =>
        let locks := v.locks
        s.demanding la srcs ((s.core s.cur.1).forced locks) (
          let s := (s.retireViews s.cur.1 locks).pops srcs
          let pc := s.me.pc
          let near := es.filter fun e => !e.at_.isVirt
          let s := near.foldl (fun s e => match s.storeOne s.cur.1 s.cn pc false e.addr e.at_ e.n e.mask e.value with
            | .done s => s
            | _ => s) s
          let virt := (es.filter fun e => e.at_.isVirt).map fun e => (e.addr, e.n, e.mask, e.value)
          .next ((State.drain s.cur.1 s.cn pc false virt s).finish la false none)))

/-! ### Acknowledged accesses (R172 to R174, R189) -/

/-- Checks on an acknowledged access, which may need two rights: those at issue for each right, then check 7 (R50). -/
def State.checkAcked (s : State) (rights : List Right) (a : Word) (n : Nat) : Except (Cause × Word) Elem :=
  match rights.findSome? fun w => match s.target s.cur.1 s.me.mode a n w with
    | .error e => some e
    | .ok _ => none with
  | some e => .error e
  | none => s.checkElem (if rights.contains .write then .write else .read) 0 a n (fullMask n) 0

/-- An acknowledged access, performed at its home (R80, R94). -/
def State.acked (s : State) (la : La) (srcs writes : List Reg) (d : Dest) (rights : List Right) (a : Word) (n : Nat)
    (acc : Access) : Out :=
  s.gate srcs [] writes (
    match s.checkAcked rights a n with
    | .error (cause, x) => .next (s.trap cause x)
    | .ok e =>
      match s.elemVerdict s.cur.1 s.cur.2 (accessWrites acc) e with
      | .stall => .next (s.wait .other)
      | v =>
        let locks := v.locks
        s.demanding la srcs ((s.core s.cur.1).forced locks) (
          let s := s.retireViews s.cur.1 locks
          match e.at_ with
          | .own off =>
            match s.poisoned? (padKey s.cur.1 off / 128) with
            | some why => .next ((s.ownPoison a off why).trap why a)
            | none =>
              let r := s.applyPad (padKey s.cur.1 off) acc
              .next (r.2.2.complete srcs la d [replyOk 0 r.1 r.2.1])
          | .phys k =>
            match s.poisoned? (k / 128) with
            | some why => .next ((s.physReport s.cur.1 k why).trap why a)
            | none =>
              let old := s.physLoad k n
              let r := match acc with
                | .writeAck _ v => s.physStore k n (fullMask n) v
                | .rmw op sg _ x cmp => s.physStore k n (fullMask n) (atomNew op sg n old x cmp)
                | _ => s.serial (k / 128)
              .next (r.2.complete srcs la d [replyOk 0 old r.1])
          | .pad t off =>
            let q := s.request a off 0 acc
            .next (((s.pops srcs).hold la (.access d n [] 1 [])).post (.portRequest t q))
          | .virt va =>
            let q := s.request a va 0 acc
            match s.dropLine s.cur.1 s.cn (va / 128) with
            | none => .next (s.wait .other)
            | some s =>
              .next (((s.pops srcs).hold la (.access d n [] 1 [])).post
                (.sliceAccess (s.homeSlice (s.partOf s.cur.1) (va / 128)) q))))

end Sys2Proof.Machine
end

