-- ==== Sys2Proof/Machine/Sync.lean ====
section
/-! DEFINITION. Releases and acquires (R82 to R85, R180), the group root (R116 to R118, R182, R183), day barriers (R62),
`take` and `join` (R109, R189), and what an outstanding instruction does at its strand's slots (R102). -/

namespace Sys2Proof.Machine

/-! ### Scopes -/

/-- Cluster scope or wider. -/
def wide : Scope → Bool
  | .strand => false
  | .core => false
  | _ => true

/-- What a release finds (R70, R83). -/
inductive Release where
  | wait
  | refused (line : Nat)
  | done
  deriving DecidableEq, Repr

/-- A write-back of the L1 that begins awaits the answers of all lines in flight (R55, R70). -/
def Core.cleaning (k : Core) : Cleaning :=
  { awaited := (k.l1.filter fun e => e.2.sent != 0).map fun e => e.2.line, refused := none }

def Cleaning.result (w : Cleaning) : Release :=
  if !w.awaited.isEmpty then .wait
  else match w.refused with
    | some l => .refused l
    | none => .done

/-- One step of the write-back of every dirty byte of the L1 for an outstanding instruction of strand n (R55, R70,
R296). -/
def State.cleanL1 (s : State) (c n : Nat) : Release × State :=
  match (s.strand c n).outst.bind Outst.cleaning with
  | some w => (w.result, s)
  | none => match s.cleanAll c n with
    | none => (.wait, s)
    | some s =>
      let w := (s.core c).cleaning
      (w.result, s.modStrand c n fun t => { t with outst := t.outst.map fun o => { o with cleaning := some w } })

/-- One step of the release conditions of a scope for an outstanding instruction of strand n (R83): the counter is zero,
then the L1 is written back. -/
def State.release (s : State) (c n : Nat) (sc : Scope) : Release × State :=
  if sc = .strand then (.done, s)
  else if (s.strand c n).acks ≠ 0 then (.wait, s)
  else if !wide sc then (.done, s)
  else s.cleanL1 c n

/-- The address of a virtual line, for TVAL (R70). -/
def lineAddr (l : Nat) : Word := BitVec.ofNat 64 (2 ^ 63 + l * 128)

/-- Whether a line lies in second-tier memory or mapped host memory. -/
def SliceLine.far (l : SliceLine) : Bool := 2 ^ 60 ≤ l.phys && l.phys < 2 ^ 80

/-- Change every slice of a partition. -/
def State.overSlices (s : State) (part : Nat) (f : Nat → State → State) : State :=
  match s.partition? part with
  | none => s
  | some p => p.slices.foldl (fun s k => f k s) s

/-- The release of R85: the slices write their dirty second-tier and host lines. -/
def State.writeFar (s : State) (part : Nat) : State :=
  s.overSlices part fun k s =>
    ((s.slice k).lines.filter fun l => l.far && l.dirty != 0).foldl (fun s l =>
      (s.writeLine l).modSlice k fun sl => sl.putLine { l with dirty := 0 }) s

/-- The acquire of R85: clean slice copies of those lines become absent. -/
def State.dropFar (s : State) (part : Nat) : State :=
  s.overSlices part fun k s => s.modSlice k fun sl => { sl with lines := sl.lines.filter fun l => !(l.far && l.dirty == 0) }

/-- Whether an invalidation-log entry covers a byte range (R333): PAGE is [44:0], PS is [48:45]. -/
def invCovers (w : Word) (va n : Nat) : Bool :=
  overlaps (field 44 0 w * 4096) (2 ^ (12 + field 48 45 w)) va n

/-- Whether a page of a partition is being moved (R330). -/
def State.moving (s : State) (part va : Nat) : Bool :=
  s.changes.any fun x => x.asked.part == part && x.move.any fun m => overlaps m.page (2 ^ (12 + m.ps)) va 1

/-- Whether a page that is being moved has a byte of [va, va + n). -/
def State.movingIn (s : State) (part va n : Nat) : Bool :=
  s.changes.any fun x => x.asked.part == part && x.move.any fun m => overlaps m.page (2 ^ (12 + m.ps)) va n

/-- A slice applies an invalidation: it writes back the page's dirty lines, drops the lines unless the page is being moved,
and drops the translations that overlap (R330, R333, log 11). -/
def State.applyInv (s : State) (k : Nat) (w : Word) : State :=
  let hit := (s.slice k).lines.filter fun l => invCovers w (l.line * 128) 128
  let s := hit.foldl (fun s l => (s.writeLine l).modSlice k fun sl =>
    if s.moving l.part (l.line * 128) then sl.putLine { l with dirty := 0 } else sl.dropLine l.part l.line) s
  s.modSlice k fun sl => { sl with tcache := sl.tcache.filter fun e => !invCovers w e.va (2 ^ (12 + e.ps)) }

/-- The slices of a reticle apply its invalidation log in order and empty it (R85, R333). -/
def State.applyLog (s : State) (site : Nat) : State :=
  let s := (s.reticle site).invLog.foldl (fun s w => (List.range 32).foldl (fun s i => s.applyInv (32 * site + i) w) s) s
  s.setReticle site { s.reticle site with invLog := [] }

/-- The acquire action of a scope (R55, R83, R85, R156). -/
def State.acquire (s : State) (c : Nat) (sc : Scope) : State :=
  if !wide sc then s
  else
    let s := s.modCore c Core.acquire
    if sc = .package then (s.applyLog (siteOf c)).dropFar (s.partOf c) else s

/-! ### Completion of an outstanding instruction -/

/-- It is complete; it ends at the strand's slot (R102). -/
def State.done (s : State) (c n : Nat) : State := s.setPhase c n (.done none)

/-- A scalar result reaches an outstanding instruction, or waits for room in its queue (R113). -/
def State.resultTo (s : State) (c n : Nat) (d : Reg) (v : Word) : State :=
  if s.fullPort c n d then s.setPhase c n (.push d v (s.core c).ticks) else (s.writeG c n d v).done c n

/-- A long-latency instruction has its result at issue: it completes in the pipeline, or a full port of its destination holds the
result back (R113, R126). -/
def State.lateResult (s : State) (srcs : List Reg) (la : La) (d : Reg) (v : Word) : State :=
  let s := s.pops srcs
  if s.fullPort s.cur.1 s.cur.2 d then s.hold la (.push d v (s.core s.cur.1).ticks) else (s.write d v).retire .on

/-- The phase of a strand's outstanding instruction. -/
def Strand.phase? (t : Strand) : Option Phase := t.outst.map Outst.phase

/-- Cycles since an outstanding instruction issued. -/
def State.elapsed (s : State) (c n : Nat) : Nat :=
  match (s.strand c n).outst with
  | some o => (s.core c).ticks - o.since
  | none => 0

/-! ### Groups (R19, R116 to R118, R180 to R183) -/

/-- The table entry of group i as a core's run sees it: the core must be a member (R180). -/
def State.groupOf (s : State) (c i : Nat) : Option Group :=
  s.groups.find? fun g => g.ref.part == s.partOf c && g.ref.idx == i && g.run == (s.core c).run.map Prod.snd && g.members.contains c

def State.group? (s : State) (r : GroupRef) : Option Group := s.groups.find? fun g => g.ref == r
/-- A group's wait limit has passed since a tick (R117, R182). -/
def State.groupLate (s : State) (c : Nat) (r : GroupRef) (since : Nat) : Bool :=
  match s.group? r with
  | none => false
  | some g => 2 ^ g.image.wait ≤ (s.core c).ticks - since

/-- The root of a group. -/
def State.rootOf (s : State) (g : GroupRef) : Option Nat := (s.group? g).bind fun x => x.members.head?
/-- The member that a message climbing a group's tree from a member goes to: its parent, member (i - 1) div 2 for member i, or
the root itself from the root (R336). -/
def Group.above (g : Group) (c : Nat) : Option Nat :=
  match g.members.idxOf? c with
  | some (i + 1) => g.members[i / 2]?
  | _ => g.members.head?
def State.nextUp (s : State) (r : GroupRef) (c : Nat) : Option Nat := (s.group? r).bind fun g => g.above c

def State.modGroup (s : State) (r : GroupRef) (f : Group → Group) : State :=
  { s with groups := s.groups.map fun g => if g.ref == r then f g else g }

/-- Strand numbers of a core whose outstanding instruction is in a phase and has met no trap. -/
def Core.strandsIn (k : Core) (p : Phase → Bool) : List Nat :=
  (List.range 16).filter fun i => match (k.strand i).outst with
    | some o => o.err.isNone && p o.phase
    | none => false

/-- Waiting in group g's barrier episode. -/
def Phase.inBarrier (g : GroupRef) : Phase → Bool
  | .barrier h waits => h == g && waits
  | _ => false

/-- Waiting in group g's reduction episode. -/
def Phase.inReduction (g : GroupRef) : Phase → Bool
  | .reduce h _ _ _ waits => h == g && waits
  | _ => false

/-- An arriver leaves; what it has sent for its core stands (R293). -/
def Core.departed (k : Core) (who : Arriver) : Core :=
  { k with arrivals := k.arrivals.map fun a => if a.arriver == who then { a with arriver := .gone } else a }

/-- Every waiting strand of a core is released from a barrier and acquires; its copies that waited go on to register
their sources (R116, R180, R253). -/
def State.releaseCore (s : State) (g : GroupRef) (c : Nat) : State :=
  if !(s.core c).arrivalSent g.idx false then s
  else
    let waiting := (s.core c).strandsIn (Phase.inBarrier g)
    let copies := (s.core c).copies.filter fun x => x.waitsIn g
    let s := s.modCore c fun k =>
      { k.dropArrival g.idx false with
        copies := k.copies.map fun x => if x.waitsIn g then { x with phase := .passed } else x }
    let s := if waiting.isEmpty then s else s.acquire c .partition
    let s := waiting.foldl (fun s n => s.done c n) s
    s.posts (copies.map fun x => Event.cpyhSourceRegistration c x.id)

/-- The root completes a barrier episode once every expected member has arrived (R116). -/
def State.tryBarrier (s : State) (r : GroupRef) : State :=
  match s.group? r with
  | none => s
  | some g =>
    if g.arrived.isEmpty || !(g.expected.all fun c => g.arrived.contains c) then s
    else
      let s := s.modGroup r fun g => { g with arrived := [] }
      g.members.foldl (fun s c => s.releaseCore r c) s

/-- Combine reduction values (R183). -/
def redCombine (op : RedOp) (a b : Word) : Word :=
  match op with
  | .add => a + b
  | .minI => if b.slt a then b else a
  | .minW => if b.ult a then b else a
  | .maxI => if a.slt b then b else a
  | .maxW => if a.ult b then b else a

/-- The root completes a reduction episode once every expected member has contributed (R183). -/
def State.tryReduction (s : State) (r : GroupRef) : State :=
  match s.group? r with
  | none => s
  | some g =>
    match g.redOp, g.redValues.map Prod.snd with
    | some op, v :: vs =>
      if !(g.expected.all fun c => g.redValues.any fun e => e.1 == c) then s
      else
        let total := vs.foldl (redCombine op) v
        let s := s.modGroup r fun g => { g with redOp := none, redValues := [] }
        g.members.foldl (fun s c =>
          let waiting := (s.core c).strandsIn (Phase.inReduction r)
          let s := s.modCore c fun k => k.dropArrival r.idx true
          let s := if waiting.isEmpty then s else s.acquire c .partition
          waiting.foldl (fun s n => match (s.strand c n).phase? with
            | some (.reduce _ d _ _ _) => s.resultTo c n d total
            | _ => s) s) s
    | _, _ => s

/-- A broadcast whose members have all popped it returns its credit (R182). -/
def Group.popped (g : Group) (seq c : Nat) : Group :=
  { g with unpopped := (g.unpopped.map fun e => if e.1 == seq then (e.1, e.2.filter fun x => x != c) else e).filter fun e => !e.2.isEmpty }

/-- A retiring core leaves every group it belongs to; episodes that then have every expected member complete (R118, R182,
R183). -/
def State.leaveGroups (s : State) (c : Nat) : State :=
  let refs := (s.groups.filter fun g => g.members.contains c && g.run == (s.core c).run.map Prod.snd && g.ref.part == s.partOf c).map Group.ref
  refs.foldl (fun s r =>
    let s := s.modGroup r fun g =>
      { g with expected := g.expected.filter fun x => x != c
               arrived := g.arrived.filter fun x => x != c
               unpopped := (g.unpopped.map fun e => (e.1, e.2.filter fun x => x != c)).filter fun e => !e.2.isEmpty }
    (s.tryBarrier r).tryReduction r) s

/-! ### Day barriers (R62) -/

/-- The pointer modulus of a ring (R61). -/
def Ring.modulus (r : Ring) : Nat := r.cfg.days * 2 ^ 28
/-- Filled days not yet drained. -/
def Ring.held (r : Ring) : Nat := (r.fill + r.modulus - r.drain) % r.modulus

/-- Whether a side's day barrier can complete (R62). -/
def Ring.ready (r : Ring) (drain : Bool) : Bool :=
  if drain then (r.drainArr &&& r.cfg.cons) == r.cfg.cons && r.held != 0
  else (r.fillArr &&& r.cfg.prod) == r.cfg.prod && r.held < r.cfg.days - 1

def Ring.advance (r : Ring) (drain : Bool) : Ring :=
  if drain then { r with drain := (r.drain + 1) % r.modulus, drainArr := 0 }
  else { r with fill := (r.fill + 1) % r.modulus, fillArr := 0 }

def Core.setRing (k : Core) (i : Nat) (r : Ring) : Core := { k with rings := assign i r k.rings }

/-- The conditions of a day barrier hold: the pointer advances and every waiting member proceeds in that cc (R62). -/
def State.dayAdvance (s : State) (c i : Nat) (drain : Bool) : State :=
  match (s.core c).ring? i with
  | none => s
  | some r =>
    if !r.ready drain then s
    else
      let waiting := (s.core c).strandsIn fun p => p == .daybar i drain
      let s := s.modCore c fun k => k.setRing i (r.advance drain)
      waiting.foldl (fun s n => s.done c n) s

/-- A strand's arrival (R62); a pointer that advances may complete the other side in the same cc. -/
def State.dayArrive (s : State) (c n i : Nat) (drain : Bool) : State :=
  match (s.core c).ring? i with
  | none => s
  | some r =>
    let bit := BitVec.ofNat 16 (2 ^ (n % 16))
    let s := s.modCore c fun k => k.setRing i
      (if drain then { r with drainArr := r.drainArr ||| bit } else { r with fillArr := r.fillArr ||| bit })
    (s.dayAdvance c i drain).dayAdvance c i (!drain)

/-! ### `vigil` (R185) -/

/-- Whether a vigil's condition holds. -/
def Core.vigilHolds (k : Core) (fn q : Nat) : Bool :=
  if fn = 0 then 0 < (k.queue q).entries.length
  else if fn = 1 then (k.queue q).entries.length < 16
  else match k.ring? q with
    | none => false
    | some r => if fn = 2 then r.held != 0 else r.held < r.cfg.days - 1

/-- Entries, head and tail of a queue in bits [12:0] (R114). -/
def Queue.bits (q : Queue) : Nat := q.entries.length * 256 + q.head * 16 + (q.head + q.entries.length) % 16

/-- TVAL of a vigil's timeout (R185). -/
def Core.vigilTval (k : Core) (fn q : Nat) : Word :=
  BitVec.ofNat 64 (fn * 2 ^ 24 + q * 2 ^ 16 + (if fn < 2 then (k.queue q).bits else match k.ring? q with
    | none => 0
    | some r => r.fill % r.cfg.days * 256 + r.drain % r.cfg.days))

/-! ### `take` (R109, R188, R264) -/

/-- The first `take` of a core's steward completes (R264). -/
def State.tookFirst (s : State) (c n : Nat) : State :=
  if n % 16 = 0 then s.modDeque c fun q => { q with taken := true } else s

/-- A frame's arguments and pointers enter a strand (R18, R188). -/
def Strand.loadFrame (t : Strand) (f : Frame) : Strand :=
  let t := (List.range 6).foldl (fun t i => t.setGreg (BitVec.ofNat 5 (4 + i)) (f.args.toList.getD i 0)) t
  { t with fmta := f.fmta, fmtb := f.fmtb, scla := f.scla, sclb := f.sclb }

/-- A `take` at `pc` has its frame, or none (R188). -/
def State.taken (s : State) (c n : Nat) (d : Reg) (pc : Word) (r : Option Frame) : State :=
  match r with
  | none => (s.writeG c n d 0).tookFirst c n
  | some f => ((s.modStrand c n fun t => t.loadFrame f).writeG c n d (pc + 4)).tookFirst c n

/-- Where the strand goes after a `take`: ENTRY, with no end action and no cancellation, or on (R188). -/
def takenTo : Option Frame → Option (Word × Bool)
  | none => none
  | some f => some (f.entry, false)

/-- The next request of a `take`, or its failure (R109). -/
def State.askVictim (s : State) (c n : Nat) (d : Reg) (asked : List Nat) (replies : Nat) : State :=
  let failed := Phase.take d asked replies (some (none, (s.core c).ticks))
  if 8 ≤ replies then s.setPhase c n failed
  else
    let v := s.victim c asked
    let s := s.modDeque c fun q => { q with steal := v.2 }
    match v.1 with
    | none => s.setPhase c n failed
    | some x => (s.setPhase c n (.take d (asked ++ [x]) replies none)).post (.theftRequest x c n)

/-! ### Acknowledged requests of an outstanding instruction (R189) -/

/-- Send the decrement of a `join` whose release is done, or perform it on the core's own banks; none while the L1 must
wait (R80, R189). -/
def State.sendJoin (s : State) (c n : Nat) (pc a : Word) : Option State :=
  let mine (s : State) (r : Reply) : State := (s.setPhase c n (.access .joined 8 [] 1 [r])).answered c n
  let acc : Access := .rmw .add false 8 (BitVec.allOnes 64) 0
  let q (off : Nat) : Req := { core := c, strand := n % 16, pc, part := s.partOf c, addr := off, full := a, lane := 0, access := acc }
  match s.target c (s.strand c n).mode a 8 .write with
  | .error (cause, x) => some (s.setErr c n cause x)
  | .ok t => match s.verdict c n t true 8, t with
  | .locked, _ => some (s.setErr c n .rangeLocked a)
  | .stall, _ => none
  | _, .own off => match s.poisoned? (padKey c off / 128) with
      | some why => some ((s.poisonReport (s.core c).calends (s.coreLocation c 0 0) a (s.partOf c) (padKey c off / 128) why).setErr c n why a)
      | none =>
        let r := s.applyPad (padKey c off) acc
        some (mine r.2.2 (replyOk 0 r.1 r.2.1))
  | _, .phys k => match s.poisoned? (k / 128) with
    | some why => some ((s.physReport c k why).setErr c n why a)
    | none =>
      let old := s.physLoad k 8
      let r := s.physStore k 8 (fullMask 8) ((old + (2 ^ 64 - 1)) % 2 ^ 64)
      some (mine r.2 (replyOk 0 old r.1))
  | _, .pad t off => some ((s.setPhase c n (.access .joined 8 [] 1 [])).post (.portRequest t (q off)))
  | _, .virt va => (s.dropLine c n (va / 128)).map fun s =>
      (s.setPhase c n (.access .joined 8 [] 1 [])).post (.sliceAccess (s.homeSlice (s.partOf c) (va / 128)) (q va))

/-! ### The network (R295, R298) -/

/-- The far end of a message that is a request of core c or its answer: nothing for any other event; one without a home
where the event names none. -/
def State.farEnd (s : State) (c : Nat) (e : Event) : List (Option Home) :=
  let of_ (core : Nat) (h : Home) : List (Option Home) := if core = c then [some h] else []
  let slice (line : Nat) : Home := .slice (s.homeSlice (s.partOf c) line)
  let root (core : Nat) (g : GroupRef) : List (Option Home) :=
    if core = c then [((s.group? g).bind fun x => x.members.head?).map Home.pad] else []
  let up (core m : Nat) (g : GroupRef) : List (Option Home) := if core = c || m = c then [(s.nextUp g m).map Home.pad] else []
  let any_ (core : Nat) : List (Option Home) := if core = c then [none] else []
  match e with
  | .portRequest t q => of_ q.core (.pad t)
  | .sliceAccess k q => of_ q.core (.slice k)
  | .loadResponse t _ h _ => of_ t h
  | .postedStoreAck t _ h _ => of_ t h
  | .l1FillResponse t line _ => of_ t (slice line)
  | .l1WritebackReply t line _ => of_ t (slice line)
  | .lockRegistration h x => of_ x.core h
  | .lockRegistrationAck t _ h _ => of_ t h
  | .lockRelease h t _ => of_ t h
  | .barrierArrival g t m => up t m g
  | .barrierWithdrawal g t _ m => up t m g
  | .broadcastAccept g t _ _ => root t g
  | .broadcastCreditReturn g t _ m => up t m g
  | .reductionContribution g t _ _ _ m => up t m g
  | .theftRequest v t _ => of_ t (.pad v)
  | .theftReply t n _ => match (s.strand t n).phase? with
    | some (.take _ asked _ _) => match asked.getLast? with
      | some v => of_ t (.pad v)
      | none => any_ t
    | _ => any_ t
  | .levellingGrantRequest b a _ => of_ a (.pad b)
  | .levellingGrant a b _ => of_ a (.pad b)
  | .levelledFrameArrival b a _ _ => of_ a (.pad b)
  | .streamerUnitRead t _ _ => any_ t
  | .copyUnitWrite t _ _ _ => any_ t
  | .instructionFetchReturn t n => of_ t (slice (field 56 0 (s.strand t n).pc / 128))
  | .operandFetchComplete t _ => any_ t
  | .twloadFetchComplete t _ => any_ t
  | .secondTierCompletion t _ => any_ t
  | _ => []

/-- The far ends of every message of a core that is not answered: in flight, waiting at a slice, or ejected (R295, R314). -/
def State.farEnds (s : State) (c : Nat) : List (Option Home) :=
  s.agenda.flatMap (s.farEnd c) ++ s.ejected.flatMap (fun x => s.farEnd c x.2)
    ++ s.slices.flatMap fun e => (e.2.waiting.filter fun q => q.core == c).map fun _ => some (Home.slice e.1)

/-- The core has no message outstanding on either network (R295). -/
def State.netQuiet (s : State) (c : Nat) : Bool :=
  (s.farEnds c).isEmpty && (s.core c).strands.toList.all fun t => t.acks == 0

/-- The sites of a core's partition. -/
def State.sitesOf (s : State) (c : Nat) : List Nat :=
  match s.partition? (s.partOf c) with
  | none => []
  | some p => (List.range Config.sites).filter fun x => (p.rel? x).isSome

/-- Every slice has applied the invalidation entries that each site had appended by a mark (R295). -/
def State.logsApplied (s : State) (marks : List (Nat × Nat)) : Bool :=
  marks.all fun m => m.2 ≤ (s.reticle m.1).seq - (s.reticle m.1).invLog.length

/-- The destination a result waits for, if an outstanding instruction has one and its port is full, and the tick of the first
push tried (R113, R114). -/
def State.heldResult (s : State) (c n : Nat) : Option (Reg × Nat) :=
  match (s.strand c n).outst with
  | none => none
  | some o =>
    if o.err.isSome then none
    else match o.phase with
      | .push d _ since => if s.fullPort c n d then some (d, since) else none
      | .bcastRecv g d _ (some since) =>
        if s.fullPort c n d && !(lookupD [] g.idx (s.core c).bcast).isEmpty then some (d, since) else none
      | .take d _ _ (some (_, since)) =>
        if s.fullPort c n d then some (d, since) else none
      | _ => none

/-! ### Service at the strand's slots -/

/-- Go on when a release or write-back is done; a refused one traps (R70). -/
def State.onRelease (s : State) (c n : Nat) (r : Release) (go : State → State) : State :=
  match r with
  | .wait => s
  | .refused l => s.setErr c n .rangeLocked (lineAddr l)
  | .done => go s

/-- A `bcast.recv` whose release is done looks at its buffer: it pops the oldest value when its destination can take it
(R113, R182). -/
def State.receive (s : State) (c n : Nat) (g : GroupRef) (d : Reg) (first : Nat) (push : Option Nat) : State :=
  match lookupD [] g.idx (s.core c).bcast with
  | [] => s.setPhase c n (.bcastRecv g d (some first) none)
  | (seq, v) :: r =>
    if s.fullPort c n d then s.setPhase c n (.bcastRecv g d (some first) (some (push.getD (s.core c).ticks)))
    else
      let s := s.modCore c fun k => { k with bcast := assign g.idx r k.bcast }
      ((s.post (.broadcastCreditReturn g c seq c)).acquire c .partition).resultTo c n d v

/-- Instructions that release before their message leaves the core (R180, R189). -/
def State.releaseThen (s : State) (c n : Nat) (sc : Scope) (go : State → State) : State :=
  let r := s.release c n sc
  r.2.onRelease c n r.1 go

/-- A strand of a group operation joins its core's part in the episode, or makes it: it releases, and then the message
leaves the core (R116, R180, R183). A refused write-back traps, and nothing has left the core. -/
def State.arriveThen (s : State) (c n : Nat) (g : GroupRef) (red : Bool) (join send : State → State) : State :=
  let a : Arrival := { idx := g.idx, reduction := red, arriver := .strand (n % 16), sent := false, withdrawn := false }
  let go (s : State) : State :=
    let r := s.release c n .partition
    match r.1 with
    | .wait => r.2
    | .refused l => (r.2.setErr c n .rangeLocked (lineAddr l)).forsake c a.arriver
    | .done => send (r.2.modCore c fun k => k.sendArrival g.idx red)
  match (s.core c).arrival? g.idx red with
  | none => go (s.modCore c fun k => k.putArrival a)
  | some b => if b.arriver = a.arriver && !b.sent then go s else join s

/-- What an outstanding instruction does at a slot of its strand: it tests its condition or takes its next step
(R81, R113, R175, R180 to R190, R230, R295, R296). -/
def State.service (s : State) (c n : Nat) : State :=
  match (s.strand c n).outst with
  | none => s
  | some o =>
    if o.err.isSome then s
    else match o.phase with
    | .access _ _ need _ _ =>
      match State.askFills c n need s with
      | (s, some a) => s.setErr c n .rangeLocked a
      | (s, none) => s
    | .push d v _ => if s.fullPort c n d then s else (s.writeG c n d v).done c n
    | .fence true acq sc => s.releaseThen c n sc fun s =>
        if sc = .package then
          let part := s.partOf c
          let far := match s.partition? part with
            | some p => p.slices.any fun k => (s.slice k).lines.any fun l => l.far && l.dirty != 0
            | none => false
          if far then ((s.writeFar part).setPhase c n (.tier acq)).post (.secondTierCompletion c n)
          else if acq then (s.acquire c sc).done c n else s.done c n
        else if acq then (s.acquire c sc).done c n else s.done c n
    | .fence false _ sc => (s.acquire c sc).done c n
    | .fenceAck => if (s.strand c n).acks = 0 then s.done c n else s
    | .vigil fn d q _ =>
      if (s.core c).vigilHolds fn q then s.resultTo c n d (BitVec.ofNat 64 (s.elapsed c n)) else s
    | .daybar i drain => s.dayAdvance c i drain
    | .barrier g false =>
      let waits (s : State) := s.setPhase c n (.barrier g true)
      s.arriveThen c n g false waits fun s => (waits s).post (.barrierArrival g c c)
    | .reduce g d op b false =>
      let waits (s : State) := s.setPhase c n (.reduce g d op b true)
      s.arriveThen c n g true waits fun s => (waits s).post (.reductionContribution g c (n % 16) op b c)
    | .bcastSend g v false none => s.releaseThen c n .partition fun s =>
        (s.setPhase c n (.bcastSend g v true (some (s.core c).ticks))).post (.broadcastAccept g c n v)
    | .bcastSend g v false (some first) =>
      if s.groupLate c g first then s
      else (s.setPhase c n (.bcastSend g v true (some first))).post (.broadcastAccept g c n v)
    | .bcastRecv g d none _ => s.releaseThen c n .partition fun s => s.receive c n g d (s.core c).ticks none
    | .bcastRecv g d (some first) push => s.receive c n g d first push
    | .take d _ _ (some (r, _)) =>
      if s.fullPort c n d then s else (s.taken c n d o.pc r).setPhase c n (.done (takenTo r))
    | .joinRelease a => s.releaseThen c n .partition fun s => (s.sendJoin c n o.pc a).getD s
    | .yield => if 1 ≤ (s.core c).deque.depth || 4096 ≤ s.elapsed c n then s.done c n else s
    | .register waiting refused first node copy =>
      if waiting.isEmpty && !refused.isEmpty then
        let s := s.setPhase c n (.register refused [] first node copy)
        refused.foldl (fun s x => match (s.core c).locks.find? fun e => e.id == x.1 with
          | some e => s.post (.lockRegistration x.2 e)
          | none => s) s
      else s
    | .l1wb =>
      let r := s.cleanL1 c n
      r.2.onRelease c n r.1 fun s => s.done c n
    | .netsync => if s.netQuiet c then s.done c n else s
    | .ptsync marks => if s.logsApplied marks then s.done c n else s
    | .storing tile spill todo =>
      let r := State.drain c n o.pc tile todo s
      if r.todo.isEmpty then (r.state.spilled c spill).done c n
      else
        let s := r.state.setPhase c n (.storing tile spill r.todo)
        match r.locked with
        | some a => s.setErr c n .rangeLocked a
        | none => s
    | _ => s

/-- An outstanding instruction ends when it is complete. -/
def State.endDone (s : State) (c n : Nat) : State :=
  match (s.strand c n).phase? with
  | some (.done none) => s.finish c n .on
  | some (.done (some (a, cancels))) => s.finish c n (.to a cancels)
  | _ => s

/-- The issuing instruction becomes outstanding and takes its first step at once; one that is then complete completes in
the pipeline (R166, R175, R185). -/
def State.begin (s : State) (srcs : List Reg) (la : La) (p : Phase) : State :=
  ((((s.pops srcs).hold la p).service s.cur.1 s.cur.2)).endDone s.cur.1 s.cur.2

end Sys2Proof.Machine
end

