-- ==== Sys2Proof/Machine/Almanac.lean ====
section
/-! DEFINITION. Almanac lookups and evictions (R58, R59, R176, R178). -/

namespace Sys2Proof.Machine

/-- The entry index of a valid almanac entry with a tag. -/
def Core.alFind (k : Core) (tag : Nat) : Option (Nat × AlEntry) := k.almanac.find? fun e => e.2.tag == tag

/-- The lowest-numbered invalid entry. -/
def Core.alFree (k : Core) : Option Nat := (List.range k.almN).find? fun i => !(k.almanac.any fun e => e.1 == i)

/-- Whether an address is a virtual address with its must-be-zero bits clear (R176). -/
def plainVirt (a : Word) : Bool := field 63 60 a = 8 && field 62 57 a = 0

/-- R176. Looks up a granule in the almanac. -/
def execAlook (d : Reg) (a : Reg) (la : La) (s : State) : Out :=
  s.gate [a] [] [d] (
    let k := s.core s.cur.1
    let x := s.read a
    if k.almN = 0 || !plainVirt x then .next (s.trap .localRange x)
    else
      let v : Nat := match k.alFind (field 56 0 x / 2 ^ k.almS) with
        | some (i, e) => (if e.filling.isSome then 2 ^ 62 else 0) + i
        | none => 2 ^ 63 + (k.alFree).getD 0x7FF
      .next (s.lateResult [a] la d (BitVec.ofNat 64 v)))

/-- R178. Invalidates an almanac entry; one that the strand's own copy fills leaves in the cc that copy retires (R179). -/
def execAlevict (a : Reg) (_la : La) (s : State) : Out :=
  s.gate [a] [] [] (
    if s.me.stall.any fun w => w.pc == s.me.pc && w.why == .evicted then .next ((s.pops [a]).retire .on)
    else
    let k := s.core s.cur.1
    let i := (s.read a).toNat
    let drop := (s.pops [a]).modCore s.cur.1 fun k => { k with almanac := unassign i k.almanac }
    if k.almN ≤ i then .next (s.trap .localRange (s.read a))
    else match (k.almanac.find? fun e => e.1 == i).map fun e => e.2.filling with
      | none => .next ((s.pops [a]).retire .on)
      | some none => .next (drop.retire .on)
      | some (some n) =>
        if n = s.cn then .next (s.wait (.evict i))
        else .next (s.trap .rangeLocked (BitVec.ofNat 64 (k.almBase + i * 2 ^ k.almS))))

end Sys2Proof.Machine
end

