-- ==== Sys2Proof/Machine/Alu.lean ====
section
/-! DEFINITION. The integer ALU operations (R145, R146). -/

namespace Sys2Proof.Machine

/-- R145. Writes the 64-bit sum of a and b to d. -/
def execAdd (d : Reg) (a : Reg) (b : Reg) (s : State) : Out :=
  op2 s d a b fun x y => x + y

/-- R145. Writes a minus b to d. -/
def execSub (d : Reg) (a : Reg) (b : Reg) (s : State) : Out :=
  op2 s d a b fun x y => x - y

/-- R145. Writes the bitwise AND of a and b to d. -/
def execAnd (d : Reg) (a : Reg) (b : Reg) (s : State) : Out :=
  op2 s d a b fun x y => x &&& y

/-- R145. Writes the bitwise OR of a and b to d. -/
def execOr (d : Reg) (a : Reg) (b : Reg) (s : State) : Out :=
  op2 s d a b fun x y => x ||| y

/-- R145. Writes the bitwise XOR of a and b to d. -/
def execXor (d : Reg) (a : Reg) (b : Reg) (s : State) : Out :=
  op2 s d a b fun x y => x ^^^ y

/-- R145. Writes a AND NOT b to d. -/
def execAndn (d : Reg) (a : Reg) (b : Reg) (s : State) : Out :=
  op2 s d a b fun x y => x &&& ~~~y

/-- R145. Writes a OR NOT b to d. -/
def execOrn (d : Reg) (a : Reg) (b : Reg) (s : State) : Out :=
  op2 s d a b fun x y => x ||| ~~~y

/-- R145. Writes NOT (a XOR b) to d. -/
def execXnor (d : Reg) (a : Reg) (b : Reg) (s : State) : Out :=
  op2 s d a b fun x y => ~~~(x ^^^ y)

/-- R145. Writes the sign-extended low 32 bits of a plus b to d. -/
def execAddw (d : Reg) (a : Reg) (b : Reg) (s : State) : Out :=
  op2 s d a b fun x y => sextW (x + y)

/-- R145. Writes the sign-extended low 32 bits of a minus b to d. -/
def execSubw (d : Reg) (a : Reg) (b : Reg) (s : State) : Out :=
  op2 s d a b fun x y => sextW (x - y)

/-- R145. Writes a plus b shifted left by 1 to d. -/
def execLea1 (d : Reg) (a : Reg) (b : Reg) (s : State) : Out :=
  op2 s d a b fun x y => x + (y <<< 1)

/-- R145. Writes a plus b shifted left by 2 to d. -/
def execLea2 (d : Reg) (a : Reg) (b : Reg) (s : State) : Out :=
  op2 s d a b fun x y => x + (y <<< 2)

/-- R145. Writes a plus b shifted left by 3 to d. -/
def execLea3 (d : Reg) (a : Reg) (b : Reg) (s : State) : Out :=
  op2 s d a b fun x y => x + (y <<< 3)

/-- R145. Writes a plus b shifted left by 4 to d. -/
def execLea4 (d : Reg) (a : Reg) (b : Reg) (s : State) : Out :=
  op2 s d a b fun x y => x + (y <<< 4)

/-- R146. Forms a named-scratchpad address from a packed core name and an offset. -/
def execGname (d : Reg) (a : Reg) (b : Reg) (s : State) : Out :=
  op2 s d a b fun x y => (2 : BitVec 4) ++ x.extractLsb' 0 14 ++ (0 : BitVec 27) ++ y.extractLsb' 0 19

end Sys2Proof.Machine
end

