-- ==== Sys2Proof/Machine/Atomic.lean ====
section
/-! DEFINITION. Atomic operations (R86, R174). -/

namespace Sys2Proof.Machine

/-- Bytes of a width code (R174). -/
def atomBytes : AWidth → Nat
  | .w32 => 4
  | .w64 => 8

/-- An atomic: `acas` also reads d, which it compares with (R174). -/
def State.atomic (s : State) (la : La) (op : AtomOp) (sg : Bool) (w : AWidth) (d a b : Reg) : Out :=
  let n := atomBytes w
  s.acked la (if op = .cas then [a, b, d] else [a, b]) [d] (.scalar d n sg true) [.read, .write] (s.read a) n
    (.rmw op sg n (s.read b) (if op = .cas then s.read d else 0))

/-- R174. Atomically swaps a value at its home. -/
def execAswap (w : AWidth) (d : Reg) (a : Reg) (b : Reg) (la : La) (s : State) : Out :=
  s.atomic la .swap false w d a b

/-- R174. Atomically compares and swaps at its home. -/
def execAcas (w : AWidth) (d : Reg) (a : Reg) (b : Reg) (la : La) (s : State) : Out :=
  s.atomic la .cas false w d a b

/-- R174. Atomically adds at its home. -/
def execAadd (w : AWidth) (d : Reg) (a : Reg) (b : Reg) (la : La) (s : State) : Out :=
  s.atomic la .add false w d a b

/-- R174. Atomically ANDs at its home. -/
def execAand (w : AWidth) (d : Reg) (a : Reg) (b : Reg) (la : La) (s : State) : Out :=
  s.atomic la .and false w d a b

/-- R174. Atomically ORs at its home. -/
def execAor (w : AWidth) (d : Reg) (a : Reg) (b : Reg) (la : La) (s : State) : Out :=
  s.atomic la .or false w d a b

/-- R174. Atomically XORs at its home. -/
def execAxor (w : AWidth) (d : Reg) (a : Reg) (b : Reg) (la : La) (s : State) : Out :=
  s.atomic la .xor false w d a b

/-- R174. Atomically keeps the smaller value at its home. -/
def execAmin (sg : Bool) (w : AWidth) (d : Reg) (a : Reg) (b : Reg) (la : La) (s : State) : Out :=
  s.atomic la .min sg w d a b

/-- R174. Atomically keeps the larger value at its home. -/
def execAmax (sg : Bool) (w : AWidth) (d : Reg) (a : Reg) (b : Reg) (la : La) (s : State) : Out :=
  s.atomic la .max sg w d a b

end Sys2Proof.Machine
end

