-- ==== Sys2Proof/Machine/Branch.lean ====
section
/-! DEFINITION. Branches and jumps (R153, R154). -/

namespace Sys2Proof.Machine

/-- A conditional branch (R153). A taken one cancels the loops its target leaves (R106). -/
def branch (s : State) (a b : Reg) (off : BitVec 15) (cond : Word → Word → Bool) : Out :=
  s.gate [a, b] [] [] (.next ((s.pops [a, b]).retire
    (if cond (s.read a) (s.read b) then .to (s.me.pc + (sext64 off <<< 2)) true else .on)))

/-- R154. Jumps PC-relative and writes the link. -/
def execJal (d : Reg) (imm : BitVec 20) (s : State) : Out :=
  s.gate [] [d] [d] (.next ((s.write d (s.me.pc + 4)).retire (.to (s.me.pc + (sext64 imm <<< 2)) (d == 0))))

/-- R154. Jumps to a plus an immediate and writes the link. -/
def execJalr (d : Reg) (a : Reg) (imm : BitVec 15) (s : State) : Out :=
  s.gate [a] [d] [d] (
    let t := s.read a + sext64 imm
    if t &&& 3 ≠ 0 then .next (s.trap .misaligned t)
    else .next (((s.pops [a]).write d (s.me.pc + 4)).retire (.to t (d == 0))))

/-- R153. Branches if a equals b. -/
def execBeq (a : Reg) (b : Reg) (off : BitVec 15) (s : State) : Out :=
  branch s a b off fun x y => x == y

/-- R153. Branches if a differs from b. -/
def execBne (a : Reg) (b : Reg) (off : BitVec 15) (s : State) : Out :=
  branch s a b off fun x y => x != y

/-- R153. Branches if a is less than b, signed. -/
def execBltI64 (a : Reg) (b : Reg) (off : BitVec 15) (s : State) : Out :=
  branch s a b off fun x y => x.slt y

/-- R153. Branches if a is at least b, signed. -/
def execBgeI64 (a : Reg) (b : Reg) (off : BitVec 15) (s : State) : Out :=
  branch s a b off fun x y => !x.slt y

/-- R153. Branches if a is less than b, unsigned. -/
def execBltW64 (a : Reg) (b : Reg) (off : BitVec 15) (s : State) : Out :=
  branch s a b off fun x y => x.ult y

/-- R153. Branches if a is at least b, unsigned. -/
def execBgeW64 (a : Reg) (b : Reg) (off : BitVec 15) (s : State) : Out :=
  branch s a b off fun x y => !x.ult y

end Sys2Proof.Machine
end

