-- ==== Sys2Proof/Machine/Compare.lean ====
section
/-! DEFINITION. Compare, select, minimum and maximum (R150). -/

namespace Sys2Proof.Machine

/-- R150. Writes 1 if a equals b, else 0. -/
def execSeq (d : Reg) (a : Reg) (b : Reg) (s : State) : Out :=
  op2 s d a b fun x y => ofBool (x == y)

/-- R150. Writes 1 if a differs from b, else 0. -/
def execSne (d : Reg) (a : Reg) (b : Reg) (s : State) : Out :=
  op2 s d a b fun x y => ofBool (x != y)

/-- R150. Writes 1 if a is less than b, signed. -/
def execSltI64 (d : Reg) (a : Reg) (b : Reg) (s : State) : Out :=
  op2 s d a b fun x y => ofBool (x.slt y)

/-- R150. Writes 1 if a is less than b, unsigned. -/
def execSltW64 (d : Reg) (a : Reg) (b : Reg) (s : State) : Out :=
  op2 s d a b fun x y => ofBool (x.ult y)

/-- R150. Writes 1 if a is at most b, signed. -/
def execSleI64 (d : Reg) (a : Reg) (b : Reg) (s : State) : Out :=
  op2 s d a b fun x y => ofBool (x.sle y)

/-- R150. Writes 1 if a is at most b, unsigned. -/
def execSleW64 (d : Reg) (a : Reg) (b : Reg) (s : State) : Out :=
  op2 s d a b fun x y => ofBool (x.ule y)

/-- R150. Writes the signed smaller of a and b. -/
def execMinI64 (d : Reg) (a : Reg) (b : Reg) (s : State) : Out :=
  op2 s d a b fun x y => if y.slt x then y else x

/-- R150. Writes the unsigned smaller of a and b. -/
def execMinW64 (d : Reg) (a : Reg) (b : Reg) (s : State) : Out :=
  op2 s d a b fun x y => if y.ult x then y else x

/-- R150. Writes the signed larger of a and b. -/
def execMaxI64 (d : Reg) (a : Reg) (b : Reg) (s : State) : Out :=
  op2 s d a b fun x y => if x.slt y then y else x

/-- R150. Writes the unsigned larger of a and b. -/
def execMaxW64 (d : Reg) (a : Reg) (b : Reg) (s : State) : Out :=
  op2 s d a b fun x y => if x.ult y then y else x

/-- R150. Writes 0 if b is nonzero, else a. -/
def execCzn (d : Reg) (a : Reg) (b : Reg) (s : State) : Out :=
  op2 s d a b fun x y => if y = 0 then x else 0

/-- R150. Writes 0 if b is zero, else a. -/
def execCzz (d : Reg) (a : Reg) (b : Reg) (s : State) : Out :=
  op2 s d a b fun x y => if y = 0 then 0 else x

end Sys2Proof.Machine
end

