-- ==== Sys2Proof/Machine/Convert.lean ====
section
/-! DEFINITION. Scalar conversions, classification and comparison (R163 to R165). -/

namespace Sys2Proof.Machine

/-- The bits of a register a format occupies (R158). -/
def State.low (s : State) (f : Flt) (r : Reg) : Nat := (s.read r).toNat % 2 ^ f.width

/-- Conversion between binary formats (R163). -/
def convertOp (s : State) (src dst : Flt) (mode : Mode) (d a : Reg) : Out :=
  s.resultFlags [a] d (src.convert dst mode (s.low src a))

/-- Conversion to an integer (R34, R163): 32-bit signed results are sign-extended, unsigned ones zero-extended. -/
def toIntOp (s : State) (f : Flt) (signed : Bool) (n : Nat) (mode : Mode) (d a : Reg) : Out :=
  let r := (f.value (s.low f a)).toInt mode signed n
  s.resultFlags [a] d ((BitVec.ofInt 64 r.1).toNat, r.2)

/-- A comparison (R165). -/
def compareOp (s : State) (f : Flt) (c : Cmp) (d a b : Reg) : Out :=
  let r := f.compare c (s.low f a) (s.low f b)
  s.resultFlags [a, b] d (if r.1 then 1 else 0, r.2)

/-- R163. Narrows binary64 to binary32. -/
def execFcvtF32F64 (rm : Rm) (d : Reg) (a : Reg) (s : State) : Out :=
  convertOp s binary64 binary32 (s.me.mode? rm) d a

/-- R163. Widens binary32 to binary64 exactly. -/
def execFcvtF64F32 (d : Reg) (a : Reg) (s : State) : Out :=
  convertOp s binary32 binary64 .rne d a

/-- R163. Narrows binary32 to binary16. -/
def execFcvtF16F32 (rm : Rm) (d : Reg) (a : Reg) (s : State) : Out :=
  convertOp s binary32 binary16 (s.me.mode? rm) d a

/-- R163. Widens binary16 to binary32 exactly. -/
def execFcvtF32F16 (d : Reg) (a : Reg) (s : State) : Out :=
  convertOp s binary16 binary32 .rne d a

/-- R163. Narrows binary32 to bfloat16. -/
def execFcvtBf16F32 (rm : Rm) (d : Reg) (a : Reg) (s : State) : Out :=
  convertOp s binary32 bfloat16 (s.me.mode? rm) d a

/-- R163. Widens bfloat16 to binary32 exactly. -/
def execFcvtF32Bf16 (d : Reg) (a : Reg) (s : State) : Out :=
  convertOp s bfloat16 binary32 .rne d a

/-- R163. Narrows binary64 to binary16. -/
def execFcvtF16F64 (rm : Rm) (d : Reg) (a : Reg) (s : State) : Out :=
  convertOp s binary64 binary16 (s.me.mode? rm) d a

/-- R163. Widens binary16 to binary64 exactly. -/
def execFcvtF64F16 (d : Reg) (a : Reg) (s : State) : Out :=
  convertOp s binary16 binary64 .rne d a

/-- R163. Converts a signed 64-bit integer to binary64. -/
def execFcvtF64I64 (rm : Rm) (d : Reg) (a : Reg) (s : State) : Out :=
  s.resultFlags [a] d (binary64.ofInt (s.me.mode? rm) ((s.read a).toInt))

/-- R163. Converts an unsigned 64-bit integer to binary64. -/
def execFcvtF64W64 (rm : Rm) (d : Reg) (a : Reg) (s : State) : Out :=
  s.resultFlags [a] d (binary64.ofInt (s.me.mode? rm) ((s.read a).toNat))

/-- R163. Converts a signed 64-bit integer to binary32. -/
def execFcvtF32I64 (rm : Rm) (d : Reg) (a : Reg) (s : State) : Out :=
  s.resultFlags [a] d (binary32.ofInt (s.me.mode? rm) ((s.read a).toInt))

/-- R163. Converts an unsigned 64-bit integer to binary32. -/
def execFcvtF32W64 (rm : Rm) (d : Reg) (a : Reg) (s : State) : Out :=
  s.resultFlags [a] d (binary32.ofInt (s.me.mode? rm) ((s.read a).toNat))

/-- R163. Converts binary64 to a saturated signed 64-bit integer. -/
def execFcvtI64F64 (rm : Rm) (d : Reg) (a : Reg) (s : State) : Out :=
  toIntOp s binary64 true 64 (s.me.mode? rm) d a

/-- R163. Converts binary64 to a saturated unsigned 64-bit integer. -/
def execFcvtW64F64 (rm : Rm) (d : Reg) (a : Reg) (s : State) : Out :=
  toIntOp s binary64 false 64 (s.me.mode? rm) d a

/-- R163. Converts binary32 to a saturated signed 64-bit integer. -/
def execFcvtI64F32 (rm : Rm) (d : Reg) (a : Reg) (s : State) : Out :=
  toIntOp s binary32 true 64 (s.me.mode? rm) d a

/-- R163. Converts binary32 to a saturated unsigned 64-bit integer. -/
def execFcvtW64F32 (rm : Rm) (d : Reg) (a : Reg) (s : State) : Out :=
  toIntOp s binary32 false 64 (s.me.mode? rm) d a

/-- R163. Converts binary64 to a saturated signed 32-bit integer. -/
def execFcvtI32F64 (rm : Rm) (d : Reg) (a : Reg) (s : State) : Out :=
  toIntOp s binary64 true 32 (s.me.mode? rm) d a

/-- R163. Converts binary64 to a saturated unsigned 32-bit integer. -/
def execFcvtW32F64 (rm : Rm) (d : Reg) (a : Reg) (s : State) : Out :=
  toIntOp s binary64 false 32 (s.me.mode? rm) d a

/-- R163. Converts binary32 to a saturated signed 32-bit integer. -/
def execFcvtI32F32 (rm : Rm) (d : Reg) (a : Reg) (s : State) : Out :=
  toIntOp s binary32 true 32 (s.me.mode? rm) d a

/-- R163. Converts binary32 to a saturated unsigned 32-bit integer. -/
def execFcvtW32F32 (rm : Rm) (d : Reg) (a : Reg) (s : State) : Out :=
  toIntOp s binary32 false 32 (s.me.mode? rm) d a

/-- R164. Writes a one-hot class of a binary64 value. -/
def execFclassF64 (d : Reg) (a : Reg) (s : State) : Out :=
  s.result [a] d (BitVec.ofNat 64 (binary64.classify (s.low binary64 a)))

/-- R164. Writes a one-hot class of a binary32 value. -/
def execFclassF32 (d : Reg) (a : Reg) (s : State) : Out :=
  s.result [a] d (BitVec.ofNat 64 (binary32.classify (s.low binary32 a)))

/-- R165. Compares binary64 values for equality. -/
def execFeqF64 (d : Reg) (a : Reg) (b : Reg) (s : State) : Out :=
  compareOp s binary64 .eq d a b

/-- R165. Compares binary32 values for equality. -/
def execFeqF32 (d : Reg) (a : Reg) (b : Reg) (s : State) : Out :=
  compareOp s binary32 .eq d a b

/-- R165. Compares binary64 values for less than. -/
def execFltF64 (d : Reg) (a : Reg) (b : Reg) (s : State) : Out :=
  compareOp s binary64 .lt d a b

/-- R165. Compares binary32 values for less than. -/
def execFltF32 (d : Reg) (a : Reg) (b : Reg) (s : State) : Out :=
  compareOp s binary32 .lt d a b

/-- R165. Compares binary64 values for less or equal. -/
def execFleF64 (d : Reg) (a : Reg) (b : Reg) (s : State) : Out :=
  compareOp s binary64 .le d a b

/-- R165. Compares binary32 values for less or equal. -/
def execFleF32 (d : Reg) (a : Reg) (b : Reg) (s : State) : Out :=
  compareOp s binary32 .le d a b

end Sys2Proof.Machine
end

