-- ==== Sys2Proof/Machine/Tile.lean ====
section
/-! DEFINITION. Tile instructions (R212, R217 to R231, R234). -/

namespace Sys2Proof.Machine

/-! ### Records (R217, R219) -/

/-- The map record at g_a, check 1 of R219: own scratchpad, 64-aligned, below S; then the locks and poison of any own
access. An instruction executed again after its tile work has the record that it read at issue (R220). -/
def State.withRecord (s : State) (a : Word) (go : State → MapRec → Out) : Out :=
  match s.me.rerun, s.me.record with
  | true, some m => go s m
  | _, _ =>
  if field 63 60 a ≠ 0 then .next (s.trap .localRange a)
  else match s.checkElem .read 0 a 64 (fullMask 64) 0 with
    | .error (cause, x) => .next (s.trap cause x)
    | .ok e =>
      if s.elemVerdict s.cur.1 s.cur.2 false e = .stall then .next (s.wait .other)
      else
        let off := field 18 0 a
        match s.poisoned? (padKey s.cur.1 off / 128) with
        | some why => .next ((s.ownPoison a off why).trap why a)
        | none =>
          let m := MapRec.ofNat (s.load (padKey s.cur.1 off) 64)
          go (s.modMe fun t => { t with record := some m }) m

/-- Whether an address is in space 0x0, 0x2 or the virtual space (check 4 of R219). -/
def mapSpace (a : Word) : Bool := field 63 60 a = 0 || field 63 60 a = 2 || 8 ≤ field 63 60 a

/-- Whether a word is a multiple of n. -/
def multiple (n : Nat) (a : Word) : Bool := a.toNat % n = 0

/-- Checks 2 to 4 of R219 for `tview` and `tstore`; the COFF test of a DX `tstore` last (R230). -/
def MapRec.viewChecks (m : MapRec) (ga : Word) (store : Bool) : Option (Cause × Word) :=
  if !tileCode m.fmt then some (.illegal, BitVec.ofNat 64 m.fmt)
  else if m.flags &&& 0xFE ≠ 0 || m.zero38 ≠ 0 || m.ibase ≠ 0 then some (.localRange, ga)
  else if !mapSpace m.base then some (.localRange, m.base)
  else
    let ok := match codeFlt m.fmt with
      | some f => multiple (f.width / 8) m.base && multiple (f.width / 8) m.rstride && multiple (f.width / 8) m.cstride
      | none =>
        let n := 4 * ((codeDx m.fmt).getD d16).bits
        multiple n m.base && multiple n m.rstride && multiple 2 m.sbase && multiple 2 m.srstride
    if !ok then some (.misaligned, m.base)
    else if store && isDxCode m.fmt && m.coff.toNat % 32 ≠ 0 then some (.misaligned, m.coff.signExtend 64)
    else none

/-- Checks 2 to 4 of R219 for `twload` (R217, R223). -/
def MapRec.weightChecks (m : MapRec) (ga : Word) : Option (Cause × Word) :=
  if m.fmt < 0x28 || 0x2A < m.fmt then some (.illegal, BitVec.ofNat 64 m.fmt)
  else if m.flags ≠ 0 || m.zero38 ≠ 0 || m.rstride ≠ 0 || m.roff ≠ 0 || m.coff ≠ 0 || m.rows < 1 || 384 < m.rows
      || m.cols < 1 || 32 < m.cols || 12288 < m.cstride.toNat then some (.localRange, ga)
  else if !mapSpace m.base then some (.localRange, m.base)
  else if !(multiple 4 m.base && multiple 4 m.sbase && multiple 4 m.ibase) then some (.misaligned, m.base)
  else none

/-! ### Bounding ranges (R219) -/

/-- The stored coordinates that logical coordinates 0 to 383 reach, if any. -/
def reachable (off : BitVec 32) (n : Nat) : Option (Int × Int) :=
  let lo := max 0 off.toInt
  let hi := min ((n : Int) - 1) (off.toInt + 383)
  if lo ≤ hi then some (lo, hi) else none

/-- The smallest range over spans, if there is one. -/
def joinSpans : List Span → Option Span
  | [] => none
  | x :: r => some (r.foldl Span.join x)

/-- n bytes at base + r * rs + c * cs for the four corners of a rectangle. -/
def corners (base rs cs : Int) (r c : Int × Int) (n : Nat) : List Span :=
  [(r.1, c.1), (r.1, c.2), (r.2, c.1), (r.2, c.2)].map fun p => ⟨base + p.1 * rs + p.2 * cs, base + p.1 * rs + p.2 * cs + n⟩

/-- The bounding range of a view's record (R219). -/
def MapRec.span (m : MapRec) : Option Span :=
  match reachable m.roff m.rows, reachable m.coff m.cols with
  | some r, some c => match codeFlt m.fmt with
    | some f => joinSpans (corners m.base.toNat m.rstride.toInt m.cstride.toInt r c (f.width / 8))
    | none =>
      let n := 4 * ((codeDx m.fmt).getD d16).bits
      let q := (c.1 / 32, c.2 / 32)
      joinSpans (corners m.base.toNat m.rstride.toInt n r q n ++ corners m.sbase.toNat m.srstride.toInt 2 r q 2)
  | _, _ => none

/-- The bounding range of a weight tile: the record area, the index and the scales (R219, R223). -/
def MapRec.weightSpan (m : MapRec) : Option Span :=
  let n := m.cols * m.blocks
  let area : List Span := if m.cstride = 0 then [] else [⟨m.base.toNat, m.base.toNat + m.cstride.toNat⟩]
  joinSpans (area ++ [⟨m.ibase.toNat, m.ibase.toNat + 4 * n⟩, ⟨m.sbase.toNat, m.sbase.toNat + 2 * n⟩])

/-! ### Appending (R215, R220, R236, R237) -/

/-- TVAL of ADVENT_FULL at the quota (R237). -/
def fullTval (quota held : Nat) : Word := BitVec.ofNat 64 (256 * held + quota)

/-- The quota of R237: below it `go` appends; at or above it the strand's oldest computed node is forced, or
ADVENT_FULL. -/
def State.withQuota (s : State) (la : La) (srcs : List Reg) (go : Out) : Out :=
  let k := s.core s.cur.1
  let held := k.heldNodes s.cn
  let quota := k.quota s.cn
  if held.length < quota && k.freeNode.isSome then go
  else
    let old := sortBy (fun e => e.2.age) (held.filter fun e => !e.2.kind.isSource && e.2.state != .faulted)
    match old with
    | e :: _ =>
      if s.me.advStrict then .next (s.trap .adventFull (fullTval quota held.length))
      else s.demanding la srcs [(e.1, e.2.whole)] (.next (s.trap .adventFull (fullTval quota held.length)))
    | [] => .next (s.trap .adventFull (fullTval quota held.length))

/-- A node as an appending instruction of the issuing strand makes it (R214). -/
def State.newNode (s : State) (kind : NodeKind) (fmt : Nat) (sources : List Source) : Node where
  kind := kind
  owner := s.cn
  age := (s.core s.cur.1).nextAge
  pc := s.me.pc
  state := .pending
  sources := sources
  map := MapRec.ofNat 0
  rowMask := 0
  colMask := 0
  depth := 0
  scale := 0
  mask := 0
  fmt := fmt
  rmat := 0
  cmat := 0
  bank := none
  slot := none
  lock := none
  fault := none
  inPlace := false

/-- Put a node in the lowest free entry (R215). -/
def State.append (s : State) (v : Node) : Nat × State :=
  let i := (s.core s.cur.1).freeNode.getD 0
  (i, s.modCore s.cur.1 fun k => { k.setNode i v with nextAge := k.nextAge + 1 })

/-- Append a computed node, name it by m and release what m named (R220, R245). -/
def State.appendComputed (s : State) (la : La) (srcs : List Reg) (m : Tile) (v : Node) : Out :=
  s.withQuota la srcs (
    let r := (s.pops srcs).append v
    .next ((r.2.putHandle s.cur.1 s.cn m (.node r.1)).retire .on))

/-- Append a source node with its view lock. The handle is set once every home has acknowledged the registration
(R69, R71, R220); a virtual source is written back from the L1 first (R55). -/
def State.appendSource (s : State) (la : La) (srcs : List Reg) (m : Tile) (v : Node) (r : Option (Place × Nat × Nat)) : Out :=
  s.withQuota la srcs (
    match r with
    | none =>
      let r := (s.pops srcs).append v
      .next ((r.2.putHandle s.cur.1 s.cn m (.node r.1)).retire .on)
    | some (place, base, len) =>
      let clean := match place with
        | .pad _ => some s
        | .virt _ => State.overLines (fun s l => s.cleanLine s.cur.1 s.cn l) (linesOf base len) s
      match clean with
      | none => .next (s.wait .other)
      | some s =>
        let id := (s.core s.cur.1).nextId
        let e : LockEntry := { id, core := s.cur.1, strand := s.cn, kind := .view, place, base, len, rows := ⟨0, 0, 0, 0⟩ }
        let s := s.modCore s.cur.1 fun k => { k with locks := k.locks ++ [e], nextId := id + 1 }
        let r := (s.pops srcs).append { v with lock := some id }
        let hs := s.lockHomes s.cur.1 place base len
        if hs.isEmpty then .next ((r.2.putHandle s.cur.1 s.cn m (.node r.1)).retire .on)
        else .next ((r.2.hold la (.register (hs.map fun h => (id, h)) [] 0 (some (r.1, m)) none)).sendRegistrations e hs))

/-! ### Operands (R212, R224, R225) -/

/-- The source a handle names, its format, and whether it is a view, a weight node or computed. -/
inductive Operand where
  | empty
  | view (x : Source) (fmt : Nat)
  | weight (x : Source) (fmt : Nat)
  | tile (x : Source) (fmt : Nat)
  deriving DecidableEq, Repr

/-- What handle m of the issuing strand offers as an operand. -/
def State.operandOf (s : State) (m : Tile) : Operand :=
  match s.me.handle m with
  | .empty => .empty
  | .value b fmt rows cols _ _ => .tile (.value b fmt rows cols) fmt
  | .node i => match (s.core s.cur.1).node? i with
    | none => .empty
    | some v => match v.kind with
      | .view => .view (.node i) v.fmt
      | .twload => .weight (.node i) v.fmt
      | _ => .tile (.node i) v.fmt

/-- An operand of `tadd` to `tmask`: a view, a computed node or a VALUE, with the format of what it names. -/
def Operand.plain : Operand → Option (Source × Nat)
  | .view x _ => some (x, 0x11)
  | .tile x f => some (x, f)
  | _ => none

/-- The operand format of a product: DXZ counts as its DX width (R224). -/
def productCode (c : Nat) : Nat := if 0x28 ≤ c && c ≤ 0x2A then c - 8 else c

/-- The A operand of `tmma`. -/
def Operand.left : Operand → Option (Source × Nat)
  | .view x f => some (x, f)
  | .tile x f => some (x, f)
  | _ => none

/-- The B operand of `tmma`. -/
def Operand.right : Operand → Option (Source × Nat)
  | .view x f => some (x, f)
  | .weight x f => some (x, productCode f)
  | .tile x f => some (x, f)
  | .empty => none

/-- An element-wise or reducing node over one operand (R225 to R228). -/
def State.tile1 (s : State) (la : La) (srcs : List Reg) (m ma : Tile) (kind : NodeKind) (set : Nat → Node → Node) : Out :=
  match (s.operandOf ma).plain with
  | none => .next (s.trap .illegal s.word)
  | some (x, f) => s.gate srcs [] [] (s.appendComputed la srcs m (set f (s.newNode kind 0x11 [x])))

/-- One over two operands. -/
def State.tile2 (s : State) (la : La) (m ma mb : Tile) (kind : NodeKind) : Out :=
  match (s.operandOf ma).plain, (s.operandOf mb).plain with
  | some (x, _), some (y, _) => s.appendComputed la [] m (s.newNode kind 0x11 [x, y])
  | _, _ => .next (s.trap .illegal s.word)

/-- The formats of `tmma` (R224). -/
def mmaCode (c : Nat) : Bool := c = 0x12 || c = 0x13 || isDxCode c

/-- In-place when no other node uses the accumulator source, which only m names (R236). -/
def State.chains (s : State) : Source → Bool
  | .node i => !(s.core s.cur.1).nodeUsed i
  | .value b _ _ _ => !(s.core s.cur.1).valueUsed s.cn b

/-! ### `tstore` (R230) -/

/-- The region of a `tstore`: for DX it widens to every whole row, or column under TRANS, that it touches. -/
def MapRec.storeRegion (m : MapRec) (r : Region) : Region :=
  if !isDxCode m.fmt || r.rows = 0 || r.cols = 0 then r
  else if m.trans then ⟨lowBits 32, r.cols⟩ else ⟨r.rows, lowBits 32⟩

/-- The writes of one DX block: its elements inside the extents, then its scale pair. -/
def MapRec.blockWrites (m : MapRec) (dx : Dx) (val : Nat → Nat → Num) (i : Nat) : List (Word × Nat × Nat × Nat) :=
  let pos := fun t => if m.trans then (t, i) else (i, t)
  let inside := (List.range 32).filterMap fun t => (m.stored? (pos t).1 (pos t).2).map fun p => (t, p)
  match inside with
  | [] => []
  | (_, (sr, sc)) :: _ =>
    let xs := (List.range 32).map fun t => if inside.any fun e => e.1 == t then val (pos t).1 (pos t).2 else .zero
    let b := dx.ofValues .rne xs
    let at_ := m.blockAt dx sr (sc / 32)
    (inside.map fun e =>
      let k := e.2.2 % 32
      if 8 ≤ dx.bits then (at_ + BitVec.ofNat 64 (k * dx.bits / 8), dx.bits / 8, fullMask (dx.bits / 8), dx.elem b.1 e.1)
      else (at_ + BitVec.ofNat 64 (k / 2), 1, 15 * 16 ^ (k % 2), dx.elem b.1 e.1 * 16 ^ (k % 2)))
      ++ [(m.pairAt sr (sc / 32), 2, fullMask 2, b.2.1 + 256 * b.2.2.1)]

/-- The writes of a `tstore` in the order of R230. -/
def MapRec.writes (m : MapRec) (r : Region) (val : Nat → Nat → Num) : List (Word × Nat × Nat × Nat) :=
  match codeFlt m.fmt with
  | some f => (bitsOf r.rows).flatMap fun i => (bitsOf r.cols).filterMap fun j =>
      (m.stored? i j).map fun p => (m.elemAt p.1 p.2, f.width / 8, fullMask (f.width / 8), (f.round .rne (val i j)).1)
  | none =>
    if r.rows = 0 || r.cols = 0 then []
    else (bitsOf (if m.trans then r.cols else r.rows)).flatMap fun i => m.blockWrites ((codeDx m.fmt).getD d16) val i

/-- The check of every write against same-core locks (R70, R230), on addresses alone. -/
def State.storeVerdicts (s : State) (ws : List (Word × Nat × Nat × Nat)) : List (Word × Verdict) :=
  ws.map fun w => (w.1, s.elemVerdict s.cur.1 s.cur.2 true
    { lane := 0, addr := w.1, at_ := s.spotTarget s.cur.1 w.1, n := w.2.1, mask := w.2.2.1, value := 0 })

/-- The tile of a VALUE whose bank carries another tag (R240). -/
def State.valueOwned (s : State) (h : Handle) : Option (Word × Word) :=
  match h with
  | .value b _ _ _ _ pc =>
    let bank := (s.cluster (clusterOf s.cur.1)).bank b
    if (s.core s.cur.1).owns s.cur.1 s.cn bank then none else some (accTval bank.tag false b, pc)
  | .node i => match (s.core s.cur.1).node? i with
    | some v => match (s.core s.cur.1).bankOf 96 v with
      | some b =>
        let bank := (s.cluster (clusterOf s.cur.1)).bank b
        if v.kind.isSource || (s.core s.cur.1).owns s.cur.1 s.cn bank then none else some (accTval bank.tag false b, v.pc)
      | none => none
    | none => none
  | .empty => none

/-! ### `tquery` (R234) -/

/-- The word `tquery` writes. -/
def State.query (s : State) (h : Handle) (sel : Nat) : Word :=
  let k := s.core s.cur.1
  match h with
  | .empty => if sel = 0 then BitVec.ofNat 64 (0x7F * 2 ^ 45) else 0
  | .value b fmt rows cols kind pc =>
    if sel = 0 then BitVec.ofNat 64 (4 * 2 ^ 60 + fmt * 2 ^ 52 + 0x7F * 2 ^ 45 + 2 ^ 44 + b * 2 ^ 41 + kind * 2 ^ 28)
    else if sel = 1 then BitVec.ofNat 64 ((2 ^ cols - 1) * 2 ^ 32 + (2 ^ rows - 1))
    else if sel = 2 then 0 else pc
  | .node i => match k.node? i with
    | none => 0
    | some v =>
      if sel = 0 then
        let bank := match k.bankOf 96 v with
          | some b => 2 ^ 44 + b * 2 ^ 41
          | none => 0
        let slot := match s.slotOf s.cur.1 i with
          | some x => 2 ^ 40 + x.1 * 2 ^ 32
          | none => 0
        let cause := match v.fault with
          | some (c, _) => causeCode c * 2 ^ 16
          | none => 0
        BitVec.ofNat 64 (v.state.code * 2 ^ 60 + v.fmt * 2 ^ 52 + i * 2 ^ 45 + bank + slot + v.kind.code * 2 ^ 28 + cause)
      else if sel = 1 then v.cmat ++ v.rmat
      else if sel = 2 then (v.fault.map Prod.snd).getD 0
      else v.pc

/-- R222. Appends a view node of a stored array and registers its lock. -/
def execTview (m : Tile) (a : Reg) (la : La) (s : State) : Out :=
  s.gate [a] [] [] (s.withRecord (s.read a) fun s r =>
    match r.viewChecks (s.read a) false with
    | some (cause, x) => .next (s.trap cause x)
    | none =>
      let v := { s.newNode .view r.fmt [] with map := r }
      match r.span with
      | none => s.appendSource la [a] m v none
      | some sp => match s.rangeCheck s.cur.1 s.me.mode sp .read with
        | .error (cause, x) => .next (s.trap cause x)
        | .ok p => s.appendSource la [a] m v (some p))

/-- R223. Appends a DXZ weight node for a B operand. -/
def execTwload (m : Tile) (a : Reg) (la : La) (s : State) : Out :=
  s.gate [a] [] [] (s.withRecord (s.read a) fun s r =>
    match r.weightChecks (s.read a) with
    | some (cause, x) => .next (s.trap cause x)
    | none =>
      let v := { s.newNode .twload r.fmt [] with map := r }
      match r.weightSpan with
      | none => s.appendSource la [a] m v none
      | some sp => match s.rangeCheck s.cur.1 s.me.mode sp .read with
        | .error (cause, x) => .next (s.trap cause x)
        | .ok p => s.appendSource la [a] m v (some p))

/-- R224. Appends a masked tile product node, initial or accumulating. -/
def execTmma (m : Tile) (ma : Tile) (mb : Tile) (g : BitVec 5) (acc : Bool) (la : La) (s : State) : Out :=
  let base : Option (Option Source) := if !acc then some none else match s.operandOf m with
    | .tile x _ => some (some x)
    | _ => none
  match (s.operandOf ma).left, (s.operandOf mb).right, base with
  | some (x, fa), some (y, fb), some c =>
    if fa ≠ fb || !mmaCode fa then .next (s.trap .illegal s.word)
    else s.gate [g, g + 1, g + 2] [] [] (
      let v := { s.newNode (.tmma acc) 0x11 ([x, y] ++ c.toList) with
        rowMask := (s.read g).truncate 32
        colMask := (s.read (g + 1)).truncate 32
        depth := s.read (g + 2)
        map := { MapRec.ofNat 0 with fmt := fa }
        inPlace := match c with
          | some z => s.chains z
          | none => false }
      let v := match c with
        | some (.value b _ _ _) => if v.inPlace then { v with bank := some b } else v
        | _ => v
      s.appendComputed la [g, g + 1, g + 2] m v)
  | _, _, _ => .next (s.trap .illegal s.word)

/-- R225. Appends an element-wise sum node. -/
def execTadd (m : Tile) (ma : Tile) (mb : Tile) (la : La) (s : State) : Out :=
  s.tile2 la m ma mb .tadd

/-- R225. Appends an element-wise product node. -/
def execTmulw (m : Tile) (ma : Tile) (mb : Tile) (la : La) (s : State) : Out :=
  s.tile2 la m ma mb .tmulw

/-- R225. Appends a node scaling a tile by a binary32 scalar. -/
def execTscale (m : Tile) (ma : Tile) (b : Reg) (la : La) (s : State) : Out :=
  s.tile1 la [b] m ma .tscale fun _ v => { v with scale := (s.read b).truncate 32 }

/-- R225. Appends a ReLU activation node. -/
def execTactRelu (m : Tile) (ma : Tile) (la : La) (s : State) : Out :=
  s.tile1 la [] m ma (.tact 0) fun _ v => v

/-- R225. Appends a GELU activation node. -/
def execTactGelu (m : Tile) (ma : Tile) (la : La) (s : State) : Out :=
  s.tile1 la [] m ma (.tact 1) fun _ v => v

/-- R225. Appends a logistic activation node. -/
def execTactSigm (m : Tile) (ma : Tile) (la : La) (s : State) : Out :=
  s.tile1 la [] m ma (.tact 2) fun _ v => v

/-- R225. Appends a tanh activation node. -/
def execTactTanh (m : Tile) (ma : Tile) (la : La) (s : State) : Out :=
  s.tile1 la [] m ma (.tact 3) fun _ v => v

/-- R225. Appends an exponential activation node. -/
def execTactExp (m : Tile) (ma : Tile) (la : La) (s : State) : Out :=
  s.tile1 la [] m ma (.tact 4) fun _ v => v

/-- R226. Appends a format conversion node. -/
def execTcvt (m : Tile) (ma : Tile) (b : Reg) (la : La) (s : State) : Out :=
  match (s.operandOf ma).plain with
  | none => .next (s.trap .illegal s.word)
  | some (x, _) => s.gate [b] [] [] (
    let f := (s.read b).toNat % 256
    if !tileCode f then .next (s.trap .illegal (BitVec.ofNat 64 f))
    else s.appendComputed la [b] m (s.newNode .tcvt f [x]))

/-- R227. Appends a row-sum reduction node. -/
def execTredRowsum (m : Tile) (ma : Tile) (la : La) (s : State) : Out :=
  s.tile1 la [] m ma (.tred 0) fun _ v => v

/-- R227. Appends a column-sum reduction node. -/
def execTredColsum (m : Tile) (ma : Tile) (la : La) (s : State) : Out :=
  s.tile1 la [] m ma (.tred 1) fun _ v => v

/-- R227. Appends a row-maximum reduction node. -/
def execTredRowmax (m : Tile) (ma : Tile) (la : La) (s : State) : Out :=
  s.tile1 la [] m ma (.tred 2) fun _ v => v

/-- R227. Appends a column-maximum reduction node. -/
def execTredColmax (m : Tile) (ma : Tile) (la : La) (s : State) : Out :=
  s.tile1 la [] m ma (.tred 3) fun _ v => v

/-- R228. Appends a row and column masking node. -/
def execTmask (m : Tile) (ma : Tile) (b : Reg) (la : La) (s : State) : Out :=
  s.tile1 la [b] m ma .tmask fun f v => { v with mask := s.read b, fmt := f }

/-- R229. Demands a region of a node and waits until it is materialised. -/
def execTforce (m : Tile) (a : Reg) (la : La) (s : State) : Out :=
  s.gate [a] [] [] (
    let x := s.read a
    let done : Out := .next ((s.pops [a]).retire .on)
    match s.me.handle m with
    | .node i => match (s.core s.cur.1).node? i with
      | some v =>
        if v.kind = .view then done
        else s.demanding la [a] (if v.kind = .twload then [(i, ⟨lowBits 32, lowBits 32⟩)]
          else addDemand [] i ⟨x.extractLsb' 0 32, x.extractLsb' 32 32⟩) done
      | none => done
    | _ => done)

/-- R230. Demands a region and writes it through a map record. -/
def execTstore (m : Tile) (a : Reg) (b : Reg) (la : La) (s : State) : Out :=
  match (s.operandOf m).plain with
  | none => .next (s.trap .illegal s.word)
  | some (src, _) => s.gate [a, b] [] [] (s.withRecord (s.read a) fun s r =>
    match r.viewChecks (s.read a) true with
    | some (cause, x) => .next (s.trap cause x)
    | none =>
      let bad := match r.span with
        | none => none
        | some sp => match s.rangeCheck s.cur.1 s.me.mode sp .write with
          | .error e => some e
          | .ok _ => none
      match bad with
      | some (cause, x) => .next (s.trap cause x)
      | none =>
        let reg := r.storeRegion ⟨(s.read b).extractLsb' 0 32, (s.read b).extractLsb' 32 32⟩
        let vs := s.storeVerdicts (r.writes reg fun _ _ => .zero)
        match vs.find? fun v => v.2 == .locked with
        | some (x, _) => .next (s.trap .rangeLocked x)
        | none =>
          if vs.any fun v => v.2 == .stall then .next (s.wait .other)
          else
            let locks := vs.flatMap fun v => v.2.locks
            let own := match src with
              | .node i => addDemand [] i reg
              | .value _ _ _ _ => []
            let k := s.core s.cur.1
            s.demanding la [a, b] ((k.forced locks).foldl (fun ds d => addDemand ds d.1 d.2) own) (
              match s.valueOwned (s.me.handle m) with
              | some (tval, pc) => .next (s.trapAttr .accOwned tval pc)
              | none => match State.sourceGrid s.cur.1 src (bitsOf reg.cols) (bitsOf reg.rows) s with
                | .error (.line x part l) => .next ((s.touchLine s.cur.1 s.cn x false part l).wait .other)
                | .error (.fault cause x u) =>
                  if cause = .walkRaceExhausted then .next (u.stopRunOf u.cur.1 1)
                  else match src with
                    | .node i => .next (u.trapAttr .adventFault (faultTval i cause) ((k.node? i).elim 0 Node.pc))
                    | .value _ _ _ _ => .next (u.trap cause x)
                | .ok (g, u) =>
                  let ws := r.writes reg fun i j => gridAt g i j
                  let u := (u.retireViews u.cur.1 locks.eraseDups).pops [a, b]
                  .next ((State.drain u.cur.1 u.cn u.me.pc true ws u).finish la true none)))

/-- R231. Empties a handle and releases its node or value. -/
def execTdrop (m : Tile) (_la : La) (s : State) : Out :=
  .next ((s.putHandle s.cur.1 s.cn m .empty).retire .on)

/-- R234. Reads status, region, fault address or PC of a handle's node. -/
def execTquery (m : Tile) (a : Reg) (_la : La) (s : State) : Out :=
  s.gate [a] [a] [a] (.next (((s.pops [a]).write a (s.query (s.me.handle m) ((s.read a).toNat % 4))).retire .on))

end Sys2Proof.Machine
end

