-- ==== Sys2Proof/Machine/Copy.lean ====
section
/-! DEFINITION. The copy channel: geometry, units, conversions and issue (R91, R177, R246 to R258). -/

namespace Sys2Proof.Machine

/-! ### Formats of `cpyf` (R25, R254) -/

/-- A format a converting copy accepts. -/
inductive CopyFmt where
  | bin (f : Flt)
  | dx (x : Dx)
  | mx (x : Mx)
  deriving DecidableEq, Repr

/-- The formats 0x10 to 0x13, 0x20 to 0x22 and 0x30 to 0x35 (R254). -/
def copyFmt (c : Nat) : Option CopyFmt :=
  match codeFlt c with
  | some f => some (.bin f)
  | none =>
    if isDxCode c then (codeDx c).map CopyFmt.dx
    else if c = 0x30 then some (.mx e4m3) else if c = 0x31 then some (.mx e5m2) else if c = 0x32 then some (.mx e2m3)
    else if c = 0x33 then some (.mx e3m2) else if c = 0x34 then some (.mx e2m1) else if c = 0x35 then some (.mx mxi8)
    else none

def CopyFmt.bits : CopyFmt → Nat
  | .bin f => f.width
  | .dx x => x.bits
  | .mx x => x.bits

def CopyFmt.isBlock : CopyFmt → Bool
  | .bin _ => false
  | _ => true

/-- Alignment: the element size, or the block's byte size (R36, R40, R254). -/
def CopyFmt.align (c : CopyFmt) : Nat := if c.isBlock then 4 * c.bits else c.bits / 8

/-- Bytes of scale for each block (R36, R40). -/
def CopyFmt.scaleBytes : CopyFmt → Nat
  | .bin _ => 0
  | .dx _ => 2
  | .mx _ => 1

/-- The exact values of n elements of a group (R37, R41). -/
def CopyFmt.values (c : CopyFmt) (blk sc n : Nat) : List Num :=
  (List.range n).map fun i =>
    let e := blk / 2 ^ (i * c.bits) % 2 ^ c.bits
    match c with
    | .bin f => f.value e
    | .dx x => x.value e (sc % 256) (sc / 256)
    | .mx x => x.value e sc

/-- Whether a conversion between formats is narrowing: some value of `src` is not a value of `dst` (R31). -/
def narrowing (src : CopyFmt) (dst : Flt) : Bool :=
  if dst = binary64 then false
  else match src with
    | .bin f => f.exp > dst.exp || f.frac > dst.frac
    | .dx x => !(dst = binary32 || (dst = bfloat16 && x.bits ≤ 8))
    | .mx _ => true

/-- `conv` of R254: a group's values in a format, as one number and its scale. ROD acts as RNE in a conversion to a binary
format that is not narrower. -/
def CopyFmt.encode (c : CopyFmt) (mode : Mode) (src : CopyFmt) (xs : List Num) : Nat × Nat :=
  let block : Mode := if mode = .rod then .rod else .rne
  match c with
  | .bin f =>
    let m := if mode = .rod && !narrowing src f then Mode.rne else mode
    (packElems f.width (xs.map fun v => (f.round m v).1), 0)
  | .dx x => let r := x.ofValues block xs; (r.1, r.2.1 + 256 * r.2.2.1)
  | .mx x => let r := x.ofValues block xs; (r.1, r.2.1)

/-- A group converted to the wire format and then to the destination format (R254). -/
def convertGroup (mode : Mode) (src : CopyFmt) (wire : Option CopyFmt) (dst : CopyFmt) (xs : List Num) : Nat × Nat :=
  match wire with
  | none => dst.encode mode src xs
  | some w =>
    let y := w.encode mode src xs
    dst.encode mode w (w.values y.1 y.2 xs.length)

/-- The rounding codes of R31. -/
def modeOf (n : Nat) : Mode :=
  match n with
  | 0 => .rne
  | 1 => .rtz
  | 2 => .rdn
  | 3 => .rup
  | _ => .rod

/-- Formats of a `cpyf`'s format word: source, wire and destination; none if a code is not accepted. -/
def copyFmts (w : Word) : Option (CopyFmt × Option CopyFmt × CopyFmt) :=
  match copyFmt (field 7 0 w), copyFmt (field 23 16 w) with
  | some sf, some df =>
    if field 15 8 w = 0 then some (sf, none, df)
    else (copyFmt (field 15 8 w)).map fun wf => (sf, some wf, df)
  | _, _ => none

/-! ### Units (R251 to R255) -/

/-- A unit: its first source and destination bytes and its destination bytes' count. -/
structure CopyUnit where
  src : Word
  dst : Word
  n : Nat
  deriving DecidableEq, Repr

/-- The aligned 64-byte pieces of a destination range, with their sources. -/
def pieces (src dst : Word) (n : Nat) : List CopyUnit :=
  let d := dst.toNat
  if n = 0 then []
  else (List.range ((d + n - 1) / 64 - d / 64 + 1)).map fun i =>
    let lo := max d ((d / 64 + i) * 64)
    let hi := min (d + n) ((d / 64 + i + 1) * 64)
    { src := src + BitVec.ofNat 64 (lo - d), dst := BitVec.ofNat 64 lo, n := hi - lo }

/-- Word i of a copy's geometry. -/
def geoAt (g : List Word) (i : Nat) : Word := g.getD i 0

/-- The tile of a `cpyh` (R253). -/
structure HaloTile where
  base : Nat
  rows : Nat
  cols : Nat
  halo : Nat
  size : Nat
  stride : Nat
  deriving DecidableEq, Repr

def haloTile (g : List Word) : HaloTile where
  base := (geoAt g 0).toNat
  rows := field 15 0 (geoAt g 1)
  cols := field 31 16 (geoAt g 1)
  halo := field 35 32 (geoAt g 1)
  size := 2 ^ field 37 36 (geoAt g 1)
  stride := (geoAt g 2).toNat

/-- Own start, neighbour's start and count of a halo part along one axis, before, along or after the tile (R253). -/
def haloAxis (side : Int) (n h : Nat) : Int × Int × Nat :=
  if side < 0 then (-(h : Int), (n : Int) - h, h) else if side = 0 then (0, 0, n) else (n, 0, h)

/-- Row and column sides of N, NE, E, SE, S, SW, W, NW. -/
def haloSides : List (Int × Int) := [(-1, 0), (-1, 1), (0, 1), (1, 1), (1, 0), (1, -1), (0, -1), (-1, -1)]

/-- A strip of a `cpyh`: the named first source byte, the offset of its first row at the neighbour, the own offset of its
first row, and its rows. -/
structure Strip where
  src : Word
  off : Nat
  dst : Nat
  len : Nat
  count : Nat
  deriving DecidableEq, Repr

/-- The packed name of neighbour i. -/
def haloName (g : List Word) (i : Nat) : Nat := (geoAt g (3 + i / 4)).toNat / 2 ^ (14 * (i % 4)) % 2 ^ 14

/-- The strips of a `cpyh` in order (R253). -/
def strips (g : List Word) (gb : Word) : List Strip :=
  let t := haloTile g
  (haloSides.zipIdx.filter fun x => gb.getLsbD x.2).map fun x =>
    let r := haloAxis x.1.1 t.rows t.halo
    let c := haloAxis x.1.2 t.cols t.halo
    let at_ (r c : Int) : Int := t.base + r * t.stride + c * t.size
    let off := (at_ r.2.1 c.2.1).toNat
    { src := BitVec.ofNat 64 (2 * 2 ^ 60 + haloName g x.2 * 2 ^ 46 + off), off, dst := (at_ r.1 c.1).toNat,
      len := c.2.2 * t.size, count := r.2.2 }

/-- The units of a copy in unit order (R255). -/
def Copy.units (k : Copy) : List CopyUnit :=
  let g := k.geo
  match k.kind with
  | .cpy => pieces (geoAt g 0) (geoAt g 1) k.gb.toNat
  | .alfill _ => pieces (geoAt g 0) (geoAt g 1) k.gb.toNat
  | .cpy2 => (List.range (field 63 32 k.gb)).flatMap fun r =>
      pieces (geoAt g 0 + BitVec.ofNat 64 r * geoAt g 2) (geoAt g 1 + BitVec.ofNat 64 r * geoAt g 3) (field 31 0 k.gb)
  | .cpyh => (strips g k.gb).flatMap fun x => (List.range x.count).flatMap fun r =>
      let step := BitVec.ofNat 64 (r * (haloTile g).stride)
      pieces (x.src + step) (BitVec.ofNat 64 x.dst + step) x.len
  | .cpyf => match copyFmts (geoAt g 2) with
    | none => []
    | some (sf, _, df) => (List.range ((k.gb.toNat + 31) / 32)).map fun q =>
        { src := geoAt g 0 + BitVec.ofNat 64 (4 * q * sf.bits), dst := geoAt g 1 + BitVec.ofNat 64 (4 * q * df.bits),
          n := min 32 (k.gb.toNat - 32 * q) * df.bits / 8 }

/-- Destination bytes of the first n units. -/
def Copy.bytesOf (k : Copy) (n : Nat) : Nat := (k.units.take n).foldl (fun a u => a + u.n) 0

/-- The status word once every sent unit is performed or refused (R249). -/
def Copy.status (k : Copy) (code : Nat) : Word :=
  let done := k.bytesOf (k.refusedAt.getD k.next)
  let total := k.bytesOf k.units.length
  BitVec.ofNat 64 (code * 2 ^ 56 + (total - done) % 2 ^ 24 * 2 ^ 32 + done % 2 ^ 32)

/-! ### The core's copies -/

def Core.copy? (k : Core) (id : Nat) : Option Copy := k.copies.find? fun x => x.id == id
def Core.modCopy (k : Core) (id : Nat) (f : Copy → Copy) : Core :=
  { k with copies := k.copies.map fun x => if x.id == id then f x else x }
def State.modCopy (s : State) (c id : Nat) (f : Copy → Copy) : State := s.modCore c fun k => k.modCopy id f

/-- A copy stops sending with a code; its status follows once what it sent is performed (R255, R258). An arrival it has not
sent is given up (R180, R253). -/
def State.endCopy (s : State) (c id code : Nat) : State :=
  match (s.core c).copy? id with
  | none => s
  | some k =>
    let s := s.forsake c (.copy id)
    let s := s.modCopy c id fun k => { k with phase := .ending, code }
    if k.inFlight = 0 then s.post (.copyStatusWrite c id) else s

/-- A `cpyh` that made its core's arrival withdraws it (R117, R258). -/
def State.withdrawCopy (s : State) (c : Nat) (k : Copy) : State :=
  let g := k.group (s.partOf c)
  if k.phase.inBarrier && ((s.core c).arrival? g.idx false).any fun a => a.arriver == .copy k.id && a.sent then
    s.withdraw g c false
  else s

/-- A copy is cancelled (R258): nothing changes once its final status is being written. -/
def State.cancelCopy (s : State) (c : Nat) (k : Copy) : State :=
  match k.phase with
  | .ending => s
  | .running => if k.units.length ≤ k.next && k.inFlight = 0 then s else s.endCopy c k.id 0x81
  | _ => (s.withdrawCopy c k).endCopy c k.id 0x81

/-- A copy that never issued leaves: its locks, and the almanac entry it claimed (R71, R177). -/
def State.dropCopy (s : State) (c id : Nat) : State :=
  match (s.core c).copy? id with
  | none => s
  | some k =>
    let s := k.locks.foldl (fun s l => s.releaseLock c l) s
    let s := s.modCore c fun q => { q with copies := q.copies.filter fun x => x.id != id }
    match k.kind with
    | .alfill i => s.modCore c fun q => { q with almanac := unassign i q.almanac }
    | _ => s

/-! ### Issue (R250, R91) -/

/-- A range of a copy: its named first byte, where it lies, its kind, and the rows of a split or strip entry. -/
structure CopyRange where
  named : Word
  place : Place
  base : Nat
  len : Nat
  kind : LockKind
  rows : Rows
  deriving DecidableEq, Repr

/-- A range as a copy names it, before its check: base address, exact extent, source or destination. -/
structure RawRange where
  base : Word
  span : Span
  dest : Bool
  deriving DecidableEq, Repr

/-- n bytes from an address. -/
def rawRange (a : Word) (n : Nat) (dest : Bool) : RawRange := ⟨a, ⟨a.toNat, a.toNat + n⟩, dest⟩

/-- Check 5 on a copy's ranges in order. -/
def State.copyRanges (s : State) : List RawRange → Except (Cause × Word) (List CopyRange)
  | [] => .ok []
  | x :: r => match s.rangeCheck s.cur.1 s.me.mode x.span (if x.dest then .write else .read) with
    | .error e => .error e
    | .ok (place, base, len) => match State.copyRanges s r with
      | .error e => .error e
      | .ok l => .ok ({ named := BitVec.ofInt 64 x.span.lo, place, base, len,
                        kind := if x.dest then .copyDest else .copySource, rows := ⟨0, 0, 0, 0⟩ } :: l)

def lockIsSource : LockKind → Bool
  | .copySource => true
  | .strip => true
  | _ => false

/-- Check 6: the named address of the lowest source byte that overlaps a destination range. -/
def overlapAt (rs : List CopyRange) : Option Word :=
  let hits := (rs.filter fun r => lockIsSource r.kind).flatMap fun x => (rs.filter fun r => !lockIsSource r.kind).filterMap fun y =>
    if x.place = y.place && overlaps x.base x.len y.base y.len then
      some (x.named + BitVec.ofNat 64 (max x.base y.base - x.base)) else none
  match hits with
  | [] => none
  | h :: t => some (t.foldl (fun a b => if b.toNat < a.toNat then b else a) h)

/-- The lock entry of a range. -/
def CopyRange.entry (r : CopyRange) (id core strand : Nat) : LockEntry :=
  { id, core, strand, kind := r.kind, place := r.place, base := r.base, len := r.len, rows := r.rows }

/-- Whether an entry conflicts with one the issuing core holds, or that another core registered in its array (R70). -/
def State.ownConflict (s : State) (c : Nat) (e : LockEntry) : Bool :=
  ((s.core c).locks.any fun h => h.place == e.place && lockMeets h e true)
    || (e.place == .pad c && (s.core c).portLocks.any fun h => lockMeets h e false)

/-- The L1 actions of R55 for a copy's virtual ranges: sources are written back, destinations also dropped. -/
def State.copyL1 (s : State) (c n : Nat) : List CopyRange → Option State
  | [] => some s
  | r :: t =>
    let s' := match r.place with
      | .pad _ => some s
      | .virt _ =>
        if lockIsSource r.kind then State.overLines (fun s l => s.cleanBytes c n r.base r.len l) (linesOf r.base r.len) s
        else State.overLines (fun s l => s.dropLine c n l) (linesOf r.base r.len) s
    match s' with
    | none => none
    | some s => s.copyL1 c n t

/-- What follows when a copy's ranges are registered: `cpyh` goes to its barrier, or at once to its sources under NB. -/
def State.copyReady (s : State) (c id : Nat) : State :=
  match (s.core c).copy? id with
  | none => s
  | some k =>
    if k.kind = .cpyh then
      let s := s.modCopy c id fun k => { k with phase := .arriving none }
      if k.gb.getLsbD 16 then s.post (.cpyhSourceRegistration c id) else s.post (.cpyhArrival c id)
    else (s.modCopy c id fun k => { k with phase := .starting }).post (.copyStart c id)

/-- A copy that passed its checks: the L1 actions, the binding of d and the registration; the instruction completes once
its ranges are registered (R69 to R71, R248). -/
def State.launchCopy (s : State) (la : La) (srcs : List Reg) (d : Reg) (kind : CopyKind) (geo : List Word) (gb : Word) (rm : Nat)
    (rs : List CopyRange) : Out :=
  match overlapAt rs with
  | some a => .next (s.trap .localRange a)
  | none =>
    match s.copyL1 s.cur.1 s.cn rs with
    | none => .next (s.wait .other)
    | some s =>
      let c := s.cur.1
      let id := (s.core c).nextId
      let es := rs.zipIdx.map fun r => r.1.entry (id + 1 + r.2) c s.cn
      let bad := es.any fun e => s.ownConflict c e
      let k : Copy := { id, strand := s.cn, reg := d, kind, geo, gb, rm, next := 0, inFlight := 0, refusedAt := none,
                        phase := .registering, code := 0, busy := true, locks := if bad then [] else es.map LockEntry.id }
      let s := (s.pops srcs).modCore c fun q =>
        { q with copies := q.copies ++ [k], nextId := id + 1 + es.length, locks := if bad then q.locks else q.locks ++ es
                 almanac := match kind with
                   | .alfill i => (i, { tag := field 56 0 (geoAt geo 0) / 2 ^ q.almS, filling := some s.cn }) :: q.almanac
                   | _ => q.almanac }
      if bad then .next ((s.endCopy c id 0x07).retire .on)
      else
        let hs := es.flatMap fun e => (s.lockHomes c e.place e.base e.len).map fun h => (e, h)
        if hs.isEmpty then .next ((s.copyReady c id).retire .on)
        else .next ((s.hold la (.register (hs.map fun x => (x.1.id, x.2)) [] 0 none (some id))).posts
          (hs.map fun x => Event.lockRegistration x.2 x.1))

/-- The constraints on d and on the geometry record's place, then the waits for bound registers and for a place in the
channel (R246, R248). -/
def State.copyGate (s : State) (d a : Reg) (n : Nat) (srcs : List Reg) (go : Out) : Out :=
  if d = 0 || (s.me.port? d).isSome || 32 < a.toNat + n then .next (s.trap .illegal s.word)
  else s.gate srcs [] [d] (if 16 ≤ (s.core s.cur.1).copies.length then .next (s.wait .channel) else go)

/-- Engine registers from e_a on. -/
def State.geometry (s : State) (a : Reg) (n : Nat) : List Word :=
  (List.range n).map fun i => s.me.ereg (a + BitVec.ofNat 5 i)

/-- Checks 3 and 5 on ranges whose addresses are given, then the launch. -/
def State.copyChecked (s : State) (la : La) (srcs : List Reg) (d : Reg) (kind : CopyKind) (geo : List Word) (gb : Word) (rm : Nat)
    (aligns : List (Word × Nat)) (raws : List RawRange) : Out :=
  match raws.find? fun r => !mapSpace r.base with
  | some r => .next (s.trap .localRange r.base)
  | none => match aligns.find? fun x => x.1.toNat % x.2 ≠ 0 with
    | some x => .next (s.trap .misaligned x.1)
    | none => match s.copyRanges raws with
      | .error (cause, x) => .next (s.trap cause x)
      | .ok rs => s.launchCopy la srcs d kind geo gb rm rs

/-- The exact extent of n rows of `len` bytes at a signed stride. -/
def rowsSpan (a : Word) (stride : Int) (n len : Nat) : Span :=
  Span.join ⟨a.toNat, a.toNat + len⟩ ⟨a.toNat + (n - 1 : Nat) * stride, a.toNat + (n - 1 : Nat) * stride + len⟩

/-- The sources of a `cpyh` as named: the trap of the first name that is missing, or the strips' ranges (R253). -/
def State.stripRanges (s : State) (t : HaloTile) : List Strip → Except (Cause × Word) (List CopyRange)
  | [] => .ok []
  | x :: r => match s.target s.cur.1 s.me.mode x.src 1 .read with
    | .error e => .error e
    | .ok _ => match State.stripRanges s t r with
      | .error e => .error e
      | .ok l => .ok ({ named := x.src, place := (s.spot s.cur.1 x.src).1, base := x.off, len := (x.count - 1) * t.stride + x.len,
                        kind := .strip, rows := ⟨x.off, t.stride, x.len, x.count⟩ } :: l)

/-- Whether the geometry of a `cpyh` keeps its limits (R253). -/
def HaloTile.ok (t : HaloTile) (g : List Word) : Bool :=
  field 63 38 (geoAt g 1) = 0 && field 63 56 (geoAt g 3) = 0 && field 63 56 (geoAt g 4) = 0
    && 1 ≤ t.halo && t.halo ≤ t.rows && t.halo ≤ t.cols && t.base % t.size = 0 && t.stride % t.size = 0
    && (t.cols + 2 * t.halo) * t.size ≤ t.stride

/-- The bordered tile's exact extent (R253). -/
def HaloTile.span (t : HaloTile) : Span :=
  let h : Int := t.halo
  ⟨t.base - h * t.stride - h * t.size, t.base + (t.rows + h - 1) * t.stride + (t.cols + h) * t.size⟩

/-- The range-lock entry of a `cpyh` destination: split kind, with its interior rows (R69). -/
def HaloTile.range (t : HaloTile) (c : Nat) : CopyRange :=
  { named := BitVec.ofInt 64 t.span.lo, place := .pad c, base := t.span.lo.toNat, len := (t.span.hi - t.span.lo).toNat,
    kind := .split, rows := ⟨t.base, t.stride, t.cols * t.size, t.rows⟩ }

/-- R177. Claims an almanac entry and starts a copy of the granule into its slot. -/
def execAlfill (d : Reg) (a : Reg) (b : Reg) (la : La) (s : State) : Out :=
  s.copyGate d 0 0 [a, b] (
    let k := s.core s.cur.1
    let i := (s.read a).toNat
    let x := s.read b
    let g : Word := x &&& ~~~(BitVec.ofNat 64 (2 ^ k.almS - 1))
    let slotAt : Word := BitVec.ofNat 64 (k.almBase + i * 2 ^ k.almS)
    if k.almN ≤ i then .next (s.trap .localRange (s.read a))
    else if k.almanac.any fun e => e.1 == i then .next (s.trap .localRange slotAt)
    else if !plainVirt x then .next (s.trap .localRange x)
    else match s.target s.cur.1 s.me.mode g 1 .read with
      | .error (cause, y) => .next (s.trap cause y)
      | .ok _ =>
        if (k.alFind (field 56 0 g / 2 ^ k.almS)).isSome then .next (s.trap .localRange g)
        else s.copyChecked la [a, b] d (.alfill i) [g, slotAt] (BitVec.ofNat 64 (2 ^ k.almS)) 0 []
          [rawRange g (2 ^ k.almS) false, rawRange slotAt (2 ^ k.almS) true])

/-- R251. Starts a contiguous byte copy. -/
def execCpy (d : Reg) (a : Reg) (b : Reg) (la : La) (s : State) : Out :=
  s.copyGate d a 2 [b] (
    let g := s.geometry a 2
    let n := (s.read b).toNat
    if n = 0 || 2 ^ 24 - 1 < n then .next (s.trap .localRange s.word)
    else s.copyChecked la [b] d .cpy g (s.read b) 0 [] [rawRange (geoAt g 0) n false, rawRange (geoAt g 1) n true])

/-- R252. Starts a two-dimensional row copy. -/
def execCpy2 (d : Reg) (a : Reg) (b : Reg) (la : La) (s : State) : Out :=
  s.copyGate d a 4 [b] (
    let g := s.geometry a 4
    let len := field 31 0 (s.read b)
    let n := field 63 32 (s.read b)
    if len = 0 || n = 0 || 65535 < n || 2 ^ 24 - 1 < n * len || (1 < n && (geoAt g 3).toInt.natAbs < len) then
      .next (s.trap .localRange s.word)
    else s.copyChecked la [b] d .cpy2 g (s.read b) 0 []
      [⟨geoAt g 0, rowsSpan (geoAt g 0) (geoAt g 2).toInt n len, false⟩,
       ⟨geoAt g 1, rowsSpan (geoAt g 1) (geoAt g 3).toInt n len, true⟩])

/-- R253. Starts a halo fill from neighbouring cores. -/
def execCpyh (d : Reg) (a : Reg) (b : Reg) (la : La) (s : State) : Out :=
  s.copyGate d a 5 [b] (
    let g := s.geometry a 5
    let t := haloTile g
    let gb := s.read b
    if !t.ok g then .next (s.trap .localRange s.word)
    else if !mapSpace (geoAt g 0) then .next (s.trap .localRange (geoAt g 0))
    else if t.span.lo < 0 || 2 ^ 64 < t.span.hi || (s.core s.cur.1).scr ≤ t.span.lo then .next (s.trap .localRange (BitVec.ofInt 64 t.span.lo))
    else if (s.core s.cur.1).scr < t.span.hi then .next (s.trap .localRange (BitVec.ofNat 64 (s.core s.cur.1).scr))
    else if (s.groupOf s.cur.1 (field 15 8 gb)).isNone then .next (s.trap .noSuchCore (BitVec.ofNat 64 (field 15 8 gb)))
    else match s.stripRanges t (strips g gb) with
      | .error (cause, x) => .next (s.trap cause x)
      | .ok srcs =>
        let dst := t.range s.cur.1
        match overlapAt (dst :: srcs) with
        | some x => .next (s.trap .localRange x)
        | none => s.launchCopy la [b] d .cpyh g gb 0 [dst])

/-- R254. Starts a copy with format conversion in the NIs. -/
def execCpyf (d : Reg) (a : Reg) (b : Reg) (la : La) (s : State) : Out :=
  s.copyGate d a 5 [b] (
    let g := s.geometry a 5
    let w := geoAt g 2
    let n := (s.read b).toNat
    let rm := field 26 24 w
    match copyFmts w with
    | none => .next (s.trap .illegal w)
    | some (sf, wf, df) =>
      let blocks := sf.isBlock || df.isBlock || (wf.map CopyFmt.isBlock).getD false
      if rm = 5 || rm = 6 then .next (s.trap .illegal w)
      else if field 63 27 w ≠ 0 || n = 0 || 2 ^ 20 < n || (blocks && n % 32 ≠ 0) then .next (s.trap .localRange s.word)
      else
        let scale (f : CopyFmt) (x : Word) (dest : Bool) : List RawRange :=
          if f.isBlock then [rawRange x (f.scaleBytes * (n / 32)) dest] else []
        s.copyChecked la [b] d .cpyf g (s.read b) (if rm = 7 then (s.me.fctl >>> 5).toNat else rm)
          [(geoAt g 0, sf.align), (geoAt g 1, df.align)]
          ([rawRange (geoAt g 0) (n * sf.bits / 8) false, rawRange (geoAt g 1) (n * df.bits / 8) true]
            ++ scale sf (geoAt g 3) false ++ scale df (geoAt g 4) true))

/-- R258. Cancels the copy bound to a register. -/
def execCpycan (d : Reg) (_la : La) (s : State) : Out :=
  match (s.core s.cur.1).copies.find? fun k => k.strand == s.cn && k.reg == d with
  | none => .next (s.retire .on)
  | some k =>
    .next ((if k.phase = .registering then s else s.cancelCopy s.cur.1 k).retire .on)

end Sys2Proof.Machine
end

