-- ==== Sys2Proof/Machine/Engine.lean ====
section
/-! DEFINITION. Engine registers (R246, R247). -/

namespace Sys2Proof.Machine

/-- R247. Copies an engine register to a general register. -/
def execErd (d : Reg) (a : Reg) (s : State) : Out :=
  s.result [] d (s.me.ereg a)

/-- R247. Copies a general register to an engine register. -/
def execEwr (d : Reg) (a : Reg) (s : State) : Out :=
  s.gate [a] [] [] (.next (((s.pops [a]).modMe fun t => t.setEreg d (s.read a)).retire .on))

end Sys2Proof.Machine
end

