-- ==== Sys2Proof/Machine/EvCopy.lean ====
section
/-! DEFINITION. The steps of the copy channel and the streamers (R91, R248, R249, R253 to R258). -/

namespace Sys2Proof.Machine

/-- The home of an address that a copy names. -/
def State.homeOf (s : State) (c : Nat) (a : Word) : Home :=
  match s.spot c a with
  | (.pad t, _) => .pad t
  | (.virt p, va) => .slice (s.homeSlice p (va / 128))

/-- The bytes unit i of a copy reads, and those it writes: first byte and count, the scale of a converted block after its
elements (R254, R255). -/
def Copy.reads (k : Copy) (i : Nat) (u : CopyUnit) : List (Word × Nat) :=
  match k.kind, copyFmts (geoAt k.geo 2) with
  | .cpyf, some (sf, _, _) =>
    let n := min 32 (k.gb.toNat - 32 * i)
    (u.src, n * sf.bits / 8) :: (if sf.isBlock then [(geoAt k.geo 3 + BitVec.ofNat 64 (i * sf.scaleBytes), sf.scaleBytes)] else [])
  | _, _ => [(u.src, u.n)]

def Copy.writes (k : Copy) (i : Nat) (u : CopyUnit) : List (Word × Nat) :=
  match k.kind, copyFmts (geoAt k.geo 2) with
  | .cpyf, some (_, _, df) =>
    (u.dst, u.n) :: (if df.isBlock then [(geoAt k.geo 4 + BitVec.ofNat 64 (i * df.scaleBytes), df.scaleBytes)] else [])
  | _, _ => [(u.dst, u.n)]

/-- The lines of virtual memory among byte ranges of a copy of core c. -/
def State.virtLines (s : State) (c : Nat) (xs : List (Word × Nat)) : List Nat :=
  xs.flatMap fun x => match s.spot c x.1 with
    | (.pad _, _) => []
    | (.virt _, va) => linesOf va x.2

/-- The scratchpads among byte ranges of a copy of core c. -/
def State.pads (s : State) (c : Nat) (xs : List (Word × Nat)) : List Nat :=
  xs.filterMap fun x => match (s.spot c x.1).1 with
    | .pad t => some t
    | .virt _ => none

/-- The cores whose scratchpads unit i of a copy touches. -/
def State.unitPads (s : State) (c : Nat) (k : Copy) (i : Nat) (u : CopyUnit) : List Nat :=
  (s.pads c (k.reads i u) ++ s.pads c (k.writes i u)).eraseDups

/-- Whether one of these byte ranges lies in the scratchpad of a core past its stop point, whose router refuses units and
unit requests (R257, R314). A copy from the issuing core to itself passes no router (R257, R259). -/
def State.away (s : State) (c : Nat) (inside : Bool) (xs : List (Word × Nat)) : Bool :=
  (s.pads c xs).any fun t => (s.core t).stopped && !(t == c && inside)

/-- A unit lies wholly in the issuing core's scratchpad. -/
def State.inside (s : State) (c : Nat) (k : Copy) (i : Nat) (u : CopyUnit) : Bool :=
  (k.reads i u ++ k.writes i u).all fun x => (s.spot c x.1).1 == .pad c

/-- Whether some of these bytes lie under a lock that ends the copy (R70). -/
def State.unitConflict (s : State) (c : Nat) (k : Copy) (write : Bool) (xs : List (Word × Nat)) : Bool :=
  xs.any fun x => let p := s.spot c x.1; s.copyConflict c k.locks p.1 p.2 x.2 write

/-- What a unit carries: its source bytes as read at their homes, converted for `cpyf` (R254 to R256). -/
def State.readUnit (s : State) (c : Nat) (k : Copy) (i : Nat) (u : CopyUnit) : Except (Cause × Word × State) (CopyData × State) :=
  let bytes (s : State) (a : Word) (n : Nat) := let p := s.spot c a; s.homeBytes c a p.1 p.2 n
  match k.kind, copyFmts (geoAt k.geo 2) with
  | .cpyf, some (sf, wf, df) =>
    let n := min 32 (k.gb.toNat - 32 * i)
    match bytes s u.src (n * sf.bits / 8) with
    | .error e => .error e
    | .ok (blk, s) =>
      match bytes s (geoAt k.geo 3 + BitVec.ofNat 64 (i * sf.scaleBytes)) sf.scaleBytes with
      | .error e => .error e
      | .ok (sc, s) =>
        let r := convertGroup (modeOf k.rm) sf wf df (sf.values (ofBytes blk) (ofBytes sc) n)
        .ok ({ bytes := toBytes (n * df.bits / 8) r.1, scale := toBytes df.scaleBytes r.2 }, s)
  | _, _ => match bytes s u.src u.n with
    | .error e => .error e
    | .ok (bs, s) => .ok ({ bytes := bs, scale := [] }, s)

/-- The bytes that a message of a unit writes: its elements, or, for a message of its own, its scale (R90, R92, R254). -/
def Copy.part (k : Copy) (i : Nat) (u : CopyUnit) (d : CopyData) : Word × Nat :=
  if d.bytes.isEmpty then (geoAt k.geo 4 + BitVec.ofNat 64 (i * d.scale.length), d.scale.length) else (u.dst, u.n)

/-- The home that such a message goes to. -/
def State.partHome (s : State) (c : Nat) (k : Copy) (i : Nat) (d : CopyData) : Option Home :=
  k.units[i]?.map fun u => s.homeOf c (k.part i u d).1

/-- The messages that carry a unit: its elements, then its scale as a separate location (R90, R254). -/
def unitParts (d : CopyData) : List CopyData :=
  { bytes := d.bytes, scale := [] } :: if d.scale.isEmpty then [] else [{ bytes := [], scale := d.scale }]

/-- The bytes of a unit's message performed at their home (R92, R255). -/
def State.writePart (s : State) (c : Nat) (k : Copy) (i : Nat) (u : CopyUnit) (d : CopyData) : State :=
  let a := (k.part i u d).1
  let bs := d.bytes ++ d.scale
  let p := s.spot c a
  State.homeWriteBytes c p.1 bs.length a p.2 bs s

/-- Whether a message of a unit waits in the home's lock entry of its copy: an earlier unit's, or for a scale its own unit's
elements, is still on its way there (R254, R255). -/
def State.unitEarly (s : State) (c id : Nat) (k : Copy) (unit : Nat) (d : CopyData) : Bool :=
  s.agenda.any fun e => match e with
    | .copyUnitWrite c' id' j x => c' == c && id' == id
        && ((j < unit && s.partHome c k j x == s.partHome c k unit d) || (j == unit && d.bytes.isEmpty && !x.bytes.isEmpty))
    | _ => false

/-- No more of a unit is on its way: when no unit is left and no more is to be sent, the status is written. -/
def State.unitBack (s : State) (c id unit : Nat) : State :=
  if s.agenda.any fun e => match e with
    | .copyUnitWrite c' id' j _ => c' == c && id' == id && j == unit
    | _ => false
  then s
  else
    let s := s.modCopy c id fun k => { k with inFlight := k.inFlight - 1 }
    match (s.core c).copy? id with
    | none => s
    | some k =>
      if k.inFlight = 0 && (k.phase != .running || k.units.length ≤ k.next) then s.post (.copyStatusWrite c id) else s

/-- A unit that was sent is not performed: the copy stops before it. -/
def State.unitLost (s : State) (c id unit : Nat) (phase : Copy → CopyPhase) (code : Copy → Nat) : State :=
  (s.modCopy c id fun k =>
    { k with refusedAt := some (min unit (k.refusedAt.getD unit)), phase := phase k, code := code k }).unitBack c id unit

/-- Whether a unit is behind a refused one at its home, where it is not performed either (R255, R257); a scale also behind its
own unit's elements (R254). -/
def State.unitBehind (s : State) (c : Nat) (k : Copy) (unit : Nat) (d : CopyData) : Bool :=
  k.refusedAt.any fun r => r ≤ unit && (d.bytes.isEmpty || k.units[r]?.any fun v =>
    (k.writes r v).any fun x => s.partHome c k unit d == some (s.homeOf c x.1))

/-- A unit is refused by a core past its stop point: the copy is to go on from it (R257). So is one that had a read fault
or a conflict at a later unit, which it will meet again (R255); a cancelled one ends (R258). -/
def Copy.afterRefusal (k : Copy) : CopyPhase :=
  match k.phase with
  | .ending => if k.code = 0x81 then .ending else .refused
  | .running => .refused
  | p => p

/-- The final status: g_d is written, the locks are released, FILLING clears and the copy retires (R73, R177, R249). -/
def State.retireCopy (s : State) (c : Nat) (k : Copy) (code : Nat) : State :=
  let s := s.modStrand c k.strand fun t => t.setGreg k.reg (k.status code)
  let s := k.locks.foldl (fun s l => s.releaseLock c l) s
  let s := s.modCore c fun q => { q with copies := q.copies.filter fun x => x.id != k.id }
  match k.kind with
  | .alfill i => s.modCore c fun q =>
    let awaited := (q.strand k.strand).stall.any fun w => w.pc == (q.strand k.strand).pc && w.why == .evict i
    let q := if awaited then q.setStrand k.strand { q.strand k.strand with
        stall := (q.strand k.strand).stall.map fun w => { w with why := .evicted } } else q
    { q with almanac :=
        if code = 0 && !awaited then q.almanac.map fun e => if e.1 == i then (i, { e.2 with filling := none }) else e
        else unassign i q.almanac }
  | _ => s

/-- Whether some L1 frame of a copy's virtual ranges is as a test says. -/
def Core.anyFrame (k : Core) (x : Copy) (test : LockEntry → L1Frame → Bool) : Bool :=
  k.locks.any fun e => x.locks.contains e.id && match e.place with
    | .pad _ => false
    | .virt _ => k.l1.any fun f => overlaps e.base e.len (f.2.line * 128) 128 && test e f.2

/-- The lines of a copy's virtual ranges have no write-back in flight (R91). -/
def Core.quiet (k : Core) (x : Copy) : Bool := !k.anyFrame x fun _ f => f.sent != 0

/-- A write-back that R55 makes for a copy was refused: bytes of a source range, or of a destination's lines, are still dirty
(R70, R91; log 43). -/
def Core.keptDirty (k : Core) (x : Copy) : Bool :=
  k.anyFrame x fun e f => f.refused && if lockIsSource e.kind then
      (List.range 128).any fun i => f.dirty.getLsbD i && overlaps e.base e.len (f.line * 128 + i) 1
    else f.dirty != 0

/-- The source strips of a `cpyh`, as ranges (R253). -/
def State.haloSources (s : State) (c : Nat) (k : Copy) : List CopyRange :=
  let t := haloTile k.geo
  (strips k.geo k.gb).map fun x =>
    { named := x.src, place := (s.spot c x.src).1, base := x.off, len := (x.count - 1) * t.stride + x.len, kind := .strip,
      rows := ⟨x.off, t.stride, x.len, x.count⟩ }

/-- R91. The channel begins a copy once acknowledgements, L1 actions and registrations are done; one whose L1 actions were refused
ends as a registration that meets a lock does (R70). -/
def execCopyStart (core : Nat) (copy : Nat) (s : State) : Out :=
  match (s.core core).copy? copy with
  | none => .next s
  | some k =>
    if k.phase ≠ .starting then .next s
    else if (s.strand core k.strand).acks ≠ 0 || !(s.core core).quiet k || (s.core core).stopped then .next (s.post (.copyStart core copy))
    else if (s.core core).keptDirty k then .next (s.endCopy core copy 0x07)
    else
      let s := s.modCopy core copy fun k => { k with phase := .running }
      .next (s.post (if k.units.isEmpty then .copyStatusWrite core copy else .streamerUnitRead core copy 0))

/-- R256. A streamer reads a unit at its home and pushes it to the destination. -/
def execStreamerUnitRead (core : Nat) (copy : Nat) (unit : Nat) (s : State) : Out :=
  match (s.core core).copy? copy with
  | none => .next s
  | some k =>
    if k.phase ≠ .running || k.next ≠ unit || (s.core core).stopped then .next s
    else match k.units[unit]? with
      | none => .next s
      | some u =>
        let from_ := k.reads unit u
        if 16 ≤ k.inFlight then .next (s.post (.streamerUnitRead core copy unit))
        else if s.away core (s.inside core k unit u) from_ then
          let s := s.modCopy core copy fun k => { k with refusedAt := some unit, phase := .refused }
          .next (if k.inFlight = 0 then s.post (.copyStatusWrite core copy) else s)
        else if s.unitConflict core k false from_ then .next (s.endCopy core copy 0x07)
        else s.withLines core k.strand u.src (s.virtLines core from_) (.streamerUnitRead core copy unit) (.next s) (
          match s.readUnit core k unit u with
          | .error (cause, _, s) =>
            .next (if cause = .walkRaceExhausted then s.stopRunOf core 1 else s.endCopy core copy (causeCode cause))
          | .ok (d, s) =>
            let s := s.modCopy core copy fun k => { k with next := unit + 1, inFlight := k.inFlight + 1 }
            .next (s.posts ((unitParts d).map (Event.copyUnitWrite core copy unit) ++
              (if unit + 1 < k.units.length then [Event.streamerUnitRead core copy (unit + 1)] else []))))

/-- R255. A message of a copy unit is performed at its destination home in unit order; one that is early waits there and holds
nothing else. One that meets a lock there ends the copy (R70). -/
def execCopyUnitWrite (core : Nat) (copy : Nat) (unit : Nat) (data : CopyData) (s : State) : Out :=
  match (s.core core).copy? copy with
  | none => .next s
  | some k =>
    match k.units[unit]? with
    | none => .next s
    | some u =>
      let to_ := [k.part unit u data]
      if k.inFlight = 0 then .next s
      else if s.unitEarly core copy k unit data then .next (s.post (.copyUnitWrite core copy unit data))
      else if s.unitBehind core k unit data then .next (s.unitLost core copy unit Copy.phase Copy.code)
      else if s.away core (s.inside core k unit u) to_ then .next (s.unitLost core copy unit Copy.afterRefusal Copy.code)
      else if s.unitConflict core k true to_ then
        .next (s.unitLost core copy unit (fun k => if k.phase = .running then .ending else k.phase) fun k =>
          if k.phase = .running then 0x07 else k.code)
      else s.withLines core k.strand (k.part unit u data).1 (s.virtLines core to_) (.copyUnitWrite core copy unit data)
        (.next (s.unitLost core copy unit Copy.phase Copy.code))
        (.next ((s.writePart core k unit u data).unitBack core copy unit))

/-- R249. The status word is written once every counted unit is performed. -/
def execCopyStatusWrite (core : Nat) (copy : Nat) (s : State) : Out :=
  match (s.core core).copy? copy with
  | none => .next s
  | some k =>
    if k.inFlight ≠ 0 then .next s
    else match k.phase with
      | .running => if k.next < k.units.length then .next s else .next (s.retireCopy core k 0)
      | .ending => .next (s.retireCopy core k k.code)
      | .refused =>
        let s := s.modStrand core k.strand fun t => t.setGreg k.reg (k.status 0x80)
        let s := s.modCopy core copy fun k => { k with phase := .pending, busy := false }
        .next (match k.units[k.refusedAt.getD 0]? with
        | some u => s.posts ((s.unitPads core k (k.refusedAt.getD 0) u).map Event.copyResume)
        | none => s)
      | _ => .next s

/-- R253. After its release, cpyh sends the core's barrier arrival, or waits with the one that another of the core's
instructions makes (R116). -/
def execCpyhArrival (core : Nat) (copy : Nat) (s : State) : Out :=
  match (s.core core).copy? copy with
  | none => .next s
  | some k => match k.phase with
    | .arriving cleaning =>
      let g := k.group (s.partOf core)
      let a : Arrival := { idx := g.idx, reduction := false, arriver := .copy copy, sent := false, withdrawn := false }
      let waits (s : State) := s.modCopy core copy fun k => { k with phase := .barrier (s.core core).ticks }
      let later (s : State) : Out := .next (s.post (.cpyhArrival core copy))
      if (s.core core).stopped then later s
      else match (s.core core).arrival? g.idx false with
      | some b =>
        if b.arriver ≠ a.arriver || b.sent then .next (waits s)
        else if (s.strand core k.strand).acks ≠ 0 then later s
        else match (if cleaning.isSome then some s else s.cleanAll core k.strand) with
          | none => later s
          | some s =>
            let w := cleaning.getD (s.core core).cleaning
            match w.result with
            | .wait => later (s.modCopy core copy fun k => { k with phase := .arriving (some w) })
            | .refused _ => .next (s.endCopy core copy 0x07)
            | .done => .next ((waits (s.modCore core fun k => k.sendArrival g.idx false)).post (.barrierArrival g core core))
      | none => later (s.modCore core fun k => k.putArrival a)
    | _ => .next s

/-- R253. cpyh's barrier wait expires and the copy ends with VIGIL_TIMEOUT. -/
def execCpyhBarrierTimeout (core : Nat) (copy : Nat) (s : State) : Out :=
  match (s.core core).copy? copy with
  | none => .next s
  | some k => match k.phase with
    | .barrier since => match s.group? (k.group (s.partOf core)) with
      | none => .next s
      | some g =>
        if (s.core core).ticks - since < 2 ^ g.image.wait then .next s else .next (s.withdraw g.ref core false)
    | _ => .next s

/-- R253. On episode completion cpyh registers its source strips and begins reads. -/
def execCpyhSourceRegistration (core : Nat) (copy : Nat) (s : State) : Out :=
  match (s.core core).copy? copy with
  | none => .next s
  | some k =>
    let ready := match k.phase with
      | .passed => true
      | .arriving _ => k.gb.getLsbD 16
      | _ => false
    if !ready then .next s
    else if (s.core core).stopped then .next (s.post (.cpyhSourceRegistration core copy))
    else
      let id := (s.core core).nextId
      let es := (s.haloSources core k).zipIdx.map fun r => r.1.entry (id + r.2) core k.strand
      if es.any fun e => s.ownConflict core e then .next (s.endCopy core copy 0x07)
      else
        let hs := es.flatMap fun e => (s.lockHomes core e.place e.base e.len).map fun h => (e, h)
        let s := s.modCore core fun q => { q with locks := q.locks ++ es, nextId := id + es.length }
        let s := s.modCopy core copy fun k =>
          { k with locks := k.locks ++ es.map LockEntry.id
                   phase := if hs.isEmpty then .starting else .sources (hs.map fun x => (x.1.id, x.2)) [] (s.core core).ticks }
        .next (s.posts (if hs.isEmpty then [Event.copyStart core copy] else hs.map fun x => Event.lockRegistration x.2 x.1))

/-- R257. A router announces its core is back and the channel resends refused units. -/
def execCopyResume (target : Nat) (s : State) : Out :=
  .next (if (s.core target).stopped then s
    else s.cores.foldl (fun s e => e.2.copies.foldl (fun s k =>
      match k.phase, k.refusedAt with
      | .pending, some r => match k.units[r]? with
        | some u =>
          let pads := s.unitPads e.1 k r u
          if pads.contains target && pads.all fun t => !(s.core t).stopped then
            (s.modCopy e.1 k.id fun k => { k with phase := .running, next := r, refusedAt := none }).post (.streamerUnitRead e.1 k.id r)
          else s
        | none => s
      | _, _ => s) s) s)

/-- R248. An instruction waiting to write a bound register, or a copy waiting for a place in a full channel, traps with RANGE_LOCKED after QLIMIT cc. -/
def execCopyWaitTimeout (core : Nat) (strand : Nat) (s : State) : Out :=
  let t := s.strand core strand
  match t.stall with
  | none => .next s
  | some w =>
    if (w.why = .bound || w.why = .channel) && (s.core core).limit ≤ (s.core core).ticks - w.since then
      .next (s.raise core strand .rangeLocked t.pc 0 0 t.skip)
    else .next s

end Sys2Proof.Machine
end

