-- ==== Sys2Proof/Machine/EvLock.lean ====
section
/-! DEFINITION. Range registrations at their homes and their answers (R69 to R73). -/

namespace Sys2Proof.Machine

/-- The pieces of an entry that a slice's filter records: one for each line homed there (R69). -/
def State.filterEntries (s : State) (k : Nat) (e : LockEntry) : List LockEntry :=
  match e.place with
  | .pad _ => []
  | .virt p => ((linesOf e.base e.len).filter fun l => s.homeSlice p l == k).map fun l =>
      let lo := max e.base (l * 128)
      { e with base := lo, len := min (e.base + e.len) (l * 128 + 128) - lo }

/-- A port's lock list takes an entry: an answer and the new list (R69 to R71). -/
def State.registerPad (s : State) (t : Nat) (e : LockEntry) : LockAnswer × State :=
  let k := s.core t
  if k.portLocks.any fun h => h.core == e.core && h.id == e.id then (.acked, s)
  else if (k.locks.any fun h => h.place == e.place && lockMeets h e false)
      || (k.portLocks.any fun h => h.core != e.core && lockMeets h e false) then (.conflict, s)
  else if 64 ≤ k.portLocks.length then (.full (BitVec.ofNat 64 (2 * 2 ^ 60 + s.nameOf t * 2 ^ 46 + e.base)), s)
  else (.acked, s.modCore t fun k => { k with portLocks := k.portLocks ++ [e] })

/-- A slice's filter takes the lines of an entry homed there, as many as it has room for (R69 to R71). -/
def State.registerSlice (s : State) (k : Nat) (e : LockEntry) : LockAnswer × State :=
  let sl := s.slice k
  let new := (s.filterEntries k e).filter fun x => !(sl.filter.any fun h => h.core == x.core && h.id == x.id && h.base == x.base)
  if sl.filter.any fun h => h.core != e.core && h.place == e.place && new.any fun x => lockMeets h x false then (.conflict, s)
  else
    let room := 1024 - sl.filter.length
    let s := s.modSlice k fun sl => { sl with filter := sl.filter ++ new.take room }
    match new.drop room with
    | [] => (.acked, s)
    | x :: _ => (.full (BitVec.ofNat 64 (2 ^ 63 + x.base)), s)

/-- Every home of a registration has answered: the node is named, or the copy goes on, and the instruction completes
(R69, R220, R248). -/
def State.registered (s : State) (c n : Nat) (node : Option (Nat × Tile)) (copy : Option Nat) : State :=
  let s := match node with
    | some (i, m) => s.putHandle c n m (.node i)
    | none => s
  let s := match copy with
    | some id => s.copyReady c id
    | none => s
  s.done c n

/-- An answer to a strand's registration. -/
def State.answerStrand (s : State) (c n lock : Nat) (home : Home) (a : LockAnswer) : State :=
  match (s.strand c n).phase? with
  | some (.register waiting refused first node copy) =>
    if !waiting.contains (lock, home) then s
    else
      let waiting := waiting.erase (lock, home)
      match a with
      | .conflict => match copy with
        | some id => (s.endCopy c id 0x07).done c n
        | none => s.setPhase c n (.register waiting refused first node copy)
      | .full x => s.setPhase c n (.register waiting (refused ++ [(lock, home)])
          (if refused.isEmpty then x else if x.toNat < first.toNat then x else first) node copy)
      | .acked =>
        if waiting.isEmpty && refused.isEmpty then s.registered c n node copy
        else s.setPhase c n (.register waiting refused first node copy)
  | _ => s

/-- An answer to a `cpyh` source registration (R71, R253). -/
def State.answerCopy (s : State) (c lock : Nat) (home : Home) (a : LockAnswer) (k : Copy) : State :=
  match k.phase with
  | .sources waiting refused since =>
    if !waiting.contains (lock, home) then s
    else
      let waiting := waiting.erase (lock, home)
      match a with
      | .conflict => s.endCopy c k.id 0x07
      | a =>
        let refused := if a = .acked then refused else refused ++ [(lock, home)]
        if !waiting.isEmpty then s.modCopy c k.id fun k => { k with phase := .sources waiting refused since }
        else if refused.isEmpty then (s.modCopy c k.id fun k => { k with phase := .starting }).post (.copyStart c k.id)
        else if (s.core c).limit ≤ (s.core c).ticks - since then s.endCopy c k.id 0x07
        else
          let s := s.modCopy c k.id fun k => { k with phase := .sources refused [] since }
          s.posts (refused.filterMap fun x => ((s.core c).locks.find? fun e => e.id == x.1).map fun e => Event.lockRegistration x.2 e)
  | _ => s

/-- R69. A home registers a range in its lock list or filter and acknowledges. A slice takes it after the accesses that
arrived before it (R75, R93). -/
def execLockRegistration (home : Home) (e : LockEntry) (s : State) : Out :=
  match home with
  | .pad t => s.arrive t false (.lockRegistration home e) (
      let r := s.registerPad t e
      .next (r.2.post (.lockRegistrationAck e.core e.id home r.1)))
  | .slice k =>
    if !(s.slice k).waiting.isEmpty then .next (s.again (.lockRegistration home e))
    else
      let r := s.registerSlice k e
      .next (r.2.post (.lockRegistrationAck e.core e.id home r.1))

/-- R69. A registration acknowledgement returns to the registering instruction. -/
def execLockRegistrationAck (core : Nat) (lock : Nat) (home : Home) (answer : LockAnswer) (s : State) : Out :=
  s.arrive core true (.lockRegistrationAck core lock home answer) (
    let s := (List.range 16).foldl (fun s n => s.answerStrand core n lock home answer) s
    .next ((s.core core).copies.foldl (fun s k => s.answerCopy core lock home answer k) s))

/-- R71. A refused registration still fails after QLIMIT cc and traps or ends the copy. -/
def execRegistrationRetryTimeout (core : Nat) (strand : Nat) (s : State) : Out :=
  match (s.strand core strand).phase? with
  | some (.register _ refused first node copy) =>
    if refused.isEmpty || s.elapsed core strand < (s.core core).limit then .next s
    else
      let s := match node with
        | some (i, _) => s.leave core 100 i
        | none => s
      let s := match copy with
        | some id => s.dropCopy core id
        | none => s
      .next (s.setErr core strand .rangeLocked first)
  | _ => .next s

/-- R73. A release message frees a range lock at a remote home. A slice takes it after the accesses that arrived before it, which are
still checked against the lock. -/
def execLockRelease (home : Home) (owner : Nat) (lock : Nat) (s : State) : Out :=
  match home with
  | .pad t => s.arrive t false (.lockRelease home owner lock)
      (.next (s.modCore t fun k => { k with portLocks := k.portLocks.filter fun h => !(h.core == owner && h.id == lock) }))
  | .slice k =>
    .next (if !(s.slice k).waiting.isEmpty then s.again (.lockRelease home owner lock)
      else s.modSlice k fun sl => { sl with filter := sl.filter.filter fun h => !(h.core == owner && h.id == lock) })

end Sys2Proof.Machine
end

