-- ==== Sys2Proof/Machine/Sys.lean ====
section
/-! DEFINITION. System registers (R273 to R283), the slot table (R99, R294), interrupts (R280, R284, R285), fencing
(R337, R357), and the operations on key slots and group entries (R298, R336, R338). -/

namespace Sys2Proof.Machine

/-! ### Access to system registers (R273, R274) -/

/-- A system register's access rules: the modes it is read and written from, whether it is written at all, and
steward-only reads and writes. -/
structure SysAccess where
  readMode : Nat
  writeMode : Nat
  writable : Bool
  stewardRead : Bool
  stewardWrite : Bool
  deriving DecidableEq, Repr

def sysRW (m : Nat) : SysAccess := ⟨m, m, true, false, false⟩
def sysRO (m : Nat) : SysAccess := ⟨m, m, false, false, false⟩

/-- The assigned numbers (R273). -/
def sysAccess (num : Nat) : Option SysAccess :=
  match num with
  | 0x000 => some (sysRW 0)
  | 0x001 => some (sysRO 0)
  | 0x002 => some (sysRO 0)
  | 0x003 => some (sysRW 0)
  | 0x004 => some (sysRW 0)
  | 0x005 => some (sysRW 0)
  | 0x006 => some (sysRW 0)
  | 0x007 => some (sysRO 0)
  | 0x008 => some (sysRO 0)
  | 0x009 => some (sysRO 0)
  | 0x00A => some (sysRW 0)
  | 0x100 => some (sysRW 1)
  | 0x101 => some (sysRW 1)
  | 0x102 => some (sysRW 1)
  | 0x103 => some (sysRW 1)
  | 0x104 => some (sysRW 1)
  | 0x105 => some (sysRW 1)
  | 0x106 => some (sysRW 1)
  | 0x107 => some (sysRW 1)
  | 0x108 => some (sysRW 1)
  | 0x109 => some (sysRW 1)
  | 0x10A => some (sysRW 1)
  | 0x10B => some (sysRW 1)
  | 0x10C => some (sysRW 1)
  | 0x10D => some (sysRW 1)
  | 0x10E => some (sysRW 1)
  | 0x110 => some (sysRW 1)
  | 0x111 => some (sysRW 1)
  | 0x112 => some ⟨1, 1, false, true, false⟩
  | 0x120 => some (sysRO 1)
  | 0x121 => some (sysRO 1)
  | 0x122 => some ⟨0, 0, true, false, true⟩
  | 0x123 => some ⟨0, 0, true, false, true⟩
  | 0x124 => some (sysRW 1)
  | 0x125 => some ⟨0, 0, true, false, true⟩
  | 0x300 => some (sysRO 3)
  | 0x301 => some (sysRW 3)
  | _ => none

/-- Checks 1 to 3 of R274 for the issuing strand. -/
def State.sysTrap (s : State) (num : Nat) (reads writes : Bool) : Option Cause :=
  match sysAccess num with
  | none => some .illegal
  | some a =>
    if (reads && s.me.mode < a.readMode) || (writes && s.me.mode < a.writeMode) then some .privileged
    else if s.cn ≠ 0 && ((reads && a.stewardRead) || (writes && a.writable && a.stewardWrite)) then some .stewardOnly
    else none

/-! ### Interrupts (R280, R284, R285) -/

/-- IPEND of strand n (R280). -/
def Core.ipend (k : Core) (n : Nat) : Word :=
  let t := k.strand n
  let db := if n % 16 = 0 then t.dbsrc else 0
  BitVec.ofNat 64 (db.toNat * 2 ^ 16 + (if n % 16 = 0 && !k.hostmsg.isEmpty then 8 else 0) + (if db = 0 then 0 else 4)
    + (if t.xn then 2 else 0) + (if t.tcmp.ule k.calends then 1 else 0))

/-- The enabled pending sources of strand n, as IPEND bits [3:0] (R289). -/
def Core.enabled (k : Core) (n : Nat) : Nat :=
  ((k.ipend n) &&& ((k.strand n).status >>> 12) &&& 15).toNat

/-- The lowest-numbered enabled pending interrupt (R284, R285): notice, host message, doorbell, timer. -/
def Core.interrupt? (k : Core) (n : Nat) : Option Nat :=
  let e := k.enabled n
  if e / 2 % 2 = 1 then some 0 else if e / 8 % 2 = 1 then some 1 else if e / 4 % 2 = 1 then some 2
  else if e % 2 = 1 then some 3 else none

/-- A write of 1 bits to IPEND clears doorbell sources of the steward and the notice (R280). -/
def Strand.clearIpend (t : Strand) (n : Nat) (v : Word) : Strand :=
  { t with dbsrc := if n % 16 = 0 then t.dbsrc &&& ~~~(v.extractLsb' 16 16) else t.dbsrc
           xn := t.xn && !v.getLsbD 1 }

/-- A WAITING strand with an enabled pending interrupt is RUNNING again (R289). -/
def State.wake (s : State) (c n : Nat) : State :=
  if (s.strand c n).life = .waiting && (s.core c).enabled n ≠ 0 then s.modStrand c n fun t => { t with life := .running } else s

/-! ### Register values (R275 to R283) -/

def Bringup.code : Bringup → Nat
  | .dark => 0
  | .powerGood => 1
  | .clockLocked => 2
  | .linksTrained => 3
  | .configLoaded => 4
  | .selfTestPassed => 5
  | .ready => 6
  | .fenced => 7

/-- The block chiplet of a core. -/
def blockChip (c : Nat) : Chip := { site := siteOf c, chip := 0, index := c / 64 % 4 }

/-- The life states of the 16 strands (R279). -/
def Core.lives (k : Core) : Nat := (List.range 16).foldl (fun a i => a + (k.strand i).life.code * 4 ^ i) 0

/-- The value `srr` reads (R273 to R283). -/
def State.sysValue (s : State) (c n num : Nat) : Word :=
  let k := s.core c
  let t := k.strand n
  match num with
  | 0x000 => t.fctl.zeroExtend 64
  | 0x001 => t.lastseq.zeroExtend 64
  | 0x002 => k.calends
  | 0x003 => t.fmta.zeroExtend 64
  | 0x004 => t.fmtb.zeroExtend 64
  | 0x005 => t.scla.zeroExtend 64
  | 0x006 => t.sclb.zeroExtend 64
  | 0x007 => BitVec.ofNat 64 ((s.block (blockOf c)).nameCount * 2 ^ 18 + s.nameOf c * 16 + n % 16)
  | 0x008 => BitVec.ofNat 64 k.lives
  | 0x009 => BitVec.ofNat 64 k.scr
  | 0x100 => t.statusWord
  | 0x101 => t.tstatus
  | 0x102 => t.tcause
  | 0x103 => t.tpc
  | 0x104 => t.tval
  | 0x105 => t.tattr
  | 0x106 => t.tshadow.zeroExtend 64
  | 0x107 => k.tvec
  | 0x108 => t.scratch
  | 0x109 => t.tls0
  | 0x10A => t.tle0
  | 0x10B => t.tlc0
  | 0x10C => t.tls1
  | 0x10D => t.tle1
  | 0x10E => t.tlc1
  | 0x110 => k.ipend n
  | 0x111 => t.tcmp
  | 0x112 => k.hostmsg.headD 0
  | 0x120 => k.slots
  | 0x121 => k.sloten.zeroExtend 64
  | 0x122 => k.advq
  | 0x123 => k.advqh
  | 0x124 => k.qlimit.zeroExtend 64
  | 0x125 => k.balance.zeroExtend 64
  | 0x300 => BitVec.ofNat 64 (s.bringup (blockChip c)).code
  | 0x301 => k.pctx.zeroExtend 64
  | _ => 0

/-- Reading HOSTMSG pops the oldest message; other reads change nothing (R275). -/
def State.sysAfterRead (s : State) (c num : Nat) : State :=
  if num = 0x112 then s.modCore c fun k => { k with hostmsg := k.hostmsg.tail } else s

/-- Whether 16 quotas are within R282. -/
def quotasOk (lo hi : Word) : Bool :=
  let qs := (List.range 8).map (fun j => lo.toNat / 2 ^ (8 * j) % 256) ++ (List.range 8).map fun j => hi.toNat / 2 ^ (8 * j) % 256
  qs.all (· ≤ 96) && qs.sum ≤ 96

/-- Check 4 of R274: the quota sum (R282). -/
def Core.sysRefuses (k : Core) (num : Nat) (v : Word) : Bool :=
  (num == 0x122 && !quotasOk v k.advqh) || (num == 0x123 && !quotasOk k.advq v)

/-- A write to TSTATUS by a strand (R276). -/
def Strand.writeTstatus (t : Strand) (v : Word) : Strand :=
  let m := (v &&& 3).toNat
  { t with tstatus := (v &&& 0xF1F8) ||| (if m = 2 || t.mode < m then t.tstatus &&& 3 else v &&& 3) }

/-- A write to TCMP sets the compare value; the timer is pending from then on as it says (R280, R284). -/
def Strand.writeTcmp (t : Strand) (v : Word) : Strand := { t with tcmp := v }

/-- The effect of a write that passed its checks (R274 to R283). -/
def State.sysWrite (s : State) (c n num : Nat) (v : Word) : State :=
  let set := fun (f : Strand → Strand) => s.modStrand c n f
  let put := fun (f : Core → Core) => s.modCore c f
  match num with
  | 0x000 => set fun t => t.writeFctl v
  | 0x003 => set fun t => { t with fmta := v.truncate 16 }
  | 0x004 => set fun t => { t with fmtb := v.truncate 16 }
  | 0x005 => set fun t => { t with scla := v.truncate 16 }
  | 0x006 => set fun t => { t with sclb := v.truncate 16 }
  | 0x00A => s.doorbell c n
  | 0x100 => set fun t => { t with status := (v &&& 0xF198) ||| (t.status &&& 3) }
  | 0x101 => set fun t => t.writeTstatus v
  | 0x102 => set fun t => { t with tcause := v &&& 0x80000000000000FF }
  | 0x103 => set fun t => { t with tpc := v }
  | 0x104 => set fun t => { t with tval := v }
  | 0x105 => set fun t => { t with tattr := v }
  | 0x106 => set fun t => { t with tshadow := v.truncate 4 }
  | 0x107 => put fun k => { k with tvec := v &&& ~~~3 }
  | 0x108 => set fun t => { t with scratch := v }
  | 0x109 => set fun t => { t with tls0 := v }
  | 0x10A => set fun t => { t with tle0 := v }
  | 0x10B => set fun t => { t with tlc0 := v }
  | 0x10C => set fun t => { t with tls1 := v }
  | 0x10D => set fun t => { t with tle1 := v }
  | 0x10E => set fun t => { t with tlc1 := v }
  | 0x110 => set fun t => t.clearIpend n v
  | 0x111 => set fun t => t.writeTcmp v
  | 0x122 => put fun k => { k with advq := v }
  | 0x123 => put fun k => { k with advqh := v }
  | 0x124 => put fun k => { k with qlimit := v.truncate 25 }
  | 0x125 => put fun k => { k with balance := v.truncate 5, levelAt := k.ticks + 2 ^ min 24 (max 8 (v.truncate 5 : BitVec 5).toNat) }
  | 0x301 => put fun k => { k with pctx := v.truncate 16 }
  | _ => s

/-! ### The slot table (R99, R281, R294) -/

/-- The strand entry i of a slot table names. -/
def slotEntry (slots : Word) (en : BitVec 16) (i : Nat) : Option Nat :=
  if en.getLsbD i then some (slots.toNat / 2 ^ (4 * i) % 16) else none

/-- The validity conditions of R99. -/
def slotsValid (slots : Word) (en : BitVec 16) : Bool :=
  let places (n : Nat) := (List.range 16).filter fun i => slotEntry slots en i == some n
  ((List.range 16).all fun n => match places n with
    | [] => true
    | [_] => true
    | [i, j] => j == i + 8
    | _ => false) && !(places 0).isEmpty

/-- A table with the entries of empty slots stored as 0 (R281, R294). -/
def slotsStored (slots : Word) (en : BitVec 16) : Word :=
  BitVec.ofNat 64 ((List.range 16).foldl (fun a i => a + (slotEntry slots en i).getD 0 * 2 ^ (4 * i)) 0)

/-! ### Fencing (R298, R351, R357) -/

/-- Set a chiplet's bring-up record. -/
def State.setChip (s : State) (chip : Chip) (v : Chiplet) : State :=
  { s with chiplets := (chip, v) :: s.chiplets.filter fun e => e.1 != chip }

def State.chiplet (s : State) (chip : Chip) : Chiplet := ((s.chiplets.find? fun e => e.1 == chip).map Prod.snd).getD Chiplet.reset

/-- Runs switched in whose region holds a block of a site. -/
def State.runsHolding (s : State) (site block : Nat) : List Run :=
  s.runs.filter fun r =>
    (match r.life with
      | .settingUp _ _ => true
      | .agreeing _ _ => true
      | .rejoining _ => true
      | .starting => true
      | .live => true
      | .switchingOut => true
      | .resuming => true
      | _ => false)
    && (match s.partition? r.part with
      | none => false
      | some p => match p.rel? site with
        | none => false
        | some q => r.blocks.contains (q, block))

/-- The same, and the runs switched out that will come back to it: a fence of the block stops them all (R309, R337). -/
def State.runsNaming (s : State) (site block : Nat) : List Run :=
  s.runsHolding site block ++ s.runs.filter fun r => r.life == .switchedOut && match s.partition? r.part with
    | none => false
    | some p => match p.rel? site with
      | none => false
      | some q => r.blocks.contains (q, block)

/-- The router of a core's cluster on the XY grid (R21, R350). -/
def State.routerOf (s : State) (c : Nat) : Nat × Nat :=
  let p := s.physCluster c
  let b := c / 64 % 4
  (8 * (siteOf c % 6) + 4 * (b % 2) + p % 4, 11 * (siteOf c / 6) + 5 * (b / 2) + p / 4)

/-- Router coordinates from one to another along one axis, both ends included. -/
def lineTo (a b : Nat) : List Nat :=
  if a ≤ b then (List.range (b - a + 1)).map fun i => a + i else (List.range (a - b + 1)).map fun i => a - i

/-- The routers of the XY route: along the row first (R22). -/
def routeXY (p q : Nat × Nat) : List (Nat × Nat) :=
  (lineTo p.1 q.1).map (fun x => (x, p.2)) ++ (lineTo p.2 q.2).tail.map fun y => (q.1, y)

/-- The routers of the YX route. -/
def routeYX (p q : Nat × Nat) : List (Nat × Nat) :=
  (lineTo p.2 q.2).map (fun y => (p.1, y)) ++ (lineTo p.1 q.1).tail.map fun x => (x, q.2)

/-- Whether a router stands in a fenced block, or in a site in a low-power state (R21, R361). -/
def State.fencedRouter (s : State) (r : Nat × Nat) : Bool :=
  let site := 6 * (r.2 / 11) + r.1 / 8
  (s.lowPower.any fun e => e.1 == site)
    || (r.2 % 11 != 10 && Config.isCompute site
      && s.bringup { site, chip := 0, index := 2 * (r.2 % 11 / 5) + r.1 % 8 / 4 } == .fenced)

/-- Whether a bond joins two routers. -/
def bondJoins (d : Bond) (a b : Nat × Nat) : Bool :=
  ((d.x1, d.y1) == a && (d.x2, d.y2) == b) || ((d.x1, d.y1) == b && (d.x2, d.y2) == a)

/-- Whether a bond between two routers is dead or fenced, or listed so by a routing table (R353, R355, R360). -/
def State.deadBond (s : State) (a b : Nat × Nat) : Bool :=
  s.deadBonds.any (fun d => bondJoins d a b) || s.routing.any fun e => e.2.bonds.any fun d => bondJoins d a b

/-- A route avoids every fenced block and bond (R337). -/
def State.clearRoute (s : State) (rs : List (Nat × Nat)) : Bool :=
  rs.all (fun r => !s.fencedRouter r) && (rs.zip rs.tail).all fun e => !s.deadBond e.1 e.2

/-- The routers that an entry for block b of a site serves: its clusters' unless it is fenced, the base die's above which it
stands, and for block 3 the control die's (R21, R337). -/
def State.entryRouters (s : State) (site b : Nat) : List (Nat × Nat) :=
  let x := 8 * (site % 6)
  let y := 11 * (site / 6)
  let blk := s.block (4 * site + b)
  (if s.bringup { site, chip := 0, index := b } = .fenced then [] else (List.range blk.nameCount).map fun l =>
    let p := blk.live.getD l l
    (x + 4 * (b % 2) + p % 4, y + 5 * (b / 2) + p / 4))
  ++ (if 2 ≤ b then (List.range 4).map fun i => (x + 4 * (b - 2) + i, y + 10) else [])
  ++ (if b = 3 then [(x + 3, y + 10), (x + 4, y + 10)] else [])

/-- The parties of a partition that hold a network-select table, with a router each: cores by their key, the base die of
stack t of a site as 2^16 + 2 * site + t, the control die of a site as 2^17 + site (R337). A site in a low-power state sends
nothing, so that its parties' routes count for no entry (R361). -/
def State.holders (s : State) (p : Partition) : List (Nat × (Nat × Nat)) :=
  (List.range (p.width * p.height)).flatMap fun rel => match p.site? rel with
    | none => []
    | some site =>
      if !Config.isCompute site || s.lowPower.any fun e => e.1 == site then []
      else
        let x := 8 * (site % 6)
        let y := 11 * (site / 6) + 10
        ((List.range 256).filterMap fun i => (s.named? p.num (rel * 256 + i)).bind fun c =>
          if s.bringup (blockChip c) = .fenced then none else some (c, s.routerOf c))
        ++ [(2 ^ 16 + 2 * site, (x, y)), (2 ^ 16 + 2 * site + 1, (x + 4, y)), (2 ^ 17 + site, (x + 3, y))]

/-- The site of a holder. -/
def holderSite (h : Nat) : Nat := if h < 2 ^ 16 then siteOf h else if h < 2 ^ 17 then (h - 2 ^ 16) / 2 else h - 2 ^ 17

/-- The choice of one entry: XY, YX, or neither route is clear. -/
def State.choose (s : State) (from_ : Nat × Nat) (dest : List (Nat × Nat)) : Option Bool :=
  if dest.all fun d => s.clearRoute (routeXY from_ d) then some false
  else if dest.all fun d => s.clearRoute (routeYX from_ d) then some true
  else none

/-- A chiplet becomes FENCED; a block's runs are stopped (R309, R351, R357). -/
def State.fenceOne (s : State) (chip : Chip) : State :=
  let s := (s.setChip chip { s.chiplet chip with state := .fenced }).note 0xFFFF (.fenced chip)
  if chip.chip = 0 then (s.runsNaming chip.site chip.index).foldl (fun s r => s.stopRun r.part r.ctx 1) s else s

/-- The entries of every network-select table of a partition that serve something: the holder, the entry, the chiplet of
its destination block, and its choice (R337). -/
def State.entries (s : State) (p : Partition) : List (Nat × Nat × Chip × Option Bool) :=
  (s.holders p).flatMap fun h => (List.range (4 * p.width * p.height)).filterMap fun e =>
    (p.site? (e / 4)).bind fun site =>
      let rs := s.entryRouters site (e % 4)
      if !Config.isCompute site || rs.isEmpty || s.lowPower.any fun x => x.1 == site then none
      else some (h.1, e, { site, chip := 0, index := e % 4 }, s.choose h.2 rs)

/-- The blocks that a route of some table can reach on neither network (R337). -/
def State.cutOff (s : State) : List Chip :=
  (s.partitions.flatMap fun p => (s.entries p).filterMap fun e =>
    if e.2.2.2.isNone && s.bringup e.2.2.1 ≠ .fenced then some e.2.2.1 else none).eraseDups

/-- Compute every table of a partition: an entry with a clear route is to name it, those that serve nothing any more go, and
the changed ones wait for the destination to be quiet (R337, log 41). -/
def State.tablesOf (s : State) (p : Partition) : State :=
  let sites := (List.range (p.width * p.height)).filterMap p.site?
  let new := (s.entries p).filterMap fun e => e.2.2.2.map fun v => (e.1, e.2.1, v)
  let mine (x : Nat × Nat × Bool) : Bool := sites.contains (holderSite x.1)
  let served (x : Nat × Nat × Bool) : Bool := new.any fun y => y.1 == x.1 && y.2.1 == x.2.1
  { s with
    nsel := s.nsel.filter fun x => !mine x || served x
    nselDue := new.filter (fun x => !s.nsel.contains x) ++ s.nselDue.filter fun x => !mine x }

/-- A computed entry is written (R337). -/
def State.writeEntry (s : State) (x : Nat × Nat × Bool) : State :=
  { s with
    nsel := x :: s.nsel.filter fun y => !(y.1 == x.1 && y.2.1 == x.2.1)
    nselDue := s.nselDue.filter fun y => y != x }

/-- Fence the blocks that no route reaches, each fence making the tables anew, then compute every table (R337). Fuel: the
blocks of the module. -/
def State.settleTables : Nat → State → State
  | 0, s => s.partitions.foldl (fun s p => s.tablesOf p) s
  | fuel + 1, s => match s.cutOff with
    | [] => s.partitions.foldl (fun s p => s.tablesOf p) s
    | cut => State.settleTables fuel (cut.foldl (fun s c => s.fenceOne c) s)

/-- Compute every table (R337). -/
def State.tables (s : State) : State := State.settleTables 152 s

/-- Fence a chiplet and compute the tables anew (R337, R351, R357). -/
def State.fence (s : State) (chip : Chip) : State := (s.fenceOne chip).tables

/-! ### Key slots (R298, R338) -/

def State.keySlot (s : State) (i : Nat) : KeySlot := s.keySlots[i % 64]'(Nat.mod_lt _ (by decide))
def State.setKeySlot (s : State) (i : Nat) (v : KeySlot) : State :=
  { s with keySlots := s.keySlots.set (i % 64) v (Nat.mod_lt _ (by decide)) }

/-- Load a key pair for a partition; the slot keeps its generation (R338). -/
def State.loadKey (s : State) (i part : Nat) (key : BitVec 512) : State :=
  s.setKeySlot i { s.keySlot i with key := some (part, key) }

/-- Clear a slot: it is EMPTY with its generation raised, and dirty lines that would be written under it are discarded
(R298, R338). -/
def State.clearKey (s : State) (i : Nat) : State :=
  let under (part : Nat) : Bool := match s.partition? part with
    | some p => p.writeSlot == some (i % 64)
    | none => false
  { s.setKeySlot i { key := none, gen := (s.keySlot i).gen + 1 } with
    slices := s.slices.map fun e => (e.1, { e.2 with lines := e.2.lines.filter fun l => !(l.dirty != 0 && under l.part) }) }

/-! ### Group entries (R336) -/

/-- The members a group image names in a partition; none if one is missing. -/
def State.groupMembers (s : State) (part : Nat) (im : GroupImage) : Option (List Nat) := im.members.mapM (s.named? part)

/-- Groups of a partition that hold a core, other than entry i. -/
def State.groupsOf (s : State) (part i c : Nat) : Nat :=
  (s.groups.filter fun g => g.ref.part == part && g.ref.idx != i && g.members.contains c).length

/-- Whether a live or switched-out run holds an entry. -/
def State.groupHeld (s : State) (r : GroupRef) : Bool :=
  match s.group? r with
  | none => false
  | some g => match g.run with
    | none => false
    | some ctx => s.runs.any fun q => q.part == r.part && q.ctx == ctx

/-- Write an entry with no episode open; COUNT 0 clears it. -/
def State.putGroup (s : State) (r : GroupRef) (im : GroupImage) (run : Option Nat) (members : List Nat) : State :=
  let rest := s.groups.filter fun g => g.ref != r
  if im.count = 0 then { s with groups := rest }
  else { s with groups :=
    { ref := r, image := im, run, members, expected := members, arrived := [], redOp := none, redValues := [], seq := 0,
      unpopped := [] } :: rest }

/-- Checks 2 to 5 of R336 on an image, in order. -/
def State.groupTrap (s : State) (r : GroupRef) (im : GroupImage) : Option Cause :=
  if 4096 < im.count || (0 < im.count && (im.wait < 6 || 24 < im.wait)) || im.zeros ≠ 0 then some .localRange
  else match s.groupMembers r.part im with
    | none => some .noSuchCore
    | some ms =>
      if ms.eraseDups.length ≠ ms.length || ms.any fun c => 4 ≤ s.groupsOf r.part r.idx c then some .localRange
      else if s.groupHeld r then some .localRange
      else none

end Sys2Proof.Machine
end

