-- ==== Sys2Proof/Machine/System.lean ====
section
/-! DEFINITION. System instructions (R287 to R297). -/

namespace Sys2Proof.Machine

/-- A software trap: TPC is the next instruction, TVAL and TSHADOW are zero (R287). -/
def State.callTrap (s : State) (cause : Cause) : State :=
  s.entry s.cur.1 s.cur.2 (BitVec.ofNat 64 (causeCode cause)) (s.me.pc + 4) 0 0 0 s.me.pc

/-- A steward-only instruction in any mode (R14, R290). -/
def State.steward (s : State) (go : Out) : Out := if s.cn ≠ 0 then .next (s.trap .stewardOnly s.word) else go

/-- An instruction of at least supervisor mode (R270). -/
def State.privileged (s : State) (mode : Nat) (go : Out) : Out :=
  if s.me.mode < mode then .next (s.trap .privileged s.word) else go

/-- A strand's nodes leave the table and its handles become EMPTY (R245, R290, R293). -/
def State.dropTiles (s : State) (c n : Nat) : State :=
  let s := (List.range 16).foldl (fun s i => s.putHandle c n (BitVec.ofNat 4 i) .empty) s
  ((s.core c).heldNodes n).foldl (fun s e => s.leave c 100 e.1) s

/-- The state of a strand that `start` begins (R97, R263, R275, R292). -/
def Strand.begun (b : Word) : Strand :=
  { Strand.reset with pc := b &&& ~~~3, life := .running, status := if b.getLsbD 0 then 8 else 0 }

/-- What happens at once to the activity of a strand that is being reaped: waits are abandoned, a day-barrier arrival is
withdrawn, registrations and demands are given up, copies are cancelled; what it has sent for its core to a group stands
(R293). A `take` waits for the answer of its theft; the frame it then holds is not lost (R111; log 43). -/
def State.reapActivity (s : State) (c n : Nat) : State :=
  let s := ((s.core c).copies.filter fun k => k.strand == n).foldl (fun s k => match k.phase with
    | .registering => s.dropCopy c k.id
    | _ => s.cancelCopy c k) s
  let stop := fun (s : State) => ((s.forsake c (.strand n)).modCore c fun k => k.departed (.strand n)).modStrand c n fun t =>
    { t with outst := none }
  match (s.strand c n).phase? with
  | some (.demand _ _ _) => stop ((s.modCore c fun k => k.abandon n).unstage c n)
  | some (.daybar i drain) => stop (s.modCore c fun k => match k.ring? i with
      | none => k
      | some r =>
        let bit : BitVec 16 := ~~~(BitVec.ofNat 16 (2 ^ n))
        k.setRing i (if drain then { r with drainArr := r.drainArr &&& bit } else { r with fillArr := r.fillArr &&& bit }))
  | some (.register _ _ _ node _) => stop (match node with
      | some (i, _) => s.leave c 100 i
      | none => s)
  | some (.take _ _ _ none) => s
  | some (.take _ _ _ (some (some f, _))) => stop (s.giveBack c n f)
  | some (.access _ _ _ _ _) => s
  | some (.push _ _ _) => s
  | some (.storing _ _ _) => s
  | some (.adding _) => s
  | some (.done _) => s
  | none => s
  | _ => stop s

/-- Whether everything a reaped strand still owed has come back (R293). -/
def State.reaped (s : State) (c n : Nat) : Bool :=
  let t := s.strand c n
  (match t.outst with
    | none => true
    | some o => o.err.isSome || (match o.phase with
      | .done _ => true
      | _ => false))
    && t.acks == 0 && !((s.core c).copies.any fun k => k.strand == n)

/-- Whether a tile step is running on a bank (R297). -/
def State.bankBusy (s : State) (c b : Nat) : Bool :=
  (List.range 4).any fun i =>
    let k := s.core (4 * clusterOf c + i)
    k.nodes.any fun e => e.2.state == .evaluating && !e.2.kind.isSource && k.bankOf 96 e.2 == some b

/-- The doublewords of a bank image: lane, address, bytes and mask (R297). -/
def imageElems (a : Word) : List (Nat × Word × Nat × Nat) :=
  (List.range 528).map fun i => (i, a + BitVec.ofNat 64 (8 * i), 8, fullMask 8)

/-- The checks on a bank image's address (R297). -/
def State.imageTrap (s : State) (a : Word) (w : Right) : Option (Cause × Word) :=
  if !mapSpace a then some (.localRange, a)
  else if a.toNat % 128 ≠ 0 then some (.misaligned, a)
  else match s.rangeCheck s.cur.1 s.me.mode ⟨a.toNat, a.toNat + 4224⟩ w with
    | .error e => some e
    | .ok _ => none

/-- R287. Traps with SCALL for a service request. -/
def execScall (s : State) : Out :=
  .next (s.callTrap .scall)

/-- R287. Traps with BREAK. -/
def execBrk (s : State) : Out :=
  .next (s.callTrap .brk)

/-- R288. Returns from a trap, restoring status and loop state. -/
def execRett (s : State) : Out :=
  s.privileged 1 (.next (s.modMe Strand.returned))

/-- R289. Waits for an enabled pending interrupt. -/
def execWfi (s : State) : Out :=
  s.privileged 1 (
    if (s.core s.cur.1).enabled s.cn ≠ 0 then .next (s.retire .on)
    else .next ((s.retire .on).modMe fun t => { t with life := .waiting }))

/-- R290. Retires the core from its run once its deque is empty. -/
def execHalt (s : State) : Out :=
  s.steward (
    let c := s.cur.1
    let k := s.core c
    if (List.range 16).any fun i => i != 0 && (k.strand i).life != .dormant then .next (s.trap .illegal s.word)
    else if s.me.acks ≠ 0 || (k.copies.any fun x => x.strand == 0) || k.deque.reserved ≠ 0 || k.deque.leaving ≠ 0 || s.frameComes c then
      .next (s.wait .other)
    else
      let s := s.dropTiles c 0
      if (s.core c).deque.depth ≠ 0 then .next (s.trap .illegal s.word)
      else
        let s := (s.retire .on).modMe fun t => { t with life := .dormant }
        .next (((s.leaveGroups c).modCore c fun k => { k with retired := true }).post (.completionRelease c)))

/-- R292. Starts a dormant strand at a given PC after a core-scope release. -/
def execStartS (a : Reg) (b : Reg) (s : State) : Out :=
  s.steward (s.gate [a, b] [] [] (
    if s.me.acks ≠ 0 then .next (s.wait .other)
    else
      let n := (s.read a).toNat % 16
      let v := s.read b
      let s := (s.pops [a, b]).retire .on
      .next (if (s.strand s.cur.1 n).life = .dormant then
          s.setStrand s.cur.1 n { Strand.begun v with startAt := (s.core s.cur.1).ticks + 8 }
        else s)))

/-- A `reap` of strand n goes on: what it owes comes back, a result that a full queue holds back for the limit is discarded
(R114, R120, R293; log 25), and then it is DORMANT. -/
def State.reapOn (s : State) (n : Nat) : State :=
  let c := s.cur.1
  let s := match (s.strand c n).phase? with
    | some (.take _ _ _ _) => s.reapActivity c n
    | _ => s.service c n
  let late := (s.heldResult c n).any fun x => (s.core c).limit ≤ (s.core c).ticks - x.2
  let s := if late then s.setErr c n .queueTimeout 0 else s
  if !s.reaped c n then s.wait (.reap n)
  else
    ((s.dropTiles c n).modStrand c n fun t =>
      { t with life := .dormant, outst := none, refusals := [], stall := none, skip := 0, popped := [], reaping := false }).retire .on

/-- R293. Stops a strand, winds down its activity and makes it DORMANT. The target is read once. -/
def execReap (a : Reg) (s : State) : Out :=
  s.steward (match s.me.stall.filter fun w => w.pc == s.me.pc with
    | some { why := .reap n, .. } => .next (s.reapOn n)
    | _ => s.gate [a] [] [] (
      let c := s.cur.1
      let n := (s.read a).toNat % 16
      let s := s.pops [a]
      .next (if n = 0 || (s.strand c n).life = .dormant then s.retire .on
        else ((s.reapActivity c n).modStrand c n fun t => { t with reaping := true }).reapOn n)))

/-- R294. Replaces the slot table from the first rotation after it completes. -/
def execSlotw (a : Reg) (b : Reg) (s : State) : Out :=
  s.privileged 1 (s.gate [a, b] [] [] (
    let en : BitVec 16 := (s.read b).truncate 16
    if !slotsValid (s.read a) en then .next (s.trap .illegal s.word)
    else
      let v := slotsStored (s.read a) en
      .next (((s.pops [a, b]).modCore s.cur.1 fun k =>
        { k with pendingSlots := k.pendingSlots ++ [{ slots := v, sloten := en, since := k.ticks }] }).retire .on)))

/-- R295. Waits until every slice has applied all earlier invalidation entries. -/
def execPtsync (s : State) : Out :=
  s.privileged 1 (
    let sites := s.sitesOf s.cur.1
    .next ((s.posts ((sites.filter fun x => !(s.reticle x).invLog.isEmpty).map Event.invalidationLogApply)).begin [] 0
      (.ptsync (sites.map fun x => (x, (s.reticle x).seq)))))

/-- R295. Waits until the core has no message outstanding on either network. -/
def execNetsync (s : State) : Out :=
  s.privileged 1 (.next (s.begin [] 0 .netsync))

/-- R296. Writes back every dirty byte of the core's L1. -/
def execL1wb (s : State) : Out :=
  .next (s.begin [] 0 .l1wb)

/-- R296. Marks clean L1 bytes not present and invalidates the instruction cache. -/
def execL1inv (s : State) : Out :=
  .next ((s.modCore s.cur.1 fun k => { k.forgetClean with icache := [] }).retire .on)

/-- R297. Writes an accumulator bank image to memory and clears its tag. -/
def execAccspill (k : BitVec 5) (a : Reg) (s : State) : Out :=
  s.privileged 1 (
    if 8 ≤ k.toNat then .next (s.trap .illegal s.word)
    else s.gate [a] [] [] (
      let x := s.read a
      match s.imageTrap x .write with
      | some (cause, y) => .next (s.trap cause y)
      | none =>
        if s.bankBusy s.cur.1 k.toNat then .next (s.wait .other)
        else
          let bank := (s.cluster (clusterOf s.cur.1)).bank k.toNat
          let ws := (imageElems x).map fun e => (e.2.1, e.2.2.1, e.2.2.2, bank.imageWord e.1)
          let vs := s.storeVerdicts ws
          match vs.find? fun v => v.2 == .locked with
          | some (y, _) => .next (s.trap .rangeLocked y)
          | none =>
            if vs.any fun v => v.2 == .stall then .next (s.wait .other)
            else
              let locks := (vs.flatMap fun v => v.2.locks).eraseDups
              s.demanding 0 [a] ((s.core s.cur.1).forced locks) (
                let s := (s.retireViews s.cur.1 locks).pops [a]
                .next ((State.drain s.cur.1 s.cn s.me.pc false ws s).finish 0 false (some k.toNat)))))

/-- R297. Restores an accumulator bank and its tag from an image. -/
def execAccfill (k : BitVec 5) (a : Reg) (s : State) : Out :=
  s.privileged 1 (
    if 8 ≤ k.toNat then .next (s.trap .illegal s.word)
    else s.gate [a] [] [] (
      let x := s.read a
      let bank := (s.cluster (clusterOf s.cur.1)).bank k.toNat
      if bank.tag.isSome then .next (s.trap .accOwned (accTval bank.tag false k.toNat))
      else match s.imageTrap x .read with
        | some (cause, y) => .next (s.trap cause y)
        | none => s.loads 0 [a] [] (.bank k.toNat) (imageElems x)))

end Sys2Proof.Machine
end

