-- ==== Sys2Proof/Machine/EvCore.lean ====
section
/-! DEFINITION. Events of a core: register writes, interrupts, deferred traps, completions, the slot table, fetches (R30, R100 to R103, R114, R133, R156, R190, R272 to R285, R289, R294, R301). -/

namespace Sys2Proof.Machine

/-! ### Completion of an outstanding instruction (R102, R103) -/

/-- An instruction whose tile work is done is executed again from the start, with what it popped and read at issue, its place
among the demands of its core, and what its shadow retired (R220, R238). -/
def State.reissue (s : State) (c n : Nat) : State :=
  s.modStrand c n fun t => match t.outst with
    | none => t
    | some o => { t with outst := none, pc := o.pc, skip := o.retired, popped := o.pops, rerun := true, record := o.record,
                          scalars := o.scalars, order := some o.order }

/-- An outstanding instruction ends if it can: its trap, its reissue, or its completion. -/
def State.settle (s : State) (c n : Nat) : State :=
  match (s.strand c n).outst with
  | none => s
  | some o => match o.err with
    | some (cause, a) => s.finishTrap c n cause a 0
    | none => match o.phase with
      | .demand [] _ _ => s.reissue c n
      | _ => s.endDone c n

/-- An instruction of format Y that waits: it is not long-latency, so an interrupt or a deferred trap may come between, and it is
then executed again (R126, R285). -/
def Phase.formatY : Phase → Bool
  | .l1wb => true
  | .netsync => true
  | .ptsync _ => true
  | _ => false

/-- A `reap` under way holds its slot (R293). -/
def StallWhy.reaps : StallWhy → Bool
  | .reap _ => true
  | _ => false

/-- Whether an interrupt or a deferred trap finds a strand between instructions: no long-latency instruction is outstanding, none is
being executed again after its tile work (R220; log 10), and no `reap` is under way (R285, R293, R301). -/
def Strand.between (t : Strand) : Bool :=
  t.life == .running && !t.rerun && !(t.stall.any fun w => w.pc == t.pc && w.why.reaps) && match t.outst with
    | none => true
    | some o => o.err.isNone && o.phase.formatY

/-- The PC of the next instruction not yet issued, for an interrupt (R285). -/
def Strand.nextPc (t : Strand) : Word :=
  match t.outst with
  | none => t.pc
  | some o => o.pc

/-- What a strand is at is set aside for an interrupt or a deferred trap, to be executed anew. -/
def State.setAside (s : State) (c n : Nat) : State := (s.unpop c n).modStrand c n fun t => { t with outst := none }

/-- Whether a strand takes a deferred RANGE_LOCKED now: TIN is clear and it is between instructions or waits in a `fence.ack`
(R72, R301). -/
def Strand.defers (t : Strand) : Bool :=
  t.life == .running && !t.tin && !t.refusals.isEmpty &&
    (t.between || t.outst.any fun o => o.err.isNone && o.phase == .fenceAck)

/-- Whether a strand would take an interrupt in a slot of its own (R285). -/
def State.interrupted (s : State) (c n : Nat) : Bool :=
  (s.strand c n).ie && (s.strand c n).between && ((s.core c).interrupt? n).isSome

/-- Take the oldest pending refusal (R72, R301). -/
def State.takeDeferred (s : State) (c n : Nat) : State :=
  let t := s.strand c n
  match t.refusals with
  | [] => s
  | r :: rest =>
    let code : Word := BitVec.ofNat 64 (causeCode .rangeLocked)
    let shadow := if t.between then 0 else (t.outst.map Outst.retired).getD 0
    ((s.setAside c n).modStrand c n fun t => { t with refusals := rest }).entry c n code t.nextPc r.addr r.pc shadow t.nextPc

/-! ### Queue waits (R114) -/

/-- TVAL of QUEUE_TIMEOUT. -/
def Core.queueTval (k : Core) (q : Nat) (push : Bool) : Word :=
  BitVec.ofNat 64 (q * 2 ^ 32 + (if push then 2 ^ 16 else 0) + (k.queue q).bits)

/-! ### Fetch (R122, R156) -/

/-- The instruction word at a line's byte. -/
def lineWord (data : Line) (pc : Word) : BitVec 32 := data.extractLsb' (8 * (pc.toNat % 128)) 32

/-- The word a core's instruction cache holds for a PC. -/
def Core.fetched? (k : Core) (pc : Word) : Option (BitVec 32) :=
  (k.icache.find? fun e => e.1 == field 56 0 pc / 128).map fun e => lineWord e.2 pc

/-- Why a fetch from a PC faults before it is made (R122). A virtual PC with a must-be-zero bit set faults as a data access
would (R50, R122; log 43). -/
def State.fetchTrap (s : State) (c : Nat) (pc : Word) : Option Cause :=
  if field 63 63 pc = 0 then some .localRange
  else if field 62 57 pc ≠ 0 then some .localRange
  else match s.runOf c with
    | none => some .leaseViolation
    | some r => if pageLeased r.lease (field 56 0 pc) .exec then none else some .leaseViolation

/-- The first instruction that is not eligible ends the shadow; the count left is forfeited (R102). -/
def State.endShadow (s : State) (c n : Nat) : State :=
  s.modStrand c n fun t => match t.outst with
    | none => t
    | some o => { t with outst := some { o with la := o.retired } }

/-- A fetch fault of a strand, exactly at its PC, which TVAL holds. -/
def State.fetchFault (s : State) (c n : Nat) (cause : Cause) : State :=
  let t := s.strand c n
  (s.modStrand c n fun t => { t with fetchErr := none }).raise c n cause t.pc t.pc 0 t.skip

/-- A fetch came back without its words: the fault falls due when the strand would issue the instruction, after a deferred
trap and an interrupt; in a shadow it only ends the shadow (R102, R300, R309). -/
def State.fetchLost (s : State) (c n : Nat) (cause : Cause) : State :=
  if (s.strand c n).outst.isSome then s.endShadow c n
  else s.modStrand c n fun t => { t with fetchErr := some (t.pc, cause) }

/-- R133. An encoding that is not an instruction traps with ILLEGAL_INSTRUCTION. -/
def execUnassignedEncoding (word : BitVec 32) (s : State) : Out :=
  .next ({ s with ir := word }.trap .illegal (word.zeroExtend 64))

/-- R275. A write to DOORBELL sets the writer's DBSRC bit in the steward. -/
def execDoorbellWrite (core : Nat) (strand : Nat) (s : State) : Out :=
  .next (s.doorbell core strand)

/-- R275. A steward read of HOSTMSG pops the oldest host message. -/
def execHostmsgRead (core : Nat) (strand : Nat) (s : State) : Out :=
  .next (if strand % 16 = 0 then s.sysAfterRead core 0x112 else s)

/-- R280. Writing 1 to IPEND W1C bits clears doorbell sources or the intercalation notice. -/
def execIpendWrite (core : Nat) (strand : Nat) (v : Word) (s : State) : Out :=
  .next (s.sysWrite core strand 0x110 v)

/-- R284. Writing TCMP sets the timer compare value and clears the timer interrupt. -/
def execTcmpWrite (core : Nat) (strand : Nat) (v : Word) (s : State) : Out :=
  .next (s.sysWrite core strand 0x111 v)

/-- R282. A steward write of ADVQ or ADVQH sets quotas after the sum check. -/
def execAdvqWrite (core : Nat) (high : Bool) (v : Word) (s : State) : Out :=
  let num := if high then 0x123 else 0x122
  .next (if (s.core core).sysRefuses num v then s else s.sysWrite core 0 num v)

/-- R276. A write to TSTATUS ignores an illegal or higher MODE. -/
def execTstatusWrite (core : Nat) (strand : Nat) (v : Word) (s : State) : Out :=
  .next (s.sysWrite core strand 0x101 v)

/-- R30. A write to FCTL sets flags and ignores RM values 5 to 7. -/
def execFctlWrite (core : Nat) (strand : Nat) (v : Word) (s : State) : Out :=
  .next (s.sysWrite core strand 0x000 v)

/-- R285. Takes the lowest-numbered enabled pending interrupt at an owned slot. -/
def execInterruptEntry (core : Nat) (strand : Nat) (s : State) : Out :=
  let t := s.strand core strand
  match (s.core core).interrupt? strand with
  | none => .next s
  | some i =>
    if !s.interrupted core strand || t.defers then .next s
    else .next ((s.setAside core strand).entry core strand (BitVec.ofNat 64 (2 ^ 63 + i)) t.nextPc 0 0 0 t.nextPc)

/-- R284. CALENDS reaches TCMP and the timer interrupt becomes pending. -/
def execTimerExpiry (core : Nat) (strand : Nat) (s : State) : Out :=
  .next (if (s.strand core strand).tcmp.ule (s.core core).calends then s.wake core strand else s)

/-- R289. A waiting strand returns to RUNNING when an enabled interrupt is pending. -/
def execWfiWake (core : Nat) (strand : Nat) (s : State) : Out :=
  .next (s.wake core strand)

/-- R301. Takes the oldest pending deferred RANGE_LOCKED before the next instruction. -/
def execDeferredTrap (core : Nat) (strand : Nat) (s : State) : Out :=
  .next (if (s.strand core strand).defers then s.takeDeferred core strand else s)

/-- R102. A long-latency instruction's result or completion reaches the strand. -/
def execLongLatencyComplete (core : Nat) (strand : Nat) (s : State) : Out :=
  .next (if (s.strand core strand).defers then s.takeDeferred core strand
    else (s.service core strand).settle core strand)

/-- The `slotw` of a table has completed, in the eighth cc of the pipeline, before a tick (R13, R294). -/
def SlotTable.complete (x : SlotTable) (tick : Nat) : Bool := x.since + 8 ≤ tick

/-- The table that takes effect in the core's present cc: that of the last `slotw` completed before (R294). -/
def Core.nextSlots (k : Core) : Option SlotTable :=
  if k.calends.toNat % 16 = 0 then (k.pendingSlots.filter fun x => x.complete k.ticks).getLast? else none

/-- R294. A pending slot table takes effect when CALENDS mod 16 is 0. -/
def execSlotTableSwitch (core : Nat) (s : State) : Out :=
  match (s.core core).nextSlots with
  | none => .next s
  | some p => .next (s.modCore core fun k =>
      { k with slots := p.slots, sloten := p.sloten, pendingSlots := k.pendingSlots.filter fun x => !x.complete k.ticks })

/-- R190. A yield ends after 2^12 cc without a frame. -/
def execYieldTimeout (core : Nat) (strand : Nat) (s : State) : Out :=
  .next (match (s.strand core strand).phase? with
    | some .yield => if 4096 ≤ s.elapsed core strand then s.done core strand else s
    | _ => s)

/-- R114. A blocked queue port access traps after QLIMIT cc. No pop or push has taken effect: the frame that a `take` holds, a
stolen one too, goes to the near end of the strand's own deque (log 43). -/
def execQueueTimeout (core : Nat) (strand : Nat) (s : State) : Out :=
  let t := s.strand core strand
  let k := s.core core
  match t.outst with
  | none => match t.stall with
    | none => .next s
    | some w => match w.why with
      | .queue q push =>
        if k.ticks - w.since < k.limit then .next s
        else .next (s.raise core strand .queueTimeout t.pc (k.queueTval q push) 0 t.skip)
      | _ => .next s
  | some o => match s.heldResult core strand with
    | none => .next s
    | some (d, since) =>
      if k.ticks - since < k.limit then .next s
      else
        let s := match o.phase with
          | .take _ _ _ (some (some f, _)) => s.giveBack core strand f
          | _ => s
        .next (s.setErr core strand .queueTimeout (k.queueTval ((t.port? d).getD 0) true))

/-- R185. A vigil whose condition has not held by 2^x cc traps. -/
def execVigilTimeout (core : Nat) (strand : Nat) (s : State) : Out :=
  .next (match (s.strand core strand).phase? with
    | some (.vigil fn _ q x) =>
      if 2 ^ x ≤ s.elapsed core strand && !(s.core core).vigilHolds fn q then
        s.setErr core strand .vigilTimeout ((s.core core).vigilTval fn q)
      else s
    | _ => s)

/-- R156. Instruction words read from their home slice through the instruction cache return, or the fetch faults. -/
def execInstructionFetchReturn (core : Nat) (strand : Nat) (s : State) : Out :=
  let t := s.strand core strand
  let part := s.partOf core
  let line := field 56 0 t.pc / 128
  if t.life ≠ .running || t.reaping || (s.core core).stopped || (s.fetchTrap core t.pc).isSome then .next s
  else match t.fetchErr with
  | some (a, cause) => .next (if a = t.pc then s.fetchLost core strand cause
      else s.modStrand core strand fun t => { t with fetchErr := none })
  | none =>
    if !s.lineAtHand part line then
      .next ((s.touchLine core (strand % 16) t.pc true part line).again (.instructionFetchReturn core strand))
    else match (s.slice (s.homeSlice part line)).line? part line with
      | none => .next s
      | some l => match s.linePoison l with
        | some why => .next ((s.homeReport core t.pc (.virt part) (l.line * 128) (l.phys / 128) why).fetchLost core strand why)
        | none => .next (s.modCore core fun k => { k with icache := (l.line, l.data) :: k.icache.filter fun e => e.1 != l.line })

end Sys2Proof.Machine
end

