-- ==== Sys2Proof/Machine/EvMem.lean ====
section
/-! DEFINITION. Messages of the memory system: ports, slices, walks, answers, the L1 (R22, R54, R64 to R66, R70, R81, R85, R327, R328, R332, R333). -/

namespace Sys2Proof.Machine

/-- The bits of an n-byte element that a load into this destination needs (R195). -/
def Dest.needs (d : Dest) (n : Nat) : Nat :=
  match d with
  | .bytes _ p _ => (List.range n).foldl (fun m i => if p.getLsbD i then m + 255 * 2 ^ (8 * i) else m) 0
  | _ => fullMask n

/-- The answers a fill gives to the elements of one strand that waited for the line (R54). -/
def State.answerNeeds (s : State) (c n line : Nat) (err : Option Cause) : State :=
  match (s.strand c n).phase? with
  | some (.access d w need want got) =>
    let here := need.filter fun e => field 56 0 e.1 / 128 == line
    let rs := here.map fun e => match err with
      | some cause => { lane := e.2, value := 0, serial := 0, err := some (cause, e.1) }
      | none => match (s.core c).presentMask (field 56 0 e.1) w (d.needs w) with
        | some v => replyOk e.2 v 0
        | none => { lane := e.2, value := 0, serial := 0, err := some (Cause.rangeLocked, e.1) }
    if here.isEmpty then s
    else (s.setPhase c n (.access d w (need.filter fun e => field 56 0 e.1 / 128 != line) want (got ++ rs))).answered c n
  | _ => s

/-- A frame after a fill: bytes that are not dirty and not blocked take the fetched data (R54). -/
def L1Frame.filled (f : L1Frame) (r : Fill) : L1Frame :=
  let take : LineMask := ~~~(f.dirty ||| f.sent ||| r.blocked)
  let bits := (List.range 128).foldl (fun m i => if take.getLsbD i then m + 255 * 2 ^ (8 * i) else m) 0
  { f with data := BitVec.ofNat 1024 (mergeBits bits r.data.toNat f.data.toNat), present := f.present ||| take, filling := false }

/-- A frame whose fill failed: it is freed if it holds nothing and owes nothing. -/
def Core.fillFailed (k : Core) (f : Nat) (fr : L1Frame) : Core :=
  k.keepFrame f { fr with filling := false, evict := fr.evict || fr.present == 0 }

def Slice.walk? (k : Slice) (line : Nat) : Option Walk := k.walks.find? fun w => w.line == line
def Slice.setWalk (k : Slice) (w : Walk) : Slice := { k with walks := w :: k.walks.filter fun x => x.line != w.line }
def Slice.endWalk (k : Slice) (line : Nat) : Slice := { k with walks := k.walks.filter fun x => x.line != line }

/-- The fate of a request whose walk is exhausted (R309): an answer with the machine check, the fault of a fetch, or the
stop of its run. -/
def State.walkFails (s : State) (k : Nat) (q : Req) : State :=
  match q.access with
  | .write _ _ _ => s.stopRunOf q.core 1
  | .writeback _ _ => s.stopRunOf q.core 1
  | .touch false => s.stopRunOf q.core 1
  | .touch true => s.modStrand q.core q.strand fun t => { t with fetchErr := some (q.full, .walkRaceExhausted) }
  | _ => s.post (refuseReply q (.slice k) .walkRaceExhausted)

/-- Every write-back of a core's L1 that was refused is sent again (R70). -/
def State.resend (s : State) (c : Nat) : State :=
  ((s.core c).l1.filter fun e => e.2.refused && e.2.sent == 0).foldl (fun s e => s.writeback c 0 e.1 e.2 e.2.evict) s

/-- A core's part of the completion of its run: it has retired, its L1 is clean and its channel is empty (R96, R344). -/
def State.finished (s : State) (c : Nat) : Bool :=
  let k := s.core c
  k.retired && k.copies.isEmpty && !(k.l1.any fun e => e.2.dirty != 0 || e.2.sent != 0)

/-- A run is complete: so is every core's part, and no release that the control dies make for a core is still under way
(R96, R344). -/
def State.runComplete (s : State) (r : Run) : Bool :=
  (s.regionCores r).all fun c => s.finished c && !s.agenda.contains (.completionRelease c)

/-- R64. A core's port performs a remote request at its banks. -/
def execPortRequest (core : Nat) (q : Req) (s : State) : Out :=
  s.arrive core false (.portRequest core q) (.next (s.performPad core q))

/-- R66. A slice performs an access to one of its lines in arrival order. -/
def execSliceAccess (slice : Nat) (q : Req) (s : State) : Out :=
  .next (s.enqueue slice q)

/-- R22. Data for a slice miss return and the line is installed, once the memory of its frame serves lines (R351). -/
def execSliceMissFill (slice : Nat) (line : Nat) (s : State) : Out :=
  match (s.slice slice).waiting with
  | [] => .next s
  | q :: _ =>
    if q.addr / 128 ≠ line then .next s
    else if ((s.slice slice).line? q.part line).isSome then .next (s.serveAll slice)
    else match (s.slice slice).tlb? (line * 128) with
      | none => .next (s.post (.walkRequest slice line))
      | some e =>
        if !s.keyServes (e.key (line * 128)) then .next (s.post (.sliceMissFill slice line))
        else .next (((s.modSlice slice fun k => k.cache e).installLine slice q.part line e).serveAll slice)

/-- R327. A control die starts a page-table walk for a slice's translation miss. -/
def execWalkRequest (slice : Nat) (line : Nat) (s : State) : Out :=
  match (s.slice slice).waiting with
  | [] => .next s
  | q :: _ => match s.partition? q.part with
    | none => .next s
    | some p =>
      if ((s.slice slice).walk? line).isSome then .next s
      else .next ((s.modSlice slice fun k => k.setWalk { line, level := 4, table := p.ptroot, retries := 0 }).post (.walkEntryReturn slice line))

/-- R327. A page-table entry read returns and the walk continues or installs the translation; none is installed to a hole
(R365), which the walk takes as an entry that is not valid (log 12). -/
def execWalkEntryReturn (slice : Nat) (line : Nat) (s : State) : Out :=
  match (s.slice slice).walk? line with
  | none => .next s
  | some w =>
    let e := s.pte w.table w.level (line * 128)
    if !e.good w.level || e.hole then .next (s.post (if 64 ≤ w.retries then .walkRaceExhausted slice line else .walkRetry slice line))
    else if e.leaf then
      .next ((s.modSlice slice fun k => (k.endWalk line).cache (e.cached (line * 128))).post (.sliceMissFill slice line))
    else .next ((s.modSlice slice fun k => k.setWalk { line, level := w.level - 1, table := e.frame * 4096, retries := 0 }).post
      (.walkEntryReturn slice line))

/-- R328. After its backoff, a walk rereads an entry found invalid. -/
def execWalkRetry (slice : Nat) (line : Nat) (s : State) : Out :=
  match (s.slice slice).walk? line with
  | none => .next s
  | some w => .next ((s.modSlice slice fun k => k.setWalk { w with retries := w.retries + 1 }).post (.walkEntryReturn slice line))

/-- R328. Retry 64 still finds V = 0 and raises a machine check. -/
def execWalkRaceExhausted (slice : Nat) (line : Nat) (s : State) : Out :=
  match (s.slice slice).walk? line with
  | none => .next s
  | some w =>
    let s := s.modSlice slice fun k => k.endWalk line
    match (s.slice slice).waiting with
    | [] => .next s
    | q :: rest =>
      if w.retries < 64 then .next s
      else
        let s := s.report { time := s.clockOf q.core, location := location (slice / 32) 2 0 5 (slice % 32) 0,
                            address := BitVec.ofNat 64 (2 ^ 63 + line * 128), syndrome := BitVec.ofNat 32 (64 * 256 + w.level),
                            cause := causeCode .walkRaceExhausted, kind := 5, part := q.part }
        .next (((s.modSlice slice fun k => { k with waiting := rest }).walkFails slice q).serveAll slice)

/-- R22. A response to a load or atomic arrives and is written to the destination. -/
def execLoadResponse (core : Nat) (strand : Nat) (home : Home) (r : Reply) (s : State) : Out :=
  s.arrive core true (.loadResponse core strand home r) (.next (match (s.strand core strand).phase? with
    | some (.access d n need want got) => (s.setPhase core strand (.access d n need want (got ++ [r]))).answered core strand
    | _ => s))

/-- R81. A posted store's acknowledgement or refusal returns and the counter falls. -/
def execPostedStoreAck (core : Nat) (strand : Nat) (home : Home) (refused : Option Refused) (s : State) : Out :=
  s.arrive core true (.postedStoreAck core strand home refused) (.next (s.modStrand core strand fun t =>
    { t with acks := t.acks - 1, refusals := if t.reaping then [] else t.refusals ++ refused.toList }))

/-- R54. A fetched line fills the non-dirty bytes of its L1 frame; the answer to a fill asked for before the line was dropped
or an acquire fills nothing. -/
def execL1FillResponse (core : Nat) (line : Nat) (r : Fill) (s : State) : Out :=
  s.arrive core true (.l1FillResponse core line r) (match (s.core core).frame? line with
    | none => .next s
    | some (f, fr) =>
      if fr.stale ≠ 0 then .next (s.modCore core fun k => k.keepFrame f { fr with stale := fr.stale - 1 })
      else
      let s := s.modCore core fun k => match r.err with
        | some _ => k.fillFailed f fr
        | none => k.setFrame f (fr.filled r)
      .next ((List.range 16).foldl (fun s n => s.answerNeeds core n line r.err) s))

/-- R54. A home replies that an L1 write-back was performed or refused. A refused one leaves its bytes dirty in their frame,
which keeps its line unless its way has become scratchpad (R53). -/
def execL1WritebackReply (core : Nat) (line : Nat) (performed : Bool) (s : State) : Out :=
  s.arrive core true (.l1WritebackReply core line performed) (
    let s := s.modCore core fun k => k.cleaned line performed
    match (s.core core).frame? line with
    | none => .next s
    | some (f, fr) =>
      let leaves := decide (f / 128 < (s.core core).scr / 16384)
      if performed then .next (s.modCore core fun k =>
        if (fr.evict || leaves) && fr.dirty == 0 && fr.quiet then k.freeFrame f
        else k.keepFrame f { fr with sent := 0, evict := fr.evict && fr.dirty == 0 && !fr.filling })
      else .next (s.modCore core fun k =>
        k.setFrame f { fr with dirty := fr.dirty ||| fr.sent, present := fr.present ||| fr.sent, sent := 0, refused := true,
                               evict := false }))

/-- R70. The control die resends a refused launch or completion write-back every 2^16 cc. -/
def execWritebackRetry (core : Nat) (s : State) : Out :=
  .next (s.resend core)

/-- R344. After a core retires the control dies make its package-scope release. -/
def execCompletionRelease (core : Nat) (s : State) : Out :=
  let k := s.core core
  if !k.retired then .next s
  else if !k.copies.isEmpty || k.writingBack then .next (s.post (.completionRelease core))
  else if k.refusedLine?.isSome then .next (s.posts [.writebackRetry core, .completionRelease core])
  else match s.cleanAll core 0 with
    | none => .next (s.post (.completionRelease core))
    | some s =>
      if (s.core core).writingBack then .next (s.post (.completionRelease core))
      else
        let s := s.writeFar (s.partOf core)
        match s.runOf core with
        | none => .next s
        | some r =>
          .next (if r.life = .live && s.runComplete r then s.post (.harvest r.part r.ctx) else s)

/-- R85. A second-tier port's completion, the PCI Express link's acceptance of a posted write, or a service-reticle agent's acceptance returns to a waiting package-scope release. -/
def execSecondTierCompletion (core : Nat) (strand : Nat) (s : State) : Out :=
  .next (match (s.strand core strand).phase? with
    | some (.tier acq) => (if acq then s.acquire core .package else s).done core strand
    | _ => s)

/-- R332. At 8,192 entries the control die sets D bits and empties the log. -/
def execDirtyLogMerge (site : Nat) (s : State) : Out :=
  .next (s.mergeLog site).2

/-- R333. Slices apply the invalidation log, dropping overlapping translations. -/
def execInvalidationLogApply (site : Nat) (s : State) : Out :=
  .next (s.applyLog site)

end Sys2Proof.Machine
end

