-- ==== Sys2Proof/Machine/EvSync.lean ====
section
/-! DEFINITION. Day barriers, groups, thefts and levelling as messages (R62, R108 to R110, R116, R117, R182, R183, R264). -/

namespace Sys2Proof.Machine

/-- TVAL of a day barrier's timeout (R62). -/
def Ring.tval (r : Ring) (i : Nat) (drain : Bool) : Word :=
  let arr := if drain then r.drainArr else r.fillArr
  let exp := if drain then r.cfg.cons else r.cfg.prod
  BitVec.ofNat 64 (i * 2 ^ 62 + (if drain then 2 ^ 61 else 0) + arr.toNat * 2 ^ 32 + exp.toNat * 2 ^ 16
    + r.fill % r.cfg.days * 2 ^ 8 + r.drain % r.cfg.days)

/-- Every waiting strand of a core in a list traps with VIGIL_TIMEOUT at its group operation (R117). -/
def State.expire (s : State) (c idx : Nat) (ns : List Nat) : State :=
  ns.foldl (fun s n => s.setErr c n .vigilTimeout (BitVec.ofNat 64 idx)) s

/-- The group in whose episode a strand waits with its core's part, and whether it is a reduction. -/
def Core.waitsOn (k : Core) (n : Nat) : Option (GroupRef × Bool) :=
  match (k.strand n).outst with
  | none => none
  | some o => if o.err.isSome then none else match o.phase with
    | .barrier g true => some (g, false)
    | .reduce g _ _ _ true => some (g, true)
    | _ => none

/-- A message arrives at a group's root, which is its first member (R116, R314). -/
def State.atRoot (s : State) (g : GroupRef) (e : Event) (go : Out) : Out :=
  match (s.group? g).bind fun x => x.members.head? with
  | none => .next s
  | some root => s.arrive root false e go

/-- A message from `from_` climbs a group's tree: at the root it takes effect, any other member passes it on to its parent
(R116, R117, R182, R183, R336). `msg` is the message as a member sends it. -/
def State.climb (s : State) (g : GroupRef) (from_ : Nat) (msg : Nat → Event) (go : Out) : Out :=
  match s.nextUp g from_ with
  | none => .next s
  | some at_ => s.arrive at_ false (msg from_) (if s.rootOf g = some at_ then go else .next (s.post (msg at_)))

/-! ### Levelling (R110, R264) -/

/-- The levelling exponent: 1 to 7 act as 8, 25 to 31 as 24 (R282). -/
def Core.levelK (k : Core) : Nat := min 24 (max 8 k.balance.toNat)

/-- The core with number i at a router, if a named cluster stands there (R21, R350). -/
def State.coreAt (s : State) (x y i : Nat) : Option Nat :=
  let site := 6 * (y / 11) + x / 8
  let b := 2 * (y % 11 / 5) + x % 8 / 4
  if y % 11 = 10 || 48 ≤ x || 77 ≤ y || !Config.isCompute site then none
  else
    let blk := s.block (4 * site + b)
    let l := blk.live.idxOf (4 * (y % 11 % 5) + x % 4)
    if l < blk.nameCount then some (256 * site + 64 * b + 4 * l + i) else none

/-- The mesh neighbours of a core, north, east, south, west, that lie in its run region and have not retired (R110). -/
def State.neighbours (s : State) (c : Nat) : List Nat :=
  let r := s.routerOf c
  let at_ := [if r.2 = 0 then none else s.coreAt r.1 (r.2 - 1) (c % 4), s.coreAt (r.1 + 1) r.2 (c % 4),
    s.coreAt r.1 (r.2 + 1) (c % 4), if r.1 = 0 then none else s.coreAt (r.1 - 1) r.2 (c % 4)]
  match s.runOf c with
  | none => []
  | some run => at_.filterMap fun x => match x with
    | some n => if s.inRegion run n && !s.isRetired n then some n else none
    | none => none

/-- The neighbour of least depth; ties go to the first. -/
def State.shallowest (s : State) (ns : List Nat) : Option Nat :=
  ns.foldl (fun a n => match a with
    | none => some n
    | some m => if (s.core n).deque.depth < (s.core m).deque.depth then some n else some m) none

/-- Send up to g frames from the far end of a deque, farthest first; the last message carries the places not used. -/
def State.sendFrames (c to_ : Nat) : Nat → List Frame → State → State
  | 0, [], s => s
  | g, fs, s =>
    match fs with
    | [] => s.post (.levelledFrameArrival to_ c none g)
    | [f] => s.post (.levelledFrameArrival to_ c (some f) (g - 1))
    | f :: r => match g with
      | 0 => s
      | g + 1 => State.sendFrames c to_ g r (s.post (.levelledFrameArrival to_ c (some f) 0))

/-- Remove up to g frames from the far end (R108). -/
def State.takeFar (c : Nat) : Nat → State → List Frame × State
  | 0, s => ([], s)
  | g + 1, s => match s.popFar c with
    | none => ([], s)
    | some (f, s) => let r := State.takeFar c g s; (f :: r.1, r.2)

/-- R62. A day barrier's conditions hold, the pointer advances and members proceed. -/
def execDayBarrierAdvance (core : Nat) (ring : Nat) (drain : Bool) (s : State) : Out :=
  .next (s.dayAdvance core ring drain)

/-- R62. A member waiting 2^WAIT cc withdraws and traps with VIGIL_TIMEOUT. -/
def execDayBarrierTimeout (core : Nat) (strand : Nat) (s : State) : Out :=
  match (s.strand core strand).phase? with
  | some (.daybar i drain) => match (s.core core).ring? i with
    | none => .next s
    | some r =>
      if s.elapsed core strand < 2 ^ r.cfg.wait then .next s
      else
        let bit : BitVec 16 := ~~~(BitVec.ofNat 16 (2 ^ (strand % 16)))
        let s := s.modCore core fun k => k.setRing i
          (if drain then { r with drainArr := r.drainArr &&& bit } else { r with fillArr := r.fillArr &&& bit })
        .next (s.setErr core strand .vigilTimeout (r.tval i drain))
  | _ => .next s

/-- R116. A core's arrival climbs to the group root and is counted. -/
def execBarrierArrival (g : GroupRef) (core : Nat) (from_ : Nat) (s : State) : Out :=
  s.climb g from_ (.barrierArrival g core) (
    let s := s.modGroup g fun x =>
      if x.expected.contains core && !x.arrived.contains core then { x with arrived := x.arrived ++ [core] } else x
    .next (s.tryBarrier g))

/-- R117. A strand waiting 2^W cc sends its core's withdrawal to the root. -/
def execGroupWaitTimeout (core : Nat) (strand : Nat) (s : State) : Out :=
  match (s.core core).waitsOn strand with
  | none => .next s
  | some (r, red) => match s.group? r with
    | none => .next s
    | some g =>
      if s.elapsed core strand < 2 ^ g.image.wait then .next s else .next (s.withdraw r core red)

/-- R117. The root clears an arrival if the episode in which the core withdrew is still open, and the waiters trap; an arrival that
has not come is still counted when it comes. -/
def execBarrierWithdrawal (g : GroupRef) (core : Nat) (reduction : Bool) (from_ : Nat) (s : State) : Out :=
  s.climb g from_ (.barrierWithdrawal g core reduction) (
    match s.group? g with
    | none => .next s
    | some x =>
      if !((s.core core).arrival? g.idx reduction).any Arrival.withdrawn then .next s
      else
        let counted := if reduction then x.redValues.any fun e => e.1 == core else x.arrived.contains core
        let rest := x.redValues.filter fun e => e.1 != core
        let s := s.modGroup g fun x =>
          if reduction then { x with redValues := rest, redOp := if rest.isEmpty then none else x.redOp }
          else { x with arrived := x.arrived.filter fun c => c != core }
        let s := s.expire core g.idx ((s.core core).strandsIn (if reduction then Phase.inReduction g else Phase.inBarrier g))
        let s := s.modCore core fun k =>
          if counted then k.dropArrival g.idx reduction else k.setWithdrawn g.idx reduction false
        .next (if reduction then s
          else ((s.core core).copies.filter fun k => k.waitsIn g).foldl (fun s k => s.endCopy core k.id 0x09) s))

/-- The children of a core in its group's spanning tree: member i is the parent of members 2i + 1 and 2i + 2 (R336). -/
def Group.children (x : Group) (c : Nat) : List Nat :=
  match x.members.idxOf? c with
  | none => []
  | some i => [x.members[2 * i + 1]?, x.members[2 * i + 2]?].filterMap id

/-- R182. The root accepts or refuses a broadcast value by credit and floods it, from its own core on down the tree (R336). -/
def execBroadcastAccept (g : GroupRef) (core : Nat) (strand : Nat) (v : Word) (s : State) : Out :=
  s.atRoot g (.broadcastAccept g core strand v) (
    match s.group? g with
    | none => .next s
    | some x =>
      if 4 ≤ x.unpopped.length then .next (match (s.strand core strand).phase? with
        | some (.bcastSend h w true first) => s.setPhase core strand (.bcastSend h w false first)
        | _ => s)
      else
        let seq := x.seq
        let s := s.modGroup g fun x => { x with seq := seq + 1, unpopped := x.unpopped ++ [(seq, x.expected)] }
        let s := s.posts (x.members.head?.toList.map fun c => Event.broadcastFloodArrival g c seq v)
        .next (match (s.strand core strand).phase? with
          | some (.bcastSend _ _ true _) => (s.acquire core .partition).done core strand
          | _ => s))

/-- R182. A flooded value goes on to the children of a member core (R336) and enters its broadcast buffer, if it has not
retired. -/
def execBroadcastFloodArrival (g : GroupRef) (core : Nat) (seq : Nat) (v : Word) (s : State) : Out :=
  s.arrive core false (.broadcastFloodArrival g core seq v) (
    let s := s.posts (((s.group? g).map fun x => x.children core).getD [] |>.map fun c => Event.broadcastFloodArrival g c seq v)
    .next (if s.isRetired core then s
    else s.modCore core fun k => { k with bcast := assign g.idx (lookupD [] g.idx k.bcast ++ [(seq, v)]) k.bcast }))

/-- R182. A credit returns to the root once every member popped the value. -/
def execBroadcastCreditReturn (g : GroupRef) (core : Nat) (seq : Nat) (from_ : Nat) (s : State) : Out :=
  s.climb g from_ (.broadcastCreditReturn g core seq) (
    .next (s.modGroup g fun x => x.popped seq core))

/-- R182. A send refused for 2^W cc traps with VIGIL_TIMEOUT. -/
def execBcastSendTimeout (core : Nat) (strand : Nat) (s : State) : Out :=
  match (s.strand core strand).phase? with
  | some (.bcastSend r _ false (some first)) => match s.group? r with
    | none => .next s
    | some g => .next (if 2 ^ g.image.wait ≤ (s.core core).ticks - first then s.expire core r.idx [strand] else s)
  | _ => .next s

/-- R182. A receive on an empty buffer for 2^W cc traps with VIGIL_TIMEOUT. -/
def execBcastRecvTimeout (core : Nat) (strand : Nat) (s : State) : Out :=
  match (s.strand core strand).phase? with
  | some (.bcastRecv r _ (some first) _) => match s.group? r with
    | none => .next s
    | some g =>
      .next (if 2 ^ g.image.wait ≤ (s.core core).ticks - first && (lookupD [] r.idx (s.core core).bcast).isEmpty then
        s.expire core r.idx [strand] else s)
  | _ => .next s

/-- R183. A contribution climbs to the root, where contributions are combined, and completes the episode when all have come. -/
def execReductionContribution (g : GroupRef) (core : Nat) (strand : Nat) (op : RedOp) (v : Word) (from_ : Nat) (s : State) : Out :=
  s.climb g from_ (.reductionContribution g core strand op v) (
    match s.group? g with
    | none => .next s
    | some x =>
      if x.redOp.isSome && x.redOp != some op then
        let word := match (s.strand core strand).outst with
          | some o => o.word.zeroExtend 64
          | none => 0
        let s := if ((s.core core).arrival? g.idx true).any fun a => a.arriver == .strand (strand % 16) then
            s.setErr core strand .illegal word
          else s
        .next (s.rejoin core g.idx true)
      else if x.redValues.any (fun e => e.1 == core) || !x.expected.contains core then .next s
      else .next ((s.modGroup g fun x => { x with redOp := some op, redValues := x.redValues ++ [(core, v)] }).tryReduction g))

/-- R108. A victim deque resolves a theft and replies with a frame or empty. -/
def execTheftRequest (victim : Nat) (thief : Nat) (strand : Nat) (s : State) : Out :=
  s.arrive victim false (.theftRequest victim thief strand) (
    if s.isRetired victim || !(s.core victim).deque.taken then .next (s.post (.theftReply thief strand none))
    else match s.popFar victim with
      | none => .next (s.post (.theftReply thief strand none))
      | some (f, s) => .next (s.post (.theftReply thief strand (some f))))

/-- R109. A theft reply returns to a take, which succeeds or asks the next victim. Where no take waits for
it, one has given its frame back, which goes to the near end of the thief's deque once that has a place, so that none is lost
(R111; log 43). -/
def execTheftReply (thief : Nat) (strand : Nat) (fr : Option Frame) (s : State) : Out :=
  s.arrive thief true (.theftReply thief strand fr) (.next (match (s.strand thief strand).phase?, fr with
    | some (.take d asked n none), some f => s.setPhase thief strand (.take d asked n (some (some f, (s.core thief).ticks)))
    | some (.take d asked n none), none => s.askVictim thief strand d asked (n + 1)
    | _, some f => if 1 ≤ (s.core thief).deque.room then s.pushNear thief f else s.again (.theftReply thief strand fr)
    | _, none => s))

/-- R110. Every 2^K cc the levelling unit compares depths and asks a neighbour for a grant. -/
def execLevellingInterval (core : Nat) (s : State) : Out :=
  let k := s.core core
  if k.run.isNone || k.retired || k.stopped || k.balance = 0 || !k.deque.taken || k.ticks < k.levelAt then .next s
  else
    let s := s.modCore core fun k => { k with levelAt := k.ticks + 2 ^ k.levelK }
    match s.shallowest (s.neighbours core) with
    | none => .next s
    | some n =>
      let d := (s.core core).deque.depth
      let m := (s.core n).deque.depth
      .next (if m + 2 ≤ d then s.post (.levellingGrantRequest n core ((d - m) / 2)) else s)

/-- R110. A neighbour reserves places and grants or refuses frames. -/
def execLevellingGrantRequest (core : Nat) (asker : Nat) (count : Nat) (s : State) : Out :=
  s.arrive core false (.levellingGrantRequest core asker count) (
    let q := (s.core core).deque
    let g := if s.isRetired core || !q.taken then 0 else min count q.room
    .next ((s.modDeque core fun q => { q with reserved := q.reserved + g }).post (.levellingGrant asker core g)))

/-- R110. A grant returns and the unit sends frames from its far end. -/
def execLevellingGrant (core : Nat) (granter : Nat) (count : Nat) (s : State) : Out :=
  s.arrive core true (.levellingGrant core granter count) (
    let r := State.takeFar core count s
    .next (State.sendFrames core granter count r.1
      (r.2.modDeque core fun q => { q with leaving := q.leaving + r.1.length })))

/-- R110. A levelled frame is appended at the receiver's far end. -/
def execLevelledFrameArrival (core : Nat) (sender : Nat) (fr : Option Frame) (unused : Nat) (s : State) : Out :=
  s.arrive core false (.levelledFrameArrival core sender fr unused) (
    let s := s.modDeque core fun q => { q with reserved := q.reserved - unused - (if fr.isSome then 1 else 0) }
    .next (match fr with
      | none => s
      | some f => (s.appendFar core f).modDeque sender fun q => { q with leaving := q.leaving - 1 }))

end Sys2Proof.Machine
end

