-- ==== Sys2Proof/Machine/LongAcc.lean ====
section
/-! DEFINITION. The long accumulator (R44, R45, R260 to R262). -/

namespace Sys2Proof.Machine

/-- The scratchpad offset of an accumulator at an address, or the trap of R260. -/
def State.accumulator (s : State) (a : Word) : Except Cause Nat :=
  let own := (field 63 60 a = 0 && field 59 19 a = 0)
    || (field 63 60 a = 2 && field 45 19 a = 0 && s.named? (s.partOf s.cur.1) (field 59 46 a) == some s.cur.1)
  if !own then .error .localRange
  else if field 18 0 a % 8 ≠ 0 then .error .misaligned
  else if (s.core s.cur.1).scr < field 18 0 a + 88 then .error .localRange
  else .ok (field 18 0 a)

/-- The words of an accumulator, W0 first, with the status last (R44, R45). -/
def State.accWords (s : State) (off : Nat) : List Nat := (List.range 11).map fun i => s.load (padKey s.cur.1 (off + 8 * i)) 8

/-- The signed value of W9 to W0 in units of 2^-320 (R44). -/
def accValue (ws : List Nat) : Int :=
  let v : Nat := ((ws.take 10).zipIdx).foldl (fun a w => a + w.1 * 2 ^ (64 * w.2)) 0
  if 2 ^ 639 ≤ v then (v : Int) - 2 ^ 640 else v

/-- The core's long-accumulator unit is at work (R262). -/
def Core.accBusy (k : Core) : Bool := k.strands.toList.any fun t => match t.outst with
  | some o => match o.phase with
    | .adding (_ :: _) => true
    | _ => false
  | none => false

/-- A long-accumulator instruction issues once the unit is free, a resource of R100, so that the unit performs them one at a
time in issue order (R262; log 44). -/
def State.accUnit (s : State) (go : Out) : Out := if (s.core s.cur.1).accBusy then .next (s.wait .other) else go

/-- Write accumulator words in ascending order, each checked against the range locks (R260 to R262): word i of those that
change in cc 5 + i after issue; those of `laz` together in the 6 cc it takes, as the spec does not say in which cc each is
written (log 44). -/
def State.accWrite (s : State) (la : La) (srcs : List Reg) (a : Word) (off : Nat) (clears : Bool) (ws : List (Nat × Nat)) : Out :=
  let es := ws.map fun w =>
    ({ lane := 0, addr := a + BitVec.ofNat 64 (8 * w.1), at_ := .own (off + 8 * w.1), n := 8, mask := fullMask 8, value := w.2 } : Elem)
  match es.find? fun e => s.elemVerdict s.cur.1 s.cur.2 true e == .locked with
  | some e => .next (s.trap .rangeLocked e.addr)
  | none => match s.verdicts true es with
    | .stall => .next (s.wait .other)
    | v =>
      let locks := v.locks
      s.demanding la srcs ((s.core s.cur.1).forced locks) (
        let s := (s.retireViews s.cur.1 locks).pops srcs
        let now := (s.core s.cur.1).ticks
        .next (s.hold la (.adding (ws.zipIdx.map fun w =>
          (now + (if clears then 6 else 5 + w.2), a + BitVec.ofNat 64 (8 * w.1.1), off + 8 * w.1.1, w.1.2)))))

/-- Strand n's long-accumulator instruction writes the words whose cc has come, or all that are left (R262, R312). -/
def State.accStep (s : State) (c n : Nat) (all : Bool) : State :=
  match (s.strand c n).phase? with
  | some (.adding todo) =>
    let now := todo.takeWhile fun w => all || w.1 ≤ (s.core c).ticks
    let rest := todo.drop now.length
    let s := now.foldl (fun s w => s.storeOwn c w.2.1 w.2.2.1 8 (fullMask 8) w.2.2.2) s
    s.setPhase c n (if rest.isEmpty then .done none else .adding rest)
  | _ => s

/-- One cc of a core's long-accumulator unit (R262). -/
def State.accCycle (s : State) (c : Nat) : State :=
  if (s.core c).stopped then s else (List.range 16).foldl (fun s n => s.accStep c n false) s

/-- The first poisoned line of an accumulator's 88 bytes (R168). -/
def State.accPoison (s : State) (off : Nat) : Option Cause :=
  (s.poisoned? (padKey s.cur.1 off / 128)).or (s.poisoned? (padKey s.cur.1 (off + 87) / 128))

/-- Status bits of an addend that is not finite: NAN, PINF, NINF (R45). -/
def accSpecial : Num → Option Nat
  | .nan => some 1
  | .inf false => some 2
  | .inf true => some 4
  | .fin _ _ _ => none

/-- The words an addition changes, with the status when it changes (R261). -/
def accAdd (ws : List Nat) (x : Num) : List (Nat × Nat) :=
  let st := ws.getD 10 0 % 16
  let r : List Nat × Nat := match x with
    | .fin n m e =>
      let d : Int := (if n then -1 else 1) * (if 0 ≤ e + 320 then (m : Int) * 2 ^ (e + 320).toNat else (m : Int) / 2 ^ (-(e + 320)).toNat)
      let t := accValue ws + d
      let u := (t % 2 ^ 640).toNat
      ((List.range 10).map fun i => u / 2 ^ (64 * i) % 2 ^ 64, if t < -(2 ^ 639) || 2 ^ 639 - 1 < t then st ||| 8 else st)
    | y => (ws.take 10, st ||| (accSpecial y).getD 0)
  let changed := ((List.range 10).filter fun i => r.1.getD i 0 != ws.getD i 0).map fun i => (i, r.1.getD i 0)
  if r.2 = st then changed else changed ++ [(10, r.2)]

/-- `laadd` and `laaddp` (R261). -/
def State.accAdding (s : State) (la : La) (srcs : List Reg) (a : Word) (x : Num) : Out :=
  s.gate srcs [] [] (s.accUnit (
    match s.accumulator a with
    | .error c => .next (s.trap c a)
    | .ok off => match s.accPoison off with
      | some why => .next ((s.ownPoison a off why).trap why a)
      | none => s.accWrite la srcs a off false (accAdd (s.accWords off) x)))

/-- The value of the low half of a register as binary32. -/
def lowF32 (v : Word) : Num := binary32.value (v.toNat % 2 ^ 32)

/-- `larnd` (R261). -/
def State.accRound (s : State) (la : La) (d a : Reg) (f : Flt) : Out :=
  s.gate [a] [] [d] (s.accUnit (
    let x := s.read a
    match s.accumulator x with
    | .error c => .next (s.trap c x)
    | .ok off => match s.accPoison off with
      | some why => .next ((s.ownPoison x off why).trap why x)
      | none =>
        let ws := s.accWords off
        let st := ws.getD 10 0
        let v := accValue ws
        let r :=
          if st % 2 = 1 || (st / 2 % 2 = 1 && st / 4 % 2 = 1) || st / 8 % 2 = 1 then f.canonNan
          else if st / 2 % 2 = 1 then f.infBits false
          else if st / 4 % 2 = 1 then f.infBits true
          else (f.round s.me.rm.plain (.fin (decide (v < 0)) v.natAbs (-320))).1
        .next (s.lateResult [a] la d (BitVec.ofNat 64 r))))

/-- R261. Clears a long accumulator. -/
def execLaz (a : Reg) (la : La) (s : State) : Out :=
  s.gate [a] [] [] (s.accUnit (
    let x := s.read a
    match s.accumulator x with
    | .error c => .next (s.trap c x)
    | .ok off => s.accWrite la [a] x off true ((List.range 11).map fun i => (i, 0))))

/-- R261. Adds a binary32 value exactly to a long accumulator. -/
def execLaadd (a : Reg) (b : Reg) (la : La) (s : State) : Out :=
  s.accAdding la [a, b] (s.read a) (lowF32 (s.read b))

/-- R261. Adds an exact binary32 product to a long accumulator. -/
def execLaaddp (a : Reg) (b : Reg) (d : Reg) (la : La) (s : State) : Out :=
  s.accAdding la [a, b, d] (s.read a) ((lowF32 (s.read b)).mul (lowF32 (s.read d))).1

/-- R261. Rounds a long accumulator to binary32. -/
def execLarndF32 (d : Reg) (a : Reg) (la : La) (s : State) : Out :=
  s.accRound la d a binary32

/-- R261. Rounds a long accumulator to binary64. -/
def execLarndF64 (d : Reg) (a : Reg) (la : La) (s : State) : Out :=
  s.accRound la d a binary64

end Sys2Proof.Machine
end

