-- ==== Sys2Proof/Machine/EvTile.lean ====
section
/-! DEFINITION. Events of the matrix array: operand fetch, steps, leases, weight fetches, bank waits (R216, R223, R235, R239 to R241). -/

namespace Sys2Proof.Machine

/-- After a step the holder goes on, or its lease ends (R241). -/
def State.afterStep (s : State) (cl : Nat) : State :=
  if (s.cluster cl).leased then State.startStep cl 4 s
  else if (s.cluster cl).holder.isSome then s.post (.arrayLeaseHandover cl) else s

/-- An operand read stopped: the demand faults; or its slice is asked for the line, and event e reads again (R66, R239). -/
def State.readStopped (s : State) (c n i : Nat) (e : Event) : Stop → State
  | .fault cause a u => u.readFailed c n i cause a
  | .line a part l => if s.halted c then s else (s.touchLine c n a false part l).again e

/-- The operands of a step are fetched and the step is staged (R235, R239, R240). -/
def State.fetchStep (s : State) (c n : Nat) (w : Work) (rest : List Work) (v : Node) : State :=
  match s.displaced? c n v with
  | some tval => s.demandTrap c n .accOwned tval v.pc
  | none => match s.evalNode c v ⟨w.rows, w.cols⟩ with
    | .error e => s.readStopped c n w.node (.operandFetchComplete c n) e
    | .ok (o, s) => (s.setPhase c n (.demand (w :: rest) (some o) none)).stage c n

/-- The head of a demand's work is served, for the oldest demand of the core: a FAULTED node traps, a weight node's tile is
fetched, the operands of a computed node's step are fetched while fewer than two of the core's steps are staged, and a
fetched step that waited for a bank is staged again (R223, R235, R239, R240). -/
def State.fetchNext (s : State) (core strand : Nat) : State :=
  match (s.strand core strand).outst with
  | none => s
  | some o => match o.phase with
    | .demand (w :: rest) fetched since => match (s.core core).node? w.node with
      | none => s.workDone core strand
      | some v =>
        let staged := ((s.cluster (clusterOf core)).requests.filter fun r => r.1 == core).length
        let later := s.post (.operandFetchComplete core strand)
        if (s.core core).stopped then s
        else if (s.core core).olderDemand strand o.order then later
        else if v.state = .faulted then
          s.demandTrap core strand .adventFault (faultTval w.node ((v.fault.map Prod.fst).getD .localRange)) v.pc
        else if v.kind = .twload then (if v.state = .evaluating then s else s.beginWeights core strand w.node v)
        else if v.kind.isSource then s
        else if 2 ≤ staged then later
        else match fetched, since with
          | none, _ => s.fetchStep core strand w rest v
          | some _, none => s
          | some o, some _ =>
            if s.bindBank core = .wait then later
            else (s.setPhase core strand (.demand (w :: rest) (some o) since)).stage core strand
    | _ => s

/-- R235. A 6 cc tile step ends on the array and updates the node's materialised region. The next step of the same demand
is by then fetched, if nothing holds its fetch up (log 29). -/
def execTileStep (cluster : Nat) (s : State) : Out :=
  match (s.cluster cluster).holder with
  | none => .next s
  | some h => match (s.cluster cluster).requests.find? fun r => r.1 == h with
    | none => .next (s.afterStep cluster)
    | some (c, n) =>
      let s := s.modCluster cluster fun k => { k.dropRequest c n with steps := k.steps + 1 }
      .next ((match (s.strand c n).work? with
        | some (w :: _, some o, _) => match (s.core c).node? w.node with
          | none => s
          | some v => match s.displaced? c n v, (s.core c).bankOf 96 v with
            | some tval, _ => s.demandTrap c n .accOwned tval v.pc
            | none, none => s
            | none, some b => (s.stepEnds c n w v b o).fetchNext c n
        | _ => s).afterStep cluster)

/-- R241. The array lease ends and passes to the next requesting core. -/
def execArrayLeaseHandover (cluster : Nat) (s : State) : Out :=
  let k := s.cluster cluster
  if k.leased && s.agenda.contains (.tileStep cluster) then .next s
  else match k.nextHolder cluster (match k.holder with
    | some h => h % 4
    | none => 3) with
    | none => .next (s.modCluster cluster fun k => { k with holder := none, steps := 0 })
    | some h => .next (State.startStep cluster 4 (s.modCluster cluster fun k => { k with holder := some h, steps := 0 }))

/-- R223. A twload's tile is in its weight slot and the node becomes DONE. -/
def execTwloadFetchComplete (core : Nat) (node : Nat) (s : State) : Out :=
  match (s.core core).node? node with
  | none => .next s
  | some v =>
    if v.kind ≠ .twload || v.state ≠ .evaluating then .next s
    else match State.readTile core v.map ((codeDx v.map.fmt).getD d16) (List.range (v.map.cols * v.map.blocks)) s with
      | .error e => .next (s.readStopped core v.owner node (.twloadFetchComplete core node) e)
      | .ok (bs, s) =>
        let s := s.modCluster (clusterOf core) fun k => { k with slots := k.slots.map fun e =>
          if e.2.1 == core && e.2.2.1 == node then (e.1, e.2.1, e.2.2.1, bs) else e }
        let s := s.modCore core fun k => k.setNode node { v with state := .done }
        .next (match (s.strand core v.owner).work? with
          | some (w :: _, _, _) => if w.node = node then s.workDone core v.owner else s
          | _ => s)

/-- R240. No bank frees within QLIMIT cc and ACC_OWNED is raised. -/
def execAccBankWaitTimeout (core : Nat) (strand : Nat) (s : State) : Out :=
  match (s.strand core strand).work? with
  | some (w :: _, some _, some since) =>
    if (s.core core).ticks - since < (s.core core).limit then .next s
    else match s.bindBank core, (s.core core).node? w.node with
      | .wait, some v =>
        .next (s.demandTrap core strand .accOwned (accTval ((s.cluster (clusterOf core)).bank 0).tag true 0) v.pc)
      | _, _ => .next s
  | _ => .next s

/-- R235. The view reads, bank reads or weight decompression for a tile step return and the step is staged, making the core request the array. -/
def execOperandFetchComplete (core : Nat) (strand : Nat) (s : State) : Out :=
  .next (s.fetchNext core strand)

end Sys2Proof.Machine
end

