-- ==== Sys2Proof/Machine/Monitor.lean ====
section
/-! DEFINITION. Monitor operations (R298, R336 to R338). -/

namespace Sys2Proof.Machine

/-- A monitor instruction reads n bytes of its own scratchpad at an address, under checks 1 to 7 of R50: the offset, a
trap, or a wait. -/
inductive OwnBytes where
  | at_ (off : Nat) (locks : List Nat)
  | trap (cause : Cause) (tval : Word)
  | wait
  deriving DecidableEq, Repr

/-- The checks on n bytes of own scratchpad, `align` apart. -/
def State.ownBytes (s : State) (a : Word) (n align : Nat) (write : Bool) : OwnBytes :=
  if field 63 60 a ≠ 0 then .trap .localRange a
  else if a.toNat % align ≠ 0 then .trap .misaligned a
  else match s.rangeCheck s.cur.1 s.me.mode ⟨a.toNat, a.toNat + n⟩ (if write then .write else .read) with
    | .error (cause, x) => .trap cause x
    | .ok (_, off, _) => match s.verdict s.cur.1 s.cur.2 (.own off) write n with
      | .locked => .trap .rangeLocked a
      | .stall => .wait
      | .clear => .at_ off []
      | .views l => .at_ off l

/-- The group image at a scratchpad offset (R336). -/
def State.groupImage (s : State) (key : Nat) : GroupImage :=
  let count := s.load key 2
  { count, wait := s.load (key + 2) 1, zeros := s.load (key + 3) 5,
    members := (List.range count).map fun i => s.load (key + 8 + 2 * i) 2 }

/-- R298. Loads a key slot from scratchpad and zeroes the source. -/
def execKslotw (d : Reg) (a : Reg) (s : State) : Out :=
  s.privileged 3 (s.gate [d, a] [] [] (
    let v := s.read d
    match s.ownBytes (s.read a) 64 64 true with
    | .trap cause x => .next (s.trap cause x)
    | .wait => .next (s.wait .other)
    | .at_ off locks =>
      if (s.keySlot (v.toNat % 64)).key.isSome then .next (s.trap .localRange v)
      else match s.poisoned? (padKey s.cur.1 off / 128) with
        | some why => .next ((s.ownPoison (s.read a) off why).trap why (s.read a))
        | none => s.demanding 0 [d, a] ((s.core s.cur.1).forced locks) (
          let key : BitVec 512 := BitVec.ofNat 512 (s.load (padKey s.cur.1 off) 64)
          let s := (s.retireViews s.cur.1 locks).pops [d, a]
          .next (((s.loadKey (v.toNat % 64) (field 31 16 v) key).storeOwn s.cur.1 0 off 64 (fullMask 64) 0).retire .on))))

/-- R298. Revokes a key slot. -/
def execKslotclr (d : Reg) (s : State) : Out :=
  s.privileged 3 (s.gate [d] [] [] (
    let v := s.read d
    .next (((s.pops [d]).clearKey (v.toNat % 64)).retire .on)))

/-- The number of the block a home stands in or, for a slice, beside, within its partition (R22, R298). -/
def State.blockNumber (s : State) (part : Nat) (h : Home) : Option Nat :=
  let e : Nat × Nat := match h with
    | .pad t => (siteOf t, t / 64 % 4)
    | .slice k => (k / 32, 2 + k / 16 % 2)
  ((s.partition? part).bind fun p => p.rel? e.1).map fun rel => 4 * rel + e.2

/-- The core has no message outstanding to a block. A message whose far end no event names counts for every block. -/
def State.quietTo (s : State) (c b : Nat) : Bool :=
  (s.farEnds c).all fun h => match h with
    | none => false
    | some h => s.blockNumber (s.partOf c) h != some b

/-- R298. Sets a network-select entry once the core has no message outstanding to the block. -/
def execNselw (d : Reg) (a : Reg) (s : State) : Out :=
  s.privileged 3 (s.gate [d, a] [] [] (
    let b := (s.read d).toNat % 256
    if !s.quietTo s.cur.1 b then .next (s.wait .other)
    else
      let e := (s.cur.1, b, (s.read a).getLsbD 0)
      let s := s.pops [d, a]
      .next ({ s with nsel := e :: s.nsel.filter fun x => !(x.1 == s.cur.1 && x.2.1 == b) }.retire .on)))

/-- R336. Writes a group-table entry from an image after checks. -/
def execGrpw (d : Reg) (a : Reg) (s : State) : Out :=
  s.privileged 3 (s.gate [d, a] [] [] (
    let x := s.read a
    match s.ownBytes x 8 8 false with
    | .trap cause _ => .next (s.trap cause x)
    | .wait => .next (s.wait .other)
    | .at_ off _ =>
      let im := s.groupImage (padKey s.cur.1 off)
      match s.ownBytes x (8 + 2 * im.count) 8 false with
      | .trap cause _ => .next (s.trap cause x)
      | .wait => .next (s.wait .other)
      | .at_ _ _ =>
        let r : GroupRef := { part := s.partOf s.cur.1, idx := (s.read d).toNat % 256 }
        match (linesOf (padKey s.cur.1 off) (8 + 2 * im.count)).findSome? s.poisoned? with
        | some why => .next ((s.ownPoison x off why).trap why x)
        | none => match s.groupTrap r im with
          | some cause => .next (s.trap cause x)
          | none =>
            .next (((s.pops [d, a]).putGroup r im ((s.core s.cur.1).run.map Prod.snd) ((s.groupMembers r.part im).getD [])).retire .on)))

/-- R298. Fences a block. -/
def execBlkfence (d : Reg) (s : State) : Out :=
  s.privileged 3 (s.gate [d] [] [] (
    let v := s.read d
    let go := (s.pops [d]).retire .on
    match s.partition? (s.partOf s.cur.1) with
    | none => .next go
    | some p => match p.site? (field 13 8 v) with
      | none => .next go
      | some site => .next (go.fence { site, chip := 0, index := field 1 0 v })))

end Sys2Proof.Machine
end

