-- ==== Sys2Proof/Machine/Endpoint.lean ====
section
/-! DEFINITION. What the endpoints share: replies and the journal (R339), pages and pins (R329), and the runs that stand on
blocks (R335). -/

namespace Sys2Proof.Machine

/-! ### Operations (R339)

The spec gives the endpoint types but no operation codes: an operation is 256 times its endpoint's type plus its place
in the table of R339 (log 16). -/

def opCreate : Nat := 0x100
def opDestroy : Nat := 0x101
def opLaunch : Nat := 0x102
def opEnd : Nat := 0x103
def opHostmsg : Nat := 0x104
def opBind : Nat := 0x106
def opReset : Nat := 0x107
def opPower : Nat := 0x108
def opFirmware : Nat := 0x109
def opMap : Nat := 0x200
def opUnmap : Nat := 0x201
def opMove : Nat := 0x202
def opClearD : Nat := 0x203
def opDirty : Nat := 0x204
def opGroupWrite : Nat := 0x300
def opGroupRead : Nat := 0x301
def opKeyLoad : Nat := 0x400
def opKeyClear : Nat := 0x401
def opWriteSlot : Nat := 0x402
def opJournal : Nat := 0x500
def opStartRecord : Nat := 0x501
def opSwitch : Nat := 0x700

/-! ### The reply rings (R339, R364) -/

/-- The function of a partition: virtual function n for partition n, the physical function for the module (R364). -/
def functionOf (part : Nat) : Option Nat := if part = 0xFFFF then none else some part

/-- The function and the endpoint type in whose reply ring a message to the host stands; what answers no request stands in those of
the partition it concerns (R308, R329, R339, R342, R364). -/
def ToHost.ring : ToHost → Option Nat × Nat
  | .accepted rq op => (rq.function, op / 256)
  | .done rq op => (rq.function, op / 256)
  | .refused rq op _ _ => (rq.function, op / 256)
  | .data rq op _ => (rq.function, op / 256)
  | .journal rq _ _ => (rq.function, 5)
  | .completion c => (functionOf c.part, 1)
  | .pageFault part _ _ => (functionOf part, 2)
  | .report r => (functionOf r.part, 6)
  | .retries _ rs => ((rs.head?.map fun r => functionOf r.part).getD none, 6)
  | .migrate part _ => (functionOf part, 6)
  | .temperature _ _ => (none, 6)
  | .supplyDrop _ _ => (none, 6)
  | .railLow _ _ _ => (none, 6)
  | .unused _ _ => (none, 6)

/-- A reply ring of BAR0: the messages that stand in it, oldest first (R364). -/
def State.ring (s : State) (function : Option Nat) (type : Nat) : List ToHost := s.toHost.filter fun m => m.ring == (function, type)

/-- The index of a refusal that concerns no directive (R345). -/
def noIndex : Nat := 0xFFFFFFFF

/-- A control die journals an accepted command before its effects (R339). -/
def State.accept (s : State) (rq : Request) (op : Nat) : State := s.noteAs rq.seq rq.part (.accepted op)

/-- A command whose effects take longer answers ACCEPTED first (R339, log 16). -/
def State.begins (s : State) (rq : Request) (op : Nat) : State := (s.accept rq op).tell (.accepted rq op)

/-- A command is refused: status 2 with a reason (0 where the spec names none) and an index, journaled (R339, R345). -/
def State.refuse (s : State) (rq : Request) (op reason index : Nat) : State :=
  (s.noteAs rq.seq rq.part (.refused op reason index)).tell (.refused rq op reason index)

/-- A command is done, which the journal records (R339). -/
def State.fulfil (s : State) (rq : Request) (op : Nat) : State :=
  (s.noteAs rq.seq rq.part (.done op)).tell (.done rq op)

/-- A command that is accepted, has its effect and answers DONE. -/
def State.command (s : State) (rq : Request) (op : Nat) (effect : State → State) : State :=
  (effect (s.accept rq op)).fulfil rq op

/-- The requests of a virtual function carry its partition as PART, and any other is refused (R364). -/
def State.endpoint (s : State) (rq : Request) (op : Nat) (go : Out) : Out :=
  if rq.function.all fun n => rq.part == n then go else .next (s.refuse rq op 0 noIndex)

/-- A request for the module comes from the physical function with PART = 0xFFFF (R356, R364). -/
def State.moduleEndpoint (s : State) (rq : Request) (op : Nat) (go : Out) : Out :=
  if rq.function.isNone && rq.part == 0xFFFF then go else .next (s.refuse rq op 0 noIndex)

/-! ### Runs -/

def State.run? (s : State) (part ctx : Nat) : Option Run := s.runs.find? fun q => q.part == part && q.ctx == ctx

/-- Two runs of a partition name a common block. -/
def Run.meets (r : Run) (blocks : List (Nat × Nat)) : Bool := r.blocks.any fun b => blocks.contains b

/-- A run is forgotten. -/
def State.dropRun (s : State) (part ctx : Nat) : State :=
  { s with runs := s.runs.filter fun q => !(q.part == part && q.ctx == ctx) }

/-- Whether a run, other than one, that stands on its cores or is being launched holds one of the blocks (R335). -/
def State.blocksHeld (s : State) (part ctx : Nat) (blocks : List (Nat × Nat)) : Bool :=
  s.runs.any fun r => r.part == part && r.ctx != ctx && r.life != .switchedOut && r.meets blocks

/-- The sites of a run's region. -/
def State.regionSites (s : State) (r : Run) : List Nat :=
  match s.partition? r.part with
  | none => []
  | some p => (r.blocks.filterMap fun b => p.site? b.1).eraseDups

/-- A value of `CALENDS` for every die to act at: 65,536 on, rounded up to a multiple of 16 (R311). The control dies keep
the wafer value (log 1). -/
def State.agreed (s : State) : Word := BitVec.ofNat 64 ((s.wafer.toNat + 65536 + 15) / 16 * 16)

/-! ### Pages and pins (R329, R334, R365) -/

/-- The 4 KiB pages of a range. -/
def pagesOf (base len : Nat) : List Nat := (List.range ((base % 4096 + len + 4095) / 4096)).map fun i => (base / 4096 + i) * 4096

/-- Whether the frame of a leaf lies in memory the partition owns (R329 check 2, R334, R365). -/
def Partition.ownsFrame (p : Partition) (e : Pte) : Bool :=
  let size := 2 ^ (12 + e.ps)
  let a := e.frame * 4096 / size * size
  match e.tier with
  | 0 => a < 2 ^ 43 && Config.isCompute (a / 2 ^ 37) && (p.rel? (a / 2 ^ 37)).isSome && a % 2 ^ 36 + size ≤ 48 * 2 ^ 30
  | 1 =>
    let port := a / 2 ^ 40
    port < 32 && (p.rel? (Config.serviceSites.getD (port / 8) 0)).isSome
      && a % 2 ^ 40 + size ≤ min (2 ^ 40) (Config.secondTierCapacity port)
  | 2 => Config.serviceSites.any fun x => (p.rel? x).isSome
  | _ => false

/-- What a walk of a page of a lease finds (R329). -/
inductive PageCheck where
  | missing
  | bad
  | good
  deriving DecidableEq, Repr

/-- Whether a table page of the tree from a table at `level` down lies in n bytes of first-tier memory (R324). A byte that
memory does not list reads as 0, so that only listed entries are looked at. -/
def State.holdsTable (s : State) (lo n : Nat) : Nat → Nat → Nat → Bool
  | 0, _, _ => false
  | fuel + 1, level, table =>
    overlaps table 4096 lo n ||
      (level != 0 && (((s.mem.filter fun e => tierKey 0 table ≤ e.1 && e.1 < tierKey 0 table + 4096).map fun e => e.1 / 8).eraseDups).any
        fun a =>
          let e : Pte := { raw := s.load (8 * a) 8, at_ := 8 * a }
          e.good level && !e.leaf && s.holdsTable lo n fuel (level - 1) (e.frame * 4096))

/-- Whether no lease may hold a page: its frame is a table page, or lies on a site that is off (R324, R361). -/
def State.keptBack (s : State) (p : Partition) (e : Pte) : Bool :=
  let size := 2 ^ (12 + e.ps)
  let a := e.frame * 4096 / size * size
  e.tier == 0 && (s.lowPower.contains (a / 2 ^ 37, true) || s.holdsTable a size 5 4 p.ptroot)

/-- Walk one page for the rights its ranges declare: a page is readable, and writable and executable as its leaf says. -/
def State.checkPage (s : State) (p : Partition) (va : Nat) (write exec : Bool) : PageCheck :=
  match s.leafOf p.num va with
  | none => .missing
  | some e => if (!write || e.w) && (!exec || e.x) && p.ownsFrame e && !s.keptBack p e then .good else .bad

/-- Set or clear PIN on the leaf of a page. -/
def State.setPin (s : State) (part va : Nat) (pin : Bool) : State :=
  match s.leafOf part va with
  | none => s
  | some e => if e.pin = pin then s else s.writeLeaf e (if pin then e.raw + 2 else e.raw - 2)

/-- The length of a region's save area without its messages (R315, R316). -/
def State.saveLength (s : State) (r : Run) : Nat :=
  let n := (s.regionCores r).length
  n * (0x1C000 + r.scr) + n / 4 * (8 * 4224) + 64

/-- Whether any run of a partition keeps a byte of [va, va + n) pinned: its lease covers it, or its save area does (R311,
R329). -/
def State.leased (s : State) (part va n : Nat) : Bool :=
  s.runs.any fun r => r.part == part && (r.lease.any (fun x => overlaps x.base x.len va n)
    || (r.saveBase != 0 && overlaps (field 56 0 r.saveBase) (s.saveLength r) va n))

/-- Clear PIN on the pages, of whatever size, that a range touches and no run keeps any longer (R331). A page that is being
moved has its PIN set or cleared at the end of the move. -/
def State.unpin (s : State) (part base len : Nat) : State :=
  (pagesOf base len).foldl (fun s va => match s.leafOf part va with
    | none => s
    | some e =>
      let size := 2 ^ (12 + e.ps)
      if s.leased part (va / size * size) size then s else s.setPin part va false) s

/-! ### Agreement on a value of `CALENDS` (R311, R319, R341, R355) -/

/-- Every control die of a run's region is asked to accept a value. -/
def State.propose (s : State) (r : Run) : State := s.posts ((s.regionSites r).map fun x => Event.intercalationProposal r.part r.ctx x)

/-- Whether another intercalation of a region's blocks is committed (R311). -/
def State.regionCommitted (s : State) (r : Run) : Bool :=
  s.runs.any fun q => q.part == r.part && q.meets r.blocks && q.inter.any fun i => i.committed

/-- A core that a run holds no longer. -/
def Core.free (k : Core) (r : Run) : Core := if k.run = some (r.part, r.ctx) then { k with run := none } else k

end Sys2Proof.Machine
end

