-- ==== Sys2Proof/Machine/SaveImage.lean ====
section
/-! DEFINITION. The image of a switched-out core (R315 to R319). The parts whose layout the spec gives are written as it
says, and a resume reads them back. Of the others the spec gives the place and the content: their bytes are free functions
of that content, and a resume restores the content from the model's own record (log 13). -/

namespace Sys2Proof.Machine

/-! ### What the areas without a layout hold (R316) -/

/-- The core registers of an image. -/
structure CoreRegs where
  slots : Word
  sloten : BitVec 16
  pendingSlots : List (Word × BitVec 16)
  advq : Word
  advqh : Word
  qlimit : BitVec 25
  balance : BitVec 5
  tvec : Word
  scr : Nat
  /-- almanac geometry: entry size, entries, base -/
  almanac : Nat × Nat × Nat
  /-- deque depths, of the hardware part and of the overflow region -/
  depths : Nat × Nat
  /-- the overflow region: base, size, first frame -/
  region : Nat × Nat × Nat
  steal : Nat
  deriving DecidableEq, Repr

/-- An advent node or lock table, the queues and the other tables, as an image holds them. -/
structure CoreTables where
  rings : List (Nat × Ring)
  waits : List Nat
  bcast : List (Nat × List (Nat × Word))
  arrivals : List Arrival
  queues : Vector Queue 4
  /-- the VALUEs: bank, format, rows, columns and appending PC -/
  values : List (Nat × Nat × Nat × Nat × Word)
  copies : List Copy
  locks : List LockEntry
  nodes : List (Nat × Node)
  almanac : List (Nat × AlEntry)
  deriving DecidableEq, Repr

end Sys2Proof.Machine

namespace Sys2Proof.Config

open Sys2Proof.Machine in
/-- Byte i of the core registers of an image, whose layout R316 does not give (log 13). -/
opaque imageRegs : CoreRegs → Nat → Byte

open Sys2Proof.Machine in
/-- Byte i of the image from a core's tables, in the areas whose layout R316 does not give (log 13). -/
opaque imageTables : CoreTables → Nat → Byte

/-- The flits of a message, whose layout the spec does not give (R318, log 13). -/
opaque messageFlits : Event → List (BitVec 512)

end Sys2Proof.Config

namespace Sys2Proof.Machine

/-- The VALUE handles of a core, one for each bank. -/
def Core.values (k : Core) : List (Nat × Nat × Nat × Nat × Word) :=
  (k.strands.toList.flatMap fun t => t.m.toList.filterMap fun h => match h with
    | .value b fmt rows cols _ pc => some (b, fmt, rows, cols, pc)
    | _ => none).eraseDups

/-- The core registers that an image holds. -/
def Core.imageRegs (k : Core) : CoreRegs where
  slots := k.slots
  sloten := k.sloten
  pendingSlots := k.pendingSlots.map fun x => (x.slots, x.sloten)
  advq := k.advq
  advqh := k.advqh
  qlimit := k.qlimit
  balance := k.balance
  tvec := k.tvec
  scr := k.scr
  almanac := (k.almS, k.almN, k.almBase)
  depths := (k.deque.hw.length, k.deque.overN)
  region := (k.deque.base, k.deque.slots, k.deque.first)
  steal := k.deque.steal

/-- The tables that an image holds; the elapsed waits are those of the strands' outstanding instructions. -/
def Core.imageTables (k : Core) : CoreTables where
  rings := k.rings
  waits := k.strands.toList.map fun t => (t.outst.map fun o => k.ticks - o.since).getD 0
  bcast := k.bcast
  arrivals := k.arrivals
  queues := k.queues
  values := k.values
  copies := k.copies
  locks := k.locks
  nodes := k.nodes
  almanac := k.almanac

/-- Fields of n bytes at an offset, put together. -/
def packFields (fs : List (Nat × Nat × Nat)) : Nat := fs.foldl (fun a f => a + f.2.2 % 2 ^ (8 * f.2.1) * 2 ^ (8 * f.1)) 0

/-- Equal fields from an offset on. -/
def fieldsFrom (off n : Nat) (vs : List Nat) : List (Nat × Nat × Nat) := vs.zipIdx.map fun e => (off + n * e.2, n, e.1)

/-- The byte of a handle (R317). -/
def Handle.code : Handle → Nat
  | .empty => 0
  | .node n => n + 1
  | .value b _ _ _ _ _ => 0x80 + b

/-- The doubleword of an outstanding instruction: outstanding, reissue, la, shadow retired, destination, elapsed (R317). -/
def Outst.recordWord (o : Outst) (reissue : Bool) (ticks : Nat) : Nat :=
  1 + (if reissue then 2 else 0) + o.la % 16 * 4 + o.retired % 16 * 2 ^ 6 + o.word.toNat / 2 ^ 20 % 32 * 2 ^ 10 + (ticks - o.since) % 2 ^ 32 * 2 ^ 32

/-- The tick from which a strand has waited for a queue: an instruction that has not issued, or a result held back (R113, R317). -/
def Strand.queueSince (t : Strand) : Option Nat :=
  match t.stall, t.outst.map Outst.phase with
  | some { why := .queue _ _, since, .. }, _ => some since
  | _, some (.push _ _ since) => some since
  | _, some (.take _ _ _ (some (_, since))) => some since
  | _, some (.bcastRecv _ _ _ since) => since
  | _, _ => none

/-- A strand record of 2,880 bytes (R317). -/
def Core.strandRecord (k : Core) (n : Nat) : Nat :=
  let t := k.strand n
  let wait := match t.queueSince with
    | some since => min 255 ((k.ticks - since) / 64)
    | none => 0
  let held := t.again.or t.outst
  let next := match t.again with
    | some o => o.pc + BitVec.ofNat 64 (4 * (o.retired + 1))
    | none => t.pc
  packFields (
    fieldsFrom 0x000 8 [next.toNat, t.statusWord.toNat, t.tstatus.toNat, t.tcause.toNat, t.tpc.toNat, t.tval.toNat,
      t.tattr.toNat, t.tshadow.toNat, t.scratch.toNat, (k.ipend n).toNat, t.tcmp.toNat,
      t.fctl.toNat + t.lastseq.toNat * 2 ^ 32]
    ++ fieldsFrom 0x060 2 [t.fmta.toNat, t.fmtb.toNat, t.scla.toNat, t.sclb.toNat]
    ++ [(0x068, 8, t.acks % 128 + t.life.code * 2 ^ 8 + t.refusals.length % 128 * 2 ^ 16 + wait * 2 ^ 24)]
    ++ fieldsFrom 0x070 8 [t.tls0.toNat, t.tle0.toNat, t.tlc0.toNat, t.tls1.toNat, t.tle1.toNat, t.tlc1.toNat,
      t.level0.start.toNat, t.level0.stop.toNat, t.level0.count.toNat,
      t.level1.start.toNat, t.level1.stop.toNat, t.level1.count.toNat]
    ++ (match held with
      | some o => [(0x0D0, 8, o.pc.toNat), (0x0D8, 8, o.recordWord t.again.isSome k.ticks)]
      | none => [])
    ++ fieldsFrom 0x0E0 1 (t.m.toList.map Handle.code)
    ++ fieldsFrom 0x100 8 (t.g.toList.map BitVec.toNat)
    ++ fieldsFrom 0x200 8 (t.e.toList.map BitVec.toNat)
    ++ fieldsFrom 0x300 64 (t.v.toList.map BitVec.toNat)
    ++ fieldsFrom 0xB00 8 ((2 ^ 64 - 1) :: t.p.toList.tail.map BitVec.toNat))

/-- Byte i of a number. -/
def byteOf (w i : Nat) : Byte := BitVec.ofNat 8 (w / 2 ^ (8 * i))

/-- A byte of a core image below its scratchpad (R316); `free` gives the bytes past the content of an area with a layout. -/
def Core.imageByte (k : Core) (free : Nat → Byte) (off : Nat) : Byte :=
  if off < 0x200 then Config.imageRegs k.imageRegs off
  else if 0x800 ≤ off && off < 0x1000 then
    match k.deque.hw[(off - 0x800) / 64]? with
    | some f => byteOf (frameImage f) (off % 64)
    | none => free off
  else if 0x1800 ≤ off && off < 0x2000 then 0
  else if 0xB000 ≤ off && off < 0xF000 then
    match (k.strand ((off - 0xB000) / 1024)).refusals[(off - 0xB000) % 1024 / 16]? with
    | some r => byteOf (r.addr.toNat + r.pc.toNat * 2 ^ 64) (off % 16)
    | none => free off
  else if 0xF000 ≤ off && off < 0x1A400 then
    byteOf (k.strandRecord ((off - 0xF000) / 2880)) ((off - 0xF000) % 2880)
  else if 0x1A400 ≤ off then 0
  else Config.imageTables k.imageTables off

/-- A core image: its fields, then its scratchpad (R316). -/
def State.coreImage (s : State) (c : Nat) : List Byte :=
  let k := s.core c
  let free (off : Nat) : Byte := Config.freeByte (s.fresh * 2 ^ 20 + off)
  (List.range 0x1C000).map (k.imageByte free) ++ s.bytes (padKey c 0) k.scr

/-- Write bytes at virtual addresses of a partition, one 64-byte unit at a time (R315). Fuel: the number of bytes. -/
def State.writeUnits (c part : Nat) : Nat → Nat → List Byte → State → State
  | 0, _, _, s => s
  | fuel + 1, va, bs, s =>
    if bs.isEmpty then s
    else State.writeUnits c part fuel (va + 64) (bs.drop 64)
      (State.homeWriteBytes c (.virt part) 64 (BitVec.ofNat 64 (2 ^ 63 + va)) va (bs.take 64) s)

/-- Where the image of a core of a region lies (R315). -/
def State.imageAt (s : State) (r : Run) (c : Nat) : Nat :=
  field 56 0 r.saveBase + (s.regionCores r).idxOf c * (0x1C000 + r.scr)

/-- A core saves its image; a run that was stopped with no save area named saves none (log 13). -/
def State.saveImage (s : State) (r : Run) (c : Nat) : State :=
  if r.saveBase = 0 then s
  else
    let img := s.coreImage c
    State.writeUnits c r.part img.length (s.imageAt r c) img s.picked

/-! ### A core as its image gives it (R316, R317, R319) -/

/-- The life state of a code (R279). -/
def lifeOf (n : Nat) : Life := if n = 0 then .dormant else if n = 1 then .running else if n = 2 then .waiting else .faulted

/-- The handle of a byte of a strand record; a VALUE's format and shape are those of the table of VALUEs (R316, R317). -/
def Core.handleOf (k : Core) (b : Nat) : Handle :=
  if b = 0 then .empty
  else if b ≤ 0x60 then .node (b - 1)
  else ((k.strands.toList.flatMap fun t => t.m.toList).find? fun h => h.code == b).getD .empty

/-- An outstanding instruction with what a strand record holds of it; the rest, which has no layout, is the model's own
(R317, log 13). -/
def Outst.restored (o : Outst) (w ticks : Nat) : Outst :=
  { o with
    pc := BitVec.ofNat 64 (slot (8 * 0x0D0) 64 w)
    la := slot (8 * 0x0D8 + 2) 4 w
    retired := slot (8 * 0x0D8 + 6) 4 w
    since := ticks - slot (8 * 0x0D8 + 32) 32 w }

/-- A strand of a core with the fields of its record (R317). -/
def Core.strandOf (k : Core) (t : Strand) (w : Nat) : Strand :=
  let d (off : Nat) : Word := BitVec.ofNat 64 (slot (8 * off) 64 w)
  let h (off : Nat) : BitVec 16 := BitVec.ofNat 16 (slot (8 * off) 16 w)
  let level (off : Nat) (active : Bool) : Level := { start := d off, stop := d (off + 8), count := d (off + 16), active }
  { t with
    pc := if (d 0x0D8).getLsbD 1 then d 0x0D0 else d 0x000
    status := d 0x008 &&& statusFields
    tstatus := d 0x010 &&& 0xF1FB
    tcause := d 0x018 &&& 0x80000000000000FF
    tpc := d 0x020
    tval := d 0x028
    tattr := d 0x030
    tshadow := (d 0x038).truncate 4
    scratch := d 0x040
    dbsrc := (d 0x048).extractLsb' 16 16
    xn := (d 0x048).getLsbD 1
    tcmp := d 0x050
    fctl := (d 0x058).truncate 8
    lastseq := (d 0x058).extractLsb' 32 32
    fmta := h 0x060, fmtb := h 0x062, scla := h 0x064, sclb := h 0x066
    acks := slot (8 * 0x068) 7 w
    life := lifeOf (slot (8 * 0x068 + 8) 2 w)
    tls0 := d 0x070, tle0 := d 0x078, tlc0 := d 0x080, tls1 := d 0x088, tle1 := d 0x090, tlc1 := d 0x098
    level0 := level 0x0A0 ((d 0x008).getLsbD 5)
    level1 := level 0x0B8 ((d 0x008).getLsbD 6)
    g := Vector.ofFn fun i => if i.val = 0 then t.g[i] else d (0x100 + 8 * i.val)
    e := Vector.ofFn fun i => d (0x200 + 8 * i.val)
    outst := if slot (8 * 0x0D8) 2 w = 1 then t.outst.map fun o => o.restored w k.ticks else none
    again := if slot (8 * 0x0D8) 2 w = 3 then t.again.map fun o => o.restored w k.ticks else none
    skip := if slot (8 * 0x0D8) 2 w = 3 then slot (8 * 0x0D8 + 6) 4 w else t.skip
    m := Vector.ofFn fun i => k.handleOf (slot (8 * (0x0E0 + i.val)) 8 w)
    v := Vector.ofFn fun i => BitVec.ofNat 512 (slot (8 * (0x300 + 64 * i.val)) 512 w)
    p := Vector.ofFn fun i => if i.val = 0 then t.p[i] else d (0xB00 + 8 * i.val) }

/-- The pending refusals of a strand as its list in an image holds them (R301, R316). -/
def refusalsOf (n : Nat) (w : Nat) : List Refused :=
  (List.range n).map fun i => { addr := BitVec.ofNat 64 (slot (128 * i) 64 w), pc := BitVec.ofNat 64 (slot (128 * i + 64) 64 w) }

/-- A core with the parts that its image has a layout for (R316). -/
def Core.restored (k : Core) (img : List Byte) : Core :=
  let at_ (off n : Nat) : Nat := ofBytes ((img.drop off).take n)
  { k with
    strands := Vector.ofFn fun i =>
      let w := at_ (0xF000 + 2880 * i.val) 2880
      let n := slot (8 * 0x068 + 16) 7 w
      { k.strandOf k.strands[i] w with refusals := refusalsOf n (at_ (0xB000 + 1024 * i.val) (16 * n)) }
    deque := { k.deque with hw := (List.range k.deque.hw.length).map fun i => frameOfImage (at_ (0x800 + 64 * i) 64) } }

/-- A core is restored from its image (R319). -/
def State.restoreImage (s : State) (r : Run) (c : Nat) : State :=
  if r.saveBase = 0 then s
  else
    let va := s.imageAt r c
    match s.homeBytes c (BitVec.ofNat 64 (2 ^ 63 + va)) (.virt r.part) va (0x1C000 + r.scr) with
    | .error _ => s
    | .ok (img, s) => (s.modCore c fun k => k.restored img).setBytes (padKey c 0) (img.drop 0x1C000)

/-! ### The eject section (R318) -/

/-- Where the eject section of a region's save area starts. -/
def State.ejectAt (s : State) (r : Run) : Nat := field 56 0 r.saveBase + s.saveLength r - 64

/-- The name of a core or slice in a message's record. -/
def State.endName (s : State) (part : Nat) : Home → Nat
  | .pad c => s.nameOf c % 2 ^ 14
  | .slice k => 2 ^ 13 + (match s.partition? part with
    | some p => p.slices.idxOf k
    | none => 0) % 2 ^ 13

/-- The eject section of messages with their sources and destinations: the header, then a record for each, in ascending
source, destination and sequence; a message has at least its head flit and at most three (R313, R318). -/
def State.ejectBytes (s : State) (part : Nat) (ms : List (Home × Home × Event)) : List Byte :=
  let named := sortBy (fun m => m.1 * 2 ^ 14 + m.2.1) (ms.map fun m => (s.endName part m.1, s.endName part m.2.1, m.2.2))
  let records := named.zipIdx.flatMap fun m =>
    let src := m.1.1
    let dst := m.1.2.1
    let seq := ((named.take m.2).filter fun x => x.1 == src && x.2.1 == dst).length
    let flits := match (Config.messageFlits m.1.2.2).take 3 with
      | [] => [0]
      | fs => fs
    toBytes 8 (src + dst * 2 ^ 14 + flits.length * 2 ^ 28 + seq % 2 ^ 32 * 2 ^ 32) ++ flits.flatMap fun f => toBytes 64 f.toNat
  toBytes 8 ms.length ++ toBytes 8 (64 + records.length) ++ toBytes 48 0 ++ records

end Sys2Proof.Machine
end

