-- ==== Sys2Proof/Machine/EvInter.lean ====
section
/-! DEFINITION. Intercalation (R311 to R320): agreement, stop, switch-out, eject sections and resume. -/

namespace Sys2Proof.Machine

/-- The bytes of local arrays of cores read as cleared from a bound on: their entries leave the memory list (log 4). -/
def clearCells (lo hi : Nat) (m : List Host.Cell) : List Host.Cell := m.filter fun e => !(lo ≤ e.1 && e.1 < hi)

/-- Clear the first n bytes of a core's local array, with the serials and the poison of their lines (R53, R87). -/
def State.clearPad (s : State) (c n : Nat) : State :=
  let lo := padKey c 0
  let line (k : Nat) : Bool := lo / 128 ≤ k && k < (lo + n) / 128
  { s with mem := clearCells lo (lo + n) s.mem
           serials := s.serials.filter fun e => !line e.1
           poison := s.poison.filter fun k => !line k }

/-! ### A launch undone (R341) -/

/-- A core as it stood before a launch; its counter has run on, and its L1 is what the launch has left of it (R53). -/
def Core.putBack (k old : Core) : Core := { old with calends := k.calends, nextId := k.nextId, l1 := k.l1, l1Use := k.l1Use }

/-- What a launch has changed is put back: its cores, their scratchpads and the lines of its sections, which are made present
at once (R341, log 11). -/
def State.putBack (s : State) (part : Nat) (old : Undo) : State :=
  let s := old.cores.foldl (fun s e => (s.clearPad e.1 (s.core e.1).scr).modCore e.1 fun k => k.putBack e.2) s
  let s := old.cells.foldl (fun s e => s.setByte e.1 e.2) s
  let s := { s with serials := old.serials ++ s.serials, poison := old.poison ++ s.poison }
  old.lines.foldl (fun s e =>
    State.writeUnits ((old.cores.map Prod.fst).headD 0) part 128 (e.1 * 128)
      ((List.range 128).map fun i => e.2.extractLsb' (8 * i) 8) s) s

/-- A launch is undone: its cores hold no run, what it changed is put back, its group entries are those before it, and its
lease is pinned no longer (R341). -/
def State.undoLaunch (s : State) (r : Run) (old : Undo) : State :=
  let s := ((s.regionCores r).foldl (fun s c => s.modCore c fun k => k.free r) s).putBack r.part old
  let mine (g : Group) : Bool := g.ref.part == r.part && g.run == some r.ctx
  let s := { s.dropRun r.part r.ctx with groups := old.groups ++ s.groups.filter fun g => !mine g }
  r.lease.foldl (fun s x => s.unpin r.part x.base x.len) s

/-! ### The stop of a core (R312) -/

/-- The first staged step of the holder is on the array; the other requests of a core leave (R241, R242, R312). -/
def Cluster.stopRequests (k : Cluster) (c : Nat) : Cluster :=
  match k.holder, k.requests.find? fun r => r.1 == c with
  | some h, some first =>
    { k with requests := k.requests.filter fun r => r.1 != c || (h == c && r == first) }
  | _, _ => { k with requests := k.requests.filter fun r => r.1 != c }

/-- An instruction is recorded for reissue: it runs from the start, its map record read anew, when the core issues again
(R312, R317). -/
def State.recordAgain (s : State) (c n : Nat) : State :=
  let o := (s.strand c n).outst
  (s.reissue c n).modStrand c n fun t => { t with record := none, scalars := [], order := none, again := o }

/-- What becomes of a strand's outstanding instruction at the stop point (R312): a trap or completion that is due is
taken; a long accumulator's addition completes; an unfinished registration is withdrawn and its instruction, like a `tstore`
that is still writing, is to be executed again; a release starts anew. -/
def State.stopStrand (s : State) (c n : Nat) : State :=
  match (s.strand c n).outst with
  | none => s
  | some o =>
    if o.err.isSome then s.settle c n
    else match o.phase with
      | .done _ => s.settle c n
      | .adding _ => (s.accStep c n true).settle c n
      | .storing true _ _ => s.recordAgain c n
      | .register _ _ _ node copy =>
        let s := match node with
          | some (i, _) => s.leave c 100 i
          | none => s
        let s := match copy with
          | some id => s.dropCopy c id
          | none => s
        s.recordAgain c n
      | _ => s.modStrand c n fun t => { t with outst := some { o with cleaning := none } }

/-- From its stop point a core issues nothing (R312). -/
def State.stopCore (s : State) (c : Nat) : State :=
  let s := s.modCore c fun k => { k with stopped := true }
  let s := (List.range 16).foldl (fun s n => s.stopStrand c n) s
  s.modCluster (clusterOf c) fun k => k.stopRequests c

/-- At the stop point, write-backs refused before are tried once more by the switch-out (R313). -/
def Core.retryRefused (k : Core) : Core := { k with l1 := k.l1.map fun e => (e.1, { e.2 with refused := false }) }

/-! ### The switch-out of a core (R313) -/

/-- The L1 writes back every dirty byte whose write-back has not been refused. -/
def State.cleanForSwitch (s : State) (c : Nat) : Option State :=
  State.overLines (fun s l => s.cleanLine c 0 l)
    (((s.core c).l1.filter fun e => !e.2.refused && e.2.dirty != 0).map fun e => e.2.line) s

/-- A refused write-back as the message it is kept as (R313, R314). -/
def State.keptWriteback (s : State) (c : Nat) (fr : L1Frame) : Event :=
  let part := s.partOf c
  .sliceAccess (s.homeSlice part fr.line)
    { core := c, strand := 0, pc := 0, part, addr := fr.line * 128, full := BitVec.ofNat 64 (2 ^ 63 + fr.line * 128), lane := 0,
      access := .writeback fr.dirty fr.data }

/-- The L1 is emptied. A frame stands for each kept write-back and each fill on its way until it is answered (log 17). -/
def Core.emptyL1 (k : Core) : Core :=
  let held := (k.l1.filter fun e => e.2.dirty != 0 || !e.2.quiet).map fun e =>
    (e.1, { e.2.ignoreFill with sent := e.2.dirty, present := 0, dirty := 0, evict := true, refused := false })
  { k with l1 := held, l1Use := k.l1Use.filter fun f => held.any fun e => e.1 == f, icache := [] }

/-- Demands are abandoned at the step boundary and their instructions are to be executed again (R242, R312). -/
def State.abandonDemands (s : State) (c : Nat) : State :=
  (List.range 16).foldl (fun s n => match (s.strand c n).work? with
    | some _ => ((s.modCore c fun k => k.abandon n).unstage c n).recordAgain c n
    | none => s) s

/-- Weight slots of the core are invalidated, and their nodes are to be fetched again (R242). -/
def State.dropWeights (s : State) (c : Nat) : State :=
  let s := s.modCluster (clusterOf c) fun k => { k with slots := k.slots.filter fun e => e.2.1 != c }
  s.modCore c fun k => { k with nodes := k.nodes.map fun e =>
    if e.2.kind == .twload && (e.2.state == .done || e.2.state == .evaluating)
    then (e.1, { e.2 with state := .pending, slot := none }) else e }

/-- Whether a step of the core is on the array. -/
def State.stepping (s : State) (c : Nat) : Bool :=
  (s.cluster (clusterOf c)).holder == some c && (s.cluster (clusterOf c)).requests.any fun r => r.1 == c

/-- The five things of R313 are done: the core is at its switch-out point. -/
def State.atSwitchOut (s : State) (c : Nat) : State :=
  let kept := ((s.core c).l1.filter fun e => e.2.dirty != 0).map fun e => (c, s.keptWriteback c e.2)
  let s := { s with ejected := s.ejected ++ kept }
  let s := (s.abandonDemands c).dropWeights c
  let s := s.modCore c fun k => { k.emptyL1 with switchedOut := true }
  let s := if (s.cluster (clusterOf c)).holder == some c then s.post (.arrayLeaseHandover (clusterOf c)) else s
  s.post (.coreSwitchedOut c)

/-! ### The eject section (R314, R318) -/

/-- The core an event is addressed to, or whose unit it is a step of. -/
def eventOwner? : Event → Option Nat
  | .portRequest c _ => some c
  | .loadResponse c _ _ _ => some c
  | .postedStoreAck c _ _ _ => some c
  | .l1FillResponse c _ _ => some c
  | .l1WritebackReply c _ _ => some c
  | .writebackRetry c => some c
  | .lockRegistration (.pad c) _ => some c
  | .lockRegistrationAck c _ _ _ => some c
  | .lockRelease (.pad c) _ _ => some c
  | .barrierArrival _ c _ => some c
  | .barrierWithdrawal _ c _ _ => some c
  | .broadcastAccept _ c _ _ => some c
  | .broadcastFloodArrival _ c _ _ => some c
  | .broadcastCreditReturn _ c _ _ => some c
  | .reductionContribution _ c _ _ _ _ => some c
  | .theftRequest c _ _ => some c
  | .theftReply c _ _ => some c
  | .levellingInterval c => some c
  | .levellingGrantRequest c _ _ => some c
  | .levellingGrant c _ _ => some c
  | .levelledFrameArrival c _ _ _ => some c
  | .twloadFetchComplete c _ => some c
  | .copyStart c _ => some c
  | .streamerUnitRead c _ _ => some c
  | .copyUnitWrite c _ _ _ => some c
  | .copyStatusWrite c _ => some c
  | .cpyhArrival c _ => some c
  | .cpyhBarrierTimeout c _ => some c
  | .cpyhSourceRegistration c _ => some c
  | .copyResume c => some c
  | .operandFetchComplete c _ => some c
  | .secondTierCompletion c _ => some c
  | .instructionFetchReturn c _ => some c
  | .completionRelease c => some c
  | _ => none

/-- The core whose message to a slice an event is. -/
def eventToSlice? : Event → Option Nat
  | .sliceAccess _ q => some q.core
  | .lockRegistration (.slice _) e => some e.core
  | .lockRelease (.slice _) c _ => some c
  | _ => none

/-- Whether messages of cores to slices, which are delivered normally, are still on their way. -/
def State.sliceTraffic (s : State) (cores : List Nat) : Bool :=
  (s.agenda.any fun e => match eventToSlice? e with
    | some c => cores.contains c
    | none => false)
  || s.slices.any fun e => e.2.waiting.any fun q => cores.contains q.core

/-- The owner under which a switched-out core's ranges stand at the slices, so that another run on the same core meets
them as another's (log 18). -/
def parked (part ctx c : Nat) : Nat := c + 2 ^ 32 * (1 + part * 1024 + ctx)

/-- Rename the owner of the ranges at the slices. -/
def State.renameLocks (s : State) (f : Nat → Nat) : State :=
  { s with slices := s.slices.map fun e => (e.1, { e.2 with filter := e.2.filter.map fun h => { h with core := f h.core } }) }

/-- The key under which a scratchpad line's serial waits while its run is switched out (log 18). -/
def parkedSerial (part ctx key : Nat) : Nat := key + 2 ^ 120 * (1 + part * 1024 + ctx)

/-- The core whose scratchpad a line key belongs to. -/
def padLineCore (key : Nat) : Option Nat := if 2 ^ 73 ≤ key && key < 2 ^ 74 then some ((key - 2 ^ 73) / 2 ^ 12) else none

/-- The serials of the scratchpads of cores wait with their run. -/
def State.parkSerials (s : State) (part ctx : Nat) (cores : List Nat) : State :=
  { s with serials := s.serials.map fun e => match padLineCore e.1 with
    | some c => if cores.contains c then (parkedSerial part ctx e.1, e.2) else e
    | none => e }

/-- They come back. -/
def State.unparkSerials (s : State) (part ctx : Nat) (cores : List Nat) : State :=
  let gone := s.serials.filter fun e => match padLineCore e.1 with
    | some c => !cores.contains c
    | none => true
  { s with serials := gone.map fun e =>
      if e.1 / 2 ^ 120 = 1 + part * 1024 + ctx then (e.1 % 2 ^ 120, e.2) else e }

/-- What is left on a core when its run leaves: no run, the counter that runs on, and the next lock number. -/
def Core.vacated (k : Core) : Core := { Core.reset with calends := k.calends, nextId := k.nextId }

/-- The source and the destination of an event that is a message to a core, or a write-back kept for a slice (R314, R318). -/
def State.messageEnds (s : State) : Event → Option (Home × Home)
  | .portRequest c q => some (.pad q.core, .pad c)
  | .sliceAccess k q => some (.pad q.core, .slice k)
  | .loadResponse c _ h _ => some (h, .pad c)
  | .postedStoreAck c _ h _ => some (h, .pad c)
  | .l1FillResponse c line _ => some (.slice (s.homeSlice (s.partOf c) line), .pad c)
  | .l1WritebackReply c line _ => some (.slice (s.homeSlice (s.partOf c) line), .pad c)
  | .lockRegistration h e => some (.pad e.core, h)
  | .lockRegistrationAck c _ h _ => some (h, .pad c)
  | .lockRelease h c _ => some (.pad c, h)
  | .barrierArrival g _ m => (s.nextUp g m).map fun r => (.pad m, .pad r)
  | .barrierWithdrawal g _ _ m => (s.nextUp g m).map fun r => (.pad m, .pad r)
  | .broadcastAccept g c _ _ => (s.rootOf g).map fun r => (.pad c, .pad r)
  | .broadcastFloodArrival g c _ _ => (s.group? g).bind fun x => match x.members.idxOf? c with
    | some (i + 1) => x.members[i / 2]?.map fun r => (.pad r, .pad c)
    | _ => none
  | .broadcastCreditReturn g _ _ m => (s.nextUp g m).map fun r => (.pad m, .pad r)
  | .reductionContribution g _ _ _ _ m => (s.nextUp g m).map fun r => (.pad m, .pad r)
  | .theftRequest v c _ => some (.pad c, .pad v)
  | .theftReply c n _ => match (s.strand c n).phase? with
    | some (.take _ asked _ _) => asked.getLast?.map fun v => (.pad v, .pad c)
    | _ => none
  | .levellingGrantRequest b a _ => some (.pad a, .pad b)
  | .levellingGrant c b _ => some (.pad b, .pad c)
  | .levelledFrameArrival b a _ _ => some (.pad a, .pad b)
  | _ => none

/-- The events of a region that leave with it: the messages in its eject buffers, and those on their way to its cores or
made by their units (R314). -/
def State.leaving (s : State) (cores : List Nat) : List Event :=
  (s.ejected.filter fun e => cores.contains e.1).map Prod.snd ++ s.agenda.filter fun e => (eventOwner? e).any cores.contains

/-- How many of n bytes from an address lie on consecutive pages that can be written. -/
def State.writable (s : State) (part va n : Nat) : Nat :=
  match s.partition? part with
  | none => 0
  | some p => min n (((pagesOf va n).takeWhile fun x => s.checkPage p x true false == .good).length * 4096 - va % 4096)

/-- The region's eject section, as far as its pages can be written (R318; log 13). -/
def State.ejectSection (s : State) (r : Run) (cores : List Nat) : List Byte :=
  let all := s.ejectBytes r.part ((s.leaving cores).filterMap fun e => (s.messageEnds e).map fun x => (x.1, x.2, e))
  all.take (s.writable r.part (s.ejectAt r) all.length)

/-- The messages of a region leave with it, and its cores are vacated (R314, R318, R319). -/
def State.leaveCores (s : State) (r : Run) (cores : List Nat) : State :=
  let mine (e : Event) : Bool := (eventOwner? e).any cores.contains
  let events := s.leaving cores
  let bytes := s.ejectSection r cores
  let s := if r.saveBase = 0 then s else State.writeUnits (cores.headD 0) r.part bytes.length (s.ejectAt r) bytes s
  let cls := (cores.map clusterOf).eraseDups
  let s := { s with
    ejectSections := (r.part, r.ctx, events) :: s.ejectSections.filter fun e => !(e.1 == r.part && e.2.1 == r.ctx)
    ejected := s.ejected.filter fun e => !cores.contains e.1
    agenda := s.agenda.filter fun e => !mine e && (match e with
      | .tileStep cl => !cls.contains cl
      | .arrayLeaseHandover cl => !cls.contains cl
      | _ => true)
    saved := cores.map (fun c => (r.part, r.ctx, c, s.core c)) ++
      s.saved.filter fun (e : Nat × Nat × Nat × Core) => !(e.1 == r.part && e.2.1 == r.ctx) }
  let s := (s.renameLocks fun c => if cores.contains c then parked r.part r.ctx c else c).parkSerials r.part r.ctx cores
  let s := cls.foldl (fun s cl => s.modCluster cl fun k => { k with holder := none, steps := 0, requests := [] }) s
  cores.foldl (fun s c => s.modCore c Core.vacated) s

/-! ### Resume (R319) -/

/-- The copies of a core that were sending go on from their next unit (R259). -/
def Core.sending (k : Core) (c : Nat) : List Event :=
  k.copies.filterMap fun x =>
    if x.phase = .running && x.next < x.units.length then some (Event.streamerUnitRead c x.id x.next) else none

/-- A core as its run comes back: it is neither stopped nor switched out, and what was recorded for reissue is to be executed
again (R319). -/
def Core.resumed (k : Core) : Core :=
  { k with stopped := false, switchedOut := false, strands := k.strands.map fun t => { t with again := none } }

/-- A run's cores are restored, the messages of its eject section go on, and its routers announce them (R319). -/
def State.restoreRun (s : State) (r : Run) : State :=
  let mine := s.saved.filter fun e => e.1 == r.part && e.2.1 == r.ctx
  let cores := mine.map fun e => e.2.2.1
  let events := ((s.ejectSections.find? fun e => e.1 == r.part && e.2.1 == r.ctx).map fun e => e.2.2).getD []
  let s := (s.renameLocks fun c => match cores.find? fun d => parked r.part r.ctx d == c with
    | some d => d
    | none => c).unparkSerials r.part r.ctx cores
  let s := mine.foldl (fun s e => s.modCore e.2.2.1 fun k =>
    { e.2.2.2.resumed with calends := k.calends, nextId := max k.nextId e.2.2.2.nextId }) s
  let s := cores.foldl (fun s c => s.restoreImage r c) s
  let s := { s with
    saved := s.saved.filter fun e => !(e.1 == r.part && e.2.1 == r.ctx)
    ejectSections := s.ejectSections.filter fun e => !(e.1 == r.part && e.2.1 == r.ctx) }
  let s := s.posts events
  let s := cores.foldl (fun s c => s.posts ((s.core c).sending c)) s
  s.posts (cores.map Event.copyResume)

/-- Every control die has accepted the resume value: the run is back on its cores (R319). -/
def State.rejoinRun (s : State) (r : Run) : State :=
  let s := (s.restoreRun r).modRun r.part r.ctx fun r => { r with life := .resuming, saveBase := 0 }
  s.unpin r.part (field 56 0 r.saveBase) (if r.saveBase = 0 then 0 else s.saveLength r)

/-- The incoming context of a request is restored from its save base (R311, R319). -/
def State.bringIn (s : State) (rq : Request) (ctx : Nat) (base : Word) : State :=
  (s.modRun rq.part ctx fun q => if q.life = .switchedOut then { q with saveBase := base, asked := rq } else q).post (.resume rq.part ctx)

/-- R311. The host requests a region switch and the lead die proposes a stop value. A request for a run whose start value is
not agreed yet waits (log 34). -/
def execIntercalationRequest (rq : Request) (run : Nat) (saveBase : Word) (incoming : Option (Nat × Word)) (s : State) : Out :=
  s.endpoint rq opSwitch (
  let no := Host.Outcome.next (s.refuse rq opSwitch 0 noIndex)
  let later := Host.Outcome.next (s.post (.intercalationRequest rq run saveBase incoming))
  let begin_ (r : Run) : Out :=
    let t := s.agreed
    let s := s.begins rq opSwitch
    let s := s.modRun rq.part run fun r =>
      { r with inter := some { asked := rq, saveBase, incoming, stop := t, accepted := [], committed := false } }
    .next (s.propose r)
  match s.run? rq.part run with
  | none => no
  | some r => match r.life, r.inter with
    | .live, none => begin_ r
    | .starting, none => begin_ r
    | .live, some i => if i.committed then no else later
    | .starting, some _ => later
    | .paging _, _ => later
    | .settingUp _ _, _ => later
    | .agreeing _ _, _ => later
    | .rejoining _, _ => later
    | .resuming, _ => later
    | .switchedOut, _ => match incoming with
      | none => no
      | some (ctx, base) => .next ((s.begins rq opSwitch).bringIn rq ctx base)
    | .switchingOut, _ => no
    | .stopped _, _ => no)

/-- A control die's answer to a proposed value: it accepts one that arrives at least 8,192 ticks before the value, if no
other intercalation of the region is committed (R311). -/
def State.accepts (s : State) (r : Run) (value : Word) : Bool :=
  s.wafer.toNat + 8192 ≤ value.toNat && !s.regionCommitted r

/-- R311. A control die accepts or rejects a proposed stop value, and in the same way the start value of a launch (R341), the
value at which a run resumes (R319), and, for PART 0xFFFF, the commit value of the routing tables (R355). -/
def execIntercalationProposal (part : Nat) (run : Nat) (site : Nat) (s : State) : Out :=
  if part = 0xFFFF then
    .next (match s.update with
      | none => s
      | some u => match u.stop with
        | none => s
        | some t => if t.toNat < s.wafer.toNat + 8192 then { s with update := none }.note 0xFFFF .routingAborted
          else { s with update := some { u with accepted := u.accepted ++ [site] } })
  else match s.run? part run with
  | none => .next s
  | some r =>
    let mine := (s.regionSites r).contains site
    let all (acc : List Nat) : Bool := (s.regionSites r).all fun x => acc.contains x
    match r.life with
    | .agreeing old acc =>
      if !mine then .next s
      else if !s.accepts r r.startT then .next ((s.undoLaunch r old).refuse r.asked opLaunch 0x0204 noIndex)
      else .next (s.modRun part run fun r => { r with life := if all (acc ++ [site]) then .starting else .agreeing old (acc ++ [site]) })
    | .rejoining acc =>
      if !mine then .next s
      else if !s.accepts r r.issueFrom then
        .next ((s.modRun part run fun r => { r with life := .switchedOut }).refuse r.asked opSwitch 0 noIndex)
      else
        let s := s.modRun part run fun r => { r with life := .rejoining (acc ++ [site]) }
        .next (if all (acc ++ [site]) then s.post (.resume part run) else s)
    | _ => match r.inter with
      | none => .next s
      | some i =>
        if i.committed || i.accepted.contains site || !mine then .next s
        else if s.accepts r i.stop then
          let acc := i.accepted ++ [site]
          let s := s.modRun part run fun r => { r with inter := some { i with accepted := acc } }
          .next (if all acc then s.post (.intercalationCommit part run) else s)
        else .next ((s.modRun part run fun r => { r with inter := none }).refuse i.asked opSwitch 0 noIndex)

/-- R311. On unanimous acceptance the lead die commits and the save area is pinned. A run whose stewards have not begun yet
receives the notice when they have (log 34). -/
def execIntercalationCommit (part : Nat) (run : Nat) (s : State) : Out :=
  match s.run? part run, s.partition? part with
  | some r, some p => match r.inter with
    | none => .next s
    | some i =>
      if i.committed || !((s.regionSites r).all fun x => i.accepted.contains x) then .next s
      else if r.life = .starting then .next (s.post (.intercalationCommit part run))
      else if r.life ≠ .live then .next s
      else
        let pages := pagesOf (field 56 0 i.saveBase) (s.saveLength r)
        if field 63 63 i.saveBase = 0 || !(pages.all fun va => s.checkPage p va true false == .good) then
          .next ((s.modRun part run fun r => { r with inter := none }).refuse i.asked opSwitch 0 noIndex)
        else
          let s := pages.foldl (fun s va => s.setPin part va true) s
          let s := s.modRun part run fun r => { r with inter := some { i with committed := true }, saveBase := i.saveBase }
          .next ((s.regionCores r).foldl (fun s c => (List.range 16).foldl (fun s n =>
            if (s.strand c n).life = .running || (s.strand c n).life = .waiting then
              (s.modStrand c n fun t => { t with xn := true }).wake c n
            else s) s) s)
  | _, _ => .next s

/-- R312. At CALENDS = T a core stops issuing. -/
def execIntercalationStop (core : Nat) (s : State) : Out :=
  match s.runOf core with
  | none => .next s
  | some r => match r.inter with
    | none => .next s
    | some i =>
      if !i.committed || (s.core core).stopped || (s.core core).calends.toNat < i.stop.toNat || !r.placed then .next s
      else
        let s := s.modRun r.part r.ctx fun r => { r with life := if r.life = .live then .switchingOut else r.life }
        let s := (s.modCore core Core.retryRefused).stopCore core
        .next ((s.applyLog (siteOf core)).post (.switchOutPoint core))

/-- R313. The core's NI, lease, copies and L1 have wound down and its image save begins. -/
def execSwitchOutPoint (core : Nat) (s : State) : Out :=
  if !(s.core core).stopped || (s.core core).switchedOut then .next s
  else
    let s := s.stopCore core
    if s.stepping core || ((s.core core).copies.any fun k => k.inFlight != 0 || k.phase == .refused) then
      .next (s.post (.switchOutPoint core))
    else match s.cleanForSwitch core with
      | none => .next (s.post (.switchOutPoint core))
      | some s => .next (if (s.core core).writingBack then s.post (.switchOutPoint core) else s.atSwitchOut core)

/-- An event of the switch-out or the resume goes on once the lines of a range of the save area are at their homes (R315, R327). -/
def State.withSaveLines (s : State) (r : Run) (c va n : Nat) (e : Event) (go : Out) : Out :=
  match (if r.saveBase = 0 then [] else linesOf va n).find? fun l => !s.lineAtHand r.part l with
  | none => go
  | some l => .next ((s.touchLine c 0 (lineAddr l) false r.part l).again e)

/-- R315. Every unit of a core image has been performed at its home slice. -/
def execCoreSwitchedOut (core : Nat) (s : State) : Out :=
  match s.runOf core with
  | none => .next s
  | some r =>
    if !(s.core core).switchedOut || (s.saved.any fun e => e.1 == r.part && e.2.1 == r.ctx && e.2.2.1 == core) then .next s
    else s.withSaveLines r core (s.imageAt r core) (0x1C000 + r.scr) (.coreSwitchedOut core) (
      let s := s.saveImage r core
      let s := { s with saved := (r.part, r.ctx, core, s.core core) :: s.saved }
      .next (if (s.regionCores r).all fun c => s.saved.any fun e => e.1 == r.part && e.2.1 == r.ctx && e.2.2.1 == c
        then s.post (.ejectSectionCopy r.part r.ctx) else s))

/-- R314. The control dies copy the region's eject buffers into the eject section. -/
def execEjectSectionCopy (part : Nat) (run : Nat) (s : State) : Out :=
  match s.run? part run with
  | none => .next s
  | some r =>
    let cores := s.regionCores r
    let here := cores.headD 0
    if !(cores.all fun c => (s.core c).switchedOut && (s.core c).run == some (part, run)) then .next s
    else if s.sliceTraffic cores then .next (s.post (.ejectSectionCopy part run))
    else s.withSaveLines r here (s.ejectAt r) (s.ejectSection r cores).length (.ejectSectionCopy part run) (
      let s := s.leaveCores r cores
      match r.life with
      | .stopped _ => .next (s.post (.harvest part run))
      | _ =>
        let s := s.modRun part run fun r => { r with life := .switchedOut, inter := none }
        .next (match r.inter with
          | none => s
          | some i => match i.incoming with
            | some (ctx, base) => s.bringIn i.asked ctx base
            | none => s.fulfil i.asked opSwitch))

/-- R319. A resume value is agreed; then cores are restored, ejected messages re-injected and routers announce
(`State.rejoinRun`), once the images' lines are at their homes. -/
def execResume (part : Nat) (run : Nat) (s : State) : Out :=
  match s.run? part run with
  | none => .next s
  | some r => match r.life with
    | .switchedOut =>
      if s.blocksHeld part run r.blocks then .next (s.refuse r.asked opSwitch 0 noIndex)
      else .next ((s.modRun part run fun r => { r with life := .rejoining [], issueFrom := s.agreed }).propose r)
    | .rejoining acc =>
      if !((s.regionSites r).all fun x => acc.contains x) then .next s
      else
        let images := (s.regionCores r).length * (0x1C000 + r.scr)
        s.withSaveLines r dieAgent (field 56 0 r.saveBase) images (.resume part run) (.next (s.rejoinRun r))
    | _ => .next s

/-- R319. At CALENDS = T′ every core issues again. -/
def execResumeIssue (part : Nat) (run : Nat) (s : State) : Out :=
  match s.run? part run with
  | none => .next s
  | some r =>
    if r.life ≠ .resuming || s.wafer.toNat < r.issueFrom.toNat then .next s
    else
      let s := (s.modRun part run fun r => { r with life := .live }).fulfil r.asked opSwitch
      .next (if s.runComplete r then s.post (.harvest part run) else s)

end Sys2Proof.Machine
end

