-- ==== Sys2Proof/Machine/EvLaunch.lean ====
section
/-! DEFINITION. The launch endpoint (R335, R340 to R345): partitions, launches, ends and harvests. -/

namespace Sys2Proof.Machine

/-! ### Partitions (R334, R335) -/

/-- A rectangle of sites as a partition. -/
def Partition.fits (p : Partition) : Bool := p.c0 ≤ p.c1 && p.c1 < 6 && p.s0 ≤ p.s1 && p.s1 < 7

def Partition.sites (p : Partition) : List Nat := (List.range Config.sites).filter fun x => (p.rel? x).isSome

/-- The live slices of a partition's compute reticles, in partition-relative order: those of stacks that are not FENCED
(R322, log 28). -/
def State.liveSlices (s : State) (p : Partition) : List Nat :=
  ((List.range (p.width * p.height)).filterMap p.site?).flatMap fun site =>
    if !Config.isCompute site then []
    else (List.range 2).flatMap fun t =>
      if s.bringup { site, chip := 1, index := t } = .fenced then [] else (List.range 16).map fun i => 32 * site + 16 * t + i

/-- The partition's own counts, which the reply to CREATE gives: its compute reticles, its blocks that are not FENCED, their
clusters, its slices, and N (R10, R322; log 28). -/
def State.counts? (s : State) (p : Partition) : List Nat :=
  let sites := p.sites.filter Config.isCompute
  let blocks := (sites.flatMap fun x => (List.range 4).map fun b => 4 * x + b).filter fun k =>
    s.bringup { site := k / 4, chip := 0, index := k % 4 } != .fenced
  [sites.length, blocks.length, (blocks.map fun k => (s.block k).nameCount).sum, p.slices.length]

/-- Whether CREATE may make a partition: a free number below 64, a rectangle with a compute reticle and a live slice, apart
from every other, and a root in its own first-tier memory (R322, R324, R334, R335). -/
def State.mayCreate (s : State) (p : Partition) : Bool :=
  p.num < 64 && (s.partition? p.num).isNone && p.fits && p.sites.any Config.isCompute && !p.slices.isEmpty
    && p.sites.all (fun x => (s.partAt x).isNone)
    && p.ptroot % 4096 = 0 && p.ownsFrame { raw := p.ptroot / 4096 * 4096, at_ := 0 }

/-- Step 2 of destroying a partition: its arrays, weight buffers, banks and slices are cleared (R335). -/
def State.clearSites (s : State) (p : Partition) : State :=
  let sites := p.sites
  let cores := (s.cores.map Prod.fst).filter fun c => sites.contains (siteOf c)
  let s := cores.foldl (fun s c => (s.clearPad c Config.arrayBytes).modCore c Core.vacated) s
  { s with
    mem := s.mem.filter fun e => !(2 ^ 80 ≤ e.1 && sites.contains ((e.1 - 2 ^ 80) / 2 ^ 27))
    clusters := s.clusters.filter fun e => !sites.contains (e.1 / 64)
    slices := s.slices.filter fun e => !sites.contains (e.1 / 32)
    groups := s.groups.filter fun g => g.ref.part != p.num
    nsel := s.nsel.filter fun e => !sites.contains (holderSite e.1)
    nselDue := s.nselDue.filter fun e => !sites.contains (holderSite e.1) }

/-! ### The checks of a launch (R341 step 1, R345) -/

/-- Whether two byte ranges of a scratchpad meet; an empty one meets nothing. -/
def meetRange (a b : Nat × Nat) : Bool := 0 < a.2 && 0 < b.2 && overlaps a.1 a.2 b.1 b.2

def ringRange (r : RingCfg) : Nat × Nat := (r.base, r.days * r.daySize)
def almRange (rb : RunBlock) : Nat × Nat := (rb.almBase, rb.almN * 2 ^ rb.almS)
def dqRange (rb : RunBlock) : Nat × Nat := (rb.dqBase, 64 * rb.dqN)

/-- The limits of R60. -/
def ringOk (r : RingCfg) (scr : Nat) : Bool :=
  r.n < 4 && r.base % 1024 = 0 && 2 ≤ r.days && r.days ≤ 8 && r.daySize % 1024 = 0 && r.daySize ≠ 0
    && r.base + r.days * r.daySize ≤ scr && r.prod ≠ 0 && r.cons ≠ 0 && 6 ≤ r.wait && r.wait ≤ 24

/-- The almanac and the overflow region are within R58 and R107 and apart. -/
def scratchOk (rb : RunBlock) : Bool :=
  (rb.almN = 0 || (6 ≤ rb.almS && rb.almS ≤ 16 && rb.almN ≤ 1024 && rb.almBase % 2 ^ rb.almS = 0
      && rb.almBase + rb.almN * 2 ^ rb.almS ≤ rb.scratch))
    && (rb.dqN = 0 || (rb.dqN ≤ 4096 && rb.dqBase % 64 = 0 && rb.dqBase + 64 * rb.dqN ≤ rb.scratch))
    && !meetRange (almRange rb) (dqRange rb)

/-- The first ring that breaks R60 or meets the almanac, the overflow region or an earlier ring. -/
def badRing (rb : RunBlock) : Option RingCfg :=
  (rb.rings.zipIdx.find? fun e =>
    !ringOk e.1 rb.scratch || meetRange (ringRange e.1) (almRange rb) || meetRange (ringRange e.1) (dqRange rb)
      || (rb.rings.take e.2).any fun q => q.n == e.1.n || meetRange (ringRange e.1) (ringRange q)).map Prod.fst

/-- The run a block would make, for the region it names: the ranges of its `.ranges` have read and write rights (R329). -/
def runFor (rb : RunBlock) (rq : Request) (ctx : Nat) : Run where
  part := rq.part
  ctx := ctx
  asked := rq
  blocks := rb.blocks
  lease := (rb.ranges.map fun x => { x with read := true, write := true, exec := false }) ++ (rb.sections.filter fun x => !x.bytes.isEmpty).map fun x =>
    { base := x.base, len := (x.bytes.length + 4095) / 4096 * 4096, read := true, write := !x.code, exec := x.code, index := noIndex }
  sections := rb.sections
  entry := rb.entry
  maintenance := rb.maintenance
  scr := rb.scratch
  startT := 0
  issueFrom := 0
  life := .paging rb
  inter := none
  saveBase := 0
  dirty := 0
  cause := 0
  causeCore := 0

/-- Whether every block named is one of the partition's compute blocks (R141). -/
def Partition.hasBlocks (p : Partition) (bs : List (Nat × Nat)) : Bool :=
  !bs.isEmpty && bs.all fun b => b.2 < 4 && match p.site? b.1 with
    | some site => Config.isCompute site
    | none => false

/-- The first `.group` that names a missing core, a member twice, a wait outside 6 to 24, an index above 255, or a core
whose fifth group it would be, counting the directives in their order (R117, R141, R336, R345). -/
def State.badGroup (s : State) (part : Nat) (rb : RunBlock) : Option GroupCfg :=
  let mine := rb.groups.map fun g => (g.idx, (s.groupMembers part g.image).getD [])
  let upTo (i : Nat) := (rb.groups.filter fun g => g.index ≤ i).map fun g => (g.idx, (s.groupMembers part g.image).getD [])
  let others := (s.groups.filter fun g => g.ref.part == part && !(mine.any fun m => m.1 == g.ref.idx)).map fun g => (g.ref.idx, g.members)
  rb.groups.find? fun g => match s.groupMembers part g.image with
    | none => true
    | some ms => 256 ≤ g.idx || ms.isEmpty || 4096 < ms.length || g.image.wait < 6 || 24 < g.image.wait
        || ms.eraseDups.length != ms.length
        || ms.any fun c => 4 < ((upTo g.index ++ others).filter fun x => x.2.contains c).length

/-- The frame of a `.frame` directive: its pointers are stored divided by 8 (R18, R141). -/
def frameOf (f : FrameCfg) : Frame where
  entry := f.entry
  args := f.args
  fmta := BitVec.ofNat 16 (f.fmta / 8)
  fmtb := BitVec.ofNat 16 (f.fmtb / 8)
  scla := BitVec.ofNat 16 (f.scla / 8)
  sclb := BitVec.ofNat 16 (f.sclb / 8)

/-- Whether the core of a `.frame` lies in the run region (R141). -/
def State.frameInRegion (s : State) (rq : Request) (rb : RunBlock) (f : FrameCfg) : Bool :=
  match s.named? rq.part f.core with
  | none => false
  | some c => s.inRegion (runFor rb rq 0) c

/-- Whether a `.frame` keeps the other rules: pointer offsets that are multiples of 8 (R141), an entry that is a word address,
and a place in its core's deque (log 19). -/
def frameFits (rb : RunBlock) (f : FrameCfg) : Bool :=
  [f.fmta, f.fmtb, f.scla, f.sclb].all (fun x => x % 8 == 0) && f.entry.toNat % 4 == 0
    && (rb.frames.filter fun g => g.core == f.core).length ≤ 32 + rb.dqN

/-- The trap vector lies in the code section (R141). -/
def trapvecOk (rb : RunBlock) : Bool :=
  rb.sections.any fun x => x.code && field 63 57 rb.trapvec = 64 && x.base ≤ field 56 0 rb.trapvec
    && field 56 0 rb.trapvec < x.base + x.bytes.length

/-- The bytes of a section with its padding, as (address, byte) from its base. -/
def sectionByte (x : Section) (va : Nat) : Byte := x.bytes.getD (va - x.base) 0

/-- Whether two sections overlap with different bytes (R140). -/
def sectionsClash (x y : Section) : Bool :=
  let hi (z : Section) := z.base + (z.bytes.length + 4095) / 4096 * 4096
  let lo := max x.base y.base
  !x.bytes.isEmpty && !y.bytes.isEmpty
    && (List.range (min (hi x) (hi y) - lo)).any fun i => sectionByte x (lo + i) != sectionByte y (lo + i)

/-- Step 1 of R341: why a launch is refused, as the reason and index of R345; reasons are looked for in their order. -/
def State.launchRefused (s : State) (rq : Request) (p : Partition) (rb : RunBlock) : Option (Nat × Nat) :=
  if rb.scratch % 16384 ≠ 0 || 448 * 1024 < rb.scratch then some (0x0101, rb.scratchIndex)
  else if !scratchOk rb then some (0x0102, rb.scratchIndex)
  else match badRing rb with
  | some r => some (0x0102, r.index)
  | none =>
    if !slotsValid rb.slots rb.sloten then some (0x0103, rb.slotsIndex)
    else if !p.hasBlocks rb.blocks then some (0x0104, 0)
    else match s.badGroup p.num rb with
    | some g => some (0x0104, g.index)
    | none => match rb.frames.find? fun f => !s.frameInRegion rq rb f with
      | some f => some (0x0104, f.index)
      | none => match rb.frames.find? fun f => !frameFits rb f with
      | some f => some (0, f.index)
      | none =>
        if !trapvecOk rb then some (0, noIndex)
        else if rb.scratchData.any fun d => rb.scratch < d.1 + d.2.length then some (0x0105, noIndex)
        else if s.runs.any fun r => r.part == p.num && r.sections.any fun y => rb.sections.any fun x => sectionsClash x y
        then some (0x0106, noIndex)
        else if s.blocksHeld p.num 1024 rb.blocks then some (0x0107, 0)
        else none

/-- The parts a launch needs are READY: its blocks, and of each of their reticles the control die and a memory stack
(R351). -/
def State.regionReady (s : State) (p : Partition) (rb : RunBlock) : Bool :=
  rb.blocks.all fun b => match p.site? b.1 with
    | none => false
    | some site => !(s.lowPower.any fun x => x.1 == site)
        && s.bringup { site, chip := 0, index := b.2 } == .ready && s.bringup { site, chip := 2, index := 0 } == .ready
        && (s.bringup { site, chip := 1, index := 0 } == .ready || s.bringup { site, chip := 1, index := 1 } == .ready)

/-- The least run context that no run of a partition has (R335). -/
def State.freeContext (s : State) (part : Nat) : Option Nat :=
  (List.range 1024).find? fun c => (s.run? part c).isNone

/-! ### The lease (R341 step 3) -/

/-- The pages of a lease in order, with the rights that its ranges declare there and the index of the first range. -/
def leasePages (lease : List LeaseRange) : List (Nat × Bool × Bool × Nat) :=
  (lease.flatMap fun r => pagesOf r.base r.len).eraseDups.map fun va =>
    let rs := lease.filter fun r => overlaps r.base r.len va 4096
    (va, rs.any LeaseRange.write, rs.any LeaseRange.exec, (rs.head?.map LeaseRange.index).getD noIndex)

/-- A range's own limits: 64 of them at most, each of whole pages (R329, R139). -/
def badLease (lease : List LeaseRange) : Option Nat :=
  if 64 < lease.length then some noIndex
  else (lease.find? fun r => r.base % 4096 != 0 || r.len % 4096 != 0 || r.len < 4096 || 2 ^ 57 < r.base + r.len).map LeaseRange.index

/-! ### Setting up the cores (R341 steps 4 and 5) -/

/-- The L1 lines in ways that become scratchpad: dirty ones are written back and leave, clean ones leave (R53 step 1). -/
def State.shedWays (s : State) (c scr : Nat) : State :=
  ((s.core c).l1.filter fun e => e.1 / 128 < scr / 16384).foldl (fun s e =>
    if e.2.dirty = 0 && e.2.sent = 0 then s.modCore c fun k => k.freeFrame e.1
    else if e.2.dirty = 0 then s.modCore c fun k => k.setFrame e.1 { e.2 with evict := true }
    else s.writeback c 0 e.1 e.2 true) s

/-- A core as the launch sets it up; its L1 is kept, its other state takes its reset value (R17, R53, R141, R275). -/
def launchCore (rb : RunBlock) (part ctx : Nat) (k : Core) : Core :=
  { Core.reset with
    run := some (part, ctx)
    scr := rb.scratch
    calends := k.calends
    nextId := k.nextId
    slots := slotsStored rb.slots rb.sloten
    sloten := rb.sloten
    tvec := rb.trapvec &&& ~~~3
    pctx := BitVec.ofNat 16 (part % 64 * 1024 + ctx % 1024)
    rings := rb.rings.map fun r => (r.n, { cfg := r, fill := 0, drain := 0, fillArr := 0, drainArr := 0 })
    almS := rb.almS
    almN := rb.almN
    almBase := rb.almBase
    deque := { Deque.reset with base := rb.dqBase, slots := rb.dqN }
    levelAt := 2 ^ 16
    l1 := k.l1
    l1Use := k.l1Use }

/-- One core of the region is set up: ways, clearing, scratch data, frames (R17, R53, R139). -/
def State.setUpCore (s : State) (part ctx : Nat) (rb : RunBlock) (c : Nat) : State :=
  let s := if (s.cores.any fun e => e.1 == c) then s else s.modCore c fun k => { k with calends := s.wafer }
  let s := s.modCore c fun k => launchCore rb part ctx k
  let s := (s.shedWays c rb.scratch).clearPad c rb.scratch
  let s := s.modCluster (clusterOf c) fun k => { k with slots := k.slots.filter fun e => e.2.1 != c }
  let s := rb.scratchData.foldl (fun s d => s.setBytes (padKey c d.1) d.2) s
  (rb.frames.filter fun f => s.named? part f.core == some c).foldl (fun s f => s.pushNear c (frameOf f)) s

/-- What the set-up of a region's cores changes, as it stands before (R341). -/
def State.undoFor (s : State) (rb : RunBlock) (cores : List Nat) (groups : List Group) : Undo :=
  let inside (k : Nat) : Bool := cores.any fun c => padKey c 0 ≤ k && k < padKey c rb.scratch
  { groups
    cores := cores.map fun c => (c, s.core c)
    cells := s.mem.filter fun e => inside e.1
    serials := s.serials.filter fun e => inside (e.1 * 128)
    poison := s.poison.filter fun k => inside (k * 128)
    lines := [] }

/-- Whether a launch has written its sections (R341 step 5). -/
def Run.written (r : Run) : Bool :=
  match r.life with
  | .paging _ => false
  | .settingUp _ todo => todo.isEmpty
  | _ => true

/-- Whether a section's pages reach an address. -/
def sectionReaches (x : Section) (va : Nat) : Bool :=
  !x.bytes.isEmpty && overlaps x.base ((x.bytes.length + 4095) / 4096 * 4096) va 1

/-- The lines of a run's sections, in page order, but for pages that another run's section shares and has written (R140). -/
def State.sectionLines (s : State) (r : Run) : List Nat :=
  let shared (va : Nat) : Bool := s.runs.any fun q =>
    q.part == r.part && q.ctx != r.ctx && q.written && q.sections.any fun y => sectionReaches y va
  ((r.sections.flatMap fun x => pagesOf x.base x.bytes.length).eraseDups.filter fun va => !shared va).flatMap fun va =>
    (List.range 32).map fun i => va / 128 + i

/-- The bytes of a line of a run's sections, with their padding. -/
def Run.sectionLine (r : Run) (line : Nat) : List Byte :=
  match (r.sections.filter fun x => sectionReaches x (line * 128)).getLast? with
  | none => []
  | some x => (List.range 128).map fun i => sectionByte x (line * 128 + i)

/-- Steps 4 and 5: the group entries, the cores, each steal pointer after its own core's name (R109), the network-select
tables (R337), and the sections, whose lines are written one by one (`execStewardStart`). A refused write-back is sent again
2^16 ticks later (R70). -/
def State.setUpRun (s : State) (r : Run) (rb : RunBlock) : State :=
  match rb.groups.find? fun g => s.groupHeld { part := r.part, idx := g.idx } with
  | some g => (s.undoLaunch r .empty).refuse r.asked opLaunch 0x0203 g.index
  | none =>
    let old := s.groups.filter fun g => g.ref.part == r.part && rb.groups.any fun x => x.idx == g.ref.idx
    let s := rb.groups.foldl (fun s g => s.putGroup { part := r.part, idx := g.idx } g.image (some r.ctx)
      ((s.groupMembers r.part g.image).getD [])) s
    let cores := s.regionCores r
    let undo := s.undoFor rb cores old
    let s := cores.foldl (fun s c => s.setUpCore r.part r.ctx rb c) s
    let s := cores.zipIdx.foldl (fun s e => s.modDeque e.1 fun q => { q with steal := e.2 + 1 }) s
    let todo := s.sectionLines r
    let s := (s.modRun r.part r.ctx fun r => { r with life := .settingUp undo todo, startT := s.wafer + 65536 }).tables
    if todo.isEmpty then s else s.post (.stewardStart r.part r.ctx)

/-- Step 3 goes on: a missing page is asked of the host and the launch waits; a page that fails a check refuses it; else
every page is pinned and the run is set up (R329). -/
def State.walkLease (s : State) (part ctx : Nat) : State :=
  match s.run? part ctx, s.partition? part with
  | some r, some p => match r.life with
    | .paging rb =>
      let pages := leasePages r.lease
      (match pages.find? fun g => s.checkPage p g.1 g.2.1 g.2.2.1 != .good with
      | none => (pages.foldl (fun s g => s.setPin part g.1 true) s).setUpRun r rb
      | some g => match s.checkPage p g.1 g.2.1 g.2.2.1 with
        | .missing => if s.moving part g.1 then s else s.tell (.pageFault part ctx g.1)
        | _ => (s.dropRun part ctx).refuse r.asked opLaunch 0x0202 g.2.2.2)
    | _ => s
  | _, _ => s

/-- The first page a launch waits for. -/
def State.waitsFor (s : State) (r : Run) : Option (Nat × Bool × Bool × Nat) :=
  match r.life, s.partition? r.part with
  | .paging _, some p => (leasePages r.lease).find? fun g => s.checkPage p g.1 g.2.1 g.2.2.1 == .missing
  | _, _ => none

/-! ### Harvest (R309, R331, R342) -/

/-- A cluster's banks without the tags of a context. -/
def Cluster.untag (k : Cluster) (ctx : Nat) : Cluster :=
  { k with banks := k.banks.map fun b => if (b.tag.map BankTag.ctx) == some ctx then { b with tag := none } else b }

/-- The state a stopped run releases at its harvest (R309). -/
def State.releaseRun (s : State) (r : Run) (cores : List Nat) : State :=
  let ctx := r.part % 64 * 1024 + r.ctx % 1024
  let mine (e : Nat × Nat × Nat × Core) : Bool := e.1 == r.part && e.2.1 == r.ctx
  { s with
    slices := s.slices.map fun e => (e.1, { e.2 with filter := e.2.filter.filter fun h =>
      !(cores.any fun c => h.core == parked r.part r.ctx c) })
    clusters := s.clusters.map fun e => (e.1, e.2.untag ctx)
    saved := s.saved.filter fun e => !mine e
    ejectSections := s.ejectSections.filter fun e => !(e.1 == r.part && e.2.1 == r.ctx)
    serials := s.serials.filter fun e => e.1 / 2 ^ 120 != 1 + r.part * 1024 + r.ctx }

/-- Merge every dirty log of a partition; the count of pages whose D bit it set (R331, R332). -/
def State.mergeLogs (s : State) (part : Nat) : Nat × State :=
  match s.partition? part with
  | none => (0, s)
  | some p => p.sites.foldl (fun a x => let m := a.2.mergeLog x; (a.1 + m.1, m.2)) (0, s)

/-- A group entry that a run holds no longer (R336). -/
def Group.free (g : Group) (r : Run) : Group :=
  if g.ref.part == r.part && g.run == some r.ctx then { g with run := none } else g

/-- The harvest itself: the outcome is that of the run's end. -/
def State.harvestRun (s : State) (r : Run) (outcome : Nat) : State :=
  let cores := s.regionCores r
  let s := if outcome = 0 then s else s.releaseRun r cores
  let s : State := { s with
    groups := s.groups.map fun g => g.free r
    runs := s.runs.filter fun q => !(q.part == r.part && q.ctx == r.ctx) }
  let s := cores.foldl (fun s c => s.modCore c fun k => k.free r) s
  let m := s.mergeLogs r.part
  let s := r.lease.foldl (fun s x => s.unpin r.part x.base x.len) m.2
  let s := s.unpin r.part (field 56 0 r.saveBase) (if r.saveBase = 0 then 0 else s.saveLength r)
  let s := s.note r.part (.completed r.ctx outcome)
  let c : Completion :=
    { part := r.part, ctx := r.ctx, outcome, start := r.startT, stop := s.wafer, dirty := m.1, cause := r.cause,
      core := r.causeCore }
  s.tell (.completion c)

/-- Whether the steward of some core of a run, switched in or out, is FAULTED (R310). -/
def State.stewardDown (s : State) (r : Run) : Bool :=
  ((s.regionCores r).any fun c => (s.core c).run == some (r.part, r.ctx) && (s.strand c 0).life == .faulted)
    || s.saved.any fun e => e.1 == r.part && e.2.1 == r.ctx && (e.2.2.2.strand 0).life == .faulted

/-- A steward as a launch starts it (R14, R270). -/
def Run.steward (r : Run) (k : Core) : Strand :=
  { Strand.reset with pc := r.entry, life := .running, status := if r.maintenance then 3 else 0 }.setGreg 2 (BitVec.ofNat 64 k.scr)

/-- R335. The launch endpoint creates a partition, whose number is PART, on a rectangle of sites; the reply gives its counts
(R10). -/
def execCreatePartition (rq : Request) (c0 : Nat) (c1 : Nat) (s0 : Nat) (s1 : Nat) (ptroot : Nat) (s : State) : Out :=
  s.endpoint rq opCreate (
    let p : Partition := { num := rq.part, c0, c1, s0, s1, ptroot, slices := [], writeSlot := none }
    let p := { p with slices := s.liveSlices p }
    .next (if s.mayCreate p then
        s.command rq opCreate fun s => { s with partitions := s.partitions ++ [p] }.tell (.data rq opCreate (s.counts? p))
      else s.refuse rq opCreate 0 noIndex))

/-- R335. Revokes keys, clears storage and applies logs before freeing the sites. -/
def execDestroyPartition (rq : Request) (s : State) : Out :=
  s.endpoint rq opDestroy (match s.partition? rq.part with
  | none => .next (s.refuse rq opDestroy 0 noIndex)
  | some p =>
    if s.runs.any fun r => r.part == p.num then .next (s.refuse rq opDestroy 0 noIndex)
    else if s.changes.any fun x => x.asked.part == p.num && x.move.isSome then .next (s.post (.destroyPartition rq))
    else .next (s.command rq opDestroy fun s =>
      let s := (List.range 64).foldl (fun s i => if ((s.keySlot i).key.map Prod.fst) == some p.num then s.clearKey i else s) s
      let s := s.clearSites p
      let s := p.sites.foldl (fun s x => ((s.mergeLog x).2).applyLog x) s
      { s with partitions := s.partitions.filter fun q => q.num != p.num }))

/-- R341. Checks and sets up a run block through steps 1 to 6. -/
def execLaunch (rq : Request) (rb : RunBlock) (s : State) : Out :=
  s.endpoint rq opLaunch (match s.partition? rq.part with
  | none => .next (s.refuse rq opLaunch 0x0104 0)
  | some p => match s.launchRefused rq p rb with
    | some (reason, index) => .next (s.refuse rq opLaunch reason index)
    | none =>
      if !s.regionReady p rb then .next (s.refuse rq opLaunch 0 0)
      else match s.freeContext p.num with
        | none => .next (s.refuse rq opLaunch 0x0201 noIndex)
        | some ctx =>
          let r := runFor rb rq ctx
          match badLease r.lease with
          | some i => .next (s.refuse rq opLaunch 0x0202 i)
          | none =>
            let s := s.begins rq opLaunch
            .next ({ s with runs := s.runs ++ [r] }.walkLease p.num ctx))

/-- The write-backs of a region's L1s that its launch waits for are done (R53). -/
def State.regionClean (s : State) (r : Run) : Bool :=
  (s.regionCores r).all fun c => !(s.core c).writingBack && (s.core c).refusedLine?.isNone

/-- A line of a run's sections is written once it is at its home, and the next one follows (R140, R327). -/
def State.writeSectionLine (s : State) (r : Run) (old : Undo) (line : Nat) (rest : List Nat) : State :=
  let again := Event.stewardStart r.part r.ctx
  match (s.slice (s.homeSlice r.part line)).line? r.part line, s.lineAtHand r.part line with
  | some l, true =>
    let s := State.writeUnits ((s.regionCores r).headD 0) r.part 128 (line * 128) (r.sectionLine line) s
    let s := s.modRun r.part r.ctx fun r => { r with life := .settingUp { old with lines := old.lines ++ [(line, l.data)] } rest }
    if rest.isEmpty then s else s.post again
  | _, _ => (s.touchLine dieAgent 0 (lineAddr line) false r.part line).again again

/-- R341. A region's sections are written; once it is set up its start value is proposed; at the agreed CALENDS every steward
begins at the entry. -/
def execStewardStart (part : Nat) (run : Nat) (s : State) : Out :=
  match s.run? part run with
  | none => .next s
  | some r =>
    let cores := s.regionCores r
    match r.life with
    | .settingUp old (l :: rest) => .next (s.writeSectionLine r old l rest)
    | .settingUp old [] =>
      if s.regionClean r then
        let t := s.agreed
        .next ((s.modRun part run fun r => { r with life := .agreeing old [], startT := t, issueFrom := t }).propose r)
      else
        .next ((s.modRun part run fun r => { r with startT := s.wafer + 65536 }).posts
          ((cores.filter fun c => (s.core c).refusedLine?.isSome).map Event.writebackRetry))
    | .starting =>
      if s.wafer.toNat < r.startT.toNat then .next s
      else
        let s := cores.foldl (fun s c => s.modCore c fun k => k.setStrand 0 (r.steward k)) s
        .next ((s.modRun part run fun r => { r with life := .live }).fulfil r.asked opLaunch)
    | _ => .next s

/-- The partition runtime has ended a run on a trap of strand n of core c that it does not handle: the control die stops the
run, with that trap's code and strand (R265, R342). -/
def State.runtimeEnds (s : State) (part ctx c n : Nat) : State :=
  if (s.core c).run = some (part, ctx) then
    (s.modRun part ctx fun r =>
      { r with cause := (s.strand c n).tcause.toNat % 256, causeCore := s.nameOf c * 16 + n % 16 }).stopRun part ctx 4
  else s

/-- R342. The host ends a run, stopping its region and harvesting it; or the partition runtime does, `trapped` being the core
and the strand whose trap it does not handle (R265; log 34). -/
def execEndRun (rq : Request) (run : Nat) (trapped : Option (Nat × Nat)) (s : State) : Out :=
  match trapped with
  | some (c, n) => .next (s.runtimeEnds rq.part run c n)
  | none => s.endpoint rq opEnd (match s.run? rq.part run with
    | none => .next (s.refuse rq opEnd 0 noIndex)
    | some r => match r.life with
      | .stopped _ => .next (s.refuse rq opEnd 0 noIndex)
      | _ => .next (s.command rq opEnd fun s => s.stopRun rq.part run (if s.stewardDown r then 3 else 2)))

/-- R340. Places a host value in a core's host-message queue. -/
def execHostmsg (rq : Request) (name : Nat) (v : Word) (s : State) : Out :=
  s.endpoint rq opHostmsg (
  let no := Host.Outcome.next (s.refuse rq opHostmsg 0 noIndex)
  match s.named? rq.part name with
  | none => no
  | some c =>
    let k := s.core c
    if (k.run.map Prod.fst) = some rq.part then
      if 8 ≤ k.hostmsg.length then no
      else .next (s.command rq opHostmsg fun s => (s.modCore c fun k => { k with hostmsg := k.hostmsg ++ [v] }).wake c 0)
    else match s.saved.find? fun e => e.1 == rq.part && e.2.2.1 == c with
      | none => no
      | some (_, ctx, _, q) =>
        if 8 ≤ q.hostmsg.length then no
        else .next (s.command rq opHostmsg fun s => { s with saved := s.saved.map fun e =>
          if e.1 == rq.part && e.2.1 == ctx && e.2.2.1 == c then
            (rq.part, ctx, c, { e.2.2.2 with hostmsg := e.2.2.2.hostmsg ++ [v] })
          else e }))

/-- R331. Ends a lease: merges dirty logs, clears PIN and posts the completion message. -/
def execHarvest (part : Nat) (run : Nat) (s : State) : Out :=
  match s.run? part run with
  | none => .next s
  | some r => match r.life with
    | .live => .next (if s.runComplete r then s.harvestRun r 0 else s)
    | .stopped o =>
      if (s.regionCores r).any fun c => (s.core c).run = some (part, run) then .next s
      else .next (s.harvestRun r o)
    | _ => .next s

/-- R329. The host refuses the page fault of a launch, which the message named by its run context and page, and the launch is
refused at step 3. -/
def execPageFaultRefusal (rq : Request) (run va : Nat) (s : State) : Out :=
  s.endpoint rq opMap (match (s.run? rq.part run).bind fun r => (s.waitsFor r).map fun g => (r, g) with
  | none => .next s
  | some (r, g) => .next (if g.1 = va then (s.dropRun rq.part run).refuse r.asked opLaunch 0x0202 g.2.2.2 else s))

end Sys2Proof.Machine
end

