-- ==== Sys2Proof/Machine/EvLease.lean ====
section
/-! DEFINITION. The lease and group-table endpoints (R324 to R333, R336, R339). -/

namespace Sys2Proof.Machine

/-- Whether a virtual address is one (R49). -/
def isVirtual (va : Word) : Bool := field 63 63 va = 1 && field 62 57 va = 0

/-- Whether a run's lease covers a page of [va, va + n): a run that still waits for its pages has none yet (R329, R330). -/
def State.pinnedPage (s : State) (part va n : Nat) : Bool :=
  s.runs.any fun r => r.part == part && (match r.life with
    | .paging _ => false
    | _ => true)
  && (r.lease.any (fun x => overlaps x.base x.len va n)
    || (r.saveBase != 0 && overlaps (field 56 0 r.saveBase) (s.saveLength r) va n))

/-- Append an entry to the invalidation log of every reticle of a partition; the control die makes the slices apply a log of
2,048 entries (R333). -/
def State.invalidate (s : State) (p : Partition) (va ps : Nat) : State :=
  (p.sites.filter Config.isCompute).foldl (fun s x =>
    let r := s.reticle x
    let w : Word := BitVec.ofNat 64 (r.seq % 2 ^ 15 * 2 ^ 49 + ps * 2 ^ 45 + va / 2 ^ (12 + ps) * 2 ^ ps % 2 ^ 45)
    let s := s.setReticle x { r with invLog := r.invLog ++ [w], seq := r.seq + 1 }
    if 2048 ≤ r.invLog.length + 1 && !s.agenda.contains (.invalidationLogApply x) then s.post (.invalidationLogApply x) else s) s

/-- Every invalidation log of a partition has room for an entry (R333). -/
def State.logRoom (s : State) (p : Partition) : Bool := p.sites.all fun x => (s.reticle x).invLog.length < 4096

/-! ### Changes that wait for the slices (R333) -/

/-- The change a request has begun. -/
def State.change? (s : State) (rq : Request) (op : Nat) : Option Change := s.changes.find? fun x => x.asked == rq && x.op == op

/-- A change waits until every slice has applied what has been appended by now; e looks again. -/
def State.await (s : State) (rq : Request) (op : Nat) (p : Partition) (e : Event) : State :=
  let marks := (p.sites.filter Config.isCompute).map fun x => (x, (s.reticle x).seq)
  let s : State := { s with changes := s.changes ++ [{ asked := rq, op, marks, move := none }] }
  s.post e

def State.dropChange (s : State) (x : Change) : State := { s with changes := s.changes.filter fun y => y != x }

/-- A change whose entries are applied is done; else e looks again. -/
def State.poll (s : State) (x : Change) (e : Event) (after : State → State) : State :=
  if s.logsApplied x.marks then after ((s.dropChange x).fulfil x.asked x.op) else s.post e

/-- A launch that waits for pages looks again (R329). -/
def State.walkLeases (s : State) (part : Nat) : State :=
  (s.runs.filter fun r => r.part == part).foldl (fun s r => s.walkLease part r.ctx) s

/-- A leaf as an entry without PIN and D (R325). -/
def leafEntry (l : Leaf) : Nat :=
  1 + 4 + (if l.writable then 8 else 0) + (if l.executable then 16 else 0) + l.ps % 16 * 2 ^ 6 + l.tier % 4 * 2 ^ 10
    + l.frame % 2 ^ 44 * 2 ^ 12

/-- The level a page of a size stands at (R326). -/
def leafLevel (ps : Nat) : Nat := if 9 ≤ ps then 1 else 0

/-- Clear a new table page. -/
def State.newTable (s : State) (frame : Nat) : State :=
  { s with mem := s.mem.filter fun e => !(tierKey 0 frame ≤ e.1 && e.1 < tierKey 0 frame + 4096) }

/-- The entry of a page that is being moved, as it stood. -/
def Move.entry (m : Move) : Pte := { raw := m.raw, at_ := m.at_ }

/-- The entry with the new frame. -/
def Move.target (m : Move) : Pte := { raw := m.raw - m.entry.frame * 4096 + m.frame % 2 ^ 44 * 4096, at_ := m.at_ }

/-- The entries whose frames stand behind an address: its leaf's, or the old and the new one of a page that is being moved. -/
def State.framesOf (s : State) (part va : Nat) : List Pte :=
  (s.leafOf part va).toList ++ s.changes.flatMap fun x => match x.move with
    | none => []
    | some m => if x.asked.part == part && overlaps m.page (2 ^ (12 + m.ps)) va 1 then [m.entry, m.target] else []

/-- Whether a lease holds a byte of 4 KiB of first-tier memory (R324). -/
def State.leasesFrame (s : State) (p : Partition) (at_ : Nat) : Bool :=
  s.runs.any fun r => r.part == p.num && (leasePages r.lease).any fun g => (s.framesOf p.num g.1).any fun e =>
    let size := 2 ^ (12 + e.ps)
    e.tier == 0 && overlaps (e.frame * 4096 / size * size) size at_ 4096

/-- Go down from a table to the entry of an address at a level, making the table pages that are missing from those the
host allocated (log 12). None where a leaf stands in the way or a table page is wanting. -/
def State.tableFor (s : State) (p : Partition) (va target : Nat) : Nat → Nat → Nat → List Nat → Option (Nat × State)
  | 0, _, _, _ => none
  | fuel + 1, level, table, spare =>
    if level = target then some (table, s)
    else
      let e := s.pte table level va
      if e.good level then
        if e.leaf then none else s.tableFor p va target fuel (level - 1) (e.frame * 4096) spare
      else match spare with
        | [] => none
        | t :: rest =>
          let ok := t % 4096 = 0 && p.ownsFrame { raw := t / 4096 * 4096, at_ := 0 } && !s.leasesFrame p t
          if !ok then none
          else State.tableFor ((s.newTable t).store (tierKey 0 e.at_) 8 (1 + t / 4096 * 4096)) p va target fuel (level - 1) t rest

/-- The valid leaves that a leaf's copies would replace, and whether a table page stands there. -/
def State.replaced (s : State) (e : Pte) (level : Nat) : List Pte × Bool :=
  let old := (e.copies.map fun a => ({ raw := s.load (tierKey 0 a) 8, at_ := a } : Pte)).filter fun x => x.good level
  (old.filter Pte.leaf, old.any fun x => !x.leaf)

/-- The serials of a frame's lines end: at its page's first use their values are not defined (R87, log 8). -/
def State.firstUse (s : State) (e : Pte) (va : Nat) : State :=
  let lo := (e.cached va).key (va / 2 ^ (12 + e.ps) * 2 ^ (12 + e.ps)) / 128
  { s with serials := s.serials.filter fun x => !(lo ≤ x.1 && x.1 < lo + 2 ^ (5 + e.ps)) }

/-- Map a page whose table stands: every copy of a leaf that the new one replaces a part of is cleared, so that no leaf is
left with copies that differ (R325, R326, R333). Whether a leaf was replaced; none where a table page stands there, or a leaf
that a lease covers (R330). -/
def State.putLeaf (s : State) (p : Partition) (va : Nat) (l : Leaf) (table : Nat) : Option (Bool × State) :=
  let level := leafLevel l.ps
  let e : Pte := { raw := leafEntry l, at_ := table + 8 * (va / 2 ^ (12 + 9 * level) % 512) }
  let old := s.replaced e level
  let base (x : Pte) : Nat := va / 2 ^ (12 + x.ps) * 2 ^ (12 + x.ps)
  if old.2 || old.1.any fun x => s.pinnedPage p.num (base x) (2 ^ (12 + x.ps)) then none
  else
    let s := old.1.foldl (fun s x => s.writeLeaf x 0) s
    let s := (s.writeLeaf e e.raw).firstUse e va
    some (if old.1.isEmpty then (false, s) else (true, s.invalidate p va (max l.ps ((old.1.map Pte.ps).foldl max 0))))

/-- Copy n bytes between keys (R330 step 4). -/
def State.copyCells (s : State) (from_ to_ : Nat) : Nat → State
  | 0 => s
  | n + 1 => (s.copyCells from_ to_ n).setByte (to_ + n) (s.byte (from_ + n))

/-- What records of lines become when their page moves: those of the old frame are copied to the new one. -/
def movedKeys {α : Type} (from_ to_ n : Nat) (key : α → Nat) (set : α → Nat → α) (l : List α) : List α :=
  let inside (lo k : Nat) : Bool := lo / 128 ≤ k && k < (lo + n) / 128
  (l.filter fun x => !inside to_ (key x)) ++ (l.filter fun x => inside from_ (key x)).map fun x => set x (key x - from_ / 128 + to_ / 128)

/-! ### MOVE (R330) -/

/-- The lines of a page that a slice holds. -/
def Move.holds (m : Move) (part : Nat) (l : SliceLine) : Bool := l.part == part && overlaps m.page (2 ^ (12 + m.ps)) (l.line * 128) 128

/-- Steps 1 and 2: the entry has V = 0, the page is appended to every log, and the slices apply the logs. -/
def State.beginMove (s : State) (rq : Request) (p : Partition) (m : Move) (e : Event) : State :=
  let s := (s.begins rq opMove).writeLeaf m.entry (m.raw / 2 * 2)
  let s := s.invalidate p m.page m.ps
  let sites := p.sites.filter Config.isCompute
  let marks := sites.map fun x => (x, (s.reticle x).seq)
  let s : State := { s with changes := s.changes ++ [{ asked := rq, op := opMove, marks, move := some m }] }
  (s.posts (sites.map Event.invalidationLogApply)).post e

/-- Step 3: every slice writes its dirty lines of the page to the old frame, keeping them, and drops its translation. -/
def State.flushMove (s : State) (part : Nat) (m : Move) : State :=
  s.overSlices part fun k s =>
    let s := ((s.slice k).lines.filter fun l => m.holds part l && l.dirty != 0).foldl (fun s l =>
      (s.writeLine l).modSlice k fun sl => sl.putLine { l with dirty := 0 }) s
    s.modSlice k fun sl => { sl with tcache := sl.tcache.filter fun t => !overlaps m.page (2 ^ (12 + m.ps)) t.va (2 ^ (12 + t.ps)) }

/-- Steps 4 and 5: the frame is copied, with what is recorded of its lines, and the entry names the new one; PIN is 1 while
a lease covers the page. The slices' lines belong to the new frame. -/
def State.endMove (s : State) (part : Nat) (m : Move) : State :=
  let size := 2 ^ (12 + m.ps)
  let from_ := (m.entry.cached m.page).key m.page
  let to_ := (m.target.cached m.page).key m.page
  let s := s.copyCells from_ to_ size
  let s := { s with
    serials := movedKeys from_ to_ size (fun x => x.1) (fun x k => (k, x.2)) s.serials
    lineKeys := movedKeys from_ to_ size (fun x => x.1) (fun x k => (k, x.2)) s.lineKeys
    poison := movedKeys from_ to_ size (fun x => x) (fun _ k => k) s.poison }
  let s := s.overSlices part fun k s => s.modSlice k fun sl =>
    { sl with lines := sl.lines.map fun l => if m.holds part l then { l with phys := l.phys - from_ + to_ } else l }
  let v := m.target.raw / 4 * 4 + (if s.leased part m.page size then 3 else 1)
  s.writeLeaf m.entry v

/-- A MOVE goes on: after the slices have applied the logs, step 3, and then steps 4 and 5. -/
def State.goOnMove (s : State) (x : Change) (m : Move) (e : Event) : State :=
  let part := x.asked.part
  if !s.logsApplied x.marks then s.post e
  else if m.flushed then
    (((s.endMove part m).dropChange x).fulfil x.asked opMove).walkLeases part
  else
    let s := s.flushMove part m
    let s : State := { s with changes := s.changes.map fun y => if y == x then { x with move := some { m with flushed := true } } else y }
    s.post e

/-- The lease changes that stand are completed: what a reset makes of them. -/
def State.settleChanges (s : State) : State :=
  s.changes.foldl (fun s x =>
    let part := x.asked.part
    let s := x.marks.foldl (fun s m => s.applyLog m.1) s
    let s := match x.move with
      | none => s
      | some m => (if m.flushed then s else s.flushMove part m).endMove part m
    (s.dropChange x).fulfil x.asked x.op) s

/-! ### The lease endpoint -/

/-- A request on a mapped page of a partition; it waits while the page is being moved, and is refused where none is mapped. -/
def State.onPage (s : State) (rq : Request) (op : Nat) (va : Word) (e : Event) (go : Partition → Pte → Out) : Out :=
  let a := field 56 0 va
  if s.moving rq.part a then .next (s.post e)
  else match s.partition? rq.part, s.leafOf rq.part a with
    | some p, some x => if isVirtual va then go p x else .next (s.refuse rq op 0 noIndex)
    | _, _ => .next (s.refuse rq op 0 noIndex)

/-- R329. The lease endpoint maps a page with the size the host gives. -/
def execMapPage (rq : Request) (va : Word) (leaf : Leaf) (tables : List Nat) (s : State) : Out :=
  s.endpoint rq opMap (
  let again := Event.mapPage rq va leaf tables
  match s.change? rq opMap, s.partition? rq.part with
  | some x, _ => .next (s.poll x again fun s => s.walkLeases rq.part)
  | none, none => .next (s.refuse rq opMap 0 noIndex)
  | none, some p =>
    let size := 2 ^ (12 + leaf.ps)
    let a := field 56 0 va
    let e : Pte := { raw := leafEntry leaf, at_ := 0 }
    let no := Host.Outcome.next (s.refuse rq opMap 0 noIndex)
    let stands := (s.leafOf p.num a).any fun x => x.raw / 64 * 64 + x.raw % 32 / 4 * 4 + 1 == e.raw
    if !isVirtual va || 15 < leaf.ps || 2 < leaf.tier || a % size ≠ 0 || !p.ownsFrame e then no
    else if s.movingIn p.num a size || !s.logRoom p then .next (s.post again)
    else if stands then .next ((s.command rq opMap fun s => s).walkLeases p.num)
    else if s.pinnedPage p.num a size then no
    else match (s.accept rq opMap).tableFor p a (leafLevel leaf.ps) 5 4 p.ptroot tables with
      | none => no
      | some (t, u) => match u.putLeaf p a leaf t with
        | none => no
        | some (true, u) => .next ((u.tell (.accepted rq opMap)).await rq opMap p again)
        | some (false, u) => .next ((u.fulfil rq opMap).walkLeases p.num))

/-- R333. Unmaps a page and logs the invalidation. -/
def execUnmapPage (rq : Request) (va : Word) (s : State) : Out :=
  s.endpoint rq opUnmap (
  let again := Event.unmapPage rq va
  match s.change? rq opUnmap with
  | some x => .next (s.poll x again id)
  | none => s.onPage rq opUnmap va again fun p e =>
    let size := 2 ^ (12 + e.ps)
    let a := field 56 0 va / size * size
    if s.pinnedPage p.num a size then .next (s.refuse rq opUnmap 0 noIndex)
    else if !s.logRoom p then .next (s.post again)
    else .next ((((s.begins rq opUnmap).writeLeaf e 0).invalidate p a e.ps).await rq opUnmap p again))

/-- R330. Moves a page to a new frame: one of at most 2 MiB while it is leased. -/
def execMovePage (rq : Request) (va : Word) (frame : Nat) (s : State) : Out :=
  s.endpoint rq opMove (
  let again := Event.movePage rq va frame
  match s.change? rq opMove with
  | some x => match x.move with
    | some m => .next (s.goOnMove x m again)
    | none => .next s
  | none => s.onPage rq opMove va again fun p e =>
    let size := 2 ^ (12 + e.ps)
    let m : Move := { page := field 56 0 va / size * size, ps := e.ps, raw := e.raw, at_ := e.at_, frame, flushed := false }
    if (9 < e.ps && s.pinnedPage p.num m.page size) || !p.ownsFrame m.target || s.keptBack p m.target then
      .next (s.refuse rq opMove 0 noIndex)
    else if !s.logRoom p then .next (s.post again)
    else .next (s.beginMove rq p m again))

/-- R333. Clears a page's dirty bit and logs the invalidation. -/
def execClearD (rq : Request) (va : Word) (s : State) : Out :=
  s.endpoint rq opClearD (
  let again := Event.clearD rq va
  match s.change? rq opClearD with
  | some x => .next (s.poll x again id)
  | none => s.onPage rq opClearD va again fun p e =>
    let size := 2 ^ (12 + e.ps)
    let a := field 56 0 va / size * size
    if s.pinnedPage p.num a size then .next (s.refuse rq opClearD 0 noIndex)
    else if !e.d then .next (s.command rq opClearD fun s => s)
    else if !s.logRoom p then .next (s.post again)
    else .next ((((s.begins rq opClearD).writeLeaf e (e.raw - 32)).invalidate p a e.ps).await rq opClearD p again))

/-- R339. Returns dirty-page information to the host. -/
def execDirtyQuery (rq : Request) (va : Word) (s : State) : Out :=
  s.endpoint rq opDirty (s.onPage rq opDirty va (.dirtyQuery rq va) fun _ e =>
    .next (s.command rq opDirty fun s => s.tell (.data rq opDirty [if e.d then 1 else 0])))

/-- R336. Writes a group-table entry that no run holds. -/
def execGroupTableWrite (rq : Request) (idx : Nat) (im : GroupImage) (s : State) : Out :=
  s.endpoint rq opGroupWrite (
  let r : GroupRef := { part := rq.part, idx }
  if (s.partition? rq.part).isNone || 256 ≤ idx || (s.groupTrap r im).isSome || im.members.length ≠ im.count then
    .next (s.refuse rq opGroupWrite 0 noIndex)
  else .next (s.command rq opGroupWrite fun s => s.putGroup r im none ((s.groupMembers rq.part im).getD [])))

/-- R339. Reads a group-table entry that no run holds. -/
def execGroupTableRead (rq : Request) (idx : Nat) (s : State) : Out :=
  s.endpoint rq opGroupRead (
  let r : GroupRef := { part := rq.part, idx }
  if (s.partition? rq.part).isNone || 256 ≤ idx || s.groupHeld r then .next (s.refuse rq opGroupRead 0 noIndex)
  else
    let im : GroupImage := ((s.group? r).map Group.image).getD { count := 0, wait := 0, zeros := 0, members := [] }
    .next (s.command rq opGroupRead fun s => s.tell (.data rq opGroupRead (im.count :: im.wait :: im.members))))

end Sys2Proof.Machine
end

