-- ==== Sys2Proof/Machine/EvKey.lean ====
section
/-! DEFINITION. The key and journal endpoints (R338, R339, R354, R370). -/

namespace Sys2Proof.Machine

/-- Whether the sender of a command may act on a slot: the module (PART 0xFFFF), or the partition that holds it (R338, R364,
log 22). -/
def State.slotFor (s : State) (part slot : Nat) : Bool :=
  slot < 64 && (part == 0xFFFF || match (s.keySlot slot).key with
    | none => true
    | some k => k.1 == part)

/-- R370. Unwraps a wrapped key and loads it into a key slot. -/
def execKeyLoad (rq : Request) (wrapped : Nat) (slot : Nat) (target : Nat) (s : State) : Out :=
  s.endpoint rq opKeyLoad (
  let no := Host.Outcome.next (s.refuse rq opKeyLoad 0 noIndex)
  match Config.unwrapKey wrapped with
  | none => no
  | some key =>
    if 64 ≤ slot || (s.keySlot slot).key.isSome || (rq.part ≠ 0xFFFF && rq.part ≠ target) then no
    else .next (s.command rq opKeyLoad fun s => s.loadKey slot target key))

/-- R338. Clears a key slot and raises its generation. -/
def execKeyClear (rq : Request) (slot : Nat) (s : State) : Out :=
  s.endpoint rq opKeyClear (
  if !s.slotFor rq.part slot then .next (s.refuse rq opKeyClear 0 noIndex)
  else .next (s.command rq opKeyClear fun s => s.clearKey slot))

/-- R338. Sets the partition's write key slot. -/
def execSetWriteSlot (rq : Request) (slot : Nat) (s : State) : Out :=
  s.endpoint rq opWriteSlot (
  if 64 ≤ slot || ((s.keySlot slot).key.map Prod.fst) ≠ some rq.part || (s.partition? rq.part).isNone then
    .next (s.refuse rq opWriteSlot 0 noIndex)
  else .next (s.command rq opWriteSlot fun s => { s with
    partitions := s.partitions.map fun p => if p.num == rq.part then { p with writeSlot := some slot } else p }))

/-- What a journal READ returns: the entries of its PART from a host SEQ on; for PART 0xFFFF every entry, and the start
records (R339, R354). -/
def State.journalFor (s : State) (rq : Request) (seq : Nat) : ToHost :=
  .journal rq (s.journal.filter fun e => seq ≤ e.seq && (rq.part == 0xFFFF || e.part == rq.part))
    (if rq.part = 0xFFFF then s.startRecords else [])

/-- R339. Returns journal entries from a sequence number. -/
def execJournalRead (rq : Request) (seq : Nat) (s : State) : Out :=
  s.endpoint rq opJournal (.next (s.command rq opJournal fun s => s.tell (s.journalFor rq seq)))

/-- R354. Replaces a start record's ACTION with 0 or 1. -/
def execStartRecord (rq : Request) (chip : Chip) (action : Nat) (s : State) : Out :=
  s.moduleEndpoint rq opStartRecord (
  if action < 2 && s.startRecords.any fun r => r.chip == chip then
    .next (s.command rq opStartRecord fun s => { s with
      startRecords := s.startRecords.map fun r => if r.chip == chip then { r with action } else r })
  else .next (s.refuse rq opStartRecord 0 noIndex))

end Sys2Proof.Machine
end

