-- ==== Sys2Proof/Machine/EvBringup.lean ====
section
/-! DEFINITION. Bring-up: the procession, wavefronts, dead bonds and routing tables (R350 to R355). -/

namespace Sys2Proof.Config

/-- Whether a routing table's CRC-32C holds (R355; log 14). -/
opaque crcGood : RoutingTable → Nat → Bool

end Sys2Proof.Config

namespace Sys2Proof.Machine

/-! ### The procession (R351, R354) -/

/-- The start record of a chiplet. -/
def State.record? (s : State) (chip : Chip) : Option StartRecord := s.startRecords.find? fun r => r.chip == chip

/-- A start that fails writes a start record: the first failure at a step sets ACTION 2, or 3 for a bond; the second
sets 1 (R354). -/
def State.failRecord (s : State) (chip : Chip) (state fail : Nat) : State :=
  let old := (s.record? chip).filter fun r => r.state == state
  let r : StartRecord :=
    { chip, state, fail, action := if old.isSome then 1 else if fail = 5 then 3 else 2
      attempts := ((old.map StartRecord.attempts).getD 0 + 1) % 256 }
  { s with startRecords := r :: s.startRecords.filter fun x => x.chip != chip }

/-- A start record with a given ACTION (R357). -/
def State.actionRecord (s : State) (chip : Chip) (fail action : Nat) : State :=
  let r : StartRecord :=
    { chip, state := (s.bringup chip).code, fail, action, attempts := ((s.record? chip).map StartRecord.attempts).getD 0 }
  { s with startRecords := r :: s.startRecords.filter fun x => x.chip != chip }

/-- A block is capped at a clock step, or at a lower one that it has (R354, R359). -/
def State.capBlock (s : State) (site block n : Nat) : State :=
  let b := s.block (4 * site + block)
  s.setBlock (4 * site + block) { b with cap := max b.cap n }

/-- The next lower clock step than a block's own, the lowest being 2 (R354, R359). -/
def Block.nextLower (b : Block) : Nat := min 2 (max b.step b.cap + 1)

/-- The step a start record acts at: the one after its STATE, and the last one for the record of a READY chiplet (R354,
log 23). -/
def StartRecord.step (r : StartRecord) : Nat := min (r.state + 1) 6

/-- The slices of a site go on, if they serve lines now (R351, R361). -/
def State.wakeSlices (s : State) (site : Nat) : State := (List.range 32).foldl (fun s i => s.serveAll (32 * site + i)) s

/-- A service reticle that becomes READY reports the parts of its second-tier devices that no port window reaches (R365). -/
def State.tellUnused (s : State) (chip : Chip) : State :=
  if chip.chip ≠ 3 then s
  else ((List.range 8).map fun j => 8 * Config.serviceSites.idxOf chip.site + j).foldl (fun s p =>
    if Config.secondTierCapacity p ≤ 2 ^ 40 then s else s.tell (.unused p (Config.secondTierCapacity p - 2 ^ 40))) s

/-- A chiplet passes the step to a state, which the journal records, applying its start record's ACTION there and clearing
the record; any other state lets nothing happen. A stack and a control die that are READY let slices serve (R351, R354). -/
def State.advance (s : State) (chip : Chip) (from_ to_ : Bringup) : State :=
  let k := s.chiplet chip
  if k.state ≠ from_ then s
  else
    let here := (s.record? chip).filter fun r => r.step == to_.code
    let act := (here.map StartRecord.action).getD 0
    if act = 1 then s.fence chip
    else
      let s := if act = 2 && chip.chip = 0 then s.capBlock chip.site chip.index (s.block (4 * chip.site + chip.index)).nextLower else s
      let s := (s.setChip chip { k with state := to_, halfRate := k.halfRate || act == 3 }).note 0xFFFF (.bringup chip to_.code)
      let s := if here.isSome then { s with startRecords := s.startRecords.filter fun r => r.chip != chip } else s
      if to_ = .ready then (s.wakeSlices chip.site).tellUnused chip else s

/-- A chiplet has what its parent forwards: a service reticle has its own reference, any other a parent at LINKS_TRAINED
or above (R351). -/
def State.fed (s : State) (chip : Chip) : Bool :=
  chip.chip == 3 || match (s.chiplet chip).parent with
    | none => false
    | some p => 3 ≤ (s.bringup p).code && (s.bringup p) != .fenced

/-- The chiplet a router of the wafer stands in: one for a service site; a block or, in the last row, a memory stack's base
die for a compute site (R21, R349). -/
def chipOf (r : Nat × Nat) : Chip :=
  let site := 6 * (r.2 / 11) + r.1 / 8
  if !Config.isCompute site then { site, chip := 3, index := 0 }
  else if r.2 % 11 = 10 then { site, chip := 1, index := r.1 % 8 / 4 }
  else { site, chip := 0, index := 2 * (r.2 % 11 / 5) + r.1 % 8 / 4 }

/-- The links of a block to routers of other chiplets, each from inside the block (R21). -/
def blockLinks (site b : Nat) : List ((Nat × Nat) × (Nat × Nat)) :=
  let x := 8 * (site % 6) + 4 * (b % 2)
  let y := 11 * (site / 6) + 5 * (b / 2)
  let ends (p q : Nat × Nat) := (p, q)
  ((List.range 5).flatMap fun j =>
      (if x = 0 then [] else [ends (x, y + j) (x - 1, y + j)]) ++ (if 48 ≤ x + 4 then [] else [ends (x + 3, y + j) (x + 4, y + j)]))
    ++ (List.range 4).flatMap fun i =>
      (if y = 0 then [] else [ends (x + i, y) (x + i, y - 1)]) ++ [ends (x + i, y + 4) (x + i, y + 5)]

/-- A chiplet has a link that is not dead to the part of the wafer that is up: for a block, to a neighbour that forwards
clock and configuration (R351, R353, log 23). -/
def State.linked (s : State) (chip : Chip) : Bool :=
  chip.chip != 0 || (blockLinks chip.site chip.index).any fun e =>
    let up := s.bringup (chipOf e.2)
    3 ≤ up.code && up != .fenced && !s.deadBond e.1 e.2

/-- The control die of a chiplet's site can record it: a compute site's is READY, or is the chiplet itself (R351). -/
def State.recordable (s : State) (chip : Chip) : Bool :=
  2 ≤ chip.chip || s.bringup { site := chip.site, chip := 2, index := 0 } == .ready

/-- Routers of the module, 48 by 77 on each of two networks (R10, R355). -/
def routers : Nat := 7392

/-- An update of the routing tables ends without effect (R355). -/
def State.abortRouting (s : State) : State := { s with update := none }.note 0xFFFF .routingAborted

/-- R351. The module's 4.8 V becomes good and bring-up limits start. -/
def execModulePowerGood (s : State) : Out :=
  .next { s with modulePower := true }

/-- R351. A chiplet's rails are within 3% of nominal. -/
def execPowerGood (chip : Chip) (s : State) : Out :=
  .next (if s.modulePower then s.advance chip .dark .powerGood else s)

/-- R351. A chiplet's PLL locks to its parent's reference. -/
def execClockLocked (chip : Chip) (s : State) : Out :=
  .next (if s.fed chip then s.advance chip .powerGood .clockLocked else s)

/-- R351. Every bond group has trained or been marked dead; a block with no link left to the part of the wafer that is up
stays (R353). -/
def execLinksTrained (chip : Chip) (s : State) : Out :=
  .next (if s.linked chip then s.advance chip .clockLocked .linksTrained else s)

/-- R351. The configuration image is loaded and its checksum holds. -/
def execConfigLoaded (chip : Chip) (s : State) : Out :=
  .next (if s.fed chip then s.advance chip .linksTrained .configLoaded else s)

/-- R351. Array self-test passes and the remap table is written. -/
def execSelfTestPassed (chip : Chip) (live : List Nat) (s : State) : Out :=
  if s.bringup chip ≠ .configLoaded then .next s
  else if chip.chip ≠ 0 then .next (s.advance chip .configLoaded .selfTestPassed)
  else
    let k := 4 * chip.site + chip.index
    let live := (List.range 20).filter fun p => live.contains p
    let s := s.setBlock k { s.block k with live }
    .next (if (s.block k).nameCount < 4 then (s.failRecord chip 4 3).fence chip
      else s.advance chip .configLoaded .selfTestPassed)

/-- R351. The control die records the chiplet as READY. -/
def execChipReady (chip : Chip) (s : State) : Out :=
  .next (if s.recordable chip then s.advance chip .selfTestPassed .ready else s)

/-- R351. A procession step overruns its limit and the chiplet is FENCED. -/
def execBringupLimitOverrun (chip : Chip) (why : Nat) (s : State) : Out :=
  let k := s.chiplet chip
  .next (if !s.modulePower || k.state = .ready || k.state = .fenced then s else (s.failRecord chip k.state.code why).fence chip)

/-- The origin of a chiplet's clock: its parent's, or, for a service reticle that has its own reference and no parent, its own
number (R351, R352). -/
def State.originOf (s : State) (chip : Chip) : Option Nat :=
  let k := s.chiplet chip
  if k.parent.isSome then some k.origin
  else if chip.chip = 3 then some (Config.serviceSites.idxOf chip.site)
  else none

/-- R352. A bring-up wavefront from a non-parent neighbour is adopted or refused. `origin` is the number n of the service
reticle SVn at its root. -/
def execWavefrontArrival (chip : Chip) (source : Chip) (origin : Nat) (s : State) : Out :=
  let k := s.chiplet chip
  if k.parent = some source then .next s
  else if 4 ≤ k.state.code then .next (s.note 0xFFFF (.wavefrontRefused chip))
  else match s.originOf chip with
    | none => .next (s.setChip chip { k with parent := some source, origin })
    | some o =>
      if o ≤ origin then .next s
      else if k.state = .dark then .next (s.setChip chip { k with parent := some source, origin })
      else .next ((s.setChip chip { k with state := .powerGood, parent := some source, origin }).note 0xFFFF
        (.bringup chip (Bringup.code .powerGood)))

/-- R353. A bond group failing three training attempts is marked dead. -/
def execBondMarkedDead (bond : Bond) (s : State) : Out :=
  if s.deadBonds.contains bond then .next s
  else .next (({ s with deadBonds := bond :: s.deadBonds }.note 0xFFFF (.bondDead bond)).tables)

/-- R355. A router receives and checks a new routing table and acknowledges. A table of another set ends the update under
way. Once every router has acknowledged, the lead die proposes a commit value to every control die (R311). -/
def execRoutingTableLoad (router set : Nat) (table : RoutingTable) (crc : Nat) (signature : Nat) (s : State) : Out :=
  if !Config.crcGood table crc || !Config.signatureGood set signature then .next s.abortRouting
  else if routers ≤ router then .next s
  else
    let fresh : RoutingUpdate := { set, loaded := [], stop := none, accepted := [] }
    let other := s.update.any fun u => u.set != set
    let s := if other then s.abortRouting else s
    let u := s.update.getD fresh
    let u := { u with loaded := assign router table u.loaded }
    if u.loaded.length < routers || u.stop.isSome then .next { s with update := some u }
    else
      let s : State := { s with update := some { u with stop := some s.agreed } }
      .next (s.posts ((List.range Config.sites).map fun x => Event.intercalationProposal 0xFFFF 0 x))

/-- Every control die has accepted the commit value of an update. -/
def RoutingUpdate.agreed (u : RoutingUpdate) : Bool := (List.range Config.sites).all u.accepted.contains

/-- R355. Every router switches to its new table at the commit value, and the network-select tables follow (R337). -/
def execRoutingTableCommit (s : State) : Out :=
  .next (match s.update with
  | none => s
  | some u => match u.stop with
    | none => s
    | some t =>
      if !u.agreed || s.wafer.toNat < t.toNat then s
      else { s with routing := u.loaded, update := none }.tables)

/-- R355. A missing acknowledgement by T − 8,192 aborts the update everywhere. -/
def execRoutingUpdateAbort (s : State) : Out :=
  .next (if s.update.isSome then s.abortRouting else s)

end Sys2Proof.Machine
end

