-- ==== Sys2Proof/Machine/EvPower.lean ====
section
/-! DEFINITION. Resets, low power, regulators, droop, bond supply and thermal control (R356 to R363). -/

namespace Sys2Proof.Config

/-- The UNIT by which a report names a block's regulator, of the 16 that R307 assigns; it gives the regulators none (log 23). -/
opaque regulatorUnit : Nat

end Sys2Proof.Config

namespace Sys2Proof.Machine

/-! ### Resets (R356) -/

/-- The dirty bytes of a core's L1 are performed at their homes, and its lines become clean (R356). -/
def State.flushL1 (s : State) (c part : Nat) : State :=
  let s := (s.core c).l1.foldl (fun s e =>
    let m := e.2.dirty ||| e.2.sent
    let bits := (List.range 128).foldl (fun a i => if m.getLsbD i then a + 255 * 2 ^ (8 * i) else a) 0
    if m = 0 then s
    else s.homeWrite c (BitVec.ofNat 64 (2 ^ 63 + e.2.line * 128)) (.virt part) (e.2.line * 128) 128 bits e.2.data.toNat) s
  s.modCore c fun k => { k with l1 := k.l1.map fun e =>
    (e.1, { e.2 with dirty := 0, sent := 0, filling := false, stale := 0, evict := false, refused := false }) }

/-- An L1 kept by a cold reset: bytes on their way are again dirty. -/
def Core.keepL1 (k : Core) : Core :=
  { k with l1 := k.l1.map fun e =>
    (e.1, { e.2 with dirty := e.2.dirty ||| e.2.sent, sent := 0, filling := false, stale := 0, evict := false, refused := false }) }

/-- A strand after a reset: `STATUS.MODE` and `TSTATUS.MODE` are left unchanged (R3, R276). -/
def Strand.cleared (t : Strand) : Strand :=
  { Strand.reset with status := t.status &&& 3, tstatus := t.tstatus &&& 3 }

/-- A core after a reset: its L1 and the registers that R275 leaves unchanged stand, everything else has its reset value
(R3, R356). -/
def Core.cleared (k : Core) : Core :=
  { Core.reset with
    strands := k.strands.map Strand.cleared
    calends := k.calends, nextId := k.nextId, scr := k.scr, tvec := k.tvec, pctx := k.pctx, l1 := k.l1, l1Use := k.l1Use }

/-- A group entry after a reset: it is held by no run and no episode is open. -/
def Group.idle (g : Group) : Group :=
  { g with run := none, expected := g.members, arrived := [], redOp := none, redValues := [], seq := 0, unpopped := [] }

/-- What both resets clear (R356): runs end with OUTCOME 2; strands, queues, channels, deques, advent tables, range locks
and eject buffers are cleared, and so is every message in flight. A routing update under way is aborted. -/
def State.resetCommon (s : State) : State :=
  let s := s.runs.foldl (fun s r => s.harvestRun r 2) s
  let s := if s.update.isSome then s.abortRouting else s
  { s with
    agenda := []
    ejected := []
    ejectSections := []
    saved := []
    cores := s.cores.map fun e => (e.1, e.2.cleared)
    clusters := s.clusters.map fun e => (e.1, { e.2 with holder := none, steps := 0, requests := [] })
    slices := s.slices.map fun e => (e.1, { e.2 with filter := [], waiting := [], walks := [] })
    groups := s.groups.map Group.idle }

/-- The procession is repeated from LINKS_TRAINED (R356). -/
def Chiplet.retrain (k : Chiplet) : Chiplet :=
  { k with state := match k.state with
    | .configLoaded => .linksTrained
    | .selfTestPassed => .linksTrained
    | .ready => .linksTrained
    | x => x }

/-! ### Low power (R361) -/

/-- Whether some run stands on blocks of one of the sites. -/
def State.sitesBusy (s : State) (sites : List Nat) : Bool :=
  sites.any fun x => (List.range 4).any fun b => !(s.runsHolding x b).isEmpty

/-- Whether a lease holds a first-tier page of one of the sites (R361). -/
def State.sitesLeased (s : State) (sites : List Nat) : Bool :=
  s.runs.any fun r => (leasePages r.lease).any fun g => match s.leafOf r.part g.1 with
    | none => false
    | some e => e.tier == 0 && sites.contains (e.frame * 4096 / 2 ^ 37)

/-- Sites whose contents are lost (R361): arrays, caches and stacks (log 4). -/
def State.loseSites (s : State) (sites : List Nat) : State :=
  let lost (k : Nat) : Bool :=
    (k < 2 ^ 43 && sites.contains (k / 2 ^ 37)) || (2 ^ 80 ≤ k && sites.contains ((k - 2 ^ 80) / 2 ^ 27))
  { s with
    mem := s.mem.filter fun e => !lost e.1
    serials := s.serials.filter fun e => !lost (e.1 * 128)
    poison := s.poison.filter fun k => !lost (k * 128)
    lineKeys := s.lineKeys.filter fun e => !lost (e.1 * 128)
    cores := s.cores.map fun e => if sites.contains (siteOf e.1) then (e.1, e.2.vacated) else e
    clusters := s.clusters.filter fun e => !sites.contains (e.1 / 64)
    slices := s.slices.filter fun e => !sites.contains (e.1 / 32)
    reticles := s.reticles.filter fun e => !sites.contains e.1
    chiplets := s.chiplets.map fun e =>
      if sites.contains e.1.site && e.2.state != .fenced then (e.1, { e.2 with state := .dark }) else e }

/-! ### Thermal bands (R363) -/

def State.band (s : State) (b : Nat) : Band := s.bands[b % 7]'(Nat.mod_lt _ (by decide))
def State.setBand (s : State) (b : Nat) (v : Band) : State :=
  { s with bands := s.bands.set (b % 7) v (Nat.mod_lt _ (by decide)) }

/-- The blocks of a band: those of the compute sites of one row. -/
def bandBlocks (b : Nat) : List (Nat × Nat) :=
  ((List.range 6).map fun c => 6 * (b % 7) + c).flatMap fun site =>
    if Config.isCompute site then (List.range 4).map fun i => (site, i) else []

/-- A band takes a clock step, and its blocks with it. -/
def State.stepBand (s : State) (b n : Nat) : State :=
  (bandBlocks b).foldl (fun s x => s.setBlock (4 * x.1 + x.2) { s.block (4 * x.1 + x.2) with step := n })
    (s.setBand b { s.band b with step := n })

/-- The partitions that hold blocks of a band. -/
def State.bandParts (s : State) (b : Nat) : List Nat :=
  (s.partitions.filter fun p => (bandBlocks b).any fun x => (p.rel? x.1).isSome).map Partition.num

/-- The lower threshold of a clock step, in thousandths of a degree: a band below it may step up (R363). -/
def stepFloor (step : Nat) : Nat := if step = 0 then 0 else if step = 1 then 85000 else 95000

/-- A tick lies at least n ticks back. -/
def State.longAgo (s : State) (n : Nat) : Option Word → Bool
  | none => false
  | some t => t.toNat + n ≤ s.wafer.toNat

/-! ### Bond supplies (R360) -/

/-- The chiplets at the two ends of a bond. -/
def bondEnds (d : Bond) : List Chip := [chipOf (d.x1, d.y1), chipOf (d.x2, d.y2)]

/-- The block a bond serves: the one at its first router, or else at its second (log 23). -/
def bondBlock (d : Bond) : Option Chip := (bondEnds d).find? fun c => c.chip == 0

/-- The last drops of the bond groups that share a chiplet with a bond, in ascending order (log 23). -/
def State.neighbourDrops (s : State) (d : Bond) : List Nat :=
  sortBy id ((s.bondReadings.filter fun e => e.1 != d && (bondEnds e.1).any (bondEnds d).contains).map fun e => e.2.1)

/-- Whether a drop exceeds the median of the neighbouring groups by more than 40 mV (R360). -/
def State.suspectDrop (s : State) (d : Bond) (drop : Nat) : Bool :=
  let l := s.neighbourDrops d
  (l[l.length / 2]?).any fun m => m + 40 < drop

/-! ### Regulators (R357) -/

/-- The report of a block's regulator. -/
def State.regulatorReport (s : State) (site block kind : Nat) : State :=
  s.report { time := s.wafer, location := location site 0 block (Config.regulatorUnit % 16) 0 0, address := 0, syndrome := 0, cause := 0, kind,
             part := ((s.partAt site).map Partition.num).getD 0xFFFF }

/-- R356. Ends runs and clears strand state while keeping arrays and training. -/
def execWarmReset (rq : Request) (s : State) : Out :=
  s.moduleEndpoint rq opReset (.next (s.command rq opReset fun s =>
    let s := s.settleChanges
    let s := s.cores.foldl (fun s e => match s.partAt (siteOf e.1) with
      | some p => s.flushL1 e.1 p.num
      | none => s) s
    s.resetCommon.note 0xFFFF (.reset false)))

/-- R356. Ends runs, resets registers and repeats the procession from LINKS_TRAINED. -/
def execColdReset (rq : Request) (s : State) : Out :=
  s.moduleEndpoint rq opReset (.next (s.command rq opReset fun s =>
    let s := s.settleChanges
    let s : State := { s with cores := s.cores.map fun e => (e.1, e.2.keepL1) }
    let s := s.resetCommon
    let s : State := { s with
      chiplets := s.chiplets.map fun e => (e.1, e.2.retrain)
      firmware := s.nextFirmware.getD s.firmware
      nextFirmware := none }
    s.note 0xFFFF (.reset true)))

/-- Sites that may be put into a low-power state: compute sites that hold no live run and are in none (R361). -/
def State.mayRest (s : State) (sites : List Nat) : Bool :=
  !s.sitesBusy sites && sites.all fun x => Config.isCompute x && !(s.lowPower.any fun e => e.1 == x)

/-- Sites leave their low-power state: they are routed again, and their slices go on (R361). -/
def State.backFrom (s : State) (sites : List Nat) : State :=
  let s := ({ s with lowPower := s.lowPower.filter fun e => !sites.contains e.1 } : State).tables
  sites.foldl (fun s x => s.wakeSlices x) s

/-- R361. Switches 1 to 4 idle reticles to retention. -/
def execRetentionEntry (rq : Request) (sites : List Nat) (s : State) : Out :=
  s.moduleEndpoint rq opPower (.next (
    if sites.isEmpty || 4 < sites.length || !s.mayRest sites then s.refuse rq opPower 0 noIndex
    else s.command rq opPower fun s => { s with lowPower := sites.map (fun x => (x, false)) ++ s.lowPower }.tables))

/-- R361. Returns retained reticles to READY. -/
def execRetentionExit (rq : Request) (sites : List Nat) (s : State) : Out :=
  s.moduleEndpoint rq opPower (.next (
    if sites.all fun x => s.lowPower.contains (x, false) then s.command rq opPower fun s => s.backFrom sites
    else s.refuse rq opPower 0 noIndex))

/-- R361. Switches more than 4 idle reticles off. -/
def execPowerOff (rq : Request) (sites : List Nat) (s : State) : Out :=
  s.moduleEndpoint rq opPower (.next (
    if sites.length < 5 || !s.mayRest sites || s.sitesLeased sites then s.refuse rq opPower 0 noIndex
    else s.command rq opPower fun s =>
      { s.loseSites sites with lowPower := sites.map (fun x => (x, true)) ++ s.lowPower }.tables))

/-- R361. Closes header switches and repeats the procession. -/
def execPowerOn (rq : Request) (sites : List Nat) (s : State) : Out :=
  s.moduleEndpoint rq opPower (.next (
    if sites.all fun x => s.lowPower.contains (x, true) then
      s.command rq opPower fun s =>
        (s.chiplets.foldl (fun s e => if sites.contains e.1.site then s.advance e.1 .dark .powerGood else s) s).backFrom sites
    else s.refuse rq opPower 0 noIndex))

/-- R357. A failed regulator phase is reported and may cap or fence the block. -/
def execRegulatorPhaseFailure (site : Nat) (block : Nat) (s : State) : Out :=
  let k := 4 * site + block
  let chip : Chip := { site, chip := 0, index := block }
  let n := (s.block k).failedPhases + 1
  let s := s.setBlock k { s.block k with failedPhases := n }
  let s := s.regulatorReport site block 0
  if n ≤ 2 then .next s
  else if n ≤ 4 then .next ((s.capBlock site block 1).actionRecord chip 4 2)
  else .next ((s.actionRecord chip 4 1).fence chip)

/-- R358. A rail droop below 0.589 V stretches the block's clock; the figure goes to telemetry. -/
def execDroopStretch (site : Nat) (block : Nat) (s : State) : Out :=
  let k := 4 * site + block
  let b := s.block k
  .next ((s.setBlock k { b with stretched := some (b.stretched.getD s.wafer) }).tell (.railLow site block true))

/-- R358. A sag lasting more than 1 ms, 2,250,000 ticks, caps the block at clock step 1. -/
def execDroopCap (site : Nat) (block : Nat) (s : State) : Out :=
  .next (if s.longAgo 2250001 (s.block (4 * site + block)).stretched then s.capBlock site block 1 else s)

/-- R358. The block's rail recovers above 0.589 V and its cc return to normal length. -/
def execDroopEnd (site : Nat) (block : Nat) (s : State) : Out :=
  let k := 4 * site + block
  .next ((s.setBlock k { s.block k with stretched := none }).tell (.railLow site block false))

/-- The third reading in a row that is too high makes a bond suspect: its block is fenced, with a start record of FAIL 5,
and the bond is dead (R360). -/
def State.suspect (s : State) (bond : Bond) : State :=
  let s : State := { s with deadBonds := bond :: s.deadBonds.filter fun b => b != bond }
  let s := s.note 0xFFFF (.bondDead bond)
  match bondBlock bond with
  | some chip => (s.failRecord chip (s.bringup chip).code 5).fence chip
  | none => match (bondEnds bond).head? with
    | some chip => (s.failRecord chip (s.bringup chip).code 5).tables
    | none => s.tables

/-- R360. A periodic bond supply reading may mark the bond suspect and fence its block. -/
def execBondSupplyReading (bond : Bond) (drop : Nat) (s : State) : Out :=
  let n := ((s.bondReadings.find? fun e => e.1 == bond).map fun e => e.2.2).getD 0
  let m := if s.suspectDrop bond drop then n + 1 else 0
  let s : State := { s with bondReadings := (bond, drop, m) :: s.bondReadings.filter fun e => e.1 != bond }
  let s := s.tell (.supplyDrop bond drop)
  .next (if m < 3 || s.deadBonds.contains bond then s else s.suspect bond)

/-- R363. A band's hottest sensor sets its clock step or sends MIGRATE; the temperature goes to telemetry. -/
def execThermalReading (band : Nat) (milliC : Nat) (s : State) : Out :=
  let b := s.band band
  let step := max b.step (if 95000 ≤ milliC then 2 else if 85000 ≤ milliC then 1 else 0)
  let s := (s.stepBand band step).setBand band
    { step, milliC
      cool := if milliC < stepFloor step then some (b.cool.getD s.wafer) else none
      hot := if 105000 ≤ milliC then some (b.hot.getD s.wafer) else none }
  let s := s.tell (.temperature (band % 7) milliC)
  .next (if 95000 ≤ milliC then (s.bandParts band).foldl (fun s p => s.tell (.migrate p (band % 7))) s else s)

/-- R363. A band at 105 °C for 10 ms, 22,500,000 ticks, is fenced and its regions stopped. -/
def execThermalFence (band : Nat) (s : State) : Out :=
  let b := s.band band
  if !s.longAgo 22500000 b.hot then .next s
  else .next ((bandBlocks band).foldl (fun s x =>
    let chip : Chip := { site := x.1, chip := 0, index := x.2 }
    if s.bringup chip = .fenced then s else (s.failRecord chip (s.bringup chip).code 6).fence chip)
    (s.setBand band { b with hot := none }))

/-- R363. A band 100 ms, 225,000,000 ticks, below the lower threshold returns one clock step up. -/
def execThermalStepUp (band : Nat) (s : State) : Out :=
  let b := s.band band
  .next (if s.longAgo 225000000 b.cool then
      (s.stepBand band (b.step - 1)).setBand band
        { b with step := b.step - 1, cool := if b.milliC < stepFloor (b.step - 1) then some s.wafer else none }
    else s)

/-- R354. The module loses power, every chiplet goes dark and only the journal and start records in SV0's nonvolatile store survive. -/
def execPowerLoss (s : State) : Out :=
  .next { State.reset with
    journal := s.journal, startRecords := s.startRecords, firmware := s.firmware, nextFirmware := s.nextFirmware
    fresh := s.fresh }

/-- What the control dies' own clocks bring about: a cap after a long sag, a fence of a hot band, a step up of a cool one
(R358, R363). -/
def State.dueHouse (s : State) : Option Event :=
  match s.blocks.find? fun e => e.2.cap == 0 && s.longAgo 2250001 e.2.stretched with
  | some e => some (.droopCap (e.1 / 4) (e.1 % 4))
  | none => match (List.range 7).find? fun b => s.longAgo 22500000 (s.band b).hot with
    | some b => some (.thermalFence b)
    | none => ((List.range 7).find? fun b => s.longAgo 225000000 (s.band b).cool).map Event.thermalStepUp

end Sys2Proof.Machine
end

