-- ==== Sys2Proof/Machine/EvLink.lean ====
section
/-! DEFINITION. Links: Higrim links (R366 to R368), and bonds whose retries are exhausted (R309). -/

namespace Sys2Proof.Config

/-- The failing checksum of a link's flit, which R307 gives as the SYNDROME of its report; the CRC's value is not part of a
`LinkFlit` (log 20). -/
opaque linkChecksum : LinkFlit → BitVec 32

/-- The same for the flit that a bond could not carry (log 20). -/
opaque bondChecksum : Bond → BitVec 32

end Sys2Proof.Config

namespace Sys2Proof.Machine

/-! ### Higrim links (R366 to R368) -/

/-- A link's report: the failing checksum is its SYNDROME (R307). -/
def State.linkReported (s : State) (n kind : Nat) (f : LinkFlit) : Report :=
  { time := s.wafer, location := location (linkSite n) 3 0 8 (n % 24) 0, address := 0, syndrome := Config.linkChecksum f, cause := 0, kind,
    part := (((s.link n).bound).map LinkBinding.part).getD 0xFFFF }

/-- The reports of KIND 3 that a link has gathered are delivered (R308). -/
def State.deliverRetries (s : State) (n : Nat) : State :=
  let l := s.link n
  if l.retried.isEmpty then s else (s.setLink n { l with retried := [] }).tell (.retries (n % 24) l.retried)

/-- A report of KIND 3 is journaled, and counted for its link; 64 are delivered at a time (R308). -/
def State.flitReport (s : State) (n : Nat) (f : LinkFlit) : State :=
  let r := s.linkReported n 3 f
  let s := (s.journalReport r).setLink n { s.link n with retried := (s.link n).retried ++ [r] }
  if 64 ≤ (s.link n).retried.length then s.deliverRetries n else s

/-- A flit acknowledges what the link has sent (R366, R367): flits up to ACK are not sent again, and the count of resends
begins anew. -/
def Link.acknowledge (l : Link) (ack : Nat) : Link :=
  match l.unacked.findIdx? fun x => x.1.seq == ack with
  | some i => { l with acked := ack, resends := 0, unacked := l.unacked.drop (i + 1) }
  | none => { l with acked := ack }

/-- Whether some run of a partition leases a range for writing. -/
def State.leasedFor (s : State) (part : Nat) (va n : Nat) : Bool :=
  s.runs.any fun r => r.part == part && (firstUnleased r.lease va n .write).isNone

/-- The writes of a data flit that lie in the receive range, on pages that a run still leases: offset, virtual address and bytes
(R366, R368); any other is discarded (log 20). -/
def State.linkWrites (s : State) (b : LinkBinding) (f : LinkFlit) : List (Nat × Nat × List Byte) :=
  (List.range 3).filterMap fun i => match Config.linkWrite (f.payload / 2 ^ (512 * i) % 2 ^ 512) with
    | none => none
    | some w =>
      let va := field 56 0 b.base + w.1
      if w.1 + w.2.length ≤ b.len && s.leasedFor b.part va w.2.length then some (w.1, va, w.2) else none

/-- The lines of a data flit's writes that lie on mapped pages and are not at hand at their homes. -/
def State.linkMisses (s : State) (b : LinkBinding) (f : LinkFlit) : List Nat :=
  (s.linkWrites b f).flatMap fun w => (linesOf w.2.1 w.2.2.length).filter fun l =>
    !s.lineAtHand b.part l && ((s.leafOf b.part (l * 128)).isSome || s.moving b.part (l * 128))

/-- A data flit's writes are performed in the receive range of the binding, and memory at the same offset of the link's aperture
then reads the last value received (R368). -/
def State.linkData (s : State) (n : Nat) (b : LinkBinding) (f : LinkFlit) : State :=
  (s.linkWrites b f).foldl (fun s w =>
    let s := State.homeWriteBytes dieAgent (.virt b.part) w.2.2.length (BitVec.ofNat 64 (2 ^ 63 + w.2.1)) w.2.1 w.2.2 s
    s.setBytes (apertureKey n w.1) w.2.2) s

/-- R368. Binds a Higrim link to one partition at each end, with a leased receive range, once the link's service reticle is READY
(R351). The reports gathered for the former owner are delivered first (R308). -/
def execLinkBind (rq : Request) (link : Nat) (tag : Nat) (rxBase : Word) (rxLen : Nat) (s : State) : Out :=
  s.endpoint rq opBind (match s.partition? rq.part with
  | none => .next (s.refuse rq opBind 0 noIndex)
  | some p =>
    let ok := link < 24 && s.serviceReady (linkSite link) && (p.rel? (linkSite link)).isSome && isVirtual rxBase && rxLen ≠ 0
      && s.leasedFor rq.part (field 56 0 rxBase) rxLen
    let to_ : LinkBinding := { part := rq.part, tag, base := rxBase, len := rxLen }
    .next (if ok then s.command rq opBind fun s =>
        let s := s.deliverRetries link
        s.setLink link { s.link link with bound := some to_ }
      else s.refuse rq opBind 0 noIndex))

/-- The flit a link accepts next, its acknowledgement taken; an acknowledgement-only flit answers it (R366). -/
def State.linkAccepts (s : State) (link : Nat) (f : LinkFlit) : State :=
  s.setLink link ({ (s.link link).acknowledge f.ack with received := f.seq } : Link).acknowledges

/-- R367. A Higrim link flit is checked, accepted, dropped or used for calends correction. -/
def execLinkFlitReceive (link : Nat) (f : LinkFlit) (s : State) : Out :=
  let l := s.link link
  if !l.up || !s.serviceReady (linkSite link) then .next s
  else if !f.crcGood then .next (s.flitReport link f)
  else if f.type = 0 || 3 ≤ f.type || f.seq ≠ (l.received + 1) % 4096 then .next (s.setLink link (l.acknowledge f.ack))
  else if f.type = 2 then
    .next { s.linkAccepts link f with wafer := BitVec.ofNat 64 (f.payload % 2 ^ 64 + f.payload / 2 ^ 64 % 2 ^ 64) }
  else match l.bound with
    | none => .next ((s.linkAccepts link f).flitReport link f)
    | some b =>
      if b.tag ≠ f.linkId then .next ((s.linkAccepts link f).flitReport link f)
      else match s.linkMisses b f with
        | [] => .next ((s.linkAccepts link f).linkData link b f)
        | x :: _ => .next ((s.touchLine dieAgent 0 (lineAddr x) false b.part x).again (.linkFlitReceive link f))

/-- A run is the source of a write to a virtual line of its partition: it leases the line for writing (R309, log 20). -/
def Run.wrote (r : Run) (x : Nat × Nat) : Bool := r.part == x.1 && pageLeased r.lease (x.2 * 128) .write

/-- A link goes down with a KIND 4 report, and the runs whose writes it has not carried stop (R309, R367). -/
def State.linkDown (s : State) (n : Nat) (f : LinkFlit) : State :=
  let l := s.link n
  let lost := l.unacked.filterMap Prod.snd
  let s := (s.setLink n { l with up := false }).deliverRetries n
  let s := s.report (s.linkReported n 4 f)
  (s.runs.filter fun r => r.placed && lost.any r.wrote).foldl (fun s r => s.stopRun r.part r.ctx 1) s

/-! ### Messages on a bond (R22, R309, R337) -/

/-- The router of a core's cluster, or of a slice on its base die (R21). -/
def State.homeRouter (s : State) : Home → Nat × Nat
  | .pad c => s.routerOf c
  | .slice k => (8 * (k / 32 % 6) + 4 * (k / 16 % 2) + k % 16 / 4, 11 * (k / 32 / 6) + 10)

/-- The party whose network-select table the requests of a core or of a slice's streamer follow (R256, R337). -/
def homeHolder : Home → Nat
  | .pad c => c
  | .slice k => 2 ^ 16 + k / 16

/-- The site and block whose entry serves a destination (R337). -/
def homeBlock : Home → Nat × Nat
  | .pad c => (siteOf c, c / 64 % 4)
  | .slice k => (k / 32, 2 + k / 16 % 2)

/-- The routers that a request passes, on the network its entry names; none within a cluster (R22, R337). -/
def State.way (s : State) (a b : Home) : List (Nat × Nat) :=
  let near := match a, b with
    | .pad c, .pad d => c / 4 == d / 4
    | _, _ => false
  let yx := (s.partAt (holderSite (homeHolder a))).any fun p => (p.rel? (homeBlock b).1).any fun q =>
    s.nsel.contains (homeHolder a, 4 * q + (homeBlock b).2, true)
  if near then [] else if yx then routeYX (s.homeRouter a) (s.homeRouter b) else routeXY (s.homeRouter a) (s.homeRouter b)

/-- Whether a message is an answer, which retraces its request's way (R22). -/
def isAnswer : Event → Bool
  | .loadResponse _ _ _ _ => true
  | .postedStoreAck _ _ _ _ => true
  | .l1FillResponse _ _ _ => true
  | .l1WritebackReply _ _ _ => true
  | .lockRegistrationAck _ _ _ _ => true
  | .theftReply _ _ _ => true
  | .levellingGrant _ _ _ => true
  | _ => false

/-- The ends of a slice's request for a line whose frame lies in another stack: the router of the same place beside that stack
takes it (R22). -/
def State.fillEnds (s : State) (k line : Nat) : Option (Home × Home) :=
  ((s.slice k).tlb? (line * 128)).bind fun e =>
    let stack := e.key (line * 128) / 2 ^ 36
    if e.tier = 0 && stack ≠ k / 16 then some (.slice k, .slice (16 * stack + k % 16)) else none

/-- The ends of a request or an answer in flight, those of copy units and of slices' requests among them. -/
def State.wayEnds (s : State) (e : Event) : Option (Home × Home) :=
  let unit? (c copy i : Nat) : Option CopyUnit := ((s.core c).copy? copy).bind fun k => k.units[i]?
  match e with
  | .streamerUnitRead c k i => (unit? c k i).map fun u => (.pad c, s.homeOf c u.src)
  | .copyUnitWrite c k i d => ((s.core c).copy? k).bind fun x => (unit? c k i).bind fun u =>
    (s.partHome c x i d).map fun h => (s.homeOf c u.src, h)
  | .sliceMissFill k line => s.fillEnds k line
  | e => s.messageEnds e

/-- Whether a message in flight crosses a bond (log 20). -/
def State.crosses (s : State) (b : Bond) (e : Event) : Bool :=
  (s.wayEnds e).any fun x =>
    let w := if isAnswer e then s.way x.2 x.1 else s.way x.1 x.2
    (w.zip w.tail).any fun l => bondJoins b l.1 l.2

/-- The cores whose runs a lost message concerns: those at its ends, and those that asked for a line. -/
def State.bereaved (s : State) (e : Event) : List Nat :=
  let core : Home → List Nat
    | .pad c => [c]
    | .slice _ => []
  ((s.wayEnds e).map fun x => core x.1 ++ core x.2).getD [] ++ (eventOwner? e).toList ++ match e with
    | .sliceMissFill k line => ((s.slice k).waiting.filter fun q => q.addr / 128 == line).map Req.core
    | _ => []

/-- A frame whose write-back, or the answer to it, is lost: its bytes are dirty again, for the image of the stopped run (R309,
R316). -/
def L1Frame.unsent (f : L1Frame) : L1Frame := { f with dirty := f.dirty ||| f.sent, present := f.present ||| f.sent, sent := 0 }

/-- A frame whose fill, or the answer to it, is lost. -/
def L1Frame.unfilled (f : L1Frame) : L1Frame := if f.stale = 0 then { f with filling := false } else { f with stale := f.stale - 1 }

/-- A core's frame of a line after a message of it is lost. -/
def Core.lostLine (k : Core) (line : Nat) (fill : Bool) : Core :=
  match k.frame? line with
  | none => k
  | some (f, fr) => k.setFrame f (if fill then fr.unfilled else fr.unsent)

/-- A lost message: nothing waits for it any longer at its core's L1, or at the slice that sent it; what its strand waits for is
left to the switch-out of its run (R309). -/
def State.loseMessage (s : State) : Event → State
  | .sliceAccess _ q => match q.access with
    | .fill => s.modCore q.core fun k => k.lostLine (q.addr / 128) true
    | .writeback _ _ => s.modCore q.core fun k => k.lostLine (q.addr / 128) false
    | _ => s
  | .l1FillResponse c line _ => s.modCore c fun k => k.lostLine line true
  | .l1WritebackReply c line _ => s.modCore c fun k => k.lostLine line false
  | .sliceMissFill k line =>
    (s.modSlice k fun x => { x with waiting := x.waiting.filter fun q => q.addr / 128 != line }).serveAll k
  | _ => s

/-- Lost messages: the copy units among them are not performed (R309). -/
def State.loseMessages (s : State) (lost : List Event) : State :=
  let units := (lost.filterMap fun e => match e with
    | .copyUnitWrite c i u _ => some (c, i, u)
    | _ => none).eraseDups
  units.foldl (fun s x => s.unitLost x.1 x.2.1 x.2.2 Copy.phase Copy.code) (lost.foldl (fun s e => s.loseMessage e) s)

/-- A bond whose retries are exhausted carries no traffic: the messages that cross it are lost, the runs of their sources and
destinations stop, and the routes move (R309, R353). -/
def State.bondDown (s : State) (b : Bond) : State :=
  let lost := s.agenda.filter (s.crosses b)
  let cores := (lost.flatMap s.bereaved).eraseDups
  let r : Report :=
    { time := s.wafer, location := location (chipOf (b.x1, b.y1)).site (chipOf (b.x1, b.y1)).chip (chipOf (b.x1, b.y1)).index 8 (Config.bondNumber (b.x1 + 48 * b.y1 + 2 ^ 12 * (b.x2 + 48 * b.y2))) 0,
      address := 0, syndrome := Config.bondChecksum b, cause := 0, kind := 4, part := 0xFFFF }
  let s : State := { s with agenda := s.agenda.filter (fun e => !lost.contains e), deadBonds := b :: s.deadBonds.filter fun x => x != b }
  let s := (s.note 0xFFFF (.bondDead b)).report r
  (cores.foldl (fun s c => s.stopRunOf c 1) (s.loseMessages lost)).tables

/-! ### Network-select tables (R337) -/

/-- The holder of a table has no request outstanding to an entry's block: a core in the sense of `nselw` (R298), a base die or
control die none in flight. -/
def State.entryQuiet (s : State) (x : Nat × Nat × Bool) : Bool :=
  if x.1 < 2 ^ 16 then s.quietTo x.1 x.2.1
  else match (s.partAt (holderSite x.1)).bind fun p => p.site? (x.2.1 / 4) with
    | none => true
    | some site => !s.agenda.any fun e => !isAnswer e && (s.wayEnds e).any fun w =>
        homeHolder w.1 == x.1 && homeBlock w.2 == (site, x.2.1 % 4)

/-- The control dies write the computed entries whose holders are quiet (R337). -/
def State.writeTables (s : State) : State :=
  s.nselDue.foldl (fun s x => if s.entryQuiet x then s.writeEntry x else s) s

/-- R367. Eight consecutive resends of one flit take the link down. -/
def execLinkRetryExhausted (link : LinkName) (s : State) : Out :=
  .next (match link with
  | .higrim n => match (s.link n).up, (s.link n).unacked with
    | true, f :: _ => if 8 ≤ (s.link n).resends then s.linkDown n f.1 else s
    | _, _ => s
  | .bond b => if s.deadBonds.contains b then s else s.bondDown b)

/-- R367. Every 2^14 ticks a link sends a calends flit. What was not acknowledged since the last one is sent again first, and
after eight such resends the link is exhausted (log 20). -/
def execCalendsFlitSend (link : Nat) (s : State) : Out :=
  let l := s.link link
  if !l.up || !s.serviceReady (linkSite link) then .next s
  else if !l.unacked.isEmpty && 8 ≤ l.resends then .next (s.post (.linkRetryExhausted (.higrim link)))
  else
    let l := if l.unacked.isEmpty then l else l.resend
    .next (s.setLink link (l.send 2 (s.wafer.toNat + Config.linkDelay link % 2 ^ 64 * 2 ^ 64) none))

end Sys2Proof.Machine
end

