-- ==== Sys2Proof/Machine/EvReport.lean ====
section
/-! DEFINITION. Errors and firmware (R307 to R309, R369). -/

namespace Sys2Proof.Machine

/-! ### Attestation (R369) -/

/-- What an attestation report signs: the image hash, the live chiplet map, the fuses and the host's nonce. -/
structure Attested where
  image : BitVec 256
  chiplets : List (Chip × Nat)
  fuses : Nat
  nonce : Nat
  deriving DecidableEq, Repr

/-- What a report for a nonce signs now: the image in force, and every chiplet that is READY, with its remap if it is a block. -/
def State.attested (s : State) (nonce : Nat) : Attested where
  image := Config.imageHash s.firmware
  chiplets := (s.chiplets.filter fun e => e.2.state == .ready).map fun e =>
    (e.1, if e.1.chip = 0 then (s.block (4 * e.1.site + e.1.index)).live.foldl (fun a p => a + 2 ^ p) 0 else 0)
  fuses := Config.fuses
  nonce

/-- The attestation report: what it signs, with the signature of the module's attestation key. -/
def State.attestation (s : State) (nonce : Nat) : Attested × Nat :=
  let a := s.attested nonce
  (a, Config.attest Config.fuses (a.image.toNat, a.chiplets.map (fun x => (x.1.site * 64 + x.1.chip * 16 + x.1.index, x.2)), a.nonce))

/-- R369. Writes, verifies and commits a signed firmware image for the next cold reset. -/
def execFirmwareUpdate (rq : Request) (image : Nat) (signature : Nat) (s : State) : Out :=
  s.moduleEndpoint rq opFirmware (.next (
    if Config.signatureGood image signature then
      s.command rq opFirmware fun s => { s.note 0xFFFF (.firmware image) with nextFirmware := some image }
    else s.refuse rq opFirmware 0 noIndex))

/-- R309. An ECC error is detected and corrected, poisoned or raised as a machine check. -/
def execEccErrorDetected (e : EccError) (s : State) : Out :=
  let rep (kind cause : Nat) (at_ : Word × Word) (part : Nat) (s : State) : State :=
    s.report { time := s.wafer, location := at_.1, address := at_.2, syndrome := e.syndrome, cause, kind, part }
  let ownerOf (c : Nat) : Nat := ((s.partAt (siteOf c)).map Partition.num).getD 0xFFFF
  match e.place with
  | .corrected loc addr => .next (rep 0 0 (loc, addr) (((s.partAt (field 63 58 loc)).map Partition.num).getD 0xFFFF) s)
  | .line key => .next (rep 1 0x13 (s.lineLocation key) (s.lineOwner key)
      { s with poison := if s.poison.contains key then s.poison else key :: s.poison })
  | .strandState core strand =>
    let pc := (s.strand core strand).pc
    .next (rep 7 0x13 (s.coreLocation core 9 strand, pc) (ownerOf core)
      (s.endTask core strand .eccUncorrectable pc 0 (s.strand core strand).skip))
  | .coreState core unit =>
    let s := (List.range 16).foldl (fun s n => s.enterFaulted core n 0x13) s
    .next (rep 7 0x13 (s.coreLocation core (unit % 16) 0, 0) (ownerOf core) (s.stopRunOf core 1))

end Sys2Proof.Machine
end

