-- ==== Sys2Proof/Machine/Fence.lean ====
section
/-! DEFINITION. Fences (R82 to R85, R175). -/

namespace Sys2Proof.Machine

/-- R175. Waits for the release conditions of its scope before later writes. -/
def execFenceRel (sc : Scope) (la : La) (s : State) : Out :=
  .next (s.begin [] la (.fence true false sc))

/-- R175. Waits for earlier reads and performs the scope's acquire action. -/
def execFenceAcq (sc : Scope) (la : La) (s : State) : Out :=
  .next (s.begin [] la (.fence false true sc))

/-- R175. Performs a release and then an acquire of its scope. -/
def execFenceFull (sc : Scope) (la : La) (s : State) : Out :=
  .next (s.begin [] la (.fence true true sc))

/-- R175. Waits until the acknowledgement counter is zero. -/
def execFenceAck (la : La) (s : State) : Out :=
  .next (s.begin [] la .fenceAck)

end Sys2Proof.Machine
end

