-- ==== Sys2Proof/Machine/Float.lean ====
section
/-! DEFINITION. Scalar floating-point arithmetic (R158 to R162). -/

namespace Sys2Proof.Machine

/-- A floating-point operand: the whole register or its low word (R158). -/
def State.fread (s : State) (t : SFmt) (r : Reg) : Nat := (s.read r).toNat % 2 ^ (fmtOf t).width

/-- A floating-point operation: its result, zero-extended, and its flags (R158). -/
def floatOp (s : State) (t : SFmt) (srcs : List Reg) (d : Reg) (f : Flt → Nat × Flags) : Out :=
  s.resultFlags srcs d (f (fmtOf t))

/-- R159. Adds two binary64 or binary32 values with one rounding. -/
def execFadd (t : SFmt) (rm : Rm) (d : Reg) (a : Reg) (b : Reg) (s : State) : Out :=
  floatOp s t [a, b] d fun f => f.add (s.me.mode? rm) (s.fread t a) (s.fread t b)

/-- R159. Subtracts two floating-point values with one rounding. -/
def execFsub (t : SFmt) (rm : Rm) (d : Reg) (a : Reg) (b : Reg) (s : State) : Out :=
  floatOp s t [a, b] d fun f => f.sub (s.me.mode? rm) (s.fread t a) (s.fread t b)

/-- R159. Multiplies two floating-point values with one rounding. -/
def execFmul (t : SFmt) (rm : Rm) (d : Reg) (a : Reg) (b : Reg) (s : State) : Out :=
  floatOp s t [a, b] d fun f => f.mul (s.me.mode? rm) (s.fread t a) (s.fread t b)

/-- R159. Divides two floating-point values with one rounding. -/
def execFdiv (t : SFmt) (rm : Rm) (d : Reg) (a : Reg) (b : Reg) (s : State) : Out :=
  floatOp s t [a, b] d fun f => f.div (s.me.mode? rm) (s.fread t a) (s.fread t b)

/-- R159. Takes the rounded square root of a. -/
def execFsqrt (t : SFmt) (rm : Rm) (d : Reg) (a : Reg) (s : State) : Out :=
  floatOp s t [a] d fun f => f.sqrt (s.me.mode? rm) (s.fread t a)

/-- R161. Writes the minimumNumber of a and b. -/
def execFmin (t : SFmt) (d : Reg) (a : Reg) (b : Reg) (s : State) : Out :=
  floatOp s t [a, b] d fun f => f.pickNumber false (s.fread t a) (s.fread t b)

/-- R161. Writes the maximumNumber of a and b. -/
def execFmax (t : SFmt) (d : Reg) (a : Reg) (b : Reg) (s : State) : Out :=
  floatOp s t [a, b] d fun f => f.pickNumber true (s.fread t a) (s.fread t b)

/-- R162. Writes a with b's sign. -/
def execFsgnj (t : SFmt) (d : Reg) (a : Reg) (b : Reg) (s : State) : Out :=
  floatOp s t [a, b] d fun f => (f.withSign (s.fread t a) (f.sign (s.fread t b)), 0)

/-- R162. Writes a with the inverse of b's sign. -/
def execFsgnjn (t : SFmt) (d : Reg) (a : Reg) (b : Reg) (s : State) : Out :=
  floatOp s t [a, b] d fun f => (f.withSign (s.fread t a) (!f.sign (s.fread t b)), 0)

/-- R162. Writes a with the XOR of both signs. -/
def execFsgnjx (t : SFmt) (d : Reg) (a : Reg) (b : Reg) (s : State) : Out :=
  floatOp s t [a, b] d fun f => (f.withSign (s.fread t a) (f.sign (s.fread t a) != f.sign (s.fread t b)), 0)

/-- R159. Computes d plus a times b fused with one rounding. -/
def execFmac (t : SFmt) (rm : Rm) (d : Reg) (a : Reg) (b : Reg) (s : State) : Out :=
  floatOp s t [a, b, d] d fun f => f.fma (s.me.mode? rm) false false (s.fread t a) (s.fread t b) (s.fread t d)

/-- R159. Computes d minus a times b fused with one rounding. -/
def execFmsc (t : SFmt) (rm : Rm) (d : Reg) (a : Reg) (b : Reg) (s : State) : Out :=
  floatOp s t [a, b, d] d fun f => f.fma (s.me.mode? rm) true false (s.fread t a) (s.fread t b) (s.fread t d)

end Sys2Proof.Machine
end

