-- ==== Sys2Proof/Machine/Frames.lean ====
section
/-! DEFINITION. Frames: spawn, take, join, yield and retire (R187 to R191). -/

namespace Sys2Proof.Machine

/-- R187. Pushes a frame at the near end of the core's deque. -/
def execSpawn (a : Reg) (_la : La) (s : State) : Out :=
  s.gate [a] [] [] (
    let f := s.read a
    match s.checkElem .read 0 f 64 (fullMask 64) 0 with
    | .error (cause, x) => .next (s.trap cause x)
    | .ok e => match e.at_ with
      | .own off =>
        if field 63 60 f = 1 then .next (s.trap .localRange f)
        else if s.elemVerdict s.cur.1 s.cur.2 false e = .stall then .next (s.wait .other)
        else match s.poisoned? (padKey s.cur.1 off / 128) with
          | some why => .next ((s.ownPoison f off why).trap why f)
          | none =>
            let img := s.load (padKey s.cur.1 off) 56
            if img % 4 ≠ 0 then .next (s.trap .misaligned (BitVec.ofNat 64 img))
            else if (s.core s.cur.1).deque.room = 0 then
              .next (s.trap .localRange (BitVec.ofNat 64 (s.core s.cur.1).deque.base))
            else
              let t := s.me
              let fr := { frameOfImage img with fmta := t.fmta, fmtb := t.fmtb, scla := t.scla, sclb := t.sclb }
              .next (((s.pops [a]).pushNear s.cur.1 fr).retire .on)
      | _ => .next (s.trap .localRange f))

/-- R188. Pops or steals a frame and continues at its entry. A full port of d holds the result back when it is at hand (R113). -/
def execTake (d : Reg) (la : La) (s : State) : Out :=
  s.gate [] [] [d, 4, 5, 6, 7, 8, 9] (
    match s.popNear s.cur.1 with
    | some (f, u) =>
      if s.fullPort s.cur.1 s.cur.2 d then .next (u.hold la (.take d [] 0 (some (some f, (s.core s.cur.1).ticks))))
      else .next ((u.taken s.cur.1 s.cur.2 d s.me.pc (some f)).retire (.to f.entry false))
    | none => .next ((((s.hold la (.take d [] 0 none)).askVictim s.cur.1 s.cn d [] 0).service s.cur.1 s.cur.2).endDone s.cur.1 s.cur.2))

/-- R189. Releases, decrements a join counter and skips unless last. -/
def execJoin (a : Reg) (la : La) (s : State) : Out :=
  s.gate [a] [] [] (
    let x := s.read a
    match s.checkAcked [.read, .write] x 8 with
    | .error (cause, y) => .next (s.trap cause y)
    | .ok e => match s.elemVerdict s.cur.1 s.cur.2 true e with
      | .stall => .next (s.wait .other)
      | v =>
        let locks := v.locks
        s.demanding la [a] ((s.core s.cur.1).forced locks) (.next ((s.retireViews s.cur.1 locks).begin [a] la (.joinRelease x))))

/-- R190. Waits until the deque holds a frame or 2^12 cc pass. -/
def execYield (la : La) (s : State) : Out :=
  .next (s.begin [] la .yield)

/-- R191. Zeroes the shadow format registers. -/
def execRetire (_la : La) (s : State) : Out :=
  .next ((s.modMe fun t => { t with fmta := 0, fmtb := 0, scla := 0, sclb := 0 }).retire .on)

end Sys2Proof.Machine
end

