-- ==== Sys2Proof/Machine/Group.lean ====
section
/-! DEFINITION. Group barriers, broadcasts and reductions (R180 to R183). -/

namespace Sys2Proof.Machine

/-- A group operation on group a[7:0] of the issuing core, or NO_SUCH_CORE (R180). -/
def State.grouped (s : State) (la : La) (srcs writes : List Reg) (a : Reg) (p : GroupRef → Phase) : Out :=
  s.gate srcs [] writes (
    let i := (s.read a).toNat % 256
    match s.groupOf s.cur.1 i with
    | none => .next (s.trap .noSuchCore (BitVec.ofNat 64 i))
    | some g => .next (s.begin srcs la (p g.ref)))

/-- R181. Arrives at a group barrier and waits for the episode to complete. -/
def execBar (a : Reg) (la : La) (s : State) : Out :=
  s.grouped la [a] [] a fun g => .barrier g false

/-- R182. Sends a value to the group root for broadcast. -/
def execBcastSend (a : Reg) (b : Reg) (la : La) (s : State) : Out :=
  s.grouped la [a, b] [] a fun g => .bcastSend g (s.read b) false none

/-- R182. Pops the oldest broadcast value for the group. -/
def execBcastRecv (d : Reg) (a : Reg) (la : La) (s : State) : Out :=
  s.grouped la [a] [d] a fun g => .bcastRecv g d none none

/-- R183. Contributes to a group sum reduction. -/
def execRedAdd (d : Reg) (a : Reg) (b : Reg) (la : La) (s : State) : Out :=
  s.grouped la [a, b] [d] a fun g => .reduce g d .add (s.read b) false

/-- R183. Contributes to a signed minimum reduction. -/
def execRedMinI64 (d : Reg) (a : Reg) (b : Reg) (la : La) (s : State) : Out :=
  s.grouped la [a, b] [d] a fun g => .reduce g d .minI (s.read b) false

/-- R183. Contributes to an unsigned minimum reduction. -/
def execRedMinW64 (d : Reg) (a : Reg) (b : Reg) (la : La) (s : State) : Out :=
  s.grouped la [a, b] [d] a fun g => .reduce g d .minW (s.read b) false

/-- R183. Contributes to a signed maximum reduction. -/
def execRedMaxI64 (d : Reg) (a : Reg) (b : Reg) (la : La) (s : State) : Out :=
  s.grouped la [a, b] [d] a fun g => .reduce g d .maxI (s.read b) false

/-- R183. Contributes to an unsigned maximum reduction. -/
def execRedMaxW64 (d : Reg) (a : Reg) (b : Reg) (la : La) (s : State) : Out :=
  s.grouped la [a, b] [d] a fun g => .reduce g d .maxW (s.read b) false

end Sys2Proof.Machine
end

