-- ==== Sys2Proof/Machine/HwLoop.lean ====
section
/-! DEFINITION. Hardware loops (R104, R157) and hints (R132). -/

namespace Sys2Proof.Machine

/-- `loop` and `loopi` with count n and body length len (R104, R157): `srcs` is the count register, if any. -/
def startLoop (s : State) (srcs : List Reg) (n : Word) (len : BitVec 15) : Out :=
  let t := s.me
  let stop := t.pc + (len.zeroExtend 64 <<< 2)
  if len = 0 || t.atEnd t.pc then .next (s.trap .illegal s.word)
  else s.gate srcs [] [] (
    if n = 0 then .next ((s.pops srcs).retire (.to (stop + 4) false))
    else if t.level0.active && (t.level1.active || t.level0.stop.ult stop) then .next (s.trap .illegal s.word)
    else
      let fresh : Level := { start := t.pc + 4, stop, count := n, active := true }
      .next (((s.pops srcs).modMe fun t =>
        { t with level1 := if t.level0.active then t.level0 else t.level1, level0 := fresh }).retire (.to (t.pc + 4) false)))

/-- R157. Starts a hardware loop with a count from a register. -/
def execLoop (a : Reg) (len : BitVec 15) (s : State) : Out :=
  startLoop s [a] (s.read a) len

/-- R157. Starts a hardware loop with an immediate count. -/
def execLoopi (n : BitVec 10) (len : BitVec 15) (s : State) : Out :=
  startLoop s [] (n.zeroExtend 64) len

/-- R132. Does nothing. -/
def execNop (s : State) : Out :=
  .next (s.retire .on)

/-- R132. Hints a prefetch of a virtual line into the L1. -/
def execPf (_a : Reg) (_imm : BitVec 15) (s : State) : Out :=
  .next (s.retire .on)

/-- R132. Hints that the next conditional branch is likely taken. -/
def execHlikely (s : State) : Out :=
  .next (s.retire .on)

/-- R132. Hints that the next conditional branch is likely not taken. -/
def execHunlikely (s : State) : Out :=
  .next (s.retire .on)

end Sys2Proof.Machine
end

