-- ==== Sys2Proof/Machine/Immediate.lean ====
section
/-! DEFINITION. Immediate operations, upper immediates (R151, R152). -/

namespace Sys2Proof.Machine

/-- R151. Adds a sign-extended immediate to a. -/
def execAddi (d : Reg) (a : Reg) (imm : BitVec 15) (s : State) : Out :=
  op1 s d a fun x => x + sext64 imm

/-- R151. ANDs a with a sign-extended immediate. -/
def execAndi (d : Reg) (a : Reg) (imm : BitVec 15) (s : State) : Out :=
  op1 s d a fun x => x &&& sext64 imm

/-- R151. ORs a with a sign-extended immediate. -/
def execOri (d : Reg) (a : Reg) (imm : BitVec 15) (s : State) : Out :=
  op1 s d a fun x => x ||| sext64 imm

/-- R151. XORs a with a sign-extended immediate. -/
def execXori (d : Reg) (a : Reg) (imm : BitVec 15) (s : State) : Out :=
  op1 s d a fun x => x ^^^ sext64 imm

/-- R151. Writes 1 if a is less than the immediate, signed. -/
def execSltiI64 (d : Reg) (a : Reg) (imm : BitVec 15) (s : State) : Out :=
  op1 s d a fun x => ofBool (x.slt (sext64 imm))

/-- R151. Writes 1 if a is less than the sign-extended immediate, unsigned. -/
def execSltiW64 (d : Reg) (a : Reg) (imm : BitVec 15) (s : State) : Out :=
  op1 s d a fun x => ofBool (x.ult (sext64 imm))

/-- R151. Shifts a left by an immediate amount. -/
def execSlli (d : Reg) (a : Reg) (sh : BitVec 6) (s : State) : Out :=
  op1 s d a fun x => x <<< sh.toNat

/-- R151. Shifts a right with zero fill by an immediate amount. -/
def execSrli (d : Reg) (a : Reg) (sh : BitVec 6) (s : State) : Out :=
  op1 s d a fun x => x >>> sh.toNat

/-- R151. Shifts a right with sign fill by an immediate amount. -/
def execSrai (d : Reg) (a : Reg) (sh : BitVec 6) (s : State) : Out :=
  op1 s d a fun x => x.sshiftRight sh.toNat

/-- R151. Rotates a right by an immediate amount. -/
def execRori (d : Reg) (a : Reg) (sh : BitVec 6) (s : State) : Out :=
  op1 s d a fun x => x.rotateRight sh.toNat

/-- R152. Loads a sign-extended upper immediate into d. -/
def execLih (d : Reg) (imm : BitVec 20) (s : State) : Out :=
  s.result [] d (sext64 (imm ++ (0 : BitVec 12)))

/-- R152. Adds an upper immediate to the PC. -/
def execAddpc (d : Reg) (imm : BitVec 20) (s : State) : Out :=
  s.result [] d (s.me.pc + sext64 (imm ++ (0 : BitVec 12)))

end Sys2Proof.Machine
end

