-- ==== Sys2Proof/Machine/LoadStore.lean ====
section
/-! DEFINITION. Loads, stores, indexed and acknowledged accesses (R169 to R173). -/

namespace Sys2Proof.Machine

/-- Base plus a scaled, sign-extended offset (R169). -/
def State.offset (s : State) (a : Reg) (imm : BitVec 11) (n : Nat) : Word := s.read a + sext64 imm * BitVec.ofNat 64 n

/-- Base plus a scaled index (R171). -/
def State.indexed (s : State) (a b : Reg) (n : Nat) : Word := s.read a + s.read b * BitVec.ofNat 64 n

/-- Bytes and sign of the types of `ldx` (R171). -/
def ldBytes : LdTy → Nat
  | .i8 => 1
  | .w8 => 1
  | .i16 => 2
  | .w16 => 2
  | .i32 => 4
  | .w32 => 4
  | .i64 => 8

def ldSigned : LdTy → Bool
  | .i8 => true
  | .i16 => true
  | .i32 => true
  | _ => false

/-- A scalar load. -/
def State.load1 (s : State) (la : La) (srcs : List Reg) (d : Reg) (a : Word) (n : Nat) (sg : Bool) : Out :=
  s.loads la srcs [d] (.scalar d n sg false) [(0, a, n, fullMask n)]

/-- A scalar store of the low bytes of a register. -/
def State.store1 (s : State) (la : La) (srcs : List Reg) (d : Reg) (a : Word) (n : Nat) : Out :=
  s.stores la srcs [(0, a, n, fullMask n, (s.read d).toNat % 2 ^ (8 * n))]

/-- R169. Loads a sign-extended byte. -/
def execLdI8 (d : Reg) (a : Reg) (la : La) (imm : BitVec 11) (s : State) : Out :=
  s.load1 la [a] d (s.offset a imm 1) 1 true

/-- R169. Loads a zero-extended byte. -/
def execLdW8 (d : Reg) (a : Reg) (la : La) (imm : BitVec 11) (s : State) : Out :=
  s.load1 la [a] d (s.offset a imm 1) 1 false

/-- R169. Loads a sign-extended halfword. -/
def execLdI16 (d : Reg) (a : Reg) (la : La) (imm : BitVec 11) (s : State) : Out :=
  s.load1 la [a] d (s.offset a imm 2) 2 true

/-- R169. Loads a zero-extended halfword. -/
def execLdW16 (d : Reg) (a : Reg) (la : La) (imm : BitVec 11) (s : State) : Out :=
  s.load1 la [a] d (s.offset a imm 2) 2 false

/-- R169. Loads a sign-extended word. -/
def execLdI32 (d : Reg) (a : Reg) (la : La) (imm : BitVec 11) (s : State) : Out :=
  s.load1 la [a] d (s.offset a imm 4) 4 true

/-- R169. Loads a zero-extended word. -/
def execLdW32 (d : Reg) (a : Reg) (la : La) (imm : BitVec 11) (s : State) : Out :=
  s.load1 la [a] d (s.offset a imm 4) 4 false

/-- R169. Loads a doubleword. -/
def execLdI64 (d : Reg) (a : Reg) (la : La) (imm : BitVec 11) (s : State) : Out :=
  s.load1 la [a] d (s.offset a imm 8) 8 false

/-- R170. Stores a byte. -/
def execStW8 (d : Reg) (a : Reg) (la : La) (imm : BitVec 11) (s : State) : Out :=
  s.store1 la [a, d] d (s.offset a imm 1) 1

/-- R170. Stores a halfword. -/
def execStW16 (d : Reg) (a : Reg) (la : La) (imm : BitVec 11) (s : State) : Out :=
  s.store1 la [a, d] d (s.offset a imm 2) 2

/-- R170. Stores a word. -/
def execStW32 (d : Reg) (a : Reg) (la : La) (imm : BitVec 11) (s : State) : Out :=
  s.store1 la [a, d] d (s.offset a imm 4) 4

/-- R170. Stores a doubleword. -/
def execStW64 (d : Reg) (a : Reg) (la : La) (imm : BitVec 11) (s : State) : Out :=
  s.store1 la [a, d] d (s.offset a imm 8) 8

/-- R171. Loads at a plus a scaled index. -/
def execLdx (t : LdTy) (d : Reg) (a : Reg) (b : Reg) (la : La) (s : State) : Out :=
  let n := ldBytes t
  s.load1 la [a, b] d (s.indexed a b n) n (ldSigned t)

/-- R171. Stores d at a plus a scaled index. -/
def execStx (w : BitVec 2) (d : Reg) (a : Reg) (b : Reg) (la : La) (s : State) : Out :=
  let n := 2 ^ w.toNat
  s.store1 la [a, b, d] d (s.indexed a b n) n

/-- R172. Stores at the home and returns the line's serial. -/
def execStAck (w : BitVec 2) (d : Reg) (a : Reg) (b : Reg) (la : La) (s : State) : Out :=
  let n := 2 ^ w.toNat
  s.acked la [a, b] [d] (.serial d) [.write] (s.read a) n (.writeAck n ((s.read b).toNat % 2 ^ (8 * n)))

/-- R173. Loads at the home and places the line's serial in LASTSEQ. -/
def execLdAck (w : BitVec 2) (d : Reg) (a : Reg) (b : Reg) (la : La) (s : State) : Out :=
  let n := 2 ^ w.toNat
  s.acked la [a, b] [d] (.scalar d n false true) [.read] (s.read a + s.read b) n (.readAck n)

end Sys2Proof.Machine
end

