-- ==== Sys2Proof/Machine/MulDiv.lean ====
section
/-! DEFINITION. Multiplication and division (R149, R26). -/

namespace Sys2Proof.Machine

/-- `divs` of R149: signed quotient and remainder, both truncated toward zero; division by zero and the overflow of the
most negative value by -1 have the results the rule gives. -/
def divS {n : Nat} (x y : BitVec n) : BitVec n × BitVec n :=
  if y = 0 then (BitVec.allOnes n, x)
  else (BitVec.ofInt n (x.toInt.tdiv y.toInt), BitVec.ofInt n (x.toInt.tmod y.toInt))

/-- `divu` of R149. -/
def divU {n : Nat} (x y : BitVec n) : BitVec n × BitVec n :=
  if y = 0 then (BitVec.allOnes n, x) else (BitVec.ofNat n (x.toNat / y.toNat), BitVec.ofNat n (x.toNat % y.toNat))

/-- The low words of two operands divided. -/
def loW (x : Word) : BitVec 32 := x.truncate 32

/-- R149. Writes the low 64 bits of a times b. -/
def execMul (d : Reg) (a : Reg) (b : Reg) (s : State) : Out :=
  op2 s d a b fun x y => x * y

/-- R149. Writes the high 64 bits of the signed product. -/
def execMulhI64 (d : Reg) (a : Reg) (b : Reg) (s : State) : Out :=
  op2 s d a b fun x y => BitVec.ofInt 64 (x.toInt * y.toInt / 2 ^ 64)

/-- R149. Writes the high 64 bits of the unsigned product. -/
def execMulhW64 (d : Reg) (a : Reg) (b : Reg) (s : State) : Out :=
  op2 s d a b fun x y => BitVec.ofNat 64 (x.toNat * y.toNat / 2 ^ 64)

/-- R149. Writes the full 64-bit product of the sign-extended low words. -/
def execMulI32 (d : Reg) (a : Reg) (b : Reg) (s : State) : Out :=
  op2 s d a b fun x y => sextW x * sextW y

/-- R149. Writes the signed 64-bit quotient. -/
def execDivI64 (d : Reg) (a : Reg) (b : Reg) (s : State) : Out :=
  op2 s d a b fun x y => (divS x y).1

/-- R149. Writes the unsigned 64-bit quotient. -/
def execDivW64 (d : Reg) (a : Reg) (b : Reg) (s : State) : Out :=
  op2 s d a b fun x y => (divU x y).1

/-- R149. Writes the signed 64-bit remainder. -/
def execRemI64 (d : Reg) (a : Reg) (b : Reg) (s : State) : Out :=
  op2 s d a b fun x y => (divS x y).2

/-- R149. Writes the unsigned 64-bit remainder. -/
def execRemW64 (d : Reg) (a : Reg) (b : Reg) (s : State) : Out :=
  op2 s d a b fun x y => (divU x y).2

/-- R149. Writes the sign-extended signed 32-bit quotient. -/
def execDivI32 (d : Reg) (a : Reg) (b : Reg) (s : State) : Out :=
  op2 s d a b fun x y => sext64 (divS (loW x) (loW y)).1

/-- R149. Writes the zero-extended unsigned 32-bit quotient. -/
def execDivW32 (d : Reg) (a : Reg) (b : Reg) (s : State) : Out :=
  op2 s d a b fun x y => (divU (loW x) (loW y)).1.zeroExtend 64

/-- R149. Writes the sign-extended signed 32-bit remainder. -/
def execRemI32 (d : Reg) (a : Reg) (b : Reg) (s : State) : Out :=
  op2 s d a b fun x y => sext64 (divS (loW x) (loW y)).2

/-- R149. Writes the zero-extended unsigned 32-bit remainder. -/
def execRemW32 (d : Reg) (a : Reg) (b : Reg) (s : State) : Out :=
  op2 s d a b fun x y => (divU (loW x) (loW y)).2.zeroExtend 64

end Sys2Proof.Machine
end

