-- ==== Sys2Proof/Machine/Queues.lean ====
section
/-! DEFINITION. Day barriers, vigils and queue counts (R62, R184 to R186). -/

namespace Sys2Proof.Machine

/-- A day barrier: the ring must be configured and the strand a member (R184). -/
def State.dayBarrier (s : State) (la : La) (i : Nat) (drain : Bool) : Out :=
  match (s.core s.cur.1).ring? i with
  | none => .next (s.trap .localRange (BitVec.ofNat 64 i))
  | some r =>
    if !(if drain then r.cfg.cons else r.cfg.prod).getLsbD s.cn then .next (s.trap .localRange (BitVec.ofNat 64 i))
    else .next (((s.hold la (.daybar i drain)).dayArrive s.cur.1 s.cn i drain).endDone s.cur.1 s.cur.2)

/-- A vigil: the ring forms need a configured ring (R185). -/
def State.vigil (s : State) (la : La) (fn : Nat) (d : Reg) (q x : Nat) : Out :=
  if 2 ≤ fn && ((s.core s.cur.1).ring? q).isNone then .next (s.trap .localRange (BitVec.ofNat 64 q))
  else s.gate [] [] [d] (.next (s.begin [] la (.vigil fn d q x)))

/-- R184. Arrives at a ring's fill barrier. -/
def execDaybarFill (r : BitVec 5) (la : La) (s : State) : Out :=
  s.dayBarrier la r.toNat false

/-- R184. Arrives at a ring's drain barrier. -/
def execDaybarDrain (r : BitVec 5) (la : La) (s : State) : Out :=
  s.dayBarrier la r.toNat true

/-- R185. Waits until a queue holds an entry. -/
def execVigilQne (d : Reg) (q : BitVec 5) (x : BitVec 5) (la : La) (s : State) : Out :=
  s.vigil la 0 d q.toNat x.toNat

/-- R185. Waits until a queue has room. -/
def execVigilQnf (d : Reg) (q : BitVec 5) (x : BitVec 5) (la : La) (s : State) : Out :=
  s.vigil la 1 d q.toNat x.toNat

/-- R185. Waits until a ring's drain day holds data. -/
def execVigilReady (d : Reg) (q : BitVec 5) (x : BitVec 5) (la : La) (s : State) : Out :=
  s.vigil la 2 d q.toNat x.toNat

/-- R185. Waits until a ring's fill barrier would not wait for room. -/
def execVigilRoom (d : Reg) (q : BitVec 5) (x : BitVec 5) (la : La) (s : State) : Out :=
  s.vigil la 3 d q.toNat x.toNat

/-- R186. Writes the number of entries in a queue. -/
def execQcount (d : Reg) (q : BitVec 5) (la : La) (s : State) : Out :=
  s.gate [] [] [d] (.next (s.lateResult [] la d (BitVec.ofNat 64 ((s.core s.cur.1).queue q.toNat).entries.length)))

end Sys2Proof.Machine
end

