-- ==== Sys2Proof/Machine/Shift.lean ====
section
/-! DEFINITION. The shift and bit operations (R147, R148). -/

namespace Sys2Proof.Machine

/-- The number of leading zero bits among the n low bits. -/
def clzN (x : Word) : Nat → Nat
  | 0 => 0
  | n + 1 => if x.getLsbD n then 0 else 1 + clzN x n

/-- The number of one bits among the n low bits. -/
def popN (x : Word) : Nat → Nat
  | 0 => 0
  | n + 1 => (if x.getLsbD n then 1 else 0) + popN x n

/-- The number of trailing zero bits, counted from bit 64 - n on. -/
def ctzN (x : Word) : Nat → Nat
  | 0 => 0
  | n + 1 => if x.getLsbD (63 - n) then 0 else 1 + ctzN x n

/-- The bits of a that the n low bits of a mask select, gathered (R148). -/
def bextN (a b : Word) : Nat → Nat
  | 0 => 0
  | n + 1 => bextN a b n + (if b.getLsbD n then (if a.getLsbD n then 2 ^ popN b n else 0) else 0)

/-- The low bits of a scattered to the positions the n low bits of a mask select (R148). -/
def bdepN (a b : Word) : Nat → Nat
  | 0 => 0
  | n + 1 => bdepN a b n + (if b.getLsbD n && a.getLsbD (popN b n) then 2 ^ n else 0)

/-- Bit i of the result is bit 63 - i. -/
def brevN (x : Word) : Nat → Nat
  | 0 => 0
  | n + 1 => brevN x n + (if x.getLsbD (63 - n) then 2 ^ n else 0)

/-- Byte j of the result is byte 7 - j. -/
def bswapOf (x : Word) : Word :=
  x.extractLsb' 0 8 ++ x.extractLsb' 8 8 ++ x.extractLsb' 16 8 ++ x.extractLsb' 24 8
    ++ x.extractLsb' 32 8 ++ x.extractLsb' 40 8 ++ x.extractLsb' 48 8 ++ x.extractLsb' 56 8

/-- The low word of a value. -/
def lowW (x : Word) : BitVec 32 := x.truncate 32

/-- R147. Shifts a left by b[5:0]. -/
def execSll (d : Reg) (a : Reg) (b : Reg) (s : State) : Out :=
  op2 s d a b fun x y => x <<< (y.toNat % 64)

/-- R147. Shifts a right with zero fill by b[5:0]. -/
def execSrl (d : Reg) (a : Reg) (b : Reg) (s : State) : Out :=
  op2 s d a b fun x y => x >>> (y.toNat % 64)

/-- R147. Shifts a right with sign fill by b[5:0]. -/
def execSra (d : Reg) (a : Reg) (b : Reg) (s : State) : Out :=
  op2 s d a b fun x y => x.sshiftRight (y.toNat % 64)

/-- R147. Rotates a left by b[5:0]. -/
def execRol (d : Reg) (a : Reg) (b : Reg) (s : State) : Out :=
  op2 s d a b fun x y => x.rotateLeft (y.toNat % 64)

/-- R147. Rotates a right by b[5:0]. -/
def execRor (d : Reg) (a : Reg) (b : Reg) (s : State) : Out :=
  op2 s d a b fun x y => x.rotateRight (y.toNat % 64)

/-- R147. Shifts the low word of a left and sign-extends the 32-bit result. -/
def execSllw (d : Reg) (a : Reg) (b : Reg) (s : State) : Out :=
  op2 s d a b fun x y => sext64 (lowW x <<< (y.toNat % 32))

/-- R147. Shifts the low word of a right with zero fill and sign-extends. -/
def execSrlw (d : Reg) (a : Reg) (b : Reg) (s : State) : Out :=
  op2 s d a b fun x y => sext64 (lowW x >>> (y.toNat % 32))

/-- R147. Shifts the low word of a right with sign fill and sign-extends. -/
def execSraw (d : Reg) (a : Reg) (b : Reg) (s : State) : Out :=
  op2 s d a b fun x y => sext64 ((lowW x).sshiftRight (y.toNat % 32))

/-- R147. Counts the leading zero bits of a. -/
def execClz (d : Reg) (a : Reg) (s : State) : Out :=
  op1 s d a fun x => BitVec.ofNat 64 (clzN x 64)

/-- R147. Counts the trailing zero bits of a. -/
def execCtz (d : Reg) (a : Reg) (s : State) : Out :=
  op1 s d a fun x => BitVec.ofNat 64 (ctzN x 64)

/-- R147. Counts the one bits of a. -/
def execPopc (d : Reg) (a : Reg) (s : State) : Out :=
  op1 s d a fun x => BitVec.ofNat 64 (popN x 64)

/-- R147. Reverses the bit order of a. -/
def execBrev (d : Reg) (a : Reg) (s : State) : Out :=
  op1 s d a fun x => BitVec.ofNat 64 (brevN x 64)

/-- R147. Reverses the byte order of a. -/
def execBswap (d : Reg) (a : Reg) (s : State) : Out :=
  op1 s d a fun x => bswapOf x

/-- R148. Gathers the bits of a selected by mask b into the low bits of d. -/
def execBext (d : Reg) (a : Reg) (b : Reg) (s : State) : Out :=
  op2 s d a b fun x y => BitVec.ofNat 64 (bextN x y 64)

/-- R148. Scatters the low bits of a to the positions selected by mask b. -/
def execBdep (d : Reg) (a : Reg) (b : Reg) (s : State) : Out :=
  op2 s d a b fun x y => BitVec.ofNat 64 (bdepN x y 64)

end Sys2Proof.Machine
end

