-- ==== Sys2Proof/Machine/SysReg.lean ====
section
/-! DEFINITION. Reads and writes of system registers (R273 to R283, R291). -/

namespace Sys2Proof.Machine

/-- R291. Reads a system register. -/
def execSrr (d : Reg) (sys : BitVec 12) (s : State) : Out :=
  match s.sysTrap sys.toNat true false with
  | some cause => .next (s.trap cause s.word)
  | none => s.gate [] [d] [d] (
    let v := s.sysValue s.cur.1 s.cn sys.toNat
    .next (((s.sysAfterRead s.cur.1 sys.toNat).write d v).retire .on))

/-- R291. Writes a system register. -/
def execSrw (sys : BitVec 12) (a : Reg) (s : State) : Out :=
  match s.sysTrap sys.toNat false true with
  | some cause => .next (s.trap cause s.word)
  | none => s.gate [a] [] [] (
    let v := s.read a
    if (s.core s.cur.1).sysRefuses sys.toNat v then .next (s.trap .localRange v)
    else .next (((s.pops [a]).retire .on).sysWrite s.cur.1 s.cn sys.toNat v))

/-- R291. Exchanges a system register with a general register. -/
def execSrx (d : Reg) (sys : BitVec 12) (a : Reg) (s : State) : Out :=
  match s.sysTrap sys.toNat true true with
  | some cause => .next (s.trap cause s.word)
  | none => s.gate [a] [d] [d] (
    let v := s.read a
    if (s.core s.cur.1).sysRefuses sys.toNat v then .next (s.trap .localRange v)
    else
      let old := s.sysValue s.cur.1 s.cn sys.toNat
      .next (((((s.pops [a]).sysAfterRead s.cur.1 sys.toNat).write d old).retire .on).sysWrite s.cur.1 s.cn sys.toNat v))

end Sys2Proof.Machine
end

