-- ==== Sys2Proof/Machine/VecCompare.lean ====
section
/-! DEFINITION. Vector comparisons and predicate operations (R202, R203). -/

namespace Sys2Proof.Machine

/-- The predicate a comparison writes: all w bits of an active lane become its result, those of an inactive lane keep
their value or become zero under Z (R202). -/
def cmpPred (w : Nat) (p : Word) (z : Bool) (old : Word) (f : Nat → Bool) : Word :=
  BitVec.ofNat 64 ((List.range 64).foldl (fun acc j =>
    let i := j / w
    let bit := if active p w i then f i else if z then false else old.getLsbD j
    acc + (if bit then 2 ^ j else 0)) 0)

/-- An integer comparison (R202). -/
def vcmpInt (s : State) (t : LaneTy) (d a b : Reg) (p : Pred) (z : Bool) (f : Int → Int → Bool) : Out :=
  let w := laneBytes t
  let sg := laneSigned t
  let va := s.rv a
  let vb := s.rv b
  s.presult (predOf d) (cmpPred w (s.rp p) z (s.rp (predOf d)) fun i => f (vlaneInt va w sg i) (vlaneInt vb w sg i)) 0

/-- A float comparison with its flags (R202). -/
def vcmpFloat (s : State) (t : FLane) (d a b : Reg) (p : Pred) (z : Bool) (f : Flt → Nat → Nat → Bool × Flags) : Out :=
  let w := flaneBytes t
  let va := s.rv a
  let vb := s.rv b
  let r := fun i => f (laneFmt t) (vlane va w i) (vlane vb w i)
  s.presult (predOf d) (cmpPred w (s.rp p) z (s.rp (predOf d)) fun i => (r i).1) (vflags w (s.rp p) fun i => (r i).2)

/-- R202. Sets predicate lanes where integer lanes are equal. -/
def execVceq (t : LaneTy) (d : Reg) (a : Reg) (b : Reg) (p : Pred) (z : Bool) (s : State) : Out :=
  vcmpInt s t d a b p z fun x y => x == y

/-- R202. Sets predicate lanes where integer lanes differ. -/
def execVcne (t : LaneTy) (d : Reg) (a : Reg) (b : Reg) (p : Pred) (z : Bool) (s : State) : Out :=
  vcmpInt s t d a b p z fun x y => x != y

/-- R202. Sets predicate lanes where integer lanes are less. -/
def execVclt (t : LaneTy) (d : Reg) (a : Reg) (b : Reg) (p : Pred) (z : Bool) (s : State) : Out :=
  vcmpInt s t d a b p z fun x y => decide (x < y)

/-- R202. Sets predicate lanes where integer lanes are less or equal. -/
def execVcle (t : LaneTy) (d : Reg) (a : Reg) (b : Reg) (p : Pred) (z : Bool) (s : State) : Out :=
  vcmpInt s t d a b p z fun x y => decide (x ≤ y)

/-- R202. Sets predicate lanes where float lanes are equal. -/
def execVcfeq (t : FLane) (d : Reg) (a : Reg) (b : Reg) (p : Pred) (z : Bool) (s : State) : Out :=
  vcmpFloat s t d a b p z fun f x y => f.compare .eq x y

/-- R202. Sets predicate lanes where float lanes are less. -/
def execVcflt (t : FLane) (d : Reg) (a : Reg) (b : Reg) (p : Pred) (z : Bool) (s : State) : Out :=
  vcmpFloat s t d a b p z fun f x y => f.compare .lt x y

/-- R202. Sets predicate lanes where float lanes are less or equal. -/
def execVcfle (t : FLane) (d : Reg) (a : Reg) (b : Reg) (p : Pred) (z : Bool) (s : State) : Out :=
  vcmpFloat s t d a b p z fun f x y => f.compare .le x y

/-- R202. Sets predicate lanes where either float lane is NaN. -/
def execVcfun (t : FLane) (d : Reg) (a : Reg) (b : Reg) (p : Pred) (z : Bool) (s : State) : Out :=
  vcmpFloat s t d a b p z fun f x y => (f.isNan x || f.isNan y, f.snanFlag [x, y])

/-- R203. ANDs two predicates. -/
def execPand (d : Reg) (a : Reg) (b : Reg) (s : State) : Out :=
  s.presult (predOf d) (s.rp (predOf a) &&& s.rp (predOf b)) 0

/-- R203. ORs two predicates. -/
def execPor (d : Reg) (a : Reg) (b : Reg) (s : State) : Out :=
  s.presult (predOf d) (s.rp (predOf a) ||| s.rp (predOf b)) 0

/-- R203. XORs two predicates. -/
def execPxor (d : Reg) (a : Reg) (b : Reg) (s : State) : Out :=
  s.presult (predOf d) (s.rp (predOf a) ^^^ s.rp (predOf b)) 0

/-- R203. ANDs a predicate with NOT another. -/
def execPandn (d : Reg) (a : Reg) (b : Reg) (s : State) : Out :=
  s.presult (predOf d) (s.rp (predOf a) &&& ~~~s.rp (predOf b)) 0

/-- R203. Inverts a predicate. -/
def execPnot (d : Reg) (a : Reg) (s : State) : Out :=
  s.presult (predOf d) (~~~s.rp (predOf a)) 0

/-- R203. Loads a predicate from a general register. -/
def execPfromg (d : Reg) (a : Reg) (s : State) : Out :=
  s.gate [a] [] [] ((s.pops [a]).presult (predOf d) (s.read a) 0)

/-- R203. Copies a predicate to a general register. -/
def execPtog (d : Reg) (a : Reg) (s : State) : Out :=
  s.result [] d (s.rp (predOf a))

end Sys2Proof.Machine
end

