-- ==== Sys2Proof/Machine/VecConvert.lean ====
section
/-! DEFINITION. Vector conversions, DX and MX (R206 to R209). -/

namespace Sys2Proof.Machine

/-- Widening of 16 lanes in the low half of va to binary32; a NaN becomes canonical (R206). -/
def vwidenFloat (s : State) (f : Flt) (d a : Reg) (p : Pred) : Out :=
  let va := s.rv a
  let r := fun i => f.convert binary32 .rne (vlane va 2 i)
  s.vresult d (vbuild 4 (s.rp p) false (s.rv d) fun i => (r i).1) (vflags 4 (s.rp p) fun i => (r i).2)

/-- Narrowing of va and vb to 32 lanes of 16 bits under FCTL.RM, ROD included (R206). -/
def vnarrowFloat (s : State) (f : Flt) (d a b : Reg) (p : Pred) : Out :=
  let va := s.rv a
  let vb := s.rv b
  let r := fun i => binary32.convert f s.me.rm (vlane (if i < 16 then va else vb) 4 (i % 16))
  s.vresult d (vbuild 2 (s.rp p) false (s.rv d) fun i => (r i).1) (vflags 2 (s.rp p) fun i => (r i).2)

/-- 32-bit integers to binary32 (R206). -/
def vfromInt (s : State) (signed : Bool) (d a : Reg) (p : Pred) : Out :=
  let va := s.rv a
  let r := fun i => binary32.ofInt s.me.rm (vlaneInt va 4 signed i)
  s.vresult d (vbuild 4 (s.rp p) false (s.rv d) fun i => (r i).1) (vflags 4 (s.rp p) fun i => (r i).2)

/-- binary32 to saturated 32-bit integers (R34, R206). -/
def vtoInt (s : State) (signed : Bool) (d a : Reg) (p : Pred) : Out :=
  let va := s.rv a
  let r := fun i => (binary32.value (vlane va 4 i)).toInt s.me.rm signed 32
  s.vresult d (vbuild 4 (s.rp p) false (s.rv d) fun i => laneOfInt 4 (r i).1) (vflags 4 (s.rp p) fun i => (r i).2)

/-- The 32 binary32 values of va and vb; a value in an inactive lane is +0 (R207). -/
def thirtyTwo (s : State) (a b : Reg) (p : Pred) : List Num :=
  (List.range 32).map fun i =>
    if active (s.rp p) 4 (i % 16) then binary32.value (vlane (s.rv (if i < 16 then a else b)) 4 (i % 16)) else .fin false 0 0

/-- Widening of half a DX block under the scale pair and half index of vb's lane 0 (R207). -/
def vfromDx (s : State) (x : Dx) (d a b : Reg) (p : Pred) : Out :=
  let blk := (s.rv a).toNat
  let sc := vlane (s.rv b) 4 0
  s.vresult d (vbuild 4 (s.rp p) false (s.rv d) fun i =>
    (binary32.round .rne (x.value (x.elem blk (16 * (sc / 2 ^ 16 % 2) + i)) (sc % 256) (sc / 256 % 256))).1) 0

/-- The mode of a narrowing to DX or MX: ROD when FCTL.RM = 4, else RNE (R207, R208). -/
def blockMode (s : State) : Mode := if s.me.rm = .rod then .rod else .rne

/-- Encoding of 32 values under the scale pair in vd's low bytes (R207). -/
def vtoDx (s : State) (x : Dx) (d a b : Reg) (p : Pred) : Out :=
  let sc := vlane (s.rv d) 4 0
  let o := x.encode (blockMode s) (sc % 256) (sc / 256 % 256) (thirtyTwo s a b p)
  s.vresult d (BitVec.ofNat 512 o.1) o.2

/-- Widening of half an MX block (R208). -/
def vfromMx (s : State) (x : Mx) (d a b : Reg) (p : Pred) : Out :=
  let blk := (s.rv a).toNat
  let sc := vlane (s.rv b) 4 0
  let r := fun i => binary32.round s.me.rm.plain (x.value (x.elem blk (16 * (sc / 2 ^ 16 % 2) + i)) (sc % 256))
  s.vresult d (vbuild 4 (s.rp p) false (s.rv d) fun i => (r i).1) (vflags 4 (s.rp p) fun i => (r i).2)

/-- Encoding of 32 values as an MX block followed by its scale byte (R208). -/
def vtoMx (s : State) (x : Mx) (d a b : Reg) (p : Pred) : Out :=
  let o := x.ofValues (blockMode s) (thirtyTwo s a b p)
  s.vresult d (BitVec.ofNat 512 (o.1 + o.2.1 * 2 ^ (32 * x.bits))) o.2.2

/-- A DX type code (R129). -/
def dxOf : DxTy → Dx
  | .d16 => d16
  | .d8 => d8
  | .d4 => d4

/-- The elements that take part in `vdxdot`: those whose lowest bit lies in an active byte (R209). -/
def activeElems (x : Dx) (p : Word) : List Nat := (List.range 32).filter fun i => p.getLsbD (i * x.bits / 8)

/-- R206. Widens binary16 lanes to binary32. -/
def execVcvtF32F16 (d : Reg) (a : Reg) (p : Pred) (s : State) : Out :=
  vwidenFloat s binary16 d a p

/-- R206. Narrows binary32 lanes of two registers to binary16. -/
def execVcvtF16F32 (d : Reg) (a : Reg) (b : Reg) (p : Pred) (s : State) : Out :=
  vnarrowFloat s binary16 d a b p

/-- R206. Widens bfloat16 lanes to binary32. -/
def execVcvtF32Bf16 (d : Reg) (a : Reg) (p : Pred) (s : State) : Out :=
  vwidenFloat s bfloat16 d a p

/-- R206. Narrows binary32 lanes to bfloat16. -/
def execVcvtBf16F32 (d : Reg) (a : Reg) (b : Reg) (p : Pred) (s : State) : Out :=
  vnarrowFloat s bfloat16 d a b p

/-- R206. Converts signed 32-bit lanes to binary32. -/
def execVcvtF32I32 (d : Reg) (a : Reg) (p : Pred) (s : State) : Out :=
  vfromInt s true d a p

/-- R206. Converts unsigned 32-bit lanes to binary32. -/
def execVcvtF32W32 (d : Reg) (a : Reg) (p : Pred) (s : State) : Out :=
  vfromInt s false d a p

/-- R206. Converts binary32 lanes to saturated signed integers. -/
def execVcvtI32F32 (d : Reg) (a : Reg) (p : Pred) (s : State) : Out :=
  vtoInt s true d a p

/-- R206. Converts binary32 lanes to saturated unsigned integers. -/
def execVcvtW32F32 (d : Reg) (a : Reg) (p : Pred) (s : State) : Out :=
  vtoInt s false d a p

/-- R206. Sign-extends bytes to 32-bit lanes. -/
def execVcvtI32I8 (d : Reg) (a : Reg) (p : Pred) (s : State) : Out :=
  let va := s.rv a
  s.vresult d (vbuild 4 (s.rp p) false (s.rv d) fun i => laneOfInt 4 (vlaneInt va 1 true i)) 0

/-- R206. Saturates 32-bit lanes of two registers to bytes. -/
def execVcvtI8I32 (d : Reg) (a : Reg) (b : Reg) (p : Pred) (s : State) : Out :=
  let va := s.rv a
  let vb := s.rv b
  let lane := fun i => laneOfInt 1 (satInt (-128) 127 (vlaneInt (if i < 16 then va else vb) 4 true (i % 16)))
  s.vresult d (vbuild 1 (s.rp p) false (s.rv d) lane &&& BitVec.ofNat 512 (2 ^ 256 - 1)) 0

/-- R207. Widens half a D16 block to binary32 lanes. -/
def execVcvtF32D16 (d : Reg) (a : Reg) (b : Reg) (p : Pred) (s : State) : Out :=
  vfromDx s d16 d a b p

/-- R207. Widens half a D8 block to binary32 lanes. -/
def execVcvtF32D8 (d : Reg) (a : Reg) (b : Reg) (p : Pred) (s : State) : Out :=
  vfromDx s d8 d a b p

/-- R207. Widens half a D4 block to binary32 lanes. -/
def execVcvtF32D4 (d : Reg) (a : Reg) (b : Reg) (p : Pred) (s : State) : Out :=
  vfromDx s d4 d a b p

/-- R207. Encodes 32 binary32 values as a D16 block under a given scale pair. -/
def execVcvtD16F32 (d : Reg) (a : Reg) (b : Reg) (p : Pred) (s : State) : Out :=
  vtoDx s d16 d a b p

/-- R207. Encodes 32 binary32 values as a D8 block under a given scale pair. -/
def execVcvtD8F32 (d : Reg) (a : Reg) (b : Reg) (p : Pred) (s : State) : Out :=
  vtoDx s d8 d a b p

/-- R207. Encodes 32 binary32 values as a D4 block under a given scale pair. -/
def execVcvtD4F32 (d : Reg) (a : Reg) (b : Reg) (p : Pred) (s : State) : Out :=
  vtoDx s d4 d a b p

/-- R208. Widens MXFP8 E4M3 elements to binary32. -/
def execVcvtF32E4m3 (d : Reg) (a : Reg) (b : Reg) (p : Pred) (s : State) : Out :=
  vfromMx s e4m3 d a b p

/-- R208. Widens MXFP8 E5M2 elements to binary32. -/
def execVcvtF32E5m2 (d : Reg) (a : Reg) (b : Reg) (p : Pred) (s : State) : Out :=
  vfromMx s e5m2 d a b p

/-- R208. Widens MXFP6 E2M3 elements to binary32. -/
def execVcvtF32E2m3 (d : Reg) (a : Reg) (b : Reg) (p : Pred) (s : State) : Out :=
  vfromMx s e2m3 d a b p

/-- R208. Widens MXFP6 E3M2 elements to binary32. -/
def execVcvtF32E3m2 (d : Reg) (a : Reg) (b : Reg) (p : Pred) (s : State) : Out :=
  vfromMx s e3m2 d a b p

/-- R208. Widens MXFP4 E2M1 elements to binary32. -/
def execVcvtF32E2m1 (d : Reg) (a : Reg) (b : Reg) (p : Pred) (s : State) : Out :=
  vfromMx s e2m1 d a b p

/-- R208. Widens MXINT8 elements to binary32. -/
def execVcvtF32Mxi8 (d : Reg) (a : Reg) (b : Reg) (p : Pred) (s : State) : Out :=
  vfromMx s mxi8 d a b p

/-- R208. Encodes 32 binary32 values as an E4M3 block with its scale. -/
def execVcvtE4m3F32 (d : Reg) (a : Reg) (b : Reg) (p : Pred) (s : State) : Out :=
  vtoMx s e4m3 d a b p

/-- R208. Encodes 32 binary32 values as an E5M2 block with its scale. -/
def execVcvtE5m2F32 (d : Reg) (a : Reg) (b : Reg) (p : Pred) (s : State) : Out :=
  vtoMx s e5m2 d a b p

/-- R208. Encodes 32 binary32 values as an E2M3 block with its scale. -/
def execVcvtE2m3F32 (d : Reg) (a : Reg) (b : Reg) (p : Pred) (s : State) : Out :=
  vtoMx s e2m3 d a b p

/-- R208. Encodes 32 binary32 values as an E3M2 block with its scale. -/
def execVcvtE3m2F32 (d : Reg) (a : Reg) (b : Reg) (p : Pred) (s : State) : Out :=
  vtoMx s e3m2 d a b p

/-- R208. Encodes 32 binary32 values as an E2M1 block with its scale. -/
def execVcvtE2m1F32 (d : Reg) (a : Reg) (b : Reg) (p : Pred) (s : State) : Out :=
  vtoMx s e2m1 d a b p

/-- R208. Encodes 32 binary32 values as an MXINT8 block with its scale. -/
def execVcvtMxi8F32 (d : Reg) (a : Reg) (b : Reg) (p : Pred) (s : State) : Out :=
  vtoMx s mxi8 d a b p

/-- R209. Adds the exact dot product of two DX blocks to a binary32 accumulator. -/
def execVdxdot (t : DxTy) (d : Reg) (a : Reg) (b : Reg) (p : Pred) (s : State) : Out :=
  let x := dxOf t
  let va := (s.rv a).toNat
  let vb := (s.rv b).toNat
  let sc := vlane (s.rv d) 4 0
  let ps := (activeElems x (s.rp p)).map fun i =>
    (x.value (x.elem va i) (sc % 256) (sc / 2 ^ 8 % 256), x.value (x.elem vb i) (sc / 2 ^ 16 % 256) (sc / 2 ^ 24 % 256))
  let o := blockStep (vlane (s.rv d) 4 1) ps
  s.vresult d (BitVec.ofNat 512 (putSlot 32 32 o.1 (s.rv d).toNat)) o.2

/-- R207. Computes the DX scale pair of 32 binary32 values. -/
def execVdxamax (t : DxTy) (d : Reg) (a : Reg) (b : Reg) (p : Pred) (s : State) : Out :=
  let sc := (dxOf t).scales (thirtyTwo s a b p)
  s.vresult d (BitVec.ofNat 512 (sc.1 + 256 * sc.2.1)) sc.2.2

end Sys2Proof.Machine
end

