-- ==== Sys2Proof/Machine/VecFloat.lean ====
section
/-! DEFINITION. Float vector operations and fused forms (R200, R201). -/

namespace Sys2Proof.Machine

/-- A float lane operation under FCTL.RM (R200): `f format mode x y`. -/
def vfloat (s : State) (t : FLane) (d a b : Reg) (p : Pred) (z : Bool) (f : Flt → Mode → Nat → Nat → Nat × Flags) : Out :=
  let w := flaneBytes t
  let va := s.rv a
  let vb := s.rv b
  let r := fun i => f (laneFmt t) s.me.rm (vlane va w i) (vlane vb w i)
  s.vresult d (vbuild w (s.rp p) z (s.rv d) fun i => (r i).1) (vflags w (s.rp p) fun i => (r i).2)

/-- A fused form of format V3 (R201): inactive lanes keep their values. -/
def vfused (s : State) (t : FLane) (np nc : Bool) (d a b c : Reg) (p : Pred) : Out :=
  let w := flaneBytes t
  let va := s.rv a
  let vb := s.rv b
  let vc := s.rv c
  let r := fun i => (laneFmt t).fma s.me.rm np nc (vlane va w i) (vlane vb w i) (vlane vc w i)
  s.vresult d (vbuild w (s.rp p) false (s.rv d) fun i => (r i).1) (vflags w (s.rp p) fun i => (r i).2)

/-- An integer multiply-add of lanes of w bytes (R201). -/
def vmadd (s : State) (w : Nat) (d a b c : Reg) (p : Pred) : Out :=
  let va := s.rv a
  let vb := s.rv b
  let vc := s.rv c
  s.vresult d (vbuild w (s.rp p) false (s.rv d) fun i => vlane va w i * vlane vb w i + vlane vc w i) 0

/-- R200. Adds float lanes. -/
def execVfadd (t : FLane) (d : Reg) (a : Reg) (b : Reg) (p : Pred) (z : Bool) (s : State) : Out :=
  vfloat s t d a b p z fun f m x y => f.add m x y

/-- R200. Subtracts float lanes. -/
def execVfsub (t : FLane) (d : Reg) (a : Reg) (b : Reg) (p : Pred) (z : Bool) (s : State) : Out :=
  vfloat s t d a b p z fun f m x y => f.sub m x y

/-- R200. Multiplies float lanes. -/
def execVfmul (t : FLane) (d : Reg) (a : Reg) (b : Reg) (p : Pred) (z : Bool) (s : State) : Out :=
  vfloat s t d a b p z fun f m x y => f.mul m x y

/-- R200. Divides float lanes. -/
def execVfdiv (t : FLane) (d : Reg) (a : Reg) (b : Reg) (p : Pred) (z : Bool) (s : State) : Out :=
  vfloat s t d a b p z fun f m x y => f.div m x y

/-- R200. Takes the square root of float lanes. -/
def execVfsqrt (t : FLane) (d : Reg) (a : Reg) (p : Pred) (z : Bool) (s : State) : Out :=
  vfloat s t d a a p z fun f m x _ => f.sqrt m x

/-- R200. Writes the minimumNumber of float lanes. -/
def execVfmin (t : FLane) (d : Reg) (a : Reg) (b : Reg) (p : Pred) (z : Bool) (s : State) : Out :=
  vfloat s t d a b p z fun f _ x y => f.pickNumber false x y

/-- R200. Writes the maximumNumber of float lanes. -/
def execVfmax (t : FLane) (d : Reg) (a : Reg) (b : Reg) (p : Pred) (z : Bool) (s : State) : Out :=
  vfloat s t d a b p z fun f _ x y => f.pickNumber true x y

/-- R200. Clears the sign bit of float lanes. -/
def execVfabs (t : FLane) (d : Reg) (a : Reg) (p : Pred) (z : Bool) (s : State) : Out :=
  vfloat s t d a a p z fun f _ x _ => (f.withSign x false, 0)

/-- R201. Fused multiply-add of binary32 lanes. -/
def execVfmaF32 (d : Reg) (a : Reg) (b : Reg) (c : Reg) (p : Pred) (s : State) : Out :=
  vfused s .f32 false false d a b c p

/-- R201. Fused multiply-subtract of binary32 lanes. -/
def execVfmsF32 (d : Reg) (a : Reg) (b : Reg) (c : Reg) (p : Pred) (s : State) : Out :=
  vfused s .f32 false true d a b c p

/-- R201. Negated fused multiply-add of binary32 lanes. -/
def execVfnmaF32 (d : Reg) (a : Reg) (b : Reg) (c : Reg) (p : Pred) (s : State) : Out :=
  vfused s .f32 true true d a b c p

/-- R201. Negated fused multiply-subtract of binary32 lanes. -/
def execVfnmsF32 (d : Reg) (a : Reg) (b : Reg) (c : Reg) (p : Pred) (s : State) : Out :=
  vfused s .f32 true false d a b c p

/-- R201. Fused multiply-add of binary16 lanes. -/
def execVfmaF16 (d : Reg) (a : Reg) (b : Reg) (c : Reg) (p : Pred) (s : State) : Out :=
  vfused s .f16 false false d a b c p

/-- R201. Fused multiply-add of bfloat16 lanes. -/
def execVfmaBf16 (d : Reg) (a : Reg) (b : Reg) (c : Reg) (p : Pred) (s : State) : Out :=
  vfused s .bf16 false false d a b c p

/-- R201. Integer multiply-add of 32-bit lanes. -/
def execVmaddI32 (d : Reg) (a : Reg) (b : Reg) (c : Reg) (p : Pred) (s : State) : Out :=
  vmadd s 4 d a b c p

/-- R201. Integer multiply-add of 16-bit lanes. -/
def execVmaddI16 (d : Reg) (a : Reg) (b : Reg) (c : Reg) (p : Pred) (s : State) : Out :=
  vmadd s 2 d a b c p

end Sys2Proof.Machine
end

