-- ==== Sys2Proof/Machine/VecInt.lean ====
section
/-! DEFINITION. Integer and bitwise vector operations (R198, R199). -/

namespace Sys2Proof.Machine

/-- An integer lane operation (R198): `f signed width x y` gives the exact result of a lane. -/
def vint (s : State) (t : LaneTy) (d a b : Reg) (p : Pred) (z : Bool) (f : Bool → Nat → Int → Int → Int) : Out :=
  let w := laneBytes t
  let sg := laneSigned t
  let va := s.rv a
  let vb := s.rv b
  s.vresult d (vbuild w (s.rp p) z (s.rv d) fun i =>
    laneOfInt w (f sg (8 * w) (vlaneInt va w sg i) (vlaneInt vb w sg i))) 0

/-- Saturation into a lane (R26). -/
def satLane (signed : Bool) (bits : Nat) (v : Int) : Int := satInt (intLo signed bits) (intHi signed bits) v

/-- A bitwise operation, predicated per byte lane (R199). -/
def vbits (s : State) (d a b : Reg) (p : Pred) (z : Bool) (f : VReg → VReg → VReg) : Out :=
  let r := f (s.rv a) (s.rv b)
  s.vresult d (vbuild 1 (s.rp p) z (s.rv d) fun i => vlane r 1 i) 0

/-- A shift by the low bits of vb's lane (R199): `f bits x n`. -/
def vshift (s : State) (t : LaneTy) (d a b : Reg) (p : Pred) (z : Bool) (f : Nat → Nat → Nat → Nat) : Out :=
  let w := laneBytes t
  let va := s.rv a
  let vb := s.rv b
  s.vresult d (vbuild w (s.rp p) z (s.rv d) fun i => f (8 * w) (vlane va w i) (vlane vb w i % (8 * w))) 0

/-- Arithmetic right shift of a lane. -/
def sraLane (bits x n : Nat) : Nat :=
  if 2 ^ (bits - 1) ≤ x then x / 2 ^ n + (2 ^ n - 1) * 2 ^ (bits - n) else x / 2 ^ n

/-- R198. Adds integer lanes modulo the width. -/
def execVadd (t : LaneTy) (d : Reg) (a : Reg) (b : Reg) (p : Pred) (z : Bool) (s : State) : Out :=
  vint s t d a b p z fun _ _ x y => x + y

/-- R198. Subtracts integer lanes modulo the width. -/
def execVsub (t : LaneTy) (d : Reg) (a : Reg) (b : Reg) (p : Pred) (z : Bool) (s : State) : Out :=
  vint s t d a b p z fun _ _ x y => x - y

/-- R198. Multiplies integer lanes modulo the width. -/
def execVmul (t : LaneTy) (d : Reg) (a : Reg) (b : Reg) (p : Pred) (z : Bool) (s : State) : Out :=
  vint s t d a b p z fun _ _ x y => x * y

/-- R198. Writes the high half of integer lane products. -/
def execVmulh (t : LaneTy) (d : Reg) (a : Reg) (b : Reg) (p : Pred) (z : Bool) (s : State) : Out :=
  vint s t d a b p z fun _ w x y => x * y / 2 ^ w

/-- R198. Writes the smaller integer lane. -/
def execVmin (t : LaneTy) (d : Reg) (a : Reg) (b : Reg) (p : Pred) (z : Bool) (s : State) : Out :=
  vint s t d a b p z fun _ _ x y => min x y

/-- R198. Writes the larger integer lane. -/
def execVmax (t : LaneTy) (d : Reg) (a : Reg) (b : Reg) (p : Pred) (z : Bool) (s : State) : Out :=
  vint s t d a b p z fun _ _ x y => max x y

/-- R198. Adds integer lanes with saturation. -/
def execVadds (t : LaneTy) (d : Reg) (a : Reg) (b : Reg) (p : Pred) (z : Bool) (s : State) : Out :=
  vint s t d a b p z fun sg w x y => satLane sg w (x + y)

/-- R198. Subtracts integer lanes with saturation. -/
def execVsubs (t : LaneTy) (d : Reg) (a : Reg) (b : Reg) (p : Pred) (z : Bool) (s : State) : Out :=
  vint s t d a b p z fun sg w x y => satLane sg w (x - y)

/-- R199. ANDs two vector registers. -/
def execVand (d : Reg) (a : Reg) (b : Reg) (p : Pred) (z : Bool) (s : State) : Out :=
  vbits s d a b p z fun x y => x &&& y

/-- R199. ORs two vector registers. -/
def execVor (d : Reg) (a : Reg) (b : Reg) (p : Pred) (z : Bool) (s : State) : Out :=
  vbits s d a b p z fun x y => x ||| y

/-- R199. XORs two vector registers. -/
def execVxor (d : Reg) (a : Reg) (b : Reg) (p : Pred) (z : Bool) (s : State) : Out :=
  vbits s d a b p z fun x y => x ^^^ y

/-- R199. ANDs va with NOT vb. -/
def execVandn (d : Reg) (a : Reg) (b : Reg) (p : Pred) (z : Bool) (s : State) : Out :=
  vbits s d a b p z fun x y => x &&& ~~~y

/-- R199. Shifts lanes left. -/
def execVsll (t : LaneTy) (d : Reg) (a : Reg) (b : Reg) (p : Pred) (z : Bool) (s : State) : Out :=
  vshift s t d a b p z fun _ x n => x * 2 ^ n

/-- R199. Shifts lanes right with zero fill. -/
def execVsrl (t : LaneTy) (d : Reg) (a : Reg) (b : Reg) (p : Pred) (z : Bool) (s : State) : Out :=
  vshift s t d a b p z fun _ x n => x / 2 ^ n

/-- R199. Shifts lanes right with sign fill. -/
def execVsra (t : LaneTy) (d : Reg) (a : Reg) (b : Reg) (p : Pred) (z : Bool) (s : State) : Out :=
  vshift s t d a b p z sraLane

end Sys2Proof.Machine
end

