-- ==== Sys2Proof/Machine/VecMem.lean ====
section
/-! DEFINITION. Vector memory accesses (R195 to R197). -/

namespace Sys2Proof.Machine

/-- The bit mask of the bytes a predicate enables among the n low ones (R195). -/
def byteBits (p : Word) : Nat → Nat
  | 0 => 0
  | n + 1 => byteBits p n + (if p.getLsbD n then 255 * 2 ^ (8 * n) else 0)

/-- `vld` and `vld.z` (R195). -/
def State.vload (s : State) (la : La) (d a b : Reg) (p : Word) (z : Bool) : Out :=
  s.loads la [a, b] [] (.bytes d p z) [(0, s.read a + s.read b, 64, byteBits p 64)]

/-- The active lanes and addresses of a gather or scatter of n-byte elements (R196). -/
def State.laneAddrs (s : State) (a b : Reg) (p : Word) (n : Nat) : List (Nat × Word) :=
  ((List.range (64 / n)).filter fun i => active p n i).map fun i =>
    (i, s.read a + BitVec.ofInt 64 (vlaneInt (s.rv b) n true i * n))

/-- Gathers (R196). With no active lane nothing is accessed and nothing changes. -/
def State.gather (s : State) (la : La) (d a b : Reg) (p : Word) (n : Nat) : Out :=
  s.loads la [a] [] (.lanes d n) ((s.laneAddrs a b p n).map fun x => (x.1, x.2, n, fullMask n))

/-- Scatters (R196). -/
def State.scatter (s : State) (la : La) (d a b : Reg) (p : Word) (n : Nat) : Out :=
  s.stores la [a] ((s.laneAddrs a b p n).map fun x => (x.1, x.2, n, fullMask n, vlane (s.rv d) n x.1))

/-- R195. Loads 64 bytes into the active bytes of a vector register. -/
def execVld (d : Reg) (a : Reg) (b : Reg) (la : La) (p : Pred) (s : State) : Out :=
  s.vload la d a b (s.rp p) false

/-- R195. Loads 64 bytes and zeroes inactive bytes. -/
def execVldZ (d : Reg) (a : Reg) (b : Reg) (la : La) (p : Pred) (s : State) : Out :=
  s.vload la d a b (s.rp p) true

/-- R195. Stores the active bytes of a vector register. -/
def execVst (d : Reg) (a : Reg) (b : Reg) (la : La) (p : Pred) (s : State) : Out :=
  s.stores la [a, b] [(0, s.read a + s.read b, 64, byteBits (s.rp p) 64, (s.rv d).toNat)]

/-- R195. Loads 4 bytes and broadcasts them to active lanes. -/
def execVlbc (d : Reg) (a : Reg) (b : Reg) (la : La) (p : Pred) (s : State) : Out :=
  s.loads la [a, b] [] (.broadcast d (s.rp p)) [(0, s.read a + s.read b, 4, fullMask 4)]

/-- R196. Gathers 32-bit elements by index. -/
def execVgathW32 (d : Reg) (a : Reg) (b : Reg) (la : La) (p : Pred) (s : State) : Out :=
  s.gather la d a b (s.rp p) 4

/-- R196. Scatters 32-bit elements by index. -/
def execVscatW32 (d : Reg) (a : Reg) (b : Reg) (la : La) (p : Pred) (s : State) : Out :=
  s.scatter la d a b (s.rp p) 4

/-- R196. Gathers 16-bit elements by index. -/
def execVgathW16 (d : Reg) (a : Reg) (b : Reg) (la : La) (p : Pred) (s : State) : Out :=
  s.gather la d a b (s.rp p) 2

/-- R196. Scatters 16-bit elements by index. -/
def execVscatW16 (d : Reg) (a : Reg) (b : Reg) (la : La) (p : Pred) (s : State) : Out :=
  s.scatter la d a b (s.rp p) 2

end Sys2Proof.Machine
end

