-- ==== Sys2Proof/Machine/VecPermute.lean ====
section
/-! DEFINITION. Permutes and moves (R204, R211). -/

namespace Sys2Proof.Machine

/-- Lane i of vd is `f width lanes va vb i` (R204). -/
def vpermute (s : State) (t : LaneTy) (d a b : Reg) (p : Pred) (z : Bool) (f : Nat → Nat → VReg → VReg → Nat → Nat) : Out :=
  let w := laneBytes t
  let va := s.rv a
  let vb := s.rv b
  s.vresult d (vbuild w (s.rp p) z (s.rv d) fun i => f w (64 / w) va vb i) 0

/-- A permute with a scalar register, which may be a queue port (R193, R204). -/
def vpermuteG (s : State) (t : LaneTy) (d a b : Reg) (p : Pred) (z : Bool) (f : Nat → Nat → VReg → Word → Nat → Nat) : Out :=
  let w := laneBytes t
  let va := s.rv a
  let g := s.read b
  s.gate [b] [] [] ((s.pops [b]).vresult d (vbuild w (s.rp p) z (s.rv d) fun i => f w (64 / w) va g i) 0)

/-- Lane i + k of va, or zero outside the register (R204). -/
def slideLane (w n : Nat) (va : VReg) (k : Int) (i : Nat) : Nat :=
  let j := (i : Int) + k
  if 0 ≤ j ∧ j < n then vlane va w j.toNat else 0

/-- One lane of a register replaced (R211). -/
def putLane (w : Nat) (old : VReg) (j v : Nat) : VReg :=
  BitVec.ofNat 512 (ofLanes w ((List.range (64 / w)).map fun i => if i = j then v else vlane old w i))

/-- R204. Permutes lanes by index. -/
def execVperm (t : LaneTy) (d : Reg) (a : Reg) (b : Reg) (p : Pred) (z : Bool) (s : State) : Out :=
  vpermute s t d a b p z fun w n x y i => vlane x w (vlane y w i % n)

/-- R204. Interleaves the low halves of two registers. -/
def execVzipl (t : LaneTy) (d : Reg) (a : Reg) (b : Reg) (p : Pred) (z : Bool) (s : State) : Out :=
  vpermute s t d a b p z fun w _ x y i => if i % 2 = 0 then vlane x w (i / 2) else vlane y w ((i - 1) / 2)

/-- R204. Interleaves the high halves of two registers. -/
def execVziph (t : LaneTy) (d : Reg) (a : Reg) (b : Reg) (p : Pred) (z : Bool) (s : State) : Out :=
  vpermute s t d a b p z fun w n x y i => if i % 2 = 0 then vlane x w (n / 2 + i / 2) else vlane y w (n / 2 + (i - 1) / 2)

/-- R204. Takes the even lanes of two registers. -/
def execVunzpe (t : LaneTy) (d : Reg) (a : Reg) (b : Reg) (p : Pred) (z : Bool) (s : State) : Out :=
  vpermute s t d a b p z fun w n x y i => if i < n / 2 then vlane x w (2 * i) else vlane y w (2 * i - n)

/-- R204. Takes the odd lanes of two registers. -/
def execVunzpo (t : LaneTy) (d : Reg) (a : Reg) (b : Reg) (p : Pred) (z : Bool) (s : State) : Out :=
  vpermute s t d a b p z fun w n x y i => if i < n / 2 then vlane x w (2 * i + 1) else vlane y w (2 * i + 1 - n)

/-- R204. Reverses lane order. -/
def execVrev (t : LaneTy) (d : Reg) (a : Reg) (p : Pred) (z : Bool) (s : State) : Out :=
  vpermute s t d a a p z fun w n x _ i => vlane x w (n - 1 - i)

/-- R204. Slides lanes by a signed scalar amount. -/
def execVslide (t : LaneTy) (d : Reg) (a : Reg) (b : Reg) (p : Pred) (z : Bool) (s : State) : Out :=
  vpermuteG s t d a b p z fun w n x g i => slideLane w n x g.toInt i

/-- R204. Broadcasts one lane selected by a scalar. -/
def execVbcl (t : LaneTy) (d : Reg) (a : Reg) (b : Reg) (p : Pred) (z : Bool) (s : State) : Out :=
  vpermuteG s t d a b p z fun w n x g _ => vlane x w (g.toNat % n)

/-- R211. Copies lanes of va to vd. -/
def execVmov (t : LaneTy) (d : Reg) (a : Reg) (p : Pred) (z : Bool) (s : State) : Out :=
  vpermute s t d a a p z fun w _ x _ i => vlane x w i

/-- R211. Broadcasts a general register to active lanes. -/
def execVdup (t : LaneTy) (d : Reg) (a : Reg) (p : Pred) (z : Bool) (s : State) : Out :=
  vpermuteG s t d a a p z fun _ _ _ g _ => g.toNat

/-- R211. Inserts a general register into one lane. -/
def execVins (t : LaneTy) (d : Reg) (a : Reg) (b : Reg) (s : State) : Out :=
  let w := laneBytes t
  s.gate [a, b] [] [] ((s.pops [a, b]).vresult d (putLane w (s.rv d) ((s.read b).toNat % (64 / w)) (s.read a).toNat) 0)

/-- R211. Extracts one lane into a general register. -/
def execVext (t : LaneTy) (d : Reg) (a : Reg) (b : Reg) (s : State) : Out :=
  let w := laneBytes t
  s.result [b] d (BitVec.ofInt 64 (vlaneInt (s.rv a) w (laneSigned t) ((s.read b).toNat % (64 / w))))

/-- R211. Selects lanes of va or vb by predicate. -/
def execVmerge (t : LaneTy) (d : Reg) (a : Reg) (b : Reg) (p : Pred) (s : State) : Out :=
  let w := laneBytes t
  let va := s.rv a
  s.vresult d (vbuild w (s.rp p) false (s.rv b) fun i => vlane va w i) 0

end Sys2Proof.Machine
end

