-- ==== Sys2Proof/Machine/VecReduce.lean ====
section
/-! DEFINITION. Vector reductions (R205). -/

namespace Sys2Proof.Machine

/-- The active lanes of a register (R205). -/
def activeLanes (w : Nat) (p : Word) : List Nat := (List.range (64 / w)).filter fun i => active p w i

/-- An integer reduction from lane 0 of vb over the active lanes of va; lanes 1 on become zero (R205). -/
def vredInt (s : State) (t : LaneTy) (d a b : Reg) (p : Pred) (f : Int → Int → Int) : Out :=
  let w := laneBytes t
  let sg := laneSigned t
  let va := s.rv a
  let r := (activeLanes w (s.rp p)).foldl (fun acc i => f acc (vlaneInt va w sg i)) (vlaneInt (s.rv b) w sg 0)
  s.vresult d (BitVec.ofNat 512 (laneOfInt w r)) 0

/-- One level of the pairwise tree (R205). -/
def pairUp (f : Flt) (m : Mode) : List Nat → List Nat × Flags
  | x :: y :: r =>
    let o := f.add m x y
    let rest := pairUp f m r
    (o.1 :: rest.1, o.2 ||| rest.2)
  | l => (l, 0)

/-- The levels of the tree. -/
def treeSum (f : Flt) (m : Mode) : Nat → List Nat → Nat × Flags
  | 0, l => (l.headD 0, 0)
  | k + 1, l =>
    let o := pairUp f m l
    let r := treeSum f m k o.1
    (r.1, o.2 ||| r.2)

/-- minimumNumber or maximumNumber over the active lanes and the running value; NV for a signalling NaN (R161, R205). -/
def vredNumber (s : State) (t : FLane) (d a b : Reg) (p : Pred) (greater : Bool) : Out :=
  let w := flaneBytes t
  let f := laneFmt t
  let va := s.rv a
  let r := (activeLanes w (s.rp p)).foldl (fun acc i =>
      let o := f.pickNumber greater acc.1 (vlane va w i)
      (o.1, acc.2 ||| o.2)) (vlane (s.rv b) w 0, f.snanFlag [vlane (s.rv b) w 0])
  s.vresult d (BitVec.ofNat 512 (if f.isNan r.1 then f.canonNan else r.1)) r.2

/-- R205. Sums active integer lanes into lane 0. -/
def execVradd (t : LaneTy) (d : Reg) (a : Reg) (b : Reg) (p : Pred) (s : State) : Out :=
  vredInt s t d a b p fun x y => x + y

/-- R205. Reduces active integer lanes to their minimum. -/
def execVrmin (t : LaneTy) (d : Reg) (a : Reg) (b : Reg) (p : Pred) (s : State) : Out :=
  vredInt s t d a b p fun x y => min x y

/-- R205. Reduces active integer lanes to their maximum. -/
def execVrmax (t : LaneTy) (d : Reg) (a : Reg) (b : Reg) (p : Pred) (s : State) : Out :=
  vredInt s t d a b p fun x y => max x y

/-- R205. Sums active float lanes in a fixed pairwise tree. -/
def execVrfadd (t : FLane) (d : Reg) (a : Reg) (b : Reg) (p : Pred) (s : State) : Out :=
  let w := flaneBytes t
  let f := laneFmt t
  let va := s.rv a
  let leaves := (List.range (64 / w)).map fun i => if active (s.rp p) w i then vlane va w i else 2 ^ (f.width - 1)
  let tree := treeSum f s.me.rm (if w = 4 then 4 else 5) leaves
  let o := f.add s.me.rm (vlane (s.rv b) w 0) tree.1
  s.vresult d (BitVec.ofNat 512 o.1) (tree.2 ||| o.2)

/-- R205. Reduces active float lanes to their minimumNumber. -/
def execVrfmin (t : FLane) (d : Reg) (a : Reg) (b : Reg) (p : Pred) (s : State) : Out :=
  vredNumber s t d a b p false

/-- R205. Reduces active float lanes to their maximumNumber. -/
def execVrfmax (t : FLane) (d : Reg) (a : Reg) (b : Reg) (p : Pred) (s : State) : Out :=
  vredNumber s t d a b p true

end Sys2Proof.Machine
end

