-- ==== Sys2Proof/Machine/VecSpecial.lean ====
section
/-! DEFINITION. Special functions (R210). -/

namespace Sys2Proof.Machine

/-- A special function on active lanes (R210). -/
def vspecial (s : State) (k : Special) (t : FLane) (d a : Reg) (p : Pred) (z : Bool) : Out :=
  let w := flaneBytes t
  let va := s.rv a
  let r := fun i => k.lane (laneFmt t) (vlane va w i)
  s.vresult d (vbuild w (s.rp p) z (s.rv d) fun i => (r i).1) (vflags w (s.rp p) fun i => (r i).2)

/-- R210. Approximates the reciprocal of float lanes. -/
def execVrcp (t : FLane) (d : Reg) (a : Reg) (p : Pred) (z : Bool) (s : State) : Out :=
  vspecial s .rcp t d a p z

/-- R210. Approximates the reciprocal square root of float lanes. -/
def execVrsqrt (t : FLane) (d : Reg) (a : Reg) (p : Pred) (z : Bool) (s : State) : Out :=
  vspecial s .rsqrt t d a p z

/-- R210. Approximates 2^x of float lanes. -/
def execVexp2 (t : FLane) (d : Reg) (a : Reg) (p : Pred) (z : Bool) (s : State) : Out :=
  vspecial s .exp2 t d a p z

/-- R210. Approximates log2 of float lanes. -/
def execVlog2 (t : FLane) (d : Reg) (a : Reg) (p : Pred) (z : Bool) (s : State) : Out :=
  vspecial s .log2 t d a p z

/-- R210. Approximates tanh of float lanes. -/
def execVtanh (t : FLane) (d : Reg) (a : Reg) (p : Pred) (z : Bool) (s : State) : Out :=
  vspecial s .tanh t d a p z

/-- R210. Approximates the logistic function of float lanes. -/
def execVsigm (t : FLane) (d : Reg) (a : Reg) (p : Pred) (z : Bool) (s : State) : Out :=
  vspecial s .sigm t d a p z

end Sys2Proof.Machine
end

