-- ==== Sys2Proof/Machine/Dispatch.lean ====
section
/-! DEFINITION. Dispatch: one arm per constructor of `Instr`, each one call of its meaning. -/

namespace Sys2Proof.Machine

def exec (i : Instr) (s : State) : Host.Outcome State Fault Refusal :=
  match i with
  | .add d a b => Sys2Proof.Machine.execAdd d a b s
  | .sub d a b => Sys2Proof.Machine.execSub d a b s
  | .and d a b => Sys2Proof.Machine.execAnd d a b s
  | .or d a b => Sys2Proof.Machine.execOr d a b s
  | .xor d a b => Sys2Proof.Machine.execXor d a b s
  | .andn d a b => Sys2Proof.Machine.execAndn d a b s
  | .orn d a b => Sys2Proof.Machine.execOrn d a b s
  | .xnor d a b => Sys2Proof.Machine.execXnor d a b s
  | .addw d a b => Sys2Proof.Machine.execAddw d a b s
  | .subw d a b => Sys2Proof.Machine.execSubw d a b s
  | .lea1 d a b => Sys2Proof.Machine.execLea1 d a b s
  | .lea2 d a b => Sys2Proof.Machine.execLea2 d a b s
  | .lea3 d a b => Sys2Proof.Machine.execLea3 d a b s
  | .lea4 d a b => Sys2Proof.Machine.execLea4 d a b s
  | .gname d a b => Sys2Proof.Machine.execGname d a b s
  | .sll d a b => Sys2Proof.Machine.execSll d a b s
  | .srl d a b => Sys2Proof.Machine.execSrl d a b s
  | .sra d a b => Sys2Proof.Machine.execSra d a b s
  | .rol d a b => Sys2Proof.Machine.execRol d a b s
  | .ror d a b => Sys2Proof.Machine.execRor d a b s
  | .sllw d a b => Sys2Proof.Machine.execSllw d a b s
  | .srlw d a b => Sys2Proof.Machine.execSrlw d a b s
  | .sraw d a b => Sys2Proof.Machine.execSraw d a b s
  | .clz d a => Sys2Proof.Machine.execClz d a s
  | .ctz d a => Sys2Proof.Machine.execCtz d a s
  | .popc d a => Sys2Proof.Machine.execPopc d a s
  | .brev d a => Sys2Proof.Machine.execBrev d a s
  | .bswap d a => Sys2Proof.Machine.execBswap d a s
  | .bext d a b => Sys2Proof.Machine.execBext d a b s
  | .bdep d a b => Sys2Proof.Machine.execBdep d a b s
  | .mul d a b => Sys2Proof.Machine.execMul d a b s
  | .mulhI64 d a b => Sys2Proof.Machine.execMulhI64 d a b s
  | .mulhW64 d a b => Sys2Proof.Machine.execMulhW64 d a b s
  | .mulI32 d a b => Sys2Proof.Machine.execMulI32 d a b s
  | .divI64 d a b => Sys2Proof.Machine.execDivI64 d a b s
  | .divW64 d a b => Sys2Proof.Machine.execDivW64 d a b s
  | .remI64 d a b => Sys2Proof.Machine.execRemI64 d a b s
  | .remW64 d a b => Sys2Proof.Machine.execRemW64 d a b s
  | .divI32 d a b => Sys2Proof.Machine.execDivI32 d a b s
  | .divW32 d a b => Sys2Proof.Machine.execDivW32 d a b s
  | .remI32 d a b => Sys2Proof.Machine.execRemI32 d a b s
  | .remW32 d a b => Sys2Proof.Machine.execRemW32 d a b s
  | .seq d a b => Sys2Proof.Machine.execSeq d a b s
  | .sne d a b => Sys2Proof.Machine.execSne d a b s
  | .sltI64 d a b => Sys2Proof.Machine.execSltI64 d a b s
  | .sltW64 d a b => Sys2Proof.Machine.execSltW64 d a b s
  | .sleI64 d a b => Sys2Proof.Machine.execSleI64 d a b s
  | .sleW64 d a b => Sys2Proof.Machine.execSleW64 d a b s
  | .minI64 d a b => Sys2Proof.Machine.execMinI64 d a b s
  | .minW64 d a b => Sys2Proof.Machine.execMinW64 d a b s
  | .maxI64 d a b => Sys2Proof.Machine.execMaxI64 d a b s
  | .maxW64 d a b => Sys2Proof.Machine.execMaxW64 d a b s
  | .czn d a b => Sys2Proof.Machine.execCzn d a b s
  | .czz d a b => Sys2Proof.Machine.execCzz d a b s
  | .fadd t rm d a b => Sys2Proof.Machine.execFadd t rm d a b s
  | .fsub t rm d a b => Sys2Proof.Machine.execFsub t rm d a b s
  | .fmul t rm d a b => Sys2Proof.Machine.execFmul t rm d a b s
  | .fdiv t rm d a b => Sys2Proof.Machine.execFdiv t rm d a b s
  | .fsqrt t rm d a => Sys2Proof.Machine.execFsqrt t rm d a s
  | .fmin t d a b => Sys2Proof.Machine.execFmin t d a b s
  | .fmax t d a b => Sys2Proof.Machine.execFmax t d a b s
  | .fsgnj t d a b => Sys2Proof.Machine.execFsgnj t d a b s
  | .fsgnjn t d a b => Sys2Proof.Machine.execFsgnjn t d a b s
  | .fsgnjx t d a b => Sys2Proof.Machine.execFsgnjx t d a b s
  | .fmac t rm d a b => Sys2Proof.Machine.execFmac t rm d a b s
  | .fmsc t rm d a b => Sys2Proof.Machine.execFmsc t rm d a b s
  | .fcvtF32F64 rm d a => Sys2Proof.Machine.execFcvtF32F64 rm d a s
  | .fcvtF64F32 d a => Sys2Proof.Machine.execFcvtF64F32 d a s
  | .fcvtF16F32 rm d a => Sys2Proof.Machine.execFcvtF16F32 rm d a s
  | .fcvtF32F16 d a => Sys2Proof.Machine.execFcvtF32F16 d a s
  | .fcvtBf16F32 rm d a => Sys2Proof.Machine.execFcvtBf16F32 rm d a s
  | .fcvtF32Bf16 d a => Sys2Proof.Machine.execFcvtF32Bf16 d a s
  | .fcvtF16F64 rm d a => Sys2Proof.Machine.execFcvtF16F64 rm d a s
  | .fcvtF64F16 d a => Sys2Proof.Machine.execFcvtF64F16 d a s
  | .fcvtF64I64 rm d a => Sys2Proof.Machine.execFcvtF64I64 rm d a s
  | .fcvtF64W64 rm d a => Sys2Proof.Machine.execFcvtF64W64 rm d a s
  | .fcvtF32I64 rm d a => Sys2Proof.Machine.execFcvtF32I64 rm d a s
  | .fcvtF32W64 rm d a => Sys2Proof.Machine.execFcvtF32W64 rm d a s
  | .fcvtI64F64 rm d a => Sys2Proof.Machine.execFcvtI64F64 rm d a s
  | .fcvtW64F64 rm d a => Sys2Proof.Machine.execFcvtW64F64 rm d a s
  | .fcvtI64F32 rm d a => Sys2Proof.Machine.execFcvtI64F32 rm d a s
  | .fcvtW64F32 rm d a => Sys2Proof.Machine.execFcvtW64F32 rm d a s
  | .fcvtI32F64 rm d a => Sys2Proof.Machine.execFcvtI32F64 rm d a s
  | .fcvtW32F64 rm d a => Sys2Proof.Machine.execFcvtW32F64 rm d a s
  | .fcvtI32F32 rm d a => Sys2Proof.Machine.execFcvtI32F32 rm d a s
  | .fcvtW32F32 rm d a => Sys2Proof.Machine.execFcvtW32F32 rm d a s
  | .fclassF64 d a => Sys2Proof.Machine.execFclassF64 d a s
  | .fclassF32 d a => Sys2Proof.Machine.execFclassF32 d a s
  | .feqF64 d a b => Sys2Proof.Machine.execFeqF64 d a b s
  | .fltF64 d a b => Sys2Proof.Machine.execFltF64 d a b s
  | .fleF64 d a b => Sys2Proof.Machine.execFleF64 d a b s
  | .feqF32 d a b => Sys2Proof.Machine.execFeqF32 d a b s
  | .fltF32 d a b => Sys2Proof.Machine.execFltF32 d a b s
  | .fleF32 d a b => Sys2Proof.Machine.execFleF32 d a b s
  | .addi d a imm => Sys2Proof.Machine.execAddi d a imm s
  | .andi d a imm => Sys2Proof.Machine.execAndi d a imm s
  | .ori d a imm => Sys2Proof.Machine.execOri d a imm s
  | .xori d a imm => Sys2Proof.Machine.execXori d a imm s
  | .sltiI64 d a imm => Sys2Proof.Machine.execSltiI64 d a imm s
  | .slli d a sh => Sys2Proof.Machine.execSlli d a sh s
  | .srli d a sh => Sys2Proof.Machine.execSrli d a sh s
  | .srai d a sh => Sys2Proof.Machine.execSrai d a sh s
  | .rori d a sh => Sys2Proof.Machine.execRori d a sh s
  | .sltiW64 d a imm => Sys2Proof.Machine.execSltiW64 d a imm s
  | .lih d imm => Sys2Proof.Machine.execLih d imm s
  | .addpc d imm => Sys2Proof.Machine.execAddpc d imm s
  | .jal d imm => Sys2Proof.Machine.execJal d imm s
  | .jalr d a imm => Sys2Proof.Machine.execJalr d a imm s
  | .beq a b off => Sys2Proof.Machine.execBeq a b off s
  | .bne a b off => Sys2Proof.Machine.execBne a b off s
  | .bltI64 a b off => Sys2Proof.Machine.execBltI64 a b off s
  | .bgeI64 a b off => Sys2Proof.Machine.execBgeI64 a b off s
  | .bltW64 a b off => Sys2Proof.Machine.execBltW64 a b off s
  | .bgeW64 a b off => Sys2Proof.Machine.execBgeW64 a b off s
  | .loop a len => Sys2Proof.Machine.execLoop a len s
  | .loopi n len => Sys2Proof.Machine.execLoopi n len s
  | .nop => Sys2Proof.Machine.execNop s
  | .pf a imm => Sys2Proof.Machine.execPf a imm s
  | .hlikely => Sys2Proof.Machine.execHlikely s
  | .hunlikely => Sys2Proof.Machine.execHunlikely s
  | .unassignedEncoding word => Sys2Proof.Machine.execUnassignedEncoding word s
  | .ldI8 d a la imm => Sys2Proof.Machine.execLdI8 d a la imm s
  | .ldW8 d a la imm => Sys2Proof.Machine.execLdW8 d a la imm s
  | .ldI16 d a la imm => Sys2Proof.Machine.execLdI16 d a la imm s
  | .ldW16 d a la imm => Sys2Proof.Machine.execLdW16 d a la imm s
  | .ldI32 d a la imm => Sys2Proof.Machine.execLdI32 d a la imm s
  | .ldW32 d a la imm => Sys2Proof.Machine.execLdW32 d a la imm s
  | .ldI64 d a la imm => Sys2Proof.Machine.execLdI64 d a la imm s
  | .stW8 d a la imm => Sys2Proof.Machine.execStW8 d a la imm s
  | .stW16 d a la imm => Sys2Proof.Machine.execStW16 d a la imm s
  | .stW32 d a la imm => Sys2Proof.Machine.execStW32 d a la imm s
  | .stW64 d a la imm => Sys2Proof.Machine.execStW64 d a la imm s
  | .ldx t d a b la => Sys2Proof.Machine.execLdx t d a b la s
  | .stx w d a b la => Sys2Proof.Machine.execStx w d a b la s
  | .stAck w d a b la => Sys2Proof.Machine.execStAck w d a b la s
  | .ldAck w d a b la => Sys2Proof.Machine.execLdAck w d a b la s
  | .aswap w d a b la => Sys2Proof.Machine.execAswap w d a b la s
  | .acas w d a b la => Sys2Proof.Machine.execAcas w d a b la s
  | .aadd w d a b la => Sys2Proof.Machine.execAadd w d a b la s
  | .aand w d a b la => Sys2Proof.Machine.execAand w d a b la s
  | .aor w d a b la => Sys2Proof.Machine.execAor w d a b la s
  | .axor w d a b la => Sys2Proof.Machine.execAxor w d a b la s
  | .amin sg w d a b la => Sys2Proof.Machine.execAmin sg w d a b la s
  | .amax sg w d a b la => Sys2Proof.Machine.execAmax sg w d a b la s
  | .fenceRel sc la => Sys2Proof.Machine.execFenceRel sc la s
  | .fenceAcq sc la => Sys2Proof.Machine.execFenceAcq sc la s
  | .fenceFull sc la => Sys2Proof.Machine.execFenceFull sc la s
  | .fenceAck la => Sys2Proof.Machine.execFenceAck la s
  | .alook d a la => Sys2Proof.Machine.execAlook d a la s
  | .alfill d a b la => Sys2Proof.Machine.execAlfill d a b la s
  | .alevict a la => Sys2Proof.Machine.execAlevict a la s
  | .bar a la => Sys2Proof.Machine.execBar a la s
  | .bcastSend a b la => Sys2Proof.Machine.execBcastSend a b la s
  | .bcastRecv d a la => Sys2Proof.Machine.execBcastRecv d a la s
  | .redAdd d a b la => Sys2Proof.Machine.execRedAdd d a b la s
  | .redMinI64 d a b la => Sys2Proof.Machine.execRedMinI64 d a b la s
  | .redMinW64 d a b la => Sys2Proof.Machine.execRedMinW64 d a b la s
  | .redMaxI64 d a b la => Sys2Proof.Machine.execRedMaxI64 d a b la s
  | .redMaxW64 d a b la => Sys2Proof.Machine.execRedMaxW64 d a b la s
  | .daybarFill r la => Sys2Proof.Machine.execDaybarFill r la s
  | .daybarDrain r la => Sys2Proof.Machine.execDaybarDrain r la s
  | .vigilQne d q x la => Sys2Proof.Machine.execVigilQne d q x la s
  | .vigilQnf d q x la => Sys2Proof.Machine.execVigilQnf d q x la s
  | .vigilReady d q x la => Sys2Proof.Machine.execVigilReady d q x la s
  | .vigilRoom d q x la => Sys2Proof.Machine.execVigilRoom d q x la s
  | .qcount d q la => Sys2Proof.Machine.execQcount d q la s
  | .spawn a la => Sys2Proof.Machine.execSpawn a la s
  | .take d la => Sys2Proof.Machine.execTake d la s
  | .join a la => Sys2Proof.Machine.execJoin a la s
  | .yield la => Sys2Proof.Machine.execYield la s
  | .retire la => Sys2Proof.Machine.execRetire la s
  | .laz a la => Sys2Proof.Machine.execLaz a la s
  | .laadd a b la => Sys2Proof.Machine.execLaadd a b la s
  | .laaddp a b d la => Sys2Proof.Machine.execLaaddp a b d la s
  | .larndF32 d a la => Sys2Proof.Machine.execLarndF32 d a la s
  | .larndF64 d a la => Sys2Proof.Machine.execLarndF64 d a la s
  | .cpy d a b la => Sys2Proof.Machine.execCpy d a b la s
  | .cpy2 d a b la => Sys2Proof.Machine.execCpy2 d a b la s
  | .cpyh d a b la => Sys2Proof.Machine.execCpyh d a b la s
  | .cpyf d a b la => Sys2Proof.Machine.execCpyf d a b la s
  | .cpycan d la => Sys2Proof.Machine.execCpycan d la s
  | .erd d a => Sys2Proof.Machine.execErd d a s
  | .ewr d a => Sys2Proof.Machine.execEwr d a s
  | .vld d a b la p => Sys2Proof.Machine.execVld d a b la p s
  | .vst d a b la p => Sys2Proof.Machine.execVst d a b la p s
  | .vldZ d a b la p => Sys2Proof.Machine.execVldZ d a b la p s
  | .vgathW32 d a b la p => Sys2Proof.Machine.execVgathW32 d a b la p s
  | .vscatW32 d a b la p => Sys2Proof.Machine.execVscatW32 d a b la p s
  | .vgathW16 d a b la p => Sys2Proof.Machine.execVgathW16 d a b la p s
  | .vscatW16 d a b la p => Sys2Proof.Machine.execVscatW16 d a b la p s
  | .vlbc d a b la p => Sys2Proof.Machine.execVlbc d a b la p s
  | .vadd t d a b p z => Sys2Proof.Machine.execVadd t d a b p z s
  | .vsub t d a b p z => Sys2Proof.Machine.execVsub t d a b p z s
  | .vmul t d a b p z => Sys2Proof.Machine.execVmul t d a b p z s
  | .vmulh t d a b p z => Sys2Proof.Machine.execVmulh t d a b p z s
  | .vmin t d a b p z => Sys2Proof.Machine.execVmin t d a b p z s
  | .vmax t d a b p z => Sys2Proof.Machine.execVmax t d a b p z s
  | .vadds t d a b p z => Sys2Proof.Machine.execVadds t d a b p z s
  | .vsubs t d a b p z => Sys2Proof.Machine.execVsubs t d a b p z s
  | .vand d a b p z => Sys2Proof.Machine.execVand d a b p z s
  | .vor d a b p z => Sys2Proof.Machine.execVor d a b p z s
  | .vxor d a b p z => Sys2Proof.Machine.execVxor d a b p z s
  | .vandn d a b p z => Sys2Proof.Machine.execVandn d a b p z s
  | .vsll t d a b p z => Sys2Proof.Machine.execVsll t d a b p z s
  | .vsrl t d a b p z => Sys2Proof.Machine.execVsrl t d a b p z s
  | .vsra t d a b p z => Sys2Proof.Machine.execVsra t d a b p z s
  | .vfadd t d a b p z => Sys2Proof.Machine.execVfadd t d a b p z s
  | .vfsub t d a b p z => Sys2Proof.Machine.execVfsub t d a b p z s
  | .vfmul t d a b p z => Sys2Proof.Machine.execVfmul t d a b p z s
  | .vfdiv t d a b p z => Sys2Proof.Machine.execVfdiv t d a b p z s
  | .vfsqrt t d a p z => Sys2Proof.Machine.execVfsqrt t d a p z s
  | .vfmin t d a b p z => Sys2Proof.Machine.execVfmin t d a b p z s
  | .vfmax t d a b p z => Sys2Proof.Machine.execVfmax t d a b p z s
  | .vfabs t d a p z => Sys2Proof.Machine.execVfabs t d a p z s
  | .vfmaF32 d a b c p => Sys2Proof.Machine.execVfmaF32 d a b c p s
  | .vfmsF32 d a b c p => Sys2Proof.Machine.execVfmsF32 d a b c p s
  | .vfnmaF32 d a b c p => Sys2Proof.Machine.execVfnmaF32 d a b c p s
  | .vfnmsF32 d a b c p => Sys2Proof.Machine.execVfnmsF32 d a b c p s
  | .vfmaF16 d a b c p => Sys2Proof.Machine.execVfmaF16 d a b c p s
  | .vfmaBf16 d a b c p => Sys2Proof.Machine.execVfmaBf16 d a b c p s
  | .vmaddI32 d a b c p => Sys2Proof.Machine.execVmaddI32 d a b c p s
  | .vmaddI16 d a b c p => Sys2Proof.Machine.execVmaddI16 d a b c p s
  | .vceq t d a b p z => Sys2Proof.Machine.execVceq t d a b p z s
  | .vcne t d a b p z => Sys2Proof.Machine.execVcne t d a b p z s
  | .vclt t d a b p z => Sys2Proof.Machine.execVclt t d a b p z s
  | .vcle t d a b p z => Sys2Proof.Machine.execVcle t d a b p z s
  | .vcfeq t d a b p z => Sys2Proof.Machine.execVcfeq t d a b p z s
  | .vcflt t d a b p z => Sys2Proof.Machine.execVcflt t d a b p z s
  | .vcfle t d a b p z => Sys2Proof.Machine.execVcfle t d a b p z s
  | .vcfun t d a b p z => Sys2Proof.Machine.execVcfun t d a b p z s
  | .pand d a b => Sys2Proof.Machine.execPand d a b s
  | .por d a b => Sys2Proof.Machine.execPor d a b s
  | .pxor d a b => Sys2Proof.Machine.execPxor d a b s
  | .pandn d a b => Sys2Proof.Machine.execPandn d a b s
  | .pnot d a => Sys2Proof.Machine.execPnot d a s
  | .pfromg d a => Sys2Proof.Machine.execPfromg d a s
  | .ptog d a => Sys2Proof.Machine.execPtog d a s
  | .vperm t d a b p z => Sys2Proof.Machine.execVperm t d a b p z s
  | .vzipl t d a b p z => Sys2Proof.Machine.execVzipl t d a b p z s
  | .vziph t d a b p z => Sys2Proof.Machine.execVziph t d a b p z s
  | .vunzpe t d a b p z => Sys2Proof.Machine.execVunzpe t d a b p z s
  | .vunzpo t d a b p z => Sys2Proof.Machine.execVunzpo t d a b p z s
  | .vrev t d a p z => Sys2Proof.Machine.execVrev t d a p z s
  | .vslide t d a b p z => Sys2Proof.Machine.execVslide t d a b p z s
  | .vbcl t d a b p z => Sys2Proof.Machine.execVbcl t d a b p z s
  | .vradd t d a b p => Sys2Proof.Machine.execVradd t d a b p s
  | .vrmin t d a b p => Sys2Proof.Machine.execVrmin t d a b p s
  | .vrmax t d a b p => Sys2Proof.Machine.execVrmax t d a b p s
  | .vrfadd t d a b p => Sys2Proof.Machine.execVrfadd t d a b p s
  | .vrfmin t d a b p => Sys2Proof.Machine.execVrfmin t d a b p s
  | .vrfmax t d a b p => Sys2Proof.Machine.execVrfmax t d a b p s
  | .vcvtF32F16 d a p => Sys2Proof.Machine.execVcvtF32F16 d a p s
  | .vcvtF16F32 d a b p => Sys2Proof.Machine.execVcvtF16F32 d a b p s
  | .vcvtF32Bf16 d a p => Sys2Proof.Machine.execVcvtF32Bf16 d a p s
  | .vcvtBf16F32 d a b p => Sys2Proof.Machine.execVcvtBf16F32 d a b p s
  | .vcvtF32I32 d a p => Sys2Proof.Machine.execVcvtF32I32 d a p s
  | .vcvtF32W32 d a p => Sys2Proof.Machine.execVcvtF32W32 d a p s
  | .vcvtI32F32 d a p => Sys2Proof.Machine.execVcvtI32F32 d a p s
  | .vcvtW32F32 d a p => Sys2Proof.Machine.execVcvtW32F32 d a p s
  | .vcvtI32I8 d a p => Sys2Proof.Machine.execVcvtI32I8 d a p s
  | .vcvtI8I32 d a b p => Sys2Proof.Machine.execVcvtI8I32 d a b p s
  | .vcvtF32D16 d a b p => Sys2Proof.Machine.execVcvtF32D16 d a b p s
  | .vcvtF32D8 d a b p => Sys2Proof.Machine.execVcvtF32D8 d a b p s
  | .vcvtF32D4 d a b p => Sys2Proof.Machine.execVcvtF32D4 d a b p s
  | .vcvtD16F32 d a b p => Sys2Proof.Machine.execVcvtD16F32 d a b p s
  | .vcvtD8F32 d a b p => Sys2Proof.Machine.execVcvtD8F32 d a b p s
  | .vcvtD4F32 d a b p => Sys2Proof.Machine.execVcvtD4F32 d a b p s
  | .vcvtF32E4m3 d a b p => Sys2Proof.Machine.execVcvtF32E4m3 d a b p s
  | .vcvtF32E5m2 d a b p => Sys2Proof.Machine.execVcvtF32E5m2 d a b p s
  | .vcvtF32E2m3 d a b p => Sys2Proof.Machine.execVcvtF32E2m3 d a b p s
  | .vcvtF32E3m2 d a b p => Sys2Proof.Machine.execVcvtF32E3m2 d a b p s
  | .vcvtF32E2m1 d a b p => Sys2Proof.Machine.execVcvtF32E2m1 d a b p s
  | .vcvtF32Mxi8 d a b p => Sys2Proof.Machine.execVcvtF32Mxi8 d a b p s
  | .vcvtE4m3F32 d a b p => Sys2Proof.Machine.execVcvtE4m3F32 d a b p s
  | .vcvtE5m2F32 d a b p => Sys2Proof.Machine.execVcvtE5m2F32 d a b p s
  | .vcvtE2m3F32 d a b p => Sys2Proof.Machine.execVcvtE2m3F32 d a b p s
  | .vcvtE3m2F32 d a b p => Sys2Proof.Machine.execVcvtE3m2F32 d a b p s
  | .vcvtE2m1F32 d a b p => Sys2Proof.Machine.execVcvtE2m1F32 d a b p s
  | .vcvtMxi8F32 d a b p => Sys2Proof.Machine.execVcvtMxi8F32 d a b p s
  | .vrcp t d a p z => Sys2Proof.Machine.execVrcp t d a p z s
  | .vrsqrt t d a p z => Sys2Proof.Machine.execVrsqrt t d a p z s
  | .vexp2 t d a p z => Sys2Proof.Machine.execVexp2 t d a p z s
  | .vlog2 t d a p z => Sys2Proof.Machine.execVlog2 t d a p z s
  | .vtanh t d a p z => Sys2Proof.Machine.execVtanh t d a p z s
  | .vsigm t d a p z => Sys2Proof.Machine.execVsigm t d a p z s
  | .vmov t d a p z => Sys2Proof.Machine.execVmov t d a p z s
  | .vdup t d a p z => Sys2Proof.Machine.execVdup t d a p z s
  | .vins t d a b => Sys2Proof.Machine.execVins t d a b s
  | .vext t d a b => Sys2Proof.Machine.execVext t d a b s
  | .vmerge t d a b p => Sys2Proof.Machine.execVmerge t d a b p s
  | .vdxdot t d a b p => Sys2Proof.Machine.execVdxdot t d a b p s
  | .vdxamax t d a b p => Sys2Proof.Machine.execVdxamax t d a b p s
  | .tview m a la => Sys2Proof.Machine.execTview m a la s
  | .twload m a la => Sys2Proof.Machine.execTwload m a la s
  | .tmma m ma mb g acc la => Sys2Proof.Machine.execTmma m ma mb g acc la s
  | .tadd m ma mb la => Sys2Proof.Machine.execTadd m ma mb la s
  | .tmulw m ma mb la => Sys2Proof.Machine.execTmulw m ma mb la s
  | .tscale m ma b la => Sys2Proof.Machine.execTscale m ma b la s
  | .tactRelu m ma la => Sys2Proof.Machine.execTactRelu m ma la s
  | .tactGelu m ma la => Sys2Proof.Machine.execTactGelu m ma la s
  | .tactSigm m ma la => Sys2Proof.Machine.execTactSigm m ma la s
  | .tactTanh m ma la => Sys2Proof.Machine.execTactTanh m ma la s
  | .tactExp m ma la => Sys2Proof.Machine.execTactExp m ma la s
  | .tcvt m ma b la => Sys2Proof.Machine.execTcvt m ma b la s
  | .tredRowsum m ma la => Sys2Proof.Machine.execTredRowsum m ma la s
  | .tredColsum m ma la => Sys2Proof.Machine.execTredColsum m ma la s
  | .tredRowmax m ma la => Sys2Proof.Machine.execTredRowmax m ma la s
  | .tredColmax m ma la => Sys2Proof.Machine.execTredColmax m ma la s
  | .tmask m ma b la => Sys2Proof.Machine.execTmask m ma b la s
  | .tforce m a la => Sys2Proof.Machine.execTforce m a la s
  | .tstore m a b la => Sys2Proof.Machine.execTstore m a b la s
  | .tdrop m la => Sys2Proof.Machine.execTdrop m la s
  | .tquery m a la => Sys2Proof.Machine.execTquery m a la s
  | .scall => Sys2Proof.Machine.execScall s
  | .brk => Sys2Proof.Machine.execBrk s
  | .rett => Sys2Proof.Machine.execRett s
  | .wfi => Sys2Proof.Machine.execWfi s
  | .halt => Sys2Proof.Machine.execHalt s
  | .srr d sys => Sys2Proof.Machine.execSrr d sys s
  | .srw sys a => Sys2Proof.Machine.execSrw sys a s
  | .srx d sys a => Sys2Proof.Machine.execSrx d sys a s
  | .startS a b => Sys2Proof.Machine.execStartS a b s
  | .reap a => Sys2Proof.Machine.execReap a s
  | .slotw a b => Sys2Proof.Machine.execSlotw a b s
  | .ptsync => Sys2Proof.Machine.execPtsync s
  | .netsync => Sys2Proof.Machine.execNetsync s
  | .l1wb => Sys2Proof.Machine.execL1wb s
  | .l1inv => Sys2Proof.Machine.execL1inv s
  | .accspill k a => Sys2Proof.Machine.execAccspill k a s
  | .accfill k a => Sys2Proof.Machine.execAccfill k a s
  | .kslotw d a => Sys2Proof.Machine.execKslotw d a s
  | .kslotclr d => Sys2Proof.Machine.execKslotclr d s
  | .nselw d a => Sys2Proof.Machine.execNselw d a s
  | .grpw d a => Sys2Proof.Machine.execGrpw d a s
  | .blkfence d => Sys2Proof.Machine.execBlkfence d s
  | .doorbellWrite core strand => Sys2Proof.Machine.execDoorbellWrite core strand s
  | .hostmsgRead core strand => Sys2Proof.Machine.execHostmsgRead core strand s
  | .ipendWrite core strand v => Sys2Proof.Machine.execIpendWrite core strand v s
  | .tcmpWrite core strand v => Sys2Proof.Machine.execTcmpWrite core strand v s
  | .advqWrite core high v => Sys2Proof.Machine.execAdvqWrite core high v s
  | .tstatusWrite core strand v => Sys2Proof.Machine.execTstatusWrite core strand v s
  | .fctlWrite core strand v => Sys2Proof.Machine.execFctlWrite core strand v s
  | .interruptEntry core strand => Sys2Proof.Machine.execInterruptEntry core strand s
  | .timerExpiry core strand => Sys2Proof.Machine.execTimerExpiry core strand s
  | .wfiWake core strand => Sys2Proof.Machine.execWfiWake core strand s
  | .deferredTrap core strand => Sys2Proof.Machine.execDeferredTrap core strand s
  | .longLatencyComplete core strand => Sys2Proof.Machine.execLongLatencyComplete core strand s
  | .slotTableSwitch core => Sys2Proof.Machine.execSlotTableSwitch core s
  | .yieldTimeout core strand => Sys2Proof.Machine.execYieldTimeout core strand s
  | .portRequest core q => Sys2Proof.Machine.execPortRequest core q s
  | .sliceAccess slice q => Sys2Proof.Machine.execSliceAccess slice q s
  | .sliceMissFill slice line => Sys2Proof.Machine.execSliceMissFill slice line s
  | .walkRequest slice line => Sys2Proof.Machine.execWalkRequest slice line s
  | .walkEntryReturn slice line => Sys2Proof.Machine.execWalkEntryReturn slice line s
  | .walkRetry slice line => Sys2Proof.Machine.execWalkRetry slice line s
  | .walkRaceExhausted slice line => Sys2Proof.Machine.execWalkRaceExhausted slice line s
  | .loadResponse core strand home r => Sys2Proof.Machine.execLoadResponse core strand home r s
  | .postedStoreAck core strand home refused => Sys2Proof.Machine.execPostedStoreAck core strand home refused s
  | .l1FillResponse core line r => Sys2Proof.Machine.execL1FillResponse core line r s
  | .l1WritebackReply core line performed => Sys2Proof.Machine.execL1WritebackReply core line performed s
  | .writebackRetry core => Sys2Proof.Machine.execWritebackRetry core s
  | .lockRegistration home e => Sys2Proof.Machine.execLockRegistration home e s
  | .lockRegistrationAck core lock home answer => Sys2Proof.Machine.execLockRegistrationAck core lock home answer s
  | .registrationRetryTimeout core strand => Sys2Proof.Machine.execRegistrationRetryTimeout core strand s
  | .lockRelease home owner lock => Sys2Proof.Machine.execLockRelease home owner lock s
  | .queueTimeout core strand => Sys2Proof.Machine.execQueueTimeout core strand s
  | .vigilTimeout core strand => Sys2Proof.Machine.execVigilTimeout core strand s
  | .dayBarrierAdvance core ring drain => Sys2Proof.Machine.execDayBarrierAdvance core ring drain s
  | .dayBarrierTimeout core strand => Sys2Proof.Machine.execDayBarrierTimeout core strand s
  | .barrierArrival g core from_ => Sys2Proof.Machine.execBarrierArrival g core from_ s
  | .groupWaitTimeout core strand => Sys2Proof.Machine.execGroupWaitTimeout core strand s
  | .barrierWithdrawal g core reduction from_ => Sys2Proof.Machine.execBarrierWithdrawal g core reduction from_ s
  | .broadcastAccept g core strand v => Sys2Proof.Machine.execBroadcastAccept g core strand v s
  | .broadcastFloodArrival g core seq v => Sys2Proof.Machine.execBroadcastFloodArrival g core seq v s
  | .broadcastCreditReturn g core seq from_ => Sys2Proof.Machine.execBroadcastCreditReturn g core seq from_ s
  | .bcastSendTimeout core strand => Sys2Proof.Machine.execBcastSendTimeout core strand s
  | .bcastRecvTimeout core strand => Sys2Proof.Machine.execBcastRecvTimeout core strand s
  | .reductionContribution g core strand op v from_ => Sys2Proof.Machine.execReductionContribution g core strand op v from_ s
  | .theftRequest victim thief strand => Sys2Proof.Machine.execTheftRequest victim thief strand s
  | .theftReply thief strand fr => Sys2Proof.Machine.execTheftReply thief strand fr s
  | .levellingInterval core => Sys2Proof.Machine.execLevellingInterval core s
  | .levellingGrantRequest core asker count => Sys2Proof.Machine.execLevellingGrantRequest core asker count s
  | .levellingGrant core granter count => Sys2Proof.Machine.execLevellingGrant core granter count s
  | .levelledFrameArrival core sender fr unused => Sys2Proof.Machine.execLevelledFrameArrival core sender fr unused s
  | .tileStep cluster => Sys2Proof.Machine.execTileStep cluster s
  | .arrayLeaseHandover cluster => Sys2Proof.Machine.execArrayLeaseHandover cluster s
  | .twloadFetchComplete core node => Sys2Proof.Machine.execTwloadFetchComplete core node s
  | .accBankWaitTimeout core strand => Sys2Proof.Machine.execAccBankWaitTimeout core strand s
  | .copyStart core copy => Sys2Proof.Machine.execCopyStart core copy s
  | .streamerUnitRead core copy unit => Sys2Proof.Machine.execStreamerUnitRead core copy unit s
  | .copyUnitWrite core copy unit data => Sys2Proof.Machine.execCopyUnitWrite core copy unit data s
  | .copyStatusWrite core copy => Sys2Proof.Machine.execCopyStatusWrite core copy s
  | .cpyhArrival core copy => Sys2Proof.Machine.execCpyhArrival core copy s
  | .cpyhBarrierTimeout core copy => Sys2Proof.Machine.execCpyhBarrierTimeout core copy s
  | .cpyhSourceRegistration core copy => Sys2Proof.Machine.execCpyhSourceRegistration core copy s
  | .copyResume target => Sys2Proof.Machine.execCopyResume target s
  | .intercalationRequest rq run saveBase incoming => Sys2Proof.Machine.execIntercalationRequest rq run saveBase incoming s
  | .intercalationProposal part run site => Sys2Proof.Machine.execIntercalationProposal part run site s
  | .intercalationCommit part run => Sys2Proof.Machine.execIntercalationCommit part run s
  | .intercalationStop core => Sys2Proof.Machine.execIntercalationStop core s
  | .switchOutPoint core => Sys2Proof.Machine.execSwitchOutPoint core s
  | .coreSwitchedOut core => Sys2Proof.Machine.execCoreSwitchedOut core s
  | .ejectSectionCopy part run => Sys2Proof.Machine.execEjectSectionCopy part run s
  | .resume part run => Sys2Proof.Machine.execResume part run s
  | .resumeIssue part run => Sys2Proof.Machine.execResumeIssue part run s
  | .createPartition rq c0 c1 s0 s1 ptroot => Sys2Proof.Machine.execCreatePartition rq c0 c1 s0 s1 ptroot s
  | .destroyPartition rq => Sys2Proof.Machine.execDestroyPartition rq s
  | .launch rq rb => Sys2Proof.Machine.execLaunch rq rb s
  | .stewardStart part run => Sys2Proof.Machine.execStewardStart part run s
  | .endRun rq run trapped => Sys2Proof.Machine.execEndRun rq run trapped s
  | .hostmsg rq name v => Sys2Proof.Machine.execHostmsg rq name v s
  | .completionRelease core => Sys2Proof.Machine.execCompletionRelease core s
  | .harvest part run => Sys2Proof.Machine.execHarvest part run s
  | .dirtyLogMerge site => Sys2Proof.Machine.execDirtyLogMerge site s
  | .invalidationLogApply site => Sys2Proof.Machine.execInvalidationLogApply site s
  | .mapPage rq va leaf tables => Sys2Proof.Machine.execMapPage rq va leaf tables s
  | .unmapPage rq va => Sys2Proof.Machine.execUnmapPage rq va s
  | .movePage rq va frame => Sys2Proof.Machine.execMovePage rq va frame s
  | .clearD rq va => Sys2Proof.Machine.execClearD rq va s
  | .dirtyQuery rq va => Sys2Proof.Machine.execDirtyQuery rq va s
  | .groupTableWrite rq idx im => Sys2Proof.Machine.execGroupTableWrite rq idx im s
  | .groupTableRead rq idx => Sys2Proof.Machine.execGroupTableRead rq idx s
  | .keyLoad rq wrapped slot target => Sys2Proof.Machine.execKeyLoad rq wrapped slot target s
  | .keyClear rq slot => Sys2Proof.Machine.execKeyClear rq slot s
  | .setWriteSlot rq slot => Sys2Proof.Machine.execSetWriteSlot rq slot s
  | .journalRead rq seq => Sys2Proof.Machine.execJournalRead rq seq s
  | .startRecord rq chip action => Sys2Proof.Machine.execStartRecord rq chip action s
  | .warmReset rq => Sys2Proof.Machine.execWarmReset rq s
  | .coldReset rq => Sys2Proof.Machine.execColdReset rq s
  | .retentionEntry rq sites => Sys2Proof.Machine.execRetentionEntry rq sites s
  | .retentionExit rq sites => Sys2Proof.Machine.execRetentionExit rq sites s
  | .powerOff rq sites => Sys2Proof.Machine.execPowerOff rq sites s
  | .powerOn rq sites => Sys2Proof.Machine.execPowerOn rq sites s
  | .linkBind rq link tag rxBase rxLen => Sys2Proof.Machine.execLinkBind rq link tag rxBase rxLen s
  | .firmwareUpdate rq image signature => Sys2Proof.Machine.execFirmwareUpdate rq image signature s
  | .eccErrorDetected e => Sys2Proof.Machine.execEccErrorDetected e s
  | .modulePowerGood => Sys2Proof.Machine.execModulePowerGood s
  | .powerGood chip => Sys2Proof.Machine.execPowerGood chip s
  | .clockLocked chip => Sys2Proof.Machine.execClockLocked chip s
  | .linksTrained chip => Sys2Proof.Machine.execLinksTrained chip s
  | .configLoaded chip => Sys2Proof.Machine.execConfigLoaded chip s
  | .selfTestPassed chip live => Sys2Proof.Machine.execSelfTestPassed chip live s
  | .chipReady chip => Sys2Proof.Machine.execChipReady chip s
  | .bringupLimitOverrun chip why => Sys2Proof.Machine.execBringupLimitOverrun chip why s
  | .wavefrontArrival chip source origin => Sys2Proof.Machine.execWavefrontArrival chip source origin s
  | .bondMarkedDead bond => Sys2Proof.Machine.execBondMarkedDead bond s
  | .routingTableLoad router set table crc signature => Sys2Proof.Machine.execRoutingTableLoad router set table crc signature s
  | .routingTableCommit => Sys2Proof.Machine.execRoutingTableCommit s
  | .routingUpdateAbort => Sys2Proof.Machine.execRoutingUpdateAbort s
  | .regulatorPhaseFailure site block => Sys2Proof.Machine.execRegulatorPhaseFailure site block s
  | .droopStretch site block => Sys2Proof.Machine.execDroopStretch site block s
  | .droopCap site block => Sys2Proof.Machine.execDroopCap site block s
  | .bondSupplyReading bond drop => Sys2Proof.Machine.execBondSupplyReading bond drop s
  | .thermalReading band milliC => Sys2Proof.Machine.execThermalReading band milliC s
  | .thermalFence band => Sys2Proof.Machine.execThermalFence band s
  | .thermalStepUp band => Sys2Proof.Machine.execThermalStepUp band s
  | .linkFlitReceive link f => Sys2Proof.Machine.execLinkFlitReceive link f s
  | .linkRetryExhausted link => Sys2Proof.Machine.execLinkRetryExhausted link s
  | .calendsFlitSend link => Sys2Proof.Machine.execCalendsFlitSend link s
  | .copyWaitTimeout core strand => Sys2Proof.Machine.execCopyWaitTimeout core strand s
  | .operandFetchComplete core strand => Sys2Proof.Machine.execOperandFetchComplete core strand s
  | .secondTierCompletion core strand => Sys2Proof.Machine.execSecondTierCompletion core strand s
  | .instructionFetchReturn core strand => Sys2Proof.Machine.execInstructionFetchReturn core strand s
  | .droopEnd site block => Sys2Proof.Machine.execDroopEnd site block s
  | .powerLoss => Sys2Proof.Machine.execPowerLoss s
  | .pageFaultRefusal rq run va => Sys2Proof.Machine.execPageFaultRefusal rq run va s

end Sys2Proof.Machine
end

