-- ==== Sys2Proof/Machine/Due.lean ====
section
/-! DEFINITION. What is due: the events that time brings about on a core, in a run and in the module, and which messages
in flight may be delivered next (log 1). -/

namespace Sys2Proof.Machine

/-! ### Time (R62, R71, R110, R114, R117, R182, R185, R190, R240, R248, R253, R284, R294, R311, R319, R341, R355) -/

/-- The event that its wait brings about for an outstanding instruction at its strand's slot, where the condition has just
been tested and does not hold (R62, R71, R114, R182, R185, R190, R240). -/
def State.dueOutst (s : State) (c n : Nat) (o : Outst) : Option Event :=
  let k := s.core c
  if o.err.isSome then none
  else if (s.heldResult c n).any fun x => k.limit ≤ k.ticks - x.2 then some (.queueTimeout c n)
  else match o.phase with
    | .vigil fn _ q x => if 2 ^ x ≤ s.elapsed c n && !k.vigilHolds fn q then some (.vigilTimeout c n) else none
    | .daybar i _ => match k.ring? i with
      | none => none
      | some r => if 2 ^ r.cfg.wait ≤ s.elapsed c n then some (.dayBarrierTimeout c n) else none
    | .bcastSend r _ false (some first) => if s.groupLate c r first then some (.bcastSendTimeout c n) else none
    | .bcastRecv r _ (some first) _ =>
      if s.groupLate c r first && (lookupD [] r.idx k.bcast).isEmpty then some (.bcastRecvTimeout c n) else none
    | .yield => if 4096 ≤ s.elapsed c n then some (.yieldTimeout c n) else none
    | .register _ refused _ _ _ =>
      if !refused.isEmpty && k.limit ≤ s.elapsed c n then some (.registrationRetryTimeout c n) else none
    | .demand (w :: _) (some _) (some since) =>
      if k.limit ≤ k.ticks - since && s.bindBank c == .wait && (k.node? w.node).isSome then some (.accBankWaitTimeout c n)
      else none
    | _ => none

/-- The event that its wait brings about for an instruction that could not issue at its strand's slot (R114, R248). -/
def State.dueStall (s : State) (c n : Nat) : Option Event :=
  let k := s.core c
  match (k.strand n).stall with
  | none => none
  | some w =>
    if (k.strand n).outst.isSome || w.pc != (k.strand n).pc || k.ticks - w.since < k.limit then none
    else match w.why with
      | .queue _ _ => some (.queueTimeout c n)
      | .bound => some (.copyWaitTimeout c n)
      | .channel => some (.copyWaitTimeout c n)
      | _ => none

/-- The event that time brings about for a strand whatever its slots: a WAITING strand wakes, and a strand that has waited
for its group withdraws its core (R117, R284, R289). -/
def State.dueStrand (s : State) (c n : Nat) : Option Event :=
  let k := s.core c
  let t := k.strand n
  match t.life with
  | .waiting =>
    if k.enabled n = 0 then none else some (if t.tcmp.ule k.calends then .timerExpiry c n else .wfiWake c n)
  | .running => match t.outst, k.waitsOn n with
    | some o, some (r, red) => if s.groupLate c r o.since && !((k.arrival? r.idx red).any Arrival.withdrawn) then some (.groupWaitTimeout c n) else none
    | _, _ => none
  | _ => none

/-- A halo copy of the core has waited at its barrier for the group's limit (R253). -/
def State.dueHalo (s : State) (c : Nat) : Option Event :=
  (s.core c).copies.findSome? fun x => match x.phase with
    | .barrier since =>
      let r := x.group (s.partOf c)
      match s.group? r with
      | none => none
      | some g =>
        if 2 ^ g.image.wait ≤ (s.core c).ticks - since && !(((s.core c).arrival? r.idx false).any Arrival.withdrawn) then some (.cpyhBarrierTimeout c x.id)
        else none
    | _ => none

/-- The levelling interval of a core has passed (R110). -/
def Core.levels (k : Core) : Bool :=
  k.run.isSome && !k.retired && !k.stopped && k.balance != 0 && k.deque.taken && k.levelAt ≤ k.ticks

/-- The stop point of a core's run has come (R312). -/
def State.stopsNow (s : State) (c : Nat) : Bool :=
  match s.runOf c with
  | none => false
  | some r => match r.inter with
    | none => false
    | some i => i.committed && !(s.core c).stopped && i.stop.toNat ≤ (s.core c).calends.toNat && r.placed

/-- Time passes for a core's waits: not from its stop point to the cc in which it issues again (R320). -/
def State.counts (s : State) (c : Nat) : Bool :=
  let k := s.core c
  !k.stopped && match s.runOf c with
    | none => true
    | some r => r.life != .resuming && r.issueFrom.toNat ≤ k.calends.toNat

/-- The event that time brings about on a core. -/
def State.dueCore (s : State) (c : Nat) : Option Event :=
  let k := s.core c
  if s.stopsNow c then some (.intercalationStop c)
  else if !s.counts c then none
  else if k.nextSlots.isSome then some (.slotTableSwitch c)
  else if k.levels then some (.levellingInterval c)
  else match s.dueHalo c with
    | some e => some e
    | none => (List.range 16).findSome? fun n => s.dueStrand c n

/-- The event that the calends counter brings about for a run: its set-up goes on, its stewards begin, or it issues again
(R53, R319, R341). -/
def State.dueRun (s : State) (r : Run) : Option Event :=
  match r.life with
  | .settingUp _ todo =>
    if todo.isEmpty && (s.regionClean r || r.startT.toNat ≤ s.wafer.toNat) then some (.stewardStart r.part r.ctx) else none
  | .starting => if r.startT.toNat ≤ s.wafer.toNat then some (.stewardStart r.part r.ctx) else none
  | .resuming => if r.issueFrom.toNat ≤ s.wafer.toNat then some (.resumeIssue r.part r.ctx) else none
  | _ => none

/-- The event that the calends counter brings about for a routing update whose commit value is proposed (R355). -/
def State.dueUpdate (s : State) : Option Event :=
  match s.update with
  | none => none
  | some u => match u.stop with
    | none => none
    | some t =>
      if u.agreed then if t.toNat ≤ s.wafer.toNat then some .routingTableCommit else none
      else if t.toNat ≤ s.wafer.toNat + 8192 then some .routingUpdateAbort else none

/-- The event that the calends counter brings about in a run or in the module. -/
def State.dueModule (s : State) : Option Event :=
  match s.runs.findSome? s.dueRun, s.dueUpdate with
  | some e, _ => some e
  | none, some e => some e
  | none, none => s.dueHouse

/-! ### Messages (R76, R79, R182, R255) -/

/-- A pair whose messages stay in order: a core and a home, a home's replies to a core, a streamer, named by the home it
stands beside, and a destination home, a core's copy channel, whose copies issue their unit requests in rotation (R256), a group's root and a member (R76), the host and a core it sends messages to (R340). -/
inductive Pair where
  | home (core : Nat) (h : Home)
  | reply (core : Nat) (h : Home)
  | streamer (at_ dst : Home)
  | channel (core : Nat)
  | flood (g : GroupRef) (core : Nat)
  | host (part name : Nat)
  deriving DecidableEq, Repr

/-- The pair a message belongs to, if its order is kept. -/
def State.pair? (s : State) : Event → Option Pair
  | .portRequest c q => some (.home q.core (.pad c))
  | .sliceAccess k q => some (.home q.core (.slice k))
  | .lockRegistration h e => some (.home e.core h)
  | .lockRelease h c _ => some (.home c h)
  | .theftRequest v c _ => some (.home c (.pad v))
  | .levellingGrantRequest b a _ => some (.home a (.pad b))
  | .levelledFrameArrival b a _ _ => some (.home a (.pad b))
  | .barrierArrival g _ m => (s.nextUp g m).map fun r => .home m (.pad r)
  | .barrierWithdrawal g _ _ m => (s.nextUp g m).map fun r => .home m (.pad r)
  | .broadcastAccept g c _ _ => (s.rootOf g).map fun r => .home c (.pad r)
  | .broadcastCreditReturn g _ _ m => (s.nextUp g m).map fun r => .home m (.pad r)
  | .reductionContribution g _ _ _ _ m => (s.nextUp g m).map fun r => .home m (.pad r)
  | .loadResponse c _ h _ => some (.reply c h)
  | .postedStoreAck c _ h _ => some (.reply c h)
  | .l1FillResponse c line _ => some (.reply c (.slice (s.homeSlice (s.partOf c) line)))
  | .l1WritebackReply c line _ => some (.reply c (.slice (s.homeSlice (s.partOf c) line)))
  | .lockRegistrationAck c _ h _ => some (.reply c h)
  | .theftReply c n _ => match (s.strand c n).phase? with
    | some (.take _ asked _ _) => asked.getLast?.map fun v => .reply c (.pad v)
    | _ => none
  | .levellingGrant c b _ => some (.reply c (.pad b))
  | .streamerUnitRead c _ _ => some (.channel c)
  | .copyUnitWrite c i u d => match (s.core c).copy? i with
    | none => none
    | some k => (k.units[u]?).bind fun x => (s.partHome c k u d).map fun h => .streamer (s.homeOf c x.src) h
  | .broadcastFloodArrival g c _ _ => some (.flood g c)
  | .hostmsg rq name _ => some (.host rq.part name)
  | _ => none

/-- The places in the agenda of the messages that may be delivered next: none has an earlier one of its pair. -/
def State.deliverableFrom (s : State) : Nat → List Pair → List Event → List Nat
  | _, _, [] => []
  | i, seen, e :: r => match s.pair? e with
    | none => i :: s.deliverableFrom (i + 1) seen r
    | some p => if seen.contains p then s.deliverableFrom (i + 1) seen r else i :: s.deliverableFrom (i + 1) (p :: seen) r

def State.deliverable (s : State) : List Nat := s.deliverableFrom 0 [] s.agenda

end Sys2Proof.Machine
end

