-- ==== Sys2Proof/Machine/Shadow.lean ====
section
/-! DEFINITION. Register use of instructions, for the shadow of a long-latency instruction (R102). -/

namespace Sys2Proof.Machine

/-- A register of a strand by file. -/
inductive RegName where
  | g (r : Reg)
  | v (r : Reg)
  | p (n : Pred)
  | e (r : Reg)
  deriving DecidableEq, Repr

/-- What an instruction reads and writes. -/
structure RegUse where
  reads : List RegName
  writes : List RegName
  deriving DecidableEq, Repr

/-- g0 and p0 are constants and hold nothing (R9, R97). -/
def RegName.held : RegName → Bool
  | .g r => r != 0
  | .p n => n != 0
  | _ => true

def noUse : RegUse := { reads := [], writes := [] }
/-- General registers only. -/
def gUse (srcs : List Reg) (d : Reg) : RegUse := { reads := srcs.map .g, writes := [.g d] }
/-- A vector destination, whose inactive lanes are read where they are kept (R192). -/
def vUse (srcs : List RegName) (d : Reg) (p : Pred) (z : Bool) : RegUse :=
  { reads := srcs ++ [.p p] ++ (if p = 0 ∨ z then [] else [.v d]), writes := [.v d] }
/-- A predicate destination of a compare. -/
def cUse (srcs : List Reg) (d : Reg) (p : Pred) (z : Bool) : RegUse :=
  { reads := srcs.map .v ++ [.p p] ++ (if p = 0 ∨ z then [] else [.p (predOf d)]), writes := [.p (predOf d)] }
/-- A copy reads n address registers from a, a scalar b, and binds d (R249). -/
def copyUse (n : Nat) (a b d : Reg) : RegUse :=
  { reads := .g b :: (List.range n).map fun i => .e (a + BitVec.ofNat 5 i), writes := [.g d] }

/-- The registers of a register-only instruction that may issue in a shadow; none for every other instruction: ordering
class not None, a branch, jump or loop, a system instruction, or format M, L or T (R94, R102). -/
def shadowUse : Instr → Option RegUse
  | .add d a b => some (gUse [a, b] d)
  | .sub d a b => some (gUse [a, b] d)
  | .and d a b => some (gUse [a, b] d)
  | .or d a b => some (gUse [a, b] d)
  | .xor d a b => some (gUse [a, b] d)
  | .andn d a b => some (gUse [a, b] d)
  | .orn d a b => some (gUse [a, b] d)
  | .xnor d a b => some (gUse [a, b] d)
  | .addw d a b => some (gUse [a, b] d)
  | .subw d a b => some (gUse [a, b] d)
  | .lea1 d a b => some (gUse [a, b] d)
  | .lea2 d a b => some (gUse [a, b] d)
  | .lea3 d a b => some (gUse [a, b] d)
  | .lea4 d a b => some (gUse [a, b] d)
  | .gname d a b => some (gUse [a, b] d)
  | .sll d a b => some (gUse [a, b] d)
  | .srl d a b => some (gUse [a, b] d)
  | .sra d a b => some (gUse [a, b] d)
  | .rol d a b => some (gUse [a, b] d)
  | .ror d a b => some (gUse [a, b] d)
  | .sllw d a b => some (gUse [a, b] d)
  | .srlw d a b => some (gUse [a, b] d)
  | .sraw d a b => some (gUse [a, b] d)
  | .clz d a => some (gUse [a] d)
  | .ctz d a => some (gUse [a] d)
  | .popc d a => some (gUse [a] d)
  | .brev d a => some (gUse [a] d)
  | .bswap d a => some (gUse [a] d)
  | .bext d a b => some (gUse [a, b] d)
  | .bdep d a b => some (gUse [a, b] d)
  | .mul d a b => some (gUse [a, b] d)
  | .mulhI64 d a b => some (gUse [a, b] d)
  | .mulhW64 d a b => some (gUse [a, b] d)
  | .mulI32 d a b => some (gUse [a, b] d)
  | .divI64 d a b => some (gUse [a, b] d)
  | .divW64 d a b => some (gUse [a, b] d)
  | .remI64 d a b => some (gUse [a, b] d)
  | .remW64 d a b => some (gUse [a, b] d)
  | .divI32 d a b => some (gUse [a, b] d)
  | .divW32 d a b => some (gUse [a, b] d)
  | .remI32 d a b => some (gUse [a, b] d)
  | .remW32 d a b => some (gUse [a, b] d)
  | .seq d a b => some (gUse [a, b] d)
  | .sne d a b => some (gUse [a, b] d)
  | .sltI64 d a b => some (gUse [a, b] d)
  | .sltW64 d a b => some (gUse [a, b] d)
  | .sleI64 d a b => some (gUse [a, b] d)
  | .sleW64 d a b => some (gUse [a, b] d)
  | .minI64 d a b => some (gUse [a, b] d)
  | .minW64 d a b => some (gUse [a, b] d)
  | .maxI64 d a b => some (gUse [a, b] d)
  | .maxW64 d a b => some (gUse [a, b] d)
  | .czn d a b => some (gUse [a, b] d)
  | .czz d a b => some (gUse [a, b] d)
  | .fadd _ _ d a b => some (gUse [a, b] d)
  | .fsub _ _ d a b => some (gUse [a, b] d)
  | .fmul _ _ d a b => some (gUse [a, b] d)
  | .fdiv _ _ d a b => some (gUse [a, b] d)
  | .fsqrt _ _ d a => some (gUse [a] d)
  | .fmin _ d a b => some (gUse [a, b] d)
  | .fmax _ d a b => some (gUse [a, b] d)
  | .fsgnj _ d a b => some (gUse [a, b] d)
  | .fsgnjn _ d a b => some (gUse [a, b] d)
  | .fsgnjx _ d a b => some (gUse [a, b] d)
  | .fmac _ _ d a b => some (gUse [a, b, d] d)
  | .fmsc _ _ d a b => some (gUse [a, b, d] d)
  | .fcvtF32F64 _ d a => some (gUse [a] d)
  | .fcvtF64F32 d a => some (gUse [a] d)
  | .fcvtF16F32 _ d a => some (gUse [a] d)
  | .fcvtF32F16 d a => some (gUse [a] d)
  | .fcvtBf16F32 _ d a => some (gUse [a] d)
  | .fcvtF32Bf16 d a => some (gUse [a] d)
  | .fcvtF16F64 _ d a => some (gUse [a] d)
  | .fcvtF64F16 d a => some (gUse [a] d)
  | .fcvtF64I64 _ d a => some (gUse [a] d)
  | .fcvtF64W64 _ d a => some (gUse [a] d)
  | .fcvtF32I64 _ d a => some (gUse [a] d)
  | .fcvtF32W64 _ d a => some (gUse [a] d)
  | .fcvtI64F64 _ d a => some (gUse [a] d)
  | .fcvtW64F64 _ d a => some (gUse [a] d)
  | .fcvtI64F32 _ d a => some (gUse [a] d)
  | .fcvtW64F32 _ d a => some (gUse [a] d)
  | .fcvtI32F64 _ d a => some (gUse [a] d)
  | .fcvtW32F64 _ d a => some (gUse [a] d)
  | .fcvtI32F32 _ d a => some (gUse [a] d)
  | .fcvtW32F32 _ d a => some (gUse [a] d)
  | .fclassF64 d a => some (gUse [a] d)
  | .fclassF32 d a => some (gUse [a] d)
  | .feqF64 d a b => some (gUse [a, b] d)
  | .fltF64 d a b => some (gUse [a, b] d)
  | .fleF64 d a b => some (gUse [a, b] d)
  | .feqF32 d a b => some (gUse [a, b] d)
  | .fltF32 d a b => some (gUse [a, b] d)
  | .fleF32 d a b => some (gUse [a, b] d)
  | .addi d a _ => some (gUse [a] d)
  | .andi d a _ => some (gUse [a] d)
  | .ori d a _ => some (gUse [a] d)
  | .xori d a _ => some (gUse [a] d)
  | .sltiI64 d a _ => some (gUse [a] d)
  | .slli d a _ => some (gUse [a] d)
  | .srli d a _ => some (gUse [a] d)
  | .srai d a _ => some (gUse [a] d)
  | .rori d a _ => some (gUse [a] d)
  | .sltiW64 d a _ => some (gUse [a] d)
  | .lih d _ => some (gUse [] d)
  | .addpc d _ => some (gUse [] d)
  | .nop => some noUse
  | .hlikely => some noUse
  | .hunlikely => some noUse
  | .erd d a => some { reads := [.e a], writes := [.g d] }
  | .ewr d a => some { reads := [.g a], writes := [.e d] }
  | .vadd _ d a b p z => some (vUse [.v a, .v b] d p z)
  | .vsub _ d a b p z => some (vUse [.v a, .v b] d p z)
  | .vmul _ d a b p z => some (vUse [.v a, .v b] d p z)
  | .vmulh _ d a b p z => some (vUse [.v a, .v b] d p z)
  | .vmin _ d a b p z => some (vUse [.v a, .v b] d p z)
  | .vmax _ d a b p z => some (vUse [.v a, .v b] d p z)
  | .vadds _ d a b p z => some (vUse [.v a, .v b] d p z)
  | .vsubs _ d a b p z => some (vUse [.v a, .v b] d p z)
  | .vand d a b p z => some (vUse [.v a, .v b] d p z)
  | .vor d a b p z => some (vUse [.v a, .v b] d p z)
  | .vxor d a b p z => some (vUse [.v a, .v b] d p z)
  | .vandn d a b p z => some (vUse [.v a, .v b] d p z)
  | .vsll _ d a b p z => some (vUse [.v a, .v b] d p z)
  | .vsrl _ d a b p z => some (vUse [.v a, .v b] d p z)
  | .vsra _ d a b p z => some (vUse [.v a, .v b] d p z)
  | .vfadd _ d a b p z => some (vUse [.v a, .v b] d p z)
  | .vfsub _ d a b p z => some (vUse [.v a, .v b] d p z)
  | .vfmul _ d a b p z => some (vUse [.v a, .v b] d p z)
  | .vfdiv _ d a b p z => some (vUse [.v a, .v b] d p z)
  | .vfsqrt _ d a p z => some (vUse [.v a] d p z)
  | .vfmin _ d a b p z => some (vUse [.v a, .v b] d p z)
  | .vfmax _ d a b p z => some (vUse [.v a, .v b] d p z)
  | .vfabs _ d a p z => some (vUse [.v a] d p z)
  | .vfmaF32 d a b c p => some (vUse [.v a, .v b, .v c] d p false)
  | .vfmsF32 d a b c p => some (vUse [.v a, .v b, .v c] d p false)
  | .vfnmaF32 d a b c p => some (vUse [.v a, .v b, .v c] d p false)
  | .vfnmsF32 d a b c p => some (vUse [.v a, .v b, .v c] d p false)
  | .vfmaF16 d a b c p => some (vUse [.v a, .v b, .v c] d p false)
  | .vfmaBf16 d a b c p => some (vUse [.v a, .v b, .v c] d p false)
  | .vmaddI32 d a b c p => some (vUse [.v a, .v b, .v c] d p false)
  | .vmaddI16 d a b c p => some (vUse [.v a, .v b, .v c] d p false)
  | .vceq _ d a b p z => some (cUse [a, b] d p z)
  | .vcne _ d a b p z => some (cUse [a, b] d p z)
  | .vclt _ d a b p z => some (cUse [a, b] d p z)
  | .vcle _ d a b p z => some (cUse [a, b] d p z)
  | .vcfeq _ d a b p z => some (cUse [a, b] d p z)
  | .vcflt _ d a b p z => some (cUse [a, b] d p z)
  | .vcfle _ d a b p z => some (cUse [a, b] d p z)
  | .vcfun _ d a b p z => some (cUse [a, b] d p z)
  | .pand d a b => some { reads := [.p (predOf a), .p (predOf b)], writes := [.p (predOf d)] }
  | .por d a b => some { reads := [.p (predOf a), .p (predOf b)], writes := [.p (predOf d)] }
  | .pxor d a b => some { reads := [.p (predOf a), .p (predOf b)], writes := [.p (predOf d)] }
  | .pandn d a b => some { reads := [.p (predOf a), .p (predOf b)], writes := [.p (predOf d)] }
  | .pnot d a => some { reads := [.p (predOf a)], writes := [.p (predOf d)] }
  | .pfromg d a => some { reads := [.g a], writes := [.p (predOf d)] }
  | .ptog d a => some { reads := [.p (predOf a)], writes := [.g d] }
  | .vperm _ d a b p z => some (vUse [.v a, .v b] d p z)
  | .vzipl _ d a b p z => some (vUse [.v a, .v b] d p z)
  | .vziph _ d a b p z => some (vUse [.v a, .v b] d p z)
  | .vunzpe _ d a b p z => some (vUse [.v a, .v b] d p z)
  | .vunzpo _ d a b p z => some (vUse [.v a, .v b] d p z)
  | .vrev _ d a p z => some (vUse [.v a] d p z)
  | .vslide _ d a b p z => some (vUse [.v a, .g b] d p z)
  | .vbcl _ d a b p z => some (vUse [.v a, .g b] d p z)
  | .vradd _ d a b p => some { reads := [.v a, .v b, .p p], writes := [.v d] }
  | .vrmin _ d a b p => some { reads := [.v a, .v b, .p p], writes := [.v d] }
  | .vrmax _ d a b p => some { reads := [.v a, .v b, .p p], writes := [.v d] }
  | .vrfadd _ d a b p => some { reads := [.v a, .v b, .p p], writes := [.v d] }
  | .vrfmin _ d a b p => some { reads := [.v a, .v b, .p p], writes := [.v d] }
  | .vrfmax _ d a b p => some { reads := [.v a, .v b, .p p], writes := [.v d] }
  | .vcvtF32F16 d a p => some (vUse [.v a] d p false)
  | .vcvtF16F32 d a b p => some (vUse [.v a, .v b] d p false)
  | .vcvtF32Bf16 d a p => some (vUse [.v a] d p false)
  | .vcvtBf16F32 d a b p => some (vUse [.v a, .v b] d p false)
  | .vcvtF32I32 d a p => some (vUse [.v a] d p false)
  | .vcvtF32W32 d a p => some (vUse [.v a] d p false)
  | .vcvtI32F32 d a p => some (vUse [.v a] d p false)
  | .vcvtW32F32 d a p => some (vUse [.v a] d p false)
  | .vcvtI32I8 d a p => some (vUse [.v a] d p false)
  | .vcvtI8I32 d a b p => some (vUse [.v a, .v b] d p false)
  | .vcvtF32D16 d a b p => some (vUse [.v a, .v b] d p false)
  | .vcvtF32D8 d a b p => some (vUse [.v a, .v b] d p false)
  | .vcvtF32D4 d a b p => some (vUse [.v a, .v b] d p false)
  | .vcvtD16F32 d a b p => some { reads := [.v a, .v b, .v d, .p p], writes := [.v d] }
  | .vcvtD8F32 d a b p => some { reads := [.v a, .v b, .v d, .p p], writes := [.v d] }
  | .vcvtD4F32 d a b p => some { reads := [.v a, .v b, .v d, .p p], writes := [.v d] }
  | .vcvtF32E4m3 d a b p => some (vUse [.v a, .v b] d p false)
  | .vcvtF32E5m2 d a b p => some (vUse [.v a, .v b] d p false)
  | .vcvtF32E2m3 d a b p => some (vUse [.v a, .v b] d p false)
  | .vcvtF32E3m2 d a b p => some (vUse [.v a, .v b] d p false)
  | .vcvtF32E2m1 d a b p => some (vUse [.v a, .v b] d p false)
  | .vcvtF32Mxi8 d a b p => some (vUse [.v a, .v b] d p false)
  | .vcvtE4m3F32 d a b p => some { reads := [.v a, .v b, .p p], writes := [.v d] }
  | .vcvtE5m2F32 d a b p => some { reads := [.v a, .v b, .p p], writes := [.v d] }
  | .vcvtE2m3F32 d a b p => some { reads := [.v a, .v b, .p p], writes := [.v d] }
  | .vcvtE3m2F32 d a b p => some { reads := [.v a, .v b, .p p], writes := [.v d] }
  | .vcvtE2m1F32 d a b p => some { reads := [.v a, .v b, .p p], writes := [.v d] }
  | .vcvtMxi8F32 d a b p => some { reads := [.v a, .v b, .p p], writes := [.v d] }
  | .vrcp _ d a p z => some (vUse [.v a] d p z)
  | .vrsqrt _ d a p z => some (vUse [.v a] d p z)
  | .vexp2 _ d a p z => some (vUse [.v a] d p z)
  | .vlog2 _ d a p z => some (vUse [.v a] d p z)
  | .vtanh _ d a p z => some (vUse [.v a] d p z)
  | .vsigm _ d a p z => some (vUse [.v a] d p z)
  | .vmov _ d a p z => some (vUse [.v a] d p z)
  | .vdup _ d a p z => some (vUse [.g a] d p z)
  | .vins _ d a b => some { reads := [.v d, .g a, .g b], writes := [.v d] }
  | .vext _ d a b => some { reads := [.v a, .g b], writes := [.g d] }
  | .vmerge _ d a b p => some { reads := [.v a, .v b, .p p], writes := [.v d] }
  | .vdxdot _ d a b p => some { reads := [.v a, .v b, .v d, .p p], writes := [.v d] }
  | .vdxamax _ d a b p => some { reads := [.v a, .v b, .p p], writes := [.v d] }
  | _ => none

/-- The sources and the destinations in these files of an instruction with a lookahead field (R102, R126). -/
def longUse : Instr → RegUse
  | .ldI8 d a _ _ => gUse [a] d
  | .ldW8 d a _ _ => gUse [a] d
  | .ldI16 d a _ _ => gUse [a] d
  | .ldW16 d a _ _ => gUse [a] d
  | .ldI32 d a _ _ => gUse [a] d
  | .ldW32 d a _ _ => gUse [a] d
  | .ldI64 d a _ _ => gUse [a] d
  | .stW8 d a _ _ => gUse [a, d] 0
  | .stW16 d a _ _ => gUse [a, d] 0
  | .stW32 d a _ _ => gUse [a, d] 0
  | .stW64 d a _ _ => gUse [a, d] 0
  | .ldx _ d a b _ => gUse [a, b] d
  | .stx _ d a b _ => gUse [a, b, d] 0
  | .stAck _ d a b _ => gUse [a, b] d
  | .ldAck _ d a b _ => gUse [a, b] d
  | .aswap _ d a b _ => gUse [a, b] d
  | .acas _ d a b _ => gUse [a, b, d] d
  | .aadd _ d a b _ => gUse [a, b] d
  | .aand _ d a b _ => gUse [a, b] d
  | .aor _ d a b _ => gUse [a, b] d
  | .axor _ d a b _ => gUse [a, b] d
  | .amin _ _ d a b _ => gUse [a, b] d
  | .amax _ _ d a b _ => gUse [a, b] d
  | .alfill d a b _ => gUse [a, b] d
  | .bar a _ => gUse [a] 0
  | .bcastSend a b _ => gUse [a, b] 0
  | .bcastRecv d a _ => gUse [a] d
  | .redAdd d a b _ => gUse [a, b] d
  | .redMinI64 d a b _ => gUse [a, b] d
  | .redMinW64 d a b _ => gUse [a, b] d
  | .redMaxI64 d a b _ => gUse [a, b] d
  | .redMaxW64 d a b _ => gUse [a, b] d
  | .vigilQne d _ _ _ => gUse [] d
  | .vigilQnf d _ _ _ => gUse [] d
  | .vigilReady d _ _ _ => gUse [] d
  | .vigilRoom d _ _ _ => gUse [] d
  | .take d _ => { reads := [], writes := [d, 4, 5, 6, 7, 8, 9].map .g }
  | .join a _ => gUse [a] 0
  | .laz a _ => gUse [a] 0
  | .laadd a b _ => gUse [a, b] 0
  | .laaddp a b d _ => gUse [a, b, d] 0
  | .cpy d a b _ => copyUse 2 a b d
  | .cpy2 d a b _ => copyUse 4 a b d
  | .cpyh d a b _ => copyUse 5 a b d
  | .cpyf d a b _ => copyUse 5 a b d
  | .vld d a b _ p => { reads := [.g a, .g b, .p p], writes := [.v d] }
  | .vst d a b _ p => { reads := [.g a, .g b, .v d, .p p], writes := [] }
  | .vldZ d a b _ p => { reads := [.g a, .g b, .p p], writes := [.v d] }
  | .vgathW32 d a b _ p => { reads := [.g a, .v b, .p p], writes := [.v d] }
  | .vscatW32 d a b _ p => { reads := [.g a, .v b, .v d, .p p], writes := [] }
  | .vgathW16 d a b _ p => { reads := [.g a, .v b, .p p], writes := [.v d] }
  | .vscatW16 d a b _ p => { reads := [.g a, .v b, .v d, .p p], writes := [] }
  | .vlbc d a b _ p => { reads := [.g a, .g b, .p p], writes := [.v d] }
  | .tview _ a _ => gUse [a] 0
  | .twload _ a _ => gUse [a] 0
  | .tmma _ _ _ g _ _ => gUse [g, g + 1, g + 2] 0
  | .tscale _ _ b _ => gUse [b] 0
  | .tcvt _ _ b _ => gUse [b] 0
  | .tmask _ _ b _ => gUse [b] 0
  | .tforce _ a _ => gUse [a] 0
  | .tstore _ a b _ => gUse [a, b] 0
  | _ => noUse

/-- Two lists name a common register. -/
def meets (a b : List RegName) : Bool := a.any fun r => r.held && b.contains r

/-- It names a queue port while QMAP is set (R113). -/
def Strand.namesPort (t : Strand) (u : RegUse) : Bool :=
  (u.reads ++ u.writes).any fun
    | .g r => (t.port? r).isSome
    | _ => false

/-- Whether instruction `i` at the strand's PC may issue while `l` is outstanding (R102). One that writes a destination of `l`
may not: its result would be lost when that of `l` comes, and a lookahead never changes a result (log 27). -/
def Strand.eligible (t : Strand) (l i : Instr) : Bool :=
  match shadowUse i with
  | none => false
  | some u => !meets u.reads (longUse l).writes && !meets u.writes (longUse l).reads && !meets u.writes (longUse l).writes && !t.namesPort u && !t.atEnd t.pc

end Sys2Proof.Machine
end

