-- ==== Sys2Proof/Machine/Slot.lean ====
section
/-! DEFINITION. One cc of a core: its slot (R99, R100), the order of what a slot may do (R285, R300, R301), the shadow of
an outstanding instruction (R102), and the calends counters (R359). What calls `Event.instr` is marked noncomputable (log 15). -/

namespace Sys2Proof.Machine

noncomputable section

/-- Deliver a message or an input. -/
def State.handle (s : State) (e : Event) : Out := exec e.instr s

/-- The strand that owns the core's present slot (R99). -/
def Core.slotOwner? (k : Core) : Option Nat :=
  let i := k.calends.toNat % 16
  if k.sloten.getLsbD i then some (k.slots.toNat / 2 ^ (4 * i) % 16) else none

/-- A core issues while its run is live, from the run's agreed start value to its own stop point (R311, R319, R341). -/
def State.issues (s : State) (c : Nat) : Bool :=
  !(s.core c).stopped && match s.runOf c with
    | none => false
    | some r => (r.life == .live || r.life == .switchingOut) && r.issueFrom.toNat ≤ (s.core c).calends.toNat

/-- Ask for the line of a strand's PC, once (R156). -/
def State.askFetch (s : State) (c n : Nat) : State :=
  if s.agenda.contains (.instructionFetchReturn c n) then s else s.post (.instructionFetchReturn c n)

/-- Fetch and execute the next instruction of strand n (R100, R122, R133). -/
def State.issue (s : State) (c n : Nat) : Out :=
  let pc := (s.strand c n).pc
  match s.fetchTrap c pc, (s.strand c n).fetchErr with
  | some cause, _ => .next (s.fetchFault c n cause)
  | none, some (a, cause) =>
    .next (if a = pc then s.fetchFault c n cause else s.modStrand c n fun t => { t with fetchErr := none })
  | none, none => match (s.core c).fetched? pc with
    | none => .next (s.askFetch c n)
    | some w => exec (instrOfWord w) { s with cur := (c, n), ir := w }

/-- A shadow instruction that issued has retired; its PC has moved on (R103). -/
def State.shadowRetired (s : State) (c n : Nat) : State :=
  s.modStrand c n fun t => match t.outst with
    | none => t
    | some o => { t with outst := some { o with retired := o.retired + 1 } }

/-- Issue an instruction in the shadow of the outstanding one, if it is eligible and its operands are available
(R100, R102). -/
def State.shadow (s : State) (c n : Nat) (o : Outst) : Out :=
  let t := s.strand c n
  match s.fetchTrap c t.pc with
  | some _ => .next (s.endShadow c n)
  | none => match (s.core c).fetched? t.pc with
    | none => .next (s.askFetch c n)
    | some w =>
      if t.eligible (instrOfWord o.word) (instrOfWord w) then
        match exec (instrOfWord w) { s with cur := (c, n), ir := w } with
        | .next u => .next (if (u.strand c n).pc = t.pc then s else u.shadowRetired c n)
        | r => r
      else .next (s.endShadow c n)

/-- What a strand with nothing outstanding does in its slot: a deferred trap, an interrupt, or its next instruction; one that
has waited since an earlier slot traps if it has come to its limit and cannot issue yet, and that trap precedes an interrupt
(R114, R248, R285, R300, R301). -/
def State.ready (s : State) (c n : Nat) : Out :=
  let t := s.strand c n
  let taken := s.interrupted c n
  if t.defers then s.handle (.deferredTrap c n)
  else if taken && t.stall.isNone then s.handle (.interruptEntry c n)
  else match s.issue c n with
    | .next u => match if t.stall.isSome then u.dueStall c n else none with
      | some e => u.handle e
      | none => if taken then s.handle (.interruptEntry c n) else .next u
    | r => if taken then s.handle (.interruptEntry c n) else r

/-- The slot of a strand with an outstanding instruction: its trap; or its completion, from which slot on the strand issues
normally; or the trap of a wait that has come to its limit, this being the first test at or after it (R185); or its shadow
(R102, R103, R300). -/
def State.outstSlot (s : State) (c n : Nat) : Out :=
  match s.handle (.longLatencyComplete c n) with
  | .next u =>
    let t := u.strand c n
    let traps := match (s.strand c n).outst with
      | none => false
      | some o => o.err.isSome || (s.strand c n).defers
    if traps || t.life ≠ .running || t.reaping then .next u
    else match t.outst with
      | none => u.ready c n
      | some o =>
        if o.err.isSome then .next u
        else if u.interrupted c n then u.handle (.interruptEntry c n)
        else match u.dueOutst c n o with
          | some e => match u.handle e with
            | .next v => v.handle (.longLatencyComplete c n)
            | r => r
          | none => if o.retired < o.la then u.shadow c n o else .next u
  | r => r

/-- What a strand does in its slot: it goes on with its outstanding instruction, or does the next thing (R100). -/
def State.attempt (s : State) (c n : Nat) : Out :=
  let t := s.strand c n
  if t.life ≠ .running || t.reaping || (s.core c).ticks < t.startAt then .next s
  else if t.outst.isSome then s.outstSlot c n
  else s.ready c n

/-- The slot of a core. -/
def State.slot (s : State) (c : Nat) : Out :=
  match (s.core c).slotOwner? with
  | none => .next s
  | some n => if s.issues c then s.attempt c n else .next s

/-- Whether a block has a cc at a wafer tick: clock step 0, 1 or 2 has 3, 2 or 1 of every 3, and a stretch doubles the length
of a cc; a cap holds the step (R357 to R359; log 1). -/
def Block.runs (b : Block) (w : Nat) : Bool :=
  match max b.step b.cap, b.stretched.isSome with
  | 0, false => true
  | 0, true => w % 2 == 0
  | 1, false => w % 3 != 2
  | 1, true => w % 3 == 0
  | _, false => w % 3 == 0
  | _, true => w % 6 == 0

/-- Whether a core has a cc at this wafer tick. -/
def State.clocked (s : State) (c : Nat) : Bool := (s.block (blockOf c)).runs s.wafer.toNat

/-- The core's own cc is over: its copy of the calends counter advances by 1, or by 17 when it is 16 or more behind
(R359); the count that waits are measured by stands still while the core is switched out (R320). -/
def State.tick (s : State) (c : Nat) : State :=
  let d := if s.counts c then 1 else 0
  s.modCore c fun k =>
    { k with calends := k.calends + (if k.calends.toNat + 16 ≤ s.wafer.toNat then 17 else 1), ticks := k.ticks + d }

/-- The turn passes to the next core; after the last one the wafer counter advances, the computed network-select entries whose
holders are quiet are written (R337), and every 2^14 ticks each link that is up sends a calends flit (R367). -/
def State.passTurn (s : State) : State :=
  if s.turn + 1 < s.cores.length then { s with turn := s.turn + 1 }
  else
    let w := s.wafer + 1
    let s := ({ s with turn := 0, wafer := w } : State).writeTables
    if w.toNat % 16384 = 0 then
      s.posts (((List.range 24).filter fun i => (s.links.toList[i]?).any fun l => l.up).map Event.calendsFlitSend)
    else s

/-- After a core's cc. -/
def State.after (c : Nat) : Out → Out
  | .next s => .next (s.tick c).passTurn
  | r => r

/-- What falls due on a core in a cc, one thing after another. Fuel: more than its strands and copies can have due. -/
def State.dueAll (c : Nat) : Nat → State → Out
  | 0, s => .next s
  | fuel + 1, s => match s.dueCore c with
    | none => .next s
    | some e => match s.handle e with
      | .next t => State.dueAll c fuel t
      | r => r

/-- One cc of the core whose turn it is: its long-accumulator unit, what is due on it, and its slot, which nothing takes
from its owner (R12, R99, R100, R262). -/
def State.cycle (s : State) : Out :=
  match s.cores[s.turn]? with
  | none => .next s.passTurn
  | some (c, _) =>
    if s.clocked c then
      State.after c (match State.dueAll c 64 (s.accCycle c) with
        | .next t => t.slot c
        | r => r)
    else .next s.passTurn

/-- One event: what is due in the module, else a message in flight or the next core's cc, by free choice (log 1, 2). -/
def State.next (s : State) : Out :=
  match s.dueModule with
  | some e => s.handle e
  | none =>
    let d := s.deliverable
    let k := s.pick (d.length + 1)
    let s := if d.isEmpty then s else s.picked
    match (d[k]?).bind fun i => (s.agenda[i]?).map fun e => (i, e) with
    | some (i, e) => { s with agenda := s.agenda.eraseIdx i }.handle e
    | none => s.cycle

/-! ### Placing one instruction -/

/-- The virtual address `placed` instructions stand at, and the line that holds one. -/
def placedAt : Word := BitVec.ofNat 64 (2 ^ 63)

/-- The steward of `k` about to fetch from `placedAt`: RUNNING, nothing outstanding or due, interrupts off. -/
def Core.aboutToFetch (k : Core) : Strand :=
  { k.strand 0 with
    pc := placedAt, life := .running, status := (k.strand 0).status &&& 0xFEFF, outst := none, skip := 0, stall := none,
    popped := [], refusals := [], reaping := false, rerun := false, record := none, scalars := [], order := none, fetchErr := none, startAt := 0 }

/-- A core of run (1, 1) at a slot of its steward, with a word in its instruction cache at `placedAt`. -/
def Core.placed (k : Core) (w : Nat) : Core :=
  { k.setStrand 0 k.aboutToFetch with
    run := some (1, 1), retired := false, stopped := false, switchedOut := false, calends := 0, pendingSlots := [],
    slots := Core.reset.slots, sloten := Core.reset.sloten, copies := [], balance := 0,
    icache := [(0, BitVec.ofNat 1024 w)] }

/-- A live run of partition 1 on the first block of site 1, with a lease on the first page. -/
def placedRun : Run where
  part := 1
  ctx := 1
  asked := { function := none, seq := 0, part := 1, reticle := 1 }
  blocks := [(0, 0)]
  lease := [{ base := 0, len := 4096, read := true, write := false, exec := true, index := 0 }]
  sections := []
  entry := placedAt
  maintenance := false
  scr := 0
  startT := 0
  issueFrom := 0
  life := .live
  inter := none
  saveBase := 0
  dirty := 0
  cause := 0
  causeCore := 0

/-- Partition 1: site 1 alone. -/
def placedPartition : Partition := { num := 1, c0 := 1, c1 := 1, s0 := 0, s1 := 0, ptroot := 0, writeSlot := none, slices := (List.range 32).map fun i => 32 + i }

end

end Sys2Proof.Machine
end

