-- ==== Sys2Proof/Machine/Step.lean ====
section
/-! DEFINITION. The step of the machine, and the placing of one instruction where it fetches (log 6). -/

namespace Sys2Proof.Machine

noncomputable section

/-- One step: one event of the module (`State.next`). -/
def step (s : State) : Host.Outcome State Fault Refusal := s.next

/-- `s` with an instruction of `nbits` bits where the next step fetches: core 256 holds a live run whose steward is at its
slot with its PC at the instruction, nothing else is in flight, and the lease lets it execute there. -/
def State.withFetchWord (s : State) (nbits w : Nat) : State :=
  let cores := assign 256 ((s.core 256).placed (w % 2 ^ nbits)) s.cores
  { s with
    cores
    partitions := [placedPartition]
    runs := [placedRun]
    blocks := (s.blocks.filter fun (b : Nat × Block) => b.1 != 4).map fun b => (b.1, { b.2 with stretched := none })
    bands := State.reset.bands
    agenda := []
    update := none
    turn := cores.findIdx fun (e : Nat × Core) => e.1 == 256 }

end

end Sys2Proof.Machine
end

