-- ==== Sys2Proof/Safety.lean ====
section
/-! DEFINITION. What the claims about the machine are stated with: when an instruction can issue, what it answers when it
completes, when a core's slot runs the instruction at its PC, and the invariant of every step. -/

namespace Sys2Proof.Machine

/-! ### When an instruction can issue -/

/-- The issuing strand can run an instruction by itself: no queue ports, no copy bound to one of its registers, no
instruction behind it already retired, nothing popped, and its instruction is issued for the first time (R100, R113, R248). -/
structure State.Free (s : State) : Prop where
  noPorts : s.me.qmap = false
  noCopies : ∀ k ∈ (s.core s.cur.1).copies, k.strand ≠ s.cur.2 % 16
  noSkip : s.me.skip = 0
  noPops : s.me.popped = []
  noRerun : s.me.rerun = false

/-- No hardware loop of the issuing strand is active (R104). -/
structure State.NoLoop (s : State) : Prop where
  inner : s.me.level0.active = false
  outer : s.me.level1.active = false

/-! ### Answers of instructions that complete -/

/-- General register d takes a value and the instruction completes. -/
def State.wrote (s : State) (d : Reg) (v : Word) : State := (s.modMe fun t => t.setGreg d v).retire .on

/-- General register d takes a value, flags are raised, and the instruction completes. -/
def State.wroteFlags (s : State) (d : Reg) (v : Nat × Flags) : State :=
  ((s.modMe fun t => t.setGreg d (BitVec.ofNat 64 v.1)).flag v.2).retire .on

/-- Vector register d takes a value, flags are raised, and the instruction completes. -/
def State.wroteV (s : State) (d : Reg) (v : VReg) (fl : Flags) : State := ((s.modMe fun t => t.setVreg d v).flag fl).retire .on

/-- Predicate d takes a value, flags are raised, and the instruction completes. -/
def State.wroteP (s : State) (d : Pred) (v : Word) (fl : Flags) : State := ((s.modMe fun t => t.setPreg d v).flag fl).retire .on

/-- A vector instruction completes: an active lane of vd holds `f` of the lane, an inactive one is zero or as before (R192). -/
def LaneResult (s : State) (o : Out) (d : Reg) (w : Nat) (p : Word) (z : Bool) (f : Nat → Nat) (fl : Flags) : Prop :=
  ∃ v : VReg, o = .next (s.wroteV d v fl) ∧
    ∀ i, i < 64 / w → vlane v w i = if active p w i then f i % 2 ^ (8 * w) else if z then 0 else vlane (s.rv d) w i

/-- A comparison completes: every bit of predicate d that covers an active lane holds `f` of the lane, the others are zero or
as before (R202). -/
def PredResult (s : State) (o : Out) (d : Pred) (w : Nat) (p : Word) (z : Bool) (f : Nat → Bool) (fl : Flags) : Prop :=
  ∃ v : Word, o = .next (s.wroteP d v fl) ∧
    ∀ j, j < 64 → v.getLsbD j = if active p w (j / w) then f (j / w) else if z then false else (s.rp d).getLsbD j

/-! ### Accesses to the core's own scratchpad -/

/-- n bytes at an address of the issuing core's own scratchpad have nothing in the way of an access: aligned, in the
scratchpad, under no range lock, not poisoned (R49, R50, R70, R168). -/
structure State.Own (s : State) (a : Word) (n : Nat) : Prop where
  space : a.toNat < 2 ^ 19
  inside : a.toNat < (s.core s.cur.1).scr
  aligned : a.toNat % n = 0
  unlocked : ∀ e ∈ (s.core s.cur.1).locks, e.place = .pad s.cur.1 →
    ∀ w lo m, a.toNat ≤ lo → lo + m ≤ a.toNat + n → lockConflict e true w lo m = false
  noOthers : ∀ e ∈ (s.core s.cur.1).portLocks,
    ∀ w lo m, a.toNat ≤ lo → lo + m ≤ a.toNat + n → lockConflict e false w lo m = false
  clean : s.poisoned? (padKey s.cur.1 a.toNat / 128) = none

/-- n bytes at a named address of the scratchpad of core t have nothing in the way of an access but what its home may find: the
core is of the run region, and no lock of the issuing core lies there (R49, R50, R70). -/
structure State.Named (s : State) (a : Word) (n t : Nat) : Prop where
  space : a.toNat / 2 ^ 60 = 2
  zero : a.toNat % 2 ^ 46 < 2 ^ 19
  inside : a.toNat % 2 ^ 19 < (s.core s.cur.1).scr
  aligned : a.toNat % n = 0
  names : ∃ r, s.runOf s.cur.1 = some r ∧ s.named? r.part (a.toNat / 2 ^ 46 % 2 ^ 14) = some t ∧ s.inRegion r t = true
  unlocked : ∀ e ∈ (s.core s.cur.1).locks, e.place = .pad t →
    ∀ w lo m, a.toNat % 2 ^ 19 ≤ lo → lo + m ≤ a.toNat % 2 ^ 19 + n → lockConflict e true w lo m = false

/-- n bytes at a virtual address have nothing in the way of an access with a right but what the L1 and the home may find: the
lease grants the right there, and no lock of the issuing core lies there (R49, R50, R53, R70). -/
structure State.Leased (s : State) (a : Word) (n : Nat) (w : Right) : Prop where
  space : a.toNat / 2 ^ 57 = 64
  aligned : a.toNat % n = 0
  grants : ∃ r, s.runOf s.cur.1 = some r ∧ pageLeased r.lease (a.toNat % 2 ^ 57) w = true
  unlocked : ∀ e ∈ (s.core s.cur.1).locks, e.place = .virt (s.partOf s.cur.1) →
    ∀ w lo m, a.toNat % 2 ^ 57 ≤ lo → lo + m ≤ a.toNat % 2 ^ 57 + n → lockConflict e true w lo m = false

/-- The set of a line of the issuing core's L1 has an empty frame (R54, R343). -/
def State.HasFrame (s : State) (line : Nat) : Prop :=
  ∃ f ∈ (s.core s.cur.1).setFrames line, ∀ e ∈ (s.core s.cur.1).l1, e.1 ≠ f

/-- What n bytes stored at byte `at_` of a line leave in its frame: those bytes are v's, dirty and present, and every other byte is as
before (R54). -/
def L1Frame.Stored (old new : L1Frame) (at_ n v : Nat) : Prop :=
  new.line = old.line ∧ ∀ i, i < 128 →
    let here : Bool := at_ ≤ i && i < at_ + n
    lineBytes new.data i 1 = (if here then v / 2 ^ (8 * (i - at_)) % 256 else lineBytes old.data i 1) ∧
    new.dirty.getLsbD i = (here || old.dirty.getLsbD i) ∧ new.present.getLsbD i = (here || old.present.getLsbD i)

/-- The key of the byte an own-scratchpad address names. -/
def State.ownKey (s : State) (a : Word) : Nat := padKey s.cur.1 a.toNat

/-- n bytes stored at an own-scratchpad address: the line's serial rises by one (R87). -/
def State.put (s : State) (a : Word) (n v : Nat) : BitVec 32 × State := (s.store (s.ownKey a) n v).bump (s.ownKey a / 128)

/-- What a store to the n bytes at a key leaves: those bytes hold v, and every other byte is as before. -/
def State.Stored (s t : State) (key n v : Nat) : Prop :=
  t.load key n = v ∧ ∀ k, k < key ∨ key + n ≤ k → t.byte k = s.byte k

/-! ### Traps and waits -/

/-- A trap or interrupt entry of the issuing strand (R272): what the trap registers, the loop levels, STATUS and the PC hold
afterwards; every other register of the strand, and memory, are as before. -/
def State.Trapped (s t : State) (cause : Nat) (tpc tval : Word) : Prop :=
  t.me.tcause = BitVec.ofNat 64 cause ∧ t.me.tpc = tpc ∧ t.me.tval = tval ∧ t.me.tattr = 0 ∧ t.me.tshadow = 0 ∧
  t.me.tstatus = s.me.statusWord ∧ t.me.mode = (if s.me.mode = 3 then 3 else 1) ∧ t.me.tin = true ∧ t.me.ie = false ∧
  t.me.qmap = false ∧ t.me.level0.active = false ∧ t.me.level1.active = false ∧
  (t.me.tls0, t.me.tle0, t.me.tlc0) = (s.me.level0.start, s.me.level0.stop, s.me.level0.count) ∧
  (t.me.tls1, t.me.tle1, t.me.tlc1) = (s.me.level1.start, s.me.level1.stop, s.me.level1.count) ∧
  t.me.pc = (s.core s.cur.1).tvec ∧ t.me.life = s.me.life ∧ t.mem = s.mem ∧ t.me.g = s.me.g ∧ t.me.v = s.me.v ∧
  t.me.p = s.me.p ∧ t.me.m = s.me.m ∧ t.me.e = s.me.e ∧ t.me.fctl = s.me.fctl ∧ t.me.scratch = s.me.scratch

/-- The issuing strand has nothing outstanding and no posted store unacknowledged, and its core's L1 holds no byte that is
not written back (R81, R83). -/
structure State.Settled (s : State) : Prop where
  idle : s.me.outst = none
  acked : s.me.acks = 0
  clean : ∀ e ∈ (s.core s.cur.1).l1, e.2.dirty = 0 ∧ e.2.sent = 0 ∧ e.2.refused = false

/-- The issuing strand's instruction is outstanding in a phase, with the strand's PC behind it (R102). -/
def State.WaitsIn (s t : State) (p : Phase) : Prop :=
  t.me.phase? = some p ∧ t.me.pc = s.me.pc + 4 ∧ t.mem = s.mem ∧ t.me.g = s.me.g

/-- No range lock is held at the issuing core (R69). -/
def State.Unlocked (s : State) : Prop := (s.core s.cur.1).locks = [] ∧ (s.core s.cur.1).portLocks = []

/-- The module seen from strand n of core c. -/
def State.from_ (s : State) (c n : Nat) : State := { s with cur := (c, n) }

/-- A core takes every message: it has passed neither its stop point nor its switch-out point (R313, R314). -/
def State.Awake (s : State) (c : Nat) : Prop := (s.core c).stopped = false ∧ (s.core c).switchedOut = false

/-- A strand's outstanding instruction has met a trap, which it takes at its next slot; nothing else of memory or of the
strand changes (R102). -/
def State.Erred (s t : State) (c n : Nat) (cause : Cause) (tval : Word) : Prop :=
  t.mem = s.mem ∧ ∃ o, (s.strand c n).outst = some o ∧
    t.strand c n = { s.strand c n with outst := some { o with err := some (cause, tval) } }

/-! ### Frames -/

/-- What an instruction that touches only the registers of `u` leaves alone: everything but the queues of its core, and of
its strand everything but those registers, `FCTL`, the PC, the loop levels and the model's own marks of a wait. -/
structure RegFrame (s t : State) (u : RegUse) : Prop where
  rest : t = { s with cores := t.cores }
  others : ∀ c, c ≠ s.cur.1 → t.core c = s.core c
  core : ∃ q ss, t.core s.cur.1 = { s.core s.cur.1 with queues := q, strands := ss }
  strands : ∀ n, n % 16 ≠ s.cur.2 % 16 → t.strand s.cur.1 n = s.strand s.cur.1 n
  strand : ∃ pc g v p e l0 l1 f k st po rr mr sc od, t.me =
    { s.me with pc := pc, g := g, v := v, p := p, e := e, level0 := l0, level1 := l1, fctl := f, skip := k, stall := st, popped := po,
                rerun := rr, record := mr, scalars := sc, order := od }
  general : ∀ r, RegName.g r ∉ u.writes → t.me.greg r = s.me.greg r
  vector : ∀ r, RegName.v r ∉ u.writes → t.me.vreg r = s.me.vreg r
  predicate : ∀ r, RegName.p r ∉ u.writes → t.me.preg r = s.me.preg r
  copyAddress : ∀ r, RegName.e r ∉ u.writes → t.me.ereg r = s.me.ereg r
  queues : s.me.namesPort u = false → (t.core s.cur.1).queues = (s.core s.cur.1).queues

/-! ### Steps -/

/-- The next event of the module is the slot of strand n of core c: nothing is due or in flight, the core's run is live, and
the strand is RUNNING (R99, R100, R262, R292). -/
structure State.AtSlot (s : State) (c n : Nat) : Prop where
  noModule : s.dueModule = none
  noMessage : s.agenda = []
  turn : (s.cores[s.turn]?).map Prod.fst = some c
  clocked : s.clocked c = true
  notAdding : s.accCycle c = s
  notDue : s.dueCore c = none
  owner : (s.core c).slotOwner? = some n
  issues : s.issues c = true
  running : (s.strand c n).life = .running
  begun : (s.strand c n).startAt ≤ (s.core c).ticks
  notReaped : (s.strand c n).reaping = false

/-- Strand n of core c is at its slot with nothing outstanding and no trap or interrupt to take (R285, R301). -/
structure State.MayIssue (s : State) (c n : Nat) : Prop extends State.AtSlot s c n where
  nothingOutstanding : (s.strand c n).outst = none
  noDeferred : (s.strand c n).defers = false
  noInterrupt : s.interrupted c n = false

/-- Strand n of core c is at its slot and fetches the word w (R122, R156). -/
structure State.Fetches (s : State) (c n : Nat) (w : BitVec 32) : Prop extends State.MayIssue s c n where
  mayFetch : s.fetchTrap c (s.strand c n).pc = none
  noFetchFault : (s.strand c n).fetchErr = none
  fetched : (s.core c).fetched? (s.strand c n).pc = some w

/-- The invariant of every step: the memory list has its canonical form. -/
structure State.Inv (s : State) : Prop where
  memory : Memory.wf s.mem = true

end Sys2Proof.Machine
end

