-- ==== Sys2Proof/Certificates/Slice0/Obligations.lean ====
section
/-! DEFINITION. The statements about the machine, from the numbered rules of the spec. -/

open Sys2Proof Sys2Proof.Machine

/-! ### Encoding, fetch and step -/

/-- R122 to R131. Decoding the word of a well-formed instruction gives the instruction back, with every operand. -/
def Obligations.DecodeEncode : Prop :=
  ∀ (i : Instr) (w : Nat), i.wellFormed = true → encode i = some w → decode w = .ok i

/-- R122 to R131. Words written out from the encoding tables, one or two of each format, decode to their instructions. -/
def Obligations.DecodedWords : Prop :=
  decode 0x04531C00 = .ok (.add 5 6 7) ∧
  decode 0x10507FFF = .ok (.addi 5 0 0x7FFF) ∧
  decode 0x1E500001 = .ok (.lih 5 1) ∧
  decode 0x4C531804 = .ok (.ldI64 5 6 3 4) ∧
  decode 0x82531D84 = .ok (.vadd .w8 5 6 7 3 false) ∧
  decode 0xC4A50B89 = .ok (.tmma 5 5 1 2 true 7) ∧
  decode 0xE0000000 = .ok .scall ∧
  decode 0xE2500038 = .ok (.srr 5 7) ∧
  decode 0xFE000000 = .error .opcode

/-- R99, R100. At a slot whose strand fetches a word that decodes to an instruction, the step is that instruction, run for that
strand, and then the core's cc ends: its calends copy and tick count advance and the turn passes on. A strand that has waited
since an earlier slot to issue traps after it if its wait has come to its limit. That the turn then passes to the next core is
the model's choice (log 1).
R102, R103. At a slot whose strand waits for a message of its outstanding instruction and has lookahead left, the step is the next
instruction if it is eligible, which then counts as retired in the shadow if its PC moved on; one that is not eligible, or
whose fetch fails its checks, ends the shadow, and the lookahead still unused is forfeited. -/
def Obligations.StepRunsDecoded : Prop :=
  (∀ (s : State) (c n : Nat) (w : BitVec 32) (i : Instr), s.Fetches c n w → decode w.toNat = .ok i →
    let o := exec i { s with cur := (c, n), ir := w }
    ((s.strand c n).stall = none → step s = State.after c o) ∧
    ((s.strand c n).stall ≠ none → step s = State.after c (match o with
      | .next u => match u.dueStall c n with
        | some e => exec e.instr u
        | none => .next u
      | r => r))) ∧
  (∀ (s : State) (c n : Nat) (o : Outst), s.AtSlot c n → (s.strand c n).outst = some o → o.err = none →
    (∃ g, o.phase = .barrier g true) ∨ (∃ acq, o.phase = .tier acq) ∨ (∃ a w m got, o.phase = .access a w [] m got) →
    o.retired < o.la →
    let ended : State := s.modStrand c n fun t => { t with outst := some { o with la := o.retired } }
    ((s.fetchTrap c (s.strand c n).pc).isSome = true → step s = State.after c (.next ended)) ∧
    (∀ w, s.fetchTrap c (s.strand c n).pc = none → (s.core c).fetched? (s.strand c n).pc = some w →
      let i := instrOfWord w
      ((s.strand c n).eligible (instrOfWord o.word) i = false → step s = State.after c (.next ended)) ∧
      ((s.strand c n).eligible (instrOfWord o.word) i = true → ∃ u, exec i { s with cur := (c, n), ir := w } = .next u ∧
        ((u.strand c n).pc = (s.strand c n).pc → step s = State.after c (.next s)) ∧
        ((u.strand c n).pc ≠ (s.strand c n).pc → step s = State.after c (.next (u.shadowRetired c n))))))

/-- R133. At a slot whose strand fetches a word that is no instruction, the step traps with ILLEGAL_INSTRUCTION at that word,
which TVAL holds.
R122, R310. At a slot whose strand's PC is not a virtual address, the step traps with LOCAL_RANGE; where no executable range of
the lease holds the PC, the task ends with LEASE_VIOLATION, the handler not entered; TPC and TVAL hold the PC. That a virtual
PC with a must-be-zero bit set traps like one that is not virtual is the model's choice (log 43). -/
def Obligations.StepTrapsUndecoded : Prop :=
  (∀ (s : State) (c n : Nat) (w : BitVec 32) (r : Reject), s.Fetches c n w → decode w.toNat = .error r →
    (s.strand c n).tin = false → (s.strand c n).popped = [] → ∃ t, step s = .next t ∧
      (t.strand c n).tcause = 1 ∧ (t.strand c n).tpc = (s.strand c n).pc ∧ (t.strand c n).tval = w.zeroExtend 64 ∧
      (t.strand c n).pc = (s.core c).tvec) ∧
  (∀ (s : State) (c n : Nat), s.MayIssue c n → (s.strand c n).tin = false → (s.strand c n).popped = [] →
    (s.strand c n).stall = none →
    let pc := (s.strand c n).pc
    (pc.toNat / 2 ^ 57 ≠ 64 → ∃ t, step s = .next t ∧ (t.strand c n).tcause = 0x04 ∧ (t.strand c n).tpc = pc ∧
      (t.strand c n).tval = pc ∧ (t.strand c n).tattr = 0 ∧ (t.strand c n).pc = (s.core c).tvec ∧
      (t.strand c n).tstatus = (s.strand c n).statusWord) ∧
    (pc.toNat / 2 ^ 57 = 64 → (∀ r, s.runOf c = some r → pageLeased r.lease (pc.toNat % 2 ^ 57) .exec = false) →
      ∃ t, step s = .next t ∧ (t.strand c n).life = .faulted ∧ (t.strand c n).tcause = 0x06 ∧ (t.strand c n).tpc = pc ∧
        (t.strand c n).tval = pc ∧ (t.strand c n).tattr = 0 ∧ (t.strand c n).pc = pc ∧
        (t.strand c n).level0 = (s.strand c n).level0 ∧ (t.strand c n).level1 = (s.strand c n).level1 ∧
        (t.strand c n).status = (s.strand c n).status))

/-- An instruction placed where the first step after reset fetches is the one that step runs (log 6 says how a program comes
to run). -/
def Obligations.FirstStep : Prop :=
  ∀ (w : Nat) (i : Instr), w < 2 ^ 32 → decode w = .ok i →
    step (State.reset.withFetchWord 32 w) =
      State.after 256 (exec i { State.reset.withFetchWord 32 w with cur := (256, 0), ir := BitVec.ofNat 32 w })

/-- Every step keeps the canonical form of memory, and takes no entry out of the journal, which resets and losses of power
leave as it is (R339, R354). That memory is one list in that form is the model's choice (log 40). -/
def Obligations.StepKeepsInvariant : Prop :=
  ∀ s t : State, s.Inv → step s = .next t → t.Inv ∧ ∃ l, t.journal = s.journal ++ l

/-- The invariant holds after reset.
R97, R98, R275 to R277, R280 to R282. A strand at reset: DORMANT, user mode, every register zero but TCMP, which is all ones, every
handle EMPTY, no loop level active, nothing outstanding or pending; of its core, the registers for which the spec states a
reset value. PC and MODE, for which it states none, are zero by the model's choice (log 5). -/
def Obligations.ResetState : Prop :=
  (State.reset.Inv) ∧
  (∀ c n,
     let t := State.reset.strand c n
     let k := State.reset.core c
     t.life = .dormant ∧ t.mode = 0 ∧ t.pc = 0 ∧ t.status = 0 ∧ t.tstatus = 0 ∧ t.tcmp = BitVec.allOnes 64 ∧
     (∀ r, t.greg r = 0 ∧ t.vreg r = 0 ∧ t.ereg r = 0) ∧ (∀ p, p ≠ 0 → t.preg p = 0) ∧ (∀ m, t.handle m = .empty) ∧
     (t.level0.active, t.level1.active) = (false, false) ∧
     (t.tls0, t.tle0, t.tlc0, t.tls1, t.tle1, t.tlc1) = (0, 0, 0, 0, 0, 0) ∧ (t.fctl, t.lastseq) = (0, 0) ∧
     (t.fmta, t.fmtb, t.scla, t.sclb) = (0, 0, 0, 0) ∧ (t.tcause, t.tpc, t.tval, t.tattr, t.tshadow, t.scratch) = (0, 0, 0, 0, 0, 0) ∧
     k.ipend n = 0 ∧ t.acks = 0 ∧ t.outst = none ∧ t.refusals = [] ∧
     (k.slots, k.sloten) = (0xFEDCBA9876543210, 0xFFFF) ∧ (k.advq, k.advqh) = (0x0606060606060606, 0x0606060606060606) ∧
     k.qlimit = 4096 ∧ k.balance = 16 ∧ k.hostmsg = [])

/-- No instruction and no event stops the machine: whatever the state, each answers a next state. -/
def Obligations.AlwaysNext : Prop :=
  ∀ (i : Instr) (s : State), ∃ t, exec i s = .next t

/-! ### Scalar registers -/

/-- R9, R97. General register g0 reads zero and discards writes, and predicate p0 reads all ones and discards writes. -/
def Obligations.ConstantRegisters : Prop :=
  ∀ (t : Strand) (v : Word), t.greg 0 = 0 ∧ t.preg 0 = BitVec.allOnes 64 ∧ t.setGreg 0 v = t ∧ t.setPreg 0 v = t

/-- R145 to R150. Two-operand integer instructions write d with the value their rule gives and complete. -/
def Obligations.IntegerTwoOperands : Prop :=
  ∀ s : State, s.Free → ∀ d a b : Reg,
    let x := s.me.greg a
    let y := s.me.greg b
    ∀ e ∈ ([
    (.add d a b, x + y), (.sub d a b, x - y), (.and d a b, x &&& y), (.or d a b, x ||| y),
    (.xor d a b, x ^^^ y), (.andn d a b, x &&& ~~~y), (.orn d a b, x ||| ~~~y),
    (.xnor d a b, ~~~(x ^^^ y)),
    (.addw d a b, ((x + y).truncate 32).signExtend 64), (.subw d a b, ((x - y).truncate 32).signExtend 64),
    (.lea1 d a b, x + y * 2), (.lea2 d a b, x + y * 4), (.lea3 d a b, x + y * 8), (.lea4 d a b, x + y * 16),
    (.gname d a b, BitVec.ofNat 64 (2 ^ 61 + x.toNat % 2 ^ 14 * 2 ^ 46 + y.toNat % 2 ^ 19)),
    (.sll d a b, x <<< (y.toNat % 64)), (.srl d a b, x >>> (y.toNat % 64)),
    (.sra d a b, x.sshiftRight (y.toNat % 64)),
    (.rol d a b, (x <<< (y.toNat % 64)) ||| (x >>> ((64 - y.toNat % 64) % 64))),
    (.ror d a b, (x >>> (y.toNat % 64)) ||| (x <<< ((64 - y.toNat % 64) % 64))),
    (.sllw d a b, ((x.truncate 32 : BitVec 32) <<< (y.toNat % 32)).signExtend 64),
    (.srlw d a b, ((x.truncate 32 : BitVec 32) >>> (y.toNat % 32)).signExtend 64),
    (.sraw d a b, ((x.truncate 32 : BitVec 32).sshiftRight (y.toNat % 32)).signExtend 64),
    (.bext d a b, BitVec.ofNat 64 (bextN x y 64)), (.bdep d a b, BitVec.ofNat 64 (bdepN x y 64)),
    (.mul d a b, x * y), (.mulhI64 d a b, BitVec.ofInt 64 (x.toInt * y.toInt / 2 ^ 64)),
    (.mulhW64 d a b, BitVec.ofNat 64 (x.toNat * y.toNat / 2 ^ 64)),
    (.mulI32 d a b, BitVec.ofInt 64 ((x.truncate 32 : BitVec 32).toInt * (y.truncate 32 : BitVec 32).toInt)),
    (.seq d a b, if x = y then 1 else 0), (.sne d a b, if x = y then 0 else 1),
    (.sltI64 d a b, if x.toInt < y.toInt then 1 else 0), (.sltW64 d a b, if x.toNat < y.toNat then 1 else 0),
    (.sleI64 d a b, if x.toInt ≤ y.toInt then 1 else 0), (.sleW64 d a b, if x.toNat ≤ y.toNat then 1 else 0),
    (.minI64 d a b, if x.toInt ≤ y.toInt then x else y), (.minW64 d a b, if x.toNat ≤ y.toNat then x else y),
    (.maxI64 d a b, if x.toInt ≤ y.toInt then y else x), (.maxW64 d a b, if x.toNat ≤ y.toNat then y else x),
    (.czn d a b, if y = 0 then x else 0), (.czz d a b, if y = 0 then 0 else x)]
      : List (Instr × Word)),
    exec e.1 s = .next (s.wrote d e.2)

/-- R149. Division and remainder: truncation toward zero, the results of division by zero, and those of the most negative
value divided by -1. -/
def Obligations.IntegerDivision : Prop :=
  ∀ s : State, s.Free → ∀ d a b : Reg, ∀ e ∈ ([
    (.divI64, .remI64, true), (.divW64, .remW64, false)] : List ((Reg → Reg → Reg → Instr) × (Reg → Reg → Reg → Instr) × Bool)),
    let x := s.me.greg a
    let y := s.me.greg b
    let iv (v : Word) : Int := if e.2.2 then v.toInt else v.toNat
    exec (e.1 d a b) s = .next (s.wrote d (if y = 0 then BitVec.allOnes 64 else BitVec.ofInt 64 ((iv x).tdiv (iv y)))) ∧
    exec (e.2.1 d a b) s = .next (s.wrote d (if y = 0 then x else BitVec.ofInt 64 ((iv x).tmod (iv y)))) ∧
    (let u : BitVec 32 := x.truncate 32
     let v : BitVec 32 := y.truncate 32
     let ext (r : BitVec 32) : Word := if e.2.2 then r.signExtend 64 else r.zeroExtend 64
     let iw (r : BitVec 32) : Int := if e.2.2 then r.toInt else r.toNat
     exec ((if e.2.2 then Instr.divI32 else Instr.divW32) d a b) s =
       .next (s.wrote d (ext (if v = 0 then BitVec.allOnes 32 else BitVec.ofInt 32 ((iw u).tdiv (iw v))))) ∧
     exec ((if e.2.2 then Instr.remI32 else Instr.remW32) d a b) s =
       .next (s.wrote d (ext (if v = 0 then u else BitVec.ofInt 32 ((iw u).tmod (iw v))))))

/-- R147, R151, R152. One-operand and immediate integer instructions write d and complete. -/
def Obligations.IntegerImmediates : Prop :=
  ∀ s : State, s.Free → ∀ (d a : Reg) (imm : BitVec 15) (sh : BitVec 6) (up : BitVec 20),
    let x := s.me.greg a
    let k : Word := imm.signExtend 64
    ∀ e ∈ ([
      (.clz d a, BitVec.ofNat 64 (clzN x 64)), (.ctz d a, BitVec.ofNat 64 (ctzN x 64)), (.popc d a, BitVec.ofNat 64 (popN x 64)),
      (.brev d a, x.reverse), (.bswap d a, BitVec.ofNat 64 (ofBytes (toBytes 8 x.toNat).reverse)),
      (.addi d a imm, x + k), (.andi d a imm, x &&& k), (.ori d a imm, x ||| k), (.xori d a imm, x ^^^ k),
      (.sltiI64 d a imm, if x.toInt < k.toInt then 1 else 0), (.sltiW64 d a imm, if x.toNat < k.toNat then 1 else 0),
      (.slli d a sh, x <<< sh.toNat), (.srli d a sh, x >>> sh.toNat), (.srai d a sh, x.sshiftRight sh.toNat),
      (.rori d a sh, (x >>> sh.toNat) ||| (x <<< ((64 - sh.toNat) % 64))),
      (.lih d up, (up.signExtend 64 : Word) * 4096), (.addpc d up, s.me.pc + (up.signExtend 64 : Word) * 4096),
      (.erd d a, s.me.ereg a)] : List (Instr × Word)),
    exec e.1 s = .next (s.wrote d e.2)

/-- R158 to R165. Scalar floating-point instructions write the correctly rounded result, zero-extended, and raise its flags in
`FCTL`. Operands are the low bits of their registers that the format occupies.
R164. Classification writes a one-hot class of the value and raises nothing. -/
def Obligations.ScalarFloat : Prop :=
  (∀ s : State, s.Free → ∀ (d a b : Reg) (rm : Rm) (t : SFmt),
     let f := fmtOf t
     let m := s.me.mode? rm
     let lo (g : Flt) (r : Reg) : Nat := (s.me.greg r).toNat % 2 ^ g.width
     let x := lo f a
     let y := lo f b
     let z := lo f d
     let int (g : Flt) (sg : Bool) (n : Nat) : Nat × Flags :=
       let r := (g.value (lo g a)).toInt m sg n
       ((BitVec.ofInt 64 r.1).toNat, r.2)
     let cmp (g : Flt) (c : Cmp) : Nat × Flags := ((if (g.compare c (lo g a) (lo g b)).1 then 1 else 0), (g.compare c (lo g a) (lo g b)).2)
     ∀ e ∈ ([
       (.fadd t rm d a b, f.add m x y), (.fsub t rm d a b, f.sub m x y), (.fmul t rm d a b, f.mul m x y),
       (.fdiv t rm d a b, f.div m x y), (.fsqrt t rm d a, f.sqrt m x),
       (.fmac t rm d a b, f.fma m false false x y z), (.fmsc t rm d a b, f.fma m true false x y z),
       (.fmin t d a b, f.pickNumber false x y), (.fmax t d a b, f.pickNumber true x y),
       (.fsgnj t d a b, (f.withSign x (f.sign y), 0)), (.fsgnjn t d a b, (f.withSign x (!f.sign y), 0)),
       (.fsgnjx t d a b, (f.withSign x (f.sign x != f.sign y), 0)),
       (.fcvtF32F64 rm d a, binary64.convert binary32 m (lo binary64 a)), (.fcvtF64F32 d a, binary32.convert binary64 .rne (lo binary32 a)),
       (.fcvtF16F32 rm d a, binary32.convert binary16 m (lo binary32 a)), (.fcvtF32F16 d a, binary16.convert binary32 .rne (lo binary16 a)),
       (.fcvtBf16F32 rm d a, binary32.convert bfloat16 m (lo binary32 a)), (.fcvtF32Bf16 d a, bfloat16.convert binary32 .rne (lo bfloat16 a)),
       (.fcvtF16F64 rm d a, binary64.convert binary16 m (lo binary64 a)), (.fcvtF64F16 d a, binary16.convert binary64 .rne (lo binary16 a)),
       (.fcvtF64I64 rm d a, binary64.ofInt m (s.me.greg a).toInt), (.fcvtF64W64 rm d a, binary64.ofInt m (s.me.greg a).toNat),
       (.fcvtF32I64 rm d a, binary32.ofInt m (s.me.greg a).toInt), (.fcvtF32W64 rm d a, binary32.ofInt m (s.me.greg a).toNat),
       (.fcvtI64F64 rm d a, int binary64 true 64), (.fcvtW64F64 rm d a, int binary64 false 64),
       (.fcvtI64F32 rm d a, int binary32 true 64), (.fcvtW64F32 rm d a, int binary32 false 64),
       (.fcvtI32F64 rm d a, int binary64 true 32), (.fcvtW32F64 rm d a, int binary64 false 32),
       (.fcvtI32F32 rm d a, int binary32 true 32), (.fcvtW32F32 rm d a, int binary32 false 32),
       (.feqF64 d a b, cmp binary64 .eq), (.fltF64 d a b, cmp binary64 .lt), (.fleF64 d a b, cmp binary64 .le),
       (.feqF32 d a b, cmp binary32 .eq), (.fltF32 d a b, cmp binary32 .lt), (.fleF32 d a b, cmp binary32 .le)]
         : List (Instr × (Nat × Flags))),
     exec e.1 s = .next (s.wroteFlags d e.2)) ∧
  (∀ s : State, s.Free → ∀ d a : Reg,
     exec (.fclassF64 d a) s = .next (s.wrote d (BitVec.ofNat 64 (binary64.classify ((s.me.greg a).toNat % 2 ^ 64)))) ∧
     exec (.fclassF32 d a) s = .next (s.wrote d (BitVec.ofNat 64 (binary32.classify ((s.me.greg a).toNat % 2 ^ 32)))))

/-- What the register-only instructions leave alone, whichever way they end: every state, queue ports and waits included
(R94, R97, R143). -/
def Obligations.RegisterOnlyFrame : Prop :=
  ∀ (i : Instr) (u : RegUse) (s t : State), shadowUse i = some u → exec i s = .next t → RegFrame s t u

/-- R113, R114. Under QMAP a source field g24 to g27 of `addi` and `add` is a queue: its head is popped, once where it is
named twice, and both operands have its value; a destination field is pushed at the tail; where the queue is empty or full the
instruction waits, with nothing popped or pushed. That an entry which another strand has popped for an instruction not yet complete
keeps its place is the model's choice (log 25). -/
def Obligations.QueuePorts : Prop :=
  ∀ s : State, ∀ q, s.me.qmap = true → s.me.popped = [] → q < 4 → (∀ k ∈ (s.core s.cur.1).copies, k.strand ≠ s.cur.2 % 16) →
    let entries (t : State) : List Word := ((t.core s.cur.1).queue q).entries
    let p : Reg := BitVec.ofNat 5 (24 + q)
    let taken := (entries s).length + (s.core s.cur.1).keptPlaces q s.cur.2
    (∀ x rest, entries s = x :: rest → ∀ (d : Reg) (imm : BitVec 15), d.toNat < 24 →
      (∃ t, exec (.addi d p imm) s = .next t ∧ t.me.greg d = (if d = 0 then 0 else x + imm.signExtend 64) ∧ entries t = rest) ∧
      (∃ t, exec (.add d p p) s = .next t ∧ t.me.greg d = (if d = 0 then 0 else x + x) ∧ entries t = rest)) ∧
    (∀ (a : Reg) (imm : BitVec 15), a.toNat < 24 →
      (taken < 16 →
        ∃ t, exec (.addi p a imm) s = .next t ∧ entries t = entries s ++ [s.me.greg a + imm.signExtend 64]) ∧
      (16 ≤ taken → ∃ t, exec (.addi p a imm) s = .next t ∧ entries t = entries s ∧ t.me.pc = s.me.pc)) ∧
    (entries s = [] → ∀ (d : Reg) (imm : BitVec 15), d.toNat < 24 →
      ∃ t, exec (.addi d p imm) s = .next t ∧ entries t = [] ∧ t.me.pc = s.me.pc ∧ t.me.g = s.me.g)

/-! ### Control flow -/

/-- R153, R154. A branch whose condition holds goes to its target, and otherwise on; jumps write the link and go to their
target, and a `jalr` whose target is misaligned traps with MISALIGNED, TVAL the target. -/
def Obligations.BranchesAndJumps : Prop :=
  ∀ s : State, s.Free → ∀ (a b : Reg) (off : BitVec 15),
    let x := s.me.greg a
    let y := s.me.greg b
    (∀ e ∈ ([(.beq a b off, decide (x = y)), (.bne a b off, decide (x ≠ y)),
      (.bltI64 a b off, decide (x.toInt < y.toInt)), (.bgeI64 a b off, decide (y.toInt ≤ x.toInt)),
      (.bltW64 a b off, decide (x.toNat < y.toNat)), (.bgeW64 a b off, decide (y.toNat ≤ x.toNat))] : List (Instr × Bool)),
      exec e.1 s = .next (s.retire (if e.2 then .to (s.me.pc + (off.signExtend 64 : Word) * 4) true else .on))) ∧
    (∀ (d : Reg) (imm : BitVec 20),
      exec (.jal d imm) s = .next ((s.modMe fun t => t.setGreg d (s.me.pc + 4)).retire
        (.to (s.me.pc + (imm.signExtend 64 : Word) * 4) (d == 0)))) ∧
    (∀ d : Reg, (x + (off.signExtend 64 : Word)).toNat % 4 = 0 →
      exec (.jalr d a off) s = .next ((s.modMe fun t => t.setGreg d (s.me.pc + 4)).retire
        (.to (x + (off.signExtend 64 : Word)) (d == 0)))) ∧
    (∀ d : Reg, s.me.tin = false → (x + (off.signExtend 64 : Word)).toNat % 4 ≠ 0 →
      ∃ t, exec (.jalr d a off) s = .next t ∧ s.Trapped t 0x03 s.me.pc (x + (off.signExtend 64 : Word)))

/-- R105, R106, R288. Completing without an active loop moves the PC on by one instruction, or to the target, and changes no
other register. At the last instruction of an active level's body its end action follows: with a count above 1, the count
falls and the PC goes to the start of the body; otherwise the level ends and the PC goes on, and where the inner level ends, an
active outer level takes its place and, if it ends at the same instruction, takes its end action too. A transfer that cancels
ends the levels whose bodies its target leaves. -/
def Obligations.Completion : Prop :=
  ∀ s : State,
    let l0 := s.me.level0
    let l1 := s.me.level1
    let off (l : Level) : Level := { l with active := false }
    let fell (l : Level) : Level := { l with count := l.count - 1 }
    let spent (l : Level) : Level := { l with count := 0, active := false }
    let ends (l : Level) : Prop := l.active = true ∧ l.stop = s.me.pc
    let leaves (l : Level) (x : Word) : Prop := l.active = true ∧ (x.toNat < l.start.toNat ∨ l.stop.toNat < x.toNat)
    let done (pc : Word) (a b : Level) : State := s.modMe fun t =>
      { t with pc, level0 := a, level1 := b, stall := none, skip := 0, popped := [], rerun := false, record := none,
               scalars := [], order := none }
    let on : Word := s.me.pc + 4
    (s.me.skip = 0 →
      (¬ ends l0 → ¬ ends l1 → s.retire .on = done on l0 l1) ∧
      (ends l0 → 1 < l0.count.toNat → s.retire .on = done l0.start (fell l0) l1) ∧
      (ends l0 → l0.count.toNat ≤ 1 →
        (l1.active = false → s.retire .on = done on (spent l0) l1) ∧
        (l1.active = true → l1.stop ≠ s.me.pc → s.retire .on = done on l1 (off l1)) ∧
        (ends l1 → 1 < l1.count.toNat → s.retire .on = done l1.start (fell l1) (off l1)) ∧
        (ends l1 → l1.count.toNat ≤ 1 → s.retire .on = done on (spent l1) (off l1))) ∧
      (¬ ends l0 → ends l1 →
        (1 < l1.count.toNat → s.retire .on = done l1.start l0 (fell l1)) ∧
        (l1.count.toNat ≤ 1 → s.retire .on = done on l0 (spent l1)))) ∧
    (∀ x : Word, s.retire (.to x false) = done x l0 l1 ∧
      (leaves l1 x → s.retire (.to x true) = done x (off l0) (off l1)) ∧
      (¬ leaves l1 x → leaves l0 x → s.retire (.to x true) = if l1.active then done x l1 (off l1) else done x (off l0) l1) ∧
      (¬ leaves l1 x → ¬ leaves l0 x → s.retire (.to x true) = done x l0 l1))

/-- R104, R157. Starting a loop whose count is not zero makes it the inner level, with an active inner level moved out; a zero
count skips the body. A loop without a body, one at the last instruction of an active level's body, and one with a count that
would reach beyond the enclosing loop or make a third level trap with ILLEGAL_INSTRUCTION, TVAL the instruction word.
R132, R191. Hints change nothing but the PC, and `retire` zeroes the shadow format registers. -/
def Obligations.LoopsHintsAndRetire : Prop :=
  (∀ s : State, s.Free → s.NoLoop → ∀ (a : Reg) (n : BitVec 10) (len : BitVec 15), len ≠ 0 →
     let fresh (k : Word) : Level :=
       { start := s.me.pc + 4, stop := s.me.pc + BitVec.ofNat 64 (4 * len.toNat), count := k, active := true }
     let started (k : Word) : State := (s.modMe fun t => { t with level0 := fresh k }).retire (.to (s.me.pc + 4) false)
     let skipped : State := s.retire (.to (s.me.pc + BitVec.ofNat 64 (4 * len.toNat + 4)) false)
     exec (.loop a len) s = .next (if s.me.greg a = 0 then skipped else started (s.me.greg a)) ∧
     exec (.loopi n len) s = .next (if n = 0 then skipped else started (n.zeroExtend 64))) ∧
  (∀ s : State, s.Free → s.me.level0.active = true → s.me.level1.active = false → s.me.level0.stop ≠ s.me.pc →
     ∀ (a : Reg) (n : BitVec 10) (len : BitVec 15), len ≠ 0 →
     let stop : Word := s.me.pc + BitVec.ofNat 64 (4 * len.toNat)
     let started (k : Word) : State :=
       (s.modMe fun t => { t with
         level1 := t.level0
         level0 := { start := s.me.pc + 4, stop, count := k, active := true } }).retire (.to (s.me.pc + 4) false)
     let skipped : State := s.retire (.to (stop + 4) false)
     stop.toNat ≤ s.me.level0.stop.toNat →
       exec (.loop a len) s = .next (if s.me.greg a = 0 then skipped else started (s.me.greg a)) ∧
       exec (.loopi n len) s = .next (if n = 0 then skipped else started (n.zeroExtend 64))) ∧
  (∀ s : State, s.Free → s.me.tin = false → ∀ (a : Reg) (n : BitVec 10) (len : BitVec 15),
     let t := s.me
     let stop : Word := t.pc + BitVec.ofNat 64 (4 * len.toNat)
     let atEnd : Prop := (t.level0.active = true ∧ t.level0.stop = t.pc) ∨ (t.level1.active = true ∧ t.level1.stop = t.pc)
     ∀ e ∈ ([(.loop a len, t.greg a), (.loopi n len, n.zeroExtend 64)] : List (Instr × Word)),
       (len = 0 ∨ atEnd ∨ (e.2 ≠ 0 ∧ t.level0.active = true ∧ (t.level0.stop.toNat < stop.toNat ∨ t.level1.active = true)) →
         ∃ u, exec e.1 s = .next u ∧ s.Trapped u 0x01 t.pc (s.ir.zeroExtend 64)) ∧
       (len ≠ 0 → ¬ atEnd → e.2 = 0 → exec e.1 s = .next (s.retire (.to (stop + 4) false)))) ∧
  (∀ (s : State) (a : Reg) (imm : BitVec 15) (la : La),
     exec .nop s = .next (s.retire .on) ∧ exec (.pf a imm) s = .next (s.retire .on) ∧
     exec .hlikely s = .next (s.retire .on) ∧ exec .hunlikely s = .next (s.retire .on) ∧
     exec (.retire la) s = .next ((s.modMe fun t => { t with fmta := 0, fmtb := 0, scla := 0, sclb := 0 }).retire .on))

/-! ### Vector registers -/

/-- R192, R198. Integer vector instructions: every active lane holds the exact result of its lanes modulo the lane width, or
saturated, and inactive lanes are zero or unchanged. -/
def Obligations.VectorInteger : Prop :=
  ∀ (s : State) (t : LaneTy) (d a b c : Reg) (p : Pred) (z : Bool),
    let w := laneBytes t
    let n := 8 * w
    let x (i : Nat) : Int := vlaneInt (s.rv a) w (laneSigned t) i
    let y (i : Nat) : Int := vlaneInt (s.rv b) w (laneSigned t) i
    let lo : Int := if laneSigned t then -2 ^ (n - 1) else 0
    let hi : Int := if laneSigned t then 2 ^ (n - 1) - 1 else 2 ^ n - 1
    (∀ e ∈ ([(.vadd t d a b p z, fun i => x i + y i), (.vsub t d a b p z, fun i => x i - y i),
      (.vmul t d a b p z, fun i => x i * y i), (.vmulh t d a b p z, fun i => x i * y i / 2 ^ n),
      (.vmin t d a b p z, fun i => min (x i) (y i)), (.vmax t d a b p z, fun i => max (x i) (y i)),
      (.vadds t d a b p z, fun i => max lo (min hi (x i + y i))), (.vsubs t d a b p z, fun i => max lo (min hi (x i - y i)))]
        : List (Instr × (Nat → Int))),
      LaneResult s (exec e.1 s) d w (s.rp p) z (fun i => (e.2 i % 2 ^ n).toNat) 0) ∧
    (∀ e ∈ ([(.vmaddI32 d a b c p, 4), (.vmaddI16 d a b c p, 2)] : List (Instr × Nat)),
      LaneResult s (exec e.1 s) d e.2 (s.rp p) false
        (fun i => vlane (s.rv a) e.2 i * vlane (s.rv b) e.2 i + vlane (s.rv c) e.2 i) 0)

/-- R192, R199. Bitwise vector instructions, predicated by byte, and shifts by the low bits of vb's lanes. -/
def Obligations.VectorBitsAndShifts : Prop :=
  ∀ (s : State) (t : LaneTy) (d a b : Reg) (p : Pred) (z : Bool),
    let w := laneBytes t
    let x (i : Nat) : Nat := vlane (s.rv a) w i
    let k (i : Nat) : Nat := vlane (s.rv b) w i % (8 * w)
    (∀ e ∈ ([(.vand d a b p z, s.rv a &&& s.rv b), (.vor d a b p z, s.rv a ||| s.rv b), (.vxor d a b p z, s.rv a ^^^ s.rv b),
      (.vandn d a b p z, s.rv a &&& ~~~s.rv b)] : List (Instr × VReg)),
      LaneResult s (exec e.1 s) d 1 (s.rp p) z (fun i => vlane e.2 1 i) 0) ∧
    (∀ e ∈ ([(.vsll t d a b p z, fun i => x i * 2 ^ k i), (.vsrl t d a b p z, fun i => x i / 2 ^ k i),
      (.vsra t d a b p z, fun i => ((vlaneInt (s.rv a) w true i / 2 ^ k i) % 2 ^ (8 * w)).toNat)] : List (Instr × (Nat → Nat))),
      LaneResult s (exec e.1 s) d w (s.rp p) z e.2 0)

/-- R192, R200, R201. Float vector instructions: each active lane is rounded under `FCTL.RM`, and the flags of the active lanes
alone are raised. -/
def Obligations.VectorFloat : Prop :=
  ∀ (s : State) (t : FLane) (d a b c : Reg) (p : Pred) (z : Bool),
    let f := laneFmt t
    let m := s.me.rm
    let l (g : FLane) (r : Reg) (i : Nat) : Nat := vlane (s.rv r) (flaneBytes g) i
    (∀ e ∈ ([(.vfadd t d a b p z, fun i => f.add m (l t a i) (l t b i)), (.vfsub t d a b p z, fun i => f.sub m (l t a i) (l t b i)),
      (.vfmul t d a b p z, fun i => f.mul m (l t a i) (l t b i)), (.vfdiv t d a b p z, fun i => f.div m (l t a i) (l t b i)),
      (.vfsqrt t d a p z, fun i => f.sqrt m (l t a i)), (.vfmin t d a b p z, fun i => f.pickNumber false (l t a i) (l t b i)),
      (.vfmax t d a b p z, fun i => f.pickNumber true (l t a i) (l t b i)), (.vfabs t d a p z, fun i => (f.withSign (l t a i) false, 0))]
        : List (Instr × (Nat → Nat × Flags))),
      LaneResult s (exec e.1 s) d (flaneBytes t) (s.rp p) z (fun i => (e.2 i).1)
        (vflags (flaneBytes t) (s.rp p) fun i => (e.2 i).2)) ∧
    (∀ e ∈ ([(.vfmaF32 d a b c p, .f32, false, false), (.vfmsF32 d a b c p, .f32, false, true),
      (.vfnmaF32 d a b c p, .f32, true, true), (.vfnmsF32 d a b c p, .f32, true, false),
      (.vfmaF16 d a b c p, .f16, false, false), (.vfmaBf16 d a b c p, .bf16, false, false)] : List (Instr × FLane × Bool × Bool)),
      let r (i : Nat) : Nat × Flags := (laneFmt e.2.1).fma m e.2.2.1 e.2.2.2 (l e.2.1 a i) (l e.2.1 b i) (l e.2.1 c i)
      LaneResult s (exec e.1 s) d (flaneBytes e.2.1) (s.rp p) false (fun i => (r i).1)
        (vflags (flaneBytes e.2.1) (s.rp p) fun i => (r i).2))

/-- R202, R203. Comparisons set every bit of an active lane, and predicate logic works on whole predicates. -/
def Obligations.Predicates : Prop :=
  ∀ (s : State) (t : LaneTy) (f : FLane) (d a b : Reg) (p : Pred) (z : Bool),
    let w := laneBytes t
    let v := flaneBytes f
    let q : Pred := d.truncate 3
    let x (i : Nat) : Int := vlaneInt (s.rv a) w (laneSigned t) i
    let y (i : Nat) : Int := vlaneInt (s.rv b) w (laneSigned t) i
    let fx (i : Nat) : Nat := vlane (s.rv a) v i
    let fy (i : Nat) : Nat := vlane (s.rv b) v i
    (∀ e ∈ ([(.vceq t d a b p z, fun i => decide (x i = y i)), (.vcne t d a b p z, fun i => decide (x i ≠ y i)),
      (.vclt t d a b p z, fun i => decide (x i < y i)), (.vcle t d a b p z, fun i => decide (x i ≤ y i))] : List (Instr × (Nat → Bool))),
      PredResult s (exec e.1 s) q w (s.rp p) z e.2 0) ∧
    (∀ e ∈ ([(.vcfeq f d a b p z, fun i => (laneFmt f).compare .eq (fx i) (fy i)),
      (.vcflt f d a b p z, fun i => (laneFmt f).compare .lt (fx i) (fy i)),
      (.vcfle f d a b p z, fun i => (laneFmt f).compare .le (fx i) (fy i)),
      (.vcfun f d a b p z, fun i => ((laneFmt f).isNan (fx i) || (laneFmt f).isNan (fy i), (laneFmt f).snanFlag [fx i, fy i]))]
        : List (Instr × (Nat → Bool × Flags))),
      PredResult s (exec e.1 s) q v (s.rp p) z (fun i => (e.2 i).1) (vflags v (s.rp p) fun i => (e.2 i).2)) ∧
    (let pa := s.rp (a.truncate 3)
     let pb := s.rp (b.truncate 3)
     ∀ e ∈ ([(.pand d a b, pa &&& pb), (.por d a b, pa ||| pb), (.pxor d a b, pa ^^^ pb), (.pandn d a b, pa &&& ~~~pb),
       (.pnot d a, ~~~pa)] : List (Instr × Word)), exec e.1 s = .next (s.wroteP q e.2 0)) ∧
    (s.Free → exec (.pfromg d a) s = .next (s.wroteP q (s.me.greg a) 0) ∧
      exec (.ptog d a) s = .next (s.wrote d (s.rp (a.truncate 3))))

/-- R204, R211. Permutes and moves: which lane each active lane of vd takes. -/
def Obligations.Permutes : Prop :=
  ∀ (s : State) (t : LaneTy) (d a b : Reg) (p : Pred) (z : Bool),
    let w := laneBytes t
    let n := 64 / w
    let x (i : Nat) : Nat := vlane (s.rv a) w i
    let y (i : Nat) : Nat := vlane (s.rv b) w i
    let g := s.me.greg b
    (∀ e ∈ ([(.vperm t d a b p z, fun i => x (y i % n)), (.vzipl t d a b p z, fun i => if i % 2 = 0 then x (i / 2) else y (i / 2)),
      (.vziph t d a b p z, fun i => if i % 2 = 0 then x (n / 2 + i / 2) else y (n / 2 + i / 2)),
      (.vunzpe t d a b p z, fun i => if i < n / 2 then x (2 * i) else y (2 * (i - n / 2))),
      (.vunzpo t d a b p z, fun i => if i < n / 2 then x (2 * i + 1) else y (2 * (i - n / 2) + 1)),
      (.vrev t d a p z, fun i => x (n - 1 - i)), (.vmov t d a p z, x)] : List (Instr × (Nat → Nat))),
      LaneResult s (exec e.1 s) d w (s.rp p) z e.2 0) ∧
    (∃ v : VReg, exec (.vmerge t d a b p) s = .next (s.wroteV d v 0) ∧
      ∀ i, i < n → vlane v w i = if active (s.rp p) w i then x i else y i) ∧
    (s.Free →
      (∀ e ∈ ([(.vslide t d a b p z, fun i => if 0 ≤ (i : Int) + g.toInt ∧ (i : Int) + g.toInt < n then x ((i : Int) + g.toInt).toNat else 0),
        (.vbcl t d a b p z, fun _ => x (g.toNat % n)), (.vdup t d a p z, fun _ => (s.me.greg a).toNat)] : List (Instr × (Nat → Nat))),
        LaneResult s (exec e.1 s) d w (s.rp p) z e.2 0) ∧
      (∃ v : VReg, exec (.vins t d a b) s = .next (s.wroteV d v 0) ∧ ∀ i, i < n →
        vlane v w i = if i = g.toNat % n then (s.me.greg a).toNat % 2 ^ (8 * w) else vlane (s.rv d) w i) ∧
      exec (.vext t d a b) s = .next (s.wrote d (BitVec.ofInt 64 (vlaneInt (s.rv a) w (laneSigned t) (g.toNat % n)))))

/-- R205. Reductions put the reduction of lane 0 of vb and the active lanes of va in lane 0 of vd and clear the other lanes; a
float sum is the fixed pairwise tree over the lanes, with -0 for an inactive one. -/
def Obligations.Reductions : Prop :=
  ∀ (s : State) (t : LaneTy) (u : FLane) (d a b : Reg) (p : Pred),
    let w := laneBytes t
    let act := (List.range (64 / w)).filter fun i => active (s.rp p) w i
    let x (i : Nat) : Int := vlaneInt (s.rv a) w (laneSigned t) i
    let y0 := vlaneInt (s.rv b) w (laneSigned t) 0
    let v := flaneBytes u
    let f := laneFmt u
    let fact := (List.range (64 / v)).filter fun i => active (s.rp p) v i
    let z0 := vlane (s.rv b) v 0
    let pick (g : Bool) : Nat × Flags := fact.foldl (fun acc i =>
      let o := f.pickNumber g acc.1 (vlane (s.rv a) v i)
      (o.1, acc.2 ||| o.2)) (z0, f.snanFlag [z0])
    let leaf (i : Nat) : Nat := if active (s.rp p) v i then vlane (s.rv a) v i else 2 ^ (f.width - 1)
    let tree := treeSum f s.me.rm (if v = 4 then 4 else 5) ((List.range (64 / v)).map leaf)
    let sum := f.add s.me.rm z0 tree.1
    let low (r : Int) : VReg := BitVec.ofNat 512 (r % 2 ^ (8 * w)).toNat
    let num (r : Nat × Flags) : State := s.wroteV d (BitVec.ofNat 512 (if f.isNan r.1 then f.canonNan else r.1)) r.2
    exec (.vradd t d a b p) s = .next (s.wroteV d (low (act.foldl (fun r i => r + x i) y0)) 0) ∧
    exec (.vrmin t d a b p) s = .next (s.wroteV d (low (act.foldl (fun r i => min r (x i)) y0)) 0) ∧
    exec (.vrmax t d a b p) s = .next (s.wroteV d (low (act.foldl (fun r i => max r (x i)) y0)) 0) ∧
    exec (.vrfadd u d a b p) s = .next (s.wroteV d (BitVec.ofNat 512 sum.1) (tree.2 ||| sum.2)) ∧
    exec (.vrfmin u d a b p) s = .next (num (pick false)) ∧ exec (.vrfmax u d a b p) s = .next (num (pick true))

/-- R206. Conversions between lane formats: widenings are exact, narrowings and integer conversions round under `FCTL.RM` and
saturate, and a narrowing to bytes clears the upper half. -/
def Obligations.VectorConversions : Prop :=
  ∀ (s : State) (d a b : Reg) (p : Pred),
    let m := s.me.rm
    let lane (r : Reg) (w i : Nat) : Nat := vlane (s.rv r) w i
    let halves (i : Nat) : Nat := if i < 16 then lane a 4 i else lane b 4 (i - 16)
    let int (sg : Bool) (i : Nat) : Nat × Flags :=
      let r := (binary32.value (lane a 4 i)).toInt m sg 32
      ((r.1 % 2 ^ 32).toNat, r.2)
    let sat (i : Nat) : Int := max (-128) (min 127 (if i < 16 then vlaneInt (s.rv a) 4 true i else vlaneInt (s.rv b) 4 true (i - 16)))
    (∀ e ∈ ([(.vcvtF32F16 d a p, fun i => binary16.convert binary32 .rne (lane a 2 i)),
      (.vcvtF32Bf16 d a p, fun i => bfloat16.convert binary32 .rne (lane a 2 i)),
      (.vcvtF32I32 d a p, fun i => binary32.ofInt m (vlaneInt (s.rv a) 4 true i)),
      (.vcvtF32W32 d a p, fun i => binary32.ofInt m (lane a 4 i)), (.vcvtI32F32 d a p, int true), (.vcvtW32F32 d a p, int false),
      (.vcvtI32I8 d a p, fun i => ((vlaneInt (s.rv a) 1 true i % 2 ^ 32).toNat, 0))] : List (Instr × (Nat → Nat × Flags))),
      LaneResult s (exec e.1 s) d 4 (s.rp p) false (fun i => (e.2 i).1) (vflags 4 (s.rp p) fun i => (e.2 i).2)) ∧
    (∀ e ∈ ([(.vcvtF16F32 d a b p, binary16), (.vcvtBf16F32 d a b p, bfloat16)] : List (Instr × Flt)),
      LaneResult s (exec e.1 s) d 2 (s.rp p) false (fun i => (binary32.convert e.2 m (halves i)).1)
        (vflags 2 (s.rp p) fun i => (binary32.convert e.2 m (halves i)).2)) ∧
    (∃ v : VReg, exec (.vcvtI8I32 d a b p) s = .next (s.wroteV d v 0) ∧
      (∀ i, i < 32 → vlane v 1 i = if active (s.rp p) 1 i then (sat i % 256).toNat else lane d 1 i) ∧
      (∀ i, 32 ≤ i → i < 64 → vlane v 1 i = 0))

/-- R207, R208, R209. DX and MX blocks: widening half a block rounds each element's exact value, narrowing encodes 32 values,
`vdxamax` finds their scales and `vdxdot` adds the exact dot product of the active elements with one rounding. The flags of
`vdxdot`, UF among them, and UF of MXINT8 at a zero only, are the model's choice (log 44). -/
def Obligations.BlockFormats : Prop :=
  ∀ (s : State) (x : DxTy) (d a b : Reg) (p : Pred),
    let sc (r : Reg) : Nat := vlane (s.rv r) 4 0
    let half : Nat := 16 * (sc b / 2 ^ 16 % 2)
    let blk (r : Reg) : Nat := (s.rv r).toNat
    let ins : List Sys2Proof.Machine.Num := (List.range 32).map fun i =>
      if active (s.rp p) 4 (i % 16) then binary32.value (vlane (s.rv (if i < 16 then a else b)) 4 (i % 16)) else .fin false 0 0
    let mode : Mode := if s.me.rm = .rod then .rod else .rne
    (∀ e ∈ ([(.vcvtF32D16 d a b p, d16), (.vcvtF32D8 d a b p, d8), (.vcvtF32D4 d a b p, d4)] : List (Instr × Dx)),
      LaneResult s (exec e.1 s) d 4 (s.rp p) false
        (fun i => (binary32.round .rne (e.2.value (e.2.elem (blk a) (half + i)) (sc b % 256) (sc b / 256 % 256))).1) 0) ∧
    (∀ e ∈ ([(.vcvtD16F32 d a b p, d16), (.vcvtD8F32 d a b p, d8), (.vcvtD4F32 d a b p, d4)] : List (Instr × Dx)),
      let o := e.2.encode mode (sc d % 256) (sc d / 256 % 256) ins
      exec e.1 s = .next (s.wroteV d (BitVec.ofNat 512 o.1) o.2)) ∧
    (∀ e ∈ ([(.vcvtF32E4m3 d a b p, e4m3), (.vcvtF32E5m2 d a b p, e5m2), (.vcvtF32E2m3 d a b p, e2m3), (.vcvtF32E3m2 d a b p, e3m2),
      (.vcvtF32E2m1 d a b p, e2m1), (.vcvtF32Mxi8 d a b p, mxi8)] : List (Instr × Mx)),
      let r (i : Nat) : Nat × Flags := binary32.round s.me.rm.plain (e.2.value (e.2.elem (blk a) (half + i)) (sc b % 256))
      LaneResult s (exec e.1 s) d 4 (s.rp p) false (fun i => (r i).1) (vflags 4 (s.rp p) fun i => (r i).2)) ∧
    (∀ e ∈ ([(.vcvtE4m3F32 d a b p, e4m3), (.vcvtE5m2F32 d a b p, e5m2), (.vcvtE2m3F32 d a b p, e2m3), (.vcvtE3m2F32 d a b p, e3m2),
      (.vcvtE2m1F32 d a b p, e2m1), (.vcvtMxi8F32 d a b p, mxi8)] : List (Instr × Mx)),
      let o := e.2.ofValues mode ins
      exec e.1 s = .next (s.wroteV d (BitVec.ofNat 512 (o.1 + o.2.1 * 2 ^ (32 * e.2.bits))) o.2.2)) ∧
    (let o := (dxOf x).scales ins
     exec (.vdxamax x d a b p) s = .next (s.wroteV d (BitVec.ofNat 512 (o.1 + 256 * o.2.1)) o.2.2)) ∧
    (let ps := ((List.range 32).filter fun i => (s.rp p).getLsbD (i * (dxOf x).bits / 8)).map fun i =>
       ((dxOf x).value ((dxOf x).elem (blk a) i) (sc d % 256) (sc d / 2 ^ 8 % 256),
        (dxOf x).value ((dxOf x).elem (blk b) i) (sc d / 2 ^ 16 % 256) (sc d / 2 ^ 24 % 256))
     let o := blockStep (vlane (s.rv d) 4 1) ps
     ∃ v : VReg, exec (.vdxdot x d a b p) s = .next (s.wroteV d v o.2) ∧
       ∀ i, i < 16 → vlane v 4 i = if i = 1 then o.1 % 2 ^ 32 else vlane (s.rv d) 4 i)

/-- R210. Special functions complete in every state. Equal lanes give equal results; a NaN gives the canonical one; the special
operands of the table give its results and flags; where the exact value is not representable, lanes of 16 bits are correctly
rounded, and so is what overflows or, for `vexp2`, falls below the subnormal range, while a binary32 lane is otherwise within
the bound and raises NX. Which value within the bound is free (log 7). -/
def Obligations.SpecialFunctions : Prop :=
  ∀ (s : State) (t : FLane) (d a : Reg) (p : Pred) (z : Bool), ∀ e ∈ ([(.vrcp t d a p z, .rcp), (.vrsqrt t d a p z, .rsqrt),
    (.vexp2 t d a p z, .exp2), (.vlog2 t d a p z, .log2), (.vtanh t d a p z, .tanh), (.vsigm t d a p z, .sigm)]
      : List (Instr × Special)),
    let f := laneFmt t
    let w := flaneBytes t
    let x (i : Nat) : Nat := vlane (s.rv a) w i
    let zero (n : Bool) : Nat := f.withSign 0 n
    let one (n : Bool) : Nat := f.withSign (f.bias * 2 ^ f.frac) n
    let table (n : Bool) : List (Special × Nat × Nat × Flags) := [(.rcp, zero n, f.infBits n, fDZ), (.rcp, f.infBits n, zero n, 0),
      (.rsqrt, zero n, f.infBits n, fDZ), (.rsqrt, f.infBits false, zero false, 0), (.exp2, zero n, one false, 0),
      (.exp2, f.infBits true, zero false, 0), (.exp2, f.infBits false, f.infBits false, 0), (.log2, zero n, f.infBits true, fDZ),
      (.log2, f.infBits false, f.infBits false, 0), (.tanh, f.infBits n, one n, 0), (.tanh, zero n, zero n, 0),
      (.sigm, f.infBits true, zero false, 0), (.sigm, f.infBits false, one false, 0),
      (.sigm, zero n, (f.bias - 1) * 2 ^ f.frac, 0)]
    ∃ r : Nat → Nat × Flags,
      LaneResult s (exec e.1 s) d w (s.rp p) z (fun i => (r i).1) (vflags w (s.rp p) fun i => (r i).2) ∧
      ∀ i, (∀ j, x j = x i → r j = r i) ∧
        (f.isNan (x i) = true → r i = (f.canonNan, f.snanFlag [x i])) ∧
        (∀ n, ∀ k ∈ table n, k.1 = e.2 → k.2.1 = x i → r i = k.2.2) ∧
        (e.2 = .rsqrt ∨ e.2 = .log2 → f.isNan (x i) = false → f.sign (x i) = true → x i ≠ zero true → r i = (f.canonNan, fNV)) ∧
        ∀ y, e.2.at (f.value (x i)) = .near y →
          let n := roundNear f y
          if f ≠ binary32 ∨ f.expOf n.1 = f.top ∨ (e.2 = .exp2 ∧ n.1 = 0) then r i = n
          else (r i).1 ∈ within e.2.bound 1 y ∧ (r i).2 = fNX ||| (n.2 &&& fUF)

/-! ### Memory -/

/-- R49, R50, R169, R171. Loads from the core's own scratchpad, or from it under its name (R63), write the little-endian bytes at
base plus scaled offset or index, extended, and complete.
R54, R63. A load of a virtual address whose bytes the L1 holds completes likewise, its line becoming the most recently used; where
they are not present the load waits, and the line is asked for from its home slice, in a frame of its set, unless a fill is
already on its way. A load from another core's scratchpad waits, and a request goes to that core's port. -/
def Obligations.OwnLoads : Prop :=
  ∀ s : State, s.Free → ∀ (d a b : Reg) (la : La) (imm : BitVec 11),
    let off (n : Nat) : Word := s.me.greg a + imm.signExtend 64 * BitVec.ofNat 64 n
    let idx (n : Nat) : Word := s.me.greg a + s.me.greg b * BitVec.ofNat 64 n
    let c := s.cur.1
    let part := s.partOf c
    ∀ e ∈ ([(.ldI8 d a la imm, off 1, 1, true), (.ldW8 d a la imm, off 1, 1, false), (.ldI16 d a la imm, off 2, 2, true),
      (.ldW16 d a la imm, off 2, 2, false), (.ldI32 d a la imm, off 4, 4, true), (.ldW32 d a la imm, off 4, 4, false),
      (.ldI64 d a la imm, off 8, 8, false), (.ldx .i8 d a b la, idx 1, 1, true), (.ldx .w8 d a b la, idx 1, 1, false),
      (.ldx .i16 d a b la, idx 2, 2, true), (.ldx .w16 d a b la, idx 2, 2, false), (.ldx .i32 d a b la, idx 4, 4, true),
      (.ldx .w32 d a b la, idx 4, 4, false), (.ldx .i64 d a b la, idx 8, 8, false)] : List (Instr × Word × Nat × Bool)),
    let x := e.2.1
    let n := e.2.2.1
    let value (v : Nat) : Word := if e.2.2.2 then (BitVec.ofNat (8 * n) v).signExtend 64 else BitVec.ofNat 64 v
    let waits (t : State) (need : List (Word × Nat)) : Prop :=
      exec e.1 s = .next t ∧ s.WaitsIn t (.access (.scalar d n e.2.2.2 false) n need 1 [])
    (s.Own x n → exec e.1 s = .next (s.wrote d (value (s.load (s.ownKey x) n)))) ∧
    (let o : Word := BitVec.ofNat 64 (x.toNat % 2 ^ 19)
     s.Named x n c → s.Own o n → exec e.1 s = .next (s.wrote d (value (s.load (s.ownKey o) n)))) ∧
    (∀ t, s.Named x n t → t ≠ c → ∃ u, waits u [] ∧
      u.agenda = s.agenda ++ [.portRequest t (s.request x (x.toNat % 2 ^ 19) 0 (.read n (fullMask n)))]) ∧
    (s.Leased x n .read →
      let at_ := x.toNat % 128
      let line := x.toNat % 2 ^ 57 / 128
      let asked (t : State) : Prop := (∃ f fr, (t.core c).frame? line = some (f, fr) ∧ fr.filling = true) ∧
        ∃ q, t.agenda = s.agenda ++ [.sliceAccess (s.homeSlice part line) q] ∧ q.core = c ∧ q.part = part ∧ q.addr = line * 128 ∧
          q.access = .fill
      (∀ f fr, (s.core c).frame? line = some (f, fr) →
        ((∀ i, i < n → fr.present.getLsbD (at_ + i) = true) →
          exec e.1 s = .next ((s.modCore c fun k => k.touch f).wrote d (value (lineBytes fr.data at_ n)))) ∧
        ((∃ i, i < n ∧ fr.present.getLsbD (at_ + i) = false) → ∃ t, waits t [(x, 0)] ∧
          (fr.filling = true → t.agenda = s.agenda) ∧ (fr.filling = false → asked t))) ∧
      ((s.core c).frame? line = none → s.HasFrame line → ∃ t, waits t [(x, 0)] ∧ asked t))

/-- R87, R170, R171. Stores to the core's own scratchpad, or to it under its name (R63), write the low bytes of d at base plus
scaled offset or index, raise the line's serial and complete; every other byte of memory is as before.
R54, R63, R81. A store to a virtual address writes its bytes into the line's frame, or into an empty one of the line's set, where
they become dirty and present, and completes, with nothing sent. A store to another core's scratchpad is posted: the
acknowledgement counter rises by one, the request goes to that core's port, and the store completes; at 64 it waits. That a refusal
not yet taken holds its place in the counter is the model's choice (log 25). -/
def Obligations.OwnStores : Prop :=
  ∀ s : State, s.Free → Memory.wf s.mem = true → ∀ (d a b : Reg) (la : La) (imm : BitVec 11) (w : BitVec 2),
    let off (n : Nat) : Word := s.me.greg a + imm.signExtend 64 * BitVec.ofNat 64 n
    let c := s.cur.1
    ∀ e ∈ ([(.stW8 d a la imm, off 1, 1), (.stW16 d a la imm, off 2, 2), (.stW32 d a la imm, off 4, 4),
      (.stW64 d a la imm, off 8, 8), (.stx w d a b la, s.me.greg a + s.me.greg b * BitVec.ofNat 64 (2 ^ w.toNat), 2 ^ w.toNat)]
        : List (Instr × Word × Nat)),
    let x := e.2.1
    let n := e.2.2
    let v : Nat := (s.me.greg d).toNat % 2 ^ (8 * n)
    let stored (o : Word) : Prop := exec e.1 s = .next ((s.put o n v).2.retire .on) ∧ s.Stored ((s.put o n v).2.retire .on) (s.ownKey o) n v
    (s.Own x n → stored x) ∧
    (let o : Word := BitVec.ofNat 64 (x.toNat % 2 ^ 19)
     s.Named x n c → s.Own o n → stored o) ∧
    (∀ t, s.Named x n t → t ≠ c →
      (s.me.acks + s.me.refusals.length < 64 → exec e.1 s = .next (((s.modMe fun t => { t with acks := t.acks + 1 }).post
        (.portRequest t (s.request x (x.toNat % 2 ^ 19) 0 (.write n (fullMask n) v)))).retire .on)) ∧
      (64 ≤ s.me.acks + s.me.refusals.length → exec e.1 s = .next (s.wait .counter))) ∧
    (s.Leased x n .write →
      let line := x.toNat % 2 ^ 57 / 128
      let kept (old : L1Frame) : Prop := ∃ t f fr, exec e.1 s = .next t ∧ t.me = (s.retire .on).me ∧ t.mem = s.mem ∧
        t.agenda = s.agenda ∧ (t.core c).frame? line = some (f, fr) ∧ old.Stored fr (x.toNat % 128) n v
      (∀ f fr, (s.core c).frame? line = some (f, fr) → kept fr) ∧
      ((s.core c).frame? line = none → s.HasFrame line → kept (emptyFrame line)))

/-- R86, R87, R172, R173, R174. Acknowledged accesses and atomics at the core's own scratchpad: what is stored, what d
receives, and the serial, which `st.ack` returns in d and the others leave in LASTSEQ.
R55, R63, R80. One at another core's scratchpad waits, its request at that core's port. One at a virtual address waits, its request at
the line's home slice; the L1 first lets the line go, its dirty bytes written back before the request. -/
def Obligations.AcknowledgedAtHome : Prop :=
  ∀ s : State, s.Free → Memory.wf s.mem = true → ∀ (d a b : Reg) (la : La) (w : BitVec 2) (aw : AWidth) (sg : Bool),
    let x := s.me.greg a
    let y (n : Nat) : Nat := (s.me.greg b).toNat % 2 ^ (8 * n)
    (let n := 2 ^ w.toNat
     s.Own x n →
       let p := s.put x n (y n)
       exec (.stAck w d a b la) s = .next (p.2.wrote d (p.1.zeroExtend 64)) ∧
       s.Stored (p.2.wrote d (p.1.zeroExtend 64)) (s.ownKey x) n (y n)) ∧
    (let n := 2 ^ w.toNat
     let z := x + s.me.greg b
     s.Own z n →
       let r := s.serial (s.ownKey z / 128)
       exec (.ldAck w d a b la) s =
         .next ((r.2.modMe fun t => { t with lastseq := r.1 }).wrote d (BitVec.ofNat 64 (s.load (s.ownKey z) n)))) ∧
    (let n := atomBytes aw
     let m := 2 ^ (8 * n)
     let old := s.load (s.ownKey x) n
     let cmp := (s.me.greg d).toNat % m
     let si (v : Nat) : Int := (BitVec.ofNat (8 * n) v).toInt
     let less : Bool := if sg then si old < si (y n) else old < y n
     let u (v : Nat) : Word := BitVec.ofNat 64 v
     let sv (v : Nat) : Word := if sg then BitVec.ofInt 64 (si v) else u v
     s.Own x n → ∀ e ∈ ([(.aswap aw d a b la, y n, u old), (.acas aw d a b la, if old = cmp then y n else old, u old),
       (.aadd aw d a b la, (old + y n) % m, u old), (.aand aw d a b la, old &&& y n, u old), (.aor aw d a b la, old ||| y n, u old),
       (.axor aw d a b la, old ^^^ y n, u old), (.amin sg aw d a b la, if less then old else y n, sv old),
       (.amax sg aw d a b la, if less then y n else old, sv old)] : List (Instr × Nat × Word)),
       let p := s.put x n e.2.1
       let t := (p.2.modMe fun t => { t with lastseq := p.1 }).wrote d e.2.2
       exec e.1 s = .next t ∧ s.Stored t (s.ownKey x) n e.2.1) ∧
    (let c := s.cur.1
     let n := atomBytes aw
     let v := s.me.greg b
     let rmw (op : AtomOp) (sg : Bool) (cmp : Word) : Access := .rmw op sg n v cmp
     let old (sg : Bool) : Dest := .scalar d n sg true
     let both : List Right := [.read, .write]
     ∀ e ∈ ([(.stAck w d a b la, x, 2 ^ w.toNat, .writeAck (2 ^ w.toNat) (y (2 ^ w.toNat)), .serial d, [.write]),
       (.ldAck w d a b la, x + v, 2 ^ w.toNat, .readAck (2 ^ w.toNat), .scalar d (2 ^ w.toNat) false true, [.read]),
       (.aswap aw d a b la, x, n, rmw .swap false 0, old false, both), (.acas aw d a b la, x, n, rmw .cas false (s.me.greg d), old false, both),
       (.aadd aw d a b la, x, n, rmw .add false 0, old false, both), (.aand aw d a b la, x, n, rmw .and false 0, old false, both),
       (.aor aw d a b la, x, n, rmw .or false 0, old false, both), (.axor aw d a b la, x, n, rmw .xor false 0, old false, both),
       (.amin sg aw d a b la, x, n, rmw .min sg 0, old sg, both), (.amax sg aw d a b la, x, n, rmw .max sg 0, old sg, both)]
         : List (Instr × Word × Nat × Access × Dest × List Right)),
     let z := e.2.1
     let m := e.2.2.1
     let line := z.toNat % 2 ^ 57 / 128
     let waits (t : State) (first : List Event) (ev : Event) : Prop := exec e.1 s = .next t ∧
       s.WaitsIn t (.access e.2.2.2.2.1 m [] 1 []) ∧ t.agenda = s.agenda ++ first ++ [ev]
     let asked : Event := .sliceAccess (s.homeSlice (s.partOf c) line) (s.request z (z.toNat % 2 ^ 57) 0 e.2.2.2.1)
     (∀ t, s.Named z m t → t ≠ c → ∃ u, waits u [] (.portRequest t (s.request z (z.toNat % 2 ^ 19) 0 e.2.2.2.1))) ∧
     ((∀ r ∈ e.2.2.2.2.2, s.Leased z m r) →
       ((s.core c).frame? line = none → ∃ t, waits t [] asked) ∧
       (∀ f fr, (s.core c).l1 = [(f, fr)] → fr.line = line → fr.sent = 0 →
         ∃ t l, waits t l asked ∧ (∀ g ∈ (t.core c).l1, g.2.present = 0) ∧
           if fr.dirty = 0 then l = []
           else ∃ q, l = [.sliceAccess (s.homeSlice (s.partOf c) line) q] ∧ q.access = .writeback fr.dirty fr.data)))

/-- R195, R196. Vector accesses to the core's own scratchpad: loads fill the active bytes or lanes, stores write the active
bytes or lanes alone, and of two active lanes of a scatter at one place the later stands. -/
def Obligations.VectorMemory : Prop :=
  ∀ s : State, s.Free → Memory.wf s.mem = true → ∀ (d a b : Reg) (la : La) (p : Pred),
    let at64 := s.me.greg a + s.me.greg b
    let lane (n i : Nat) : Word := s.me.greg a + BitVec.ofInt 64 (vlaneInt (s.rv b) n true i * n)
    let on (n i : Nat) : Bool := decide (i < 64 / n) && active (s.rp p) n i
    let stored (t : State) : Prop := t = { s.retire .on with mem := t.mem, serials := t.serials, fresh := t.fresh }
    (s.Own at64 64 →
      (∀ e ∈ ([(.vld d a b la p, false), (.vldZ d a b la p, true)] : List (Instr × Bool)),
        LaneResult s (exec e.1 s) d 1 (s.rp p) e.2 (fun i => (s.byte (s.ownKey at64 + i)).toNat) 0) ∧
      ∃ t, exec (.vst d a b la p) s = .next t ∧ stored t ∧
        (∀ i, i < 64 → (t.byte (s.ownKey at64 + i)).toNat =
          if (s.rp p).getLsbD i then vlane (s.rv d) 1 i else (s.byte (s.ownKey at64 + i)).toNat) ∧
        ∀ k, k < s.ownKey at64 ∨ s.ownKey at64 + 64 ≤ k → t.byte k = s.byte k) ∧
    (s.Own at64 4 →
      LaneResult s (exec (.vlbc d a b la p) s) d 4 (s.rp p) false (fun _ => s.load (s.ownKey at64) 4) 0) ∧
    (∀ e ∈ ([(.vgathW32 d a b la p, .vscatW32 d a b la p, 4), (.vgathW16 d a b la p, .vscatW16 d a b la p, 2)]
        : List (Instr × Instr × Nat)),
      let n := e.2.2
      (∀ i, on n i = true → s.Own (lane n i) n) →
        LaneResult s (exec e.1 s) d n (s.rp p) false (fun i => s.load (s.ownKey (lane n i)) n) 0 ∧
        ∃ t, exec e.2.1 s = .next t ∧ stored t ∧
          (∀ i, on n i = true → (∀ j, i < j → on n j = true → lane n j ≠ lane n i) →
            t.load (s.ownKey (lane n i)) n = vlane (s.rv d) n i) ∧
          ∀ k, (∀ i, on n i = true → k < s.ownKey (lane n i) ∨ s.ownKey (lane n i) + n ≤ k) → t.byte k = s.byte k)

/-- R50, R54, R64, R169 to R171, R195, R196. Whatever their addresses and however they end, loads change no byte of memory;
and stores by a strand outside machine mode change at most the bytes of the own scratchpad that the address reaches. -/
def Obligations.MemoryFrame : Prop :=
  ∀ (s t : State), Memory.wf s.mem = true → ∀ (d a b : Reg) (la : La) (imm : BitVec 11) (p : Pred) (ty : LdTy) (w : BitVec 2),
    (∀ i ∈ ([.ldI8 d a la imm, .ldW8 d a la imm, .ldI16 d a la imm, .ldW16 d a la imm, .ldI32 d a la imm, .ldW32 d a la imm,
      .ldI64 d a la imm, .ldx ty d a b la, .vld d a b la p, .vldZ d a b la p, .vlbc d a b la p, .vgathW32 d a b la p,
      .vgathW16 d a b la p] : List Instr), exec i s = .next t → t.mem = s.mem) ∧
    (s.me.mode ≠ 3 → ∀ e ∈ ([(.stW8 d a la imm, s.offset a imm 1, 1), (.stW16 d a la imm, s.offset a imm 2, 2),
      (.stW32 d a la imm, s.offset a imm 4, 4), (.stW64 d a la imm, s.offset a imm 8, 8),
      (.stx w d a b la, s.indexed a b (2 ^ w.toNat), 2 ^ w.toNat), (.vst d a b la p, s.read a + s.read b, 64)]
        : List (Instr × Word × Nat)), exec e.1 s = .next t →
      ∀ k, (∀ off, s.target s.cur.1 s.me.mode e.2.1 e.2.2 .write = .ok (.own off) →
        k < padKey s.cur.1 off ∨ padKey s.cur.1 off + e.2.2 ≤ k) → t.byte k = s.byte k)

/-- R50, R51, R272, R310. A scalar load or store, an acknowledged access, an atomic or a vector access whose address fails a check of
R50 traps exactly at itself with the cause of the first check that fails: TPC is the instruction and TVAL the address. A
virtual address outside the lease, for one of the rights the access needs, ends the task. A gather or scatter traps with the
cause and address of its lowest lane that fails, where the lanes below it are accesses to the own scratchpad that may be made. -/
def Obligations.AccessTraps : Prop :=
  ∀ s : State, s.Free → s.me.tin = false → ∀ (d a b : Reg) (la : La) (imm : BitVec 11) (p : Pred) (ty : LdTy) (w : BitVec 2)
      (aw : AWidth) (sg : Bool),
    let k := s.core s.cur.1
    let fails (i : Instr) (x : Word) (n : Nat) (rights : List Right) : Prop :=
      let sel := x.toNat / 2 ^ 60
      let off := x.toNat % 2 ^ 19
      let trapped (code : Nat) : Prop := ∃ t, exec i s = .next t ∧ s.Trapped t code s.me.pc x
      let beyond (bits : Nat) : Prop := 2 ^ 19 ≤ x.toNat % 2 ^ bits
      let selector : Prop := 4 ≤ sel ∧ sel < 8
      let zeroes : Prop := (sel = 0 ∧ beyond 60) ∨ (sel = 1 ∧ beyond 54) ∨ (sel = 2 ∧ beyond 46) ∨
        (sel = 3 ∧ 2 ^ 43 ≤ x.toNat % 2 ^ 60) ∨ (8 ≤ sel ∧ x.toNat / 2 ^ 57 ≠ 64)
      let ring (r : Ring) : Prop := k.ring? (x.toNat / 2 ^ 58 % 4) = some r
      let held (c : Nat) : Prop := ∃ r, s.runOf s.cur.1 = some r ∧ s.named? r.part (x.toNat / 2 ^ 46 % 2 ^ 14) = some c ∧
        s.inRegion r c = true
      (selector → trapped 0x04) ∧
      (sel = 3 → s.me.mode ≠ 3 → trapped 0x02) ∧
      (zeroes → (sel = 3 → s.me.mode = 3) → trapped 0x04) ∧
      (¬ selector → ¬ zeroes → (sel = 3 → s.me.mode = 3) →
        (x.toNat % n ≠ 0 → trapped 0x03) ∧
        (x.toNat % n = 0 →
          (sel = 0 → k.scr ≤ off → trapped 0x04) ∧
          (sel = 1 → (∀ r, ring r → r.cfg.days ≤ x.toNat / 2 ^ 54 % 8 ∨ r.cfg.daySize ≤ off) → trapped 0x04) ∧
          (sel = 2 → (∀ c, ¬ held c) → trapped 0x05) ∧
          (∀ c, sel = 2 → held c → k.scr ≤ off → trapped 0x04) ∧
          (8 ≤ sel → (∃ w ∈ rights, ∀ r, s.runOf s.cur.1 = some r → pageLeased r.lease (x.toNat % 2 ^ 57) w = false) →
            ∃ t, exec i s = .next t ∧ t.me.life = .faulted ∧ t.me.tcause = 0x06 ∧ t.me.tpc = s.me.pc ∧ t.me.tval = x ∧
              t.me.pc = s.me.pc ∧ t.me.g = s.me.g ∧ t.mem = s.mem)))
    let x := s.me.greg a
    let off (n : Nat) : Word := x + imm.signExtend 64 * BitVec.ofNat 64 n
    let idx (n : Nat) : Word := x + s.me.greg b * BitVec.ofNat 64 n
    let sum : Word := x + s.me.greg b
    let both : List Right := [.read, .write]
    (∀ e ∈ ([(.ldI8 d a la imm, off 1, 1, [.read]), (.ldW8 d a la imm, off 1, 1, [.read]), (.ldI16 d a la imm, off 2, 2, [.read]),
      (.ldW16 d a la imm, off 2, 2, [.read]), (.ldI32 d a la imm, off 4, 4, [.read]), (.ldW32 d a la imm, off 4, 4, [.read]),
      (.ldI64 d a la imm, off 8, 8, [.read]), (.ldx ty d a b la, idx (ldBytes ty), ldBytes ty, [.read]),
      (.stW8 d a la imm, off 1, 1, [.write]), (.stW16 d a la imm, off 2, 2, [.write]), (.stW32 d a la imm, off 4, 4, [.write]),
      (.stW64 d a la imm, off 8, 8, [.write]), (.stx w d a b la, idx (2 ^ w.toNat), 2 ^ w.toNat, [.write]),
      (.stAck w d a b la, x, 2 ^ w.toNat, [.write]), (.ldAck w d a b la, sum, 2 ^ w.toNat, [.read]),
      (.aswap aw d a b la, x, atomBytes aw, both), (.acas aw d a b la, x, atomBytes aw, both), (.aadd aw d a b la, x, atomBytes aw, both),
      (.aand aw d a b la, x, atomBytes aw, both), (.aor aw d a b la, x, atomBytes aw, both), (.axor aw d a b la, x, atomBytes aw, both),
      (.amin sg aw d a b la, x, atomBytes aw, both), (.amax sg aw d a b la, x, atomBytes aw, both),
      (.vld d a b la p, sum, 64, [.read]), (.vldZ d a b la p, sum, 64, [.read]), (.vst d a b la p, sum, 64, [.write]),
      (.vlbc d a b la p, sum, 4, [.read])] : List (Instr × Word × Nat × List Right)),
      fails e.1 e.2.1 e.2.2.1 e.2.2.2) ∧
    (∀ e ∈ ([(.vgathW32 d a b la p, 4, .read), (.vgathW16 d a b la p, 2, .read), (.vscatW32 d a b la p, 4, .write),
      (.vscatW16 d a b la p, 2, .write)] : List (Instr × Nat × Right)),
      let n := e.2.1
      let lane (i : Nat) : Word := x + BitVec.ofInt 64 (vlaneInt (s.rv b) n true i * n)
      ∀ i, i < 64 / n → active (s.rp p) n i = true → (∀ j, j < i → active (s.rp p) n j = true → s.Own (lane j) n) →
        fails e.1 (lane i) n [e.2.2])

/-! ### Waits, groups and the deque -/

/-- R83, R84, R85, R175, R296. Fences: with nothing unacknowledged and the L1 written back they complete at once, an acquire of
cluster scope or wider leaving only dirty bytes present and the instruction cache empty, one of package scope also the
reticle's invalidation log applied and no clean copy of a second-tier or host line in the partition's slices. With stores
unacknowledged they wait, and a package release waits for the dirty lines of the second tier.
R295. Outside user mode, `ptsync` completes when every invalidation log of the partition is empty, and `netsync` when its core
has no message outstanding. -/
def Obligations.FencesAndSynchronisation : Prop :=
  (∀ s : State, s.Free → s.me.outst = none → ∀ (sc : Scope) (la : La),
     let c := s.cur.1
     let far : Prop := ∃ p, s.partition? (s.partOf c) = some p ∧ ∃ k ∈ p.slices, ∃ l ∈ (s.slice k).lines, l.far = true ∧ l.dirty ≠ 0
     let acquired (k : Core) : Core :=
       { k with l1 := k.l1.map fun e => (e.1, { e.2.ignoreFill with present := e.2.dirty }), icache := [] }
     let after (w : Bool) : State := (if w then s.modCore c acquired else s).retire .on
     let wide : Bool := sc = .cluster || sc = .reticle || sc = .partition
     let package (t : State) : Prop := t.me = (s.retire .on).me ∧ (t.core c).l1 = (acquired (s.core c)).l1 ∧ (t.core c).icache = [] ∧
       (t.reticle (siteOf c)).invLog = [] ∧
       ∀ p, s.partition? (s.partOf c) = some p → ∀ k ∈ p.slices, ∀ l ∈ (t.slice k).lines, ¬ (l.far = true ∧ l.dirty = 0)
     (s.Settled → sc ≠ .package ∨ ¬ far → exec (.fenceRel sc la) s = .next (s.retire .on)) ∧
     (s.Settled → far → ∃ t, exec (.fenceRel .package la) s = .next t ∧ t.me.phase? = some (.tier false) ∧ t.me.pc = s.me.pc + 4 ∧
       t.me.g = s.me.g ∧ t.agenda = s.agenda ++ [.secondTierCompletion c s.cur.2]) ∧
     (sc ≠ .package → exec (.fenceAcq sc la) s = .next (after wide)) ∧
     (∃ t, exec (.fenceAcq .package la) s = .next t ∧ package t) ∧
     (s.Settled → (sc ≠ .package → exec (.fenceFull sc la) s = .next (after wide)) ∧
       (¬ far → ∃ t, exec (.fenceFull .package la) s = .next t ∧ package t)) ∧
     (s.me.acks = 0 → exec (.fenceAck la) s = .next (s.retire .on)) ∧
     (s.me.acks ≠ 0 → (∃ t, exec (.fenceAck la) s = .next t ∧ s.WaitsIn t .fenceAck) ∧
       (sc ≠ .strand → (∃ t, exec (.fenceRel sc la) s = .next t ∧ s.WaitsIn t (.fence true false sc)) ∧
         ∃ t, exec (.fenceFull sc la) s = .next t ∧ s.WaitsIn t (.fence true true sc))) ∧
     (s.Settled → exec .l1wb s = .next (s.retire .on)) ∧
     exec .l1inv s = .next (after true)) ∧
  (∀ s : State, s.Free → s.me.outst = none → 1 ≤ s.me.mode →
     ((∀ x ∈ s.sitesOf s.cur.1, (s.reticle x).invLog = []) → exec .ptsync s = .next (s.retire .on)) ∧
     (s.farEnds s.cur.1 = [] → (∀ n, (s.strand s.cur.1 n).acks = 0) → exec .netsync s = .next (s.retire .on)))

/-- R62, R114, R184, R185, R186. Day barriers, vigils and queue counts. A day barrier completes, and its pointer advances, when
every member of its side has arrived and the ring has room or holds a day; a vigil whose condition holds returns the cycles it
waited, here 0; otherwise both wait. -/
def Obligations.RingsAndVigils : Prop :=
  ∀ s : State, s.Free → s.me.outst = none → ∀ (i : BitVec 5) (d : Reg) (q x : BitVec 5) (la : La) (r : Ring),
    let k := s.core s.cur.1
    let bit : BitVec 16 := BitVec.ofNat 16 (2 ^ (s.cur.2 % 16))
    let whole := r.cfg.days * 2 ^ 28
    let held := (r.fill + whole - r.drain) % whole
    let ring (t : State) : Option Ring := (t.core s.cur.1).ring? i.toNat
    let n := (k.queue q.toNat).entries.length
    exec (.qcount d q la) s = .next (s.wrote d (BitVec.ofNat 64 n)) ∧
    (k.ring? i.toNat = some r → r.cfg.prod.getLsbD (s.cur.2 % 16) = true →
      let all := (r.fillArr ||| bit) &&& r.cfg.prod = r.cfg.prod ∧ held < r.cfg.days - 1
      ∃ t, exec (.daybarFill i la) s = .next t ∧ t.mem = s.mem ∧
        (all → t.me = (s.retire .on).me ∧ (ring t).map Ring.fill = some ((r.fill + 1) % whole) ∧ (ring t).map Ring.fillArr = some 0) ∧
        (¬ all → s.WaitsIn t (.daybar i.toNat false) ∧ (ring t).map Ring.fill = some r.fill ∧
          (ring t).map Ring.fillArr = some (r.fillArr ||| bit))) ∧
    (k.ring? i.toNat = some r → r.cfg.cons.getLsbD (s.cur.2 % 16) = true →
      let all := (r.drainArr ||| bit) &&& r.cfg.cons = r.cfg.cons ∧ held ≠ 0
      ∃ t, exec (.daybarDrain i la) s = .next t ∧ t.mem = s.mem ∧
        (all → t.me = (s.retire .on).me ∧ (ring t).map Ring.drain = some ((r.drain + 1) % whole) ∧ (ring t).map Ring.drainArr = some 0) ∧
        (¬ all → s.WaitsIn t (.daybar i.toNat true) ∧ (ring t).map Ring.drain = some r.drain ∧
          (ring t).map Ring.drainArr = some (r.drainArr ||| bit))) ∧
    (∀ e ∈ ([(.vigilQne d q x la, 0, decide (n ≠ 0)), (.vigilQnf d q x la, 1, decide (n < 16))] : List (Instr × Nat × Bool)),
      (e.2.2 = true → exec e.1 s = .next (s.wrote d 0)) ∧
      (e.2.2 = false → ∃ t, exec e.1 s = .next t ∧ s.WaitsIn t (.vigil e.2.1 d q.toNat x.toNat))) ∧
    (k.ring? q.toNat = some r →
      ∀ e ∈ ([(.vigilReady d q x la, 2, decide (held ≠ 0)), (.vigilRoom d q x la, 3, decide (held < r.cfg.days - 1))]
        : List (Instr × Nat × Bool)),
      (e.2.2 = true → exec e.1 s = .next (s.wrote d 0)) ∧
      (e.2.2 = false → ∃ t, exec e.1 s = .next t ∧ s.WaitsIn t (.vigil e.2.1 d q.toNat x.toNat)))

/-- R116, R180, R181, R182, R183. Group operations of a member whose earlier writes are performed: the core's first arrival or
contribution of an episode leaves for the root, a later strand joins it and sends nothing, a broadcast value leaves for the
root, and the strand waits for the answer; a received broadcast is popped, its credit returned, and the value written after an
acquire. A core outside the group takes NO_SUCH_CORE, with TVAL the group number. -/
def Obligations.Groups : Prop :=
  ∀ s : State, s.Free → ∀ (d a b : Reg) (la : La),
    let i := (s.me.greg a).toNat % 256
    let v := s.me.greg b
    let c := s.cur.1
    let n := s.cur.2
    (s.Settled → ∀ g : Group, s.groupOf c i = some g →
      let r := g.ref
      let now := (s.core c).ticks
      let joins (red : Bool) : Prop := ∃ x, (s.core c).arrival? r.idx red = some x ∧ (x.sent = true ∨ x.arriver ≠ .strand s.cn)
      ((s.core c).arrival? r.idx false = none → ∃ t, exec (.bar a la) s = .next t ∧ s.WaitsIn t (.barrier r true) ∧
        t.agenda = s.agenda ++ [.barrierArrival r c c] ∧ (t.core c).arrivalSent r.idx false = true) ∧
      (joins false → ∃ t, exec (.bar a la) s = .next t ∧ s.WaitsIn t (.barrier r true) ∧ t.agenda = s.agenda) ∧
      (∃ t, exec (.bcastSend a b la) s = .next t ∧ s.WaitsIn t (.bcastSend r v true (some now)) ∧
        t.agenda = s.agenda ++ [.broadcastAccept r c n v]) ∧
      (lookupD [] r.idx (s.core c).bcast = [] →
        ∃ t, exec (.bcastRecv d a la) s = .next t ∧ s.WaitsIn t (.bcastRecv r d (some now) none) ∧ t.agenda = s.agenda) ∧
      (∀ seq x rest, lookupD [] r.idx (s.core c).bcast = (seq, x) :: rest →
        ∃ t, exec (.bcastRecv d a la) s = .next t ∧ t.me = (s.wrote d x).me ∧
          lookupD [] r.idx (t.core c).bcast = rest ∧ t.agenda = s.agenda ++ [.broadcastCreditReturn r c seq c] ∧
          (t.core c).icache = [] ∧ t.mem = s.mem) ∧
      (∀ e ∈ ([(.redAdd d a b la, .add), (.redMinI64 d a b la, .minI), (.redMinW64 d a b la, .minW), (.redMaxI64 d a b la, .maxI),
          (.redMaxW64 d a b la, .maxW)] : List (Instr × RedOp)),
        ((s.core c).arrival? r.idx true = none → ∃ t, exec e.1 s = .next t ∧ s.WaitsIn t (.reduce r d e.2 v true) ∧
          t.agenda = s.agenda ++ [.reductionContribution r c s.cn e.2 v c] ∧ (t.core c).arrivalSent r.idx true = true) ∧
        (joins true → ∃ t, exec e.1 s = .next t ∧ s.WaitsIn t (.reduce r d e.2 v true) ∧ t.agenda = s.agenda))) ∧
    (s.me.tin = false → s.groupOf c i = none →
      ∀ j ∈ ([.bar a la, .bcastSend a b la, .bcastRecv d a la, .redAdd d a b la, .redMinI64 d a b la, .redMinW64 d a b la,
        .redMaxI64 d a b la, .redMaxW64 d a b la] : List Instr),
      ∃ t, exec j s = .next t ∧ s.Trapped t 0x05 s.me.pc (BitVec.ofNat 64 i))

/-- R18, R107, R109, R187, R188, R189, R190. The deque: `spawn` pushes the frame at the near end with the strand's shadow format
registers; `take` pops it and enters it, or asks a victim; `join` decrements its counter and goes on only if it was the last;
`yield` completes while a frame waits. -/
def Obligations.Deque : Prop :=
  ∀ s : State, s.Free → s.me.outst = none → ∀ (d a : Reg) (la : La),
    let c := s.cur.1
    let q := (s.core c).deque
    let x := s.me.greg a
    let key := s.ownKey x
    (s.Own x 64 → x.toNat / 2 ^ 60 = 0 → s.load key 8 % 4 = 0 → q.hw.length < 32 →
        q.hw.length + q.overN + q.reserved < 32 + q.slots →
      ∃ f : Frame, exec (.spawn a la) s = .next ((s.modDeque c fun q => { q with hw := f :: q.hw }).retire .on) ∧
        f.entry = BitVec.ofNat 64 (s.load key 8) ∧
        (∀ i, i < 6 → f.args.toList.getD i 0 = BitVec.ofNat 64 (s.load (key + 8 + 8 * i) 8)) ∧
        (f.fmta, f.fmtb, f.scla, f.sclb) = (s.me.fmta, s.me.fmtb, s.me.scla, s.me.sclb)) ∧
    (∀ f rest, q.hw = f :: rest → (rest ≠ [] ∨ q.overN = 0) →
      ∃ t, exec (.take d la) s = .next t ∧ t.me.pc = f.entry ∧ (t.core c).deque.hw = rest ∧
        (∀ i, i < 6 → BitVec.ofNat 5 (4 + i) ≠ d → t.me.greg (BitVec.ofNat 5 (4 + i)) = f.args.toList.getD i 0) ∧
        t.me.greg d = (if d = 0 then 0 else s.me.pc + 4) ∧
        (t.me.fmta, t.me.fmtb, t.me.scla, t.me.sclb) = (f.fmta, f.fmtb, f.scla, f.sclb) ∧
        (∀ r : Reg, r ≠ d → r.toNat < 4 ∨ 9 < r.toNat → t.me.greg r = s.me.greg r) ∧ t.mem = s.mem) ∧
    (q.hw = [] → ∀ v p, s.victim c [] = (some v, p) →
      ∃ t, exec (.take d la) s = .next t ∧ s.WaitsIn t (.take d [v] 0 none) ∧ t.agenda = s.agenda ++ [.theftRequest v c s.cn]) ∧
    (Memory.wf s.mem = true → s.Settled → s.NoLoop → s.Own x 8 →
      let old := s.load key 8
      ∃ t, exec (.join a la) s = .next t ∧ s.Stored t key 8 ((old + (2 ^ 64 - 1)) % 2 ^ 64) ∧
        t.me.pc = (if old = 1 then s.me.pc + 4 else s.me.pc + 8) ∧ t.me.outst = none ∧
        (∀ r, t.me.greg r = s.me.greg r)) ∧
    (0 < q.hw.length + q.overN → exec (.yield la) s = .next (s.retire .on)) ∧
    (q.hw.length + q.overN = 0 → ∃ t, exec (.yield la) s = .next t ∧ s.WaitsIn t .yield)

/-! ### Long accumulators and the almanac -/

/-- R44, R45, R260 to R262. Long accumulators in the own scratchpad, the core's unit being free: `laz` clears the 88 bytes, `laadd`
and `laaddp` add a finite binary32 value or product exactly, in units of 2^-320 modulo 2^640, with overflow sticking in the
status, and a NaN or an infinity as its bit of the status alone; each is outstanding while the unit writes its words, within 15 cc, `laz` all in the same cc by the model's choice
(log 44), and leaves this once they are written. `larnd` rounds the value once and completes.
R58, R59, R176, R178. Almanac lookups of a virtual address return the entry's index, with bit 62 set while it fills, or with
bit 63 set the lowest free entry or 0x7FF; evictions of a filled entry make it invalid. -/
def Obligations.LongAccumulatorsAndAlmanac : Prop :=
  (∀ s : State, s.Free → Memory.wf s.mem = true → ∀ (d a b : Reg) (la : La),
     let x := s.me.greg a
     let key := s.ownKey x
     let acc (t : State) : Int := t.load key 80
     let signed (v : Int) : Int := if 2 ^ 639 ≤ v then v - 2 ^ 640 else v
     let st := s.load (key + 80) 8
     let low (r : Reg) : Nat := (s.me.greg r).toNat % 2 ^ 32
     let started (i : Instr) (result : State → Prop) : Prop :=
       let now := (s.core s.cur.1).ticks
       ∃ t ws, exec i s = .next t ∧ s.WaitsIn t (.adding ws) ∧ (∀ w ∈ ws, now + 5 ≤ w.1 ∧ w.1 ≤ now + 15) ∧
         let u := t.accStep s.cur.1 s.cur.2 true
         u.me.phase? = some (.done none) ∧ u.me.g = s.me.g ∧ (∀ k, k < key ∨ key + 88 ≤ k → u.byte k = s.byte k) ∧ result u
     let added (i : Instr) (neg : Bool) (m : Nat) (e : Int) : Prop :=
       let d : Int := (if neg then -1 else 1) * (m * 2 ^ (e + 320).toNat)
       let sum := signed (acc s) + d
       let out : Bool := decide (sum < -2 ^ 639) || decide (2 ^ 639 ≤ sum)
       started i fun t => acc t = sum % 2 ^ 640 ∧ t.load (key + 80) 8 % 16 = (if out then st % 16 ||| 8 else st % 16)
     let special (i : Instr) (bit : Nat) : Prop :=
       started i fun t => acc t = acc s ∧ t.load (key + 80) 8 % 16 = (BitVec.ofNat 4 st ||| BitVec.ofNat 4 bit).toNat
     let rounded (f : Flt) : Nat :=
       if st % 2 = 1 ∨ (st / 2 % 2 = 1 ∧ st / 4 % 2 = 1) ∨ st / 8 % 2 = 1 then f.canonNan
       else if st / 2 % 2 = 1 then f.infBits false
       else if st / 4 % 2 = 1 then f.infBits true
       else (f.round s.me.rm.plain (.fin (decide (signed (acc s) < 0)) (signed (acc s)).natAbs (-320))).1
     x.toNat % 8 = 0 → x.toNat + 88 ≤ (s.core s.cur.1).scr → (∀ i, i < 11 → s.Own (x + BitVec.ofNat 64 (8 * i)) 8) →
       (s.core s.cur.1).accBusy = false →
       (started (.laz a la) fun t => acc t = 0 ∧ t.load (key + 80) 8 = 0) ∧
       (∀ neg m e, binary32.value (low b) = .fin neg m e → -320 ≤ e → added (.laadd a b la) neg m e) ∧
       (∀ neg m e, ((binary32.value (low b)).mul (binary32.value (low d))).1 = .fin neg m e → -320 ≤ e →
         added (.laaddp a b d la) neg m e) ∧
       (binary32.value (low b) = .nan → special (.laadd a b la) 1) ∧
       (∀ neg, binary32.value (low b) = .inf neg → special (.laadd a b la) (if neg then 4 else 2)) ∧
       (((binary32.value (low b)).mul (binary32.value (low d))).1 = .nan → special (.laaddp a b d la) 1) ∧
       (∀ neg, ((binary32.value (low b)).mul (binary32.value (low d))).1 = .inf neg →
         special (.laaddp a b d la) (if neg then 4 else 2)) ∧
       exec (.larndF32 d a la) s = .next (s.wrote d (BitVec.ofNat 64 (rounded binary32))) ∧
       exec (.larndF64 d a la) s = .next (s.wrote d (BitVec.ofNat 64 (rounded binary64)))) ∧
  (∀ s : State, s.Free → ∀ (d a : Reg) (la : La),
     let k := s.core s.cur.1
     let x := s.me.greg a
     let tag := x.toNat % 2 ^ 57 / 2 ^ k.almS
     let found (v : Nat) : Prop := exec (.alook d a la) s = .next (s.wrote d (BitVec.ofNat 64 v))
     (k.almN ≠ 0 → x.toNat / 2 ^ 57 = 64 →
       (∀ i e, k.almanac.find? (fun e => e.2.tag == tag) = some (i, e) → e.filling = none → found i) ∧
       (∀ i e n, k.almanac.find? (fun e => e.2.tag == tag) = some (i, e) → e.filling = some n → found (2 ^ 62 + i)) ∧
       ((∀ e ∈ k.almanac, e.2.tag ≠ tag) →
         (∀ i, i < k.almN → (∀ e ∈ k.almanac, e.1 ≠ i) → (∀ j, j < i → ∃ e ∈ k.almanac, e.1 = j) → found (2 ^ 63 + i)) ∧
         ((∀ j, j < k.almN → ∃ e ∈ k.almanac, e.1 = j) → found (2 ^ 63 + 0x7FF)))) ∧
     (x.toNat < k.almN → s.me.stall = none →
       (∀ e, k.almanac.find? (fun e => e.1 == x.toNat) = some e → e.2.filling = none →
         exec (.alevict a la) s =
           .next ((s.modCore s.cur.1 fun k => { k with almanac := k.almanac.filter fun e => e.1 != x.toNat }).retire .on)) ∧
       ((∀ e ∈ k.almanac, e.1 ≠ x.toNat) → exec (.alevict a la) s = .next (s.retire .on))))

/-! ### Copies and tiles -/

/-- R246 to R254, R258. A copy whose ranges lie in the core's own scratchpad, with no lock in the way and a place in the
channel, is started at once: its geometry, operand and bound register are recorded, its start follows, and the instruction
completes. `cpycan` ends a copy that has not started with code 0x81; with no copy bound it changes nothing.
R177, R247, R258. `alfill` claims its entry and registers the granule at its slices before it completes; `ewr` writes an
engine register; `cpycan` ends a copy of a waiting phase with code 0x81 and changes nothing where no copy is bound to d. -/
def Obligations.CopiesAndFills : Prop :=
  (∀ s : State, s.Free → ∀ (d a b : Reg) (la : La),
     let c := s.cur.1
     let k := s.core c
     let e (i : Nat) : Word := s.me.ereg (a + BitVec.ofNat 5 i)
     let n := (s.me.greg b).toNat
     let scr := k.scr
     let at_ (p : Event) (i : Instr) (x : Copy) : Prop := ∃ t, exec i s = .next t ∧ (t.core c).copies = k.copies ++ [x] ∧
       t.agenda = s.agenda ++ [p] ∧ t.me = (s.retire .on).me ∧ t.mem = s.mem
     let copy (kd : CopyKind) (m : Nat) (rm : Nat) (p : CopyPhase) (locks : Nat) : Copy :=
       { id := k.nextId, strand := s.cn, reg := d, kind := kd, geo := (List.range m).map e, gb := s.me.greg b, rm, next := 0,
         inFlight := 0, refusedAt := none, phase := p, code := 0, busy := true,
         locks := (List.range locks).map fun i => k.nextId + 1 + i }
     let apart (x y : Span) : Prop := 0 ≤ x.lo ∧ 0 ≤ y.lo ∧ x.hi ≤ scr ∧ y.hi ≤ scr ∧ (x.hi ≤ y.lo ∨ y.hi ≤ x.lo)
     let bytes (x : Word) (m : Nat) : Span := ⟨x.toNat, x.toNat + m⟩
     d ≠ 0 → k.copies.length < 16 → (∀ x ∈ k.copies, x.id ≠ k.nextId) → s.Unlocked → scr ≤ 2 ^ 19 →
     (a.toNat + 2 ≤ 32 → 1 ≤ n → n < 2 ^ 24 → apart (bytes (e 0) n) (bytes (e 1) n) →
       at_ (.copyStart c k.nextId) (.cpy d a b la) (copy .cpy 2 0 .starting 2)) ∧
     (let len := n % 2 ^ 32
      let rows := n / 2 ^ 32
      a.toNat + 4 ≤ 32 → 1 ≤ len → 1 ≤ rows → rows < 2 ^ 16 → rows * len < 2 ^ 24 →
       (1 < rows → len ≤ (e 3).toInt.natAbs) → (e 0).toNat < 2 ^ 19 → (e 1).toNat < 2 ^ 19 →
       apart (rowsSpan (e 0) (e 2).toInt rows len) (rowsSpan (e 1) (e 3).toInt rows len) →
       at_ (.copyStart c k.nextId) (.cpy2 d a b la) (copy .cpy2 4 0 .starting 2)) ∧
     (let g := (List.range 5).map e
      let t := haloTile g
      a.toNat + 5 ≤ 32 → t.ok g = true → 0 ≤ t.span.lo → t.span.lo < scr → t.span.hi ≤ scr → (e 0).toNat < 2 ^ 19 →
       (∃ r, s.groupOf c (n / 2 ^ 8 % 2 ^ 8) = some r) →
       (∃ srcs, s.stripRanges t (strips g (s.me.greg b)) = .ok srcs ∧ overlapAt (t.range c :: srcs) = none) →
       at_ (if (s.me.greg b).getLsbD 16 then .cpyhSourceRegistration c k.nextId else .cpyhArrival c k.nextId) (.cpyh d a b la)
         (copy .cpyh 5 0 (.arriving none) 1)) ∧
     (∀ sf df : Flt, let w := e 2
      let rm := w.toNat / 2 ^ 24 % 8
      a.toNat + 5 ≤ 32 → copyFmts w = some (.bin sf, none, .bin df) → rm ≠ 5 → rm ≠ 6 → w.toNat < 2 ^ 27 → 1 ≤ n → n ≤ 2 ^ 20 →
       (e 0).toNat % (sf.width / 8) = 0 → (e 1).toNat % (df.width / 8) = 0 →
       apart (bytes (e 0) (n * sf.width / 8)) (bytes (e 1) (n * df.width / 8)) →
       at_ (.copyStart c k.nextId) (.cpyf d a b la) (copy .cpyf 5 (if rm = 7 then (s.me.fctl >>> 5).toNat else rm) .starting 2))) ∧
  (∀ s : State, ∀ (d a b : Reg) (la : La),
     let c := s.cur.1
     let k := s.core c
     (s.Free → exec (.ewr d a) s = .next ((s.modMe fun t => t.setEreg d (s.me.greg a)).retire .on)) ∧
     ((∀ x ∈ k.copies, ¬ (x.strand = s.cn ∧ x.reg = d)) → exec (.cpycan d la) s = .next (s.retire .on)) ∧
     (∀ x, k.copies.find? (fun x => x.strand == s.cn && x.reg == d) = some x → k.copies.find? (fun y => y.id == x.id) = some x →
       x.phase = .starting → x.inFlight = 0 → (∀ a ∈ k.arrivals, a.arriver ≠ .copy x.id) →
       ∃ t, exec (.cpycan d la) s = .next t ∧ (t.core c).copy? x.id = some { x with phase := .ending, code := 0x81 } ∧
         t.agenda = s.agenda ++ [.copyStatusWrite c x.id] ∧ t.me = (s.retire .on).me ∧ t.mem = s.mem) ∧
     (s.Free → s.Unlocked → d ≠ 0 → k.copies.length < 16 → k.l1 = [] →
       let i := (s.me.greg a).toNat
       let x := s.me.greg b
       let size := 2 ^ k.almS
       let g : Nat := x.toNat % 2 ^ 57 / size * size
       let hs := s.lockHomes c (.virt (s.partOf c)) g size
       i < k.almN → (∀ e ∈ k.almanac, e.1 ≠ i) → (∀ e ∈ k.almanac, e.2.tag ≠ g / size) → x.toNat / 2 ^ 57 = 64 → k.almS ≤ 16 →
       (∃ r, s.runOf c = some r ∧ ∀ j, j < size → pageLeased r.lease (g + j) .read = true) → hs ≠ [] →
       k.scr ≤ 2 ^ 19 → k.almBase + (i + 1) * size ≤ k.scr →
       ∃ t y, exec (.alfill d a b la) s = .next t ∧ (t.core c).copies = k.copies ++ [y] ∧ y.kind = .alfill i ∧ y.reg = d ∧
         y.strand = s.cn ∧ y.geo = [BitVec.ofNat 64 (2 ^ 63 + g), BitVec.ofNat 64 (k.almBase + i * size)] ∧
         (t.core c).almanac = (i, { tag := g / size, filling := some s.cn }) :: k.almanac ∧
         s.WaitsIn t (.register (hs.map fun h => (y.id + 1, h)) [] 0 none (some y.id)) ∧
         t.agenda = s.agenda ++ (hs.map fun h => .lockRegistration h
           { id := y.id + 1, core := c, strand := s.cn, kind := .copySource, place := .virt (s.partOf c), base := g, len := size,
             rows := ⟨0, 0, 0, 0⟩ })))

/-- R212 to R215, R220, R222 to R228, R236. A tile instruction whose strand is below its quota appends a node in the lowest free
entry, with its operation, sources and parameters, and its EMPTY handle names it; nothing is computed.
R69, R217, R219, R222, R223. A map record in the own scratchpad that passes its checks, and whose bounding range lies in the
own scratchpad, makes a source node with the range locked as a view. -/
def Obligations.TileAppendsAndSources : Prop :=
  (∀ s : State, s.Free → ∀ (m ma mb : Tile) (b g : Reg) (la : La) (i : Nat) (x y : Source) (fx fy : Nat),
     let c := s.cur.1
     let k := s.core c
     let node (kd : NodeKind) (f : Nat) (src : List Source) : Node :=
       { kind := kd, owner := s.cn, age := k.nextAge, pc := s.me.pc, state := .pending, sources := src, map := MapRec.ofNat 0,
         rowMask := 0, colMask := 0, depth := 0, scale := 0, mask := 0, fmt := f, rmat := 0, cmat := 0, bank := none, slot := none,
         lock := none, fault := none, inPlace := false }
     let appended (j : Instr) (v : Node) : Prop := ∃ t, exec j s = .next t ∧ (t.core c).node? i = some v ∧
       (∀ l, l ≠ i → (t.core c).node? l = k.node? l) ∧ (t.core c).nextAge = k.nextAge + 1 ∧
       t.me = ((s.modMe fun t => t.setHandle m (.node i)).retire .on).me ∧ t.mem = s.mem
     let product : Node := { node (.tmma false) 0x11 [x, y] with
       rowMask := (s.me.greg g).truncate 32, colMask := (s.me.greg (g + 1)).truncate 32, depth := s.me.greg (g + 2),
       map := { MapRec.ofNat 0 with fmt := fx } }
     (k.heldNodes s.cn).length < k.quota s.cn → k.freeNode = some i →
     (s.me.handle m = .empty → (s.operandOf ma).plain = some (x, fx) →
       (∀ e ∈ ([(.tscale m ma b la, { node .tscale 0x11 [x] with scale := (s.me.greg b).truncate 32 }),
         (.tactRelu m ma la, node (.tact 0) 0x11 [x]), (.tactGelu m ma la, node (.tact 1) 0x11 [x]),
         (.tactSigm m ma la, node (.tact 2) 0x11 [x]), (.tactTanh m ma la, node (.tact 3) 0x11 [x]),
         (.tactExp m ma la, node (.tact 4) 0x11 [x]), (.tredRowsum m ma la, node (.tred 0) 0x11 [x]),
         (.tredColsum m ma la, node (.tred 1) 0x11 [x]), (.tredRowmax m ma la, node (.tred 2) 0x11 [x]),
         (.tredColmax m ma la, node (.tred 3) 0x11 [x]), (.tmask m ma b la, { node .tmask fx [x] with mask := s.me.greg b })]
           : List (Instr × Node)), appended e.1 e.2) ∧
       (tileCode ((s.me.greg b).toNat % 256) = true → appended (.tcvt m ma b la) (node .tcvt ((s.me.greg b).toNat % 256) [x])) ∧
       ((s.operandOf mb).plain = some (y, fy) →
         appended (.tadd m ma mb la) (node .tadd 0x11 [x, y]) ∧ appended (.tmulw m ma mb la) (node .tmulw 0x11 [x, y]))) ∧
     (s.me.handle m = .empty → (s.operandOf ma).left = some (x, fx) → (s.operandOf mb).right = some (y, fx) → mmaCode fx = true →
       appended (.tmma m ma mb g false la) product) ∧
     (∀ z fz, s.operandOf m = .tile z fz → (s.operandOf ma).left = some (x, fx) → (s.operandOf mb).right = some (y, fx) →
       mmaCode fx = true →
       ∃ t v, exec (.tmma m ma mb g true la) s = .next t ∧ (t.core c).node? i = some v ∧ v.kind = .tmma true ∧
         v.sources = [x, y, z] ∧ v.rowMask = product.rowMask ∧ v.colMask = product.colMask ∧ v.depth = product.depth ∧
         v.state = .pending ∧ v.inPlace = s.chains z ∧
         t.me = ((s.modMe fun t => t.setHandle m (.node i)).retire .on).me ∧ t.mem = s.mem)) ∧
  (∀ s : State, s.Free → ∀ (m : Tile) (a : Reg) (la : La) (i base len : Nat),
     let c := s.cur.1
     let k := s.core c
     let ga := s.me.greg a
     let r := MapRec.ofNat (s.load (s.ownKey ga) 64)
     s.Own ga 64 → (k.heldNodes s.cn).length < k.quota s.cn → k.freeNode = some i → s.me.handle m = .empty →
     ∀ e ∈ ([(.tview m a la, .view, r.viewChecks ga false, r.span), (.twload m a la, .twload, r.weightChecks ga, r.weightSpan)]
       : List (Instr × NodeKind × Option (Cause × Word) × Option Span)),
     ∀ sp, e.2.2.1 = none → e.2.2.2 = some sp → s.rangeCheck c s.me.mode sp .read = .ok (.pad c, base, len) →
       ∃ t v, exec e.1 s = .next t ∧ (t.core c).node? i = some v ∧ v.kind = e.2.1 ∧ v.map = r ∧ v.fmt = r.fmt ∧ v.owner = s.cn ∧
         v.sources = [] ∧ v.state = .pending ∧ v.lock = some k.nextId ∧
         (t.core c).locks = k.locks ++ [{ id := k.nextId, core := c, strand := s.cn, kind := .view, place := .pad c, base, len,
                                          rows := ⟨0, 0, 0, 0⟩ }] ∧
         t.me = ((s.modMe fun t => t.setHandle m (.node i)).retire .on).me ∧ t.mem = s.mem)

/-- R216, R229, R230, R231, R234, R238, R245. Forces of nothing not yet materialised complete, and a force of more starts a demand,
which makes its PENDING nodes DEMANDED and goes on to their operand fetch; a drop empties its handle; a query reads what its
handle names; a store of a VALUE writes the elements of its region through the map record. -/
def Obligations.TileUses : Prop :=
  ∀ s : State, s.Free → ∀ (m : Tile) (a b : Reg) (la : La),
    let c := s.cur.1
    let ga := s.me.greg a
    let sel := ga.toNat % 4
    let query (w : Nat) : Prop := exec (.tquery m a la) s = .next (s.wrote a (BitVec.ofNat 64 w))
    ((∀ i, s.me.handle m ≠ .node i) → exec (.tforce m a la) s = .next (s.retire .on)) ∧
    (∀ i v, s.me.handle m = .node i → (s.core c).node? i = some v → (v.kind = .view ∨ (v.kind = .twload ∧ v.state = .done)) →
      (∀ j w, (j, w) ∈ (s.core c).nodes → j = i → w = v) → exec (.tforce m a la) s = .next (s.retire .on)) ∧
    (∀ i v, s.me.handle m = .node i → (s.core c).node? i = some v → v.kind ≠ .twload →
      ga.toNat % 2 ^ 32 = 0 ∨ ga.toNat / 2 ^ 32 = 0 → exec (.tforce m a la) s = .next (s.retire .on)) ∧
    (∀ i v w ws, s.me.handle m = .node i → (s.core c).node? i = some v → v.kind ≠ .view →
      (s.core c).plan (if v.kind = .twload then [(i, ⟨lowBits 32, lowBits 32⟩)]
        else addDemand [] i ⟨ga.extractLsb' 0 32, ga.extractLsb' 32 32⟩) = w :: ws →
      ∃ t, exec (.tforce m a la) s = .next t ∧ s.WaitsIn t (.demand (w :: ws) none none) ∧
        .operandFetchComplete c s.cn ∈ t.agenda ∧ ∀ x ∈ w :: ws, ∀ y, (s.core c).node? x.node = some y →
          (t.core c).node? x.node = some (if y.state = .pending then { y with state := .demanded } else y)) ∧
    (∀ i v, s.me.handle m = .node i → (s.core c).nodes = [(i, v)] → v.kind ≠ .view → v.kind ≠ .twload → v.state = .pending →
      (∀ q ∈ v.sources, ∃ b fmt rows cols, q = .value b fmt rows cols) →
      (v.fresh ⟨ga.extractLsb' 0 32, ga.extractLsb' 32 32⟩).rows ≠ 0 → ga.toNat % 2 ^ 32 ≠ 0 → ga.toNat / 2 ^ 32 ≠ 0 →
      let r := v.clip ⟨ga.extractLsb' 0 32, ga.extractLsb' 32 32⟩
      ∃ t, exec (.tforce m a la) s = .next t ∧ s.WaitsIn t (.demand [{ node := i, rows := r.rows, cols := r.cols }] none none) ∧
        (t.core c).node? i = some { v with state := .demanded }) ∧
    (∃ t, exec (.tdrop m la) s = .next t ∧ t.me = ((s.modMe fun t => t.setHandle m .empty).retire .on).me ∧ t.mem = s.mem) ∧
    (s.me.handle m = .empty → query (if sel = 0 then 0x7F * 2 ^ 45 else 0)) ∧
    (∀ bank fmt rows cols kind pc, s.me.handle m = .value bank fmt rows cols kind pc →
      query (if sel = 0 then 4 * 2 ^ 60 + fmt * 2 ^ 52 + 0x7F * 2 ^ 45 + 2 ^ 44 + bank * 2 ^ 41 + kind * 2 ^ 28
             else if sel = 1 then (2 ^ cols - 1) * 2 ^ 32 + (2 ^ rows - 1) else if sel = 2 then 0 else pc.toNat)) ∧
    (∀ i v, s.me.handle m = .node i → (s.core c).node? i = some v → sel ≠ 0 →
      query (if sel = 1 then v.cmat.toNat * 2 ^ 32 + v.rmat.toNat else if sel = 2 then ((v.fault.map Prod.snd).getD 0).toNat
             else v.pc.toNat)) ∧
    (∀ i v, s.me.handle m = .node i → (s.core c).node? i = some v → sel = 0 →
      let slots := (s.cluster (clusterOf c)).slots
      query (v.state.code * 2 ^ 60 + v.fmt * 2 ^ 52 + i * 2 ^ 45 +
        (match (s.core c).bankOf 96 v with
          | some k => 2 ^ 44 + k * 2 ^ 41
          | none => 0) +
        (match slots.find? fun e => e.2.1 == c && e.2.2.1 == i with
          | some e => 2 ^ 40 + e.1 * 2 ^ 32
          | none => 0) + v.kind.code * 2 ^ 28 + (v.fault.elim 0 fun e => causeCode e.1 * 2 ^ 16))) ∧
    (∀ bank fmt rows cols kind pc sp p grid,
      let r := MapRec.ofNat (s.load (s.ownKey ga) 64)
      let reg := r.storeRegion ⟨(s.me.greg b).truncate 32, (s.me.greg b >>> 32).truncate 32⟩
      let ws := r.writes reg fun i j => gridAt grid i j
      s.me.handle m = .value bank fmt rows cols kind pc → s.Own ga 64 → s.Unlocked → r.viewChecks ga true = none →
      r.span = some sp → s.rangeCheck c s.me.mode sp .write = .ok p →
      ((s.cluster (clusterOf c)).bank bank).tag = some { ctx := (s.core c).pctx.toNat, core := c % 4, strand := s.cn } →
      State.sourceGrid c (.value bank fmt rows cols) (bitsOf reg.cols) (bitsOf reg.rows) s = .ok (grid, s) →
      (∀ w ∈ ws, w.1.toNat < 2 ^ 19) →
      exec (.tstore m a b la) s =
        .next ((ws.foldl (fun s w => s.storeOwn c w.1 w.1.toNat w.2.1 w.2.2.1 w.2.2.2) s).retire .on))

/-! ### Traps, system registers and privileged instructions -/

/-- R272, R287. `scall` and `break` enter the handler with their cause, TPC the next instruction and TVAL 0.
R133, R270, R272, R290, R292, R293. A word that is no instruction traps with ILLEGAL_INSTRUCTION and TVAL the word; a
privileged instruction below its mode traps with PRIVILEGED_INSTRUCTION, and a steward's instruction on another strand with
STEWARD_ONLY, whatever its operands. With TIN set a trap makes the strand FAULTED and reports KIND 7. -/
def Obligations.SoftwareAndPrivilegeTraps : Prop :=
  (∀ s : State, s.me.tin = false →
     (∃ t, exec .scall s = .next t ∧ s.Trapped t 0x0F (s.me.pc + 4) 0) ∧
     (∃ t, exec .brk s = .next t ∧ s.Trapped t 0x10 (s.me.pc + 4) 0)) ∧
  (∀ s : State, ∀ (d a b : Reg) (k : BitVec 5) (w : BitVec 32),
     let low : List (Instr × Nat) := [(.rett, 1), (.wfi, 1), (.slotw a b, 1), (.ptsync, 1), (.netsync, 1), (.accspill k a, 1),
       (.accfill k a, 1), (.kslotw d a, 3), (.kslotclr d, 3), (.nselw d a, 3), (.grpw d a, 3), (.blkfence d, 3)]
     (s.Free → s.me.tin = false →
       (∃ t, exec (.unassignedEncoding w) s = .next t ∧ s.Trapped t 0x01 s.me.pc (w.zeroExtend 64)) ∧
       (∀ e ∈ low, s.me.mode < e.2 → ∃ t, exec e.1 s = .next t ∧ s.Trapped t 0x02 s.me.pc (s.ir.zeroExtend 64)) ∧
       (∀ i ∈ ([.halt, .startS a b, .reap a] : List Instr), s.cur.2 % 16 ≠ 0 →
         ∃ t, exec i s = .next t ∧ s.Trapped t 0x11 s.me.pc (s.ir.zeroExtend 64))) ∧
     (s.Free → s.me.tin = true →
       ∃ t r, exec (.unassignedEncoding w) s = .next t ∧ t.me.life = .faulted ∧ t.me.pc = s.me.pc ∧ t.me.tcause = s.me.tcause ∧
         t.reports = s.reports ++ [r] ∧ r.kind = 7 ∧ r.cause = 1 ∧ r.syndrome = BitVec.ofNat 32 (s.me.tcause.toNat % 256)))

/-- R98, R288, R289, R290. `rett` restores the status at most to the present mode, both loop levels, the PC and the skip of
TSHADOW; `wfi` completes, and the strand waits unless an enabled interrupt is pending; `halt` of a steward alone in its core, with
nothing owed, an empty deque and no frame on its way, makes it DORMANT, retires the core and reports to the run. That it waits
for a frame that a `take` has given back is the model's choice (log 43). -/
def Obligations.ReturnWaitAndHalt : Prop :=
  ∀ s : State,
    let c := s.cur.1
    let k := s.core c
    (1 ≤ s.me.mode → ∃ t, exec .rett s = .next t ∧ t.me.pc = s.me.tpc ∧ t.me.skip = s.me.tshadow.toNat ∧
      t.me.mode = min s.me.mode (s.me.tstatus.toNat % 4) ∧ t.me.tin = s.me.tstatus.getLsbD 7 ∧ t.me.ie = s.me.tstatus.getLsbD 8 ∧
      t.me.qmap = s.me.tstatus.getLsbD 3 ∧ t.me.advStrict = s.me.tstatus.getLsbD 4 ∧
      t.me.level0 = { start := s.me.tls0, stop := s.me.tle0, count := s.me.tlc0, active := s.me.tstatus.getLsbD 5 } ∧
      t.me.level1 = { start := s.me.tls1, stop := s.me.tle1, count := s.me.tlc1, active := s.me.tstatus.getLsbD 6 } ∧
      t.mem = s.mem ∧ t.me.g = s.me.g ∧ t.me.tpc = s.me.tpc ∧ t.me.tstatus = s.me.tstatus) ∧
    (1 ≤ s.me.mode → (k.enabled s.cn ≠ 0 → exec .wfi s = .next (s.retire .on)) ∧
      (k.enabled s.cn = 0 → exec .wfi s = .next ((s.retire .on).modMe fun t => { t with life := .waiting }))) ∧
    (s.Free → s.me.outst = none → s.cur.2 % 16 = 0 → (∀ n, n % 16 ≠ 0 → (s.strand c n).life = .dormant) → s.me.acks = 0 → k.deque.hw = [] →
      k.deque.overN = 0 → k.deque.reserved = 0 → k.deque.leaving = 0 → (∀ m f, Event.theftReply c m (some f) ∉ s.agenda) →
      ∃ t, exec .halt s = .next t ∧ t.me.life = .dormant ∧ (t.core c).retired = true ∧ (∀ m, t.me.handle m = .empty) ∧
        t.agenda.getLast? = some (.completionRelease c) ∧ t.mem = s.mem ∧ ∀ r, t.me.greg r = s.me.greg r)

/-- R273 to R283, R291. Reads of system registers: the value each returns from its mode up; reads of HOSTMSG by the steward pop
the oldest message.
R273 to R283, R291. Writes of system registers: what each stores of the written value, for `srw` and `srx`, which also
returns the old value; writes of read-only registers change nothing; a quota sum above 96 traps. That the levelling interval
counts from the cc of a write of BALANCE is the model's reading (log 42). -/
def Obligations.SystemRegisters : Prop :=
  (∀ s : State, s.Free → ∀ d : Reg,
     let t := s.me
     let c := s.cur.1
     let k := s.core c
     let z {n : Nat} (x : BitVec n) : Word := x.zeroExtend 64
     (∀ e ∈ ([(0x000, 0, z t.fctl), (0x001, 0, z t.lastseq), (0x002, 0, k.calends), (0x003, 0, z t.fmta), (0x004, 0, z t.fmtb),
       (0x005, 0, z t.scla), (0x006, 0, z t.sclb),
       (0x007, 0, BitVec.ofNat 64 ((s.block (c / 64)).nameCount * 2 ^ 18 + s.nameOf c * 16 + s.cur.2 % 16)),
       (0x008, 0, BitVec.ofNat 64 k.lives), (0x009, 0, BitVec.ofNat 64 k.scr), (0x00A, 0, 0), (0x100, 1, t.statusWord), (0x101, 1, t.tstatus), (0x102, 1, t.tcause),
       (0x103, 1, t.tpc), (0x104, 1, t.tval), (0x105, 1, t.tattr), (0x106, 1, z t.tshadow), (0x107, 1, k.tvec), (0x108, 1, t.scratch),
       (0x109, 1, t.tls0), (0x10A, 1, t.tle0), (0x10B, 1, t.tlc0), (0x10C, 1, t.tls1), (0x10D, 1, t.tle1), (0x10E, 1, t.tlc1),
       (0x110, 1, k.ipend (s.cur.2 % 16)), (0x111, 1, t.tcmp), (0x120, 1, k.slots), (0x121, 1, z k.sloten), (0x122, 0, k.advq),
       (0x123, 0, k.advqh), (0x124, 1, z k.qlimit), (0x125, 0, z k.balance), (0x300, 3, BitVec.ofNat 64 (s.bringup (blockChip c)).code), (0x301, 3, z k.pctx)]
         : List (BitVec 12 × Nat × Word)),
       e.2.1 ≤ s.me.mode → exec (.srr d e.1) s = .next (s.wrote d e.2.2)) ∧
     (s.cur.2 % 16 = 0 → 1 ≤ s.me.mode → exec (.srr d 0x112) s =
       .next ((s.modCore c fun k => { k with hostmsg := k.hostmsg.tail }).wrote d (k.hostmsg.headD 0))) ∧
     (s.me.tin = false → s.me.mode = 0 → ∃ u, exec (.srr d 0x102) s = .next u ∧ s.Trapped u 0x02 s.me.pc (s.ir.zeroExtend 64)) ∧
     (s.me.tin = false → ∃ u, exec (.srr d 0x00B) s = .next u ∧ s.Trapped u 0x01 s.me.pc (s.ir.zeroExtend 64))) ∧
  (∀ s : State, s.Free → ∀ d a : Reg,
     let v := s.me.greg a
     let c := s.cur.1
     let both (num : BitVec 12) (f : State → State) : Prop :=
       exec (.srw num a) s = .next (f (s.retire .on)) ∧
       ∀ old, exec (.srr d num) s = .next (s.wrote d old) → exec (.srx d num a) s = .next (f (s.wrote d old))
     (∀ e ∈ ([(0x000, 0, fun t => { t with fctl := (if 5 ≤ v.toNat / 32 % 8 then t.fctl.extractLsb' 5 3 else v.extractLsb' 5 3) ++ v.extractLsb' 0 5 }),
       (0x101, 1, fun t => { t with tstatus := (v &&& 0xF1F8) |||
         (if v.toNat % 4 = 2 ∨ t.mode < v.toNat % 4 then t.tstatus &&& 3 else v &&& 3) }),
       (0x110, 1, fun t => { t with dbsrc := if s.cur.2 % 16 = 0 then t.dbsrc &&& ~~~(v.extractLsb' 16 16) else t.dbsrc,
                                    xn := t.xn && !v.getLsbD 1 }),
       (0x003, 0, fun t => { t with fmta := v.truncate 16 }), (0x004, 0, fun t => { t with fmtb := v.truncate 16 }),
       (0x005, 0, fun t => { t with scla := v.truncate 16 }), (0x006, 0, fun t => { t with sclb := v.truncate 16 }),
       (0x100, 1, fun t => { t with status := (v &&& 0xF198) ||| (t.status &&& 3) }),
       (0x102, 1, fun t => { t with tcause := v &&& 0x80000000000000FF }), (0x103, 1, fun t => { t with tpc := v }),
       (0x104, 1, fun t => { t with tval := v }), (0x105, 1, fun t => { t with tattr := v }),
       (0x106, 1, fun t => { t with tshadow := v.truncate 4 }), (0x108, 1, fun t => { t with scratch := v }),
       (0x109, 1, fun t => { t with tls0 := v }), (0x10A, 1, fun t => { t with tle0 := v }), (0x10B, 1, fun t => { t with tlc0 := v }),
       (0x10C, 1, fun t => { t with tls1 := v }), (0x10D, 1, fun t => { t with tle1 := v }), (0x10E, 1, fun t => { t with tlc1 := v }),
       (0x111, 1, fun t => { t with tcmp := v })] : List (BitVec 12 × Nat × (Strand → Strand))),
       e.2.1 ≤ s.me.mode → both e.1 fun s => s.modMe e.2.2) ∧
     (∀ e ∈ ([(0x107, fun k => { k with tvec := v &&& ~~~3 }), (0x124, fun k => { k with qlimit := v.truncate 25 })]
         : List (BitVec 12 × (Core → Core))), 1 ≤ s.me.mode → both e.1 fun s => s.modCore c e.2) ∧
     (s.me.mode = 3 → both 0x301 fun s => s.modCore c fun k => { k with pctx := v.truncate 16 }) ∧
     (s.cur.2 % 16 = 0 → both 0x125 fun s => s.modCore c fun k =>
       { k with balance := v.truncate 5, levelAt := k.ticks + 2 ^ min 24 (max 8 (v.truncate 5 : BitVec 5).toNat) }) ∧
     (s.cur.2 % 16 = 0 → quotasOk v (s.core c).advqh = true → both 0x122 fun s => s.modCore c fun k => { k with advq := v }) ∧
     (s.cur.2 % 16 = 0 → quotasOk (s.core c).advq v = true → both 0x123 fun s => s.modCore c fun k => { k with advqh := v }) ∧
     (s.cur.2 % 16 = 0 → quotasOk v (s.core c).advqh = false → s.me.tin = false →
       ∃ t, exec (.srw 0x122 a) s = .next t ∧ s.Trapped t 0x04 s.me.pc v) ∧
     both 0x00A (fun s => s.modStrand c 0 fun t => { t with dbsrc := t.dbsrc ||| BitVec.ofNat 16 (2 ^ (s.cur.2 % 16)) }) ∧
     (∀ num ∈ ([0x001, 0x002, 0x007, 0x008, 0x009] : List (BitVec 12)), both num id))

/-- R292, R293, R294. `start` begins a dormant strand with every register at reset, PC from b and QMAP from bit 0; `reap` makes a
strand that owes nothing DORMANT, and one under way goes on with the target it read first; both leave a strand of the other kind
alone; `slotw` stages a valid table, with the cc of its issue. -/
def Obligations.StrandControl : Prop :=
  ∀ s : State, s.Free → ∀ a b : Reg,
    let c := s.cur.1
    let n := (s.me.greg a).toNat % 16
    let v := s.me.greg b
    let en : BitVec 16 := v.truncate 16
    let owesNothing (m : Nat) : Prop := (s.strand c m).outst = none ∧ (s.strand c m).acks = 0 ∧ ∀ x ∈ (s.core c).copies, x.strand ≠ m
    let reaped (m : Nat) : Prop := ∃ t, exec (.reap a) s = .next t ∧ (t.strand c m).life = .dormant ∧
      (t.strand c m).reaping = false ∧ (∀ h, (t.strand c m).handle h = .empty) ∧ t.me = (s.retire .on).me ∧ t.mem = s.mem
    (s.cur.2 % 16 = 0 → s.me.acks = 0 →
      ((s.strand c n).life = .dormant → n ≠ 0 → exec (.startS a b) s = .next ((s.retire .on).setStrand c n
        { Strand.reset with pc := v &&& ~~~3, life := .running, status := if v.getLsbD 0 then 8 else 0,
                            startAt := (s.core c).ticks + 8 })) ∧
      ((s.strand c n).life ≠ .dormant → n ≠ 0 → exec (.startS a b) s = .next (s.retire .on))) ∧
    (s.cur.2 % 16 = 0 →
      ((∀ w m, s.me.stall = some w → w.pc = s.me.pc → w.why ≠ .reap m) →
        (n = 0 ∨ (s.strand c n).life = .dormant → exec (.reap a) s = .next (s.retire .on)) ∧
        (n ≠ 0 → (s.strand c n).life ≠ .dormant → owesNothing n → reaped n)) ∧
      (∀ m since, s.me.stall = some { pc := s.me.pc, since, why := .reap m } → m ≠ 0 → m < 16 → owesNothing m → reaped m)) ∧
    (1 ≤ s.me.mode → slotsValid (s.me.greg a) en = true → exec (.slotw a b) s =
      .next ((s.modCore c fun k => { k with
        pendingSlots := k.pendingSlots ++ [{ slots := slotsStored (s.me.greg a) en, sloten := en, since := k.ticks }] }).retire .on))

/-- R297. `accspill` to the own scratchpad writes the bank's image and clears its tag; `accfill` of a free bank reads an image:
the elements, the scales and the tag.
R298, R336 to R338. Monitor instructions in machine mode: `kslotw` loads an empty slot from the own scratchpad and zeroes
the source, `kslotclr` empties a slot and raises its generation, `nselw` sets an entry, `grpw` writes or clears a group
entry whose image passes its checks and traps on the first that fails, and `blkfence` fences a block of the partition. That `blkfence` names a reticle of the
partition is the model's reading (log 28). -/
def Obligations.BanksAndMonitor : Prop :=
  (∀ s : State, s.Free → Memory.wf s.mem = true → 1 ≤ s.me.mode → ∀ (k : BitVec 5) (a : Reg),
     let c := s.cur.1
     let cl := clusterOf c
     let x := s.me.greg a
     let key := s.ownKey x
     let bank := (s.cluster cl).bank k.toNat
     let word (b : Bank) (i : Nat) : Nat :=
       if i < 512 then b.data.toNat / 2 ^ (64 * i) % 2 ^ 64 else b.scales.toNat / 2 ^ (64 * (i - 512)) % 2 ^ 64
     k.toNat < 8 → x.toNat % 128 = 0 → x.toNat + 4224 ≤ (s.core c).scr → (s.core c).scr ≤ 2 ^ 19 →
     (∀ i, i < 528 → s.Own (x + BitVec.ofNat 64 (8 * i)) 8) →
     (s.bankBusy c k.toNat = false → ∃ t, exec (.accspill k a) s = .next t ∧ t.me = (s.retire .on).me ∧
       (∀ i, i < 520 → t.load (key + 8 * i) 8 = word bank i) ∧
       t.load (key + 4160) 8 = (bank.tag.elim 0 fun g => 1 + g.ctx % 2 ^ 16 * 2 + g.core % 4 * 2 ^ 17 + g.strand % 16 * 2 ^ 19) ∧
       (∀ j, j < key ∨ key + 4224 ≤ j → t.byte j = s.byte j) ∧
       (t.cluster cl).bank k.toNat = { bank with tag := none } ∧ ∀ j, j < 8 → j ≠ k.toNat →
         (t.cluster cl).bank j = (s.cluster cl).bank j) ∧
     (bank.tag = none → ∃ t b, exec (.accfill k a) s = .next t ∧ t.me = (s.retire .on).me ∧ t.mem = s.mem ∧
       (t.cluster cl).bank k.toNat = b ∧ (∀ i, i < 520 → word b i = s.load (key + 8 * i) 8) ∧
       (let w := s.load (key + 4160) 8
        b.tag = if w % 2 = 0 then none
          else some { ctx := w / 2 % 2 ^ 16, core := w / 2 ^ 17 % 4, strand := w / 2 ^ 19 % 16 }) ∧
       ∀ j, j < 8 → j ≠ k.toNat → (t.cluster cl).bank j = (s.cluster cl).bank j)) ∧
  (∀ s : State, s.Free → Memory.wf s.mem = true → s.me.mode = 3 → ∀ d a : Reg,
     let c := s.cur.1
     let v := s.me.greg d
     let x := s.me.greg a
     let slot := v.toNat % 64
     let key := s.ownKey x
     (s.Own x 64 → x.toNat + 64 ≤ (s.core c).scr → (s.core c).scr ≤ 2 ^ 19 → (s.keySlot slot).key = none →
       ∃ t, exec (.kslotw d a) s = .next t ∧ t.me = (s.retire .on).me ∧
         t.keySlot slot = { key := some (v.toNat / 2 ^ 16 % 2 ^ 16, BitVec.ofNat 512 (s.load key 64)), gen := (s.keySlot slot).gen } ∧
         s.Stored t key 64 0 ∧ ∀ j, j % 64 ≠ slot → t.keySlot j = s.keySlot j) ∧
     (∃ t, exec (.kslotclr d) s = .next t ∧ t.me = (s.retire .on).me ∧ t.mem = s.mem ∧
       t.keySlot slot = { key := none, gen := (s.keySlot slot).gen + 1 } ∧ ∀ j, j % 64 ≠ slot → t.keySlot j = s.keySlot j) ∧
     (s.quietTo c (v.toNat % 256) = true → ∃ t, exec (.nselw d a) s = .next t ∧ t.me = (s.retire .on).me ∧ t.mem = s.mem ∧
       t.nsel.find? (fun e => e.1 == c && e.2.1 == v.toNat % 256) = some (c, v.toNat % 256, x.getLsbD 0) ∧
       ∀ e, ¬ (e.1 = c ∧ e.2.1 = v.toNat % 256) → (e ∈ t.nsel ↔ e ∈ s.nsel)) ∧
     (let im := s.groupImage key
      let r : GroupRef := { part := s.partOf c, idx := v.toNat % 256 }
      s.Own x 8 → (∀ off locks, s.ownBytes x (8 + 2 * im.count) 8 false = .at_ off locks →
        (linesOf key (8 + 2 * im.count)).findSome? s.poisoned? = none →
        s.groupTrap r im = none → im.count ≠ 0 →
        ∃ t g, exec (.grpw d a) s = .next t ∧ t.me = (s.retire .on).me ∧ t.mem = s.mem ∧ t.group? r = some g ∧ g.image = im ∧
          s.groupMembers r.part im = some g.members ∧ g.expected = g.members ∧ g.arrived = [] ∧ g.run = (s.core c).run.map Prod.snd ∧
          ∀ r', r' ≠ r → t.group? r' = s.group? r') ∧
        (∀ off locks, s.ownBytes x 8 8 false = .at_ off locks → (linesOf key 8).findSome? s.poisoned? = none →
          s.groupTrap r im = none → im.count = 0 →
          ∃ t, exec (.grpw d a) s = .next t ∧ t.me = (s.retire .on).me ∧ t.mem = s.mem ∧ t.group? r = none ∧
            ∀ r', r' ≠ r → t.group? r' = s.group? r')) ∧
     (s.me.tin = false →
      let im := s.groupImage key
      let r : GroupRef := { part := s.partOf c, idx := v.toNat % 256 }
      let trapped (code : Nat) : Prop := ∃ t, exec (.grpw d a) s = .next t ∧ s.Trapped t code s.me.pc x ∧ t.groups = s.groups
      let malformed : Prop := 4096 < im.count ∨ (0 < im.count ∧ (im.wait < 6 ∨ 24 < im.wait)) ∨ im.zeros ≠ 0
      (x.toNat / 2 ^ 60 = 0 → x.toNat % 8 ≠ 0 → trapped 0x03) ∧
      (s.Own x 8 → (s.core c).scr < x.toNat + (8 + 2 * im.count) → trapped 0x04) ∧
      (∀ off locks, s.Own x 8 → s.ownBytes x (8 + 2 * im.count) 8 false = .at_ off locks →
        (linesOf key (8 + 2 * im.count)).findSome? s.poisoned? = none →
        (malformed → trapped 0x04) ∧
        (¬ malformed → s.groupMembers r.part im = none → trapped 0x05) ∧
        (∀ ms, ¬ malformed → s.groupMembers r.part im = some ms →
          (¬ ms.Nodup ∨ (∃ m ∈ ms, 4 ≤ s.groupsOf r.part r.idx m) ∨ s.groupHeld r = true) → trapped 0x04))) ∧
     (∀ p site, s.partition? (s.partOf c) = some p → p.site? (v.toNat / 2 ^ 8 % 2 ^ 6) = some site →
       ∃ t, exec (.blkfence d) s = .next t ∧ t.bringup { site, chip := 0, index := v.toNat % 4 } = .fenced ∧ t.mem = s.mem))

/-! ### Events: cores -/

/-- R30, R99, R275, R276, R280, R282, R284, R285, R289, R294, R301. Events of a core: writes of its registers, interrupt entry,
a wait that ends, a deferred RANGE_LOCKED, the completion of an outstanding instruction, and the slot table of the last `slotw`
complete at a rotation, which takes effect there. That an instruction executed again after its tile work admits no interrupt and no
deferred trap before it, and neither does a `reap` under way, is the model's choice (log 10). -/
def Obligations.CoreEvents : Prop :=
  ∀ (s : State) (c n : Nat) (v : Word),
    let t := s.strand c n
    let k := s.core c
    (exec (.doorbellWrite c n) s = .next (s.modStrand c 0 fun u => { u with dbsrc := u.dbsrc ||| BitVec.ofNat 16 (2 ^ (n % 16)) })) ∧
    (n % 16 = 0 → exec (.hostmsgRead c n) s = .next (s.modCore c fun k => { k with hostmsg := k.hostmsg.tail })) ∧
    (exec (.ipendWrite c n v) s = .next (s.modStrand c n fun u =>
      { u with dbsrc := if n % 16 = 0 then u.dbsrc &&& ~~~(v.extractLsb' 16 16) else u.dbsrc, xn := u.xn && !v.getLsbD 1 })) ∧
    (exec (.tcmpWrite c n v) s = .next (s.modStrand c n fun u => { u with tcmp := v })) ∧
    (quotasOk v k.advqh = true → exec (.advqWrite c false v) s = .next (s.modCore c fun k => { k with advq := v })) ∧
    (quotasOk k.advq v = true → exec (.advqWrite c true v) s = .next (s.modCore c fun k => { k with advqh := v })) ∧
    (exec (.tstatusWrite c n v) s = .next (s.modStrand c n fun u => { u with tstatus := (v &&& 0xF1F8) |||
      (if v.toNat % 4 = 2 ∨ u.mode < v.toNat % 4 then u.tstatus &&& 3 else v &&& 3) })) ∧
    (exec (.fctlWrite c n v) s = .next (s.modStrand c n fun u =>
      { u with fctl := (if 5 ≤ v.toNat / 32 % 8 then u.fctl.extractLsb' 5 3 else v.extractLsb' 5 3) ++ v.extractLsb' 0 5 })) ∧
    let between : Prop := t.life = .running ∧ t.outst = none ∧ t.popped = [] ∧ t.rerun = false ∧ ∀ w m, t.stall = some w → w.why ≠ .reap m
    (∀ i, k.interrupt? n = some i → between → t.ie = true → t.refusals = [] ∨ t.tin = true → ∃ u, exec (.interruptEntry c n) s = .next u ∧ (s.from_ c n).Trapped (u.from_ c n) (2 ^ 63 + i) t.pc 0) ∧
    (t.life = .waiting → k.enabled n ≠ 0 →
      exec (.wfiWake c n) s = .next (s.modStrand c n fun u => { u with life := .running }) ∧
      (t.tcmp.toNat ≤ k.calends.toNat →
        exec (.timerExpiry c n) s = .next (s.modStrand c n fun u => { u with life := .running }))) ∧
    (∀ r rest, t.refusals = r :: rest → between → t.tin = false → ∃ u, exec (.deferredTrap c n) s = .next u ∧ (u.strand c n).tcause = 0x07 ∧ (u.strand c n).tpc = t.pc ∧
        (u.strand c n).tval = r.addr ∧ (u.strand c n).tattr = r.pc ∧ (u.strand c n).tshadow = 0 ∧ (u.strand c n).refusals = rest ∧ (u.strand c n).tin = true ∧
        (u.strand c n).pc = k.tvec ∧ u.mem = s.mem) ∧
    (∀ o, t.outst = some o → t.refusals = [] → o.err = none →
      (o.phase = .done none → exec (.longLatencyComplete c n) s =
        .next (s.modStrand c n fun u => { u with outst := none }.complete o.pc o.retired .on)) ∧
      (∀ x b, o.phase = .done (some (x, b)) → exec (.longLatencyComplete c n) s =
        .next (s.modStrand c n fun u => { u with outst := none }.complete o.pc o.retired (.to x b)))) ∧
    (k.calends.toNat % 16 = 0 → ∀ before x after, k.pendingSlots = before ++ x :: after → x.since + 8 ≤ k.ticks →
      (∀ y ∈ before, y.since + 8 ≤ k.ticks) → (∀ y ∈ after, k.ticks < y.since + 8) → exec (.slotTableSwitch c) s =
        .next (s.modCore c fun k => { k with slots := x.slots, sloten := x.sloten, pendingSlots := after })) ∧
    (k.calends.toNat % 16 ≠ 0 ∨ (∀ y ∈ k.pendingSlots, k.ticks < y.since + 8) → exec (.slotTableSwitch c) s = .next s)

/-- R62, R71, R114, R117, R182, R185, R190, R240, R248, R253. Waits that reach their limit: each ends as its rule says, with the
cause its instruction then traps with, or with the core's withdrawal sent to the root of its group, once an episode. -/
def Obligations.Timeouts : Prop :=
  ∀ (s : State) (c n : Nat),
    let t := s.strand c n
    let k := s.core c
    let limit := max 64 k.qlimit.toNat
    let withdraws (i : Instr) (r : GroupRef) (red : Bool) : Prop := ∀ a, k.arrival? r.idx red = some a →
      (a.withdrawn = false → exec i s =
        .next ((s.modCore c fun k => k.setWithdrawn r.idx red true).post (.barrierWithdrawal r c red c))) ∧
      (a.withdrawn = true → exec i s = .next s)
    (∀ o, t.outst = some o → o.err = none →
      let waited := k.ticks - o.since
      (o.phase = .yield → 4096 ≤ waited →
        exec (.yieldTimeout c n) s = .next (s.modStrand c n fun u => { u with outst := some { o with phase := .done none } })) ∧
      (∀ fn d q x, o.phase = .vigil fn d q x → 2 ^ x ≤ waited → k.vigilHolds fn q = false →
        ∃ u, exec (.vigilTimeout c n) s = .next u ∧ s.Erred u c n .vigilTimeout (k.vigilTval fn q)) ∧
      (∀ d v since, o.phase = .push d v since → s.fullPort c n d = true → limit ≤ k.ticks - since →
        ∃ u q, exec (.queueTimeout c n) s = .next u ∧ t.port? d = some q ∧ s.Erred u c n .queueTimeout (k.queueTval q true)) ∧
      (∀ refused first node copy, o.phase = .register [] refused first node copy → refused ≠ [] → limit ≤ waited →
        ∃ u, exec (.registrationRetryTimeout c n) s = .next u ∧ s.Erred u c n .rangeLocked first) ∧
      (∀ i drain r, o.phase = .daybar i drain → k.ring? i = some r → 2 ^ r.cfg.wait ≤ waited →
        ∃ u r', exec (.dayBarrierTimeout c n) s = .next u ∧ s.Erred u c n .vigilTimeout (r.tval i drain) ∧
          (u.core c).ring? i = some r' ∧ (if drain then r'.drainArr else r'.fillArr).getLsbD (n % 16) = false) ∧
      (∀ r red g, (red = false ∧ o.phase = .barrier r true) ∨ (red = true ∧ ∃ d op b, o.phase = .reduce r d op b true) →
        s.group? r = some g → 2 ^ g.image.wait ≤ waited → withdraws (.groupWaitTimeout c n) r red) ∧
      (∀ r v first g, o.phase = .bcastSend r v false (some first) → s.group? r = some g → 2 ^ g.image.wait ≤ k.ticks - first →
        ∃ u, exec (.bcastSendTimeout c n) s = .next u ∧ s.Erred u c n .vigilTimeout (BitVec.ofNat 64 r.idx)) ∧
      (∀ r d first push g, o.phase = .bcastRecv r d (some first) push → s.group? r = some g → 2 ^ g.image.wait ≤ k.ticks - first →
        lookupD [] r.idx k.bcast = [] →
        ∃ u, exec (.bcastRecvTimeout c n) s = .next u ∧ s.Erred u c n .vigilTimeout (BitVec.ofNat 64 r.idx)) ∧
      (∀ w rest so since v, o.phase = .demand (w :: rest) (some so) (some since) → limit ≤ k.ticks - since → s.bindBank c = .wait →
        k.node? w.node = some v → t.tin = false → o.pops = [] →
        ∃ u, exec (.accBankWaitTimeout c n) s = .next u ∧ (u.strand c n).tcause = 0x0C ∧ (u.strand c n).tpc = o.pc ∧
          (u.strand c n).tattr = v.pc ∧ (u.strand c n).pc = k.tvec ∧ (u.strand c n).outst = none ∧ u.mem = s.mem)) ∧
    (t.outst = none → t.tin = false → t.popped = [] → ∀ w, t.stall = some w → limit ≤ k.ticks - w.since → t.skip = 0 →
      (∀ q push, w.why = .queue q push →
        ∃ u, exec (.queueTimeout c n) s = .next u ∧ (s.from_ c n).Trapped (u.from_ c n) 0x08 t.pc (k.queueTval q push)) ∧
      (w.why = .bound ∨ w.why = .channel →
        ∃ u, exec (.copyWaitTimeout c n) s = .next u ∧ (s.from_ c n).Trapped (u.from_ c n) 0x07 t.pc 0)) ∧
    (∀ x since g, k.copy? x.id = some x → x.phase = .barrier since → s.group? (x.group (s.partOf c)) = some g →
      2 ^ g.image.wait ≤ k.ticks - since → withdraws (.cpyhBarrierTimeout c x.id) g.ref false)

/-! ### Events: memory -/

/-- R64, R66, R70, R75, R81, R86, R87, R324 to R328, R351, R365. Requests at their homes. A scratchpad port performs a read, a posted
write and an atomic and answers, and refuses a write to a locked range; a slice that holds the line performs a read and a fill; a
slice of a memory stack that does not serve lines keeps its requests, and a miss to memory that does not serve lines is asked for
again, by the model's choice (log 4); a miss asks for the line or for a walk, a walk goes down one level, ends in a cached
translation, or is retried and at last reported, a leaf that maps a hole of second-tier memory being retried by the model's reading
of R365 (log 12); the answers reach the strand. -/
def Obligations.HomeEvents : Prop :=
  ∀ (s : State), Memory.wf s.mem = true → ∀ (c n : Nat) (q : Req),
    let key := padKey c q.addr
    let k := s.core c
    let send (u : State) (e : Event) : State := { u with agenda := u.agenda ++ [e] }
    let value (lane v : Nat) (serial : BitVec 32) : Reply := { lane, value := v, serial, err := none }
    (s.Awake c → k.locks = [] → k.portLocks = [] → s.poisoned? (key / 128) = none →
      (∀ w m, q.access = .read w m →
        exec (.portRequest c q) s = .next (send s (.loadResponse q.core q.strand (.pad c) (value q.lane (s.load key w) 0)))) ∧
      (∀ w v, q.access = .write w (fullMask w) v → 0 < w → v < 2 ^ (8 * w) →
        ∃ t, exec (.portRequest c q) s = .next t ∧ s.Stored t key w v ∧ t.cores = s.cores ∧
          t.agenda = s.agenda ++ [.postedStoreAck q.core q.strand (.pad c) none]) ∧
      (∀ w x cmp, q.access = .rmw .add false w x cmp →
        ∃ t, exec (.portRequest c q) s = .next t ∧ s.Stored t key w ((s.load key w + x.toNat % 2 ^ (8 * w)) % 2 ^ (8 * w)) ∧
          t.cores = s.cores ∧ ∃ serial, t.agenda = s.agenda ++
            [.loadResponse q.core q.strand (.pad c) (value q.lane (s.load key w) serial)])) ∧
    (s.Awake c → (∃ w v, q.access = .write w (fullMask w) v ∧ 0 < w) → (∃ e ∈ k.locks, e.core ≠ q.core ∧ e.place = .pad c ∧
        e.kind = .copyDest ∧ e.base ≤ q.addr ∧ q.addr < e.base + e.len) →
      exec (.portRequest c q) s = .next (send s (.postedStoreAck q.core q.strand (.pad c) (some { addr := q.full, pc := q.pc })))) ∧
    ((s.slice c).waiting = [] → s.stackServes (c / 16) = false →
      exec (.sliceAccess c q) s = .next (s.modSlice c fun k => { k with waiting := [q] })) ∧
    (∀ l, s.stackServes (c / 16) = true → (s.slice c).waiting = [] → (s.slice c).filter = [] → (s.slice c).line? q.part (q.addr / 128) = some l → s.linePoison l = none →
      (∀ w m, q.access = .read w m → ∃ t, exec (.sliceAccess c q) s = .next t ∧ t.mem = s.mem ∧ (t.slice c).waiting = [] ∧
        t.agenda = s.agenda ++ [.loadResponse q.core q.strand (.slice c) (value q.lane (lineBytes l.data (q.addr % 128) w) 0)]) ∧
      (q.access = .fill → ∃ t, exec (.sliceAccess c q) s = .next t ∧ t.mem = s.mem ∧
        t.agenda = s.agenda ++ [.l1FillResponse q.core (q.addr / 128) { data := l.data, blocked := 0, err := none }])) ∧
    (s.stackServes (c / 16) = true → (s.slice c).waiting = [] → (s.slice c).line? q.part (q.addr / 128) = none →
      ∃ t, exec (.sliceAccess c q) s = .next t ∧ t.mem = s.mem ∧ (t.slice c).waiting = [q] ∧
        t.agenda = s.agenda ++ [if ((s.slice c).tlb? q.addr).isSome then .sliceMissFill c (q.addr / 128)
          else .walkRequest c (q.addr / 128)]) ∧
    (let line := q.addr / 128
     (s.slice c).waiting = [q] →
      (∀ e w m, (s.slice c).line? q.part line = none → (s.slice c).tlb? (line * 128) = some e → (s.slice c).lines = [] →
        (s.slice c).filter = [] → s.poison = [] → s.lineKeys = [] → q.access = .read w m → e.key (line * 128) % 128 = 0 →
        s.stackServes (c / 16) = true → s.keyServes (e.key (line * 128)) = true →
        ∃ t, exec (.sliceMissFill c line) s = .next t ∧ t.mem = s.mem ∧ (t.slice c).waiting = [] ∧
          ((t.slice c).line? q.part line).map SliceLine.data = some (s.memLine (e.key (line * 128))) ∧
          t.agenda = s.agenda ++ [.loadResponse q.core q.strand (.slice c)
            (value q.lane (lineBytes (s.memLine (e.key (line * 128))) (q.addr % 128) w) 0)]) ∧
      (∀ e, (s.slice c).line? q.part line = none → (s.slice c).tlb? (line * 128) = some e → s.keyServes (e.key (line * 128)) = false →
        exec (.sliceMissFill c line) s = .next (send s (.sliceMissFill c line))) ∧
      (∀ p, s.partition? q.part = some p → (s.slice c).walk? line = none →
        ∃ t, exec (.walkRequest c line) s = .next t ∧ t.agenda = s.agenda ++ [.walkEntryReturn c line] ∧ t.mem = s.mem ∧
          (t.slice c).walk? line = some { line, level := 4, table := p.ptroot, retries := 0 })) ∧
    (∀ line w, (s.slice c).walk? line = some w → w.line = line →
      let e := s.pte w.table w.level (line * 128)
      (e.good w.level = true → e.leaf = false → ∃ t, exec (.walkEntryReturn c line) s = .next t ∧ t.mem = s.mem ∧
        (t.slice c).walk? line = some { line, level := w.level - 1, table := e.raw / 4096 % 2 ^ 44 * 4096, retries := 0 } ∧
        t.agenda = s.agenda ++ [.walkEntryReturn c line]) ∧
      (e.good w.level = true → e.leaf = true → e.hole = false → ∃ t, exec (.walkEntryReturn c line) s = .next t ∧ t.mem = s.mem ∧
        (t.slice c).walk? line = none ∧ (t.slice c).tcache.head? = some (e.cached (line * 128)) ∧
        t.agenda = s.agenda ++ [.sliceMissFill c line]) ∧
      (e.good w.level = false ∨ e.hole = true → exec (.walkEntryReturn c line) s =
        .next (send s (if 64 ≤ w.retries then .walkRaceExhausted c line else .walkRetry c line))) ∧
      (∃ t, exec (.walkRetry c line) s = .next t ∧ t.mem = s.mem ∧ t.agenda = s.agenda ++ [.walkEntryReturn c line] ∧
        (t.slice c).walk? line = some { w with retries := w.retries + 1 }) ∧
      (∀ r, (s.slice c).waiting = [r] → 64 ≤ w.retries → (∀ a b v, r.access ≠ .write a b v) → (∀ a b, r.access ≠ .writeback a b) →
        (∀ b, r.access ≠ .touch b) →
        ∃ t x, exec (.walkRaceExhausted c line) s = .next t ∧ t.reports = s.reports ++ [x] ∧ x.kind = 5 ∧ x.cause = 0x14 ∧
          x.part = r.part ∧ (t.slice c).waiting = [] ∧ (t.slice c).walk? line = none ∧
          t.agenda = s.agenda ++ [refuseReply r (.slice c) .walkRaceExhausted])) ∧
    (∀ (d : Reg) (w : Nat) (sg : Bool) (h : Home) (r : Reply), (k.switchedOut = false) → (s.strand c n).qmap = false → r.err = none →
      (s.strand c n).phase? = some (.access (.scalar d w sg false) w [] 1 []) →
      ∃ t, exec (.loadResponse c n h r) s = .next t ∧ (t.strand c n).phase? = some (.done none) ∧ t.mem = s.mem ∧
        (t.strand c n).greg d = (if d = 0 then 0 else extendTo w sg r.value) ∧
        ∀ x, x ≠ d → (t.strand c n).greg x = (s.strand c n).greg x) ∧
    (∀ h refused, k.switchedOut = false → (s.strand c n).reaping = false →
      exec (.postedStoreAck c n h refused) s =
        .next (s.modStrand c n fun t => { t with acks := t.acks - 1, refusals := t.refusals ++ refused.toList }))

/-- R54, R55, R69 to R73, R85, R122, R156, R332, R333, R344. The first-level cache, range registrations, instruction fetch and the
logs: what a fill, a write-back's answer, a registration at its home, its answer and its release change, the D bits that a merged
log sets, entry by entry, and what remains of a log once it is merged or applied. A release at a slice with requests waiting
follows them. That a slice that applies an invalidation drops the page's lines too is the model's choice (log 11). -/
def Obligations.CacheAndLockEvents : Prop :=
  ∀ (s : State) (c n : Nat),
    let k := s.core c
    (∀ line f fr (r : Fill), k.switchedOut = false → k.frame? line = some (f, fr) → fr.stale ≠ 0 →
      exec (.l1FillResponse c line r) s = .next (s.modCore c fun k => k.keepFrame f { fr with stale := fr.stale - 1 })) ∧
    (∀ line f fr (r : Fill), k.switchedOut = false → k.frame? line = some (f, fr) → r.err = none → fr.dirty = 0 → fr.sent = 0 →
      fr.stale = 0 → r.blocked = 0 → (∀ n m need want got, (s.strand c n).phase? ≠ some (.access .joined m need want got)) →
      ∃ t f' fr', exec (.l1FillResponse c line r) s = .next t ∧ t.mem = s.mem ∧
        (t.core c).frame? line = some (f', fr') ∧ fr'.data = r.data ∧ fr'.present = BitVec.allOnes 128 ∧ fr'.filling = false) ∧
    (∀ line f fr, k.switchedOut = false → k.frame? line = some (f, fr) →
      let told (performed : Bool) : State := s.modCore c fun k => k.cleaned line performed
      (fr.evict = false → k.scr / 16384 ≤ f / 128 → exec (.l1WritebackReply c line true) s =
        .next ((told true).modCore c fun k => k.setFrame f { fr with sent := 0, evict := false })) ∧
      (fr.evict = true ∨ f / 128 < k.scr / 16384 → fr.dirty = 0 → fr.filling = false → fr.stale = 0 → exec (.l1WritebackReply c line true) s =
        .next ((told true).modCore c fun k => k.freeFrame f)) ∧
      exec (.l1WritebackReply c line false) s = .next ((told false).modCore c fun k =>
        k.setFrame f { fr with dirty := fr.dirty ||| fr.sent, present := fr.present ||| fr.sent, sent := 0, refused := true,
                               evict := false })) ∧
    (∀ f fr, k.l1 = [(f, fr)] → fr.refused = true → fr.sent = 0 → ∃ t fr' q, exec (.writebackRetry c) s = .next t ∧
      (t.core c).l1 = [(f, fr')] ∧ fr'.sent = fr.dirty ∧ fr'.dirty = 0 ∧ fr'.refused = false ∧ t.mem = s.mem ∧
      t.agenda = s.agenda ++ [.sliceAccess (s.homeSlice (s.partOf c) fr.line) q] ∧ q.access = .writeback fr.dirty fr.data) ∧
    (let line := (s.strand c n).pc.toNat % 2 ^ 57 / 128
     ∀ l, (s.strand c n).life = .running → (s.strand c n).reaping = false → k.stopped = false →
      s.fetchTrap c (s.strand c n).pc = none → (s.strand c n).fetchErr = none → s.lineAtHand (s.partOf c) line = true →
      (s.slice (s.homeSlice (s.partOf c) line)).line? (s.partOf c) line = some l → l.line = line → s.linePoison l = none →
      ∃ t, exec (.instructionFetchReturn c n) s = .next t ∧
        (t.core c).fetched? (s.strand c n).pc = some (l.data.extractLsb' (8 * ((s.strand c n).pc.toNat % 128)) 32)) ∧
    (∀ o, (s.strand c n).outst = some o → o.phase = .tier false →
      exec (.secondTierCompletion c n) s = .next (s.modStrand c n fun t => { t with outst := some { o with phase := .done none } })) ∧
    (∀ r, k.retired = true → k.copies = [] → k.l1 = [] → s.runOf c = some r → r.life = .live →
      (∀ e ∈ s.slices, ∀ l ∈ e.2.lines, l.far = true → l.dirty = 0) → (∀ x ∈ s.regionCores r, s.finished x = true ∧ Event.completionRelease x ∉ s.agenda) →
      exec (.completionRelease c) s = .next { s with agenda := s.agenda ++ [.harvest r.part r.ctx] }) ∧
    (∀ p site, s.partAt site = some p →
      let logged (u : State) (l : List Word) : State := u.setReticle site { u.reticle site with dirtyLog := l }
      (∃ t, exec (.dirtyLogMerge site) s = .next t ∧ (t.reticle site).dirtyLog = [] ∧ (t.reticle site).invLog = (s.reticle site).invLog) ∧
      (∀ w ws, (s.reticle site).dirtyLog = w :: ws → ∃ t, exec (.dirtyLogMerge site) (logged s [w]) = .next t ∧
        exec (.dirtyLogMerge site) s = exec (.dirtyLogMerge site) (logged t ws) ∧
        ∀ e, Memory.wf s.mem = true → s.leafOf p.num (w.toNat % 2 ^ 45 * 4096) = some e →
          (e.d = true → t.mem = s.mem) ∧
          (e.d = false → (∀ a ∈ e.copies, t.load (tierKey 0 a) 8 = e.raw + 32) ∧
            ∀ j, (∀ a ∈ e.copies, j < tierKey 0 a ∨ tierKey 0 a + 8 ≤ j) → t.byte j = s.byte j))) ∧
    (∀ site, ∃ t, exec (.invalidationLogApply site) s = .next t ∧ (t.reticle site).invLog = [] ∧
      (t.reticle site).dirtyLog = (s.reticle site).dirtyLog ∧
      (s.changes = [] → ∀ i, i < 32 → ∀ w ∈ (s.reticle site).invLog, (∀ l ∈ (t.slice (32 * site + i)).lines, invCovers w (l.line * 128) 128 = false) ∧
        ∀ e ∈ (t.slice (32 * site + i)).tcache, invCovers w e.va (2 ^ (12 + e.ps)) = false)) ∧
    (∀ e : LockEntry,
      (s.Awake c → k.locks = [] → k.portLocks = [] → exec (.lockRegistration (.pad c) e) s =
        .next ((s.modCore c fun k => { k with portLocks := [e] }).post (.lockRegistrationAck e.core e.id (.pad c) .acked))) ∧
      ((s.slice c).waiting = [] → (s.slice c).filter = [] → (s.filterEntries c e).length ≤ 1024 → exec (.lockRegistration (.slice c) e) s =
        .next ((s.modSlice c fun x => { x with filter := s.filterEntries c e }).post
          (.lockRegistrationAck e.core e.id (.slice c) .acked)))) ∧
    (∀ o h lock i (m : Tile) first, k.switchedOut = false → n < 16 → (s.strand c n).outst = some o →
      o.phase = .register [(lock, h)] [] first (some (i, m)) none →
      ∃ t, exec (.lockRegistrationAck c lock h .acked) s = .next t ∧ (t.strand c n).phase? = some (.done none) ∧
        (t.strand c n).handle m = .node i ∧ t.mem = s.mem) ∧
    (∀ owner lock, (s.Awake c → exec (.lockRelease (.pad c) owner lock) s = .next (s.modCore c fun k =>
        { k with portLocks := k.portLocks.filter fun h => !(h.core == owner && h.id == lock) })) ∧
      ((s.slice c).waiting = [] → exec (.lockRelease (.slice c) owner lock) s = .next (s.modSlice c fun x =>
        { x with filter := x.filter.filter fun h => !(h.core == owner && h.id == lock) })) ∧
      ((s.slice c).waiting ≠ [] → exec (.lockRelease (.slice c) owner lock) s = .next (s.again (.lockRelease (.slice c) owner lock))))

/-! ### Events: groups, deques, the array and the channel -/

/-- R62, R116, R117, R182, R183, R314. Messages of a group at its root, its first member, and a day barrier whose conditions
hold: arrivals and contributions are counted and the last one completes the episode for every waiting strand; a withdrawal while
the episode is open traps the core's waiting strands, its arrival being cleared, or counted yet where it has not come; a broadcast
value takes a credit and is flooded from the root down the tree (R336), or is refused. Arrivals, withdrawals, contributions and
returned credits climb the tree, each member passing them to its parent; a member past its stop point ejects them. That a core sends
one withdrawal an episode, known by its arrival's record, is the model's reading (log 18). -/
def Obligations.GroupEvents : Prop :=
  ∀ (s : State) (c : Nat),
    (∀ i drain r, (s.core c).ring? i = some r →
      let whole := r.cfg.days * 2 ^ 28
      let held := (r.fill + whole - r.drain) % whole
      (if drain then r.drainArr &&& r.cfg.cons = r.cfg.cons ∧ held ≠ 0
        else r.fillArr &&& r.cfg.prod = r.cfg.prod ∧ held < r.cfg.days - 1) →
      ∃ t, exec (.dayBarrierAdvance c i drain) s = .next t ∧ t.mem = s.mem ∧
        (t.core c).ring? i = some (if drain then { r with drain := (r.drain + 1) % whole, drainArr := 0 }
          else { r with fill := (r.fill + 1) % whole, fillArr := 0 }) ∧
        ∀ n o, n < 16 → (s.strand c n).outst = some o → o.err = none → o.phase = .daybar i drain →
          (t.strand c n).phase? = some (.done none)) ∧
    (∀ g x i seq v, s.Awake c → s.group? g = some x → x.members.idxOf? c = some i →
      let kids := [x.members[2 * i + 1]?, x.members[2 * i + 2]?].filterMap id
      let u := { s with agenda := s.agenda ++ kids.map fun m => .broadcastFloodArrival g m seq v }
      ((s.core c).retired = false → exec (.broadcastFloodArrival g c seq v) s =
        .next (u.modCore c fun k => { k with bcast := assign g.idx (lookupD [] g.idx k.bcast ++ [(seq, v)]) k.bcast })) ∧
      ((s.core c).retired = true → exec (.broadcastFloodArrival g c seq v) s = .next u)) ∧
    (∀ g x m i p n op v, s.group? g = some x → x.members.idxOf? m = some i →
      x.members[if i = 0 then 0 else (i - 1) / 2]? = some p →
      ∀ e ∈ ([(.barrierArrival g c m, .barrierArrival g c), (.barrierWithdrawal g c false m, .barrierWithdrawal g c false),
        (.barrierWithdrawal g c true m, .barrierWithdrawal g c true), (.broadcastCreditReturn g c n m, .broadcastCreditReturn g c n),
        (.reductionContribution g c n op v m, .reductionContribution g c n op v)] : List (Instr × (Nat → Event))),
      (¬ s.Awake p → exec e.1 s = .next { s with ejected := s.ejected ++ [(p, e.2 m)] }) ∧
      (s.Awake p → x.members.head? ≠ some p → exec e.1 s = .next { s with agenda := s.agenda ++ [e.2 p] })) ∧
    (∀ g x root n v, s.group? g = some x → x.members.head? = some root → ¬ s.Awake root →
      exec (.broadcastAccept g c n v) s = .next { s with ejected := s.ejected ++ [(root, .broadcastAccept g c n v)] }) ∧
    (∀ g x root m i, s.group? g = some x → x.members.head? = some root → s.Awake root → x.members.idxOf? m = some i → i ≤ 2 →
      let opened (t : State) (y : Group) : Prop := t = { s with groups := t.groups } ∧ t.group? g = some y
      let withdrawn (red : Bool) : Prop := ∃ a, (s.core c).arrival? g.idx red = some a ∧ a.withdrawn = true
      let taken (t : State) (red counted : Bool) : Prop :=
        (counted = true → (t.core c).arrival? g.idx red = none) ∧
        (counted = false → ∀ a, (s.core c).arrival? g.idx red = some a → (t.core c).arrival? g.idx red = some { a with withdrawn := false })
      (c ∈ x.expected → c ∉ x.arrived →
        ((∃ d ∈ x.expected, d ≠ c ∧ d ∉ x.arrived) →
          ∃ t, exec (.barrierArrival g c m) s = .next t ∧ opened t { x with arrived := x.arrived ++ [c] }) ∧
        ((∀ d ∈ x.expected, d = c ∨ d ∈ x.arrived) →
          ∃ t, exec (.barrierArrival g c m) s = .next t ∧ t.mem = s.mem ∧ t.group? g = some { x with arrived := [] } ∧
            ∀ m ∈ x.members, (s.core m).arrivalSent g.idx false = true → ∀ n o, n < 16 → (s.strand m n).outst = some o →
              o.err = none → o.phase = .barrier g true → (t.strand m n).phase? = some (.done none))) ∧
      (¬ withdrawn false → exec (.barrierWithdrawal g c false m) s = .next s) ∧
      (withdrawn false → (∀ y since a, y ∈ (s.core c).copies → y.phase = .barrier since → (s.core c).arrival? g.idx false = some a →
          a.arriver = .copy y.id → a.sent = true) → ∃ t, exec (.barrierWithdrawal g c false m) s = .next t ∧ t.mem = s.mem ∧
        t.group? g = some { x with arrived := x.arrived.filter fun d => d != c } ∧ taken t false (x.arrived.contains c) ∧
        (∀ n o, n < 16 → (s.strand c n).outst = some o → o.phase = .barrier g true → o.err = none →
          (t.strand c n).outst = some { o with err := some (.vigilTimeout, BitVec.ofNat 64 g.idx) }) ∧
        (∀ y since, y ∈ (s.core c).copies → (∀ z ∈ (s.core c).copies, z.id = y.id → z = y) → y.kind = .cpyh →
          y.phase = .barrier since → y.group g.part = g →
          (t.core c).copy? y.id = some { y with phase := .ending, code := 0x09 })) ∧
      (¬ withdrawn true → exec (.barrierWithdrawal g c true m) s = .next s) ∧
      (withdrawn true → ∃ t y, exec (.barrierWithdrawal g c true m) s = .next t ∧ t.mem = s.mem ∧
        t.group? g = some y ∧ y.redValues = (x.redValues.filter fun e => e.1 != c) ∧
        taken t true (x.redValues.any fun e => e.1 == c) ∧
        (∀ n o d op b, n < 16 → (s.strand c n).outst = some o → o.phase = .reduce g d op b true → o.err = none →
          (t.strand c n).outst = some { o with err := some (.vigilTimeout, BitVec.ofNat 64 g.idx) })) ∧
      (∀ n v, x.unpopped.length < 4 → ∃ t, exec (.broadcastAccept g c n v) s = .next t ∧ t.mem = s.mem ∧
        t.agenda = s.agenda ++ [.broadcastFloodArrival g root x.seq v] ∧
        t.group? g = some { x with seq := x.seq + 1, unpopped := x.unpopped ++ [(x.seq, x.expected)] } ∧
        (∀ h w f, (s.strand c n).phase? = some (.bcastSend h w true f) → (t.strand c n).phase? = some (.done none))) ∧
      (∀ n v h w f, 4 ≤ x.unpopped.length → (s.strand c n).phase? = some (.bcastSend h w true f) →
        exec (.broadcastAccept g c n v) s = .next (s.setPhase c n (.bcastSend h w false f))) ∧
      (∀ seq, ∃ t, exec (.broadcastCreditReturn g c seq m) s = .next t ∧ opened t { x with unpopped :=
        ((x.unpopped.map fun e => if e.1 = seq then (e.1, e.2.filter fun d => d != c) else e).filter fun e => !e.2.isEmpty) }) ∧
      (∀ n op v, (x.redOp = none ∨ x.redOp = some op) → c ∈ x.expected → (∀ e ∈ x.redValues, e.1 ≠ c) →
        let values := x.redValues.map Prod.snd ++ [v]
        let total := values.tail.foldl (redCombine op) (values.headD 0)
        ((∃ d ∈ x.expected, d ≠ c ∧ ∀ e ∈ x.redValues, e.1 ≠ d) → ∃ t, exec (.reductionContribution g c n op v m) s = .next t ∧
          opened t { x with redOp := some op, redValues := x.redValues ++ [(c, v)] }) ∧
        ((∀ d ∈ x.expected, d = c ∨ ∃ e ∈ x.redValues, e.1 = d) →
          ∃ t, exec (.reductionContribution g c n op v m) s = .next t ∧ t.mem = s.mem ∧
            t.group? g = some { x with redOp := none, redValues := [] } ∧
            ∀ m ∈ x.members, ∀ i o d q b, i < 16 → (s.strand m i).outst = some o → o.err = none →
              o.phase = .reduce g d q b true → (s.strand m i).qmap = false → (t.strand m i).phase? = some (.done none) ∧
                (t.strand m i).greg d = if d = 0 then 0 else total)) ∧
      (∀ n op old v o d q b a, x.redOp = some old → old ≠ op → (s.strand c n).outst = some o → o.phase = .reduce g d q b true →
        o.err = none → (s.core c).arrival? g.idx true = some a → a.arriver = .strand (n % 16) → ∃ t, exec (.reductionContribution g c n op v m) s = .next t ∧ t.mem = s.mem ∧ t.groups = s.groups ∧
          (t.core c).arrival? g.idx true = none ∧ (t.strand c n).outst =
            some { o with err := some (.illegal, o.word.zeroExtend 64), phase := .reduce g d q b false }))

/-- R107 to R110, R264. A victim answers a theft with its far-end frame, or empty; the reply ends the `take` or sends it to the next
victim. Each interval the levelling unit asks its shallowest neighbour, if that is shallower by two or more, for half the
difference; the neighbour reserves what it has room for, and the asker sends that many frames from its far end, which are
appended at the neighbour's far end. -/
def Obligations.StealingAndLevelling : Prop :=
  ∀ (s : State) (c a n cnt : Nat),
    let k := s.core c
    let q := k.deque
    let g := if k.retired || !q.taken then 0 else min cnt q.room
    let stolen (u : State) (f : Frame) : Prop := exec (.theftRequest c a n) s = .next (u.post (.theftReply a n (some f)))
    (s.Awake c →
      (k.retired = true ∨ q.taken = false ∨ (q.hw = [] ∧ q.overN = 0) →
        exec (.theftRequest c a n) s = .next (s.post (.theftReply a n none))) ∧
      (k.retired = false → q.taken = true →
        (∀ f, q.overN = 0 → q.hw.getLast? = some f → stolen (s.modDeque c fun q => { q with hw := q.hw.dropLast }) f) ∧
        (0 < q.overN → stolen (s.modDeque c fun q => { q with first := (q.first + 1) % q.slots, overN := q.overN - 1 })
          (frameOfImage (s.load (padKey c (q.base + 64 * (q.first % q.slots))) 64)))) ∧
      exec (.levellingGrantRequest c a cnt) s =
        .next ((s.modDeque c fun q => { q with reserved := q.reserved + g }).post (.levellingGrant a c g)) ∧
      (∀ unused, exec (.levelledFrameArrival c a none unused) s =
        .next (s.modDeque c fun q => { q with reserved := q.reserved - unused })) ∧
      (∀ f unused,
        (q.overN = 0 → q.hw.length < 32 → exec (.levelledFrameArrival c a (some f) unused) s =
          .next ((s.modDeque c fun q => { q with reserved := q.reserved - unused - 1, hw := q.hw ++ [f] }).modDeque a
            fun q => { q with leaving := q.leaving - 1 })) ∧
        (Memory.wf s.mem = true → (q.overN ≠ 0 ∨ 32 ≤ q.hw.length) → q.overN < q.slots →
          let first := (q.first + q.slots - 1) % q.slots
          ∃ t, exec (.levelledFrameArrival c a (some f) unused) s = .next t ∧
            s.Stored t (padKey c (q.base + 64 * (first % q.slots))) 64 (frameImage f) ∧
            ((t.core c).deque.first, (t.core c).deque.overN, (t.core c).deque.hw) = (first, q.overN + 1, q.hw)))) ∧
    (k.switchedOut = false →
      (∀ d asked m, (s.strand c n).phase? = some (.take d asked m none) →
        (∀ f, exec (.theftReply c n (some f)) s = .next (s.setPhase c n (.take d asked m (some (some f, k.ticks))))) ∧
        (7 ≤ m → exec (.theftReply c n none) s = .next (s.setPhase c n (.take d asked (m + 1) (some (none, k.ticks))))) ∧
        (∀ v p, m < 7 → s.victim c asked = (some v, p) → ∃ t, exec (.theftReply c n none) s = .next t ∧ t.mem = s.mem ∧
          (t.strand c n).phase? = some (.take d (asked ++ [v]) (m + 1) none) ∧ (t.core c).deque.steal = p ∧
          t.agenda = s.agenda ++ [.theftRequest v c n])) ∧
      (0 < cnt → q.overN = 0 →
        let fs := q.hw.reverse.take cnt
        ∃ t, exec (.levellingGrant c a cnt) s = .next t ∧ t.mem = s.mem ∧
          (t.core c).deque = { q with hw := q.hw.take (q.hw.length - cnt), leaving := q.leaving + fs.length } ∧
          t.agenda = s.agenda ++ (fs.dropLast.map fun f => .levelledFrameArrival a c (some f) 0) ++
            [.levelledFrameArrival a c fs.getLast? (cnt - fs.length)])) ∧
    (k.run.isSome = true → k.retired = false → k.stopped = false → k.balance ≠ 0 → q.taken = true → k.levelAt ≤ k.ticks →
      let u := s.modCore c fun k => { k with levelAt := k.ticks + 2 ^ min 24 (max 8 k.balance.toNat) }
      (∀ m, u.shallowest (u.neighbours c) = some m →
        ((s.core m).deque.depth + 2 ≤ q.depth → exec (.levellingInterval c) s =
          .next (u.post (.levellingGrantRequest m c ((q.depth - (s.core m).deque.depth) / 2)))) ∧
        (q.depth < (s.core m).deque.depth + 2 → exec (.levellingInterval c) s = .next u)) ∧
      (u.shallowest (u.neighbours c) = none → exec (.levellingInterval c) s = .next u))

/-- R46, R216, R223 to R228, R233, R235, R240, R241. A step whose operands are fetched is staged and requests the array, with the
positions that its demand adds, and no others: of VALUE operands, `tmma` gives the loop of R46 over the enabled depth elements, the
element-wise kinds their rounded result, `tred` the sum rounded once or the maximum, `tcvt` the rounded value or the element of the
row's DX block, with its scales, and `tmask` the operand or +0; which value within its bound an activation gives is free (log 7). The
array passes to the next requesting core, whose first step starts, binding a free bank under the owner's tag if its node has none; a step that
ends writes the positions it computed and adds its region to what is materialised; a fetched weight tile makes its node DONE.
The order in which idle cores get the array is the model's choice (log 29). -/
def Obligations.TileEvents : Prop :=
  ∀ (s : State) (c n i : Nat) (v : Node), (s.core c).node? i = some v →
    let cl := clusterOf c
    let q := s.cluster cl
    let r (w : Work) : Region := ⟨w.rows, w.cols⟩
    (∀ o w rest since out, (s.strand c n).outst = some o → o.phase = .demand (w :: rest) none since → w.node = i →
      v.kind.isSource = false → v.state ≠ .faulted → (s.core c).stopped = false → (s.core c).olderDemand n o.order = false →
      (q.requests.filter fun r => r.1 == c).length < 2 → s.displaced? c n v = none → s.evalNode c v (r w) = .ok (out, s) →
      ∃ t, exec (.operandFetchComplete c n) s = .next t ∧ (t.strand c n).phase? = some (.demand (w :: rest) (some out) none) ∧
        (t.cluster cl).requests = q.requests ++ [(c, n % 16)] ∧ (t.core c).node? i = some v ∧ t.mem = s.mem ∧
        t.agenda = s.agenda ++ (if q.holder.isNone then [.arrayLeaseHandover cl] else [])) ∧
    (∀ o w rest since, (s.strand c n).outst = some o → o.phase = .demand (w :: rest) none since → w.node = i →
      v.kind.isSource = false → v.state ≠ .faulted → (s.core c).stopped = false → (s.core c).olderDemand n o.order = false →
      (q.requests.filter fun r => r.1 == c).length < 2 → s.displaced? c n v = none →
      (∀ x ∈ v.sources, ∃ b f h l, x = .value b f h l) → (∀ acc, v.kind = .tmma acc → 2 ≤ v.sources.length) →
      let near (x : Sys2Proof.Machine.Num) : Nat := (binary32.round .rne x).1
      let elem (x i j : Nat) : Sys2Proof.Machine.Num := match v.sources[x]? with
        | some (.value b _ h l) =>
          if i < h ∧ j < l then binary32.value ((q.bank b).data.toNat / 2 ^ (32 * (32 * i + j)) % 2 ^ 32) else .fin false 0 0
        | _ => .fin false 0 0
      let line (k i j t : Nat) : Sys2Proof.Machine.Num := if k % 2 = 0 then elem 0 i t else elem 0 t j
      let e := kBlock v.map.fmt
      let enabled (x : Nat) : List Nat := (List.range (6 * e)).filter fun k =>
        k / e == x && decide (v.depth.toNat % 512 ≤ k) && decide (k < v.depth.toNat / 2 ^ 16 % 512) && v.depth.getLsbD (32 + x)
      let block (i : Nat) := ((codeDx v.fmt).getD d16).ofValues .rne ((List.range 32).map fun j => elem 0 i j)
      let result (i j : Nat) : Nat := match v.kind with
        | .tmma acc =>
          let start := if acc then near (elem 2 i j) else 0
          if v.rowMask.getLsbD i && v.colMask.getLsbD j then
            (List.range 6).foldl (fun a x => (blockStep a ((enabled x).map fun k => (elem 0 i k, elem 1 k j))).1) start
          else start
        | .tadd => near ((elem 0 i j).add .rne (elem 1 i j)).1
        | .tmulw => near ((elem 0 i j).mul (elem 1 i j)).1
        | .tscale => near ((elem 0 i j).mul (binary32.value v.scale.toNat)).1
        | .tact k => (activationOf k).result (elem 0 i j)
        | .tcvt => match codeFlt v.fmt with
          | some f => near (f.value (f.round .rne (elem 0 i j)).1)
          | none => near (((codeDx v.fmt).getD d16).value (((codeDx v.fmt).getD d16).elem (block i).1 j) (block i).2.1 (block i).2.2.1)
        | .tred k =>
          if k < 2 then near ((List.range 32).foldl (fun a t => (a.add .rne (line k i j t)).1) (.fin false 0 0))
          else (List.range 32).foldl (fun a t => (binary32.pickNumber true a (near (line k i j t))).1) binary32.canonNan
        | .tmask => if v.mask.getLsbD i && v.mask.getLsbD (32 + j) then near (elem 0 i j) else 0
        | _ => 0
      let d := v.clip (r w)
      ∃ t out, exec (.operandFetchComplete c n) s = .next t ∧ (t.strand c n).phase? = some (.demand (w :: rest) (some out) none) ∧
        t.mem = s.mem ∧
        (∀ i j x, (i, j, x) ∈ out.cells ↔ i < 32 ∧ j < 32 ∧ (v.rmat ||| d.rows).getLsbD i = true ∧ (v.cmat ||| d.cols).getLsbD j = true ∧
          ¬ (v.rmat.getLsbD i = true ∧ v.cmat.getLsbD j = true) ∧ x = result i j) ∧
        (v.kind = .tcvt → codeFlt v.fmt = none → ∀ p ∈ out.pairs, p.2 = (block p.1).2.1 + 256 * (block p.1).2.2.1) ∧
        (v.kind = .tact 0 → ∀ i j m e, elem 0 i j = .fin false m e → 0 < m → result i j = near (elem 0 i j))) ∧
    (∀ w b out since, (s.strand c n).work? = some ([w], some out, since) → w.node = i → q.holder = some c → q.requests = [(c, n)] →
      let u := s.modCluster cl fun k => { k with requests := [], steps := k.steps + 1 }
      u.displaced? c n v = none → (u.core c).bankOf 96 v = some b →
      let done : Region := v.clip (r w)
      let v' : Node := { v with rmat := v.rmat ||| done.rows, cmat := v.cmat ||| done.cols, state := .pending }
      ((v'.rmat, v'.cmat) ≠ (lowBits v.kind.shape.1, lowBits v.kind.shape.2)) →
      ∃ t, exec (.tileStep cl) s = .next t ∧ t.mem = s.mem ∧ (t.core c).node? i = some v' ∧
        (t.cluster cl).bank b = (q.bank b).apply out ∧ (t.cluster cl).requests = [] ∧ (t.cluster cl).steps = q.steps + 1 ∧
        (t.strand c n).phase? = some (.demand [] none none) ∧ t.agenda = s.agenda ++ [.arrayLeaseHandover cl]) ∧
    (¬ (q.leased = true ∧ Event.tileStep cl ∈ s.agenda) → let last := match q.holder with
        | some h => h % 4
        | none => 3
      (q.nextHolder cl last = none → exec (.arrayLeaseHandover cl) s =
        .next (s.modCluster cl fun k => { k with holder := none, steps := 0 })) ∧
      (∀ w rest out since, q.nextHolder cl last = some c → q.requests.find? (fun r => r.1 == c) = some (c, n) →
        (s.strand c n).work? = some (w :: rest, out, since) → w.node = i →
        let runs (t : State) (v : Node) : Prop := exec (.arrayLeaseHandover cl) s = .next t ∧ t.mem = s.mem ∧
          ((t.cluster cl).holder, (t.cluster cl).steps) = (some c, 0) ∧ t.agenda = s.agenda ++ [.tileStep cl] ∧
          (t.core c).node? i = some { v with state := .evaluating }
        (((s.core c).bankOf 96 v).isSome = true → ∃ t, runs t v) ∧
        (∀ b, (s.core c).bankOf 96 v = none → s.bindBank c = .bound b → ∃ t, runs t { v with bank := some b } ∧
          ((t.cluster cl).bank b).tag = some { ctx := (s.core c).pctx.toNat, core := c % 4, strand := n % 16 }))) ∧
    (∀ bs, v.kind = .twload → v.state = .evaluating →
      State.readTile c v.map ((codeDx v.map.fmt).getD d16) (List.range (v.map.cols * v.map.blocks)) s = .ok (bs, s) →
      ∃ t, exec (.twloadFetchComplete c i) s = .next t ∧ (t.core c).node? i = some { v with state := .done } ∧ t.mem = s.mem ∧
        (∀ x, (x, c, i, []) ∈ q.slots → (x, c, i, bs) ∈ (t.cluster cl).slots) ∧
        (∀ w out since, (s.strand c v.owner).work? = some ([w], out, since) → w.node = i →
          (t.strand c v.owner).phase? = some (.demand [] none none)))

/-- R70, R73, R90 to R92, R248, R249, R253 to R257. A copy starts once its stores are acknowledged and its lines quiet, and ends
where a write-back made for it was refused, by the model's choice (log 43); the streamer reads its units in order, at most 16 ahead
of their answers, and a core past its stop point refuses them; a unit leaves as its elements and, apart, its scale; each of these
whose destination is in a scratchpad is written there whole, unless that core has stopped or the bytes are locked, after the earlier
units that go to the same home, and not where one of them was refused; the status word is
written once every unit sent is answered, with the locks released, or PENDING where a unit was refused; `cpyh` arrives for its
core after its release, or joins the arrival of another instruction, and registers its sources once released; a resumed target's
units are sent again. -/
def Obligations.CopyEvents : Prop :=
  ∀ (s : State) (c id : Nat) (x : Copy), (s.core c).copy? id = some x →
    let k := s.core c
    let us := x.units
    let now (t : State) (y : Copy) : Prop := (t.core c).copy? id = some y ∧ t.mem = s.mem
    (x.phase = .starting → (s.strand c x.strand).acks = 0 → k.quiet x = true → k.stopped = false →
      (k.keptDirty x = false → exec (.copyStart c id) s = .next ((s.modCopy c id fun k => { k with phase := .running }).post
        (if us = [] then .copyStatusWrite c id else .streamerUnitRead c id 0))) ∧
      (k.keptDirty x = true → ∃ t, exec (.copyStart c id) s = .next t ∧ now t { x with phase := .ending, code := 0x07 })) ∧
    (∀ i u, x.phase = .running → x.next = i → k.stopped = false → us[i]? = some u → x.inFlight < 16 →
      let at_ := s.inside c x i u
      (∀ d v, s.away c at_ (x.reads i u) = false → s.unitConflict c x false (x.reads i u) = false →
        (∀ l ∈ s.virtLines c (x.reads i u), s.lineAtHand (s.partOf c) l = true) → s.readUnit c x i u = .ok (d, v) →
        exec (.streamerUnitRead c id i) s = .next ((v.modCopy c id fun k => { k with next := i + 1, inFlight := k.inFlight + 1 }).posts
          (.copyUnitWrite c id i { bytes := d.bytes, scale := [] } ::
            (if d.scale = [] then [] else [.copyUnitWrite c id i { bytes := [], scale := d.scale }]) ++
            if i + 1 < us.length then [.streamerUnitRead c id (i + 1)] else []))) ∧
      (s.away c at_ (x.reads i u) = true → ∃ t, exec (.streamerUnitRead c id i) s = .next t ∧
        now t { x with refusedAt := some i, phase := .refused })) ∧
    (∀ i u p off d, us[i]? = some u → x.inFlight ≠ 0 →
      let to_ : Word × Nat := if d.bytes = [] then (geoAt x.geo 4 + BitVec.ofNat 64 (i * d.scale.length), d.scale.length) else (u.dst, u.n)
      let bs := d.bytes ++ d.scale
      let away := s.away c (s.inside c x i u) [to_]
      let locked := s.unitConflict c x true [to_]
      let early : Prop := ∃ j y, Event.copyUnitWrite c id j y ∈ s.agenda ∧
        ((j < i ∧ s.partHome c x j y = s.partHome c x i d) ∨ (j = i ∧ d.bytes = [] ∧ y.bytes ≠ []))
      let left (m : Nat) : Prop :=
        ((∃ y, Event.copyUnitWrite c id i y ∈ s.agenda) ∧ m = x.inFlight) ∨
        ((∀ y, Event.copyUnitWrite c id i y ∉ s.agenda) ∧ m = x.inFlight - 1)
      let lost (r : Nat) (y : Copy) : Prop := ∃ t m, exec (.copyUnitWrite c id i d) s = .next t ∧ left m ∧
        now t { y with refusedAt := some r, inFlight := m }
      (early → exec (.copyUnitWrite c id i d) s = .next { s with agenda := s.agenda ++ [.copyUnitWrite c id i d] }) ∧
      (¬ early → s.spot c to_.1 = (.pad p, off) →
        (∀ r v, x.refusedAt = some r → r ≤ i → us[r]? = some v → (∃ y ∈ x.writes r v, s.homeOf c y.1 = .pad p) → lost r x) ∧
        (x.refusedAt = none →
          (away = false → locked = false → Memory.wf s.mem = true → bs ≠ [] → off % 128 + bs.length ≤ 128 →
            s.poisoned? (padKey p off / 128) = none →
            ∃ t m, exec (.copyUnitWrite c id i d) s = .next t ∧ s.Stored t (padKey p off) bs.length (ofBytes bs) ∧ left m ∧
              (t.core c).copy? id = some { x with inFlight := m }) ∧
          (away = true → x.phase = .running → lost i { x with phase := .refused }) ∧
          (away = false → locked = true → x.phase = .running → lost i { x with phase := .ending, code := 0x07 })))) ∧
    (x.inFlight = 0 →
      (∀ code, (x.phase = .running ∧ us.length ≤ x.next ∧ code = 0) ∨ (x.phase = .ending ∧ code = x.code) →
        ∃ t, exec (.copyStatusWrite c id) s = .next t ∧ t.mem = s.mem ∧
          (t.strand c x.strand).greg x.reg = (if x.reg = 0 then 0 else x.status code) ∧
          (t.core c).copies = k.copies.filter (fun y => y.id != x.id) ∧
          ∀ e ∈ (t.core c).locks, e.id ∉ x.locks) ∧
      (x.phase = .refused → ∃ t, exec (.copyStatusWrite c id) s = .next t ∧ now t { x with phase := .pending, busy := false } ∧
        (t.strand c x.strand).greg x.reg = if x.reg = 0 then 0 else x.status 0x80)) ∧
    (∀ cleaning, x.phase = .arriving cleaning → k.stopped = false →
      let g := x.group (s.partOf c)
      let a : Arrival := { idx := g.idx, reduction := false, arriver := .copy id, sent := false, withdrawn := false }
      let arrives : Prop := ∃ t, exec (.cpyhArrival c id) s = .next t ∧ now t { x with phase := .barrier k.ticks } ∧
        t.agenda = s.agenda ++ [.barrierArrival g c c] ∧ (t.core c).arrivalSent g.idx false = true
      (k.arrival? g.idx false = none →
        exec (.cpyhArrival c id) s = .next ((s.modCore c fun k => k.putArrival a).post (.cpyhArrival c id))) ∧
      (∀ b, k.arrival? g.idx false = some b → b.arriver = .copy id → b.sent = false → (s.strand c x.strand).acks = 0 →
        (cleaning = none → k.l1 = [] → arrives) ∧
        (cleaning = some { awaited := [], refused := none } → arrives) ∧
        (∀ l, cleaning = some { awaited := [], refused := some l } →
          ∃ t, exec (.cpyhArrival c id) s = .next t ∧ now t { x with phase := .ending, code := 0x07 })) ∧
      (∀ b, k.arrival? g.idx false = some b → b.arriver ≠ .copy id ∨ b.sent = true →
        exec (.cpyhArrival c id) s = .next (s.modCopy c id fun y => { y with phase := .barrier k.ticks }))) ∧
    (x.phase = .passed → k.stopped = false →
      let es := (s.haloSources c x).zipIdx.map fun r => r.1.entry (k.nextId + r.2) c x.strand
      let hs := es.flatMap fun e => (s.lockHomes c e.place e.base e.len).map fun h => (e, h)
      (∀ e ∈ es, s.ownConflict c e = false) → ∃ t, exec (.cpyhSourceRegistration c id) s = .next t ∧
        (t.core c).locks = k.locks ++ es ∧
        now t { x with
          locks := x.locks ++ es.map LockEntry.id
          phase := if hs = [] then .starting else .sources (hs.map fun e => (e.1.id, e.2)) [] k.ticks } ∧
        t.agenda = s.agenda ++ if hs = [] then [.copyStart c id] else hs.map fun e => .lockRegistration e.2 e.1) ∧
    (∀ target i u before after, s.cores = before ++ (c, k) :: after → (∀ e ∈ before ++ after, e.1 ≠ c ∧ e.2.copies = []) →
      k.copies = [x] → x.phase = .pending → x.refusedAt = some i → us[i]? = some u → target ∈ s.unitPads c x i u →
      (∀ p ∈ s.unitPads c x i u, (s.core p).stopped = false) →
      ∃ t, exec (.copyResume target) s = .next t ∧ now t { x with phase := .running, next := i, refusedAt := none } ∧
        t.agenda = s.agenda ++ [.streamerUnitRead c id i])

/-! ### Events: runs, endpoints and the module -/

/-- R311 to R315, R318, R319. An intercalation, step by step: the request proposes a stop value, every site of the region
accepts it at least 8,192 ticks ahead and with no other intercalation of its blocks committed, or the switch is refused; the
commit waits for the stewards and sends the notice to every running or waiting strand; a core stops, reaches its switch-out
point and saves its image; the eject section takes the messages and the run stands switched out, or is harvested if it was
stopped; a resume has its value agreed in the same way, restores the cores and the messages, and the run is live again at
that value. What the rules leave open in it is the model's choice (logs 13, 33 and 34). -/
def Obligations.Intercalation : Prop :=
  ∀ (s : State) (rq : Request) (ctx : Nat) (r : Run), s.run? rq.part ctx = some r → rq.part ≠ 0xFFFF →
    rq.function = none ∨ rq.function = some rq.part →
    let part := rq.part
    let sites := s.regionSites r
    let cores := s.regionCores r
    let agreed : Word := BitVec.ofNat 64 ((s.wafer.toNat + 65536 + 15) / 16 * 16)
    let asked := sites.map fun x => Event.intercalationProposal part ctx x
    (∀ base incoming, r.life = .live ∨ r.life = .starting → r.inter = none →
      ∃ t, exec (.intercalationRequest rq ctx base incoming) s = .next t ∧ t.mem = s.mem ∧
        t.run? part ctx = some { r with
          inter := some { asked := rq, saveBase := base, incoming, stop := agreed, accepted := [], committed := false } } ∧
        t.agenda = s.agenda ++ asked ∧ t.toHost = s.toHost ++ [.accepted rq opSwitch]) ∧
    (∀ i x, r.life = .live ∨ r.life = .starting → r.inter = some i → i.committed = false → x ∉ i.accepted → x ∈ sites →
      (s.wafer.toNat + 8192 ≤ i.stop.toNat → s.regionCommitted r = false →
        ∃ t, exec (.intercalationProposal part ctx x) s = .next t ∧ t.mem = s.mem ∧
          t.run? part ctx = some { r with inter := some { i with accepted := i.accepted ++ [x] } } ∧
          t.agenda = s.agenda ++ if (∀ y ∈ sites, y ∈ i.accepted ∨ y = x) then [.intercalationCommit part ctx] else []) ∧
      (i.stop.toNat < s.wafer.toNat + 8192 ∨ s.regionCommitted r = true → exec (.intercalationProposal part ctx x) s =
        .next ((s.modRun part ctx fun r => { r with inter := none }).refuse i.asked opSwitch 0 noIndex))) ∧
    (r.life = .starting → ∀ i, r.inter = some i → (s.partition? part).isSome = true → i.committed = false → (∀ x ∈ sites, x ∈ i.accepted) →
      exec (.intercalationCommit part ctx) s = .next (s.post (.intercalationCommit part ctx))) ∧
    (∀ i p, r.inter = some i → s.partition? part = some p → i.committed = false → r.life = .live → (∀ x ∈ sites, x ∈ i.accepted) →
      2 ^ 63 ≤ i.saveBase.toNat →
      (∀ va ∈ pagesOf (i.saveBase.toNat % 2 ^ 57) (s.saveLength r), s.checkPage p va true false = .good) →
      ∃ t, exec (.intercalationCommit part ctx) s = .next t ∧
        t.run? part ctx = some { r with inter := some { i with committed := true }, saveBase := i.saveBase } ∧
        ∀ c ∈ cores, ∀ n, n < 16 → (s.strand c n).life = .running ∨ (s.strand c n).life = .waiting → (t.strand c n).xn = true) ∧
    (∀ i c, s.runOf c = some r → r.inter = some i → i.committed = true → r.life = .live ∨ r.life = .switchingOut → (s.core c).stopped = false →
      i.stop.toNat ≤ (s.core c).calends.toNat → (∀ n, (s.strand c n).outst = none) → (s.reticle (siteOf c)).invLog = [] →
      ∃ t, exec (.intercalationStop c) s = .next t ∧ (t.core c).stopped = true ∧ t.mem = s.mem ∧
        t.run? part ctx = some { r with life := .switchingOut } ∧ t.agenda = s.agenda ++ [.switchOutPoint c]) ∧
    (∀ c, (s.core c).stopped = true → (s.core c).switchedOut = false → (∀ n, (s.strand c n).outst = none) → (s.core c).copies = [] →
      (s.core c).l1 = [] → ((s.cluster (clusterOf c)).holder = some c → ∀ q ∈ (s.cluster (clusterOf c)).requests, q.1 ≠ c) →
      ∃ t, exec (.switchOutPoint c) s = .next t ∧ t.mem = s.mem ∧ (t.core c).switchedOut = true ∧ (t.core c).icache = [] ∧
        (t.core c).strands = (s.core c).strands ∧
        t.agenda = s.agenda ++ (if (s.cluster (clusterOf c)).holder = some c then [.arrayLeaseHandover (clusterOf c)] else [])
          ++ [.coreSwitchedOut c] ∧
        ∀ e ∈ (t.cluster (clusterOf c)).slots, e.2.1 ≠ c) ∧
    (∀ c, s.runOf c = some r → (s.core c).switchedOut = true → (∀ e ∈ s.saved, (e.1, e.2.1, e.2.2.1) ≠ (part, ctx, c)) →
      r.saveBase = 0 ∨ (∀ l ∈ linesOf (s.imageAt r c) (0x1C000 + r.scr), s.lineAtHand part l = true) →
      let u := s.saveImage r c
      ∃ t, exec (.coreSwitchedOut c) s = .next t ∧ t.saved = (part, ctx, c, u.core c) :: u.saved ∧ t.mem = u.mem ∧
        (r.saveBase = 0 → t.mem = s.mem ∧ t.saved = (part, ctx, c, s.core c) :: s.saved)) ∧
    ((∀ c ∈ cores, (s.core c).switchedOut = true ∧ (s.core c).run = some (part, ctx)) → s.sliceTraffic cores = false →
      r.saveBase = 0 ∨ (∀ l ∈ linesOf (s.ejectAt r) (s.ejectSection r cores).length, s.lineAtHand part l = true) →
      ∃ t, exec (.ejectSectionCopy part ctx) s = .next t ∧ (∀ c ∈ cores, (t.core c).run = none) ∧
        (∀ e ∈ t.agenda, ∀ c ∈ cores, eventOwner? e ≠ some c) ∧
        (∀ o, r.life = .stopped o → ∃ l, t.agenda = l ++ [.harvest part ctx]) ∧
        (r.life = .switchingOut → (∀ i, r.inter = some i → i.incoming = none) →
          t.run? part ctx = some { r with life := .switchedOut, inter := none } ∧
          ∀ i, r.inter = some i → ∃ l, t.toHost = l ++ [.done i.asked opSwitch]) ∧
        (∀ i other base, r.life = .switchingOut → r.inter = some i → i.incoming = some (other, base) →
          ∃ l, t.agenda = l ++ [.resume i.asked.part other])) ∧
    (r.life = .switchedOut →
      (s.blocksHeld part ctx r.blocks = true → exec (.resume part ctx) s = .next (s.refuse r.asked opSwitch 0 noIndex)) ∧
      (s.blocksHeld part ctx r.blocks = false → ∃ t, exec (.resume part ctx) s = .next t ∧ t.mem = s.mem ∧
        t.run? part ctx = some { r with life := .rejoining [], issueFrom := agreed } ∧ t.agenda = s.agenda ++ asked)) ∧
    (∀ acc, r.life = .rejoining acc →
      (∀ x ∈ sites,
        (s.wafer.toNat + 8192 ≤ r.issueFrom.toNat → s.regionCommitted r = false →
          ∃ t, exec (.intercalationProposal part ctx x) s = .next t ∧ t.mem = s.mem ∧
            t.run? part ctx = some { r with life := .rejoining (acc ++ [x]) } ∧
            t.agenda = s.agenda ++ if (∀ y ∈ sites, y ∈ acc ∨ y = x) then [.resume part ctx] else []) ∧
        (r.issueFrom.toNat < s.wafer.toNat + 8192 ∨ s.regionCommitted r = true → exec (.intercalationProposal part ctx x) s =
          .next ((s.modRun part ctx fun r => { r with life := .switchedOut }).refuse r.asked opSwitch 0 noIndex))) ∧
      ((∀ x ∈ sites, x ∈ acc) →
        r.saveBase = 0 ∨ (∀ l ∈ linesOf (r.saveBase.toNat % 2 ^ 57) (cores.length * (0x1C000 + r.scr)), s.lineAtHand part l = true) →
        (s.saved.map fun e => (e.1, e.2.1, e.2.2.1)).Nodup →
        ∃ t, exec (.resume part ctx) s = .next t ∧ t.run? part ctx = some { r with life := .resuming, saveBase := 0 } ∧
          (∀ c k, (part, ctx, c, k) ∈ s.saved → (t.core c).run = k.run ∧ (t.core c).nodes = k.nodes ∧
            (t.core c).stopped = false ∧ (t.core c).switchedOut = false ∧
            (r.saveBase = 0 → (t.core c).strands = k.strands.map fun q => { q with again := none })) ∧
          ∀ es, (s.ejectSections.find? fun e => e.1 == part && e.2.1 == ctx) = some (part, ctx, es) → ∀ e ∈ es, e ∈ t.agenda)) ∧
    (r.life = .resuming → r.issueFrom.toNat ≤ s.wafer.toNat → ∃ t, exec (.resumeIssue part ctx) s = .next t ∧ t.mem = s.mem ∧
      t.run? part ctx = some { r with life := .live } ∧ t.toHost = s.toHost ++ [.done r.asked opSwitch] ∧
      t.agenda = s.agenda ++
        if (∀ c ∈ cores, s.finished c = true ∧ .completionRelease c ∉ s.agenda) then [.harvest part ctx] else [])

/-- R265, R270, R309, R324, R329, R331, R334, R335, R339 to R342, R345, R364. The launch endpoint: a partition is created on
free sites and destroyed with its keys revoked and its arrays cleared; a launch that fails a check is refused with its
reason, one that passes sets up every core of its region, and its start value is agreed or the launch is undone; the
stewards start at that value; a host message enters its queue; an end, the host's or one that the partition runtime makes of
a trap it does not handle, stops the region; a harvest answers with the completion message; a virtual function's request
that names another partition is refused. The reasons of step 1 are spelled out in the order of R345. Operation codes, and
reason 0 where the spec names none, are the model's choice (logs 16 and 19); what else the rules leave open, the order in
which reasons are looked for among them, is said in log 34. -/
def Obligations.RunCommands : Prop :=
  ∀ (s : State) (rq : Request) (ctx : Nat),
    let part := rq.part
    let told (t : State) (ms : List ToHost) : Prop := t.toHost = s.toHost ++ ms
    let agreed : Word := BitVec.ofNat 64 ((s.wafer.toNat + 65536 + 15) / 16 * 16)
    (∀ n c0 c1 s0 s1 root rb name page v base incoming, rq.function = some n → n ≠ part →
      ∀ e ∈ ([(.createPartition rq c0 c1 s0 s1 root, opCreate), (.destroyPartition rq, opDestroy), (.launch rq rb, opLaunch),
        (.hostmsg rq name v, opHostmsg), (.endRun rq ctx none, opEnd), (.pageFaultRefusal rq ctx page, opMap),
        (.intercalationRequest rq ctx base incoming, opSwitch)] : List (Instr × Nat)),
      exec e.1 s = .next (s.refuse rq e.2 0 noIndex)) ∧
    (rq.function = none ∨ rq.function = some part →
      (∀ c0 c1 s0 s1 root,
        let q : Partition := { num := part, c0, c1, s0, s1, ptroot := root, slices := [], writeSlot := none }
        let p : Partition := { q with slices := s.liveSlices q }
        (s.mayCreate p = true → ∃ t, exec (.createPartition rq c0 c1 s0 s1 root) s = .next t ∧ t.partitions = s.partitions ++ [p] ∧
          told t [.data rq opCreate (s.counts? p), .done rq opCreate] ∧ t.mem = s.mem) ∧
        (s.mayCreate p = false → exec (.createPartition rq c0 c1 s0 s1 root) s = .next (s.refuse rq opCreate 0 noIndex))) ∧
      (∀ p, s.partition? part = some p → (∀ r ∈ s.runs, r.part ≠ part) → (∀ x ∈ s.changes, x.asked.part = part → x.move = none) →
        ∃ t, exec (.destroyPartition rq) s = .next t ∧ t.partition? part = none ∧ told t [.done rq opDestroy] ∧
          (∀ i k, i < 64 → (s.keySlot i).key = some (part, k) → t.keySlot i = { key := none, gen := (s.keySlot i).gen + 1 }) ∧
          ∀ c off, siteOf c ∈ p.sites → off < 2 ^ 19 → t.byte (padKey c off) = 0) ∧
      (∀ p rb, s.partition? part = some p →
        let said (reason index : Nat) : Prop := exec (.launch rq rb) s = .next (s.refuse rq opLaunch reason index)
        let apart (a n b m : Nat) : Prop := n = 0 ∨ m = 0 ∨ a + n ≤ b ∨ b + m ≤ a
        let alm := 2 ^ rb.almS * rb.almN
        let dq := 64 * rb.dqN
        let scratchFine : Prop :=
          (rb.almN = 0 ∨ 6 ≤ rb.almS ∧ rb.almS ≤ 16 ∧ rb.almN ≤ 1024 ∧ 2 ^ rb.almS ∣ rb.almBase ∧ rb.almBase + alm ≤ rb.scratch) ∧
          (rb.dqN = 0 ∨ rb.dqN ≤ 4096 ∧ 64 ∣ rb.dqBase ∧ rb.dqBase + dq ≤ rb.scratch) ∧ apart rb.almBase alm rb.dqBase dq
        let ringFine (before : List RingCfg) (x : RingCfg) : Prop :=
          x.n < 4 ∧ 1024 ∣ x.base ∧ 2 ≤ x.days ∧ x.days ≤ 8 ∧ 1024 ∣ x.daySize ∧ x.daySize ≠ 0 ∧
          x.base + x.days * x.daySize ≤ rb.scratch ∧ x.prod ≠ 0 ∧ x.cons ≠ 0 ∧ 6 ≤ x.wait ∧ x.wait ≤ 24 ∧
          apart x.base (x.days * x.daySize) rb.almBase alm ∧ apart x.base (x.days * x.daySize) rb.dqBase dq ∧
          ∀ y ∈ before, y.n ≠ x.n ∧ apart x.base (x.days * x.daySize) y.base (y.days * y.daySize)
        let entry (i : Nat) : Option Nat := if rb.sloten.getLsbD i then some (rb.slots.toNat / 16 ^ i % 16) else none
        let slotsFine : Prop := (∀ i j, i < j → j < 16 → entry i ≠ none → entry i = entry j → j = i + 8) ∧ ∃ i, i < 16 ∧ entry i = some 0
        let blocksFine : Prop := rb.blocks ≠ [] ∧ ∀ b ∈ rb.blocks, b.2 < 4 ∧ ∃ x, p.site? b.1 = some x ∧ Config.isCompute x = true
        let groupsOf (i c : Nat) : Nat :=
          (rb.groups.filter fun h => h.index ≤ i && ((s.groupMembers part h.image).getD []).contains c).length +
          (s.groups.filter fun h => h.ref.part == part && !(rb.groups.any fun x => x.idx == h.ref.idx) && h.members.contains c).length
        let groupFine (g : GroupCfg) : Prop := ∃ ms, s.groupMembers part g.image = some ms ∧ g.idx < 256 ∧ ms ≠ [] ∧
          ms.length ≤ 4096 ∧ 6 ≤ g.image.wait ∧ g.image.wait ≤ 24 ∧ ms.Nodup ∧ ∀ c ∈ ms, groupsOf g.index c ≤ 4
        let frameIn (x : FrameCfg) : Prop :=
          ∃ c q, s.named? part x.core = some c ∧ p.rel? (siteOf c) = some q ∧ (q, c / 64 % 4) ∈ rb.blocks
        let padded (x : Section) : Nat := x.base + (x.bytes.length + 4095) / 4096 * 4096
        let clash (x y : Section) : Prop := x.bytes ≠ [] ∧ y.bytes ≠ [] ∧ ∃ va, x.base ≤ va ∧ y.base ≤ va ∧ va < padded x ∧
          va < padded y ∧ x.bytes.getD (va - x.base) 0 ≠ y.bytes.getD (va - y.base) 0
        let sizeFine : Prop := 16384 ∣ rb.scratch ∧ rb.scratch ≤ 448 * 1024
        let ringsFine : Prop := ∀ a x b, rb.rings = a ++ x :: b → ringFine a x
        (¬ sizeFine → said 0x0101 rb.scratchIndex) ∧
        (sizeFine → ¬ scratchFine → said 0x0102 rb.scratchIndex) ∧
        (sizeFine → scratchFine → ∀ a x b, rb.rings = a ++ x :: b → (∀ c y d, a = c ++ y :: d → ringFine c y) → ¬ ringFine a x →
          said 0x0102 x.index) ∧
        (sizeFine → scratchFine → ringsFine →
          (¬ slotsFine → said 0x0103 rb.slotsIndex) ∧
          (slotsFine → ¬ blocksFine → said 0x0104 0) ∧
          (slotsFine → blocksFine → ∀ a g b, rb.groups = a ++ g :: b → (∀ h ∈ a, groupFine h) → ¬ groupFine g → said 0x0104 g.index) ∧
          (slotsFine → blocksFine → (∀ g ∈ rb.groups, groupFine g) →
            (∀ a x b, rb.frames = a ++ x :: b → (∀ y ∈ a, frameIn y) → ¬ frameIn x → said 0x0104 x.index) ∧
            ((∀ x ∈ rb.frames, frameIn x) →
              (∀ a x b, rb.frames = a ++ x :: b → (∀ y ∈ a, frameFits rb y = true) → frameFits rb x = false → said 0 x.index) ∧
              ((∀ x ∈ rb.frames, frameFits rb x = true) →
                (trapvecOk rb = false → said 0 noIndex) ∧
                (trapvecOk rb = true →
                  let long : Prop := ∃ d ∈ rb.scratchData, rb.scratch < d.1 + d.2.length
                  let clashes : Prop := ∃ r ∈ s.runs, r.part = part ∧ ∃ x ∈ rb.sections, ∃ y ∈ r.sections, clash x y
                  (long → said 0x0105 noIndex) ∧
                  (¬ long → clashes → said 0x0106 noIndex) ∧
                  (¬ long → ¬ clashes → (∃ r ∈ s.runs, r.part = part ∧ r.ctx < 1024 ∧ r.life ≠ .switchedOut ∧ ∃ b ∈ r.blocks, b ∈ rb.blocks) →
                    said 0x0107 0)))))) ∧
        (∀ reason index, s.launchRefused rq p rb = some (reason, index) →
          exec (.launch rq rb) s = .next (s.refuse rq opLaunch reason index)) ∧
        (s.launchRefused rq p rb = none → s.regionReady p rb = false → exec (.launch rq rb) s = .next (s.refuse rq opLaunch 0 0)) ∧
        (s.launchRefused rq p rb = none → s.regionReady p rb = true → s.freeContext part = none →
          exec (.launch rq rb) s = .next (s.refuse rq opLaunch 0x0201 noIndex)) ∧
        (s.launchRefused rq p rb = none → s.regionReady p rb = true → s.freeContext part = some ctx →
          badLease (runFor rb rq ctx).lease = none → rb.groups = [] →
          let r := runFor rb rq ctx
          ((∀ g ∈ leasePages r.lease, s.checkPage p g.1 g.2.1 g.2.2.1 = .good) →
            ∃ t q, exec (.launch rq rb) s = .next t ∧ t.run? part ctx = some q ∧ q.entry = rb.entry ∧ q.lease = r.lease ∧
              (∃ l, t.toHost = s.toHost ++ .accepted rq opLaunch :: l) ∧
              (s.cutOff = [] → q.startT = s.wafer + 65536 ∧ (∃ old, q.life = .settingUp old (s.sectionLines r) ∧
                old.cores = (s.regionCores r).map fun c => (c, s.core c)) ∧
                (s.sectionLines r ≠ [] → .stewardStart part ctx ∈ t.agenda)) ∧
              ∀ c ∈ s.regionCores r, (t.core c).run = some (part, ctx) ∧ (t.core c).scr = rb.scratch ∧
                (t.core c).tvec = (rb.trapvec &&& ~~~3) ∧ (t.core c).strands = Vector.replicate 16 Strand.reset ∧
                (t.core c).pctx = BitVec.ofNat 16 (part % 64 * 1024 + ctx % 1024)) ∧
          (∀ g rest, leasePages r.lease = g :: rest →
            (s.checkPage p g.1 g.2.1 g.2.2.1 = .missing → s.moving part g.1 = false → ∃ t, exec (.launch rq rb) s = .next t ∧
              told t [.accepted rq opLaunch, .pageFault part ctx g.1] ∧ t.run? part ctx = some r ∧ t.mem = s.mem) ∧
            (s.checkPage p g.1 g.2.1 g.2.2.1 = .bad → ∃ t, exec (.launch rq rb) s = .next t ∧
              told t [.accepted rq opLaunch, .refused rq opLaunch 0x0202 g.2.2.2] ∧ t.run? part ctx = none ∧
              t.mem = s.mem)))) ∧
      (∀ name v c, s.named? part name = some c →
        (((s.core c).run.map Prod.fst) = some part →
          ((s.core c).hostmsg.length < 8 → ∃ t, exec (.hostmsg rq name v) s = .next t ∧ told t [.done rq opHostmsg] ∧
            (t.core c).hostmsg = (s.core c).hostmsg ++ [v] ∧ t.mem = s.mem) ∧
          (8 ≤ (s.core c).hostmsg.length → exec (.hostmsg rq name v) s = .next (s.refuse rq opHostmsg 0 noIndex))) ∧
        (∀ x, ((s.core c).run.map Prod.fst) ≠ some part → (s.saved.find? fun e => e.1 == part && e.2.2.1 == c) = some x →
          (x.2.2.2.hostmsg.length < 8 → ∃ t, exec (.hostmsg rq name v) s = .next t ∧ told t [.done rq opHostmsg] ∧
            (part, x.2.1, c, { x.2.2.2 with hostmsg := x.2.2.2.hostmsg ++ [v] }) ∈ t.saved) ∧
          (8 ≤ x.2.2.2.hostmsg.length → exec (.hostmsg rq name v) s = .next (s.refuse rq opHostmsg 0 noIndex)))) ∧
      (∀ r g, s.run? part ctx = some r → s.waitsFor r = some g →
        (∃ t, exec (.pageFaultRefusal rq ctx g.1) s = .next t ∧ t.run? part ctx = none ∧
          told t [.refused r.asked opLaunch 0x0202 g.2.2.2] ∧ t.mem = s.mem) ∧
        ∀ page, page ≠ g.1 → exec (.pageFaultRefusal rq ctx page) s = .next s) ∧
      (∀ r, s.run? part ctx = some r → (∀ o, r.life ≠ .stopped o) →
        ∃ t, exec (.endRun rq ctx none) s = .next t ∧
          t.run? part ctx = some { r with life := .stopped (if s.stewardDown r then 3 else 2) } ∧ told t [.done rq opEnd] ∧
          t.mem = s.mem ∧ (r.placed = false → t.agenda = s.agenda ++ [.harvest part ctx]) ∧
          (r.placed = true → t.agenda = s.agenda ++ (s.regionCores r).map .switchOutPoint ∧
            ∀ c ∈ s.regionCores r, (t.core c).stopped = true))) ∧
    (∀ r, s.run? part ctx = some r →
      let cores := s.regionCores r
      let sites := s.regionSites r
      let completed (t : State) (outcome : Nat) : Prop := t.run? part ctx = none ∧
        (∀ c ∈ cores, (t.core c).run ≠ some (part, ctx)) ∧
        ∃ d, told t [.completion { part, ctx, outcome, start := r.startT, stop := s.wafer, dirty := d, cause := r.cause, core := r.causeCore }]
      (∀ old l rest, r.life = .settingUp old (l :: rest) →
        (s.lineAtHand part l = false → ∃ t, exec (.stewardStart part ctx) s = .next t ∧ .stewardStart part ctx ∈ t.agenda) ∧
        (∀ x, s.lineAtHand part l = true → (s.slice (s.homeSlice part l)).line? part l = some x →
          let u := State.writeUnits (cores.headD 0) part 128 (l * 128) (r.sectionLine l) s
          ∃ t, exec (.stewardStart part ctx) s = .next t ∧ t.slices = u.slices ∧ t.mem = u.mem ∧
            t.run? part ctx = some { r with life := .settingUp { old with lines := old.lines ++ [(l, x.data)] } rest } ∧
            (rest ≠ [] → .stewardStart part ctx ∈ t.agenda))) ∧
      (∀ old, r.life = .settingUp old [] →
        (s.regionClean r = true → ∃ t, exec (.stewardStart part ctx) s = .next t ∧ t.mem = s.mem ∧
          t.run? part ctx = some { r with life := .agreeing old [], startT := agreed, issueFrom := agreed } ∧
          t.agenda = s.agenda ++ sites.map fun x => .intercalationProposal part ctx x) ∧
        (s.regionClean r = false → ∃ t, exec (.stewardStart part ctx) s = .next t ∧ t.mem = s.mem ∧
          t.run? part ctx = some { r with startT := s.wafer + 65536 } ∧
          ∀ c ∈ cores, (s.core c).refusedLine?.isSome = true → .writebackRetry c ∈ t.agenda)) ∧
      (∀ old acc x, r.life = .agreeing old acc → part ≠ 0xFFFF → x ∈ sites →
        (s.wafer.toNat + 8192 ≤ r.startT.toNat → s.regionCommitted r = false →
          ∃ t, exec (.intercalationProposal part ctx x) s = .next t ∧ t.agenda = s.agenda ∧ t.run? part ctx = some
            { r with life := if (∀ y ∈ sites, y ∈ acc ∨ y = x) then .starting else .agreeing old (acc ++ [x]) }) ∧
        (r.startT.toNat < s.wafer.toNat + 8192 ∨ s.regionCommitted r = true →
          (∀ e ∈ old.cores, e.2.run ≠ some (part, ctx)) →
          ∃ t, exec (.intercalationProposal part ctx x) s = .next t ∧ t.run? part ctx = none ∧
            (∀ c ∈ cores, (t.core c).run ≠ some (part, ctx)) ∧
            (∃ l, t.toHost = l ++ [.refused r.asked opLaunch 0x0204 noIndex]) ∧
            (old.lines = [] → (old.cores.map Prod.fst).Nodup → ∀ e ∈ old.cores, t.core e.1 = (s.core e.1).putBack e.2))) ∧
      (r.life = .starting → r.startT.toNat ≤ s.wafer.toNat →
        ∃ t, exec (.stewardStart part ctx) s = .next t ∧ t.run? part ctx = some { r with life := .live } ∧
          told t [.done r.asked opLaunch] ∧ t.mem = s.mem ∧ ∀ c ∈ cores,
            t.strand c 0 = ({ Strand.reset with pc := r.entry, life := .running, status := if r.maintenance then 3 else 0 }.setGreg 2
              (BitVec.ofNat 64 (s.core c).scr)) ∧ ∀ n, n % 16 ≠ 0 → t.strand c n = s.strand c n) ∧
      (∀ c n, (s.core c).run = some (part, ctx) → (∀ o, r.life ≠ .stopped o) →
        ∃ t, exec (.endRun rq ctx (some (c, n))) s = .next t ∧ t.mem = s.mem ∧ t.run? part ctx = some { r with
          life := .stopped 4
          cause := (s.strand c n).tcause.toNat % 256
          causeCore := s.nameOf c * 16 + n % 16 }) ∧
      (r.life = .live → (∀ c ∈ cores, s.finished c = true ∧ .completionRelease c ∉ s.agenda) →
        ∃ t, exec (.harvest part ctx) s = .next t ∧ completed t 0) ∧
      (∀ o, r.life = .stopped o → (∀ c ∈ cores, (s.core c).run ≠ some (part, ctx)) →
        ∃ t, exec (.harvest part ctx) s = .next t ∧ completed t o))

/-- R307, R324 to R326, R329, R330, R332, R333, R336, R338, R339, R354, R364, R370. The lease, group, key and journal endpoints,
with their refusals: what each command writes and answers, and how a change of a mapped page waits for the slices.
Operation codes, and reason 0 where the spec names none, are the model's choice (log 16), START RECORD's refusal for a PART
other than 0xFFFF among them, and so is who may clear a key slot (log 22). -/
def Obligations.EndpointCommands : Prop :=
  ∀ (s : State) (rq : Request) (slot : Nat) (va : Word),
    let part := rq.part
    let a := va.toNat % 2 ^ 57
    let told (t : State) (ms : List ToHost) : Prop := t.toHost = s.toHost ++ ms
    let done (t : State) (op : Nat) : Prop := told t [.done rq op]
    let refused (i : Instr) (op : Nat) : Prop := exec i s = .next (s.refuse rq op 0 noIndex)
    let logged (t : State) (p : Partition) (at_ ps : Nat) : Prop := ∀ x ∈ p.sites, Config.isCompute x = true →
      (t.reticle x).invLog = (s.reticle x).invLog ++
        [BitVec.ofNat 64 ((s.reticle x).seq % 2 ^ 15 * 2 ^ 49 + ps * 2 ^ 45 + at_ / 2 ^ (12 + ps) * 2 ^ ps % 2 ^ 45)]
    let quiet : Prop := ∀ r ∈ s.runs, ∀ rb, r.life ≠ .paging rb
    let fresh : Prop := ∀ x ∈ s.changes, x.asked ≠ rq
    (∀ n leaf tables frame im wrapped target seq tag len, rq.function = some n → n ≠ part →
      ∀ e ∈ ([(.mapPage rq va leaf tables, opMap), (.unmapPage rq va, opUnmap), (.movePage rq va frame, opMove), (.clearD rq va, opClearD),
        (.dirtyQuery rq va, opDirty), (.groupTableWrite rq slot im, opGroupWrite), (.groupTableRead rq slot, opGroupRead),
        (.keyLoad rq wrapped slot target, opKeyLoad), (.keyClear rq slot, opKeyClear), (.setWriteSlot rq slot, opWriteSlot),
        (.journalRead rq seq, opJournal), (.linkBind rq slot tag va len, opBind)] : List (Instr × Nat)),
      refused e.1 e.2) ∧
    (rq.function = none ∨ rq.function = some part →
      (∀ p, s.partition? part = some p → fresh → va.toNat / 2 ^ 57 = 64 → s.moving part a = false → s.logRoom p = true →
        (∀ leaf tables, leaf.ps ≤ 15 → leaf.tier ≤ 2 → a % 2 ^ (12 + leaf.ps) = 0 →
          p.ownsFrame { raw := leafEntry leaf, at_ := 0 } = true → s.movingIn part a (2 ^ (12 + leaf.ps)) = false →
          (s.leafOf part a = none → s.pinnedPage part a (2 ^ (12 + leaf.ps)) = true ∨
              (∃ tab u, (s.accept rq opMap).tableFor p a (leafLevel leaf.ps) 5 4 p.ptroot tables = some (tab, u) ∧
                u.putLeaf p a leaf tab = none) → refused (.mapPage rq va leaf tables) opMap) ∧
          (s.leafOf part a = none → s.pinnedPage part a (2 ^ (12 + leaf.ps)) = false →
            ∀ tab u, (s.accept rq opMap).tableFor p a (leafLevel leaf.ps) 5 4 p.ptroot tables = some (tab, u) →
            ∀ v replaced, u.putLeaf p a leaf tab = some (replaced, v) → quiet →
            ∃ t, exec (.mapPage rq va leaf tables) s = .next t ∧ t.mem = v.mem ∧
              (leaf.ps = 0 → tab % 8 = 0 → Memory.wf u.mem = true →
                t.load (tierKey 0 (tab + 8 * (a / 2 ^ 12 % 512))) 8 = leafEntry leaf) ∧
              (replaced = false → done t opMap) ∧
              (replaced = true → told t [.accepted rq opMap] ∧ ∃ x ∈ t.changes, x.asked = rq ∧ x.op = opMap)) ∧
          (∀ x, s.leafOf part a = some x → x.raw / 64 * 64 + x.raw % 32 / 4 * 4 + 1 = leafEntry leaf → quiet →
            ∃ t, exec (.mapPage rq va leaf tables) s = .next t ∧ done t opMap ∧ t.mem = s.mem)) ∧
        (∀ e, s.leafOf part a = some e →
          let size := 2 ^ (12 + e.ps)
          let page := a / size * size
          (s.pinnedPage part page size = true → refused (.unmapPage rq va) opUnmap ∧ refused (.clearD rq va) opClearD) ∧
          (s.pinnedPage part page size = false →
            (∃ t, exec (.unmapPage rq va) s = .next t ∧ told t [.accepted rq opUnmap] ∧ logged t p page e.ps ∧
              (∃ x ∈ t.changes, x.asked = rq ∧ x.op = opUnmap) ∧
              (e.ps = 0 → e.at_ % 8 = 0 → Memory.wf s.mem = true → t.load (tierKey 0 e.at_) 8 = 0)) ∧
            (e.d = true → ∃ t, exec (.clearD rq va) s = .next t ∧ told t [.accepted rq opClearD] ∧ logged t p page e.ps ∧
              (∃ x ∈ t.changes, x.asked = rq ∧ x.op = opClearD) ∧
              (e.ps = 0 → e.at_ % 8 = 0 → Memory.wf s.mem = true → e.raw < 2 ^ 64 → t.load (tierKey 0 e.at_) 8 = e.raw - 32)) ∧
            (e.d = false → ∃ t, exec (.clearD rq va) s = .next t ∧ done t opClearD ∧ t.mem = s.mem)) ∧
          (∃ t, exec (.dirtyQuery rq va) s = .next t ∧ told t [.data rq opDirty [if e.d then 1 else 0], .done rq opDirty] ∧ t.mem = s.mem) ∧
          ∀ frame,
            let m : Move := { page, ps := e.ps, raw := e.raw, at_ := e.at_, frame, flushed := false }
            ((9 < e.ps ∧ s.pinnedPage part page size = true) ∨ p.ownsFrame m.target = false ∨ s.keptBack p m.target = true →
              refused (.movePage rq va frame) opMove) ∧
            (e.ps ≤ 9 → p.ownsFrame m.target = true → s.keptBack p m.target = false →
              ∃ t, exec (.movePage rq va frame) s = .next t ∧ told t [.accepted rq opMove] ∧ logged t p page e.ps ∧
                (∃ x ∈ t.changes, x.asked = rq ∧ x.op = opMove ∧ x.move = some m) ∧
                (e.ps = 0 → e.at_ % 8 = 0 → Memory.wf s.mem = true → e.raw < 2 ^ 64 →
                  t.load (tierKey 0 e.at_) 8 = e.raw / 2 * 2))) ∧
        (s.leafOf part a = none → ∀ frame, refused (.unmapPage rq va) opUnmap ∧ refused (.clearD rq va) opClearD ∧
          refused (.dirtyQuery rq va) opDirty ∧ refused (.movePage rq va frame) opMove)) ∧
      (∀ x, s.change? rq opUnmap = some x →
        (s.logsApplied x.marks = true → ∃ t, exec (.unmapPage rq va) s = .next t ∧ done t opUnmap ∧ x ∉ t.changes ∧ t.mem = s.mem) ∧
        (s.logsApplied x.marks = false → exec (.unmapPage rq va) s = .next (s.post (.unmapPage rq va)))) ∧
      (∀ x m frame, s.change? rq opMove = some x → x.move = some m →
        (s.logsApplied x.marks = false → exec (.movePage rq va frame) s = .next (s.post (.movePage rq va frame))) ∧
        (s.logsApplied x.marks = true → m.flushed = false → ∃ t, exec (.movePage rq va frame) s = .next t ∧
          ({ x with move := some { m with flushed := true } } : Change) ∈ t.changes) ∧
        (s.logsApplied x.marks = true → m.flushed = true → quiet →
          let size := 2 ^ (12 + m.ps)
          let old := (m.entry.cached m.page).key m.page
          let new := (m.target.cached m.page).key m.page
          ∃ t, exec (.movePage rq va frame) s = .next t ∧ done t opMove ∧ x ∉ t.changes ∧
            (m.ps = 0 → m.entry.ps = 0 → Memory.wf s.mem = true →
              (tierKey 0 (m.at_ / 8 * 8) + 8 ≤ new ∨ new + size ≤ tierKey 0 (m.at_ / 8 * 8)) →
              ∀ i, i < size → t.byte (new + i) = s.byte (old + i)))) ∧
      (∀ im ms, (s.partition? part).isSome = true → slot < 256 → s.groupTrap { part, idx := slot } im = none →
        im.members.length = im.count → s.groupMembers part im = some ms →
        ∃ t, exec (.groupTableWrite rq slot im) s = .next t ∧ done t opGroupWrite ∧ t.mem = s.mem ∧
          t.group? { part, idx := slot } = if im.count = 0 then none else
            some { ref := { part, idx := slot }, image := im, run := none, members := ms, expected := ms, arrived := [], redOp := none,
                   redValues := [], seq := 0, unpopped := [] }) ∧
      (∀ x, (s.partition? part).isSome = true → slot < 256 → s.groupHeld { part, idx := slot } = false →
        s.group? { part, idx := slot } = some x → ∃ t, exec (.groupTableRead rq slot) s = .next t ∧ t.mem = s.mem ∧
          told t [.data rq opGroupRead (x.image.count :: x.image.wait :: x.image.members), .done rq opGroupRead]) ∧
      (∀ wrapped target, slot < 64 →
        (Config.unwrapKey wrapped = none → refused (.keyLoad rq wrapped slot target) opKeyLoad) ∧
        (∀ key, Config.unwrapKey wrapped = some key → (s.keySlot slot).key = none → part = 0xFFFF ∨ part = target →
          ∃ t, exec (.keyLoad rq wrapped slot target) s = .next t ∧ done t opKeyLoad ∧
            t.keySlot slot = { s.keySlot slot with key := some (target, key) } ∧
            ∀ j, j % 64 ≠ slot → t.keySlot j = s.keySlot j)) ∧
      (slot < 64 → (part = 0xFFFF ∨ (s.keySlot slot).key = none ∨ ∃ k, (s.keySlot slot).key = some (part, k)) →
        ∃ t, exec (.keyClear rq slot) s = .next t ∧ done t opKeyClear ∧
          t.keySlot slot = { key := none, gen := (s.keySlot slot).gen + 1 } ∧ ∀ j, j % 64 ≠ slot → t.keySlot j = s.keySlot j) ∧
      (∀ k p, slot < 64 → (s.keySlot slot).key = some (part, k) → s.partition? part = some p →
        ∃ t, exec (.setWriteSlot rq slot) s = .next t ∧ done t opWriteSlot ∧ t.partition? part = some { p with writeSlot := some slot }) ∧
      (∀ seq, ∃ t, exec (.journalRead rq seq) s = .next t ∧ t.mem = s.mem ∧
        let entries := s.journal ++ [{ seq := rq.seq, part, what := .accepted opJournal }]
        told t [.journal rq (entries.filter fun e => seq ≤ e.seq && (part == 0xFFFF || e.part == part))
          (if part = 0xFFFF then s.startRecords else []), .done rq opJournal]) ∧
      (∀ chip action,
        (rq.function = none → part = 0xFFFF → action < 2 → (∃ r ∈ s.startRecords, r.chip = chip) →
          ∃ t, exec (.startRecord rq chip action) s = .next t ∧ done t opStartRecord ∧ ∀ r ∈ t.startRecords, r.chip = chip → r.action = action) ∧
        (rq.function ≠ none ∨ part ≠ 0xFFFF ∨ 2 ≤ action → refused (.startRecord rq chip action) opStartRecord)))

/-- R3, R275, R276, R339, R354, R356, R361, R364. Resets end every run and clear every strand but for the mode bits, every queue,
channel, table and message, keeping each core's array size, TVEC and PCTX, a cold reset taking the procession back to
LINKS_TRAINED and the committed firmware into use; retention keeps contents and power-off loses those of the sites; a loss of
power leaves only the journal, the start records and the firmware images. Only the physical function with PART 0xFFFF asks
for any of it. What the rules leave open is the model's choice (log 35), lost memory reads 0 (log 4), and operation codes and
reason 0 are the model's (log 16). -/
def Obligations.ResetsAndPower : Prop :=
  ∀ (s : State) (rq : Request),
    let cleared (t : State) (cold : Bool) : Prop := t.runs = [] ∧ t.agenda = [] ∧ t.ejected = [] ∧ t.saved = [] ∧ t.update = none ∧
      (∃ l, t.toHost = l ++ [.done rq opReset]) ∧
      (∃ e f l, t.journal = l ++ [e, f] ∧ e.what = .reset cold ∧ f.what = .done opReset) ∧
      ∀ c, (∀ n, t.strand c n = { Strand.reset with status := (s.strand c n).status &&& 3, tstatus := (s.strand c n).tstatus &&& 3 }) ∧
        (t.core c).run = none ∧ (t.core c).copies = [] ∧
        (t.core c).nodes = [] ∧ (t.core c).locks = [] ∧ (t.core c).portLocks = [] ∧ (t.core c).queues = Core.reset.queues ∧
        (t.core c).deque = Deque.reset ∧ (t.core c).scr = (s.core c).scr ∧ (t.core c).tvec = (s.core c).tvec ∧
        (t.core c).pctx = (s.core c).pctx
    let done (t : State) : Prop := ∃ l, t.toHost = s.toHost ++ l ++ [.done rq opPower]
    let low (sites : List Nat) (off : Bool) (t : State) : Prop := done t ∧ ∀ x ∈ sites, (x, off) ∈ t.lowPower
    let back (sites : List Nat) (t : State) : Prop := done t ∧ ∀ x ∈ sites, ∀ off, (x, off) ∉ t.lowPower
    (rq.function ≠ none ∨ rq.part ≠ 0xFFFF → ∀ sites image sig, ∀ e ∈ ([(.warmReset rq, opReset), (.coldReset rq, opReset),
        (.retentionEntry rq sites, opPower), (.retentionExit rq sites, opPower), (.powerOff rq sites, opPower), (.powerOn rq sites, opPower),
        (.firmwareUpdate rq image sig, opFirmware)] : List (Instr × Nat)),
      exec e.1 s = .next (s.refuse rq e.2 0 noIndex)) ∧
    (rq.function = none → rq.part = 0xFFFF →
      (∃ t, exec (.warmReset rq) s = .next t ∧ cleared t false) ∧
      (∃ t, exec (.coldReset rq) s = .next t ∧ cleared t true ∧ t.firmware = s.nextFirmware.getD s.firmware ∧ t.nextFirmware = none ∧
        ∀ chip, t.bringup chip = match s.bringup chip with
          | .configLoaded => .linksTrained
          | .selfTestPassed => .linksTrained
          | .ready => .linksTrained
          | x => x) ∧
      (∀ sites, (∀ x ∈ sites, Config.isCompute x = true ∧ ∀ off, (x, off) ∉ s.lowPower) →
        (s.sitesBusy sites = true → exec (.retentionEntry rq sites) s = .next (s.refuse rq opPower 0 noIndex) ∧
          exec (.powerOff rq sites) s = .next (s.refuse rq opPower 0 noIndex)) ∧
        (s.sitesBusy sites = false →
          (sites ≠ [] → sites.length ≤ 4 → ∃ t, exec (.retentionEntry rq sites) s = .next t ∧ low sites false t ∧ t.mem = s.mem) ∧
          (5 ≤ sites.length → s.sitesLeased sites = false → ∃ t, exec (.powerOff rq sites) s = .next t ∧ low sites true t ∧
            (∀ c, siteOf c ∈ sites →
              (t.core c).strands = Vector.replicate 16 Strand.reset ∧ ∀ off, off < 2 ^ 19 → t.byte (padKey c off) = 0) ∧
            ∀ k, k < 2 ^ 43 → k / 2 ^ 37 ∈ sites → t.byte k = 0))) ∧
      (∀ sites, (∀ x ∈ sites, (x, false) ∈ s.lowPower) → ∃ t, exec (.retentionExit rq sites) s = .next t ∧ back sites t ∧
        ((∀ x ∈ sites, ∀ i, i < 32 → (s.slice (32 * x + i)).waiting = []) → t.mem = s.mem)) ∧
      (∀ sites, (∀ x ∈ sites, (x, true) ∈ s.lowPower) → s.startRecords = [] → ∃ t, exec (.powerOn rq sites) s = .next t ∧ back sites t ∧
        ∀ e ∈ s.chiplets, e.1.site ∈ sites → e.1.chip ≠ 0 → s.bringup e.1 = .dark → t.bringup e.1 = .powerGood)) ∧
    exec .powerLoss s = .next { State.reset with
      journal := s.journal, startRecords := s.startRecords, firmware := s.firmware, nextFirmware := s.nextFirmware, fresh := s.fresh }

/-- R311, R350 to R355, R357 to R360, R363. Bring-up and supply: a chiplet with no start record passes its steps in order, each
from the state before it only and with what it needs of its neighbours, and journals each; ACTION 1 and an overrun limit
fence it, ACTION 2 caps it and ACTION 3 halves its rate; wavefronts, dead bonds and routing tables, whose commit every
control die accepts; regulators, droop, bond readings and thermal bands set caps, clock steps and fences. The step a record
of a READY chiplet acts at, the neighbours of a bond and the block it serves are the model's choice (log 23), and signatures
and checksums are opaque (log 14). -/
def Obligations.BringUpAndSupply : Prop :=
  ∀ (s : State) (chip : Chip),
    let x := s.chiplet chip
    let b := 4 * chip.site + chip.index
    let k := s.block b
    let agreed : Word := BitVec.ofNat 64 ((s.wafer.toNat + 65536 + 15) / 16 * 16)
    let passed (y : Chiplet) (q : Bringup) : State := (s.setChip chip { y with state := q }).note 0xFFFF (.bringup chip q.code)
    exec .modulePowerGood s = .next { s with modulePower := true } ∧
    (∀ e ∈ ([(.powerGood chip, .dark, .powerGood, s.modulePower), (.clockLocked chip, .powerGood, .clockLocked, s.fed chip),
        (.linksTrained chip, .clockLocked, .linksTrained, s.linked chip), (.configLoaded chip, .linksTrained, .configLoaded, s.fed chip)] :
        List (Instr × Bringup × Bringup × Bool)),
      (s.record? chip = none → x.state = e.2.1 → e.2.2.2 = true → exec e.1 s = .next (passed x e.2.2.1)) ∧
      (x.state ≠ e.2.1 ∨ e.2.2.2 = false → exec e.1 s = .next s)) ∧
    (s.record? chip = none → x.state = .selfTestPassed → s.recordable chip = true →
      ∃ t, exec (.chipReady chip) s = .next t ∧ t.chiplet chip = { x with state := .ready } ∧
        (chip.chip = 3 → ∀ j, j < 8 → let port := 8 * Config.serviceSites.idxOf chip.site + j
          2 ^ 40 < Config.secondTierCapacity port → .unused port (Config.secondTierCapacity port - 2 ^ 40) ∈ t.toHost)) ∧
    (x.state ≠ .selfTestPassed ∨ s.recordable chip = false → exec (.chipReady chip) s = .next s) ∧
    (∀ r, s.record? chip = some r → r.state = 2 → x.state = .clockLocked → s.linked chip = true →
      ∃ t, exec (.linksTrained chip) s = .next t ∧
        (r.action = 1 → t.bringup chip = .fenced) ∧
        (r.action = 2 ∨ r.action = 3 → t.record? chip = none ∧
          t.chiplet chip = { x with state := .linksTrained, halfRate := x.halfRate || r.action == 3 } ∧
          (t.block b).cap = if r.action = 2 ∧ chip.chip = 0 then max k.cap (min 2 (max k.step k.cap + 1)) else k.cap)) ∧
    (∀ live, s.record? chip = none → s.bringup chip = .configLoaded → x.state = .configLoaded →
      (chip.chip ≠ 0 → exec (.selfTestPassed chip live) s = .next (passed x .selfTestPassed)) ∧
      (chip.chip = 0 → let l := (List.range 20).filter fun p => live.contains p
        (4 ≤ l.length → ∃ t, exec (.selfTestPassed chip live) s = .next t ∧ t.block b = { k with live := l } ∧
          t.chiplet chip = { x with state := .selfTestPassed }) ∧
        (l.length < 4 → ∃ t, exec (.selfTestPassed chip live) s = .next t ∧ t.bringup chip = .fenced))) ∧
    (∀ why, s.modulePower = true → x.state ≠ .ready → x.state ≠ .fenced →
      ∃ t, exec (.bringupLimitOverrun chip why) s = .next t ∧ t.bringup chip = .fenced ∧
        ∃ r, t.record? chip = some r ∧ r.fail = why ∧ r.state = x.state.code) ∧
    (∀ source origin, x.parent ≠ some source →
      (4 ≤ x.state.code → exec (.wavefrontArrival chip source origin) s = .next (s.note 0xFFFF (.wavefrontRefused chip))) ∧
      (x.state.code < 4 → x.parent = none → chip.chip ≠ 3 →
        exec (.wavefrontArrival chip source origin) s = .next (s.setChip chip { x with parent := some source, origin })) ∧
      (x.state.code < 4 → x.parent ≠ none ∨ chip.chip = 3 →
        let old := if x.parent = none then Config.serviceSites.idxOf chip.site else x.origin
        (old ≤ origin → exec (.wavefrontArrival chip source origin) s = .next s) ∧
        (origin < old → x.state = .dark →
          exec (.wavefrontArrival chip source origin) s = .next (s.setChip chip { x with parent := some source, origin })) ∧
        (origin < old → x.state ≠ .dark → exec (.wavefrontArrival chip source origin) s =
          .next (passed { x with parent := some source, origin } .powerGood)))) ∧
    (∀ bond,
      (bond ∉ s.deadBonds → ∃ t, exec (.bondMarkedDead bond) s = .next t ∧ t.deadBonds = bond :: s.deadBonds ∧ t.mem = s.mem) ∧
      (bond ∈ s.deadBonds → exec (.bondMarkedDead bond) s = .next s)) ∧
    (∀ router set table crc sig,
      let load := exec (.routingTableLoad router set table crc sig) s
      let first : RoutingUpdate := { set, loaded := [(router, table)], stop := none, accepted := [] }
      (Config.crcGood table crc = false ∨ Config.signatureGood set sig = false →
        load = .next ({ s with update := none }.note 0xFFFF .routingAborted)) ∧
      (Config.crcGood table crc = true → Config.signatureGood set sig = true → router < 7392 →
        (s.update = none → load = .next { s with update := some first }) ∧
        (∀ u, s.update = some u → u.set ≠ set → ∃ t, load = .next t ∧ t.update = some first) ∧
        (∀ u, s.update = some u → u.set = set → u.stop = none →
          let loaded := assign router table u.loaded
          ∃ t, load = .next t ∧ t.update = some { u with loaded, stop := if 7392 ≤ loaded.length then some agreed else none } ∧
            t.agenda = s.agenda ++ if 7392 ≤ loaded.length then (List.range 42).map fun y => .intercalationProposal 0xFFFF 0 y else []))) ∧
    (∀ u v, s.update = some u → u.stop = some v →
      (∀ site,
        (v.toNat < s.wafer.toNat + 8192 → exec (.intercalationProposal 0xFFFF 0 site) s =
          .next ({ s with update := none }.note 0xFFFF .routingAborted)) ∧
        (s.wafer.toNat + 8192 ≤ v.toNat → exec (.intercalationProposal 0xFFFF 0 site) s =
          .next { s with update := some { u with accepted := u.accepted ++ [site] } })) ∧
      ((∀ y, y < 42 → y ∈ u.accepted) → v.toNat ≤ s.wafer.toNat →
        ∃ t, exec .routingTableCommit s = .next t ∧ t.routing = u.loaded ∧ t.update = none) ∧
      (s.wafer.toNat < v.toNat ∨ (∃ y, y < 42 ∧ y ∉ u.accepted) → exec .routingTableCommit s = .next s)) ∧
    (s.update.isSome = true → exec .routingUpdateAbort s = .next ({ s with update := none }.note 0xFFFF .routingAborted)) ∧
    (chip.chip = 0 → chip.index < 4 →
      let n := k.failedPhases + 1
      (∃ t y, exec (.regulatorPhaseFailure chip.site chip.index) s = .next t ∧ (t.block b).failedPhases = n ∧
        t.reports = s.reports ++ [y] ∧ y.kind = 0 ∧
        (n ≤ 2 → (t.block b).cap = k.cap ∧ t.startRecords = s.startRecords) ∧
        (3 ≤ n → ∃ r, t.record? chip = some r ∧ r.fail = 4 ∧ r.action = if n ≤ 4 then 2 else 1) ∧
        (3 ≤ n → n ≤ 4 → (t.block b).cap = max k.cap 1) ∧ (5 ≤ n → t.bringup chip = .fenced)) ∧
      exec (.droopStretch chip.site chip.index) s = .next ((s.setBlock b { k with
        stretched := some (k.stretched.getD s.wafer) }).tell (.railLow chip.site chip.index true)) ∧
      exec (.droopEnd chip.site chip.index) s =
        .next ((s.setBlock b { k with stretched := none }).tell (.railLow chip.site chip.index false)) ∧
      (∀ since, k.stretched = some since → since.toNat + 2250000 < s.wafer.toNat →
        exec (.droopCap chip.site chip.index) s = .next (s.setBlock b { k with cap := max k.cap 1 })) ∧
      ((∀ since, k.stretched = some since → s.wafer.toNat ≤ since.toNat + 2250000) →
        exec (.droopCap chip.site chip.index) s = .next s)) ∧
    (∀ bond drop,
      let n := ((s.bondReadings.find? fun e => e.1 == bond).map fun e => e.2.2).getD 0
      let rest := s.bondReadings.filter fun e => e.1 != bond
      let near := s.neighbourDrops bond
      let suspect : Prop := ∃ m, near[near.length / 2]? = some m ∧ m + 40 < drop
      let reading := exec (.bondSupplyReading bond drop) s
      let read (m : Nat) : State := { s with bondReadings := (bond, drop, m) :: rest }.tell (.supplyDrop bond drop)
      (¬ suspect → reading = .next (read 0)) ∧
      (suspect → n < 2 ∨ bond ∈ s.deadBonds → reading = .next (read (n + 1))) ∧
      (suspect → 2 ≤ n → bond ∉ s.deadBonds → ∃ t, reading = .next t ∧ t.bondReadings = (bond, drop, n + 1) :: rest ∧ bond ∈ t.deadBonds ∧
        ∀ y, bondBlock bond = some y → t.bringup y = .fenced ∧ ∃ r, t.record? y = some r ∧ r.fail = 5)) ∧
    (∀ band milliC,
      let cur := s.band band
      let want := max cur.step (if 95000 ≤ milliC then 2 else if 85000 ≤ milliC then 1 else 0)
      (∃ t, exec (.thermalReading band milliC) s = .next t ∧ t.mem = s.mem ∧
        t.band band = { step := want, milliC
                        cool := if milliC < stepFloor want then some (cur.cool.getD s.wafer) else none
                        hot := if 105000 ≤ milliC then some (cur.hot.getD s.wafer) else none } ∧
        (∀ y ∈ bandBlocks band, (t.block (4 * y.1 + y.2)).step = want) ∧
        t.toHost = s.toHost ++ .temperature (band % 7) milliC ::
          if 95000 ≤ milliC then (s.bandParts band).map fun p => .migrate p (band % 7) else []) ∧
      (∀ since, cur.hot = some since → since.toNat + 22500000 ≤ s.wafer.toNat →
        ∃ t, exec (.thermalFence band) s = .next t ∧ ∀ y ∈ bandBlocks band, t.bringup { site := y.1, chip := 0, index := y.2 } = .fenced) ∧
      ((∀ since, cur.hot = some since → s.wafer.toNat < since.toNat + 22500000) → exec (.thermalFence band) s = .next s) ∧
      (∀ since, cur.cool = some since → since.toNat + 225000000 ≤ s.wafer.toNat →
        ∃ t, exec (.thermalStepUp band) s = .next t ∧ (t.band band).step = cur.step - 1 ∧
          ∀ y ∈ bandBlocks band, (t.block (4 * y.1 + y.2)).step = cur.step - 1) ∧
      ((∀ since, cur.cool = some since → s.wafer.toNat < since.toNat + 225000000) → exec (.thermalStepUp band) s = .next s))

/-- R307 to R309, R366 to R369. Links, firmware and errors: a link whose service reticle is READY is bound to a range its
partition leases; a flit that fails its CRC is reported, with reports of that kind delivered 64 at a time, one out of sequence
is dropped, one that is accepted is answered, a calends flit sets the wafer counter, a data flit is performed once the lines of
its range are at hand, and the aperture then reads what it wrote; a slice's write to the aperture of a bound link is sent as one
data flit and leaves memory as it was; what is not acknowledged is sent again, and after eight times the link, like a bond that
gives up, is reported and stops the runs of its lost messages; a good firmware image is kept for the next cold reset; an error
is reported, and poisons its line or ends its strand or its run. What a flit writes, checksums and signatures are opaque (logs
14 and 20); when a link sends again, the SEQ that acknowledgement-only and idle flits do not use, and which runs a lost message
has, are log 20, and which strands and runs an error ends is log 36. -/
def Obligations.LinksAndErrors : Prop :=
  ∀ (s : State) (rq : Request) (n : Nat), n < 24 →
    let l := s.link n
    let one (t : State) (kind : Nat) (syndrome : BitVec 32) : Prop := ∃ x, t.reports = s.reports ++ [x] ∧ x.kind = kind ∧ x.syndrome = syndrome
    let stops (t : State) (r : Run) : Prop := (∀ q ∈ s.runs, q.part = r.part → q.ctx = r.ctx → q = r) →
      t.run? r.part r.ctx = some { r with life := .stopped 1 }
    (∀ p tag base len r, rq.function = none ∨ rq.function = some rq.part → s.partition? rq.part = some p →
      (p.rel? (linkSite n)).isSome = true → s.serviceReady (linkSite n) = true → base.toNat / 2 ^ 57 = 64 → len ≠ 0 → r ∈ s.runs →
      r.part = rq.part → firstUnleased r.lease (base.toNat % 2 ^ 57) len .write = none →
      ∃ t, exec (.linkBind rq n tag base len) s = .next t ∧ t.mem = s.mem ∧
        t.link n = { l with bound := some { part := rq.part, tag, base, len }, retried := [] } ∧
        t.toHost = s.toHost ++ (if l.retried = [] then [] else [.retries n l.retried]) ++ [.done rq opBind]) ∧
    (∀ tag base len, s.serviceReady (linkSite n) = false ∨ len = 0 ∨ s.leasedFor rq.part (base.toNat % 2 ^ 57) len = false →
      exec (.linkBind rq n tag base len) s = .next (s.refuse rq opBind 0 noIndex)) ∧
    (l.up = false ∨ s.serviceReady (linkSite n) = false →
      (∀ f, exec (.linkFlitReceive n f) s = .next s) ∧ exec (.calendsFlitSend n) s = .next s) ∧
    (∀ f : LinkFlit, l.up = true → s.serviceReady (linkSite n) = true →
      let heard : Link := match l.unacked.findIdx? fun g => g.1.seq == f.ack with
        | some i => { l with acked := f.ack, resends := 0, unacked := l.unacked.drop (i + 1) }
        | none => { l with acked := f.ack }
      let answer : LinkFlit :=
        { type := 3, vc := 0, seq := l.sent, ack := f.seq, linkId := (l.bound.map LinkBinding.tag).getD 0, payload := 0, crcGood := true }
      let flit := exec (.linkFlitReceive n f) s
      let next : Prop := f.seq = (l.received + 1) % 4096
      let took (t : State) : Prop := (t.link n).received = f.seq ∧ (t.link n).acked = f.ack ∧ (t.link n).unacked = heard.unacked ∧
        (t.link n).resends = heard.resends ∧ (t.link n).lanes = l.lanes ++ [linkWire answer]
      (f.crcGood = false → ∃ t, flit = .next t ∧ one t 3 (Config.linkChecksum f) ∧ t.mem = s.mem ∧
        (l.retried.length < 63 → t.toHost = s.toHost ∧ (t.link n).retried.length = l.retried.length + 1) ∧
        (63 ≤ l.retried.length → (t.link n).retried = [] ∧
          ∃ x, t.toHost = s.toHost ++ [.retries n (l.retried ++ [x])] ∧ t.reports = s.reports ++ [x])) ∧
      (f.crcGood = true →
        (f.type = 0 ∨ 3 ≤ f.type ∨ ¬ next → flit = .next (s.setLink n heard)) ∧
        (f.type = 2 → next → ∃ t, flit = .next t ∧ took t ∧
          t.wafer = BitVec.ofNat 64 (f.payload % 2 ^ 64 + f.payload / 2 ^ 64 % 2 ^ 64) ∧ t.mem = s.mem) ∧
        (∀ b, f.type = 1 → next → l.bound = some b → b.tag = f.linkId →
          (s.linkMisses b f = [] → ∃ t, flit = .next t ∧ took t ∧
            (s.linkWrites b f = [] → t.mem = s.mem) ∧
            ∀ w, s.linkWrites b f = [w] → Memory.wf s.mem = true → t.bytes (apertureKey n w.1) w.2.2.length = w.2.2) ∧
          (s.linkMisses b f ≠ [] → ∃ t, flit = .next t ∧ t.link n = l ∧ .linkFlitReceive n f ∈ t.agenda)) ∧
        (f.type = 1 → next → (∀ b, l.bound = some b → b.tag ≠ f.linkId) →
          ∃ t, flit = .next t ∧ took t ∧ one t 3 (Config.linkChecksum f) ∧ t.mem = s.mem))) ∧
    (∀ f rest, l.up = true → l.unacked = f :: rest → 8 ≤ l.resends → ∃ t, exec (.linkRetryExhausted (.higrim n)) s = .next t ∧
      t.link n = { l with up := false, retried := [] } ∧ one t 4 (Config.linkChecksum f.1) ∧
      (∀ g part line, g ∈ l.unacked → g.2 = some (part, line) →
        ∀ r ∈ s.runs, r.part = part → r.life = .live → pageLeased r.lease (line * 128) .write = true → stops t r) ∧
      ((∀ g ∈ l.unacked, g.2 = none) → t.runs = s.runs)) ∧
    (l.up = false ∨ l.unacked = [] ∨ l.resends < 8 → exec (.linkRetryExhausted (.higrim n)) s = .next s) ∧
    (∀ x off, aperture? x.phys = some (n, off) → x.dirty ≠ 0 →
      (∀ b, l.up = true → s.serviceReady (linkSite n) = true → l.bound = some b → b.part = x.part →
        let f : LinkFlit := { type := 1, vc := 0, seq := (l.sent + 1) % 4096, ack := l.received, linkId := b.tag,
                              payload := Config.linkPayload off x.data x.dirty, crcGood := true }
        s.writeLine x = s.setLink n { l with
          sent := (l.sent + 1) % 4096, unacked := l.unacked ++ [(f, some (x.part, x.line))], lanes := l.lanes ++ [linkWire f] }) ∧
      (l.up = false ∨ s.serviceReady (linkSite n) = false ∨ (∀ b, l.bound = some b → b.part ≠ x.part) → s.writeLine x = s)) ∧
    (∀ bond,
      (bond ∈ s.deadBonds → exec (.linkRetryExhausted (.bond bond)) s = .next s) ∧
      (bond ∉ s.deadBonds → ∃ t, exec (.linkRetryExhausted (.bond bond)) s = .next t ∧ bond ∈ t.deadBonds ∧
        (∃ x more, t.reports = s.reports ++ x :: more ∧ x.kind = 4 ∧ x.syndrome = Config.bondChecksum bond) ∧
        ∀ e ∈ s.agenda, s.crosses bond e = true → ∀ c ∈ s.bereaved e, ∀ r, s.runOf c = some r → r.life = .live → stops t r)) ∧
    (l.up = true → s.serviceReady (linkSite n) = true →
      let f : LinkFlit := { type := 2, vc := 0, seq := (l.sent + 1) % 4096, ack := l.received
                            linkId := (l.bound.map LinkBinding.tag).getD 0
                            payload := s.wafer.toNat + Config.linkDelay n % 2 ^ 64 * 2 ^ 64, crcGood := true }
      let again : List Nat := l.unacked.map fun g => linkWire { g.1 with ack := l.received }
      (l.unacked = [] ∨ l.resends < 8 → exec (.calendsFlitSend n) s = .next (s.setLink n { l with
        sent := (l.sent + 1) % 4096, unacked := l.unacked ++ [(f, none)], lanes := l.lanes ++ again ++ [linkWire f]
        resends := if l.unacked = [] then l.resends else l.resends + 1 })) ∧
      (l.unacked ≠ [] → 8 ≤ l.resends → exec (.calendsFlitSend n) s = .next (s.post (.linkRetryExhausted (.higrim n))))) ∧
    (∀ image sig, rq.function = none → rq.part = 0xFFFF →
      (Config.signatureGood image sig = true → ∃ t, exec (.firmwareUpdate rq image sig) s = .next t ∧ t.nextFirmware = some image ∧
        t.firmware = s.firmware ∧ t.toHost = s.toHost ++ [.done rq opFirmware] ∧ t.mem = s.mem) ∧
      (Config.signatureGood image sig = false →
        exec (.firmwareUpdate rq image sig) s = .next (s.refuse rq opFirmware 0 noIndex))) ∧
    (∀ e : EccError,
      let reported (t : State) (kind cause : Nat) (at_ : Word × Word) : Prop := ∃ part, t.reports = s.reports ++
        [{ time := s.wafer, location := at_.1, address := at_.2, syndrome := e.syndrome, cause, kind, part }]
      (∀ loc addr, e.place = .corrected loc addr → ∃ t x, exec (.eccErrorDetected e) s = .next t ∧ reported t 0 0 (loc, addr) ∧
        t = { s with reports := t.reports, journal := t.journal, toHost := s.toHost ++ [.report x] }) ∧
      (∀ key, e.place = .line key → ∃ t, exec (.eccErrorDetected e) s = .next t ∧ reported t 1 0x13 (s.lineLocation key) ∧
        key ∈ t.poison ∧ (∀ k ∈ t.poison, k = key ∨ k ∈ s.poison) ∧ t.mem = s.mem ∧ t.cores = s.cores) ∧
      (∀ c i, e.place = .strandState c i → ∃ t, exec (.eccErrorDetected e) s = .next t ∧ t.mem = s.mem ∧
        reported t 7 0x13 (s.coreLocation c 9 i, (s.strand c i).pc) ∧
        (t.strand c i).life = .faulted ∧ (t.strand c i).tcause = 0x13 ∧ (t.strand c i).tpc = (s.strand c i).pc) ∧
      (∀ c w, e.place = .coreState c w → ∃ t, exec (.eccErrorDetected e) s = .next t ∧ t.mem = s.mem ∧
        reported t 7 0x13 (s.coreLocation c (w % 16) 0, 0) ∧ (∀ i, i < 16 → (t.strand c i).life = .faulted) ∧
        ∀ r, s.runOf c = some r → r.life = .live → ∃ q, t.run? r.part r.ctx = some q ∧ q.life = .stopped 1))
end

