-- ==== Sys2Proof/Laws/State.lean ====
section
/-! SUPPORT. What each update of the state leaves alone, field by field, and read-after-write for every unit. -/

namespace Sys2Proof.Machine

/-! ### Keyed lists -/

@[simp] theorem lookupD_assign_self {α : Type} (d v : α) (k : Nat) (l : List (Nat × α)) : lookupD d k (assign k v l) = v := by
  induction l with
  | nil => simp [assign, lookupD]
  | cons e r ih => obtain ⟨j, w⟩ := e; by_cases h : j = k <;> simp [assign, lookupD, h, ih]

theorem lookupD_assign_other {α : Type} (d v : α) (k j : Nat) (l : List (Nat × α)) (h : j ≠ k) :
    lookupD d j (assign k v l) = lookupD d j l := by
  induction l with
  | nil => simp [assign, lookupD, Ne.symm h]
  | cons e r ih =>
    obtain ⟨i, w⟩ := e
    by_cases hk : i = k
    · simp [assign, lookupD, hk, Ne.symm h]
    · simp [assign, lookupD, hk, ih]

theorem assign_assign {α : Type} (k : Nat) (v w : α) (l : List (Nat × α)) : assign k v (assign k w l) = assign k v l := by
  induction l with
  | nil => simp [assign]
  | cons e r ih => obtain ⟨j, u⟩ := e; by_cases h : j = k <;> simp [assign, h, ih]

/-! ### State -/

@[simp] theorem State.setCore_cur (s : State) (c : Nat) (k : Core) : (s.setCore c k).cur = s.cur := rfl
@[simp] theorem State.setCore_ir (s : State) (c : Nat) (k : Core) : (s.setCore c k).ir = s.ir := rfl
@[simp] theorem State.setCore_agenda (s : State) (c : Nat) (k : Core) : (s.setCore c k).agenda = s.agenda := rfl
@[simp] theorem State.setCore_turn (s : State) (c : Nat) (k : Core) : (s.setCore c k).turn = s.turn := rfl
@[simp] theorem State.setCore_fresh (s : State) (c : Nat) (k : Core) : (s.setCore c k).fresh = s.fresh := rfl
@[simp] theorem State.setCore_wafer (s : State) (c : Nat) (k : Core) : (s.setCore c k).wafer = s.wafer := rfl
@[simp] theorem State.setCore_mem (s : State) (c : Nat) (k : Core) : (s.setCore c k).mem = s.mem := rfl
@[simp] theorem State.setCore_serials (s : State) (c : Nat) (k : Core) : (s.setCore c k).serials = s.serials := rfl
@[simp] theorem State.setCore_poison (s : State) (c : Nat) (k : Core) : (s.setCore c k).poison = s.poison := rfl
@[simp] theorem State.setCore_lineKeys (s : State) (c : Nat) (k : Core) : (s.setCore c k).lineKeys = s.lineKeys := rfl
@[simp] theorem State.setCore_clusters (s : State) (c : Nat) (k : Core) : (s.setCore c k).clusters = s.clusters := rfl
@[simp] theorem State.setCore_slices (s : State) (c : Nat) (k : Core) : (s.setCore c k).slices = s.slices := rfl
@[simp] theorem State.setCore_reticles (s : State) (c : Nat) (k : Core) : (s.setCore c k).reticles = s.reticles := rfl
@[simp] theorem State.setCore_partitions (s : State) (c : Nat) (k : Core) : (s.setCore c k).partitions = s.partitions := rfl
@[simp] theorem State.setCore_runs (s : State) (c : Nat) (k : Core) : (s.setCore c k).runs = s.runs := rfl
@[simp] theorem State.setCore_groups (s : State) (c : Nat) (k : Core) : (s.setCore c k).groups = s.groups := rfl
@[simp] theorem State.setCore_changes (s : State) (c : Nat) (k : Core) : (s.setCore c k).changes = s.changes := rfl
@[simp] theorem State.setCore_saved (s : State) (c : Nat) (k : Core) : (s.setCore c k).saved = s.saved := rfl
@[simp] theorem State.setCore_ejected (s : State) (c : Nat) (k : Core) : (s.setCore c k).ejected = s.ejected := rfl
@[simp] theorem State.setCore_ejectSections (s : State) (c : Nat) (k : Core) : (s.setCore c k).ejectSections = s.ejectSections := rfl
@[simp] theorem State.setCore_keySlots (s : State) (c : Nat) (k : Core) : (s.setCore c k).keySlots = s.keySlots := rfl
@[simp] theorem State.setCore_nsel (s : State) (c : Nat) (k : Core) : (s.setCore c k).nsel = s.nsel := rfl
@[simp] theorem State.setCore_nselDue (s : State) (c : Nat) (k : Core) : (s.setCore c k).nselDue = s.nselDue := rfl
@[simp] theorem State.setCore_journal (s : State) (c : Nat) (k : Core) : (s.setCore c k).journal = s.journal := rfl
@[simp] theorem State.setCore_startRecords (s : State) (c : Nat) (k : Core) : (s.setCore c k).startRecords = s.startRecords := rfl
@[simp] theorem State.setCore_reports (s : State) (c : Nat) (k : Core) : (s.setCore c k).reports = s.reports := rfl
@[simp] theorem State.setCore_toHost (s : State) (c : Nat) (k : Core) : (s.setCore c k).toHost = s.toHost := rfl
@[simp] theorem State.setCore_chiplets (s : State) (c : Nat) (k : Core) : (s.setCore c k).chiplets = s.chiplets := rfl
@[simp] theorem State.setCore_blocks (s : State) (c : Nat) (k : Core) : (s.setCore c k).blocks = s.blocks := rfl
@[simp] theorem State.setCore_deadBonds (s : State) (c : Nat) (k : Core) : (s.setCore c k).deadBonds = s.deadBonds := rfl
@[simp] theorem State.setCore_bondReadings (s : State) (c : Nat) (k : Core) : (s.setCore c k).bondReadings = s.bondReadings := rfl
@[simp] theorem State.setCore_routing (s : State) (c : Nat) (k : Core) : (s.setCore c k).routing = s.routing := rfl
@[simp] theorem State.setCore_update (s : State) (c : Nat) (k : Core) : (s.setCore c k).update = s.update := rfl
@[simp] theorem State.setCore_bands (s : State) (c : Nat) (k : Core) : (s.setCore c k).bands = s.bands := rfl
@[simp] theorem State.setCore_lowPower (s : State) (c : Nat) (k : Core) : (s.setCore c k).lowPower = s.lowPower := rfl
@[simp] theorem State.setCore_links (s : State) (c : Nat) (k : Core) : (s.setCore c k).links = s.links := rfl
@[simp] theorem State.setCore_firmware (s : State) (c : Nat) (k : Core) : (s.setCore c k).firmware = s.firmware := rfl
@[simp] theorem State.setCore_nextFirmware (s : State) (c : Nat) (k : Core) : (s.setCore c k).nextFirmware = s.nextFirmware := rfl
@[simp] theorem State.setCore_modulePower (s : State) (c : Nat) (k : Core) : (s.setCore c k).modulePower = s.modulePower := rfl

@[simp] theorem State.modCore_cur (s : State) (c : Nat) (f : Core → Core) : (s.modCore c f).cur = s.cur := rfl
@[simp] theorem State.modCore_ir (s : State) (c : Nat) (f : Core → Core) : (s.modCore c f).ir = s.ir := rfl
@[simp] theorem State.modCore_agenda (s : State) (c : Nat) (f : Core → Core) : (s.modCore c f).agenda = s.agenda := rfl
@[simp] theorem State.modCore_turn (s : State) (c : Nat) (f : Core → Core) : (s.modCore c f).turn = s.turn := rfl
@[simp] theorem State.modCore_fresh (s : State) (c : Nat) (f : Core → Core) : (s.modCore c f).fresh = s.fresh := rfl
@[simp] theorem State.modCore_wafer (s : State) (c : Nat) (f : Core → Core) : (s.modCore c f).wafer = s.wafer := rfl
@[simp] theorem State.modCore_mem (s : State) (c : Nat) (f : Core → Core) : (s.modCore c f).mem = s.mem := rfl
@[simp] theorem State.modCore_serials (s : State) (c : Nat) (f : Core → Core) : (s.modCore c f).serials = s.serials := rfl
@[simp] theorem State.modCore_poison (s : State) (c : Nat) (f : Core → Core) : (s.modCore c f).poison = s.poison := rfl
@[simp] theorem State.modCore_lineKeys (s : State) (c : Nat) (f : Core → Core) : (s.modCore c f).lineKeys = s.lineKeys := rfl
@[simp] theorem State.modCore_clusters (s : State) (c : Nat) (f : Core → Core) : (s.modCore c f).clusters = s.clusters := rfl
@[simp] theorem State.modCore_slices (s : State) (c : Nat) (f : Core → Core) : (s.modCore c f).slices = s.slices := rfl
@[simp] theorem State.modCore_reticles (s : State) (c : Nat) (f : Core → Core) : (s.modCore c f).reticles = s.reticles := rfl
@[simp] theorem State.modCore_partitions (s : State) (c : Nat) (f : Core → Core) : (s.modCore c f).partitions = s.partitions := rfl
@[simp] theorem State.modCore_runs (s : State) (c : Nat) (f : Core → Core) : (s.modCore c f).runs = s.runs := rfl
@[simp] theorem State.modCore_groups (s : State) (c : Nat) (f : Core → Core) : (s.modCore c f).groups = s.groups := rfl
@[simp] theorem State.modCore_changes (s : State) (c : Nat) (f : Core → Core) : (s.modCore c f).changes = s.changes := rfl
@[simp] theorem State.modCore_saved (s : State) (c : Nat) (f : Core → Core) : (s.modCore c f).saved = s.saved := rfl
@[simp] theorem State.modCore_ejected (s : State) (c : Nat) (f : Core → Core) : (s.modCore c f).ejected = s.ejected := rfl
@[simp] theorem State.modCore_ejectSections (s : State) (c : Nat) (f : Core → Core) : (s.modCore c f).ejectSections = s.ejectSections := rfl
@[simp] theorem State.modCore_keySlots (s : State) (c : Nat) (f : Core → Core) : (s.modCore c f).keySlots = s.keySlots := rfl
@[simp] theorem State.modCore_nsel (s : State) (c : Nat) (f : Core → Core) : (s.modCore c f).nsel = s.nsel := rfl
@[simp] theorem State.modCore_nselDue (s : State) (c : Nat) (f : Core → Core) : (s.modCore c f).nselDue = s.nselDue := rfl
@[simp] theorem State.modCore_journal (s : State) (c : Nat) (f : Core → Core) : (s.modCore c f).journal = s.journal := rfl
@[simp] theorem State.modCore_startRecords (s : State) (c : Nat) (f : Core → Core) : (s.modCore c f).startRecords = s.startRecords := rfl
@[simp] theorem State.modCore_reports (s : State) (c : Nat) (f : Core → Core) : (s.modCore c f).reports = s.reports := rfl
@[simp] theorem State.modCore_toHost (s : State) (c : Nat) (f : Core → Core) : (s.modCore c f).toHost = s.toHost := rfl
@[simp] theorem State.modCore_chiplets (s : State) (c : Nat) (f : Core → Core) : (s.modCore c f).chiplets = s.chiplets := rfl
@[simp] theorem State.modCore_blocks (s : State) (c : Nat) (f : Core → Core) : (s.modCore c f).blocks = s.blocks := rfl
@[simp] theorem State.modCore_deadBonds (s : State) (c : Nat) (f : Core → Core) : (s.modCore c f).deadBonds = s.deadBonds := rfl
@[simp] theorem State.modCore_bondReadings (s : State) (c : Nat) (f : Core → Core) : (s.modCore c f).bondReadings = s.bondReadings := rfl
@[simp] theorem State.modCore_routing (s : State) (c : Nat) (f : Core → Core) : (s.modCore c f).routing = s.routing := rfl
@[simp] theorem State.modCore_update (s : State) (c : Nat) (f : Core → Core) : (s.modCore c f).update = s.update := rfl
@[simp] theorem State.modCore_bands (s : State) (c : Nat) (f : Core → Core) : (s.modCore c f).bands = s.bands := rfl
@[simp] theorem State.modCore_lowPower (s : State) (c : Nat) (f : Core → Core) : (s.modCore c f).lowPower = s.lowPower := rfl
@[simp] theorem State.modCore_links (s : State) (c : Nat) (f : Core → Core) : (s.modCore c f).links = s.links := rfl
@[simp] theorem State.modCore_firmware (s : State) (c : Nat) (f : Core → Core) : (s.modCore c f).firmware = s.firmware := rfl
@[simp] theorem State.modCore_nextFirmware (s : State) (c : Nat) (f : Core → Core) : (s.modCore c f).nextFirmware = s.nextFirmware := rfl
@[simp] theorem State.modCore_modulePower (s : State) (c : Nat) (f : Core → Core) : (s.modCore c f).modulePower = s.modulePower := rfl

@[simp] theorem State.setStrand_cur (s : State) (c n : Nat) (t : Strand) : (s.setStrand c n t).cur = s.cur := rfl
@[simp] theorem State.setStrand_ir (s : State) (c n : Nat) (t : Strand) : (s.setStrand c n t).ir = s.ir := rfl
@[simp] theorem State.setStrand_agenda (s : State) (c n : Nat) (t : Strand) : (s.setStrand c n t).agenda = s.agenda := rfl
@[simp] theorem State.setStrand_turn (s : State) (c n : Nat) (t : Strand) : (s.setStrand c n t).turn = s.turn := rfl
@[simp] theorem State.setStrand_fresh (s : State) (c n : Nat) (t : Strand) : (s.setStrand c n t).fresh = s.fresh := rfl
@[simp] theorem State.setStrand_wafer (s : State) (c n : Nat) (t : Strand) : (s.setStrand c n t).wafer = s.wafer := rfl
@[simp] theorem State.setStrand_mem (s : State) (c n : Nat) (t : Strand) : (s.setStrand c n t).mem = s.mem := rfl
@[simp] theorem State.setStrand_serials (s : State) (c n : Nat) (t : Strand) : (s.setStrand c n t).serials = s.serials := rfl
@[simp] theorem State.setStrand_poison (s : State) (c n : Nat) (t : Strand) : (s.setStrand c n t).poison = s.poison := rfl
@[simp] theorem State.setStrand_lineKeys (s : State) (c n : Nat) (t : Strand) : (s.setStrand c n t).lineKeys = s.lineKeys := rfl
@[simp] theorem State.setStrand_clusters (s : State) (c n : Nat) (t : Strand) : (s.setStrand c n t).clusters = s.clusters := rfl
@[simp] theorem State.setStrand_slices (s : State) (c n : Nat) (t : Strand) : (s.setStrand c n t).slices = s.slices := rfl
@[simp] theorem State.setStrand_reticles (s : State) (c n : Nat) (t : Strand) : (s.setStrand c n t).reticles = s.reticles := rfl
@[simp] theorem State.setStrand_partitions (s : State) (c n : Nat) (t : Strand) : (s.setStrand c n t).partitions = s.partitions := rfl
@[simp] theorem State.setStrand_runs (s : State) (c n : Nat) (t : Strand) : (s.setStrand c n t).runs = s.runs := rfl
@[simp] theorem State.setStrand_groups (s : State) (c n : Nat) (t : Strand) : (s.setStrand c n t).groups = s.groups := rfl
@[simp] theorem State.setStrand_changes (s : State) (c n : Nat) (t : Strand) : (s.setStrand c n t).changes = s.changes := rfl
@[simp] theorem State.setStrand_saved (s : State) (c n : Nat) (t : Strand) : (s.setStrand c n t).saved = s.saved := rfl
@[simp] theorem State.setStrand_ejected (s : State) (c n : Nat) (t : Strand) : (s.setStrand c n t).ejected = s.ejected := rfl
@[simp] theorem State.setStrand_ejectSections (s : State) (c n : Nat) (t : Strand) : (s.setStrand c n t).ejectSections = s.ejectSections := rfl
@[simp] theorem State.setStrand_keySlots (s : State) (c n : Nat) (t : Strand) : (s.setStrand c n t).keySlots = s.keySlots := rfl
@[simp] theorem State.setStrand_nsel (s : State) (c n : Nat) (t : Strand) : (s.setStrand c n t).nsel = s.nsel := rfl
@[simp] theorem State.setStrand_nselDue (s : State) (c n : Nat) (t : Strand) : (s.setStrand c n t).nselDue = s.nselDue := rfl
@[simp] theorem State.setStrand_journal (s : State) (c n : Nat) (t : Strand) : (s.setStrand c n t).journal = s.journal := rfl
@[simp] theorem State.setStrand_startRecords (s : State) (c n : Nat) (t : Strand) : (s.setStrand c n t).startRecords = s.startRecords := rfl
@[simp] theorem State.setStrand_reports (s : State) (c n : Nat) (t : Strand) : (s.setStrand c n t).reports = s.reports := rfl
@[simp] theorem State.setStrand_toHost (s : State) (c n : Nat) (t : Strand) : (s.setStrand c n t).toHost = s.toHost := rfl
@[simp] theorem State.setStrand_chiplets (s : State) (c n : Nat) (t : Strand) : (s.setStrand c n t).chiplets = s.chiplets := rfl
@[simp] theorem State.setStrand_blocks (s : State) (c n : Nat) (t : Strand) : (s.setStrand c n t).blocks = s.blocks := rfl
@[simp] theorem State.setStrand_deadBonds (s : State) (c n : Nat) (t : Strand) : (s.setStrand c n t).deadBonds = s.deadBonds := rfl
@[simp] theorem State.setStrand_bondReadings (s : State) (c n : Nat) (t : Strand) : (s.setStrand c n t).bondReadings = s.bondReadings := rfl
@[simp] theorem State.setStrand_routing (s : State) (c n : Nat) (t : Strand) : (s.setStrand c n t).routing = s.routing := rfl
@[simp] theorem State.setStrand_update (s : State) (c n : Nat) (t : Strand) : (s.setStrand c n t).update = s.update := rfl
@[simp] theorem State.setStrand_bands (s : State) (c n : Nat) (t : Strand) : (s.setStrand c n t).bands = s.bands := rfl
@[simp] theorem State.setStrand_lowPower (s : State) (c n : Nat) (t : Strand) : (s.setStrand c n t).lowPower = s.lowPower := rfl
@[simp] theorem State.setStrand_links (s : State) (c n : Nat) (t : Strand) : (s.setStrand c n t).links = s.links := rfl
@[simp] theorem State.setStrand_firmware (s : State) (c n : Nat) (t : Strand) : (s.setStrand c n t).firmware = s.firmware := rfl
@[simp] theorem State.setStrand_nextFirmware (s : State) (c n : Nat) (t : Strand) : (s.setStrand c n t).nextFirmware = s.nextFirmware := rfl
@[simp] theorem State.setStrand_modulePower (s : State) (c n : Nat) (t : Strand) : (s.setStrand c n t).modulePower = s.modulePower := rfl

@[simp] theorem State.modStrand_cur (s : State) (c n : Nat) (f : Strand → Strand) : (s.modStrand c n f).cur = s.cur := rfl
@[simp] theorem State.modStrand_ir (s : State) (c n : Nat) (f : Strand → Strand) : (s.modStrand c n f).ir = s.ir := rfl
@[simp] theorem State.modStrand_agenda (s : State) (c n : Nat) (f : Strand → Strand) : (s.modStrand c n f).agenda = s.agenda := rfl
@[simp] theorem State.modStrand_turn (s : State) (c n : Nat) (f : Strand → Strand) : (s.modStrand c n f).turn = s.turn := rfl
@[simp] theorem State.modStrand_fresh (s : State) (c n : Nat) (f : Strand → Strand) : (s.modStrand c n f).fresh = s.fresh := rfl
@[simp] theorem State.modStrand_wafer (s : State) (c n : Nat) (f : Strand → Strand) : (s.modStrand c n f).wafer = s.wafer := rfl
@[simp] theorem State.modStrand_mem (s : State) (c n : Nat) (f : Strand → Strand) : (s.modStrand c n f).mem = s.mem := rfl
@[simp] theorem State.modStrand_serials (s : State) (c n : Nat) (f : Strand → Strand) : (s.modStrand c n f).serials = s.serials := rfl
@[simp] theorem State.modStrand_poison (s : State) (c n : Nat) (f : Strand → Strand) : (s.modStrand c n f).poison = s.poison := rfl
@[simp] theorem State.modStrand_lineKeys (s : State) (c n : Nat) (f : Strand → Strand) : (s.modStrand c n f).lineKeys = s.lineKeys := rfl
@[simp] theorem State.modStrand_clusters (s : State) (c n : Nat) (f : Strand → Strand) : (s.modStrand c n f).clusters = s.clusters := rfl
@[simp] theorem State.modStrand_slices (s : State) (c n : Nat) (f : Strand → Strand) : (s.modStrand c n f).slices = s.slices := rfl
@[simp] theorem State.modStrand_reticles (s : State) (c n : Nat) (f : Strand → Strand) : (s.modStrand c n f).reticles = s.reticles := rfl
@[simp] theorem State.modStrand_partitions (s : State) (c n : Nat) (f : Strand → Strand) : (s.modStrand c n f).partitions = s.partitions := rfl
@[simp] theorem State.modStrand_runs (s : State) (c n : Nat) (f : Strand → Strand) : (s.modStrand c n f).runs = s.runs := rfl
@[simp] theorem State.modStrand_groups (s : State) (c n : Nat) (f : Strand → Strand) : (s.modStrand c n f).groups = s.groups := rfl
@[simp] theorem State.modStrand_changes (s : State) (c n : Nat) (f : Strand → Strand) : (s.modStrand c n f).changes = s.changes := rfl
@[simp] theorem State.modStrand_saved (s : State) (c n : Nat) (f : Strand → Strand) : (s.modStrand c n f).saved = s.saved := rfl
@[simp] theorem State.modStrand_ejected (s : State) (c n : Nat) (f : Strand → Strand) : (s.modStrand c n f).ejected = s.ejected := rfl
@[simp] theorem State.modStrand_ejectSections (s : State) (c n : Nat) (f : Strand → Strand) : (s.modStrand c n f).ejectSections = s.ejectSections := rfl
@[simp] theorem State.modStrand_keySlots (s : State) (c n : Nat) (f : Strand → Strand) : (s.modStrand c n f).keySlots = s.keySlots := rfl
@[simp] theorem State.modStrand_nsel (s : State) (c n : Nat) (f : Strand → Strand) : (s.modStrand c n f).nsel = s.nsel := rfl
@[simp] theorem State.modStrand_nselDue (s : State) (c n : Nat) (f : Strand → Strand) : (s.modStrand c n f).nselDue = s.nselDue := rfl
@[simp] theorem State.modStrand_journal (s : State) (c n : Nat) (f : Strand → Strand) : (s.modStrand c n f).journal = s.journal := rfl
@[simp] theorem State.modStrand_startRecords (s : State) (c n : Nat) (f : Strand → Strand) : (s.modStrand c n f).startRecords = s.startRecords := rfl
@[simp] theorem State.modStrand_reports (s : State) (c n : Nat) (f : Strand → Strand) : (s.modStrand c n f).reports = s.reports := rfl
@[simp] theorem State.modStrand_toHost (s : State) (c n : Nat) (f : Strand → Strand) : (s.modStrand c n f).toHost = s.toHost := rfl
@[simp] theorem State.modStrand_chiplets (s : State) (c n : Nat) (f : Strand → Strand) : (s.modStrand c n f).chiplets = s.chiplets := rfl
@[simp] theorem State.modStrand_blocks (s : State) (c n : Nat) (f : Strand → Strand) : (s.modStrand c n f).blocks = s.blocks := rfl
@[simp] theorem State.modStrand_deadBonds (s : State) (c n : Nat) (f : Strand → Strand) : (s.modStrand c n f).deadBonds = s.deadBonds := rfl
@[simp] theorem State.modStrand_bondReadings (s : State) (c n : Nat) (f : Strand → Strand) : (s.modStrand c n f).bondReadings = s.bondReadings := rfl
@[simp] theorem State.modStrand_routing (s : State) (c n : Nat) (f : Strand → Strand) : (s.modStrand c n f).routing = s.routing := rfl
@[simp] theorem State.modStrand_update (s : State) (c n : Nat) (f : Strand → Strand) : (s.modStrand c n f).update = s.update := rfl
@[simp] theorem State.modStrand_bands (s : State) (c n : Nat) (f : Strand → Strand) : (s.modStrand c n f).bands = s.bands := rfl
@[simp] theorem State.modStrand_lowPower (s : State) (c n : Nat) (f : Strand → Strand) : (s.modStrand c n f).lowPower = s.lowPower := rfl
@[simp] theorem State.modStrand_links (s : State) (c n : Nat) (f : Strand → Strand) : (s.modStrand c n f).links = s.links := rfl
@[simp] theorem State.modStrand_firmware (s : State) (c n : Nat) (f : Strand → Strand) : (s.modStrand c n f).firmware = s.firmware := rfl
@[simp] theorem State.modStrand_nextFirmware (s : State) (c n : Nat) (f : Strand → Strand) : (s.modStrand c n f).nextFirmware = s.nextFirmware := rfl
@[simp] theorem State.modStrand_modulePower (s : State) (c n : Nat) (f : Strand → Strand) : (s.modStrand c n f).modulePower = s.modulePower := rfl

@[simp] theorem State.modMe_cur (s : State) (f : Strand → Strand) : (s.modMe f).cur = s.cur := rfl
@[simp] theorem State.modMe_ir (s : State) (f : Strand → Strand) : (s.modMe f).ir = s.ir := rfl
@[simp] theorem State.modMe_agenda (s : State) (f : Strand → Strand) : (s.modMe f).agenda = s.agenda := rfl
@[simp] theorem State.modMe_turn (s : State) (f : Strand → Strand) : (s.modMe f).turn = s.turn := rfl
@[simp] theorem State.modMe_fresh (s : State) (f : Strand → Strand) : (s.modMe f).fresh = s.fresh := rfl
@[simp] theorem State.modMe_wafer (s : State) (f : Strand → Strand) : (s.modMe f).wafer = s.wafer := rfl
@[simp] theorem State.modMe_mem (s : State) (f : Strand → Strand) : (s.modMe f).mem = s.mem := rfl
@[simp] theorem State.modMe_serials (s : State) (f : Strand → Strand) : (s.modMe f).serials = s.serials := rfl
@[simp] theorem State.modMe_poison (s : State) (f : Strand → Strand) : (s.modMe f).poison = s.poison := rfl
@[simp] theorem State.modMe_lineKeys (s : State) (f : Strand → Strand) : (s.modMe f).lineKeys = s.lineKeys := rfl
@[simp] theorem State.modMe_clusters (s : State) (f : Strand → Strand) : (s.modMe f).clusters = s.clusters := rfl
@[simp] theorem State.modMe_slices (s : State) (f : Strand → Strand) : (s.modMe f).slices = s.slices := rfl
@[simp] theorem State.modMe_reticles (s : State) (f : Strand → Strand) : (s.modMe f).reticles = s.reticles := rfl
@[simp] theorem State.modMe_partitions (s : State) (f : Strand → Strand) : (s.modMe f).partitions = s.partitions := rfl
@[simp] theorem State.modMe_runs (s : State) (f : Strand → Strand) : (s.modMe f).runs = s.runs := rfl
@[simp] theorem State.modMe_groups (s : State) (f : Strand → Strand) : (s.modMe f).groups = s.groups := rfl
@[simp] theorem State.modMe_changes (s : State) (f : Strand → Strand) : (s.modMe f).changes = s.changes := rfl
@[simp] theorem State.modMe_saved (s : State) (f : Strand → Strand) : (s.modMe f).saved = s.saved := rfl
@[simp] theorem State.modMe_ejected (s : State) (f : Strand → Strand) : (s.modMe f).ejected = s.ejected := rfl
@[simp] theorem State.modMe_ejectSections (s : State) (f : Strand → Strand) : (s.modMe f).ejectSections = s.ejectSections := rfl
@[simp] theorem State.modMe_keySlots (s : State) (f : Strand → Strand) : (s.modMe f).keySlots = s.keySlots := rfl
@[simp] theorem State.modMe_nsel (s : State) (f : Strand → Strand) : (s.modMe f).nsel = s.nsel := rfl
@[simp] theorem State.modMe_nselDue (s : State) (f : Strand → Strand) : (s.modMe f).nselDue = s.nselDue := rfl
@[simp] theorem State.modMe_journal (s : State) (f : Strand → Strand) : (s.modMe f).journal = s.journal := rfl
@[simp] theorem State.modMe_startRecords (s : State) (f : Strand → Strand) : (s.modMe f).startRecords = s.startRecords := rfl
@[simp] theorem State.modMe_reports (s : State) (f : Strand → Strand) : (s.modMe f).reports = s.reports := rfl
@[simp] theorem State.modMe_toHost (s : State) (f : Strand → Strand) : (s.modMe f).toHost = s.toHost := rfl
@[simp] theorem State.modMe_chiplets (s : State) (f : Strand → Strand) : (s.modMe f).chiplets = s.chiplets := rfl
@[simp] theorem State.modMe_blocks (s : State) (f : Strand → Strand) : (s.modMe f).blocks = s.blocks := rfl
@[simp] theorem State.modMe_deadBonds (s : State) (f : Strand → Strand) : (s.modMe f).deadBonds = s.deadBonds := rfl
@[simp] theorem State.modMe_bondReadings (s : State) (f : Strand → Strand) : (s.modMe f).bondReadings = s.bondReadings := rfl
@[simp] theorem State.modMe_routing (s : State) (f : Strand → Strand) : (s.modMe f).routing = s.routing := rfl
@[simp] theorem State.modMe_update (s : State) (f : Strand → Strand) : (s.modMe f).update = s.update := rfl
@[simp] theorem State.modMe_bands (s : State) (f : Strand → Strand) : (s.modMe f).bands = s.bands := rfl
@[simp] theorem State.modMe_lowPower (s : State) (f : Strand → Strand) : (s.modMe f).lowPower = s.lowPower := rfl
@[simp] theorem State.modMe_links (s : State) (f : Strand → Strand) : (s.modMe f).links = s.links := rfl
@[simp] theorem State.modMe_firmware (s : State) (f : Strand → Strand) : (s.modMe f).firmware = s.firmware := rfl
@[simp] theorem State.modMe_nextFirmware (s : State) (f : Strand → Strand) : (s.modMe f).nextFirmware = s.nextFirmware := rfl
@[simp] theorem State.modMe_modulePower (s : State) (f : Strand → Strand) : (s.modMe f).modulePower = s.modulePower := rfl

@[simp] theorem State.setCluster_cur (s : State) (k : Nat) (v : Cluster) : (s.setCluster k v).cur = s.cur := rfl
@[simp] theorem State.setCluster_ir (s : State) (k : Nat) (v : Cluster) : (s.setCluster k v).ir = s.ir := rfl
@[simp] theorem State.setCluster_agenda (s : State) (k : Nat) (v : Cluster) : (s.setCluster k v).agenda = s.agenda := rfl
@[simp] theorem State.setCluster_turn (s : State) (k : Nat) (v : Cluster) : (s.setCluster k v).turn = s.turn := rfl
@[simp] theorem State.setCluster_fresh (s : State) (k : Nat) (v : Cluster) : (s.setCluster k v).fresh = s.fresh := rfl
@[simp] theorem State.setCluster_wafer (s : State) (k : Nat) (v : Cluster) : (s.setCluster k v).wafer = s.wafer := rfl
@[simp] theorem State.setCluster_mem (s : State) (k : Nat) (v : Cluster) : (s.setCluster k v).mem = s.mem := rfl
@[simp] theorem State.setCluster_serials (s : State) (k : Nat) (v : Cluster) : (s.setCluster k v).serials = s.serials := rfl
@[simp] theorem State.setCluster_poison (s : State) (k : Nat) (v : Cluster) : (s.setCluster k v).poison = s.poison := rfl
@[simp] theorem State.setCluster_lineKeys (s : State) (k : Nat) (v : Cluster) : (s.setCluster k v).lineKeys = s.lineKeys := rfl
@[simp] theorem State.setCluster_cores (s : State) (k : Nat) (v : Cluster) : (s.setCluster k v).cores = s.cores := rfl
@[simp] theorem State.setCluster_slices (s : State) (k : Nat) (v : Cluster) : (s.setCluster k v).slices = s.slices := rfl
@[simp] theorem State.setCluster_reticles (s : State) (k : Nat) (v : Cluster) : (s.setCluster k v).reticles = s.reticles := rfl
@[simp] theorem State.setCluster_partitions (s : State) (k : Nat) (v : Cluster) : (s.setCluster k v).partitions = s.partitions := rfl
@[simp] theorem State.setCluster_runs (s : State) (k : Nat) (v : Cluster) : (s.setCluster k v).runs = s.runs := rfl
@[simp] theorem State.setCluster_groups (s : State) (k : Nat) (v : Cluster) : (s.setCluster k v).groups = s.groups := rfl
@[simp] theorem State.setCluster_changes (s : State) (k : Nat) (v : Cluster) : (s.setCluster k v).changes = s.changes := rfl
@[simp] theorem State.setCluster_saved (s : State) (k : Nat) (v : Cluster) : (s.setCluster k v).saved = s.saved := rfl
@[simp] theorem State.setCluster_ejected (s : State) (k : Nat) (v : Cluster) : (s.setCluster k v).ejected = s.ejected := rfl
@[simp] theorem State.setCluster_ejectSections (s : State) (k : Nat) (v : Cluster) : (s.setCluster k v).ejectSections = s.ejectSections := rfl
@[simp] theorem State.setCluster_keySlots (s : State) (k : Nat) (v : Cluster) : (s.setCluster k v).keySlots = s.keySlots := rfl
@[simp] theorem State.setCluster_nsel (s : State) (k : Nat) (v : Cluster) : (s.setCluster k v).nsel = s.nsel := rfl
@[simp] theorem State.setCluster_nselDue (s : State) (k : Nat) (v : Cluster) : (s.setCluster k v).nselDue = s.nselDue := rfl
@[simp] theorem State.setCluster_journal (s : State) (k : Nat) (v : Cluster) : (s.setCluster k v).journal = s.journal := rfl
@[simp] theorem State.setCluster_startRecords (s : State) (k : Nat) (v : Cluster) : (s.setCluster k v).startRecords = s.startRecords := rfl
@[simp] theorem State.setCluster_reports (s : State) (k : Nat) (v : Cluster) : (s.setCluster k v).reports = s.reports := rfl
@[simp] theorem State.setCluster_toHost (s : State) (k : Nat) (v : Cluster) : (s.setCluster k v).toHost = s.toHost := rfl
@[simp] theorem State.setCluster_chiplets (s : State) (k : Nat) (v : Cluster) : (s.setCluster k v).chiplets = s.chiplets := rfl
@[simp] theorem State.setCluster_blocks (s : State) (k : Nat) (v : Cluster) : (s.setCluster k v).blocks = s.blocks := rfl
@[simp] theorem State.setCluster_deadBonds (s : State) (k : Nat) (v : Cluster) : (s.setCluster k v).deadBonds = s.deadBonds := rfl
@[simp] theorem State.setCluster_bondReadings (s : State) (k : Nat) (v : Cluster) : (s.setCluster k v).bondReadings = s.bondReadings := rfl
@[simp] theorem State.setCluster_routing (s : State) (k : Nat) (v : Cluster) : (s.setCluster k v).routing = s.routing := rfl
@[simp] theorem State.setCluster_update (s : State) (k : Nat) (v : Cluster) : (s.setCluster k v).update = s.update := rfl
@[simp] theorem State.setCluster_bands (s : State) (k : Nat) (v : Cluster) : (s.setCluster k v).bands = s.bands := rfl
@[simp] theorem State.setCluster_lowPower (s : State) (k : Nat) (v : Cluster) : (s.setCluster k v).lowPower = s.lowPower := rfl
@[simp] theorem State.setCluster_links (s : State) (k : Nat) (v : Cluster) : (s.setCluster k v).links = s.links := rfl
@[simp] theorem State.setCluster_firmware (s : State) (k : Nat) (v : Cluster) : (s.setCluster k v).firmware = s.firmware := rfl
@[simp] theorem State.setCluster_nextFirmware (s : State) (k : Nat) (v : Cluster) : (s.setCluster k v).nextFirmware = s.nextFirmware := rfl
@[simp] theorem State.setCluster_modulePower (s : State) (k : Nat) (v : Cluster) : (s.setCluster k v).modulePower = s.modulePower := rfl

@[simp] theorem State.modCluster_cur (s : State) (k : Nat) (f : Cluster → Cluster) : (s.modCluster k f).cur = s.cur := rfl
@[simp] theorem State.modCluster_ir (s : State) (k : Nat) (f : Cluster → Cluster) : (s.modCluster k f).ir = s.ir := rfl
@[simp] theorem State.modCluster_agenda (s : State) (k : Nat) (f : Cluster → Cluster) : (s.modCluster k f).agenda = s.agenda := rfl
@[simp] theorem State.modCluster_turn (s : State) (k : Nat) (f : Cluster → Cluster) : (s.modCluster k f).turn = s.turn := rfl
@[simp] theorem State.modCluster_fresh (s : State) (k : Nat) (f : Cluster → Cluster) : (s.modCluster k f).fresh = s.fresh := rfl
@[simp] theorem State.modCluster_wafer (s : State) (k : Nat) (f : Cluster → Cluster) : (s.modCluster k f).wafer = s.wafer := rfl
@[simp] theorem State.modCluster_mem (s : State) (k : Nat) (f : Cluster → Cluster) : (s.modCluster k f).mem = s.mem := rfl
@[simp] theorem State.modCluster_serials (s : State) (k : Nat) (f : Cluster → Cluster) : (s.modCluster k f).serials = s.serials := rfl
@[simp] theorem State.modCluster_poison (s : State) (k : Nat) (f : Cluster → Cluster) : (s.modCluster k f).poison = s.poison := rfl
@[simp] theorem State.modCluster_lineKeys (s : State) (k : Nat) (f : Cluster → Cluster) : (s.modCluster k f).lineKeys = s.lineKeys := rfl
@[simp] theorem State.modCluster_cores (s : State) (k : Nat) (f : Cluster → Cluster) : (s.modCluster k f).cores = s.cores := rfl
@[simp] theorem State.modCluster_slices (s : State) (k : Nat) (f : Cluster → Cluster) : (s.modCluster k f).slices = s.slices := rfl
@[simp] theorem State.modCluster_reticles (s : State) (k : Nat) (f : Cluster → Cluster) : (s.modCluster k f).reticles = s.reticles := rfl
@[simp] theorem State.modCluster_partitions (s : State) (k : Nat) (f : Cluster → Cluster) : (s.modCluster k f).partitions = s.partitions := rfl
@[simp] theorem State.modCluster_runs (s : State) (k : Nat) (f : Cluster → Cluster) : (s.modCluster k f).runs = s.runs := rfl
@[simp] theorem State.modCluster_groups (s : State) (k : Nat) (f : Cluster → Cluster) : (s.modCluster k f).groups = s.groups := rfl
@[simp] theorem State.modCluster_changes (s : State) (k : Nat) (f : Cluster → Cluster) : (s.modCluster k f).changes = s.changes := rfl
@[simp] theorem State.modCluster_saved (s : State) (k : Nat) (f : Cluster → Cluster) : (s.modCluster k f).saved = s.saved := rfl
@[simp] theorem State.modCluster_ejected (s : State) (k : Nat) (f : Cluster → Cluster) : (s.modCluster k f).ejected = s.ejected := rfl
@[simp] theorem State.modCluster_ejectSections (s : State) (k : Nat) (f : Cluster → Cluster) : (s.modCluster k f).ejectSections = s.ejectSections := rfl
@[simp] theorem State.modCluster_keySlots (s : State) (k : Nat) (f : Cluster → Cluster) : (s.modCluster k f).keySlots = s.keySlots := rfl
@[simp] theorem State.modCluster_nsel (s : State) (k : Nat) (f : Cluster → Cluster) : (s.modCluster k f).nsel = s.nsel := rfl
@[simp] theorem State.modCluster_nselDue (s : State) (k : Nat) (f : Cluster → Cluster) : (s.modCluster k f).nselDue = s.nselDue := rfl
@[simp] theorem State.modCluster_journal (s : State) (k : Nat) (f : Cluster → Cluster) : (s.modCluster k f).journal = s.journal := rfl
@[simp] theorem State.modCluster_startRecords (s : State) (k : Nat) (f : Cluster → Cluster) : (s.modCluster k f).startRecords = s.startRecords := rfl
@[simp] theorem State.modCluster_reports (s : State) (k : Nat) (f : Cluster → Cluster) : (s.modCluster k f).reports = s.reports := rfl
@[simp] theorem State.modCluster_toHost (s : State) (k : Nat) (f : Cluster → Cluster) : (s.modCluster k f).toHost = s.toHost := rfl
@[simp] theorem State.modCluster_chiplets (s : State) (k : Nat) (f : Cluster → Cluster) : (s.modCluster k f).chiplets = s.chiplets := rfl
@[simp] theorem State.modCluster_blocks (s : State) (k : Nat) (f : Cluster → Cluster) : (s.modCluster k f).blocks = s.blocks := rfl
@[simp] theorem State.modCluster_deadBonds (s : State) (k : Nat) (f : Cluster → Cluster) : (s.modCluster k f).deadBonds = s.deadBonds := rfl
@[simp] theorem State.modCluster_bondReadings (s : State) (k : Nat) (f : Cluster → Cluster) : (s.modCluster k f).bondReadings = s.bondReadings := rfl
@[simp] theorem State.modCluster_routing (s : State) (k : Nat) (f : Cluster → Cluster) : (s.modCluster k f).routing = s.routing := rfl
@[simp] theorem State.modCluster_update (s : State) (k : Nat) (f : Cluster → Cluster) : (s.modCluster k f).update = s.update := rfl
@[simp] theorem State.modCluster_bands (s : State) (k : Nat) (f : Cluster → Cluster) : (s.modCluster k f).bands = s.bands := rfl
@[simp] theorem State.modCluster_lowPower (s : State) (k : Nat) (f : Cluster → Cluster) : (s.modCluster k f).lowPower = s.lowPower := rfl
@[simp] theorem State.modCluster_links (s : State) (k : Nat) (f : Cluster → Cluster) : (s.modCluster k f).links = s.links := rfl
@[simp] theorem State.modCluster_firmware (s : State) (k : Nat) (f : Cluster → Cluster) : (s.modCluster k f).firmware = s.firmware := rfl
@[simp] theorem State.modCluster_nextFirmware (s : State) (k : Nat) (f : Cluster → Cluster) : (s.modCluster k f).nextFirmware = s.nextFirmware := rfl
@[simp] theorem State.modCluster_modulePower (s : State) (k : Nat) (f : Cluster → Cluster) : (s.modCluster k f).modulePower = s.modulePower := rfl

@[simp] theorem State.setSlice_cur (s : State) (k : Nat) (v : Slice) : (s.setSlice k v).cur = s.cur := rfl
@[simp] theorem State.setSlice_ir (s : State) (k : Nat) (v : Slice) : (s.setSlice k v).ir = s.ir := rfl
@[simp] theorem State.setSlice_agenda (s : State) (k : Nat) (v : Slice) : (s.setSlice k v).agenda = s.agenda := rfl
@[simp] theorem State.setSlice_turn (s : State) (k : Nat) (v : Slice) : (s.setSlice k v).turn = s.turn := rfl
@[simp] theorem State.setSlice_fresh (s : State) (k : Nat) (v : Slice) : (s.setSlice k v).fresh = s.fresh := rfl
@[simp] theorem State.setSlice_wafer (s : State) (k : Nat) (v : Slice) : (s.setSlice k v).wafer = s.wafer := rfl
@[simp] theorem State.setSlice_mem (s : State) (k : Nat) (v : Slice) : (s.setSlice k v).mem = s.mem := rfl
@[simp] theorem State.setSlice_serials (s : State) (k : Nat) (v : Slice) : (s.setSlice k v).serials = s.serials := rfl
@[simp] theorem State.setSlice_poison (s : State) (k : Nat) (v : Slice) : (s.setSlice k v).poison = s.poison := rfl
@[simp] theorem State.setSlice_lineKeys (s : State) (k : Nat) (v : Slice) : (s.setSlice k v).lineKeys = s.lineKeys := rfl
@[simp] theorem State.setSlice_cores (s : State) (k : Nat) (v : Slice) : (s.setSlice k v).cores = s.cores := rfl
@[simp] theorem State.setSlice_clusters (s : State) (k : Nat) (v : Slice) : (s.setSlice k v).clusters = s.clusters := rfl
@[simp] theorem State.setSlice_reticles (s : State) (k : Nat) (v : Slice) : (s.setSlice k v).reticles = s.reticles := rfl
@[simp] theorem State.setSlice_partitions (s : State) (k : Nat) (v : Slice) : (s.setSlice k v).partitions = s.partitions := rfl
@[simp] theorem State.setSlice_runs (s : State) (k : Nat) (v : Slice) : (s.setSlice k v).runs = s.runs := rfl
@[simp] theorem State.setSlice_groups (s : State) (k : Nat) (v : Slice) : (s.setSlice k v).groups = s.groups := rfl
@[simp] theorem State.setSlice_changes (s : State) (k : Nat) (v : Slice) : (s.setSlice k v).changes = s.changes := rfl
@[simp] theorem State.setSlice_saved (s : State) (k : Nat) (v : Slice) : (s.setSlice k v).saved = s.saved := rfl
@[simp] theorem State.setSlice_ejected (s : State) (k : Nat) (v : Slice) : (s.setSlice k v).ejected = s.ejected := rfl
@[simp] theorem State.setSlice_ejectSections (s : State) (k : Nat) (v : Slice) : (s.setSlice k v).ejectSections = s.ejectSections := rfl
@[simp] theorem State.setSlice_keySlots (s : State) (k : Nat) (v : Slice) : (s.setSlice k v).keySlots = s.keySlots := rfl
@[simp] theorem State.setSlice_nsel (s : State) (k : Nat) (v : Slice) : (s.setSlice k v).nsel = s.nsel := rfl
@[simp] theorem State.setSlice_nselDue (s : State) (k : Nat) (v : Slice) : (s.setSlice k v).nselDue = s.nselDue := rfl
@[simp] theorem State.setSlice_journal (s : State) (k : Nat) (v : Slice) : (s.setSlice k v).journal = s.journal := rfl
@[simp] theorem State.setSlice_startRecords (s : State) (k : Nat) (v : Slice) : (s.setSlice k v).startRecords = s.startRecords := rfl
@[simp] theorem State.setSlice_reports (s : State) (k : Nat) (v : Slice) : (s.setSlice k v).reports = s.reports := rfl
@[simp] theorem State.setSlice_toHost (s : State) (k : Nat) (v : Slice) : (s.setSlice k v).toHost = s.toHost := rfl
@[simp] theorem State.setSlice_chiplets (s : State) (k : Nat) (v : Slice) : (s.setSlice k v).chiplets = s.chiplets := rfl
@[simp] theorem State.setSlice_blocks (s : State) (k : Nat) (v : Slice) : (s.setSlice k v).blocks = s.blocks := rfl
@[simp] theorem State.setSlice_deadBonds (s : State) (k : Nat) (v : Slice) : (s.setSlice k v).deadBonds = s.deadBonds := rfl
@[simp] theorem State.setSlice_bondReadings (s : State) (k : Nat) (v : Slice) : (s.setSlice k v).bondReadings = s.bondReadings := rfl
@[simp] theorem State.setSlice_routing (s : State) (k : Nat) (v : Slice) : (s.setSlice k v).routing = s.routing := rfl
@[simp] theorem State.setSlice_update (s : State) (k : Nat) (v : Slice) : (s.setSlice k v).update = s.update := rfl
@[simp] theorem State.setSlice_bands (s : State) (k : Nat) (v : Slice) : (s.setSlice k v).bands = s.bands := rfl
@[simp] theorem State.setSlice_lowPower (s : State) (k : Nat) (v : Slice) : (s.setSlice k v).lowPower = s.lowPower := rfl
@[simp] theorem State.setSlice_links (s : State) (k : Nat) (v : Slice) : (s.setSlice k v).links = s.links := rfl
@[simp] theorem State.setSlice_firmware (s : State) (k : Nat) (v : Slice) : (s.setSlice k v).firmware = s.firmware := rfl
@[simp] theorem State.setSlice_nextFirmware (s : State) (k : Nat) (v : Slice) : (s.setSlice k v).nextFirmware = s.nextFirmware := rfl
@[simp] theorem State.setSlice_modulePower (s : State) (k : Nat) (v : Slice) : (s.setSlice k v).modulePower = s.modulePower := rfl

@[simp] theorem State.modSlice_cur (s : State) (k : Nat) (f : Slice → Slice) : (s.modSlice k f).cur = s.cur := rfl
@[simp] theorem State.modSlice_ir (s : State) (k : Nat) (f : Slice → Slice) : (s.modSlice k f).ir = s.ir := rfl
@[simp] theorem State.modSlice_agenda (s : State) (k : Nat) (f : Slice → Slice) : (s.modSlice k f).agenda = s.agenda := rfl
@[simp] theorem State.modSlice_turn (s : State) (k : Nat) (f : Slice → Slice) : (s.modSlice k f).turn = s.turn := rfl
@[simp] theorem State.modSlice_fresh (s : State) (k : Nat) (f : Slice → Slice) : (s.modSlice k f).fresh = s.fresh := rfl
@[simp] theorem State.modSlice_wafer (s : State) (k : Nat) (f : Slice → Slice) : (s.modSlice k f).wafer = s.wafer := rfl
@[simp] theorem State.modSlice_mem (s : State) (k : Nat) (f : Slice → Slice) : (s.modSlice k f).mem = s.mem := rfl
@[simp] theorem State.modSlice_serials (s : State) (k : Nat) (f : Slice → Slice) : (s.modSlice k f).serials = s.serials := rfl
@[simp] theorem State.modSlice_poison (s : State) (k : Nat) (f : Slice → Slice) : (s.modSlice k f).poison = s.poison := rfl
@[simp] theorem State.modSlice_lineKeys (s : State) (k : Nat) (f : Slice → Slice) : (s.modSlice k f).lineKeys = s.lineKeys := rfl
@[simp] theorem State.modSlice_cores (s : State) (k : Nat) (f : Slice → Slice) : (s.modSlice k f).cores = s.cores := rfl
@[simp] theorem State.modSlice_clusters (s : State) (k : Nat) (f : Slice → Slice) : (s.modSlice k f).clusters = s.clusters := rfl
@[simp] theorem State.modSlice_reticles (s : State) (k : Nat) (f : Slice → Slice) : (s.modSlice k f).reticles = s.reticles := rfl
@[simp] theorem State.modSlice_partitions (s : State) (k : Nat) (f : Slice → Slice) : (s.modSlice k f).partitions = s.partitions := rfl
@[simp] theorem State.modSlice_runs (s : State) (k : Nat) (f : Slice → Slice) : (s.modSlice k f).runs = s.runs := rfl
@[simp] theorem State.modSlice_groups (s : State) (k : Nat) (f : Slice → Slice) : (s.modSlice k f).groups = s.groups := rfl
@[simp] theorem State.modSlice_changes (s : State) (k : Nat) (f : Slice → Slice) : (s.modSlice k f).changes = s.changes := rfl
@[simp] theorem State.modSlice_saved (s : State) (k : Nat) (f : Slice → Slice) : (s.modSlice k f).saved = s.saved := rfl
@[simp] theorem State.modSlice_ejected (s : State) (k : Nat) (f : Slice → Slice) : (s.modSlice k f).ejected = s.ejected := rfl
@[simp] theorem State.modSlice_ejectSections (s : State) (k : Nat) (f : Slice → Slice) : (s.modSlice k f).ejectSections = s.ejectSections := rfl
@[simp] theorem State.modSlice_keySlots (s : State) (k : Nat) (f : Slice → Slice) : (s.modSlice k f).keySlots = s.keySlots := rfl
@[simp] theorem State.modSlice_nsel (s : State) (k : Nat) (f : Slice → Slice) : (s.modSlice k f).nsel = s.nsel := rfl
@[simp] theorem State.modSlice_nselDue (s : State) (k : Nat) (f : Slice → Slice) : (s.modSlice k f).nselDue = s.nselDue := rfl
@[simp] theorem State.modSlice_journal (s : State) (k : Nat) (f : Slice → Slice) : (s.modSlice k f).journal = s.journal := rfl
@[simp] theorem State.modSlice_startRecords (s : State) (k : Nat) (f : Slice → Slice) : (s.modSlice k f).startRecords = s.startRecords := rfl
@[simp] theorem State.modSlice_reports (s : State) (k : Nat) (f : Slice → Slice) : (s.modSlice k f).reports = s.reports := rfl
@[simp] theorem State.modSlice_toHost (s : State) (k : Nat) (f : Slice → Slice) : (s.modSlice k f).toHost = s.toHost := rfl
@[simp] theorem State.modSlice_chiplets (s : State) (k : Nat) (f : Slice → Slice) : (s.modSlice k f).chiplets = s.chiplets := rfl
@[simp] theorem State.modSlice_blocks (s : State) (k : Nat) (f : Slice → Slice) : (s.modSlice k f).blocks = s.blocks := rfl
@[simp] theorem State.modSlice_deadBonds (s : State) (k : Nat) (f : Slice → Slice) : (s.modSlice k f).deadBonds = s.deadBonds := rfl
@[simp] theorem State.modSlice_bondReadings (s : State) (k : Nat) (f : Slice → Slice) : (s.modSlice k f).bondReadings = s.bondReadings := rfl
@[simp] theorem State.modSlice_routing (s : State) (k : Nat) (f : Slice → Slice) : (s.modSlice k f).routing = s.routing := rfl
@[simp] theorem State.modSlice_update (s : State) (k : Nat) (f : Slice → Slice) : (s.modSlice k f).update = s.update := rfl
@[simp] theorem State.modSlice_bands (s : State) (k : Nat) (f : Slice → Slice) : (s.modSlice k f).bands = s.bands := rfl
@[simp] theorem State.modSlice_lowPower (s : State) (k : Nat) (f : Slice → Slice) : (s.modSlice k f).lowPower = s.lowPower := rfl
@[simp] theorem State.modSlice_links (s : State) (k : Nat) (f : Slice → Slice) : (s.modSlice k f).links = s.links := rfl
@[simp] theorem State.modSlice_firmware (s : State) (k : Nat) (f : Slice → Slice) : (s.modSlice k f).firmware = s.firmware := rfl
@[simp] theorem State.modSlice_nextFirmware (s : State) (k : Nat) (f : Slice → Slice) : (s.modSlice k f).nextFirmware = s.nextFirmware := rfl
@[simp] theorem State.modSlice_modulePower (s : State) (k : Nat) (f : Slice → Slice) : (s.modSlice k f).modulePower = s.modulePower := rfl

@[simp] theorem State.setReticle_cur (s : State) (k : Nat) (v : Reticle) : (s.setReticle k v).cur = s.cur := rfl
@[simp] theorem State.setReticle_ir (s : State) (k : Nat) (v : Reticle) : (s.setReticle k v).ir = s.ir := rfl
@[simp] theorem State.setReticle_agenda (s : State) (k : Nat) (v : Reticle) : (s.setReticle k v).agenda = s.agenda := rfl
@[simp] theorem State.setReticle_turn (s : State) (k : Nat) (v : Reticle) : (s.setReticle k v).turn = s.turn := rfl
@[simp] theorem State.setReticle_fresh (s : State) (k : Nat) (v : Reticle) : (s.setReticle k v).fresh = s.fresh := rfl
@[simp] theorem State.setReticle_wafer (s : State) (k : Nat) (v : Reticle) : (s.setReticle k v).wafer = s.wafer := rfl
@[simp] theorem State.setReticle_mem (s : State) (k : Nat) (v : Reticle) : (s.setReticle k v).mem = s.mem := rfl
@[simp] theorem State.setReticle_serials (s : State) (k : Nat) (v : Reticle) : (s.setReticle k v).serials = s.serials := rfl
@[simp] theorem State.setReticle_poison (s : State) (k : Nat) (v : Reticle) : (s.setReticle k v).poison = s.poison := rfl
@[simp] theorem State.setReticle_lineKeys (s : State) (k : Nat) (v : Reticle) : (s.setReticle k v).lineKeys = s.lineKeys := rfl
@[simp] theorem State.setReticle_cores (s : State) (k : Nat) (v : Reticle) : (s.setReticle k v).cores = s.cores := rfl
@[simp] theorem State.setReticle_clusters (s : State) (k : Nat) (v : Reticle) : (s.setReticle k v).clusters = s.clusters := rfl
@[simp] theorem State.setReticle_slices (s : State) (k : Nat) (v : Reticle) : (s.setReticle k v).slices = s.slices := rfl
@[simp] theorem State.setReticle_partitions (s : State) (k : Nat) (v : Reticle) : (s.setReticle k v).partitions = s.partitions := rfl
@[simp] theorem State.setReticle_runs (s : State) (k : Nat) (v : Reticle) : (s.setReticle k v).runs = s.runs := rfl
@[simp] theorem State.setReticle_groups (s : State) (k : Nat) (v : Reticle) : (s.setReticle k v).groups = s.groups := rfl
@[simp] theorem State.setReticle_changes (s : State) (k : Nat) (v : Reticle) : (s.setReticle k v).changes = s.changes := rfl
@[simp] theorem State.setReticle_saved (s : State) (k : Nat) (v : Reticle) : (s.setReticle k v).saved = s.saved := rfl
@[simp] theorem State.setReticle_ejected (s : State) (k : Nat) (v : Reticle) : (s.setReticle k v).ejected = s.ejected := rfl
@[simp] theorem State.setReticle_ejectSections (s : State) (k : Nat) (v : Reticle) : (s.setReticle k v).ejectSections = s.ejectSections := rfl
@[simp] theorem State.setReticle_keySlots (s : State) (k : Nat) (v : Reticle) : (s.setReticle k v).keySlots = s.keySlots := rfl
@[simp] theorem State.setReticle_nsel (s : State) (k : Nat) (v : Reticle) : (s.setReticle k v).nsel = s.nsel := rfl
@[simp] theorem State.setReticle_nselDue (s : State) (k : Nat) (v : Reticle) : (s.setReticle k v).nselDue = s.nselDue := rfl
@[simp] theorem State.setReticle_journal (s : State) (k : Nat) (v : Reticle) : (s.setReticle k v).journal = s.journal := rfl
@[simp] theorem State.setReticle_startRecords (s : State) (k : Nat) (v : Reticle) : (s.setReticle k v).startRecords = s.startRecords := rfl
@[simp] theorem State.setReticle_reports (s : State) (k : Nat) (v : Reticle) : (s.setReticle k v).reports = s.reports := rfl
@[simp] theorem State.setReticle_toHost (s : State) (k : Nat) (v : Reticle) : (s.setReticle k v).toHost = s.toHost := rfl
@[simp] theorem State.setReticle_chiplets (s : State) (k : Nat) (v : Reticle) : (s.setReticle k v).chiplets = s.chiplets := rfl
@[simp] theorem State.setReticle_blocks (s : State) (k : Nat) (v : Reticle) : (s.setReticle k v).blocks = s.blocks := rfl
@[simp] theorem State.setReticle_deadBonds (s : State) (k : Nat) (v : Reticle) : (s.setReticle k v).deadBonds = s.deadBonds := rfl
@[simp] theorem State.setReticle_bondReadings (s : State) (k : Nat) (v : Reticle) : (s.setReticle k v).bondReadings = s.bondReadings := rfl
@[simp] theorem State.setReticle_routing (s : State) (k : Nat) (v : Reticle) : (s.setReticle k v).routing = s.routing := rfl
@[simp] theorem State.setReticle_update (s : State) (k : Nat) (v : Reticle) : (s.setReticle k v).update = s.update := rfl
@[simp] theorem State.setReticle_bands (s : State) (k : Nat) (v : Reticle) : (s.setReticle k v).bands = s.bands := rfl
@[simp] theorem State.setReticle_lowPower (s : State) (k : Nat) (v : Reticle) : (s.setReticle k v).lowPower = s.lowPower := rfl
@[simp] theorem State.setReticle_links (s : State) (k : Nat) (v : Reticle) : (s.setReticle k v).links = s.links := rfl
@[simp] theorem State.setReticle_firmware (s : State) (k : Nat) (v : Reticle) : (s.setReticle k v).firmware = s.firmware := rfl
@[simp] theorem State.setReticle_nextFirmware (s : State) (k : Nat) (v : Reticle) : (s.setReticle k v).nextFirmware = s.nextFirmware := rfl
@[simp] theorem State.setReticle_modulePower (s : State) (k : Nat) (v : Reticle) : (s.setReticle k v).modulePower = s.modulePower := rfl

@[simp] theorem State.setBlock_cur (s : State) (k : Nat) (v : Block) : (s.setBlock k v).cur = s.cur := rfl
@[simp] theorem State.setBlock_ir (s : State) (k : Nat) (v : Block) : (s.setBlock k v).ir = s.ir := rfl
@[simp] theorem State.setBlock_agenda (s : State) (k : Nat) (v : Block) : (s.setBlock k v).agenda = s.agenda := rfl
@[simp] theorem State.setBlock_turn (s : State) (k : Nat) (v : Block) : (s.setBlock k v).turn = s.turn := rfl
@[simp] theorem State.setBlock_fresh (s : State) (k : Nat) (v : Block) : (s.setBlock k v).fresh = s.fresh := rfl
@[simp] theorem State.setBlock_wafer (s : State) (k : Nat) (v : Block) : (s.setBlock k v).wafer = s.wafer := rfl
@[simp] theorem State.setBlock_mem (s : State) (k : Nat) (v : Block) : (s.setBlock k v).mem = s.mem := rfl
@[simp] theorem State.setBlock_serials (s : State) (k : Nat) (v : Block) : (s.setBlock k v).serials = s.serials := rfl
@[simp] theorem State.setBlock_poison (s : State) (k : Nat) (v : Block) : (s.setBlock k v).poison = s.poison := rfl
@[simp] theorem State.setBlock_lineKeys (s : State) (k : Nat) (v : Block) : (s.setBlock k v).lineKeys = s.lineKeys := rfl
@[simp] theorem State.setBlock_cores (s : State) (k : Nat) (v : Block) : (s.setBlock k v).cores = s.cores := rfl
@[simp] theorem State.setBlock_clusters (s : State) (k : Nat) (v : Block) : (s.setBlock k v).clusters = s.clusters := rfl
@[simp] theorem State.setBlock_slices (s : State) (k : Nat) (v : Block) : (s.setBlock k v).slices = s.slices := rfl
@[simp] theorem State.setBlock_reticles (s : State) (k : Nat) (v : Block) : (s.setBlock k v).reticles = s.reticles := rfl
@[simp] theorem State.setBlock_partitions (s : State) (k : Nat) (v : Block) : (s.setBlock k v).partitions = s.partitions := rfl
@[simp] theorem State.setBlock_runs (s : State) (k : Nat) (v : Block) : (s.setBlock k v).runs = s.runs := rfl
@[simp] theorem State.setBlock_groups (s : State) (k : Nat) (v : Block) : (s.setBlock k v).groups = s.groups := rfl
@[simp] theorem State.setBlock_changes (s : State) (k : Nat) (v : Block) : (s.setBlock k v).changes = s.changes := rfl
@[simp] theorem State.setBlock_saved (s : State) (k : Nat) (v : Block) : (s.setBlock k v).saved = s.saved := rfl
@[simp] theorem State.setBlock_ejected (s : State) (k : Nat) (v : Block) : (s.setBlock k v).ejected = s.ejected := rfl
@[simp] theorem State.setBlock_ejectSections (s : State) (k : Nat) (v : Block) : (s.setBlock k v).ejectSections = s.ejectSections := rfl
@[simp] theorem State.setBlock_keySlots (s : State) (k : Nat) (v : Block) : (s.setBlock k v).keySlots = s.keySlots := rfl
@[simp] theorem State.setBlock_nsel (s : State) (k : Nat) (v : Block) : (s.setBlock k v).nsel = s.nsel := rfl
@[simp] theorem State.setBlock_nselDue (s : State) (k : Nat) (v : Block) : (s.setBlock k v).nselDue = s.nselDue := rfl
@[simp] theorem State.setBlock_journal (s : State) (k : Nat) (v : Block) : (s.setBlock k v).journal = s.journal := rfl
@[simp] theorem State.setBlock_startRecords (s : State) (k : Nat) (v : Block) : (s.setBlock k v).startRecords = s.startRecords := rfl
@[simp] theorem State.setBlock_reports (s : State) (k : Nat) (v : Block) : (s.setBlock k v).reports = s.reports := rfl
@[simp] theorem State.setBlock_toHost (s : State) (k : Nat) (v : Block) : (s.setBlock k v).toHost = s.toHost := rfl
@[simp] theorem State.setBlock_chiplets (s : State) (k : Nat) (v : Block) : (s.setBlock k v).chiplets = s.chiplets := rfl
@[simp] theorem State.setBlock_deadBonds (s : State) (k : Nat) (v : Block) : (s.setBlock k v).deadBonds = s.deadBonds := rfl
@[simp] theorem State.setBlock_bondReadings (s : State) (k : Nat) (v : Block) : (s.setBlock k v).bondReadings = s.bondReadings := rfl
@[simp] theorem State.setBlock_routing (s : State) (k : Nat) (v : Block) : (s.setBlock k v).routing = s.routing := rfl
@[simp] theorem State.setBlock_update (s : State) (k : Nat) (v : Block) : (s.setBlock k v).update = s.update := rfl
@[simp] theorem State.setBlock_bands (s : State) (k : Nat) (v : Block) : (s.setBlock k v).bands = s.bands := rfl
@[simp] theorem State.setBlock_lowPower (s : State) (k : Nat) (v : Block) : (s.setBlock k v).lowPower = s.lowPower := rfl
@[simp] theorem State.setBlock_links (s : State) (k : Nat) (v : Block) : (s.setBlock k v).links = s.links := rfl
@[simp] theorem State.setBlock_firmware (s : State) (k : Nat) (v : Block) : (s.setBlock k v).firmware = s.firmware := rfl
@[simp] theorem State.setBlock_nextFirmware (s : State) (k : Nat) (v : Block) : (s.setBlock k v).nextFirmware = s.nextFirmware := rfl
@[simp] theorem State.setBlock_modulePower (s : State) (k : Nat) (v : Block) : (s.setBlock k v).modulePower = s.modulePower := rfl

@[simp] theorem State.setLink_cur (s : State) (n : Nat) (v : Link) : (s.setLink n v).cur = s.cur := rfl
@[simp] theorem State.setLink_ir (s : State) (n : Nat) (v : Link) : (s.setLink n v).ir = s.ir := rfl
@[simp] theorem State.setLink_agenda (s : State) (n : Nat) (v : Link) : (s.setLink n v).agenda = s.agenda := rfl
@[simp] theorem State.setLink_turn (s : State) (n : Nat) (v : Link) : (s.setLink n v).turn = s.turn := rfl
@[simp] theorem State.setLink_fresh (s : State) (n : Nat) (v : Link) : (s.setLink n v).fresh = s.fresh := rfl
@[simp] theorem State.setLink_wafer (s : State) (n : Nat) (v : Link) : (s.setLink n v).wafer = s.wafer := rfl
@[simp] theorem State.setLink_mem (s : State) (n : Nat) (v : Link) : (s.setLink n v).mem = s.mem := rfl
@[simp] theorem State.setLink_serials (s : State) (n : Nat) (v : Link) : (s.setLink n v).serials = s.serials := rfl
@[simp] theorem State.setLink_poison (s : State) (n : Nat) (v : Link) : (s.setLink n v).poison = s.poison := rfl
@[simp] theorem State.setLink_lineKeys (s : State) (n : Nat) (v : Link) : (s.setLink n v).lineKeys = s.lineKeys := rfl
@[simp] theorem State.setLink_cores (s : State) (n : Nat) (v : Link) : (s.setLink n v).cores = s.cores := rfl
@[simp] theorem State.setLink_clusters (s : State) (n : Nat) (v : Link) : (s.setLink n v).clusters = s.clusters := rfl
@[simp] theorem State.setLink_slices (s : State) (n : Nat) (v : Link) : (s.setLink n v).slices = s.slices := rfl
@[simp] theorem State.setLink_reticles (s : State) (n : Nat) (v : Link) : (s.setLink n v).reticles = s.reticles := rfl
@[simp] theorem State.setLink_partitions (s : State) (n : Nat) (v : Link) : (s.setLink n v).partitions = s.partitions := rfl
@[simp] theorem State.setLink_runs (s : State) (n : Nat) (v : Link) : (s.setLink n v).runs = s.runs := rfl
@[simp] theorem State.setLink_groups (s : State) (n : Nat) (v : Link) : (s.setLink n v).groups = s.groups := rfl
@[simp] theorem State.setLink_changes (s : State) (n : Nat) (v : Link) : (s.setLink n v).changes = s.changes := rfl
@[simp] theorem State.setLink_saved (s : State) (n : Nat) (v : Link) : (s.setLink n v).saved = s.saved := rfl
@[simp] theorem State.setLink_ejected (s : State) (n : Nat) (v : Link) : (s.setLink n v).ejected = s.ejected := rfl
@[simp] theorem State.setLink_ejectSections (s : State) (n : Nat) (v : Link) : (s.setLink n v).ejectSections = s.ejectSections := rfl
@[simp] theorem State.setLink_keySlots (s : State) (n : Nat) (v : Link) : (s.setLink n v).keySlots = s.keySlots := rfl
@[simp] theorem State.setLink_nsel (s : State) (n : Nat) (v : Link) : (s.setLink n v).nsel = s.nsel := rfl
@[simp] theorem State.setLink_nselDue (s : State) (n : Nat) (v : Link) : (s.setLink n v).nselDue = s.nselDue := rfl
@[simp] theorem State.setLink_journal (s : State) (n : Nat) (v : Link) : (s.setLink n v).journal = s.journal := rfl
@[simp] theorem State.setLink_startRecords (s : State) (n : Nat) (v : Link) : (s.setLink n v).startRecords = s.startRecords := rfl
@[simp] theorem State.setLink_reports (s : State) (n : Nat) (v : Link) : (s.setLink n v).reports = s.reports := rfl
@[simp] theorem State.setLink_toHost (s : State) (n : Nat) (v : Link) : (s.setLink n v).toHost = s.toHost := rfl
@[simp] theorem State.setLink_chiplets (s : State) (n : Nat) (v : Link) : (s.setLink n v).chiplets = s.chiplets := rfl
@[simp] theorem State.setLink_blocks (s : State) (n : Nat) (v : Link) : (s.setLink n v).blocks = s.blocks := rfl
@[simp] theorem State.setLink_deadBonds (s : State) (n : Nat) (v : Link) : (s.setLink n v).deadBonds = s.deadBonds := rfl
@[simp] theorem State.setLink_bondReadings (s : State) (n : Nat) (v : Link) : (s.setLink n v).bondReadings = s.bondReadings := rfl
@[simp] theorem State.setLink_routing (s : State) (n : Nat) (v : Link) : (s.setLink n v).routing = s.routing := rfl
@[simp] theorem State.setLink_update (s : State) (n : Nat) (v : Link) : (s.setLink n v).update = s.update := rfl
@[simp] theorem State.setLink_bands (s : State) (n : Nat) (v : Link) : (s.setLink n v).bands = s.bands := rfl
@[simp] theorem State.setLink_lowPower (s : State) (n : Nat) (v : Link) : (s.setLink n v).lowPower = s.lowPower := rfl
@[simp] theorem State.setLink_firmware (s : State) (n : Nat) (v : Link) : (s.setLink n v).firmware = s.firmware := rfl
@[simp] theorem State.setLink_nextFirmware (s : State) (n : Nat) (v : Link) : (s.setLink n v).nextFirmware = s.nextFirmware := rfl
@[simp] theorem State.setLink_modulePower (s : State) (n : Nat) (v : Link) : (s.setLink n v).modulePower = s.modulePower := rfl
@[simp] theorem State.setLink_link (s : State) (n : Nat) (v : Link) : (s.setLink n v).link n = v := by
  simp [State.link, State.setLink]

@[simp] theorem State.modRun_cur (s : State) (p c : Nat) (f : Run → Run) : (s.modRun p c f).cur = s.cur := rfl
@[simp] theorem State.modRun_ir (s : State) (p c : Nat) (f : Run → Run) : (s.modRun p c f).ir = s.ir := rfl
@[simp] theorem State.modRun_agenda (s : State) (p c : Nat) (f : Run → Run) : (s.modRun p c f).agenda = s.agenda := rfl
@[simp] theorem State.modRun_turn (s : State) (p c : Nat) (f : Run → Run) : (s.modRun p c f).turn = s.turn := rfl
@[simp] theorem State.modRun_fresh (s : State) (p c : Nat) (f : Run → Run) : (s.modRun p c f).fresh = s.fresh := rfl
@[simp] theorem State.modRun_wafer (s : State) (p c : Nat) (f : Run → Run) : (s.modRun p c f).wafer = s.wafer := rfl
@[simp] theorem State.modRun_mem (s : State) (p c : Nat) (f : Run → Run) : (s.modRun p c f).mem = s.mem := rfl
@[simp] theorem State.modRun_serials (s : State) (p c : Nat) (f : Run → Run) : (s.modRun p c f).serials = s.serials := rfl
@[simp] theorem State.modRun_poison (s : State) (p c : Nat) (f : Run → Run) : (s.modRun p c f).poison = s.poison := rfl
@[simp] theorem State.modRun_lineKeys (s : State) (p c : Nat) (f : Run → Run) : (s.modRun p c f).lineKeys = s.lineKeys := rfl
@[simp] theorem State.modRun_cores (s : State) (p c : Nat) (f : Run → Run) : (s.modRun p c f).cores = s.cores := rfl
@[simp] theorem State.modRun_clusters (s : State) (p c : Nat) (f : Run → Run) : (s.modRun p c f).clusters = s.clusters := rfl
@[simp] theorem State.modRun_slices (s : State) (p c : Nat) (f : Run → Run) : (s.modRun p c f).slices = s.slices := rfl
@[simp] theorem State.modRun_reticles (s : State) (p c : Nat) (f : Run → Run) : (s.modRun p c f).reticles = s.reticles := rfl
@[simp] theorem State.modRun_partitions (s : State) (p c : Nat) (f : Run → Run) : (s.modRun p c f).partitions = s.partitions := rfl
@[simp] theorem State.modRun_groups (s : State) (p c : Nat) (f : Run → Run) : (s.modRun p c f).groups = s.groups := rfl
@[simp] theorem State.modRun_changes (s : State) (p c : Nat) (f : Run → Run) : (s.modRun p c f).changes = s.changes := rfl
@[simp] theorem State.modRun_saved (s : State) (p c : Nat) (f : Run → Run) : (s.modRun p c f).saved = s.saved := rfl
@[simp] theorem State.modRun_ejected (s : State) (p c : Nat) (f : Run → Run) : (s.modRun p c f).ejected = s.ejected := rfl
@[simp] theorem State.modRun_ejectSections (s : State) (p c : Nat) (f : Run → Run) : (s.modRun p c f).ejectSections = s.ejectSections := rfl
@[simp] theorem State.modRun_keySlots (s : State) (p c : Nat) (f : Run → Run) : (s.modRun p c f).keySlots = s.keySlots := rfl
@[simp] theorem State.modRun_nsel (s : State) (p c : Nat) (f : Run → Run) : (s.modRun p c f).nsel = s.nsel := rfl
@[simp] theorem State.modRun_nselDue (s : State) (p c : Nat) (f : Run → Run) : (s.modRun p c f).nselDue = s.nselDue := rfl
@[simp] theorem State.modRun_journal (s : State) (p c : Nat) (f : Run → Run) : (s.modRun p c f).journal = s.journal := rfl
@[simp] theorem State.modRun_startRecords (s : State) (p c : Nat) (f : Run → Run) : (s.modRun p c f).startRecords = s.startRecords := rfl
@[simp] theorem State.modRun_reports (s : State) (p c : Nat) (f : Run → Run) : (s.modRun p c f).reports = s.reports := rfl
@[simp] theorem State.modRun_toHost (s : State) (p c : Nat) (f : Run → Run) : (s.modRun p c f).toHost = s.toHost := rfl
@[simp] theorem State.modRun_chiplets (s : State) (p c : Nat) (f : Run → Run) : (s.modRun p c f).chiplets = s.chiplets := rfl
@[simp] theorem State.modRun_blocks (s : State) (p c : Nat) (f : Run → Run) : (s.modRun p c f).blocks = s.blocks := rfl
@[simp] theorem State.modRun_deadBonds (s : State) (p c : Nat) (f : Run → Run) : (s.modRun p c f).deadBonds = s.deadBonds := rfl
@[simp] theorem State.modRun_bondReadings (s : State) (p c : Nat) (f : Run → Run) : (s.modRun p c f).bondReadings = s.bondReadings := rfl
@[simp] theorem State.modRun_routing (s : State) (p c : Nat) (f : Run → Run) : (s.modRun p c f).routing = s.routing := rfl
@[simp] theorem State.modRun_update (s : State) (p c : Nat) (f : Run → Run) : (s.modRun p c f).update = s.update := rfl
@[simp] theorem State.modRun_bands (s : State) (p c : Nat) (f : Run → Run) : (s.modRun p c f).bands = s.bands := rfl
@[simp] theorem State.modRun_lowPower (s : State) (p c : Nat) (f : Run → Run) : (s.modRun p c f).lowPower = s.lowPower := rfl
@[simp] theorem State.modRun_links (s : State) (p c : Nat) (f : Run → Run) : (s.modRun p c f).links = s.links := rfl
@[simp] theorem State.modRun_firmware (s : State) (p c : Nat) (f : Run → Run) : (s.modRun p c f).firmware = s.firmware := rfl
@[simp] theorem State.modRun_nextFirmware (s : State) (p c : Nat) (f : Run → Run) : (s.modRun p c f).nextFirmware = s.nextFirmware := rfl
@[simp] theorem State.modRun_modulePower (s : State) (p c : Nat) (f : Run → Run) : (s.modRun p c f).modulePower = s.modulePower := rfl

@[simp] theorem State.post_cur (s : State) (e : Event) : (s.post e).cur = s.cur := rfl
@[simp] theorem State.post_ir (s : State) (e : Event) : (s.post e).ir = s.ir := rfl
@[simp] theorem State.post_turn (s : State) (e : Event) : (s.post e).turn = s.turn := rfl
@[simp] theorem State.post_fresh (s : State) (e : Event) : (s.post e).fresh = s.fresh := rfl
@[simp] theorem State.post_wafer (s : State) (e : Event) : (s.post e).wafer = s.wafer := rfl
@[simp] theorem State.post_mem (s : State) (e : Event) : (s.post e).mem = s.mem := rfl
@[simp] theorem State.post_serials (s : State) (e : Event) : (s.post e).serials = s.serials := rfl
@[simp] theorem State.post_poison (s : State) (e : Event) : (s.post e).poison = s.poison := rfl
@[simp] theorem State.post_lineKeys (s : State) (e : Event) : (s.post e).lineKeys = s.lineKeys := rfl
@[simp] theorem State.post_cores (s : State) (e : Event) : (s.post e).cores = s.cores := rfl
@[simp] theorem State.post_clusters (s : State) (e : Event) : (s.post e).clusters = s.clusters := rfl
@[simp] theorem State.post_slices (s : State) (e : Event) : (s.post e).slices = s.slices := rfl
@[simp] theorem State.post_reticles (s : State) (e : Event) : (s.post e).reticles = s.reticles := rfl
@[simp] theorem State.post_partitions (s : State) (e : Event) : (s.post e).partitions = s.partitions := rfl
@[simp] theorem State.post_runs (s : State) (e : Event) : (s.post e).runs = s.runs := rfl
@[simp] theorem State.post_groups (s : State) (e : Event) : (s.post e).groups = s.groups := rfl
@[simp] theorem State.post_changes (s : State) (e : Event) : (s.post e).changes = s.changes := rfl
@[simp] theorem State.post_saved (s : State) (e : Event) : (s.post e).saved = s.saved := rfl
@[simp] theorem State.post_ejected (s : State) (e : Event) : (s.post e).ejected = s.ejected := rfl
@[simp] theorem State.post_ejectSections (s : State) (e : Event) : (s.post e).ejectSections = s.ejectSections := rfl
@[simp] theorem State.post_keySlots (s : State) (e : Event) : (s.post e).keySlots = s.keySlots := rfl
@[simp] theorem State.post_nsel (s : State) (e : Event) : (s.post e).nsel = s.nsel := rfl
@[simp] theorem State.post_nselDue (s : State) (e : Event) : (s.post e).nselDue = s.nselDue := rfl
@[simp] theorem State.post_journal (s : State) (e : Event) : (s.post e).journal = s.journal := rfl
@[simp] theorem State.post_startRecords (s : State) (e : Event) : (s.post e).startRecords = s.startRecords := rfl
@[simp] theorem State.post_reports (s : State) (e : Event) : (s.post e).reports = s.reports := rfl
@[simp] theorem State.post_toHost (s : State) (e : Event) : (s.post e).toHost = s.toHost := rfl
@[simp] theorem State.post_chiplets (s : State) (e : Event) : (s.post e).chiplets = s.chiplets := rfl
@[simp] theorem State.post_blocks (s : State) (e : Event) : (s.post e).blocks = s.blocks := rfl
@[simp] theorem State.post_deadBonds (s : State) (e : Event) : (s.post e).deadBonds = s.deadBonds := rfl
@[simp] theorem State.post_bondReadings (s : State) (e : Event) : (s.post e).bondReadings = s.bondReadings := rfl
@[simp] theorem State.post_routing (s : State) (e : Event) : (s.post e).routing = s.routing := rfl
@[simp] theorem State.post_update (s : State) (e : Event) : (s.post e).update = s.update := rfl
@[simp] theorem State.post_bands (s : State) (e : Event) : (s.post e).bands = s.bands := rfl
@[simp] theorem State.post_lowPower (s : State) (e : Event) : (s.post e).lowPower = s.lowPower := rfl
@[simp] theorem State.post_links (s : State) (e : Event) : (s.post e).links = s.links := rfl
@[simp] theorem State.post_firmware (s : State) (e : Event) : (s.post e).firmware = s.firmware := rfl
@[simp] theorem State.post_nextFirmware (s : State) (e : Event) : (s.post e).nextFirmware = s.nextFirmware := rfl
@[simp] theorem State.post_modulePower (s : State) (e : Event) : (s.post e).modulePower = s.modulePower := rfl

@[simp] theorem State.posts_cur (s : State) (es : List Event) : (s.posts es).cur = s.cur := rfl
@[simp] theorem State.posts_ir (s : State) (es : List Event) : (s.posts es).ir = s.ir := rfl
@[simp] theorem State.posts_turn (s : State) (es : List Event) : (s.posts es).turn = s.turn := rfl
@[simp] theorem State.posts_fresh (s : State) (es : List Event) : (s.posts es).fresh = s.fresh := rfl
@[simp] theorem State.posts_wafer (s : State) (es : List Event) : (s.posts es).wafer = s.wafer := rfl
@[simp] theorem State.posts_mem (s : State) (es : List Event) : (s.posts es).mem = s.mem := rfl
@[simp] theorem State.posts_serials (s : State) (es : List Event) : (s.posts es).serials = s.serials := rfl
@[simp] theorem State.posts_poison (s : State) (es : List Event) : (s.posts es).poison = s.poison := rfl
@[simp] theorem State.posts_lineKeys (s : State) (es : List Event) : (s.posts es).lineKeys = s.lineKeys := rfl
@[simp] theorem State.posts_cores (s : State) (es : List Event) : (s.posts es).cores = s.cores := rfl
@[simp] theorem State.posts_clusters (s : State) (es : List Event) : (s.posts es).clusters = s.clusters := rfl
@[simp] theorem State.posts_slices (s : State) (es : List Event) : (s.posts es).slices = s.slices := rfl
@[simp] theorem State.posts_reticles (s : State) (es : List Event) : (s.posts es).reticles = s.reticles := rfl
@[simp] theorem State.posts_partitions (s : State) (es : List Event) : (s.posts es).partitions = s.partitions := rfl
@[simp] theorem State.posts_runs (s : State) (es : List Event) : (s.posts es).runs = s.runs := rfl
@[simp] theorem State.posts_groups (s : State) (es : List Event) : (s.posts es).groups = s.groups := rfl
@[simp] theorem State.posts_changes (s : State) (es : List Event) : (s.posts es).changes = s.changes := rfl
@[simp] theorem State.posts_saved (s : State) (es : List Event) : (s.posts es).saved = s.saved := rfl
@[simp] theorem State.posts_ejected (s : State) (es : List Event) : (s.posts es).ejected = s.ejected := rfl
@[simp] theorem State.posts_ejectSections (s : State) (es : List Event) : (s.posts es).ejectSections = s.ejectSections := rfl
@[simp] theorem State.posts_keySlots (s : State) (es : List Event) : (s.posts es).keySlots = s.keySlots := rfl
@[simp] theorem State.posts_nsel (s : State) (es : List Event) : (s.posts es).nsel = s.nsel := rfl
@[simp] theorem State.posts_nselDue (s : State) (es : List Event) : (s.posts es).nselDue = s.nselDue := rfl
@[simp] theorem State.posts_journal (s : State) (es : List Event) : (s.posts es).journal = s.journal := rfl
@[simp] theorem State.posts_startRecords (s : State) (es : List Event) : (s.posts es).startRecords = s.startRecords := rfl
@[simp] theorem State.posts_reports (s : State) (es : List Event) : (s.posts es).reports = s.reports := rfl
@[simp] theorem State.posts_toHost (s : State) (es : List Event) : (s.posts es).toHost = s.toHost := rfl
@[simp] theorem State.posts_chiplets (s : State) (es : List Event) : (s.posts es).chiplets = s.chiplets := rfl
@[simp] theorem State.posts_blocks (s : State) (es : List Event) : (s.posts es).blocks = s.blocks := rfl
@[simp] theorem State.posts_deadBonds (s : State) (es : List Event) : (s.posts es).deadBonds = s.deadBonds := rfl
@[simp] theorem State.posts_bondReadings (s : State) (es : List Event) : (s.posts es).bondReadings = s.bondReadings := rfl
@[simp] theorem State.posts_routing (s : State) (es : List Event) : (s.posts es).routing = s.routing := rfl
@[simp] theorem State.posts_update (s : State) (es : List Event) : (s.posts es).update = s.update := rfl
@[simp] theorem State.posts_bands (s : State) (es : List Event) : (s.posts es).bands = s.bands := rfl
@[simp] theorem State.posts_lowPower (s : State) (es : List Event) : (s.posts es).lowPower = s.lowPower := rfl
@[simp] theorem State.posts_links (s : State) (es : List Event) : (s.posts es).links = s.links := rfl
@[simp] theorem State.posts_firmware (s : State) (es : List Event) : (s.posts es).firmware = s.firmware := rfl
@[simp] theorem State.posts_nextFirmware (s : State) (es : List Event) : (s.posts es).nextFirmware = s.nextFirmware := rfl
@[simp] theorem State.posts_modulePower (s : State) (es : List Event) : (s.posts es).modulePower = s.modulePower := rfl

@[simp] theorem State.picked_cur (s : State) : (s.picked).cur = s.cur := rfl
@[simp] theorem State.picked_ir (s : State) : (s.picked).ir = s.ir := rfl
@[simp] theorem State.picked_agenda (s : State) : (s.picked).agenda = s.agenda := rfl
@[simp] theorem State.picked_turn (s : State) : (s.picked).turn = s.turn := rfl
@[simp] theorem State.picked_wafer (s : State) : (s.picked).wafer = s.wafer := rfl
@[simp] theorem State.picked_mem (s : State) : (s.picked).mem = s.mem := rfl
@[simp] theorem State.picked_serials (s : State) : (s.picked).serials = s.serials := rfl
@[simp] theorem State.picked_poison (s : State) : (s.picked).poison = s.poison := rfl
@[simp] theorem State.picked_lineKeys (s : State) : (s.picked).lineKeys = s.lineKeys := rfl
@[simp] theorem State.picked_cores (s : State) : (s.picked).cores = s.cores := rfl
@[simp] theorem State.picked_clusters (s : State) : (s.picked).clusters = s.clusters := rfl
@[simp] theorem State.picked_slices (s : State) : (s.picked).slices = s.slices := rfl
@[simp] theorem State.picked_reticles (s : State) : (s.picked).reticles = s.reticles := rfl
@[simp] theorem State.picked_partitions (s : State) : (s.picked).partitions = s.partitions := rfl
@[simp] theorem State.picked_runs (s : State) : (s.picked).runs = s.runs := rfl
@[simp] theorem State.picked_groups (s : State) : (s.picked).groups = s.groups := rfl
@[simp] theorem State.picked_changes (s : State) : (s.picked).changes = s.changes := rfl
@[simp] theorem State.picked_saved (s : State) : (s.picked).saved = s.saved := rfl
@[simp] theorem State.picked_ejected (s : State) : (s.picked).ejected = s.ejected := rfl
@[simp] theorem State.picked_ejectSections (s : State) : (s.picked).ejectSections = s.ejectSections := rfl
@[simp] theorem State.picked_keySlots (s : State) : (s.picked).keySlots = s.keySlots := rfl
@[simp] theorem State.picked_nsel (s : State) : (s.picked).nsel = s.nsel := rfl
@[simp] theorem State.picked_nselDue (s : State) : (s.picked).nselDue = s.nselDue := rfl
@[simp] theorem State.picked_journal (s : State) : (s.picked).journal = s.journal := rfl
@[simp] theorem State.picked_startRecords (s : State) : (s.picked).startRecords = s.startRecords := rfl
@[simp] theorem State.picked_reports (s : State) : (s.picked).reports = s.reports := rfl
@[simp] theorem State.picked_toHost (s : State) : (s.picked).toHost = s.toHost := rfl
@[simp] theorem State.picked_chiplets (s : State) : (s.picked).chiplets = s.chiplets := rfl
@[simp] theorem State.picked_blocks (s : State) : (s.picked).blocks = s.blocks := rfl
@[simp] theorem State.picked_deadBonds (s : State) : (s.picked).deadBonds = s.deadBonds := rfl
@[simp] theorem State.picked_bondReadings (s : State) : (s.picked).bondReadings = s.bondReadings := rfl
@[simp] theorem State.picked_routing (s : State) : (s.picked).routing = s.routing := rfl
@[simp] theorem State.picked_update (s : State) : (s.picked).update = s.update := rfl
@[simp] theorem State.picked_bands (s : State) : (s.picked).bands = s.bands := rfl
@[simp] theorem State.picked_lowPower (s : State) : (s.picked).lowPower = s.lowPower := rfl
@[simp] theorem State.picked_links (s : State) : (s.picked).links = s.links := rfl
@[simp] theorem State.picked_firmware (s : State) : (s.picked).firmware = s.firmware := rfl
@[simp] theorem State.picked_nextFirmware (s : State) : (s.picked).nextFirmware = s.nextFirmware := rfl
@[simp] theorem State.picked_modulePower (s : State) : (s.picked).modulePower = s.modulePower := rfl

@[simp] theorem State.report_cur (s : State) (r : Report) : (s.report r).cur = s.cur := rfl
@[simp] theorem State.report_ir (s : State) (r : Report) : (s.report r).ir = s.ir := rfl
@[simp] theorem State.report_agenda (s : State) (r : Report) : (s.report r).agenda = s.agenda := rfl
@[simp] theorem State.report_turn (s : State) (r : Report) : (s.report r).turn = s.turn := rfl
@[simp] theorem State.report_fresh (s : State) (r : Report) : (s.report r).fresh = s.fresh := rfl
@[simp] theorem State.report_wafer (s : State) (r : Report) : (s.report r).wafer = s.wafer := rfl
@[simp] theorem State.report_mem (s : State) (r : Report) : (s.report r).mem = s.mem := rfl
@[simp] theorem State.report_serials (s : State) (r : Report) : (s.report r).serials = s.serials := rfl
@[simp] theorem State.report_poison (s : State) (r : Report) : (s.report r).poison = s.poison := rfl
@[simp] theorem State.report_lineKeys (s : State) (r : Report) : (s.report r).lineKeys = s.lineKeys := rfl
@[simp] theorem State.report_cores (s : State) (r : Report) : (s.report r).cores = s.cores := rfl
@[simp] theorem State.report_clusters (s : State) (r : Report) : (s.report r).clusters = s.clusters := rfl
@[simp] theorem State.report_slices (s : State) (r : Report) : (s.report r).slices = s.slices := rfl
@[simp] theorem State.report_reticles (s : State) (r : Report) : (s.report r).reticles = s.reticles := rfl
@[simp] theorem State.report_partitions (s : State) (r : Report) : (s.report r).partitions = s.partitions := rfl
@[simp] theorem State.report_runs (s : State) (r : Report) : (s.report r).runs = s.runs := rfl
@[simp] theorem State.report_groups (s : State) (r : Report) : (s.report r).groups = s.groups := rfl
@[simp] theorem State.report_changes (s : State) (r : Report) : (s.report r).changes = s.changes := rfl
@[simp] theorem State.report_saved (s : State) (r : Report) : (s.report r).saved = s.saved := rfl
@[simp] theorem State.report_ejected (s : State) (r : Report) : (s.report r).ejected = s.ejected := rfl
@[simp] theorem State.report_ejectSections (s : State) (r : Report) : (s.report r).ejectSections = s.ejectSections := rfl
@[simp] theorem State.report_keySlots (s : State) (r : Report) : (s.report r).keySlots = s.keySlots := rfl
@[simp] theorem State.report_nsel (s : State) (r : Report) : (s.report r).nsel = s.nsel := rfl
@[simp] theorem State.report_nselDue (s : State) (r : Report) : (s.report r).nselDue = s.nselDue := rfl
@[simp] theorem State.report_startRecords (s : State) (r : Report) : (s.report r).startRecords = s.startRecords := rfl
@[simp] theorem State.report_chiplets (s : State) (r : Report) : (s.report r).chiplets = s.chiplets := rfl
@[simp] theorem State.report_blocks (s : State) (r : Report) : (s.report r).blocks = s.blocks := rfl
@[simp] theorem State.report_deadBonds (s : State) (r : Report) : (s.report r).deadBonds = s.deadBonds := rfl
@[simp] theorem State.report_bondReadings (s : State) (r : Report) : (s.report r).bondReadings = s.bondReadings := rfl
@[simp] theorem State.report_routing (s : State) (r : Report) : (s.report r).routing = s.routing := rfl
@[simp] theorem State.report_update (s : State) (r : Report) : (s.report r).update = s.update := rfl
@[simp] theorem State.report_bands (s : State) (r : Report) : (s.report r).bands = s.bands := rfl
@[simp] theorem State.report_lowPower (s : State) (r : Report) : (s.report r).lowPower = s.lowPower := rfl
@[simp] theorem State.report_links (s : State) (r : Report) : (s.report r).links = s.links := rfl
@[simp] theorem State.report_firmware (s : State) (r : Report) : (s.report r).firmware = s.firmware := rfl
@[simp] theorem State.report_nextFirmware (s : State) (r : Report) : (s.report r).nextFirmware = s.nextFirmware := rfl
@[simp] theorem State.report_modulePower (s : State) (r : Report) : (s.report r).modulePower = s.modulePower := rfl

@[simp] theorem State.note_cur (s : State) (p : Nat) (w : JournalWhat) : (s.note p w).cur = s.cur := rfl
@[simp] theorem State.note_ir (s : State) (p : Nat) (w : JournalWhat) : (s.note p w).ir = s.ir := rfl
@[simp] theorem State.note_agenda (s : State) (p : Nat) (w : JournalWhat) : (s.note p w).agenda = s.agenda := rfl
@[simp] theorem State.note_turn (s : State) (p : Nat) (w : JournalWhat) : (s.note p w).turn = s.turn := rfl
@[simp] theorem State.note_fresh (s : State) (p : Nat) (w : JournalWhat) : (s.note p w).fresh = s.fresh := rfl
@[simp] theorem State.note_wafer (s : State) (p : Nat) (w : JournalWhat) : (s.note p w).wafer = s.wafer := rfl
@[simp] theorem State.note_mem (s : State) (p : Nat) (w : JournalWhat) : (s.note p w).mem = s.mem := rfl
@[simp] theorem State.note_serials (s : State) (p : Nat) (w : JournalWhat) : (s.note p w).serials = s.serials := rfl
@[simp] theorem State.note_poison (s : State) (p : Nat) (w : JournalWhat) : (s.note p w).poison = s.poison := rfl
@[simp] theorem State.note_lineKeys (s : State) (p : Nat) (w : JournalWhat) : (s.note p w).lineKeys = s.lineKeys := rfl
@[simp] theorem State.note_cores (s : State) (p : Nat) (w : JournalWhat) : (s.note p w).cores = s.cores := rfl
@[simp] theorem State.note_clusters (s : State) (p : Nat) (w : JournalWhat) : (s.note p w).clusters = s.clusters := rfl
@[simp] theorem State.note_slices (s : State) (p : Nat) (w : JournalWhat) : (s.note p w).slices = s.slices := rfl
@[simp] theorem State.note_reticles (s : State) (p : Nat) (w : JournalWhat) : (s.note p w).reticles = s.reticles := rfl
@[simp] theorem State.note_partitions (s : State) (p : Nat) (w : JournalWhat) : (s.note p w).partitions = s.partitions := rfl
@[simp] theorem State.note_runs (s : State) (p : Nat) (w : JournalWhat) : (s.note p w).runs = s.runs := rfl
@[simp] theorem State.note_groups (s : State) (p : Nat) (w : JournalWhat) : (s.note p w).groups = s.groups := rfl
@[simp] theorem State.note_changes (s : State) (p : Nat) (w : JournalWhat) : (s.note p w).changes = s.changes := rfl
@[simp] theorem State.note_saved (s : State) (p : Nat) (w : JournalWhat) : (s.note p w).saved = s.saved := rfl
@[simp] theorem State.note_ejected (s : State) (p : Nat) (w : JournalWhat) : (s.note p w).ejected = s.ejected := rfl
@[simp] theorem State.note_ejectSections (s : State) (p : Nat) (w : JournalWhat) : (s.note p w).ejectSections = s.ejectSections := rfl
@[simp] theorem State.note_keySlots (s : State) (p : Nat) (w : JournalWhat) : (s.note p w).keySlots = s.keySlots := rfl
@[simp] theorem State.note_nsel (s : State) (p : Nat) (w : JournalWhat) : (s.note p w).nsel = s.nsel := rfl
@[simp] theorem State.note_nselDue (s : State) (p : Nat) (w : JournalWhat) : (s.note p w).nselDue = s.nselDue := rfl
@[simp] theorem State.note_startRecords (s : State) (p : Nat) (w : JournalWhat) : (s.note p w).startRecords = s.startRecords := rfl
@[simp] theorem State.note_reports (s : State) (p : Nat) (w : JournalWhat) : (s.note p w).reports = s.reports := rfl
@[simp] theorem State.note_toHost (s : State) (p : Nat) (w : JournalWhat) : (s.note p w).toHost = s.toHost := rfl
@[simp] theorem State.note_chiplets (s : State) (p : Nat) (w : JournalWhat) : (s.note p w).chiplets = s.chiplets := rfl
@[simp] theorem State.note_blocks (s : State) (p : Nat) (w : JournalWhat) : (s.note p w).blocks = s.blocks := rfl
@[simp] theorem State.note_deadBonds (s : State) (p : Nat) (w : JournalWhat) : (s.note p w).deadBonds = s.deadBonds := rfl
@[simp] theorem State.note_bondReadings (s : State) (p : Nat) (w : JournalWhat) : (s.note p w).bondReadings = s.bondReadings := rfl
@[simp] theorem State.note_routing (s : State) (p : Nat) (w : JournalWhat) : (s.note p w).routing = s.routing := rfl
@[simp] theorem State.note_update (s : State) (p : Nat) (w : JournalWhat) : (s.note p w).update = s.update := rfl
@[simp] theorem State.note_bands (s : State) (p : Nat) (w : JournalWhat) : (s.note p w).bands = s.bands := rfl
@[simp] theorem State.note_lowPower (s : State) (p : Nat) (w : JournalWhat) : (s.note p w).lowPower = s.lowPower := rfl
@[simp] theorem State.note_links (s : State) (p : Nat) (w : JournalWhat) : (s.note p w).links = s.links := rfl
@[simp] theorem State.note_firmware (s : State) (p : Nat) (w : JournalWhat) : (s.note p w).firmware = s.firmware := rfl
@[simp] theorem State.note_nextFirmware (s : State) (p : Nat) (w : JournalWhat) : (s.note p w).nextFirmware = s.nextFirmware := rfl
@[simp] theorem State.note_modulePower (s : State) (p : Nat) (w : JournalWhat) : (s.note p w).modulePower = s.modulePower := rfl

@[simp] theorem State.noteAs_cur (s : State) (q p : Nat) (w : JournalWhat) : (s.noteAs q p w).cur = s.cur := rfl
@[simp] theorem State.noteAs_ir (s : State) (q p : Nat) (w : JournalWhat) : (s.noteAs q p w).ir = s.ir := rfl
@[simp] theorem State.noteAs_agenda (s : State) (q p : Nat) (w : JournalWhat) : (s.noteAs q p w).agenda = s.agenda := rfl
@[simp] theorem State.noteAs_turn (s : State) (q p : Nat) (w : JournalWhat) : (s.noteAs q p w).turn = s.turn := rfl
@[simp] theorem State.noteAs_fresh (s : State) (q p : Nat) (w : JournalWhat) : (s.noteAs q p w).fresh = s.fresh := rfl
@[simp] theorem State.noteAs_wafer (s : State) (q p : Nat) (w : JournalWhat) : (s.noteAs q p w).wafer = s.wafer := rfl
@[simp] theorem State.noteAs_mem (s : State) (q p : Nat) (w : JournalWhat) : (s.noteAs q p w).mem = s.mem := rfl
@[simp] theorem State.noteAs_serials (s : State) (q p : Nat) (w : JournalWhat) : (s.noteAs q p w).serials = s.serials := rfl
@[simp] theorem State.noteAs_poison (s : State) (q p : Nat) (w : JournalWhat) : (s.noteAs q p w).poison = s.poison := rfl
@[simp] theorem State.noteAs_lineKeys (s : State) (q p : Nat) (w : JournalWhat) : (s.noteAs q p w).lineKeys = s.lineKeys := rfl
@[simp] theorem State.noteAs_cores (s : State) (q p : Nat) (w : JournalWhat) : (s.noteAs q p w).cores = s.cores := rfl
@[simp] theorem State.noteAs_clusters (s : State) (q p : Nat) (w : JournalWhat) : (s.noteAs q p w).clusters = s.clusters := rfl
@[simp] theorem State.noteAs_slices (s : State) (q p : Nat) (w : JournalWhat) : (s.noteAs q p w).slices = s.slices := rfl
@[simp] theorem State.noteAs_reticles (s : State) (q p : Nat) (w : JournalWhat) : (s.noteAs q p w).reticles = s.reticles := rfl
@[simp] theorem State.noteAs_partitions (s : State) (q p : Nat) (w : JournalWhat) : (s.noteAs q p w).partitions = s.partitions := rfl
@[simp] theorem State.noteAs_runs (s : State) (q p : Nat) (w : JournalWhat) : (s.noteAs q p w).runs = s.runs := rfl
@[simp] theorem State.noteAs_groups (s : State) (q p : Nat) (w : JournalWhat) : (s.noteAs q p w).groups = s.groups := rfl
@[simp] theorem State.noteAs_changes (s : State) (q p : Nat) (w : JournalWhat) : (s.noteAs q p w).changes = s.changes := rfl
@[simp] theorem State.noteAs_saved (s : State) (q p : Nat) (w : JournalWhat) : (s.noteAs q p w).saved = s.saved := rfl
@[simp] theorem State.noteAs_ejected (s : State) (q p : Nat) (w : JournalWhat) : (s.noteAs q p w).ejected = s.ejected := rfl
@[simp] theorem State.noteAs_ejectSections (s : State) (q p : Nat) (w : JournalWhat) : (s.noteAs q p w).ejectSections = s.ejectSections := rfl
@[simp] theorem State.noteAs_keySlots (s : State) (q p : Nat) (w : JournalWhat) : (s.noteAs q p w).keySlots = s.keySlots := rfl
@[simp] theorem State.noteAs_nsel (s : State) (q p : Nat) (w : JournalWhat) : (s.noteAs q p w).nsel = s.nsel := rfl
@[simp] theorem State.noteAs_nselDue (s : State) (q p : Nat) (w : JournalWhat) : (s.noteAs q p w).nselDue = s.nselDue := rfl
@[simp] theorem State.noteAs_startRecords (s : State) (q p : Nat) (w : JournalWhat) : (s.noteAs q p w).startRecords = s.startRecords := rfl
@[simp] theorem State.noteAs_reports (s : State) (q p : Nat) (w : JournalWhat) : (s.noteAs q p w).reports = s.reports := rfl
@[simp] theorem State.noteAs_toHost (s : State) (q p : Nat) (w : JournalWhat) : (s.noteAs q p w).toHost = s.toHost := rfl
@[simp] theorem State.noteAs_chiplets (s : State) (q p : Nat) (w : JournalWhat) : (s.noteAs q p w).chiplets = s.chiplets := rfl
@[simp] theorem State.noteAs_blocks (s : State) (q p : Nat) (w : JournalWhat) : (s.noteAs q p w).blocks = s.blocks := rfl
@[simp] theorem State.noteAs_deadBonds (s : State) (q p : Nat) (w : JournalWhat) : (s.noteAs q p w).deadBonds = s.deadBonds := rfl
@[simp] theorem State.noteAs_bondReadings (s : State) (q p : Nat) (w : JournalWhat) : (s.noteAs q p w).bondReadings = s.bondReadings := rfl
@[simp] theorem State.noteAs_routing (s : State) (q p : Nat) (w : JournalWhat) : (s.noteAs q p w).routing = s.routing := rfl
@[simp] theorem State.noteAs_update (s : State) (q p : Nat) (w : JournalWhat) : (s.noteAs q p w).update = s.update := rfl
@[simp] theorem State.noteAs_bands (s : State) (q p : Nat) (w : JournalWhat) : (s.noteAs q p w).bands = s.bands := rfl
@[simp] theorem State.noteAs_lowPower (s : State) (q p : Nat) (w : JournalWhat) : (s.noteAs q p w).lowPower = s.lowPower := rfl
@[simp] theorem State.noteAs_links (s : State) (q p : Nat) (w : JournalWhat) : (s.noteAs q p w).links = s.links := rfl
@[simp] theorem State.noteAs_firmware (s : State) (q p : Nat) (w : JournalWhat) : (s.noteAs q p w).firmware = s.firmware := rfl
@[simp] theorem State.noteAs_nextFirmware (s : State) (q p : Nat) (w : JournalWhat) : (s.noteAs q p w).nextFirmware = s.nextFirmware := rfl
@[simp] theorem State.noteAs_modulePower (s : State) (q p : Nat) (w : JournalWhat) : (s.noteAs q p w).modulePower = s.modulePower := rfl

@[simp] theorem State.tell_cur (s : State) (m : ToHost) : (s.tell m).cur = s.cur := rfl
@[simp] theorem State.tell_ir (s : State) (m : ToHost) : (s.tell m).ir = s.ir := rfl
@[simp] theorem State.tell_agenda (s : State) (m : ToHost) : (s.tell m).agenda = s.agenda := rfl
@[simp] theorem State.tell_turn (s : State) (m : ToHost) : (s.tell m).turn = s.turn := rfl
@[simp] theorem State.tell_fresh (s : State) (m : ToHost) : (s.tell m).fresh = s.fresh := rfl
@[simp] theorem State.tell_wafer (s : State) (m : ToHost) : (s.tell m).wafer = s.wafer := rfl
@[simp] theorem State.tell_mem (s : State) (m : ToHost) : (s.tell m).mem = s.mem := rfl
@[simp] theorem State.tell_serials (s : State) (m : ToHost) : (s.tell m).serials = s.serials := rfl
@[simp] theorem State.tell_poison (s : State) (m : ToHost) : (s.tell m).poison = s.poison := rfl
@[simp] theorem State.tell_lineKeys (s : State) (m : ToHost) : (s.tell m).lineKeys = s.lineKeys := rfl
@[simp] theorem State.tell_cores (s : State) (m : ToHost) : (s.tell m).cores = s.cores := rfl
@[simp] theorem State.tell_clusters (s : State) (m : ToHost) : (s.tell m).clusters = s.clusters := rfl
@[simp] theorem State.tell_slices (s : State) (m : ToHost) : (s.tell m).slices = s.slices := rfl
@[simp] theorem State.tell_reticles (s : State) (m : ToHost) : (s.tell m).reticles = s.reticles := rfl
@[simp] theorem State.tell_partitions (s : State) (m : ToHost) : (s.tell m).partitions = s.partitions := rfl
@[simp] theorem State.tell_runs (s : State) (m : ToHost) : (s.tell m).runs = s.runs := rfl
@[simp] theorem State.tell_groups (s : State) (m : ToHost) : (s.tell m).groups = s.groups := rfl
@[simp] theorem State.tell_changes (s : State) (m : ToHost) : (s.tell m).changes = s.changes := rfl
@[simp] theorem State.tell_saved (s : State) (m : ToHost) : (s.tell m).saved = s.saved := rfl
@[simp] theorem State.tell_ejected (s : State) (m : ToHost) : (s.tell m).ejected = s.ejected := rfl
@[simp] theorem State.tell_ejectSections (s : State) (m : ToHost) : (s.tell m).ejectSections = s.ejectSections := rfl
@[simp] theorem State.tell_keySlots (s : State) (m : ToHost) : (s.tell m).keySlots = s.keySlots := rfl
@[simp] theorem State.tell_nsel (s : State) (m : ToHost) : (s.tell m).nsel = s.nsel := rfl
@[simp] theorem State.tell_nselDue (s : State) (m : ToHost) : (s.tell m).nselDue = s.nselDue := rfl
@[simp] theorem State.tell_journal (s : State) (m : ToHost) : (s.tell m).journal = s.journal := rfl
@[simp] theorem State.tell_startRecords (s : State) (m : ToHost) : (s.tell m).startRecords = s.startRecords := rfl
@[simp] theorem State.tell_reports (s : State) (m : ToHost) : (s.tell m).reports = s.reports := rfl
@[simp] theorem State.tell_chiplets (s : State) (m : ToHost) : (s.tell m).chiplets = s.chiplets := rfl
@[simp] theorem State.tell_blocks (s : State) (m : ToHost) : (s.tell m).blocks = s.blocks := rfl
@[simp] theorem State.tell_deadBonds (s : State) (m : ToHost) : (s.tell m).deadBonds = s.deadBonds := rfl
@[simp] theorem State.tell_bondReadings (s : State) (m : ToHost) : (s.tell m).bondReadings = s.bondReadings := rfl
@[simp] theorem State.tell_routing (s : State) (m : ToHost) : (s.tell m).routing = s.routing := rfl
@[simp] theorem State.tell_update (s : State) (m : ToHost) : (s.tell m).update = s.update := rfl
@[simp] theorem State.tell_bands (s : State) (m : ToHost) : (s.tell m).bands = s.bands := rfl
@[simp] theorem State.tell_lowPower (s : State) (m : ToHost) : (s.tell m).lowPower = s.lowPower := rfl
@[simp] theorem State.tell_links (s : State) (m : ToHost) : (s.tell m).links = s.links := rfl
@[simp] theorem State.tell_firmware (s : State) (m : ToHost) : (s.tell m).firmware = s.firmware := rfl
@[simp] theorem State.tell_nextFirmware (s : State) (m : ToHost) : (s.tell m).nextFirmware = s.nextFirmware := rfl
@[simp] theorem State.tell_modulePower (s : State) (m : ToHost) : (s.tell m).modulePower = s.modulePower := rfl

@[simp] theorem State.setByte_cur (s : State) (k : Nat) (v : Byte) : (s.setByte k v).cur = s.cur := rfl
@[simp] theorem State.setByte_ir (s : State) (k : Nat) (v : Byte) : (s.setByte k v).ir = s.ir := rfl
@[simp] theorem State.setByte_agenda (s : State) (k : Nat) (v : Byte) : (s.setByte k v).agenda = s.agenda := rfl
@[simp] theorem State.setByte_turn (s : State) (k : Nat) (v : Byte) : (s.setByte k v).turn = s.turn := rfl
@[simp] theorem State.setByte_fresh (s : State) (k : Nat) (v : Byte) : (s.setByte k v).fresh = s.fresh := rfl
@[simp] theorem State.setByte_wafer (s : State) (k : Nat) (v : Byte) : (s.setByte k v).wafer = s.wafer := rfl
@[simp] theorem State.setByte_serials (s : State) (k : Nat) (v : Byte) : (s.setByte k v).serials = s.serials := rfl
@[simp] theorem State.setByte_poison (s : State) (k : Nat) (v : Byte) : (s.setByte k v).poison = s.poison := rfl
@[simp] theorem State.setByte_lineKeys (s : State) (k : Nat) (v : Byte) : (s.setByte k v).lineKeys = s.lineKeys := rfl
@[simp] theorem State.setByte_cores (s : State) (k : Nat) (v : Byte) : (s.setByte k v).cores = s.cores := rfl
@[simp] theorem State.setByte_clusters (s : State) (k : Nat) (v : Byte) : (s.setByte k v).clusters = s.clusters := rfl
@[simp] theorem State.setByte_slices (s : State) (k : Nat) (v : Byte) : (s.setByte k v).slices = s.slices := rfl
@[simp] theorem State.setByte_reticles (s : State) (k : Nat) (v : Byte) : (s.setByte k v).reticles = s.reticles := rfl
@[simp] theorem State.setByte_partitions (s : State) (k : Nat) (v : Byte) : (s.setByte k v).partitions = s.partitions := rfl
@[simp] theorem State.setByte_runs (s : State) (k : Nat) (v : Byte) : (s.setByte k v).runs = s.runs := rfl
@[simp] theorem State.setByte_groups (s : State) (k : Nat) (v : Byte) : (s.setByte k v).groups = s.groups := rfl
@[simp] theorem State.setByte_changes (s : State) (k : Nat) (v : Byte) : (s.setByte k v).changes = s.changes := rfl
@[simp] theorem State.setByte_saved (s : State) (k : Nat) (v : Byte) : (s.setByte k v).saved = s.saved := rfl
@[simp] theorem State.setByte_ejected (s : State) (k : Nat) (v : Byte) : (s.setByte k v).ejected = s.ejected := rfl
@[simp] theorem State.setByte_ejectSections (s : State) (k : Nat) (v : Byte) : (s.setByte k v).ejectSections = s.ejectSections := rfl
@[simp] theorem State.setByte_keySlots (s : State) (k : Nat) (v : Byte) : (s.setByte k v).keySlots = s.keySlots := rfl
@[simp] theorem State.setByte_nsel (s : State) (k : Nat) (v : Byte) : (s.setByte k v).nsel = s.nsel := rfl
@[simp] theorem State.setByte_nselDue (s : State) (k : Nat) (v : Byte) : (s.setByte k v).nselDue = s.nselDue := rfl
@[simp] theorem State.setByte_journal (s : State) (k : Nat) (v : Byte) : (s.setByte k v).journal = s.journal := rfl
@[simp] theorem State.setByte_startRecords (s : State) (k : Nat) (v : Byte) : (s.setByte k v).startRecords = s.startRecords := rfl
@[simp] theorem State.setByte_reports (s : State) (k : Nat) (v : Byte) : (s.setByte k v).reports = s.reports := rfl
@[simp] theorem State.setByte_toHost (s : State) (k : Nat) (v : Byte) : (s.setByte k v).toHost = s.toHost := rfl
@[simp] theorem State.setByte_chiplets (s : State) (k : Nat) (v : Byte) : (s.setByte k v).chiplets = s.chiplets := rfl
@[simp] theorem State.setByte_blocks (s : State) (k : Nat) (v : Byte) : (s.setByte k v).blocks = s.blocks := rfl
@[simp] theorem State.setByte_deadBonds (s : State) (k : Nat) (v : Byte) : (s.setByte k v).deadBonds = s.deadBonds := rfl
@[simp] theorem State.setByte_bondReadings (s : State) (k : Nat) (v : Byte) : (s.setByte k v).bondReadings = s.bondReadings := rfl
@[simp] theorem State.setByte_routing (s : State) (k : Nat) (v : Byte) : (s.setByte k v).routing = s.routing := rfl
@[simp] theorem State.setByte_update (s : State) (k : Nat) (v : Byte) : (s.setByte k v).update = s.update := rfl
@[simp] theorem State.setByte_bands (s : State) (k : Nat) (v : Byte) : (s.setByte k v).bands = s.bands := rfl
@[simp] theorem State.setByte_lowPower (s : State) (k : Nat) (v : Byte) : (s.setByte k v).lowPower = s.lowPower := rfl
@[simp] theorem State.setByte_links (s : State) (k : Nat) (v : Byte) : (s.setByte k v).links = s.links := rfl
@[simp] theorem State.setByte_firmware (s : State) (k : Nat) (v : Byte) : (s.setByte k v).firmware = s.firmware := rfl
@[simp] theorem State.setByte_nextFirmware (s : State) (k : Nat) (v : Byte) : (s.setByte k v).nextFirmware = s.nextFirmware := rfl
@[simp] theorem State.setByte_modulePower (s : State) (k : Nat) (v : Byte) : (s.setByte k v).modulePower = s.modulePower := rfl

/-! ### Core -/

@[simp] theorem Core.setStrand_run (s : Core) (n : Nat) (t : Strand) : (s.setStrand n t).run = s.run := rfl
@[simp] theorem Core.setStrand_retired (s : Core) (n : Nat) (t : Strand) : (s.setStrand n t).retired = s.retired := rfl
@[simp] theorem Core.setStrand_stopped (s : Core) (n : Nat) (t : Strand) : (s.setStrand n t).stopped = s.stopped := rfl
@[simp] theorem Core.setStrand_switchedOut (s : Core) (n : Nat) (t : Strand) : (s.setStrand n t).switchedOut = s.switchedOut := rfl
@[simp] theorem Core.setStrand_scr (s : Core) (n : Nat) (t : Strand) : (s.setStrand n t).scr = s.scr := rfl
@[simp] theorem Core.setStrand_calends (s : Core) (n : Nat) (t : Strand) : (s.setStrand n t).calends = s.calends := rfl
@[simp] theorem Core.setStrand_ticks (s : Core) (n : Nat) (t : Strand) : (s.setStrand n t).ticks = s.ticks := rfl
@[simp] theorem Core.setStrand_slots (s : Core) (n : Nat) (t : Strand) : (s.setStrand n t).slots = s.slots := rfl
@[simp] theorem Core.setStrand_sloten (s : Core) (n : Nat) (t : Strand) : (s.setStrand n t).sloten = s.sloten := rfl
@[simp] theorem Core.setStrand_pendingSlots (s : Core) (n : Nat) (t : Strand) : (s.setStrand n t).pendingSlots = s.pendingSlots := rfl
@[simp] theorem Core.setStrand_advq (s : Core) (n : Nat) (t : Strand) : (s.setStrand n t).advq = s.advq := rfl
@[simp] theorem Core.setStrand_advqh (s : Core) (n : Nat) (t : Strand) : (s.setStrand n t).advqh = s.advqh := rfl
@[simp] theorem Core.setStrand_qlimit (s : Core) (n : Nat) (t : Strand) : (s.setStrand n t).qlimit = s.qlimit := rfl
@[simp] theorem Core.setStrand_balance (s : Core) (n : Nat) (t : Strand) : (s.setStrand n t).balance = s.balance := rfl
@[simp] theorem Core.setStrand_tvec (s : Core) (n : Nat) (t : Strand) : (s.setStrand n t).tvec = s.tvec := rfl
@[simp] theorem Core.setStrand_pctx (s : Core) (n : Nat) (t : Strand) : (s.setStrand n t).pctx = s.pctx := rfl
@[simp] theorem Core.setStrand_hostmsg (s : Core) (n : Nat) (t : Strand) : (s.setStrand n t).hostmsg = s.hostmsg := rfl
@[simp] theorem Core.setStrand_queues (s : Core) (n : Nat) (t : Strand) : (s.setStrand n t).queues = s.queues := rfl
@[simp] theorem Core.setStrand_rings (s : Core) (n : Nat) (t : Strand) : (s.setStrand n t).rings = s.rings := rfl
@[simp] theorem Core.setStrand_almS (s : Core) (n : Nat) (t : Strand) : (s.setStrand n t).almS = s.almS := rfl
@[simp] theorem Core.setStrand_almN (s : Core) (n : Nat) (t : Strand) : (s.setStrand n t).almN = s.almN := rfl
@[simp] theorem Core.setStrand_almBase (s : Core) (n : Nat) (t : Strand) : (s.setStrand n t).almBase = s.almBase := rfl
@[simp] theorem Core.setStrand_almanac (s : Core) (n : Nat) (t : Strand) : (s.setStrand n t).almanac = s.almanac := rfl
@[simp] theorem Core.setStrand_deque (s : Core) (n : Nat) (t : Strand) : (s.setStrand n t).deque = s.deque := rfl
@[simp] theorem Core.setStrand_levelAt (s : Core) (n : Nat) (t : Strand) : (s.setStrand n t).levelAt = s.levelAt := rfl
@[simp] theorem Core.setStrand_l1 (s : Core) (n : Nat) (t : Strand) : (s.setStrand n t).l1 = s.l1 := rfl
@[simp] theorem Core.setStrand_l1Use (s : Core) (n : Nat) (t : Strand) : (s.setStrand n t).l1Use = s.l1Use := rfl
@[simp] theorem Core.setStrand_icache (s : Core) (n : Nat) (t : Strand) : (s.setStrand n t).icache = s.icache := rfl
@[simp] theorem Core.setStrand_locks (s : Core) (n : Nat) (t : Strand) : (s.setStrand n t).locks = s.locks := rfl
@[simp] theorem Core.setStrand_portLocks (s : Core) (n : Nat) (t : Strand) : (s.setStrand n t).portLocks = s.portLocks := rfl
@[simp] theorem Core.setStrand_nextId (s : Core) (n : Nat) (t : Strand) : (s.setStrand n t).nextId = s.nextId := rfl
@[simp] theorem Core.setStrand_nodes (s : Core) (n : Nat) (t : Strand) : (s.setStrand n t).nodes = s.nodes := rfl
@[simp] theorem Core.setStrand_nextAge (s : Core) (n : Nat) (t : Strand) : (s.setStrand n t).nextAge = s.nextAge := rfl
@[simp] theorem Core.setStrand_copies (s : Core) (n : Nat) (t : Strand) : (s.setStrand n t).copies = s.copies := rfl
@[simp] theorem Core.setStrand_bcast (s : Core) (n : Nat) (t : Strand) : (s.setStrand n t).bcast = s.bcast := rfl
@[simp] theorem Core.setStrand_arrivals (s : Core) (n : Nat) (t : Strand) : (s.setStrand n t).arrivals = s.arrivals := rfl

@[simp] theorem Core.setQueue_run (s : Core) (q : Nat) (v : Queue) : (s.setQueue q v).run = s.run := rfl
@[simp] theorem Core.setQueue_retired (s : Core) (q : Nat) (v : Queue) : (s.setQueue q v).retired = s.retired := rfl
@[simp] theorem Core.setQueue_stopped (s : Core) (q : Nat) (v : Queue) : (s.setQueue q v).stopped = s.stopped := rfl
@[simp] theorem Core.setQueue_switchedOut (s : Core) (q : Nat) (v : Queue) : (s.setQueue q v).switchedOut = s.switchedOut := rfl
@[simp] theorem Core.setQueue_scr (s : Core) (q : Nat) (v : Queue) : (s.setQueue q v).scr = s.scr := rfl
@[simp] theorem Core.setQueue_calends (s : Core) (q : Nat) (v : Queue) : (s.setQueue q v).calends = s.calends := rfl
@[simp] theorem Core.setQueue_ticks (s : Core) (q : Nat) (v : Queue) : (s.setQueue q v).ticks = s.ticks := rfl
@[simp] theorem Core.setQueue_slots (s : Core) (q : Nat) (v : Queue) : (s.setQueue q v).slots = s.slots := rfl
@[simp] theorem Core.setQueue_sloten (s : Core) (q : Nat) (v : Queue) : (s.setQueue q v).sloten = s.sloten := rfl
@[simp] theorem Core.setQueue_pendingSlots (s : Core) (q : Nat) (v : Queue) : (s.setQueue q v).pendingSlots = s.pendingSlots := rfl
@[simp] theorem Core.setQueue_advq (s : Core) (q : Nat) (v : Queue) : (s.setQueue q v).advq = s.advq := rfl
@[simp] theorem Core.setQueue_advqh (s : Core) (q : Nat) (v : Queue) : (s.setQueue q v).advqh = s.advqh := rfl
@[simp] theorem Core.setQueue_qlimit (s : Core) (q : Nat) (v : Queue) : (s.setQueue q v).qlimit = s.qlimit := rfl
@[simp] theorem Core.setQueue_balance (s : Core) (q : Nat) (v : Queue) : (s.setQueue q v).balance = s.balance := rfl
@[simp] theorem Core.setQueue_tvec (s : Core) (q : Nat) (v : Queue) : (s.setQueue q v).tvec = s.tvec := rfl
@[simp] theorem Core.setQueue_pctx (s : Core) (q : Nat) (v : Queue) : (s.setQueue q v).pctx = s.pctx := rfl
@[simp] theorem Core.setQueue_hostmsg (s : Core) (q : Nat) (v : Queue) : (s.setQueue q v).hostmsg = s.hostmsg := rfl
@[simp] theorem Core.setQueue_rings (s : Core) (q : Nat) (v : Queue) : (s.setQueue q v).rings = s.rings := rfl
@[simp] theorem Core.setQueue_almS (s : Core) (q : Nat) (v : Queue) : (s.setQueue q v).almS = s.almS := rfl
@[simp] theorem Core.setQueue_almN (s : Core) (q : Nat) (v : Queue) : (s.setQueue q v).almN = s.almN := rfl
@[simp] theorem Core.setQueue_almBase (s : Core) (q : Nat) (v : Queue) : (s.setQueue q v).almBase = s.almBase := rfl
@[simp] theorem Core.setQueue_almanac (s : Core) (q : Nat) (v : Queue) : (s.setQueue q v).almanac = s.almanac := rfl
@[simp] theorem Core.setQueue_deque (s : Core) (q : Nat) (v : Queue) : (s.setQueue q v).deque = s.deque := rfl
@[simp] theorem Core.setQueue_levelAt (s : Core) (q : Nat) (v : Queue) : (s.setQueue q v).levelAt = s.levelAt := rfl
@[simp] theorem Core.setQueue_l1 (s : Core) (q : Nat) (v : Queue) : (s.setQueue q v).l1 = s.l1 := rfl
@[simp] theorem Core.setQueue_l1Use (s : Core) (q : Nat) (v : Queue) : (s.setQueue q v).l1Use = s.l1Use := rfl
@[simp] theorem Core.setQueue_icache (s : Core) (q : Nat) (v : Queue) : (s.setQueue q v).icache = s.icache := rfl
@[simp] theorem Core.setQueue_locks (s : Core) (q : Nat) (v : Queue) : (s.setQueue q v).locks = s.locks := rfl
@[simp] theorem Core.setQueue_portLocks (s : Core) (q : Nat) (v : Queue) : (s.setQueue q v).portLocks = s.portLocks := rfl
@[simp] theorem Core.setQueue_nextId (s : Core) (q : Nat) (v : Queue) : (s.setQueue q v).nextId = s.nextId := rfl
@[simp] theorem Core.setQueue_nodes (s : Core) (q : Nat) (v : Queue) : (s.setQueue q v).nodes = s.nodes := rfl
@[simp] theorem Core.setQueue_nextAge (s : Core) (q : Nat) (v : Queue) : (s.setQueue q v).nextAge = s.nextAge := rfl
@[simp] theorem Core.setQueue_copies (s : Core) (q : Nat) (v : Queue) : (s.setQueue q v).copies = s.copies := rfl
@[simp] theorem Core.setQueue_bcast (s : Core) (q : Nat) (v : Queue) : (s.setQueue q v).bcast = s.bcast := rfl
@[simp] theorem Core.setQueue_arrivals (s : Core) (q : Nat) (v : Queue) : (s.setQueue q v).arrivals = s.arrivals := rfl
@[simp] theorem Core.setQueue_strands (s : Core) (q : Nat) (v : Queue) : (s.setQueue q v).strands = s.strands := rfl

/-! ### Strand -/

@[simp] theorem Strand.setGreg_pc (s : Strand) (r : Reg) (v : Word) : (s.setGreg r v).pc = s.pc := by unfold Strand.setGreg; split <;> rfl
@[simp] theorem Strand.setGreg_life (s : Strand) (r : Reg) (v : Word) : (s.setGreg r v).life = s.life := by unfold Strand.setGreg; split <;> rfl
@[simp] theorem Strand.setGreg_v (s : Strand) (r : Reg) (v : Word) : (s.setGreg r v).v = s.v := by unfold Strand.setGreg; split <;> rfl
@[simp] theorem Strand.setGreg_p (s : Strand) (r : Reg) (v : Word) : (s.setGreg r v).p = s.p := by unfold Strand.setGreg; split <;> rfl
@[simp] theorem Strand.setGreg_m (s : Strand) (r : Reg) (v : Word) : (s.setGreg r v).m = s.m := by unfold Strand.setGreg; split <;> rfl
@[simp] theorem Strand.setGreg_e (s : Strand) (r : Reg) (v : Word) : (s.setGreg r v).e = s.e := by unfold Strand.setGreg; split <;> rfl
@[simp] theorem Strand.setGreg_level0 (s : Strand) (r : Reg) (v : Word) : (s.setGreg r v).level0 = s.level0 := by unfold Strand.setGreg; split <;> rfl
@[simp] theorem Strand.setGreg_level1 (s : Strand) (r : Reg) (v : Word) : (s.setGreg r v).level1 = s.level1 := by unfold Strand.setGreg; split <;> rfl
@[simp] theorem Strand.setGreg_fctl (s : Strand) (r : Reg) (v : Word) : (s.setGreg r v).fctl = s.fctl := by unfold Strand.setGreg; split <;> rfl
@[simp] theorem Strand.setGreg_fmta (s : Strand) (r : Reg) (v : Word) : (s.setGreg r v).fmta = s.fmta := by unfold Strand.setGreg; split <;> rfl
@[simp] theorem Strand.setGreg_fmtb (s : Strand) (r : Reg) (v : Word) : (s.setGreg r v).fmtb = s.fmtb := by unfold Strand.setGreg; split <;> rfl
@[simp] theorem Strand.setGreg_scla (s : Strand) (r : Reg) (v : Word) : (s.setGreg r v).scla = s.scla := by unfold Strand.setGreg; split <;> rfl
@[simp] theorem Strand.setGreg_sclb (s : Strand) (r : Reg) (v : Word) : (s.setGreg r v).sclb = s.sclb := by unfold Strand.setGreg; split <;> rfl
@[simp] theorem Strand.setGreg_lastseq (s : Strand) (r : Reg) (v : Word) : (s.setGreg r v).lastseq = s.lastseq := by unfold Strand.setGreg; split <;> rfl
@[simp] theorem Strand.setGreg_status (s : Strand) (r : Reg) (v : Word) : (s.setGreg r v).status = s.status := by unfold Strand.setGreg; split <;> rfl
@[simp] theorem Strand.setGreg_tstatus (s : Strand) (r : Reg) (v : Word) : (s.setGreg r v).tstatus = s.tstatus := by unfold Strand.setGreg; split <;> rfl
@[simp] theorem Strand.setGreg_tcause (s : Strand) (r : Reg) (v : Word) : (s.setGreg r v).tcause = s.tcause := by unfold Strand.setGreg; split <;> rfl
@[simp] theorem Strand.setGreg_tpc (s : Strand) (r : Reg) (v : Word) : (s.setGreg r v).tpc = s.tpc := by unfold Strand.setGreg; split <;> rfl
@[simp] theorem Strand.setGreg_tval (s : Strand) (r : Reg) (v : Word) : (s.setGreg r v).tval = s.tval := by unfold Strand.setGreg; split <;> rfl
@[simp] theorem Strand.setGreg_tattr (s : Strand) (r : Reg) (v : Word) : (s.setGreg r v).tattr = s.tattr := by unfold Strand.setGreg; split <;> rfl
@[simp] theorem Strand.setGreg_tshadow (s : Strand) (r : Reg) (v : Word) : (s.setGreg r v).tshadow = s.tshadow := by unfold Strand.setGreg; split <;> rfl
@[simp] theorem Strand.setGreg_scratch (s : Strand) (r : Reg) (v : Word) : (s.setGreg r v).scratch = s.scratch := by unfold Strand.setGreg; split <;> rfl
@[simp] theorem Strand.setGreg_tls0 (s : Strand) (r : Reg) (v : Word) : (s.setGreg r v).tls0 = s.tls0 := by unfold Strand.setGreg; split <;> rfl
@[simp] theorem Strand.setGreg_tle0 (s : Strand) (r : Reg) (v : Word) : (s.setGreg r v).tle0 = s.tle0 := by unfold Strand.setGreg; split <;> rfl
@[simp] theorem Strand.setGreg_tlc0 (s : Strand) (r : Reg) (v : Word) : (s.setGreg r v).tlc0 = s.tlc0 := by unfold Strand.setGreg; split <;> rfl
@[simp] theorem Strand.setGreg_tls1 (s : Strand) (r : Reg) (v : Word) : (s.setGreg r v).tls1 = s.tls1 := by unfold Strand.setGreg; split <;> rfl
@[simp] theorem Strand.setGreg_tle1 (s : Strand) (r : Reg) (v : Word) : (s.setGreg r v).tle1 = s.tle1 := by unfold Strand.setGreg; split <;> rfl
@[simp] theorem Strand.setGreg_tlc1 (s : Strand) (r : Reg) (v : Word) : (s.setGreg r v).tlc1 = s.tlc1 := by unfold Strand.setGreg; split <;> rfl
@[simp] theorem Strand.setGreg_tcmp (s : Strand) (r : Reg) (v : Word) : (s.setGreg r v).tcmp = s.tcmp := by unfold Strand.setGreg; split <;> rfl
@[simp] theorem Strand.setGreg_dbsrc (s : Strand) (r : Reg) (v : Word) : (s.setGreg r v).dbsrc = s.dbsrc := by unfold Strand.setGreg; split <;> rfl
@[simp] theorem Strand.setGreg_xn (s : Strand) (r : Reg) (v : Word) : (s.setGreg r v).xn = s.xn := by unfold Strand.setGreg; split <;> rfl
@[simp] theorem Strand.setGreg_acks (s : Strand) (r : Reg) (v : Word) : (s.setGreg r v).acks = s.acks := by unfold Strand.setGreg; split <;> rfl
@[simp] theorem Strand.setGreg_refusals (s : Strand) (r : Reg) (v : Word) : (s.setGreg r v).refusals = s.refusals := by unfold Strand.setGreg; split <;> rfl
@[simp] theorem Strand.setGreg_outst (s : Strand) (r : Reg) (v : Word) : (s.setGreg r v).outst = s.outst := by unfold Strand.setGreg; split <;> rfl
@[simp] theorem Strand.setGreg_skip (s : Strand) (r : Reg) (v : Word) : (s.setGreg r v).skip = s.skip := by unfold Strand.setGreg; split <;> rfl
@[simp] theorem Strand.setGreg_stall (s : Strand) (r : Reg) (v : Word) : (s.setGreg r v).stall = s.stall := by unfold Strand.setGreg; split <;> rfl
@[simp] theorem Strand.setGreg_popped (s : Strand) (r : Reg) (v : Word) : (s.setGreg r v).popped = s.popped := by unfold Strand.setGreg; split <;> rfl
@[simp] theorem Strand.setGreg_rerun (s : Strand) (r : Reg) (v : Word) : (s.setGreg r v).rerun = s.rerun := by unfold Strand.setGreg; split <;> rfl
@[simp] theorem Strand.setGreg_record (s : Strand) (r : Reg) (v : Word) : (s.setGreg r v).record = s.record := by unfold Strand.setGreg; split <;> rfl
@[simp] theorem Strand.setGreg_scalars (s : Strand) (r : Reg) (v : Word) : (s.setGreg r v).scalars = s.scalars := by unfold Strand.setGreg; split <;> rfl
@[simp] theorem Strand.setGreg_order (s : Strand) (r : Reg) (v : Word) : (s.setGreg r v).order = s.order := by unfold Strand.setGreg; split <;> rfl
@[simp] theorem Strand.setGreg_again (s : Strand) (r : Reg) (v : Word) : (s.setGreg r v).again = s.again := by unfold Strand.setGreg; split <;> rfl
@[simp] theorem Strand.setGreg_fetchErr (s : Strand) (r : Reg) (v : Word) : (s.setGreg r v).fetchErr = s.fetchErr := by unfold Strand.setGreg; split <;> rfl
@[simp] theorem Strand.setGreg_startAt (s : Strand) (r : Reg) (v : Word) : (s.setGreg r v).startAt = s.startAt := by unfold Strand.setGreg; split <;> rfl
@[simp] theorem Strand.setGreg_reaping (s : Strand) (r : Reg) (v : Word) : (s.setGreg r v).reaping = s.reaping := by unfold Strand.setGreg; split <;> rfl

@[simp] theorem Strand.setPreg_pc (s : Strand) (r : Pred) (v : Word) : (s.setPreg r v).pc = s.pc := by unfold Strand.setPreg; split <;> rfl
@[simp] theorem Strand.setPreg_life (s : Strand) (r : Pred) (v : Word) : (s.setPreg r v).life = s.life := by unfold Strand.setPreg; split <;> rfl
@[simp] theorem Strand.setPreg_g (s : Strand) (r : Pred) (v : Word) : (s.setPreg r v).g = s.g := by unfold Strand.setPreg; split <;> rfl
@[simp] theorem Strand.setPreg_v (s : Strand) (r : Pred) (v : Word) : (s.setPreg r v).v = s.v := by unfold Strand.setPreg; split <;> rfl
@[simp] theorem Strand.setPreg_m (s : Strand) (r : Pred) (v : Word) : (s.setPreg r v).m = s.m := by unfold Strand.setPreg; split <;> rfl
@[simp] theorem Strand.setPreg_e (s : Strand) (r : Pred) (v : Word) : (s.setPreg r v).e = s.e := by unfold Strand.setPreg; split <;> rfl
@[simp] theorem Strand.setPreg_level0 (s : Strand) (r : Pred) (v : Word) : (s.setPreg r v).level0 = s.level0 := by unfold Strand.setPreg; split <;> rfl
@[simp] theorem Strand.setPreg_level1 (s : Strand) (r : Pred) (v : Word) : (s.setPreg r v).level1 = s.level1 := by unfold Strand.setPreg; split <;> rfl
@[simp] theorem Strand.setPreg_fctl (s : Strand) (r : Pred) (v : Word) : (s.setPreg r v).fctl = s.fctl := by unfold Strand.setPreg; split <;> rfl
@[simp] theorem Strand.setPreg_fmta (s : Strand) (r : Pred) (v : Word) : (s.setPreg r v).fmta = s.fmta := by unfold Strand.setPreg; split <;> rfl
@[simp] theorem Strand.setPreg_fmtb (s : Strand) (r : Pred) (v : Word) : (s.setPreg r v).fmtb = s.fmtb := by unfold Strand.setPreg; split <;> rfl
@[simp] theorem Strand.setPreg_scla (s : Strand) (r : Pred) (v : Word) : (s.setPreg r v).scla = s.scla := by unfold Strand.setPreg; split <;> rfl
@[simp] theorem Strand.setPreg_sclb (s : Strand) (r : Pred) (v : Word) : (s.setPreg r v).sclb = s.sclb := by unfold Strand.setPreg; split <;> rfl
@[simp] theorem Strand.setPreg_lastseq (s : Strand) (r : Pred) (v : Word) : (s.setPreg r v).lastseq = s.lastseq := by unfold Strand.setPreg; split <;> rfl
@[simp] theorem Strand.setPreg_status (s : Strand) (r : Pred) (v : Word) : (s.setPreg r v).status = s.status := by unfold Strand.setPreg; split <;> rfl
@[simp] theorem Strand.setPreg_tstatus (s : Strand) (r : Pred) (v : Word) : (s.setPreg r v).tstatus = s.tstatus := by unfold Strand.setPreg; split <;> rfl
@[simp] theorem Strand.setPreg_tcause (s : Strand) (r : Pred) (v : Word) : (s.setPreg r v).tcause = s.tcause := by unfold Strand.setPreg; split <;> rfl
@[simp] theorem Strand.setPreg_tpc (s : Strand) (r : Pred) (v : Word) : (s.setPreg r v).tpc = s.tpc := by unfold Strand.setPreg; split <;> rfl
@[simp] theorem Strand.setPreg_tval (s : Strand) (r : Pred) (v : Word) : (s.setPreg r v).tval = s.tval := by unfold Strand.setPreg; split <;> rfl
@[simp] theorem Strand.setPreg_tattr (s : Strand) (r : Pred) (v : Word) : (s.setPreg r v).tattr = s.tattr := by unfold Strand.setPreg; split <;> rfl
@[simp] theorem Strand.setPreg_tshadow (s : Strand) (r : Pred) (v : Word) : (s.setPreg r v).tshadow = s.tshadow := by unfold Strand.setPreg; split <;> rfl
@[simp] theorem Strand.setPreg_scratch (s : Strand) (r : Pred) (v : Word) : (s.setPreg r v).scratch = s.scratch := by unfold Strand.setPreg; split <;> rfl
@[simp] theorem Strand.setPreg_tls0 (s : Strand) (r : Pred) (v : Word) : (s.setPreg r v).tls0 = s.tls0 := by unfold Strand.setPreg; split <;> rfl
@[simp] theorem Strand.setPreg_tle0 (s : Strand) (r : Pred) (v : Word) : (s.setPreg r v).tle0 = s.tle0 := by unfold Strand.setPreg; split <;> rfl
@[simp] theorem Strand.setPreg_tlc0 (s : Strand) (r : Pred) (v : Word) : (s.setPreg r v).tlc0 = s.tlc0 := by unfold Strand.setPreg; split <;> rfl
@[simp] theorem Strand.setPreg_tls1 (s : Strand) (r : Pred) (v : Word) : (s.setPreg r v).tls1 = s.tls1 := by unfold Strand.setPreg; split <;> rfl
@[simp] theorem Strand.setPreg_tle1 (s : Strand) (r : Pred) (v : Word) : (s.setPreg r v).tle1 = s.tle1 := by unfold Strand.setPreg; split <;> rfl
@[simp] theorem Strand.setPreg_tlc1 (s : Strand) (r : Pred) (v : Word) : (s.setPreg r v).tlc1 = s.tlc1 := by unfold Strand.setPreg; split <;> rfl
@[simp] theorem Strand.setPreg_tcmp (s : Strand) (r : Pred) (v : Word) : (s.setPreg r v).tcmp = s.tcmp := by unfold Strand.setPreg; split <;> rfl
@[simp] theorem Strand.setPreg_dbsrc (s : Strand) (r : Pred) (v : Word) : (s.setPreg r v).dbsrc = s.dbsrc := by unfold Strand.setPreg; split <;> rfl
@[simp] theorem Strand.setPreg_xn (s : Strand) (r : Pred) (v : Word) : (s.setPreg r v).xn = s.xn := by unfold Strand.setPreg; split <;> rfl
@[simp] theorem Strand.setPreg_acks (s : Strand) (r : Pred) (v : Word) : (s.setPreg r v).acks = s.acks := by unfold Strand.setPreg; split <;> rfl
@[simp] theorem Strand.setPreg_refusals (s : Strand) (r : Pred) (v : Word) : (s.setPreg r v).refusals = s.refusals := by unfold Strand.setPreg; split <;> rfl
@[simp] theorem Strand.setPreg_outst (s : Strand) (r : Pred) (v : Word) : (s.setPreg r v).outst = s.outst := by unfold Strand.setPreg; split <;> rfl
@[simp] theorem Strand.setPreg_skip (s : Strand) (r : Pred) (v : Word) : (s.setPreg r v).skip = s.skip := by unfold Strand.setPreg; split <;> rfl
@[simp] theorem Strand.setPreg_stall (s : Strand) (r : Pred) (v : Word) : (s.setPreg r v).stall = s.stall := by unfold Strand.setPreg; split <;> rfl
@[simp] theorem Strand.setPreg_popped (s : Strand) (r : Pred) (v : Word) : (s.setPreg r v).popped = s.popped := by unfold Strand.setPreg; split <;> rfl
@[simp] theorem Strand.setPreg_rerun (s : Strand) (r : Pred) (v : Word) : (s.setPreg r v).rerun = s.rerun := by unfold Strand.setPreg; split <;> rfl
@[simp] theorem Strand.setPreg_record (s : Strand) (r : Pred) (v : Word) : (s.setPreg r v).record = s.record := by unfold Strand.setPreg; split <;> rfl
@[simp] theorem Strand.setPreg_scalars (s : Strand) (r : Pred) (v : Word) : (s.setPreg r v).scalars = s.scalars := by unfold Strand.setPreg; split <;> rfl
@[simp] theorem Strand.setPreg_order (s : Strand) (r : Pred) (v : Word) : (s.setPreg r v).order = s.order := by unfold Strand.setPreg; split <;> rfl
@[simp] theorem Strand.setPreg_again (s : Strand) (r : Pred) (v : Word) : (s.setPreg r v).again = s.again := by unfold Strand.setPreg; split <;> rfl
@[simp] theorem Strand.setPreg_fetchErr (s : Strand) (r : Pred) (v : Word) : (s.setPreg r v).fetchErr = s.fetchErr := by unfold Strand.setPreg; split <;> rfl
@[simp] theorem Strand.setPreg_startAt (s : Strand) (r : Pred) (v : Word) : (s.setPreg r v).startAt = s.startAt := by unfold Strand.setPreg; split <;> rfl
@[simp] theorem Strand.setPreg_reaping (s : Strand) (r : Pred) (v : Word) : (s.setPreg r v).reaping = s.reaping := by unfold Strand.setPreg; split <;> rfl

@[simp] theorem Strand.setVreg_pc (s : Strand) (r : Reg) (v : VReg) : (s.setVreg r v).pc = s.pc := rfl
@[simp] theorem Strand.setVreg_life (s : Strand) (r : Reg) (v : VReg) : (s.setVreg r v).life = s.life := rfl
@[simp] theorem Strand.setVreg_g (s : Strand) (r : Reg) (v : VReg) : (s.setVreg r v).g = s.g := rfl
@[simp] theorem Strand.setVreg_p (s : Strand) (r : Reg) (v : VReg) : (s.setVreg r v).p = s.p := rfl
@[simp] theorem Strand.setVreg_m (s : Strand) (r : Reg) (v : VReg) : (s.setVreg r v).m = s.m := rfl
@[simp] theorem Strand.setVreg_e (s : Strand) (r : Reg) (v : VReg) : (s.setVreg r v).e = s.e := rfl
@[simp] theorem Strand.setVreg_level0 (s : Strand) (r : Reg) (v : VReg) : (s.setVreg r v).level0 = s.level0 := rfl
@[simp] theorem Strand.setVreg_level1 (s : Strand) (r : Reg) (v : VReg) : (s.setVreg r v).level1 = s.level1 := rfl
@[simp] theorem Strand.setVreg_fctl (s : Strand) (r : Reg) (v : VReg) : (s.setVreg r v).fctl = s.fctl := rfl
@[simp] theorem Strand.setVreg_fmta (s : Strand) (r : Reg) (v : VReg) : (s.setVreg r v).fmta = s.fmta := rfl
@[simp] theorem Strand.setVreg_fmtb (s : Strand) (r : Reg) (v : VReg) : (s.setVreg r v).fmtb = s.fmtb := rfl
@[simp] theorem Strand.setVreg_scla (s : Strand) (r : Reg) (v : VReg) : (s.setVreg r v).scla = s.scla := rfl
@[simp] theorem Strand.setVreg_sclb (s : Strand) (r : Reg) (v : VReg) : (s.setVreg r v).sclb = s.sclb := rfl
@[simp] theorem Strand.setVreg_lastseq (s : Strand) (r : Reg) (v : VReg) : (s.setVreg r v).lastseq = s.lastseq := rfl
@[simp] theorem Strand.setVreg_status (s : Strand) (r : Reg) (v : VReg) : (s.setVreg r v).status = s.status := rfl
@[simp] theorem Strand.setVreg_tstatus (s : Strand) (r : Reg) (v : VReg) : (s.setVreg r v).tstatus = s.tstatus := rfl
@[simp] theorem Strand.setVreg_tcause (s : Strand) (r : Reg) (v : VReg) : (s.setVreg r v).tcause = s.tcause := rfl
@[simp] theorem Strand.setVreg_tpc (s : Strand) (r : Reg) (v : VReg) : (s.setVreg r v).tpc = s.tpc := rfl
@[simp] theorem Strand.setVreg_tval (s : Strand) (r : Reg) (v : VReg) : (s.setVreg r v).tval = s.tval := rfl
@[simp] theorem Strand.setVreg_tattr (s : Strand) (r : Reg) (v : VReg) : (s.setVreg r v).tattr = s.tattr := rfl
@[simp] theorem Strand.setVreg_tshadow (s : Strand) (r : Reg) (v : VReg) : (s.setVreg r v).tshadow = s.tshadow := rfl
@[simp] theorem Strand.setVreg_scratch (s : Strand) (r : Reg) (v : VReg) : (s.setVreg r v).scratch = s.scratch := rfl
@[simp] theorem Strand.setVreg_tls0 (s : Strand) (r : Reg) (v : VReg) : (s.setVreg r v).tls0 = s.tls0 := rfl
@[simp] theorem Strand.setVreg_tle0 (s : Strand) (r : Reg) (v : VReg) : (s.setVreg r v).tle0 = s.tle0 := rfl
@[simp] theorem Strand.setVreg_tlc0 (s : Strand) (r : Reg) (v : VReg) : (s.setVreg r v).tlc0 = s.tlc0 := rfl
@[simp] theorem Strand.setVreg_tls1 (s : Strand) (r : Reg) (v : VReg) : (s.setVreg r v).tls1 = s.tls1 := rfl
@[simp] theorem Strand.setVreg_tle1 (s : Strand) (r : Reg) (v : VReg) : (s.setVreg r v).tle1 = s.tle1 := rfl
@[simp] theorem Strand.setVreg_tlc1 (s : Strand) (r : Reg) (v : VReg) : (s.setVreg r v).tlc1 = s.tlc1 := rfl
@[simp] theorem Strand.setVreg_tcmp (s : Strand) (r : Reg) (v : VReg) : (s.setVreg r v).tcmp = s.tcmp := rfl
@[simp] theorem Strand.setVreg_dbsrc (s : Strand) (r : Reg) (v : VReg) : (s.setVreg r v).dbsrc = s.dbsrc := rfl
@[simp] theorem Strand.setVreg_xn (s : Strand) (r : Reg) (v : VReg) : (s.setVreg r v).xn = s.xn := rfl
@[simp] theorem Strand.setVreg_acks (s : Strand) (r : Reg) (v : VReg) : (s.setVreg r v).acks = s.acks := rfl
@[simp] theorem Strand.setVreg_refusals (s : Strand) (r : Reg) (v : VReg) : (s.setVreg r v).refusals = s.refusals := rfl
@[simp] theorem Strand.setVreg_outst (s : Strand) (r : Reg) (v : VReg) : (s.setVreg r v).outst = s.outst := rfl
@[simp] theorem Strand.setVreg_skip (s : Strand) (r : Reg) (v : VReg) : (s.setVreg r v).skip = s.skip := rfl
@[simp] theorem Strand.setVreg_stall (s : Strand) (r : Reg) (v : VReg) : (s.setVreg r v).stall = s.stall := rfl
@[simp] theorem Strand.setVreg_popped (s : Strand) (r : Reg) (v : VReg) : (s.setVreg r v).popped = s.popped := rfl
@[simp] theorem Strand.setVreg_rerun (s : Strand) (r : Reg) (v : VReg) : (s.setVreg r v).rerun = s.rerun := rfl
@[simp] theorem Strand.setVreg_record (s : Strand) (r : Reg) (v : VReg) : (s.setVreg r v).record = s.record := rfl
@[simp] theorem Strand.setVreg_scalars (s : Strand) (r : Reg) (v : VReg) : (s.setVreg r v).scalars = s.scalars := rfl
@[simp] theorem Strand.setVreg_order (s : Strand) (r : Reg) (v : VReg) : (s.setVreg r v).order = s.order := rfl
@[simp] theorem Strand.setVreg_again (s : Strand) (r : Reg) (v : VReg) : (s.setVreg r v).again = s.again := rfl
@[simp] theorem Strand.setVreg_fetchErr (s : Strand) (r : Reg) (v : VReg) : (s.setVreg r v).fetchErr = s.fetchErr := rfl
@[simp] theorem Strand.setVreg_startAt (s : Strand) (r : Reg) (v : VReg) : (s.setVreg r v).startAt = s.startAt := rfl
@[simp] theorem Strand.setVreg_reaping (s : Strand) (r : Reg) (v : VReg) : (s.setVreg r v).reaping = s.reaping := rfl

@[simp] theorem Strand.setEreg_pc (s : Strand) (r : Reg) (v : Word) : (s.setEreg r v).pc = s.pc := rfl
@[simp] theorem Strand.setEreg_life (s : Strand) (r : Reg) (v : Word) : (s.setEreg r v).life = s.life := rfl
@[simp] theorem Strand.setEreg_g (s : Strand) (r : Reg) (v : Word) : (s.setEreg r v).g = s.g := rfl
@[simp] theorem Strand.setEreg_v (s : Strand) (r : Reg) (v : Word) : (s.setEreg r v).v = s.v := rfl
@[simp] theorem Strand.setEreg_p (s : Strand) (r : Reg) (v : Word) : (s.setEreg r v).p = s.p := rfl
@[simp] theorem Strand.setEreg_m (s : Strand) (r : Reg) (v : Word) : (s.setEreg r v).m = s.m := rfl
@[simp] theorem Strand.setEreg_level0 (s : Strand) (r : Reg) (v : Word) : (s.setEreg r v).level0 = s.level0 := rfl
@[simp] theorem Strand.setEreg_level1 (s : Strand) (r : Reg) (v : Word) : (s.setEreg r v).level1 = s.level1 := rfl
@[simp] theorem Strand.setEreg_fctl (s : Strand) (r : Reg) (v : Word) : (s.setEreg r v).fctl = s.fctl := rfl
@[simp] theorem Strand.setEreg_fmta (s : Strand) (r : Reg) (v : Word) : (s.setEreg r v).fmta = s.fmta := rfl
@[simp] theorem Strand.setEreg_fmtb (s : Strand) (r : Reg) (v : Word) : (s.setEreg r v).fmtb = s.fmtb := rfl
@[simp] theorem Strand.setEreg_scla (s : Strand) (r : Reg) (v : Word) : (s.setEreg r v).scla = s.scla := rfl
@[simp] theorem Strand.setEreg_sclb (s : Strand) (r : Reg) (v : Word) : (s.setEreg r v).sclb = s.sclb := rfl
@[simp] theorem Strand.setEreg_lastseq (s : Strand) (r : Reg) (v : Word) : (s.setEreg r v).lastseq = s.lastseq := rfl
@[simp] theorem Strand.setEreg_status (s : Strand) (r : Reg) (v : Word) : (s.setEreg r v).status = s.status := rfl
@[simp] theorem Strand.setEreg_tstatus (s : Strand) (r : Reg) (v : Word) : (s.setEreg r v).tstatus = s.tstatus := rfl
@[simp] theorem Strand.setEreg_tcause (s : Strand) (r : Reg) (v : Word) : (s.setEreg r v).tcause = s.tcause := rfl
@[simp] theorem Strand.setEreg_tpc (s : Strand) (r : Reg) (v : Word) : (s.setEreg r v).tpc = s.tpc := rfl
@[simp] theorem Strand.setEreg_tval (s : Strand) (r : Reg) (v : Word) : (s.setEreg r v).tval = s.tval := rfl
@[simp] theorem Strand.setEreg_tattr (s : Strand) (r : Reg) (v : Word) : (s.setEreg r v).tattr = s.tattr := rfl
@[simp] theorem Strand.setEreg_tshadow (s : Strand) (r : Reg) (v : Word) : (s.setEreg r v).tshadow = s.tshadow := rfl
@[simp] theorem Strand.setEreg_scratch (s : Strand) (r : Reg) (v : Word) : (s.setEreg r v).scratch = s.scratch := rfl
@[simp] theorem Strand.setEreg_tls0 (s : Strand) (r : Reg) (v : Word) : (s.setEreg r v).tls0 = s.tls0 := rfl
@[simp] theorem Strand.setEreg_tle0 (s : Strand) (r : Reg) (v : Word) : (s.setEreg r v).tle0 = s.tle0 := rfl
@[simp] theorem Strand.setEreg_tlc0 (s : Strand) (r : Reg) (v : Word) : (s.setEreg r v).tlc0 = s.tlc0 := rfl
@[simp] theorem Strand.setEreg_tls1 (s : Strand) (r : Reg) (v : Word) : (s.setEreg r v).tls1 = s.tls1 := rfl
@[simp] theorem Strand.setEreg_tle1 (s : Strand) (r : Reg) (v : Word) : (s.setEreg r v).tle1 = s.tle1 := rfl
@[simp] theorem Strand.setEreg_tlc1 (s : Strand) (r : Reg) (v : Word) : (s.setEreg r v).tlc1 = s.tlc1 := rfl
@[simp] theorem Strand.setEreg_tcmp (s : Strand) (r : Reg) (v : Word) : (s.setEreg r v).tcmp = s.tcmp := rfl
@[simp] theorem Strand.setEreg_dbsrc (s : Strand) (r : Reg) (v : Word) : (s.setEreg r v).dbsrc = s.dbsrc := rfl
@[simp] theorem Strand.setEreg_xn (s : Strand) (r : Reg) (v : Word) : (s.setEreg r v).xn = s.xn := rfl
@[simp] theorem Strand.setEreg_acks (s : Strand) (r : Reg) (v : Word) : (s.setEreg r v).acks = s.acks := rfl
@[simp] theorem Strand.setEreg_refusals (s : Strand) (r : Reg) (v : Word) : (s.setEreg r v).refusals = s.refusals := rfl
@[simp] theorem Strand.setEreg_outst (s : Strand) (r : Reg) (v : Word) : (s.setEreg r v).outst = s.outst := rfl
@[simp] theorem Strand.setEreg_skip (s : Strand) (r : Reg) (v : Word) : (s.setEreg r v).skip = s.skip := rfl
@[simp] theorem Strand.setEreg_stall (s : Strand) (r : Reg) (v : Word) : (s.setEreg r v).stall = s.stall := rfl
@[simp] theorem Strand.setEreg_popped (s : Strand) (r : Reg) (v : Word) : (s.setEreg r v).popped = s.popped := rfl
@[simp] theorem Strand.setEreg_rerun (s : Strand) (r : Reg) (v : Word) : (s.setEreg r v).rerun = s.rerun := rfl
@[simp] theorem Strand.setEreg_record (s : Strand) (r : Reg) (v : Word) : (s.setEreg r v).record = s.record := rfl
@[simp] theorem Strand.setEreg_scalars (s : Strand) (r : Reg) (v : Word) : (s.setEreg r v).scalars = s.scalars := rfl
@[simp] theorem Strand.setEreg_order (s : Strand) (r : Reg) (v : Word) : (s.setEreg r v).order = s.order := rfl
@[simp] theorem Strand.setEreg_again (s : Strand) (r : Reg) (v : Word) : (s.setEreg r v).again = s.again := rfl
@[simp] theorem Strand.setEreg_fetchErr (s : Strand) (r : Reg) (v : Word) : (s.setEreg r v).fetchErr = s.fetchErr := rfl
@[simp] theorem Strand.setEreg_startAt (s : Strand) (r : Reg) (v : Word) : (s.setEreg r v).startAt = s.startAt := rfl
@[simp] theorem Strand.setEreg_reaping (s : Strand) (r : Reg) (v : Word) : (s.setEreg r v).reaping = s.reaping := rfl

@[simp] theorem Strand.setHandle_pc (s : Strand) (m : Tile) (h : Handle) : (s.setHandle m h).pc = s.pc := rfl
@[simp] theorem Strand.setHandle_life (s : Strand) (m : Tile) (h : Handle) : (s.setHandle m h).life = s.life := rfl
@[simp] theorem Strand.setHandle_g (s : Strand) (m : Tile) (h : Handle) : (s.setHandle m h).g = s.g := rfl
@[simp] theorem Strand.setHandle_v (s : Strand) (m : Tile) (h : Handle) : (s.setHandle m h).v = s.v := rfl
@[simp] theorem Strand.setHandle_p (s : Strand) (m : Tile) (h : Handle) : (s.setHandle m h).p = s.p := rfl
@[simp] theorem Strand.setHandle_e (s : Strand) (m : Tile) (h : Handle) : (s.setHandle m h).e = s.e := rfl
@[simp] theorem Strand.setHandle_level0 (s : Strand) (m : Tile) (h : Handle) : (s.setHandle m h).level0 = s.level0 := rfl
@[simp] theorem Strand.setHandle_level1 (s : Strand) (m : Tile) (h : Handle) : (s.setHandle m h).level1 = s.level1 := rfl
@[simp] theorem Strand.setHandle_fctl (s : Strand) (m : Tile) (h : Handle) : (s.setHandle m h).fctl = s.fctl := rfl
@[simp] theorem Strand.setHandle_fmta (s : Strand) (m : Tile) (h : Handle) : (s.setHandle m h).fmta = s.fmta := rfl
@[simp] theorem Strand.setHandle_fmtb (s : Strand) (m : Tile) (h : Handle) : (s.setHandle m h).fmtb = s.fmtb := rfl
@[simp] theorem Strand.setHandle_scla (s : Strand) (m : Tile) (h : Handle) : (s.setHandle m h).scla = s.scla := rfl
@[simp] theorem Strand.setHandle_sclb (s : Strand) (m : Tile) (h : Handle) : (s.setHandle m h).sclb = s.sclb := rfl
@[simp] theorem Strand.setHandle_lastseq (s : Strand) (m : Tile) (h : Handle) : (s.setHandle m h).lastseq = s.lastseq := rfl
@[simp] theorem Strand.setHandle_status (s : Strand) (m : Tile) (h : Handle) : (s.setHandle m h).status = s.status := rfl
@[simp] theorem Strand.setHandle_tstatus (s : Strand) (m : Tile) (h : Handle) : (s.setHandle m h).tstatus = s.tstatus := rfl
@[simp] theorem Strand.setHandle_tcause (s : Strand) (m : Tile) (h : Handle) : (s.setHandle m h).tcause = s.tcause := rfl
@[simp] theorem Strand.setHandle_tpc (s : Strand) (m : Tile) (h : Handle) : (s.setHandle m h).tpc = s.tpc := rfl
@[simp] theorem Strand.setHandle_tval (s : Strand) (m : Tile) (h : Handle) : (s.setHandle m h).tval = s.tval := rfl
@[simp] theorem Strand.setHandle_tattr (s : Strand) (m : Tile) (h : Handle) : (s.setHandle m h).tattr = s.tattr := rfl
@[simp] theorem Strand.setHandle_tshadow (s : Strand) (m : Tile) (h : Handle) : (s.setHandle m h).tshadow = s.tshadow := rfl
@[simp] theorem Strand.setHandle_scratch (s : Strand) (m : Tile) (h : Handle) : (s.setHandle m h).scratch = s.scratch := rfl
@[simp] theorem Strand.setHandle_tls0 (s : Strand) (m : Tile) (h : Handle) : (s.setHandle m h).tls0 = s.tls0 := rfl
@[simp] theorem Strand.setHandle_tle0 (s : Strand) (m : Tile) (h : Handle) : (s.setHandle m h).tle0 = s.tle0 := rfl
@[simp] theorem Strand.setHandle_tlc0 (s : Strand) (m : Tile) (h : Handle) : (s.setHandle m h).tlc0 = s.tlc0 := rfl
@[simp] theorem Strand.setHandle_tls1 (s : Strand) (m : Tile) (h : Handle) : (s.setHandle m h).tls1 = s.tls1 := rfl
@[simp] theorem Strand.setHandle_tle1 (s : Strand) (m : Tile) (h : Handle) : (s.setHandle m h).tle1 = s.tle1 := rfl
@[simp] theorem Strand.setHandle_tlc1 (s : Strand) (m : Tile) (h : Handle) : (s.setHandle m h).tlc1 = s.tlc1 := rfl
@[simp] theorem Strand.setHandle_tcmp (s : Strand) (m : Tile) (h : Handle) : (s.setHandle m h).tcmp = s.tcmp := rfl
@[simp] theorem Strand.setHandle_dbsrc (s : Strand) (m : Tile) (h : Handle) : (s.setHandle m h).dbsrc = s.dbsrc := rfl
@[simp] theorem Strand.setHandle_xn (s : Strand) (m : Tile) (h : Handle) : (s.setHandle m h).xn = s.xn := rfl
@[simp] theorem Strand.setHandle_acks (s : Strand) (m : Tile) (h : Handle) : (s.setHandle m h).acks = s.acks := rfl
@[simp] theorem Strand.setHandle_refusals (s : Strand) (m : Tile) (h : Handle) : (s.setHandle m h).refusals = s.refusals := rfl
@[simp] theorem Strand.setHandle_outst (s : Strand) (m : Tile) (h : Handle) : (s.setHandle m h).outst = s.outst := rfl
@[simp] theorem Strand.setHandle_skip (s : Strand) (m : Tile) (h : Handle) : (s.setHandle m h).skip = s.skip := rfl
@[simp] theorem Strand.setHandle_stall (s : Strand) (m : Tile) (h : Handle) : (s.setHandle m h).stall = s.stall := rfl
@[simp] theorem Strand.setHandle_popped (s : Strand) (m : Tile) (h : Handle) : (s.setHandle m h).popped = s.popped := rfl
@[simp] theorem Strand.setHandle_rerun (s : Strand) (m : Tile) (h : Handle) : (s.setHandle m h).rerun = s.rerun := rfl
@[simp] theorem Strand.setHandle_record (s : Strand) (m : Tile) (h : Handle) : (s.setHandle m h).record = s.record := rfl
@[simp] theorem Strand.setHandle_scalars (s : Strand) (m : Tile) (h : Handle) : (s.setHandle m h).scalars = s.scalars := rfl
@[simp] theorem Strand.setHandle_order (s : Strand) (m : Tile) (h : Handle) : (s.setHandle m h).order = s.order := rfl
@[simp] theorem Strand.setHandle_again (s : Strand) (m : Tile) (h : Handle) : (s.setHandle m h).again = s.again := rfl
@[simp] theorem Strand.setHandle_fetchErr (s : Strand) (m : Tile) (h : Handle) : (s.setHandle m h).fetchErr = s.fetchErr := rfl
@[simp] theorem Strand.setHandle_startAt (s : Strand) (m : Tile) (h : Handle) : (s.setHandle m h).startAt = s.startAt := rfl
@[simp] theorem Strand.setHandle_reaping (s : Strand) (m : Tile) (h : Handle) : (s.setHandle m h).reaping = s.reaping := rfl

/-! ### Read after write -/

@[simp] theorem State.core_setCore (s : State) (c : Nat) (k : Core) : (s.setCore c k).core c = k := lookupD_assign_self ..
theorem State.core_setCore_other (s : State) (c d : Nat) (k : Core) (h : d ≠ c) : (s.setCore c k).core d = s.core d :=
  lookupD_assign_other _ _ _ _ _ h
@[simp] theorem State.core_modCore (s : State) (c : Nat) (f : Core → Core) : (s.modCore c f).core c = f (s.core c) :=
  s.core_setCore c _
theorem State.core_modCore_other (s : State) (c d : Nat) (f : Core → Core) (h : d ≠ c) : (s.modCore c f).core d = s.core d :=
  s.core_setCore_other c d _ h

@[simp] theorem Core.strand_setStrand (k : Core) (n : Nat) (t : Strand) : (k.setStrand n t).strand n = t := by
  simp [Core.strand, Core.setStrand]
theorem Core.strand_setStrand_other (k : Core) (n m : Nat) (t : Strand) (h : m % 16 ≠ n % 16) :
    (k.setStrand n t).strand m = k.strand m := by
  simp [Core.strand, Core.setStrand, Ne.symm h]

@[simp] theorem State.strand_setStrand (s : State) (c n : Nat) (t : Strand) : (s.setStrand c n t).strand c n = t := by
  simp [State.strand, State.setStrand]
@[simp] theorem State.strand_modStrand (s : State) (c n : Nat) (f : Strand → Strand) :
    (s.modStrand c n f).strand c n = f (s.strand c n) := s.strand_setStrand c n _
theorem State.strand_modStrand_other (s : State) (c n d m : Nat) (f : Strand → Strand) (h : d ≠ c ∨ m % 16 ≠ n % 16) :
    (s.modStrand c n f).strand d m = s.strand d m := by
  by_cases hc : d = c
  · subst hc
    have h : m % 16 ≠ n % 16 := by simpa using h
    simp [State.strand, State.modStrand, State.setStrand, Core.strand_setStrand_other _ _ _ _ h]
  · simp [State.strand, State.modStrand, State.setStrand, State.core_setCore_other _ _ _ _ hc]

@[simp] theorem State.me_modMe (s : State) (f : Strand → Strand) : (s.modMe f).me = f s.me := s.strand_modStrand _ _ f
theorem State.strand_modMe_other (s : State) (f : Strand → Strand) (c n : Nat) (h : c ≠ s.cur.1 ∨ n % 16 ≠ s.cur.2 % 16) :
    (s.modMe f).strand c n = s.strand c n := s.strand_modStrand_other _ _ _ _ f h

@[simp] theorem State.cluster_setCluster (s : State) (k : Nat) (v : Cluster) : (s.setCluster k v).cluster k = v :=
  lookupD_assign_self ..
@[simp] theorem State.slice_setSlice (s : State) (k : Nat) (v : Slice) : (s.setSlice k v).slice k = v := lookupD_assign_self ..
@[simp] theorem State.reticle_setReticle (s : State) (k : Nat) (v : Reticle) : (s.setReticle k v).reticle k = v :=
  lookupD_assign_self ..
@[simp] theorem State.block_setBlock (s : State) (k : Nat) (v : Block) : (s.setBlock k v).block k = v := lookupD_assign_self ..

@[simp] theorem Core.queue_setQueue (k : Core) (q : Nat) (v : Queue) : (k.setQueue q v).queue q = v := by
  simp [Core.queue, Core.setQueue]

@[simp] theorem Strand.greg_zero (t : Strand) : t.greg 0 = 0 := rfl
theorem Strand.setGreg_zero (t : Strand) (v : Word) : t.setGreg 0 v = t := rfl
theorem Strand.greg_setGreg (t : Strand) (r : Reg) (v : Word) (h : r ≠ 0) : (t.setGreg r v).greg r = v := by
  unfold Strand.greg Strand.setGreg
  rw [if_neg h, if_neg h]
  simp
theorem Strand.greg_setGreg_other (t : Strand) (r q : Reg) (v : Word) (h : q ≠ r) : (t.setGreg r v).greg q = t.greg q := by
  unfold Strand.greg Strand.setGreg
  by_cases hq : q = 0
  · rw [if_pos hq, if_pos hq]
  · rw [if_neg hq, if_neg hq]
    by_cases hr : r = 0
    · rw [if_pos hr]
    · have hn : r.toNat ≠ q.toNat := fun e => h (BitVec.eq_of_toNat_eq e).symm
      rw [if_neg hr]
      simp [hn]
@[simp] theorem Strand.preg_zero (t : Strand) : t.preg 0 = BitVec.allOnes 64 := rfl
theorem Strand.setPreg_zero (t : Strand) (v : Word) : t.setPreg 0 v = t := rfl
theorem Strand.preg_setPreg (t : Strand) (p : Pred) (v : Word) (h : p ≠ 0) : (t.setPreg p v).preg p = v := by
  unfold Strand.preg Strand.setPreg
  rw [if_neg h, if_neg h]
  simp
theorem Strand.preg_setPreg_other (t : Strand) (p q : Pred) (v : Word) (h : q ≠ p) : (t.setPreg p v).preg q = t.preg q := by
  unfold Strand.preg Strand.setPreg
  by_cases hq : q = 0
  · rw [if_pos hq, if_pos hq]
  · rw [if_neg hq, if_neg hq]
    by_cases hr : p = 0
    · rw [if_pos hr]
    · have hn : p.toNat ≠ q.toNat := fun e => h (BitVec.eq_of_toNat_eq e).symm
      rw [if_neg hr]
      simp [hn]
@[simp] theorem Strand.vreg_setVreg (t : Strand) (r : Reg) (v : VReg) : (t.setVreg r v).vreg r = v := by
  simp [Strand.vreg, Strand.setVreg]
@[simp] theorem Strand.ereg_setEreg (t : Strand) (r : Reg) (v : Word) : (t.setEreg r v).ereg r = v := by
  simp [Strand.ereg, Strand.setEreg]
@[simp] theorem Strand.handle_setHandle (t : Strand) (m : Tile) (h : Handle) : (t.setHandle m h).handle m = h := by
  simp [Strand.handle, Strand.setHandle]

end Sys2Proof.Machine
end

