-- ==== Sys2Proof/Laws/Memory.lean ====
section
/-! SUPPORT. Memory: a byte reads as it was last written, other bytes are left alone, and every operation on the list keeps
its canonical form. -/

namespace Sys2Proof.Machine

/-! ### One byte -/

theorem cellsFrom_mono {lo hi : Nat} (h : lo ≤ hi) (m : List Host.Cell) (hm : cellsFrom hi m = true) : cellsFrom lo m = true := by
  cases m with
  | nil => rfl
  | cons e r => obtain ⟨j, b⟩ := e; simp [cellsFrom] at hm ⊢; exact ⟨⟨by omega, hm.1.2⟩, hm.2⟩

theorem cellRead_below {lo k : Nat} (m : List Host.Cell) (hm : cellsFrom lo m = true) (h : k < lo) : cellRead k m = unwritten := by
  cases m with
  | nil => rfl
  | cons e r =>
    obtain ⟨j, b⟩ := e
    simp [cellsFrom] at hm
    simp [cellRead, show j ≠ k by omega, show k < j by omega]

/-- A byte reads as it was last written. -/
theorem cellRead_cellWrite_self (k : Nat) (v : Byte) (lo : Nat) (m : List Host.Cell) (hm : cellsFrom lo m = true) :
    cellRead k (cellWrite k v m) = v := by
  induction m generalizing lo with
  | nil => by_cases hv : v = unwritten <;> simp [cellWrite, cellRead, hv]
  | cons e r ih =>
    obtain ⟨j, b⟩ := e
    simp only [cellsFrom, Bool.and_eq_true] at hm
    unfold cellWrite
    by_cases h1 : k < j
    · by_cases hv : v = unwritten
      · simp [h1, hv, cellRead, show j ≠ k by omega]
      · simp [h1, hv, cellRead]
    · by_cases h2 : j = k
      · subst h2
        by_cases hv : v = unwritten
        · simp only [lt_irrefl, if_false, if_true, hv]
          exact cellRead_below r hm.2 (by omega)
        · simp [hv, cellRead]
      · simp [h1, h2, cellRead, ih _ hm.2]

/-- Writing a byte leaves every other byte alone. -/
theorem cellRead_cellWrite_other (k j : Nat) (v : Byte) (h : j ≠ k) (lo : Nat) (m : List Host.Cell) (hm : cellsFrom lo m = true) :
    cellRead j (cellWrite k v m) = cellRead j m := by
  induction m generalizing lo with
  | nil => by_cases hv : v = unwritten <;> simp [cellWrite, cellRead, hv, Ne.symm h]
  | cons e r ih =>
    obtain ⟨i, b⟩ := e
    simp only [cellsFrom, Bool.and_eq_true] at hm
    unfold cellWrite
    by_cases h1 : k < i
    · by_cases hv : v = unwritten
      · simp [h1, hv]
      · simp only [h1, if_true, hv, if_false, cellRead, Ne.symm h]
        split
        · simp [show i ≠ j by omega, show j < i by omega]
        · rfl
    · by_cases h2 : i = k
      · subst h2
        by_cases hv : v = unwritten
        · simp only [lt_irrefl, if_false, if_true, hv, cellRead, Ne.symm h]
          split
          · exact cellRead_below r hm.2 (by omega)
          · rfl
        · simp [hv, cellRead, Ne.symm h]
      · simp only [h1, h2, if_false, cellRead, ih _ hm.2]

/-- A write keeps the canonical form. -/
theorem cellsFrom_cellWrite (k : Nat) (v : Byte) (lo : Nat) (hk : lo ≤ k) (m : List Host.Cell) (hm : cellsFrom lo m = true) :
    cellsFrom lo (cellWrite k v m) = true := by
  induction m generalizing lo with
  | nil => by_cases hv : v = unwritten <;> simp [cellWrite, cellsFrom, hv, hk]
  | cons e r ih =>
    obtain ⟨j, b⟩ := e
    simp only [cellsFrom, Bool.and_eq_true, decide_eq_true_eq] at hm
    unfold cellWrite
    by_cases h1 : k < j
    · by_cases hv : v = unwritten
      · simp [h1, hv, cellsFrom, hm]
      · simp [h1, hv, cellsFrom, hm, hk, show k + 1 ≤ j by omega]
    · by_cases h2 : j = k
      · subst h2
        by_cases hv : v = unwritten
        · simp only [lt_irrefl, if_false, if_true, hv]
          exact cellsFrom_mono (by omega) r hm.2
        · simp [hv, cellsFrom, hm]
      · simp only [h1, h2, if_false, cellsFrom, Bool.and_eq_true, decide_eq_true_eq]
        exact ⟨hm.1, ih _ (by omega) hm.2⟩

theorem cellsFrom_filter (lo : Nat) (p : Host.Cell → Bool) (m : List Host.Cell) (hm : cellsFrom lo m = true) :
    cellsFrom lo (m.filter p) = true := by
  induction m generalizing lo with
  | nil => rfl
  | cons e r ih =>
    obtain ⟨j, b⟩ := e
    simp only [cellsFrom, Bool.and_eq_true, decide_eq_true_eq] at hm
    by_cases hp : p (j, b) = true
    · simp [List.filter_cons_of_pos hp, cellsFrom, hm.1.1, hm.1.2, ih _ hm.2]
    · rw [List.filter_cons_of_neg hp]
      exact ih _ (cellsFrom_mono (by omega) r hm.2)

/-- Dropping bytes keeps the canonical form. -/
theorem Memory.wf_filter (p : Host.Cell → Bool) (m : List Host.Cell) (hm : Memory.wf m = true) : Memory.wf (m.filter p) = true :=
  cellsFrom_filter 0 p m hm

/-! ### The state's memory -/

theorem State.wf_setByte (s : State) (k : Nat) (v : Byte) (h : Memory.wf s.mem = true) : Memory.wf (s.setByte k v).mem = true :=
  cellsFrom_cellWrite k v 0 (Nat.zero_le k) s.mem h
theorem State.byte_setByte (s : State) (k : Nat) (v : Byte) (h : Memory.wf s.mem = true) : (s.setByte k v).byte k = v :=
  cellRead_cellWrite_self k v 0 s.mem h
theorem State.byte_setByte_other (s : State) (k j : Nat) (v : Byte) (hj : j ≠ k) (h : Memory.wf s.mem = true) :
    (s.setByte k v).byte j = s.byte j := cellRead_cellWrite_other k j v hj 0 s.mem h

theorem State.wf_setBytes (s : State) (k : Nat) (bs : List Byte) (h : Memory.wf s.mem = true) :
    Memory.wf (s.setBytes k bs).mem = true := by
  induction bs generalizing s k with
  | nil => exact h
  | cons b r ih => exact ih _ _ (s.wf_setByte k b h)

/-- Bytes outside a written range are left alone. -/
theorem State.byte_setBytes_other (s : State) (k j : Nat) (bs : List Byte) (hj : j < k ∨ k + bs.length ≤ j)
    (h : Memory.wf s.mem = true) : (s.setBytes k bs).byte j = s.byte j := by
  induction bs generalizing s k with
  | nil => rfl
  | cons b r ih =>
    simp only [List.length_cons] at hj
    rw [State.setBytes, ih _ _ (by omega) (s.wf_setByte k b h), s.byte_setByte_other k j b (by omega) h]

theorem toBytes_length (n v : Nat) : (toBytes n v).length = n := by
  induction n generalizing v with
  | zero => rfl
  | succ n ih => simp [toBytes, ih]

theorem ofBytes_toBytes (n v : Nat) : ofBytes (toBytes n v) = v % 256 ^ n := by
  induction n generalizing v with
  | zero => simp [toBytes, ofBytes, Nat.mod_one]
  | succ n ih =>
    simp only [toBytes, ofBytes, ih, BitVec.toNat_ofNat]
    rw [show 2 ^ 8 = 256 by decide, Nat.pow_succ', Nat.mod_mul]

/-- The bytes of a written range read as they were written. -/
theorem State.bytes_setBytes (s : State) (k : Nat) (bs : List Byte) (h : Memory.wf s.mem = true) :
    (s.setBytes k bs).bytes k bs.length = bs := by
  induction bs generalizing s k with
  | nil => rfl
  | cons b r ih =>
    have hw := s.wf_setByte k b h
    rw [State.setBytes, List.length_cons, State.bytes, ih _ _ hw,
      State.byte_setBytes_other _ _ _ _ (Or.inl (Nat.lt_succ_self k)) hw, s.byte_setByte k b h]

theorem State.wf_store (s : State) (k n v : Nat) (h : Memory.wf s.mem = true) : Memory.wf (s.store k n v).mem = true :=
  s.wf_setBytes k _ h
theorem State.byte_store_other (s : State) (k n v j : Nat) (hj : j < k ∨ k + n ≤ j) (h : Memory.wf s.mem = true) :
    (s.store k n v).byte j = s.byte j := s.byte_setBytes_other k j _ (by rwa [toBytes_length]) h

/-- A datum reads as it was stored, little-endian (R2). -/
theorem State.load_store (s : State) (k n v : Nat) (h : Memory.wf s.mem = true) : (s.store k n v).load k n = v % 256 ^ n := by
  have hb := s.bytes_setBytes k (toBytes n v) h
  rw [toBytes_length] at hb
  rw [State.load, State.store, hb, ofBytes_toBytes]

theorem State.wf_storeMasked (s : State) (k n mask v : Nat) (h : Memory.wf s.mem = true) :
    Memory.wf (s.storeMasked k n mask v).mem = true := s.wf_store k n _ h

theorem State.wf_reset : Memory.wf State.reset.mem = true := rfl

end Sys2Proof.Machine
end

