-- ==== Sys2Proof/Laws/Ops.lean ====
section
/-! SUPPORT. What the shared operations do: the operand gate, results, completion with and without loops, trap entry, and
what `result` can do at all. -/

namespace Sys2Proof.Machine

/-! ### Operands of an instruction that can issue -/

theorem Strand.port?_none (t : Strand) (r : Reg) (h : t.qmap = false) : t.port? r = none := by simp [Strand.port?, h]

theorem Strand.ports_nil (t : Strand) (rs : List Reg) (h : t.qmap = false) : t.ports rs = [] := by
  unfold Strand.ports
  rw [show rs.filterMap t.port? = [] from List.filterMap_eq_nil_iff.mpr fun r _ => t.port?_none r h]
  rfl

theorem Core.boundReg_false (k : Core) (n : Nat) (r : Reg) (h : ∀ c ∈ k.copies, c.strand ≠ n % 16) : k.boundReg n r = false := by
  unfold Core.boundReg
  rw [List.any_eq_false]
  intro c hc
  simp [h c hc]

theorem Core.busyReg_false (k : Core) (n : Nat) (r : Reg) (h : ∀ c ∈ k.copies, c.strand ≠ n % 16) : k.busyReg n r = false := by
  unfold Core.busyReg
  rw [List.any_eq_false]
  intro c hc
  simp [h c hc]

theorem State.blockedQueue_none (s : State) (srcs pushes : List Reg) (h : s.me.qmap = false) : s.blockedQueue srcs pushes = none := by
  unfold State.blockedQueue
  simp [Strand.ports_nil _ _ h]

theorem State.blocked_none {s : State} (h : s.Free) (srcs pushes writes : List Reg) : s.blocked srcs pushes writes = none := by
  unfold State.blocked
  simp [Core.busyReg_false _ _ _ h.noCopies, Core.boundReg_false _ _ _ h.noCopies, s.blockedQueue_none srcs pushes h.noPorts]

/-- An instruction that can issue is not held back. -/
theorem State.gate_free {s : State} (h : s.Free) (srcs pushes writes : List Reg) (go : Out) : s.gate srcs pushes writes go = go := by
  simp [State.gate, State.blocked_none h]

/-- Everything the gate can do: let the instruction go, or count one more empty slot. -/
theorem State.gate_cases (s : State) (srcs pushes writes : List Reg) (go : Out) :
    s.gate srcs pushes writes go = go ∨ ∃ w, s.gate srcs pushes writes go = .next (s.wait w) := by
  unfold State.gate
  split
  · exact .inr ⟨_, rfl⟩
  · exact .inl rfl

theorem State.read_free {s : State} (h : s.Free) (r : Reg) : s.read r = s.me.greg r := by
  simp [State.read, Strand.port?_none _ _ h.noPorts, h.noRerun]

theorem State.pops_free {s : State} (h : s.Free) (srcs : List Reg) : s.pops srcs = s := by
  simp [State.pops, Strand.ports_nil _ _ h.noPorts]

theorem State.writeG_plain (s : State) (c n : Nat) (r : Reg) (v : Word) (h : (s.strand c n).qmap = false) :
    s.writeG c n r v = s.modStrand c n fun t => t.setGreg r v := by
  simp [State.writeG, Strand.port?_none _ _ h]

theorem State.write_free {s : State} (h : s.Free) (r : Reg) (v : Word) : s.write r v = s.modMe fun t => t.setGreg r v :=
  s.writeG_plain _ _ r v h.noPorts

/-- A register-only instruction that can issue writes its destination and completes. -/
theorem State.result_free {s : State} (h : s.Free) (srcs : List Reg) (d : Reg) (v : Word) :
    s.result srcs d v = .next ((s.modMe fun t => t.setGreg d v).retire .on) := by
  unfold State.result
  rw [State.gate_free h, State.pops_free h, State.write_free h]

theorem State.resultFlags_free {s : State} (h : s.Free) (srcs : List Reg) (d : Reg) (v : Nat × Flags) :
    s.resultFlags srcs d v = .next (((s.modMe fun t => t.setGreg d (BitVec.ofNat 64 v.1)).flag v.2).retire .on) := by
  unfold State.resultFlags
  rw [State.gate_free h, State.pops_free h, State.write_free h]

/-- Everything a register-only instruction can do: it answers a next state that differs on its own core only. -/
theorem State.result_cases (s : State) (srcs : List Reg) (d : Reg) (v : Word) :
    s.result srcs d v = .next (((s.pops srcs).write d v).retire .on) ∨ ∃ w, s.result srcs d v = .next (s.wait w) := by
  rcases s.gate_cases srcs [d] [d] (.next (((s.pops srcs).write d v).retire .on)) with h | ⟨w, h⟩
  · exact .inl h
  · exact .inr ⟨w, h⟩

/-! ### Completion (R105, R288) -/

theorem Strand.endAction_noLoop (t : Strand) (pc go : Word) (h0 : t.level0.active = false) (h1 : t.level1.active = false) :
    t.endAction pc go = { t with pc := go } := by
  simp [Strand.endAction, h0, h1]

theorem Strand.complete_on (t : Strand) (pc : Word) (skip : Nat) (h0 : t.level0.active = false) (h1 : t.level1.active = false) :
    t.complete pc skip .on =
      { t with stall := none, skip := 0, popped := [], rerun := false, record := none, scalars := [], order := none, pc := pc + BitVec.ofNat 64 (4 * (skip + 1)) } := by
  simp [Strand.complete, Strand.endAction, h0, h1]

theorem Strand.complete_to (t : Strand) (pc a : Word) (skip : Nat) :
    t.complete pc skip (.to a false) = { t with stall := none, skip := 0, popped := [], rerun := false, record := none, scalars := [], order := none, pc := a } := rfl

theorem Strand.endInner_frame (t : Strand) (go : Word) : ∃ p l0, t.endInner go = { t with pc := p, level0 := l0 } := by
  unfold Strand.endInner
  split <;> exact ⟨_, _, rfl⟩

/-- The end action changes the PC and the loop levels only. -/
theorem Strand.endAction_frame (t : Strand) (pc go : Word) :
    ∃ p l0 l1, t.endAction pc go = { t with pc := p, level0 := l0, level1 := l1 } := by
  have inner (u : Strand) : ∃ p l0 l1, u.endInner go = { u with pc := p, level0 := l0, level1 := l1 } :=
    (u.endInner_frame go).elim fun p h => h.elim fun l h => ⟨p, l, u.level1, h⟩
  unfold Strand.endAction
  split
  · split
    · exact inner t
    · split
      · dsimp only
        split
        · obtain ⟨p, l0, l1, h⟩ := inner { t with level0 := t.level1, level1 := { t.level1 with active := false }, pc := go }
          exact ⟨p, l0, l1, h⟩
        · exact ⟨_, _, _, rfl⟩
      · exact inner t
  · split
    · split <;> exact ⟨_, _, _, rfl⟩
    · exact ⟨_, _, _, rfl⟩

/-- Everything a completion can change: the PC, the loop levels, and the counts of waits, skips and pops, and what a second execution keeps. -/
theorem Strand.complete_frame (t : Strand) (pc : Word) (skip : Nat) (f : Flow) :
    ∃ p l0 l1, t.complete pc skip f = { t with stall := none, skip := 0, popped := [], rerun := false, record := none, scalars := [], order := none, pc := p, level0 := l0, level1 := l1 } := by
  rcases f with _ | ⟨a, c⟩
  · obtain ⟨p, l0, l1, h⟩ := Strand.endAction_frame { t with stall := none, skip := 0, popped := [], rerun := false, record := none, scalars := [], order := none } pc
      (pc + BitVec.ofNat 64 (4 * (skip + 1)))
    exact ⟨p, l0, l1, h⟩
  · cases c <;> exact ⟨_, _, _, rfl⟩

/-! ### Trap entry (R272) -/

/-- A trap of a strand whose TIN is clear is its entry, with the queue entries the instruction popped put back. -/
theorem State.entry_tin_clear (s : State) (c n : Nat) (code pc tval tattr : Word) (shadow : Nat) (first : Word)
    (h : (s.strand c n).tin = false) :
    s.entry c n code pc tval tattr shadow first = s.modStrand c n fun t => t.enter (s.core c).tvec code pc tval tattr shadow := by
  simp [State.entry, State.modStrand, h]

end Sys2Proof.Machine
end

