-- ==== Sys2Proof/Laws/Access.lean ====
section
/-! SUPPORT. What accesses of the issuing core to its own scratchpad do: the checks pass, and loads, stores and acknowledged
accesses are performed at once. -/

namespace Sys2Proof.Machine

theorem State.placeOf_own (s : State) (c off : Nat) : s.placeOf c (.own off) = some (.pad c, off) := rfl

theorem State.own_target {s : State} {a : Word} {n : Nat} (h : s.Own a n) (mode : Nat) (w : Right) :
    s.target s.cur.1 mode a n w = .ok (.own a.toNat) := by
  have h1 := h.space
  have h2 : field 63 60 a = 0 := by simp [field]; omega
  have h3 : field 59 19 a = 0 := by simp [field]; omega
  have h4 : field 18 0 a = a.toNat := by simp [field]; omega
  simp [State.target, h2, h3, h4, h.aligned, Nat.not_le.mpr h.inside]

theorem State.own_verdict {s : State} {a : Word} {n : Nat} (h : s.Own a n) (m : Nat) (w : Bool) (i len : Nat) (hi : i + len ≤ n) :
    s.verdict s.cur.1 m (.own (a.toNat + i)) w len = .clear := by
  have e1 : ((s.core s.cur.1).locks.filter fun e => e.place == .pad s.cur.1 && lockConflict e true w (a.toNat + i) len) = [] := by
    rw [List.filter_eq_nil_iff]
    intro e he
    by_cases hp : e.place = .pad s.cur.1
    · simp [hp, h.unlocked e he hp w (a.toNat + i) len (by omega) (by omega)]
    · simp [hp]
  have e2 : ((s.core s.cur.1).portLocks.any fun e => lockConflict e false w (a.toNat + i) len) = false := by
    rw [List.any_eq_false]
    intro e he
    simp [h.noOthers e he w (a.toNat + i) len (by omega) (by omega)]
  simp [State.verdict, State.placeOf_own, e1, e2]

theorem touchedRuns_inside (n mask : Nat) : ∀ r ∈ touchedRuns n mask, r.1 + r.2 ≤ n := by
  intro r hr
  unfold touchedRuns at hr
  split at hr
  · simp only [List.mem_singleton] at hr
    subst hr
    simp
  · rw [List.mem_filterMap] at hr
    obtain ⟨i, hi, h⟩ := hr
    rw [List.mem_range] at hi
    split at h
    · cases h
    · cases h
      simp; omega

theorem State.own_elemVerdict {s : State} {a : Word} {n : Nat} (h : s.Own a n) (m : Nat) (w : Bool) (lane : Nat) (addr : Word)
    (mask value : Nat) : s.elemVerdict s.cur.1 m w ⟨lane, addr, .own a.toNat, n, mask, value⟩ = .clear := by
  have key : ∀ l : List (Nat × Nat), (∀ r ∈ l, r.1 + r.2 ≤ n) →
      l.foldl (fun (v : Verdict) r => v.join (s.verdict s.cur.1 m ((Target.own a.toNat).plus r.1) w r.2)) Verdict.clear = .clear := by
    intro l
    induction l with
    | nil => intro _; rfl
    | cons r l ih =>
      intro hl
      have h1 : s.verdict s.cur.1 m ((Target.own a.toNat).plus r.1) w r.2 = .clear :=
        s.own_verdict h m w r.1 r.2 (hl r (by simp))
      rw [List.foldl_cons, h1]
      exact ih fun x hx => hl x (by simp [hx])
  exact key _ (touchedRuns_inside n mask)

/-- The element an own-scratchpad access makes. -/
theorem State.own_checkElem {s : State} {a : Word} {n : Nat} (h : s.Own a n) (w : Right) (lane mask value : Nat) :
    s.checkElem w lane a n mask value = .ok ⟨lane, a, .own a.toNat, n, mask, value⟩ := by
  simp [State.checkElem, s.own_target h, s.own_elemVerdict h]

/-- Elements all in the own scratchpad. -/
def OwnElems (s : State) (xs : List (Nat × Word × Nat × Nat × Nat)) : Prop := ∀ x ∈ xs, s.Own x.2.1 x.2.2.1

/-- The element of a checked own-scratchpad access. -/
def ownElem (x : Nat × Word × Nat × Nat × Nat) : Elem :=
  ⟨x.1, x.2.1, .own x.2.1.toNat, x.2.2.1, x.2.2.2.1, x.2.2.2.2⟩

theorem State.own_checkElems {s : State} (w : Right) (xs : List (Nat × Word × Nat × Nat × Nat)) (h : OwnElems s xs) :
    s.checkElems w xs = .ok (xs.map ownElem) := by
  induction xs with
  | nil => rfl
  | cons x r ih =>
    have h1 := h x (by simp)
    simp [State.checkElems, s.own_checkElem h1, ih fun y hy => h y (by simp [hy]), ownElem]

theorem State.own_verdicts {s : State} (w : Bool) (xs : List (Nat × Word × Nat × Nat × Nat)) (h : OwnElems s xs) :
    s.verdicts w (xs.map ownElem) = .clear := by
  unfold State.verdicts
  induction xs with
  | nil => rfl
  | cons x r ih =>
    rw [List.map_cons, List.foldl_cons]
    have h1 := s.own_elemVerdict (h x (by simp)) s.cur.2 w x.1 x.2.1 x.2.2.2.1 x.2.2.2.2
    simp only [ownElem] at h1 ⊢
    rw [h1]
    exact ih fun y hy => h y (by simp [hy])

/-- The reply an own-scratchpad load has at hand. -/
def State.ownReply (s : State) (x : Nat × Word × Nat × Nat × Nat) : Reply := replyOk x.1 (s.load (s.ownKey x.2.1) x.2.2.1) 0

theorem State.own_atHand {s : State} {x : Nat × Word × Nat × Nat × Nat} (h : s.Own x.2.1 x.2.2.1) :
    s.atHand (ownElem x) = some (.ok (s.load (s.ownKey x.2.1) x.2.2.1)) := by
  simp [State.atHand, ownElem, h.clean, State.ownKey]

theorem State.own_handReplies {s : State} (xs : List (Nat × Word × Nat × Nat × Nat)) (h : OwnElems s xs) :
    s.handReplies (xs.map ownElem) = .ok (xs.map s.ownReply) := by
  induction xs with
  | nil => rfl
  | cons x r ih =>
    simp only [List.map_cons, State.handReplies, s.own_atHand (h x (by simp)), ih fun y hy => h y (by simp [hy])]
    rfl

theorem State.own_touchHits (s : State) (xs : List (Nat × Word × Nat × Nat × Nat)) : s.touchHits (xs.map ownElem) = s := by
  unfold State.touchHits
  induction xs with
  | nil => rfl
  | cons x r ih => rw [List.map_cons, List.foldl_cons]; exact ih

theorem State.fullPort_free {s : State} (h : s.Free) (d : Reg) : s.fullPort s.cur.1 s.cur.2 d = false := by
  have := s.me.port?_none d h.noPorts
  simp only [State.me] at this
  simp [State.fullPort, this]

/-- A load all of whose elements lie in the own scratchpad completes at once. -/
theorem State.loads_own {s : State} (hf : s.Free) (la : La) (srcs writes : List Reg) (d : Dest) (xs : List (Nat × Word × Nat × Nat))
    (h : ∀ x ∈ xs, s.Own x.2.1 x.2.2.1) (hd : d ≠ .joined) :
    s.loads la srcs writes d xs =
      .next ((s.deliver s.cur.1 s.cur.2 d (xs.map fun x => replyOk x.1 (s.load (s.ownKey x.2.1) x.2.2.1) 0)).retire .on) := by
  have hx : OwnElems s (xs.map fun x => (x.1, x.2.1, x.2.2.1, x.2.2.2, 0)) := by
    intro y hy
    rw [List.mem_map] at hy
    obtain ⟨x, hx, rfl⟩ := hy
    exact h x hx
  have hfar : (((xs.map fun x => (x.1, x.2.1, x.2.2.1, x.2.2.2, 0)).map ownElem).filter fun e => (s.atHand e).isNone) = [] := by
    rw [List.filter_eq_nil_iff]
    intro e he
    rw [List.mem_map] at he
    obtain ⟨x, hx', rfl⟩ := he
    simp [s.own_atHand (hx x hx')]
  have hfp : ∀ r, s.fullPort s.cur.1 s.cur.2 r = false := s.fullPort_free hf
  unfold State.loads
  rw [State.gate_free hf, s.own_checkElems _ _ hx]
  simp only [s.own_verdicts _ _ hx, s.own_handReplies _ hx, hfar, s.own_touchHits]
  simp only [List.isEmpty_nil, if_true, reduceCtorEq, if_false]
  unfold State.complete
  simp only [State.pops_free hf, List.map_map]
  generalize hgot : xs.map (s.ownReply ∘ fun x => (x.1, x.2.1, x.2.2.1, x.2.2.2, 0)) = got
  have hgot' : xs.map (fun x => replyOk x.1 (s.load (s.ownKey x.2.1) x.2.2.1) 0) = got := hgot
  rw [hgot']
  cases d <;> cases got <;> first | exact absurd rfl hd | simp [Dest.scalar?, Dest.flow, hfp]

theorem ofBytes_lt : ∀ l : List Byte, ofBytes l < 2 ^ (8 * l.length)
  | [] => by simp [ofBytes]
  | b :: r => by
    have := ofBytes_lt r
    have hb := b.isLt
    simp only [ofBytes, List.length_cons, Nat.mul_add, Nat.pow_add]
    omega

theorem State.bytes_length (s : State) (k n : Nat) : (s.bytes k n).length = n := by
  induction n generalizing k <;> simp_all [State.bytes]

theorem State.load_lt (s : State) (k n : Nat) : s.load k n < 2 ^ (8 * n) := by
  have := ofBytes_lt (s.bytes k n)
  rwa [State.bytes_length] at this

theorem mergeBits_full (n v old : Nat) (hv : v < 2 ^ (8 * n)) (ho : old < 2 ^ (8 * n)) : mergeBits (fullMask n) v old = v := by
  have h : ∀ x, x < 2 ^ (8 * n) → x &&& fullMask n = x := by
    intro x hx
    rw [fullMask, Nat.and_two_pow_sub_one_eq_mod, Nat.mod_eq_of_lt hx]
  simp [mergeBits, h v hv, h old ho]

theorem State.storeMasked_full (s : State) (k n v : Nat) (hv : v < 2 ^ (8 * n)) :
    s.storeMasked k n (fullMask n) v = s.store k n v := by
  rw [State.storeMasked, mergeBits_full n v _ hv (s.load_lt k n)]

theorem fullMask_ne_zero (n : Nat) (hn : 0 < n) : fullMask n ≠ 0 := by
  have : 2 ^ 8 ≤ 2 ^ (8 * n) := Nat.pow_le_pow_right (by decide) (by omega)
  simp only [fullMask]; omega

theorem lastWrites_single (e : Elem) : lastWrites [e] = [e] := rfl

theorem Node.locked_nil (v : Node) : v.locked [] = false := by
  unfold Node.locked
  cases v.lock <;> rfl

theorem Source.isOneOf_nil (x : Source) : x.isOneOf [] = false := by cases x <;> rfl

theorem Core.forced_nil (k : Core) : k.forced [] = [] := by
  simp [Core.forced, Node.locked_nil, Source.isOneOf_nil]

theorem Core.plan_nil (k : Core) : k.plan [] = [] := by
  unfold Core.plan
  generalize hg : (fun (a : List (Nat × Region) × List Work) (e : Nat × Node) => _) = g
  have step : ∀ e, g ([], []) e = ([], []) := by intro e; rw [← hg]; rfl
  have key : ∀ l : List (Nat × Node), l.foldl g ([], []) = ([], []) := by
    intro l
    induction l with
    | nil => rfl
    | cons e r ih => rw [List.foldl_cons, step, ih]
  rw [key]

/-- With nothing demanded an instruction goes on. -/
theorem State.demanding_nil (s : State) (la : La) (srcs : List Reg) (go : Out) : s.demanding la srcs [] go = go := by
  simp [State.demanding, Core.plan_nil]

theorem State.retireViews_nil (s : State) (c : Nat) : s.retireViews c [] = s := by
  simp [State.retireViews, Node.locked_nil]

/-- The write of one element to the own scratchpad. -/
def State.storeElem (s : State) (e : Elem) : State :=
  match e.at_ with
  | .own o => s.storeOwn s.cur.1 e.addr o e.n e.mask e.value
  | _ => s

theorem lastWrites_subset : ∀ es : List Elem, ∀ e ∈ lastWrites es, e ∈ es
  | [], e, h => by simp [lastWrites] at h
  | x :: r, e, h => by
    have ih := lastWrites_subset r e
    simp only [lastWrites] at h
    split at h
    · exact List.mem_cons_of_mem _ (ih h)
    · rcases List.mem_cons.mp h with rfl | h
      · simp
      · exact List.mem_cons_of_mem _ (ih h)

/-- A store all of whose elements lie in the own scratchpad performs those not overwritten by a later lane, in order, and
completes. -/
theorem State.stores_own {s : State} (hf : s.Free) (la : La) (srcs : List Reg) (xs : List (Nat × Word × Nat × Nat × Nat))
    (h : OwnElems s xs) :
    s.stores la srcs xs = .next (((lastWrites (xs.map ownElem)).foldl State.storeElem s).retire .on) := by
  have own : ∀ e ∈ lastWrites (xs.map ownElem), ∃ x ∈ xs, e = ownElem x := by
    intro e he
    have := lastWrites_subset _ e he
    rw [List.mem_map] at this
    obtain ⟨x, hx, rfl⟩ := this
    exact ⟨x, hx, rfl⟩
  have hv : s.verdicts true (lastWrites (xs.map ownElem)) = .clear := by
    unfold State.verdicts
    revert own
    generalize lastWrites (xs.map ownElem) = l
    intro own
    induction l with
    | nil => rfl
    | cons e r ih =>
      obtain ⟨x, hx, rfl⟩ := own e (by simp)
      have h1 := s.own_elemVerdict (h x hx) s.cur.2 true x.1 x.2.1 x.2.2.2.1 x.2.2.2.2
      rw [List.foldl_cons]
      simp only [ownElem] at h1 ⊢
      rw [h1]
      exact ih fun y hy => own y (by simp [hy])
  have hr : ∀ p : Elem → Bool, (∀ x, p (ownElem x) = false) → (lastWrites (xs.map ownElem)).filter p = [] := by
    intro p hp
    rw [List.filter_eq_nil_iff]
    intro e he
    obtain ⟨x, _, rfl⟩ := own e he
    simp [hp]
  have hn : (lastWrites (xs.map ownElem)).find? (fun e => s.frameLocked e) = none := by
    rw [List.find?_eq_none]
    intro e he
    obtain ⟨x, _, rfl⟩ := own e he
    simp [State.frameLocked, ownElem]
  have near : ∀ p : Elem → Bool, (∀ x, p (ownElem x) = true) → (lastWrites (xs.map ownElem)).filter p = lastWrites (xs.map ownElem) := by
    intro p hp
    rw [List.filter_eq_self]
    intro e he
    obtain ⟨x, _, rfl⟩ := own e he
    exact hp x
  unfold State.stores
  rw [State.gate_free hf, s.own_checkElems _ _ h]
  simp only [hv, hn, Verdict.locks, Core.forced_nil, State.demanding_nil, State.retireViews_nil, State.pops_free hf]
  rw [hr (fun e => e.at_.isPad) (fun x => rfl), near (fun e => !e.at_.isVirt) (fun x => rfl), hr (fun e => e.at_.isVirt) (fun x => rfl)]
  simp only [List.length_nil, List.map_nil, State.drain, Drained.finish, State.spilled, List.isEmpty_nil, if_true, reduceCtorEq, if_false,
    ne_eq, not_true_eq_false, decide_false, Bool.false_and, Bool.false_eq_true]
  congr 2
  refine List.foldl_ext _ _ s ?_
  intro u e he
  obtain ⟨x, _, rfl⟩ := own e he
  rfl

/-! ### Acknowledged accesses -/

/-- What counting a write changes (R87). -/
theorem State.bump_frame (s : State) (k : Nat) : ∃ sr f, (s.bump k).2 = { s with serials := sr, fresh := f } := by
  unfold State.bump State.serial State.picked
  cases s.serials.find? fun e => e.1 == k with
  | some e => exact ⟨_, s.fresh, rfl⟩
  | none =>
    by_cases h : 2 ^ 73 ≤ k
    · exact ⟨_, s.fresh, by simp only [if_pos h]; rfl⟩
    · exact ⟨_, s.fresh + 1, by simp only [if_neg h]; rfl⟩

theorem State.serial_frame (s : State) (k : Nat) : ∃ sr f, (s.serial k).2 = { s with serials := sr, fresh := f } := by
  unfold State.serial State.picked
  cases s.serials.find? fun e => e.1 == k with
  | some e => exact ⟨_, s.fresh, rfl⟩
  | none =>
    by_cases h : 2 ^ 73 ≤ k
    · exact ⟨_, s.fresh, by simp only [if_pos h]; rfl⟩
    · exact ⟨_, s.fresh + 1, by simp only [if_neg h]; rfl⟩

theorem State.setBytes_frame (s : State) (k : Nat) (bs : List Byte) : ∃ m, s.setBytes k bs = { s with mem := m } := by
  induction bs generalizing s k with
  | nil => exact ⟨s.mem, rfl⟩
  | cons b r ih =>
    obtain ⟨m, h⟩ := ih (s.setByte k b) (k + 1)
    exact ⟨m, by rw [State.setBytes, h]; rfl⟩

theorem State.store_frame (s : State) (k n v : Nat) : ∃ m, s.store k n v = { s with mem := m } := s.setBytes_frame k _

theorem State.bump_mem (s : State) (k : Nat) : (s.bump k).2.mem = s.mem := by
  obtain ⟨_, _, h⟩ := s.bump_frame k
  rw [h]

/-- What an access performed in a scratchpad changes. -/
theorem State.applyPad_frame (s : State) (k : Nat) (a : Access) :
    ∃ m sr f, (s.applyPad k a).2.2 = { s with mem := m, serials := sr, fresh := f } := by
  have st : ∀ j n v l, ∃ m sr f, ((s.store j n v).bump l).2 = { s with mem := m, serials := sr, fresh := f } := by
    intro j n v l
    obtain ⟨m, h⟩ := s.store_frame j n v
    obtain ⟨sr, f, h'⟩ := (s.store j n v).bump_frame l
    exact ⟨m, sr, f, by rw [h', h]⟩
  cases a with
  | read n mask => exact ⟨_, _, _, rfl⟩
  | readAck n =>
    obtain ⟨sr, f, h⟩ := s.serial_frame (k / 128)
    exact ⟨s.mem, sr, f, h⟩
  | write n mask v =>
    by_cases h : mask = 0
    · exact ⟨s.mem, s.serials, s.fresh, by simp [State.applyPad, h]⟩
    · obtain ⟨m, sr, f, h'⟩ := st k n (mergeBits mask v (s.load k n)) (k / 128)
      exact ⟨m, sr, f, by simp only [State.applyPad, if_neg h]; exact h'⟩
  | writeAck n v => exact st k n v (k / 128)
  | rmw op sg n x cmp => exact st k n _ (k / 128)
  | fill => exact ⟨_, _, _, rfl⟩
  | writeback mask data => exact ⟨_, _, _, rfl⟩
  | touch f => exact ⟨_, _, _, rfl⟩

theorem State.Free.of_cores {s t : State} (h : s.Free) (hc : t.cores = s.cores) (hu : t.cur = s.cur) : t.Free := by
  have h1 : t.me = s.me := by simp [State.me, State.strand, State.core, hc, hu]
  have h2 : t.core t.cur.1 = s.core s.cur.1 := by simp [State.core, hc, hu]
  exact ⟨by rw [h1]; exact h.noPorts, by rw [h2, hu]; exact h.noCopies, by rw [h1]; exact h.noSkip, by rw [h1]; exact h.noPops,
    by rw [h1]; exact h.noRerun⟩

theorem State.own_checkAcked {s : State} {a : Word} {n : Nat} (h : s.Own a n) (rights : List Right) :
    s.checkAcked rights a n = .ok ⟨0, a, .own a.toNat, n, fullMask n, 0⟩ := by
  unfold State.checkAcked
  split
  · rename_i e he
    obtain ⟨w, -, hw⟩ := List.exists_of_findSome?_eq_some he
    simp [s.own_target h] at hw
  · exact s.own_checkElem h _ _ _ _

/-- An acknowledged access to the own scratchpad is performed and answered at once. -/
theorem State.acked_own {s : State} (hf : s.Free) {a : Word} {n : Nat} (h : s.Own a n) (la : La) (srcs writes : List Reg)
    (d : Dest) (rights : List Right) (acc : Access) (hd : d ≠ .joined) :
    s.acked la srcs writes d rights a n acc =
      (let r := s.applyPad (s.ownKey a) acc
       .next ((r.2.2.deliver s.cur.1 s.cur.2 d [replyOk 0 r.1 r.2.1]).retire .on)) := by
  unfold State.acked
  rw [State.gate_free hf, s.own_checkAcked h]
  simp only [s.own_elemVerdict h, Verdict.locks, Core.forced_nil, State.demanding_nil, State.retireViews_nil, h.clean]
  have hr := s.applyPad_frame (padKey s.cur.1 a.toNat) acc
  simp only [State.ownKey]
  generalize s.applyPad (padKey s.cur.1 a.toNat) acc = r at hr
  obtain ⟨m, sr, f, hr⟩ := hr
  have hfr : r.2.2.Free := hf.of_cores (by rw [hr]) (by rw [hr])
  have hcur : r.2.2.cur = s.cur := by rw [hr]
  unfold State.complete
  simp only [State.pops_free hfr]
  have hfp := State.fullPort_free hfr
  rw [hcur] at hfp
  cases d <;> first | exact absurd rfl hd | simp [Dest.scalar?, Dest.flow, hfp, hcur]

/-! Apertures of links (R368) -/

theorem aperture?_key (n off : Nat) : aperture? (apertureKey n off) = some (n % 24, off % 2 ^ 26) := by
  have h1 := Nat.mod_lt Config.bar2 (show 0 < 2 ^ 24 by decide)
  have h2 := Nat.mod_lt n (show 0 < 24 by decide)
  have h3 := Nat.mod_lt off (show 0 < 2 ^ 26 by decide)
  simp only [aperture?, apertureKey, tierKey]
  generalize Config.bar2 % 2 ^ 24 = b at *
  generalize n % 24 = m at *
  generalize off % 2 ^ 26 = o at *
  have e : 2 ^ 70 + (b * 2 ^ 32 + m * 2 ^ 26 + o) % 2 ^ 56 - 2 ^ 70 = b * 2 ^ 32 + m * 2 ^ 26 + o := by omega
  rw [e, if_neg (by omega), if_pos (by simp; omega)]
  simp; omega

/-- What writing a slice's line does where its bytes lie in an aperture: memory stands, and at most the link changes. -/
theorem State.writeLine_aperture {s : State} {l : SliceLine} {n off : Nat} (h : aperture? l.phys = some (n, off)) (d : l.dirty ≠ 0) :
    s.writeLine l = s.sendData n l.part l.line (Config.linkPayload off l.data l.dirty) := by
  simp only [State.writeLine, h]
  exact if_neg d

theorem State.sendData_mem (s : State) (n part line payload : Nat) : (s.sendData n part line payload).mem = s.mem := by
  simp only [State.sendData]
  split <;> rfl

end Sys2Proof.Machine
end

