-- ==== Sys2Proof/Tests/Slice0.lean ====
section
/-! SUPPORT. Tests of the model and witnesses of the statements' hypotheses. Expected values are worked out by hand from the
rules that each test names; words are written out from the encoding tables of the spec (R122 to R131). -/

namespace Sys2Proof.Tests

set_option Elab.async false

open Sys2Proof Sys2Proof.Machine

/-! ### Small states -/

/-- Site 1 as partition 0. -/
def part0 : Partition := { num := 0, c0 := 1, c1 := 1, s0 := 0, s1 := 0, ptroot := 2 ^ 37, slices := (List.range 32).map fun i => 32 + i, writeSlot := none }

/-- A live run of block 0 of that partition that leases one page. -/
def run0 : Run where
  part := 0
  ctx := 0
  asked := { function := none, seq := 0, part := 0, reticle := 0 }
  blocks := [(0, 0)]
  lease := [{ base := 0x1000, len := 0x1000, read := true, write := true, exec := true, index := 0 }]
  sections := []
  entry := 2 ^ 63 + 0x1000
  maintenance := false
  scr := 0x8000
  startT := 0
  issueFrom := 0
  life := .live
  inter := none
  saveBase := 0
  dirty := 0
  cause := 0
  causeCore := 0

/-- General registers of a strand. -/
def regs (l : List (Nat × Nat)) (t : Strand) : Strand :=
  l.foldl (fun t e => t.setGreg (BitVec.ofNat 5 e.1) (BitVec.ofNat 64 e.2)) t

/-- Vector registers of a strand. -/
def vregs (l : List (Nat × Nat)) (t : Strand) : Strand :=
  l.foldl (fun t e => t.setVreg (BitVec.ofNat 5 e.1) (BitVec.ofNat 512 e.2)) t

/-- A running strand at the start of the leased page. -/
def running : Strand := { Strand.reset with life := .running, pc := 2 ^ 63 + 0x1000 }

/-- The core of the run. -/
def core0 : Core := { Core.reset with run := some (0, 0), scr := 0x8000, tvec := 2 ^ 63 + 0x1800 }

/-- Core 256 with a given strand 0. -/
def demo (t : Strand) : State :=
  { State.reset with cores := [(256, core0.setStrand 0 t)], partitions := [part0], runs := [run0] }

/-- The same with a change to the core. -/
def demoCore (t : Strand) (f : Core → Core) : State := (demo t).modCore 256 f

/-- A value of the next state. -/
def next {α : Type} (o : Out) (f : State → α) : Option α :=
  match o with
  | .next t => some (f t)
  | _ => none

/-- A claim about the next state. -/
def goes (o : Out) (p : State → Bool) : Bool :=
  match o with
  | .next t => p t
  | _ => false

/-- `Free` as a test. -/
def free (s : State) : Bool :=
  !s.me.qmap && (s.core s.cur.1).copies.all (fun k => k.strand != s.cur.2 % 16) && s.me.skip == 0 && s.me.popped.isEmpty &&
  !s.me.rerun

theorem free_of {s : State} (h : free s = true) : s.Free := by
  simp only [free, Bool.and_eq_true, Bool.not_eq_true', List.all_eq_true, bne_iff_ne, ne_eq, beq_iff_eq,
    List.isEmpty_iff] at h
  exact ⟨h.1.1.1.1, h.1.1.1.2, h.1.1.2, h.1.2, h.2⟩

/-- `Own` as a test, with no lock at the core. -/
def own (s : State) (a : Word) (n : Nat) : Bool :=
  decide (a.toNat < 2 ^ 19) && decide (a.toNat < (s.core s.cur.1).scr) && a.toNat % n == 0 && (s.core s.cur.1).locks.isEmpty &&
  (s.core s.cur.1).portLocks.isEmpty && (s.poisoned? (padKey s.cur.1 a.toNat / 128)).isNone

theorem own_of {s : State} {a : Word} {n : Nat} (h : own s a n = true) : s.Own a n := by
  simp only [own, Bool.and_eq_true, decide_eq_true_eq, beq_iff_eq, List.isEmpty_iff, Option.isNone_iff_eq_none] at h
  obtain ⟨⟨⟨⟨⟨h1, h2⟩, h3⟩, h4⟩, h5⟩, h6⟩ := h
  exact ⟨h1, h2, h3, (by rw [h4]; simp), (by rw [h5]; simp), h6⟩

/-- `Settled` as a test. -/
def settled (s : State) : Bool :=
  s.me.outst.isNone && s.me.acks == 0 && (s.core s.cur.1).l1.all (fun e => e.2.dirty == 0 && e.2.sent == 0 && !e.2.refused)

theorem settled_of {s : State} (h : settled s = true) : s.Settled := by
  simp only [settled, Bool.and_eq_true, Option.isNone_iff_eq_none, beq_iff_eq, List.all_eq_true, Bool.not_eq_true'] at h
  exact ⟨h.1.1, h.1.2, fun e he => ⟨(h.2 e he).1.1, (h.2 e he).1.2, (h.2 e he).2⟩⟩

/-! ### Literals out of range (R128, R130, R297) and names out of range (R349) -/

theorem test_illFormed : (([.daybarFill 4 0, .daybarDrain 31 0, .vigilQne 1 4 4 0, .vigilQne 1 3 3 0, .vigilQnf 1 3 25 0,
    .vigilReady 1 0 0 0, .vigilRoom 1 31 24 0, .qcount 1 4 0, .tmma 0 1 2 0 true 0, .tmma 0 1 2 30 true 0, .tmma 0 1 2 31 false 0,
    .accspill 8 1, .accfill 31 1, .powerGood ⟨42, 0, 0⟩, .clockLocked ⟨0, 4, 0⟩, .linksTrained ⟨0, 0, 4⟩, .configLoaded ⟨42, 0, 0⟩,
    .selfTestPassed ⟨0, 4, 0⟩ [], .chipReady ⟨0, 0, 4⟩] : List Instr).all fun i => !i.wellFormed) = true := by
  decide +kernel

theorem test_wellFormed : (([.daybarFill 3 0, .vigilQne 1 3 4 0, .vigilRoom 1 0 24 0, .qcount 1 3 0, .tmma 0 1 2 1 true 0,
    .tmma 0 1 2 29 true 0, .accspill 7 1, .powerGood ⟨41, 3, 3⟩] : List Instr).all fun i => i.wellFormed) = true := by
  decide +kernel

/-! ### Encodings (R122 to R133) -/

/-- R133: the zero word, an opcode, a function, a type code, a rounding code, a literal that is not assigned. -/
theorem test_decode_rejects : (([(0, .opcode), (0xFE000000, .opcode), (0x36000000, .opcode), (0x4E000000, .opcode),
    (0x0400000E, .function), (0x58000038, .function), (0xC4000006, .function), (0x0C000300, .typeCode), (0x5A000000, .typeCode),
    (0x82000003, .typeCode), (0x0C0000A0, .rounding), (0x60020008, .literal), (0xC4000000, .literal), (0xC4000078, .literal),
    (0xE6800004, .literal)] : List (Nat × Reject)).all fun e => decode e.1 == .error e.2) = true := by
  decide +kernel

/-- A rounding code of 5 on an operation that does not round, and fields an instruction does not use, are ignored (R133). -/
theorem test_decode_ignores : (([(0x0C531CA7, .fsgnj .f64 5 6 7), (0x02F00000, .nop), (0xE0FFFFF8, .scall),
    (0x06531C08, .clz 5 6)] : List (Nat × Instr)).all fun e => decode e.1 == .ok e.2) = true := by
  decide +kernel

theorem test_decode_misc : (([
    (0x02000000, .nop), (0x02137ABC, .pf 6 0x7abc), (0x02200000, .hlikely), (0x02300000, .hunlikely)] : List (Nat × Instr)).all fun e => decode e.1 == .ok e.2) = true := by
  decide +kernel

theorem test_decode_int : (([
    (0x04531C00, .add 5 6 7), (0x04531C01, .sub 5 6 7), (0x04531C02, .and 5 6 7), (0x04531C03, .or 5 6 7),
    (0x04531C04, .xor 5 6 7), (0x04531C05, .andn 5 6 7), (0x04531C06, .orn 5 6 7), (0x04531C07, .xnor 5 6 7),
    (0x04531C08, .addw 5 6 7), (0x04531C09, .subw 5 6 7), (0x04531C0A, .lea1 5 6 7), (0x04531C0B, .lea2 5 6 7),
    (0x04531C0C, .lea3 5 6 7), (0x04531C0D, .lea4 5 6 7), (0x04531C10, .gname 5 6 7), (0x06531C00, .sll 5 6 7),
    (0x06531C01, .srl 5 6 7), (0x06531C02, .sra 5 6 7), (0x06531C03, .rol 5 6 7), (0x06531C04, .ror 5 6 7),
    (0x06531C05, .sllw 5 6 7), (0x06531C06, .srlw 5 6 7), (0x06531C07, .sraw 5 6 7), (0x06530008, .clz 5 6),
    (0x06530009, .ctz 5 6), (0x0653000A, .popc 5 6), (0x0653000B, .brev 5 6), (0x0653000C, .bswap 5 6),
    (0x06531C0D, .bext 5 6 7), (0x06531C0E, .bdep 5 6 7), (0x08531C00, .mul 5 6 7), (0x08531C01, .mulhI64 5 6 7),
    (0x08531C02, .mulhW64 5 6 7), (0x08531C03, .mulI32 5 6 7), (0x08531C08, .divI64 5 6 7), (0x08531C09, .divW64 5 6 7),
    (0x08531C0A, .remI64 5 6 7), (0x08531C0B, .remW64 5 6 7), (0x08531C0C, .divI32 5 6 7), (0x08531C0D, .divW32 5 6 7),
    (0x08531C0E, .remI32 5 6 7), (0x08531C0F, .remW32 5 6 7), (0x0A531C00, .seq 5 6 7), (0x0A531C01, .sne 5 6 7),
    (0x0A531C02, .sltI64 5 6 7), (0x0A531C03, .sltW64 5 6 7), (0x0A531C04, .sleI64 5 6 7), (0x0A531C05, .sleW64 5 6 7),
    (0x0A531C06, .minI64 5 6 7), (0x0A531C07, .minW64 5 6 7), (0x0A531C08, .maxI64 5 6 7), (0x0A531C09, .maxW64 5 6 7),
    (0x0A531C0A, .czn 5 6 7), (0x0A531C0B, .czz 5 6 7)] : List (Nat × Instr)).all fun e => decode e.1 == .ok e.2) = true := by
  decide +kernel

theorem test_decode_fp : (([
    (0x0C531D60, .fadd .f32 .rup 5 6 7), (0x0C531D61, .fsub .f32 .rup 5 6 7), (0x0C531D62, .fmul .f32 .rup 5 6 7),
    (0x0C531D63, .fdiv .f32 .rup 5 6 7), (0x0C530164, .fsqrt .f32 .rup 5 6), (0x0C531D05, .fmin .f32 5 6 7),
    (0x0C531D06, .fmax .f32 5 6 7), (0x0C531D07, .fsgnj .f32 5 6 7), (0x0C531D08, .fsgnjn .f32 5 6 7),
    (0x0C531D09, .fsgnjx .f32 5 6 7), (0x0C531D6A, .fmac .f32 .rup 5 6 7), (0x0C531D6B, .fmsc .f32 .rup 5 6 7),
    (0x0E530060, .fcvtF32F64 .rup 5 6), (0x0E530001, .fcvtF64F32 5 6), (0x0E530062, .fcvtF16F32 .rup 5 6),
    (0x0E530003, .fcvtF32F16 5 6), (0x0E530064, .fcvtBf16F32 .rup 5 6), (0x0E530005, .fcvtF32Bf16 5 6),
    (0x0E530066, .fcvtF16F64 .rup 5 6), (0x0E530007, .fcvtF64F16 5 6), (0x0E530068, .fcvtF64I64 .rup 5 6),
    (0x0E530069, .fcvtF64W64 .rup 5 6), (0x0E53006A, .fcvtF32I64 .rup 5 6), (0x0E53006B, .fcvtF32W64 .rup 5 6),
    (0x0E53006C, .fcvtI64F64 .rup 5 6), (0x0E53006D, .fcvtW64F64 .rup 5 6), (0x0E53006E, .fcvtI64F32 .rup 5 6),
    (0x0E53006F, .fcvtW64F32 .rup 5 6), (0x0E530070, .fcvtI32F64 .rup 5 6), (0x0E530071, .fcvtW32F64 .rup 5 6),
    (0x0E530072, .fcvtI32F32 .rup 5 6), (0x0E530073, .fcvtW32F32 .rup 5 6), (0x0E530014, .fclassF64 5 6),
    (0x0E530015, .fclassF32 5 6), (0x0E531C16, .feqF64 5 6 7), (0x0E531C17, .fltF64 5 6 7), (0x0E531C18, .fleF64 5 6 7),
    (0x0E531C19, .feqF32 5 6 7), (0x0E531C1A, .fltF32 5 6 7), (0x0E531C1B, .fleF32 5 6 7)] : List (Nat × Instr)).all fun e => decode e.1 == .ok e.2) = true := by
  decide +kernel

theorem test_decode_imm : (([
    (0x10537ABC, .addi 5 6 0x7abc), (0x12537ABC, .andi 5 6 0x7abc), (0x14537ABC, .ori 5 6 0x7abc),
    (0x16537ABC, .xori 5 6 0x7abc), (0x18537ABC, .sltiI64 5 6 0x7abc), (0x1A53002B, .slli 5 6 0x2b),
    (0x1A53202B, .srli 5 6 0x2b), (0x1A53402B, .srai 5 6 0x2b), (0x1A53602B, .rori 5 6 0x2b),
    (0x1C537ABC, .sltiW64 5 6 0x7abc), (0x1E58ABCD, .lih 5 0x8abcd), (0x2058ABCD, .addpc 5 0x8abcd),
    (0x2258ABCD, .jal 5 0x8abcd), (0x24537ABC, .jalr 5 6 0x7abc)] : List (Nat × Instr)).all fun e => decode e.1 == .ok e.2) = true := by
  decide +kernel

theorem test_decode_branch : (([
    (0x26537ABC, .beq 5 6 0x7abc), (0x28537ABC, .bne 5 6 0x7abc), (0x2A537ABC, .bltI64 5 6 0x7abc),
    (0x2C537ABC, .bgeI64 5 6 0x7abc), (0x2E537ABC, .bltW64 5 6 0x7abc), (0x30537ABC, .bgeW64 5 6 0x7abc),
    (0x32037ABC, .loop 6 0x7abc), (0x355AFABC, .loopi 0x2b5 0x7abc)] : List (Nat × Instr)).all fun e => decode e.1 == .ok e.2) = true := by
  decide +kernel

theorem test_decode_mem : (([
    (0x405325A5, .ldI8 5 6 4 0x5a5), (0x425325A5, .ldW8 5 6 4 0x5a5), (0x445325A5, .ldI16 5 6 4 0x5a5),
    (0x465325A5, .ldW16 5 6 4 0x5a5), (0x485325A5, .ldI32 5 6 4 0x5a5), (0x4A5325A5, .ldW32 5 6 4 0x5a5),
    (0x4C5325A5, .ldI64 5 6 4 0x5a5), (0x505325A5, .stW8 5 6 4 0x5a5), (0x525325A5, .stW16 5 6 4 0x5a5),
    (0x545325A5, .stW32 5 6 4 0x5a5), (0x565325A5, .stW64 5 6 4 0x5a5), (0x58531D06, .ldx .i64 5 6 7 4),
    (0x58531D0A, .stx 2 5 6 7 4), (0x58531D12, .stAck 2 5 6 7 4), (0x58531D1A, .ldAck 2 5 6 7 4),
    (0x5A531D03, .aswap .w64 5 6 7 4), (0x5A531D0B, .acas .w64 5 6 7 4), (0x5A531D13, .aadd .w64 5 6 7 4),
    (0x5A531D1B, .aand .w64 5 6 7 4), (0x5A531D23, .aor .w64 5 6 7 4), (0x5A531D2B, .axor .w64 5 6 7 4),
    (0x5A531D37, .amin true .w64 5 6 7 4), (0x5A531D3F, .amax true .w64 5 6 7 4)] : List (Nat × Instr)).all fun e => decode e.1 == .ok e.2) = true := by
  decide +kernel

theorem test_decode_sync : (([
    (0x5C000105, .fenceRel .package 4), (0x5C00010D, .fenceAcq .package 4), (0x5C000115, .fenceFull .package 4),
    (0x5C000118, .fenceAck 4), (0x5E530100, .alook 5 6 4), (0x5E531D01, .alfill 5 6 7 4), (0x5E030102, .alevict 6 4),
    (0x60030100, .bar 6 4), (0x60031D01, .bcastSend 6 7 4), (0x60530102, .bcastRecv 5 6 4), (0x60531D03, .redAdd 5 6 7 4),
    (0x60531D04, .redMinI64 5 6 7 4), (0x60531D05, .redMinW64 5 6 7 4), (0x60531D06, .redMaxI64 5 6 7 4),
    (0x60531D07, .redMaxW64 5 6 7 4), (0x60018108, .daybarFill 3 4), (0x60018109, .daybarDrain 3 4),
    (0x62516100, .vigilQne 5 2 0x18 4), (0x62516101, .vigilQnf 5 2 0x18 4), (0x62516102, .vigilReady 5 2 0x18 4),
    (0x62516103, .vigilRoom 5 2 0x18 4), (0x62510108, .qcount 5 2 4), (0x64030100, .spawn 6 4), (0x64500101, .take 5 4),
    (0x64030102, .join 6 4), (0x64000103, .yield 4), (0x64000104, .retire 4)] : List (Nat × Instr)).all fun e => decode e.1 == .ok e.2) = true := by
  decide +kernel

theorem test_decode_engine : (([
    (0x70030100, .laz 6 4), (0x70031D01, .laadd 6 7 4), (0x70531D02, .laaddp 6 7 5 4), (0x70530103, .larndF32 5 6 4),
    (0x70530104, .larndF64 5 6 4), (0x72531D00, .cpy 5 6 7 4), (0x72531D01, .cpy2 5 6 7 4), (0x72531D02, .cpyh 5 6 7 4),
    (0x72531D03, .cpyf 5 6 7 4), (0x72500104, .cpycan 5 4), (0x74530000, .erd 5 6), (0x74530001, .ewr 5 6)] : List (Nat × Instr)).all fun e => decode e.1 == .ok e.2) = true := by
  decide +kernel

theorem test_decode_vecA : (([
    (0x80531D03, .vld 5 6 7 4 3), (0x80531D0B, .vst 5 6 7 4 3), (0x80531D13, .vldZ 5 6 7 4 3),
    (0x80531D1B, .vgathW32 5 6 7 4 3), (0x80531D23, .vscatW32 5 6 7 4 3), (0x80531D2B, .vgathW16 5 6 7 4 3),
    (0x80531D33, .vscatW16 5 6 7 4 3), (0x80531D3B, .vlbc 5 6 7 4 3), (0x82531DC5, .vadd .w16 5 6 7 3 true),
    (0x82531DCD, .vsub .w16 5 6 7 3 true), (0x82531DD5, .vmul .w16 5 6 7 3 true), (0x82531DDD, .vmulh .w16 5 6 7 3 true),
    (0x82531DE5, .vmin .w16 5 6 7 3 true), (0x82531DED, .vmax .w16 5 6 7 3 true), (0x82531DF5, .vadds .w16 5 6 7 3 true),
    (0x82531DFD, .vsubs .w16 5 6 7 3 true), (0x84531DC0, .vand 5 6 7 3 true), (0x84531DC8, .vor 5 6 7 3 true),
    (0x84531DD0, .vxor 5 6 7 3 true), (0x84531DD8, .vandn 5 6 7 3 true), (0x84531DE5, .vsll .w16 5 6 7 3 true),
    (0x84531DED, .vsrl .w16 5 6 7 3 true), (0x84531DF5, .vsra .w16 5 6 7 3 true), (0x86531DC2, .vfadd .bf16 5 6 7 3 true),
    (0x86531DCA, .vfsub .bf16 5 6 7 3 true), (0x86531DD2, .vfmul .bf16 5 6 7 3 true), (0x86531DDA, .vfdiv .bf16 5 6 7 3 true),
    (0x865301E2, .vfsqrt .bf16 5 6 3 true), (0x86531DEA, .vfmin .bf16 5 6 7 3 true), (0x86531DF2, .vfmax .bf16 5 6 7 3 true),
    (0x865301FA, .vfabs .bf16 5 6 3 true), (0x88531D2C, .vfmaF32 5 6 7 9 3), (0x88531D2D, .vfmsF32 5 6 7 9 3),
    (0x88531D2E, .vfnmaF32 5 6 7 9 3), (0x88531D2F, .vfnmsF32 5 6 7 9 3), (0x8A531D2C, .vfmaF16 5 6 7 9 3),
    (0x8A531D2D, .vfmaBf16 5 6 7 9 3), (0x8A531D2E, .vmaddI32 5 6 7 9 3), (0x8A531D2F, .vmaddI16 5 6 7 9 3)] : List (Nat × Instr)).all fun e => decode e.1 == .ok e.2) = true := by
  decide +kernel

theorem test_decode_vecB : (([
    (0x8C531DC5, .vceq .w16 5 6 7 3 true), (0x8C531DCD, .vcne .w16 5 6 7 3 true), (0x8C531DD5, .vclt .w16 5 6 7 3 true),
    (0x8C531DDD, .vcle .w16 5 6 7 3 true), (0x8C531DE2, .vcfeq .bf16 5 6 7 3 true), (0x8C531DEA, .vcflt .bf16 5 6 7 3 true),
    (0x8C531DF2, .vcfle .bf16 5 6 7 3 true), (0x8C531DFA, .vcfun .bf16 5 6 7 3 true), (0x8E531C00, .pand 5 6 7),
    (0x8E531C01, .por 5 6 7), (0x8E531C02, .pxor 5 6 7), (0x8E531C03, .pandn 5 6 7), (0x8E530004, .pnot 5 6),
    (0x8E530005, .pfromg 5 6), (0x8E530006, .ptog 5 6), (0x90531DC5, .vperm .w16 5 6 7 3 true),
    (0x90531DCD, .vzipl .w16 5 6 7 3 true), (0x90531DD5, .vziph .w16 5 6 7 3 true), (0x90531DDD, .vunzpe .w16 5 6 7 3 true),
    (0x90531DE5, .vunzpo .w16 5 6 7 3 true), (0x905301ED, .vrev .w16 5 6 3 true), (0x90531DF5, .vslide .w16 5 6 7 3 true),
    (0x90531DFD, .vbcl .w16 5 6 7 3 true), (0x92531D85, .vradd .w16 5 6 7 3), (0x92531D8D, .vrmin .w16 5 6 7 3),
    (0x92531D95, .vrmax .w16 5 6 7 3), (0x92531DA2, .vrfadd .bf16 5 6 7 3), (0x92531DAA, .vrfmin .bf16 5 6 7 3),
    (0x92531DB2, .vrfmax .bf16 5 6 7 3)] : List (Nat × Instr)).all fun e => decode e.1 == .ok e.2) = true := by
  decide +kernel

theorem test_decode_vecC : (([
    (0x94530180, .vcvtF32F16 5 6 3), (0x94531D81, .vcvtF16F32 5 6 7 3), (0x94530182, .vcvtF32Bf16 5 6 3),
    (0x94531D83, .vcvtBf16F32 5 6 7 3), (0x94530184, .vcvtF32I32 5 6 3), (0x94530185, .vcvtF32W32 5 6 3),
    (0x94530186, .vcvtI32F32 5 6 3), (0x94530187, .vcvtW32F32 5 6 3), (0x94530188, .vcvtI32I8 5 6 3),
    (0x94531D89, .vcvtI8I32 5 6 7 3), (0x94531D90, .vcvtF32D16 5 6 7 3), (0x94531D91, .vcvtF32D8 5 6 7 3),
    (0x94531D92, .vcvtF32D4 5 6 7 3), (0x94531D94, .vcvtD16F32 5 6 7 3), (0x94531D95, .vcvtD8F32 5 6 7 3),
    (0x94531D96, .vcvtD4F32 5 6 7 3), (0x94531D98, .vcvtF32E4m3 5 6 7 3), (0x94531D99, .vcvtF32E5m2 5 6 7 3),
    (0x94531D9A, .vcvtF32E2m3 5 6 7 3), (0x94531D9B, .vcvtF32E3m2 5 6 7 3), (0x94531D9C, .vcvtF32E2m1 5 6 7 3),
    (0x94531D9D, .vcvtF32Mxi8 5 6 7 3), (0x94531DA0, .vcvtE4m3F32 5 6 7 3), (0x94531DA1, .vcvtE5m2F32 5 6 7 3),
    (0x94531DA2, .vcvtE2m3F32 5 6 7 3), (0x94531DA3, .vcvtE3m2F32 5 6 7 3), (0x94531DA4, .vcvtE2m1F32 5 6 7 3),
    (0x94531DA5, .vcvtMxi8F32 5 6 7 3), (0x965301C2, .vrcp .bf16 5 6 3 true), (0x965301CA, .vrsqrt .bf16 5 6 3 true),
    (0x965301D2, .vexp2 .bf16 5 6 3 true), (0x965301DA, .vlog2 .bf16 5 6 3 true), (0x965301E2, .vtanh .bf16 5 6 3 true),
    (0x965301EA, .vsigm .bf16 5 6 3 true), (0x985301C5, .vmov .w16 5 6 3 true), (0x985301CD, .vdup .w16 5 6 3 true),
    (0x98531C15, .vins .w16 5 6 7), (0x98531C1D, .vext .w16 5 6 7), (0x98531DA5, .vmerge .w16 5 6 7 3),
    (0x9A531D82, .vdxdot .d4 5 6 7 3), (0x9A531D8A, .vdxamax .d4 5 6 7 3)] : List (Nat × Instr)).all fun e => decode e.1 == .ok e.2) = true := by
  decide +kernel

theorem test_decode_tile : (([
    (0xC0A60200, .tview 5 6 4), (0xC2A60200, .twload 5 6 4), (0xC4A63A75, .tmma 5 6 7 0x1d true 4),
    (0xC6A63A00, .tadd 5 6 7 4), (0xC6A63A08, .tmulw 5 6 7 4), (0xC6A63A10, .tscale 5 6 7 4), (0xC6A60218, .tactRelu 5 6 4),
    (0xC6A60219, .tactGelu 5 6 4), (0xC6A6021A, .tactSigm 5 6 4), (0xC6A6021B, .tactTanh 5 6 4), (0xC6A6021C, .tactExp 5 6 4),
    (0xC6A63A20, .tcvt 5 6 7 4), (0xC6A60228, .tredRowsum 5 6 4), (0xC6A60229, .tredColsum 5 6 4),
    (0xC6A6022A, .tredRowmax 5 6 4), (0xC6A6022B, .tredColmax 5 6 4), (0xC8A63A00, .tmask 5 6 7 4),
    (0xCAA60200, .tforce 5 6 4), (0xCAA63A01, .tstore 5 6 7 4), (0xCCA00200, .tdrop 5 4), (0xCCA60201, .tquery 5 6 4)] : List (Nat × Instr)).all fun e => decode e.1 == .ok e.2) = true := by
  decide +kernel

theorem test_decode_system : (([
    (0xE0000000, .scall), (0xE0000001, .brk), (0xE0000002, .rett), (0xE0000003, .wfi), (0xE0000004, .halt),
    (0xE2503DA8, .srr 5 0x7b5), (0xE2033DA9, .srw 0x7b5 6), (0xE2533DAA, .srx 5 0x7b5 6), (0xE4031C00, .startS 6 7),
    (0xE4030001, .reap 6), (0xE4031C02, .slotw 6 7), (0xE6000000, .ptsync), (0xE6000001, .netsync), (0xE6000002, .l1wb),
    (0xE6000003, .l1inv), (0xE6730004, .accspill 7 6), (0xE6730005, .accfill 7 6), (0xE8530000, .kslotw 5 6),
    (0xE8500001, .kslotclr 5), (0xE8530002, .nselw 5 6), (0xE8530003, .grpw 5 6), (0xE8500004, .blkfence 5)] : List (Nat × Instr)).all fun e => decode e.1 == .ok e.2) = true := by
  decide +kernel

/-- The encoder gives those words back. -/
theorem test_encode : (([.add 5 6 7, .fadd .f32 .rup 5 6 7, .ldW16 5 6 4 0x5A5, .tmma 5 6 7 29 true 4, .srw 0x7B5 6] : List Instr).map
    encode) = [some 0x04531C00, some 0x0C531D60, some 0x465325A5, some 0xC4A63A75, some 0xE2033DA9] := by
  decide +kernel

/-! ### Scalar instructions -/

/-- Run one instruction with g6 = a, g7 = b and read g5. -/
def run2 (i : Instr) (a b : Nat) : Option Nat := next (exec i (demo (regs [(6, a), (7, b)] running))) fun t => (t.me.greg 5).toNat

/-- R145 to R150: wraps, signs, full-width shifts, the spec's own examples, and division by zero and of the most negative value. -/
theorem test_integer : (([
    (.add 5 6 7, 2 ^ 64 - 1, 3, 2), (.sub 5 6 7, 0, 1, 2 ^ 64 - 1), (.andn 5 6 7, 0xFF, 0x0F, 0xF0), (.orn 5 6 7, 0, 2 ^ 64 - 2, 1),
    (.xnor 5 6 7, 0, 2 ^ 64 - 1, 0), (.addw 5 6 7, 0x7FFFFFFF, 1, 0xFFFFFFFF80000000), (.subw 5 6 7, 2 ^ 32, 1, 2 ^ 64 - 1),
    (.lea3 5 6 7, 0x8000000000100000, 5, 0x8000000000100028), (.gname 5 6 7, 0x372, 0x100, 0x20DC800000000100),
    (.gname 5 6 7, 0x4372, 0x180100, 0x20DC800000000100), (.sll 5 6 7, 1, 65, 2), (.srl 5 6 7, 2 ^ 63, 127, 1),
    (.sra 5 6 7, 2 ^ 63, 63, 2 ^ 64 - 1), (.rol 5 6 7, 2 ^ 63 + 1, 1, 3), (.ror 5 6 7, 1, 64, 1), (.ror 5 6 7, 1, 1, 2 ^ 63),
    (.srlw 5 6 7, 0x80000000, 32, 0xFFFFFFFF80000000), (.sraw 5 6 7, 0x80000000, 31, 2 ^ 64 - 1), (.sllw 5 6 7, 1, 31, 0xFFFFFFFF80000000),
    (.clz 5 6, 0, 0, 64), (.ctz 5 6, 0, 0, 64), (.popc 5 6, 2 ^ 64 - 1, 0, 64), (.brev 5 6, 1, 0, 2 ^ 63),
    (.bswap 5 6, 0x0102030405060708, 0, 0x0807060504030201), (.bext 5 6 7, 0xB6, 0xAA, 0xD), (.bdep 5 6 7, 0xD, 0xAA, 0xA2),
    (.mul 5 6 7, 2 ^ 63 + 1, 2, 2), (.mulhI64 5 6 7, 2 ^ 64 - 1, 2, 2 ^ 64 - 1), (.mulhW64 5 6 7, 2 ^ 64 - 1, 2, 1),
    (.mulI32 5 6 7, 0xFFFFFFFF, 3, 2 ^ 64 - 3), (.divI32 5 6 7, 0xFFFFFFFF80000000, 0, 2 ^ 64 - 1),
    (.remI32 5 6 7, 0xFFFFFFFF80000000, 0, 0xFFFFFFFF80000000), (.divW32 5 6 7, 0xFFFFFFFF80000000, 0, 0xFFFFFFFF),
    (.remW32 5 6 7, 0xFFFFFFFF80000000, 0, 0x80000000), (.divI64 5 6 7, 2 ^ 64 - 7, 2, 2 ^ 64 - 3),
    (.remI64 5 6 7, 2 ^ 64 - 7, 2, 2 ^ 64 - 1), (.divI64 5 6 7, 2 ^ 63, 2 ^ 64 - 1, 2 ^ 63), (.remI64 5 6 7, 2 ^ 63, 2 ^ 64 - 1, 0),
    (.divW64 5 6 7, 9, 0, 2 ^ 64 - 1), (.remW64 5 6 7, 9, 0, 9), (.sltI64 5 6 7, 2 ^ 63, 0, 1), (.sltW64 5 6 7, 2 ^ 63, 0, 0),
    (.sleI64 5 6 7, 4, 4, 1), (.minI64 5 6 7, 2 ^ 63, 1, 2 ^ 63), (.maxW64 5 6 7, 2 ^ 63, 1, 2 ^ 63), (.czn 5 6 7, 9, 1, 0),
    (.czz 5 6 7, 9, 0, 0), (.czz 5 6 7, 9, 2, 9), (.addi 5 6 0x4000, 0, 0, 2 ^ 64 - 16384), (.andi 5 6 0x7FF8, 0xFF, 0, 0xF8),
    (.sltiW64 5 6 0x7FFF, 2 ^ 64 - 2, 0, 1), (.srai 5 6 3, 2 ^ 63, 0, 0xF000000000000000), (.rori 5 6 0, 7, 0, 7),
    (.lih 5 0x80000, 0, 0, 0xFFFFFFFF80000000), (.addpc 5 1, 0, 0, 2 ^ 63 + 0x2000)] : List (Instr × Nat × Nat × Nat)).all fun e =>
      run2 e.1 e.2.1 e.2.2.1 == some e.2.2.2) = true := by
  decide +kernel

/-- R158 to R165: the spec's examples of fusion, of round to odd and of a saturating conversion, the sign of a zero sum, and NaNs. -/
theorem test_float : (([
    (.fadd .f32 .rne 5 6 7, 0x3F800000, 0x33800000, 0x3F800000, 1), (.fadd .f32 .rup 5 6 7, 0x3F800000, 0x33800000, 0x3F800001, 1),
    (.fsub .f64 .rdn 5 6 7, 0x3FF0000000000000, 0x3FF0000000000000, 0x8000000000000000, 0), (.fsub .f64 .rne 5 6 7, 0x3FF0000000000000, 0x3FF0000000000000, 0, 0),
    (.fmul .f32 .rne 5 6 7, 0x7F800000, 0, 0x7FC00000, 16), (.fdiv .f32 .rne 5 6 7, 0xBF800000, 0, 0xFF800000, 8),
    (.fsqrt .f32 .rne 5 6, 0x80000000, 0, 0x80000000, 0),
    (.fsqrt .f32 .rne 5 6, 0x40000000, 0, 0x3FB504F3, 1), (.fsqrt .f64 .rtz 5 6, 0x4022000000000000, 0, 0x4008000000000000, 0), (.fmin .f32 5 6 7, 0x80000000, 0, 0x80000000, 0),
    (.fmax .f32 5 6 7, 0x7F800001, 0x3F800000, 0x3F800000, 16), (.fsgnjn .f64 5 6 6, 0x7FF0000000000001, 0, 0xFFF0000000000001, 0),
    (.fcvtBf16F32 .rod 5 6, 0x3F808000, 0, 0x3F81, 1), (.fcvtI64F64 .rtz 5 6, 0x43E0000000000000, 0, 0x7FFFFFFFFFFFFFFF, 16),
    (.fcvtW32F32 .rne 5 6, 0xBF800000, 0, 0, 16), (.fcvtF64I64 .rne 5 6, 2 ^ 64 - 1, 0, 0xBFF0000000000000, 0),
    (.feqF32 5 6 7, 0x80000000, 0, 1, 0), (.fltF64 5 6 7, 0x7FF8000000000000, 0, 0, 16), (.fclassF32 5 6, 0x80000001, 0, 4, 0)]
      : List (Instr × Nat × Nat × Nat × Nat)).all fun e =>
      next (exec e.1 (demo (regs [(6, e.2.1), (7, e.2.2.1)] running))) (fun t => ((t.me.greg 5).toNat, t.me.fctl.toNat)) ==
        some (e.2.2.2.1, e.2.2.2.2)) = true := by
  decide +kernel

/-- R159: `fmac` rounds once, so the low bits of the product remain. -/
theorem test_fmac : next (exec (.fmac .f32 .rne 5 6 7) (demo (regs [(5, 0xBF800000), (6, 0x3F800800), (7, 0x3F800800)] running)))
    (fun t => ((t.me.greg 5).toNat, t.me.fctl.toNat)) = some (0x3A000400, 0) := by
  decide +kernel

/-- R9: g0 discards writes and reads zero; the destination may be a source. -/
theorem test_registers : next (exec (.addi 0 6 1) (demo (regs [(6, 5)] running))) (fun t => (t.me.greg 0, t.me.greg 6)) = some (0, 5) ∧
    next (exec (.sub 6 7 6) (demo (regs [(6, 5), (7, 9)] running))) (fun t => t.me.greg 6) = some 4 := by
  decide +kernel

/-- R153, R154, R272: a taken branch, a branch not taken, a link, and a misaligned `jalr`. -/
theorem test_branches : next (exec (.bltI64 6 7 0x7FFF) (demo (regs [(6, 2 ^ 63)] running))) (fun t => t.me.pc) = some (2 ^ 63 + 0xFFC) ∧
    next (exec (.bltW64 6 7 0x7FFF) (demo (regs [(6, 2 ^ 63)] running))) (fun t => t.me.pc) = some (2 ^ 63 + 0x1004) ∧
    next (exec (.jal 1 0x40) (demo running)) (fun t => (t.me.greg 1, t.me.pc)) = some (2 ^ 63 + 0x1004, 2 ^ 63 + 0x1100) ∧
    next (exec (.jalr 6 6 2) (demo (regs [(6, 0x100)] running))) (fun t => (t.me.greg 6, t.me.tcause, t.me.tval, t.me.pc)) =
      some (0x100, 3, 0x102, 2 ^ 63 + 0x1800) := by
  decide +kernel

/-- R104, R105, R157: a loop of one instruction with count 2 repeats it once; a zero count skips the body. -/
theorem test_loop : next (exec (.loop 6 1) (demo (regs [(6, 2)] running))) (fun t => (t.me.pc, t.me.level0)) =
      some (2 ^ 63 + 0x1004, { start := 2 ^ 63 + 0x1004, stop := 2 ^ 63 + 0x1004, count := 2, active := true }) ∧
    next (exec .nop (demo { running with level0 := { start := 2 ^ 63 + 0xFF0, stop := 2 ^ 63 + 0x1000, count := 2, active := true } }))
      (fun t => (t.me.pc, t.me.level0.count)) = some (2 ^ 63 + 0xFF0, 1) ∧
    next (exec (.loopi 0 3) (demo running)) (fun t => (t.me.pc, t.me.level0.active)) = some (2 ^ 63 + 0x1010, false) := by
  decide +kernel

/-! ### Witnesses: encoding, fetch, scalars -/

/-- DecodeEncode, FirstStep, StepTrapsUndecoded: an instruction at the bounds of its literals, and a word that is none. -/
theorem witness_words : (Instr.tmma 15 15 15 29 true 15).wellFormed = true ∧ encode (.tmma 15 15 15 29 true 15) = some 0xC5EF7FF5 ∧
    0xC5EF7FF5 < 2 ^ 32 ∧ decode 0xC5EF7FF5 = .ok (.tmma 15 15 15 29 true 15) ∧ decode 0 = .error .opcode := by
  decide +kernel

/-- The state in which a placed word is fetched, with what its strand waits for. -/
def fetching (w : Nat) (stall : Option Stall) : State :=
  (State.reset.withFetchWord 32 w).modStrand 256 0 fun t => { t with stall }

/-- `AtSlot` from its parts. -/
theorem atSlot_of {s : State} {c n : Nat} (h : s.dueModule = none ∧ s.agenda = [] ∧ (s.cores[s.turn]?).map Prod.fst = some c ∧
    s.clocked c = true ∧ s.accCycle c = s ∧ s.dueCore c = none ∧ (s.core c).slotOwner? = some n ∧ s.issues c = true ∧
    (s.strand c n).life = .running ∧ (s.strand c n).startAt ≤ (s.core c).ticks ∧ (s.strand c n).reaping = false) : s.AtSlot c n :=
  ⟨h.1, h.2.1, h.2.2.1, h.2.2.2.1, h.2.2.2.2.1, h.2.2.2.2.2.1, h.2.2.2.2.2.2.1, h.2.2.2.2.2.2.2.1, h.2.2.2.2.2.2.2.2.1,
    h.2.2.2.2.2.2.2.2.2.1, h.2.2.2.2.2.2.2.2.2.2⟩

/-- The hypotheses of StepRunsDecoded and StepTrapsUndecoded: a strand that fetches, for the first time and after a wait. -/
theorem witness_fetches (w : Nat) (h : w = 0x04531C00 ∨ w = 0) (x : Option Stall)
    (hx : x = none ∨ x = some { pc := 2 ^ 63, since := 0, why := .other }) :
    (fetching w x).Fetches 256 0 (BitVec.ofNat 32 w) ∧ ((fetching w x).strand 256 0).stall = x ∧
    ((fetching w x).strand 256 0).tin = false ∧ ((fetching w x).strand 256 0).popped = [] := by
  rcases h with rfl | rfl <;> rcases hx with rfl | rfl <;>
    exact ⟨⟨⟨atSlot_of (by decide +kernel), by decide +kernel, by decide +kernel, by decide +kernel⟩, by decide +kernel, by decide +kernel,
      by decide +kernel⟩, by decide +kernel⟩

/-- An instruction at a barrier, with one instruction of lookahead left. -/
def ahead : Outst :=
  { word := 0xFFFFFFFF, pc := 2 ^ 63 + 0xFC, la := 1, retired := 0, since := 0, err := none, pops := [], cleaning := none, record := none,
    scalars := [], order := 0, phase := .barrier ⟨0, 255⟩ true }

/-- The same state, its strand's PC moved by a distance, with that instruction outstanding. -/
def shadowing (w : Nat) (o : Option Outst) (pc : Word) : State :=
  (State.reset.withFetchWord 32 w).modStrand 256 0 fun t => { t with outst := o, pc := t.pc + pc }

/-- StepRunsDecoded, in the shadow: an `add`, an `scall`, and a PC that is not virtual. -/
theorem witness_shadowStep : ([(0x04531C00, 0), (0xE0000000, 0), (0x04531C00, 2 ^ 63)] : List (Nat × Word)).all (fun e =>
      let s := shadowing e.1 (some ahead) e.2
      (s.fetchTrap 256 (s.strand 256 0).pc).isSome == (e.2 != 0) &&
      (s.core 256).fetched? (s.strand 256 0).pc == some (BitVec.ofNat 32 e.1) &&
      (s.strand 256 0).eligible (instrOfWord ahead.word) (instrOfWord (BitVec.ofNat 32 e.1)) == (e.1 == 0x04531C00) &&
      goes (step s) fun t => (t.strand 256 0).outst.map (fun o => (o.la, o.retired)) ==
        some (if e.1 = 0x04531C00 ∧ e.2 = 0 then (1, 1) else (0, 0))) = true ∧
    (shadowing 0x04531C00 (some ahead) 0).AtSlot 256 0 ∧ (shadowing 0xE0000000 (some ahead) 0).AtSlot 256 0 ∧
    (shadowing 0x04531C00 (some ahead) (2 ^ 63)).AtSlot 256 0 :=
  ⟨by decide +kernel, atSlot_of (by decide +kernel), atSlot_of (by decide +kernel), atSlot_of (by decide +kernel)⟩

/-- StepTrapsUndecoded: a PC that is not virtual, and one behind the lease. -/
theorem witness_fetchTraps : ([2 ^ 63, 0x10000000] : List Word).all (fun pc =>
      let s := shadowing 0x04531C00 none pc
      !(s.strand 256 0).tin && (s.strand 256 0).popped.isEmpty && (s.strand 256 0).stall.isNone &&
      goes (step s) fun t => (t.strand 256 0).tcause == (if pc = 2 ^ 63 then 0x04 else 0x06) && (t.strand 256 0).tpc == (s.strand 256 0).pc &&
        (t.strand 256 0).life == (if pc = 2 ^ 63 then .running else .faulted)) = true ∧
    (∀ r, (shadowing 0x04531C00 none 0x10000000).runOf 256 = some r →
      pageLeased r.lease (((shadowing 0x04531C00 none 0x10000000).strand 256 0).pc.toNat % 2 ^ 57) .exec = false) ∧
    (shadowing 0x04531C00 none (2 ^ 63)).MayIssue 256 0 ∧ (shadowing 0x04531C00 none 0x10000000).MayIssue 256 0 :=
  ⟨by decide +kernel, by decide +kernel, ⟨atSlot_of (by decide +kernel), by decide +kernel, by decide +kernel, by decide +kernel⟩,
    ⟨atSlot_of (by decide +kernel), by decide +kernel, by decide +kernel, by decide +kernel⟩⟩

/-- StepKeepsInvariant: a state that keeps it, with something in memory and in the journal, from which a step goes on. -/
theorem witness_invariant : let s : State := { State.reset.withFetchWord 32 0x04531C00 with
      mem := [(⟨0x8000000, 7⟩ : Host.Cell)], journal := [{ seq := 0, part := 0, what := .routingAborted }] }
    s.Inv ∧ goes (step s) (fun t => t.me.pc == s.me.pc + 4) = true :=
  ⟨⟨by decide +kernel⟩, by decide +kernel⟩

/-- The statements whose one hypothesis is that the strand can run an instruction by itself. -/
theorem witness_free : (demo (regs [(6, 2 ^ 64 - 1), (7, 3)] running)).Free := free_of (by decide +kernel)

/-- RegisterOnlyFrame: the register use of an instruction, and its next state. -/
theorem witness_registerOnly : shadowUse (.fmac .f32 .rne 5 6 7) ≠ none ∧
    goes (exec (.fmac .f32 .rne 5 6 7) (demo running)) (fun _ => true) = true := by
  decide +kernel

/-- QueuePorts: a strand with QMAP set and a queue that holds entries, for the lowest and the highest queue: popped by `addi`
and, once, by `add`; pushed; empty; full. -/
theorem witness_queuePorts : ([0, 3].all fun q =>
      let st (e : List Word) : State :=
        demoCore (regs [(6, 5)] { running with status := 8 }) fun k => { k with queues := k.queues.set! q { entries := e, head := 0 } }
      let ok (e : List Word) : Bool :=
        (st e).me.qmap && (st e).me.popped.isEmpty && ((st e).core 256).copies.isEmpty && (((st e).core 256).queue q).entries == e
      let p : Reg := BitVec.ofNat 5 (24 + q)
      let gives (e : List Word) (i : Instr) (v : Option Word) (r : List Word) (dpc : Word) : Bool :=
        goes (exec i (st e)) fun t => (v.all fun v => t.me.greg 5 == v) && ((t.core 256).queue q).entries == r &&
          t.me.pc == (st e).me.pc + dpc
      ok [42, 43] && ok [] && ok (List.replicate 16 1) && gives [42, 43] (.addi 5 p 1) (some 43) [43] 4 &&
      gives [42, 43] (.add 5 p p) (some 84) [43] 4 && gives [42, 43] (.addi p 6 1) none [42, 43, 6] 4 &&
      gives (List.replicate 16 1) (.addi p 6 1) none (List.replicate 16 1) 0 && gives [] (.addi 5 p 1) (some 0) [] 0) = true := by
  decide +kernel

/-- BranchesAndJumps: an aligned and a misaligned target of `jalr`, at the end of the address range. -/
theorem witness_jalr : let s := demo (regs [(6, 2 ^ 64 - 1)] running)
    s.Free ∧ (s.me.greg 6 + (0x7FFD : BitVec 15).signExtend 64).toNat % 4 = 0 ∧ s.me.tin = false ∧
    (s.me.greg 6 + (0 : BitVec 15).signExtend 64).toNat % 4 ≠ 0 :=
  ⟨free_of (by decide +kernel), by decide +kernel⟩

/-- Completion and LoopsHintsAndRetire: no loop; a loop at its last instruction with count 2. -/
theorem witness_loops : (demo running).NoLoop ∧ (demo running).me.skip = 0 ∧ (demo running).Free ∧ (1 : BitVec 15) ≠ 0 ∧
    let t : Strand := { running with level0 := { start := 2 ^ 63 + 0xFF0, stop := 2 ^ 63 + 0x1000, count := 2, active := true } }
    ((demo t).me.level0.active = true ∧ (demo t).me.level0.stop = (demo t).me.pc ∧ 1 < (demo t).me.level0.count.toNat) :=
  ⟨⟨by decide +kernel, by decide +kernel⟩, by decide +kernel, free_of (by decide +kernel), by decide +kernel, by decide +kernel⟩

/-- LoopsHintsAndRetire: a loop inside an active one that ends at the same place, with a count and with count 0. -/
theorem witness_nestedLoop :
    let l : Level := { start := 2 ^ 63 + 0xFF0, stop := 2 ^ 63 + 0x1008, count := 2, active := true }
    let s := demo { running with level0 := l }
    s.Free ∧ (s.me.level0.active && !s.me.level1.active && s.me.level0.stop != s.me.pc && s.me.pc + 8 == s.me.level0.stop &&
      goes (exec (.loopi 3 2) s) (fun t => t.me.level1 == l && t.me.level0.count == 3 && t.me.pc == s.me.pc + 4) &&
      goes (exec (.loopi 0 2) s) (fun t => t.me.level0 == l && t.me.pc == s.me.pc + 12)) = true :=
  ⟨free_of (by decide +kernel), by decide +kernel⟩

/-- Completion: an exhausted level alone, inside one that ends elsewhere, and inside one that ends with it, to be repeated or not; an outer
level that ends alone; a transfer out of both bodies, of the inner one, and of none. LoopsHintsAndRetire: each loop that traps. -/
theorem witness_loopEnds : let here : Word := 2 ^ 63 + 0x1000
    let l (active : Bool) (stop : Word) (count : Nat) : Level := { start := 2 ^ 63 + 0xFF0, stop, count := BitVec.ofNat 64 count, active }
    let s (a b : Level) : State := { demo { running with level0 := a, level1 := b } with ir := 0x77 }
    let far : Word := here + 8
    ([(l true here 1, l false far 9, here + 4, (false, false)), (l true here 1, l true far 9, here + 4, (true, false)),
      (l true here 1, l true here 2, here - 16, (true, false)), (l true here 1, l true here 1, here + 4, (false, false)),
      (l true far 3, l true here 2, here - 16, (true, true)), (l true far 3, l true here 1, here + 4, (true, false))]
      : List (Level × Level × Word × Bool × Bool)).all (fun e => let t := (s e.1 e.2.1).retire .on
        (s e.1 e.2.1).me.skip == 0 && (t.me.pc, t.me.level0.active, t.me.level1.active) == (e.2.2.1, e.2.2.2)) = true ∧
    ([(0, (false, false)), (here + 16, (true, false)), (here, (true, true))] : List (Word × Bool × Bool)).all (fun e =>
      let t := (s (l true far 3) (l true (here + 32) 2)).retire (.to e.1 true)
      (t.me.pc, t.me.level0.active, t.me.level1.active) == (e.1, e.2)) = true ∧
    ([(s (l false far 1) (l false far 1), .loopi 3 0), (s (l true here 1) (l false far 1), .loopi 0 4),
      (s (l true far 1) (l false far 1), .loopi 3 3), (s (l true far 1) (l true far 1), .loop 6 1)] : List (State × Instr)).all (fun e =>
      let u := e.1.modMe fun t => t.setGreg 6 1
      free u && !u.me.tin && goes (exec e.2 u) fun t => (t.me.tcause, t.me.tval, t.me.tpc) == (1, 0x77, here)) = true ∧
    goes (exec (.loopi 0 9) (s (l true far 1) (l true far 1))) (fun t => t.me.pc == here + 40) = true := by
  decide +kernel

/-! ### Vector instructions -/

/-- A vector register's number from its lanes of w bytes. -/
def lanes (w : Nat) (l : List Nat) : Nat := l.foldr (fun x acc => acc * 2 ^ (8 * w) + x) 0

/-- Run one vector instruction with v5 = all ones, v6 = a, v7 = b, p1 = byte lanes 0 to 3, and read v5 and FCTL. -/
def runV (i : Instr) (a b : Nat) : Option (Nat × Nat) :=
  next (exec i (demo ((vregs [(5, 2 ^ 512 - 1), (6, a), (7, b), (8, lanes 4 [0x3F800000])] (regs [(6, 9), (7, 1)] running)).setPreg 1 15)))
    fun t => ((t.me.vreg 5).toNat, t.me.fctl.toNat)

/-- The result of an operation on lane 0 of 32 bits, the other lanes left all ones. -/
def low32 (x : Nat) : Nat := 2 ^ 512 - 2 ^ 32 + x

/-- R192, R198 to R201: the spec's examples of saturation, of the high product and of shifts, under a predicate and zeroing. -/
theorem test_vectorLanes : (([
    (.vadds .w8 5 6 7 1 true, lanes 1 [200, 1, 255, 0, 9], lanes 1 [100, 2, 1, 0, 9], lanes 1 [255, 3, 255, 0], 0),
    (.vsubs .i8 5 6 7 1 true, 156, 100, 128, 0), (.vmulh .i16 5 6 7 1 true, 0x8000, 0x8000, 0x4000, 0),
    (.vadd .i32 5 6 7 1 false, 2 ^ 32 - 1, 2, low32 1, 0), (.vsra .w8 5 6 7 1 true, 0x80, 9, 0xC0, 0),
    (.vandn 5 6 7 1 true, 2 ^ 64 - 1, 0xF0, 0xFFFFFF0F, 0), (.vmaddI32 5 6 7 8 1, 3, 5, low32 (0x3F800000 + 15), 0),
    (.vfadd .f32 5 6 7 1 false, lanes 4 [0x3F800000, 0x7F800001], 0x33800000, low32 0x3F800000, 1),
    (.vfmsF32 5 6 7 8 1, 0x40000000, 0x40000000, low32 0x40400000, 0), (.vfnmaF32 5 6 7 8 1, 0x40000000, 0x40000000, low32 0xC0A00000, 0),
    (.vfabs .f32 5 6 1 true, 0xFF800001, 0, 0x7F800001, 0)] : List (Instr × Nat × Nat × Nat × Nat)).all fun e =>
      runV e.1 e.2.1 e.2.2.1 == some (e.2.2.2.1, e.2.2.2.2)) = true := by
  decide +kernel

/-- R204, R211: which lane each permute takes. -/
theorem test_permutes : (let a := lanes 4 ((List.range 16).map (100 + ·))
    let b := lanes 4 ((List.range 16).map (200 + ·))
    ([(.vslide .w32 5 6 7 0 false, (List.range 15).map (101 + ·) ++ [0]), (.vrev .w32 5 6 0 false, (List.range 16).map (115 - ·)),
      (.vzipl .w32 5 6 7 0 false, (List.range 16).map fun i => if i % 2 = 0 then 100 + i / 2 else 200 + i / 2),
      (.vunzpo .w32 5 6 7 0 false, (List.range 16).map fun i => if i < 8 then 101 + 2 * i else 201 + 2 * (i - 8)),
      (.vbcl .w32 5 6 7 0 false, List.replicate 16 101), (.vdup .w32 5 6 0 false, List.replicate 16 9),
      (.vmerge .w32 5 6 7 1, 100 :: (List.range 15).map (201 + ·))] : List (Instr × List Nat)).all fun e =>
        runV e.1 a b == some (lanes 4 e.2, 0)) = true := by
  decide +kernel

/-- R205: the spec's example of the pairwise tree; an integer sum over the active lanes. -/
theorem test_reductions : runV (.vrfadd .f32 5 6 7 0) (lanes 4 [0x4B800000, 0x3F800000, 0x3F800000, 0x3F800000]) 0 = some (0x4B800001, 1) ∧
    runV (.vradd .i8 5 6 7 1) (lanes 1 [1, 2, 3, 4, 100]) 250 = some (4, 0) ∧
    runV (.vrfmin .f16 5 6 7 1) (lanes 2 [0x3C00, 0x7E00, 0xBC00]) 0x7C00 = some (0x3C00, 0) := by
  decide +kernel

/-- R202, R203: every bit of an active lane is set, inactive lanes keep or clear; predicate logic. -/
theorem test_predicates : (let s := demo ((vregs [(6, lanes 4 [5, 1, 0x80000000]), (7, lanes 4 [5, 2, 0])] running).setPreg 1 0xFFF)
    next (exec (.vceq .w32 2 6 7 1 false) s) (fun t => t.me.preg 2) = some 0xF ∧
    next (exec (.vclt .i32 2 6 7 1 true) s) (fun t => t.me.preg 2) = some 0xFF0 ∧
    next (exec (.vcle .w32 2 6 7 1 true) s) (fun t => t.me.preg 2) = some 0xFF ∧
    next (exec (.pnot 2 1) s) (fun t => t.me.preg 2) = some 0xFFFFFFFFFFFFF000 ∧
    next (exec (.pand 0 1 1) s) (fun t => t.me.preg 0) = some (BitVec.allOnes 64) ∧
    next (exec (.ptog 5 1) s) (fun t => t.me.greg 5) = some 0xFFF) := by
  decide +kernel

/-- R206 to R209: a narrowing and an integer conversion, an MX and a DX value, and the spec's example of `vdxdot`. -/
theorem test_conversions : runV (.vcvtF16F32 5 6 7 0) (lanes 4 [0x3F800000, 0x477FF000]) 0 = some (0x7C003C00, 5) ∧
    runV (.vcvtI32F32 5 6 1) 0x4F000000 0 = some (low32 0x7FFFFFFF, 16) ∧
    runV (.vcvtI8I32 5 6 7 0) (lanes 4 [300, 0xFFFFFF00]) 5 = some (lanes 1 [127, 128, 0, 0, 0, 0, 0, 0, 0, 0, 0, 0, 0, 0, 0, 0, 5], 0) ∧
    runV (.vcvtF32E4m3 5 6 7 1) 0x38 127 = some (low32 0x3F800000, 0) ∧
    next (exec (.vdxdot .d8 5 6 7 0) (demo (vregs [(5, lanes 4 [0x7A807A80]), (6, 0x30), (7, 0x02)] running)))
      (fun t => (t.me.vreg 5).toNat) = some (lanes 4 [0x7A807A80, 0x3EC00000]) := by
  decide +kernel

/-- R210: results that are exact; elsewhere a binary32 result is free within its bound. -/
theorem test_special : runV (.vsigm .f32 5 6 1 false) 0x80000000 0 = some (low32 0x3F000000, 0) ∧
    runV (.vtanh .f32 5 6 1 false) 0x80000000 0 = some (low32 0x80000000, 0) ∧
    runV (.vexp2 .f32 5 6 1 false) 0x7F800001 0 = some (low32 0x7FC00000, 16) := by
  decide +kernel

/-! ### Memory -/

/-- A memory that holds some bytes of core 256's scratchpad, and nothing else. -/
def padMem (off : Nat) (l : List Nat) : List Host.Cell :=
  (List.range l.length).map fun i => ⟨padKey 256 (off + i), BitVec.ofNat 8 (l.getD i 0)⟩

/-- The base state with bytes in the own scratchpad. -/
def demoPad (t : Strand) (off : Nat) (l : List Nat) : State := { demo t with mem := padMem off l }

/-- R2, R169, R170, R171: little-endian order, sign extension, scaled offsets, and an index that reaches the last doubleword. -/
theorem test_loads : (let s := demoPad (regs [(6, 0x100), (7, 0x7EF8 / 8 + 2 ^ 61), (8, 2 ^ 64 - 8)] running) 0x100 [0xF1, 0xF2, 0xF3, 0x04]
    (([(.ldI8 5 6 0 1, 0xFFFFFFFFFFFFFFF2), (.ldW8 5 6 0 1, 0xF2), (.ldI16 5 6 0 0, 0xFFFFFFFFFFFFF2F1), (.ldW32 5 6 0 0, 0x04F3F2F1),
      (.ldI64 5 6 0 0, 0x04F3F2F1), (.ldW16 5 6 0 1, 0x04F3), (.ldx .i64 5 6 7 0, 0)] : List (Instr × Nat)).all fun e =>
        next (exec e.1 s) (fun t => (t.me.greg 5).toNat) == some e.2) = true) := by
  decide +kernel

/-- R170: a store writes the low bytes, at the scaled offset, and no others. -/
theorem test_stores : next (exec (.stW32 5 6 8 0x7FF) (demo (regs [(6, 0x104), (5, 0x1112345678)] running)))
      (fun t => (t.load (padKey 256 0x100) 4, t.mem.length, t.me.pc)) = some (0x12345678, 4, 2 ^ 63 + 0x1004) ∧
    next (exec (.stx 1 5 6 7 0) (demo (regs [(6, 0x100), (7, 3), (5, 0xABCD)] running)))
      (fun t => (t.load (padKey 256 0x106) 2, t.mem.length)) = some (0xABCD, 2) := by
  decide +kernel

/-- R172 to R174: compare and swap, a signed minimum of 32 bits, and the serials. -/
theorem test_atomics : (let s := demoPad (regs [(5, 4), (6, 0x100), (7, 9)] running) 0x100 [4, 0, 0, 0x80]
    next (exec (.acas .w32 5 6 7 0) s) (fun t => (t.me.greg 5, t.load (padKey 256 0x100) 4)) = some (0x80000004, 0x80000004) ∧
    next (exec (.amin true .w32 5 6 7 0) s) (fun t => (t.me.greg 5, t.load (padKey 256 0x100) 4)) = some (0xFFFFFFFF80000004, 0x80000004) ∧
    next (exec (.aadd .w64 5 6 7 0) s) (fun t => (t.me.greg 5, t.load (padKey 256 0x100) 8)) = some (0x80000004, 0x8000000D) ∧
    next (exec (.stAck 0 5 6 7 0) s) (fun t => t.load (padKey 256 0x100) 4) = some 0x80000009) := by
  decide +kernel

/-- R195, R196: the active bytes of a vector store, and of two lanes of a scatter at one place the later. -/
theorem test_vectorMemory : next (exec (.vst 5 6 0 0 1) (demo ((vregs [(5, 0x44332211)] (regs [(6, 0x100)] running)).setPreg 1 5)))
      (fun t => (t.load (padKey 256 0x100) 4, t.mem.length)) = some (0x330011, 2) ∧
    next (exec (.vscatW32 5 6 7 0 1) (demo ((vregs [(5, lanes 4 [1, 2, 3]), (7, lanes 4 [0, 0, 1])] (regs [(6, 0x100)] running)).setPreg 1 0xFFF)))
      (fun t => (t.load (padKey 256 0x100) 8)) = some 0x300000002 := by
  decide +kernel

/-! ### Witnesses: memory -/

/-- OwnLoads, OwnStores, AcknowledgedAtHome: accesses of each width at the last place of the scratchpad, and a memory in form. -/
theorem witness_own : let s := demoPad (regs [(6, 0x7FF8), (7, 0), (8, 7), (9, 6), (10, 4)] running) 0x7FF0 [1, 2, 3]
    s.Free ∧ Memory.wf s.mem = true ∧ s.Own (s.me.greg 6 + (0 : BitVec 11).signExtend 64 * 8) 8 ∧
    s.Own (s.me.greg 6 + s.me.greg 8 * 1) 1 ∧ s.Own (s.me.greg 6 + s.me.greg 9) 2 ∧ s.Own (s.me.greg 6 + s.me.greg 10) 4 ∧
    s.Own (s.me.greg 7) 1 :=
  ⟨free_of (by decide +kernel), by decide +kernel, own_of (by decide +kernel), own_of (by decide +kernel), own_of (by decide +kernel),
    own_of (by decide +kernel), own_of (by decide +kernel)⟩

/-- `Named` as a test, with no lock at the core. -/
def named (s : State) (a : Word) (n t : Nat) : Bool :=
  a.toNat / 2 ^ 60 == 2 && decide (a.toNat % 2 ^ 46 < 2 ^ 19) && decide (a.toNat % 2 ^ 19 < (s.core s.cur.1).scr) && a.toNat % n == 0 &&
  (s.runOf s.cur.1).any (fun r => s.named? r.part (a.toNat / 2 ^ 46 % 2 ^ 14) == some t && s.inRegion r t) && (s.core s.cur.1).locks.isEmpty

theorem named_of {s : State} {a : Word} {n t : Nat} (h : named s a n t = true) : s.Named a n t := by
  simp only [named, Bool.and_eq_true, decide_eq_true_eq, beq_iff_eq, List.isEmpty_iff, Option.any_eq_true] at h
  obtain ⟨⟨⟨⟨⟨h1, h2⟩, h3⟩, h4⟩, r, h5, h6, h7⟩, h8⟩ := h
  exact ⟨h1, h2, h3, h4, ⟨r, h5, h6, h7⟩, by rw [h8]; simp⟩

/-- `Leased` as a test, with no lock at the core. -/
def leased (s : State) (a : Word) (n : Nat) (w : Right) : Bool :=
  a.toNat / 2 ^ 57 == 64 && a.toNat % n == 0 && (s.runOf s.cur.1).any (fun r => pageLeased r.lease (a.toNat % 2 ^ 57) w) &&
  (s.core s.cur.1).locks.isEmpty

theorem leased_of {s : State} {a : Word} {n : Nat} {w : Right} (h : leased s a n w = true) : s.Leased a n w := by
  simp only [leased, Bool.and_eq_true, beq_iff_eq, List.isEmpty_iff, Option.any_eq_true] at h
  obtain ⟨⟨⟨h1, h2⟩, r, h3, h4⟩, h5⟩ := h
  exact ⟨h1, h2, ⟨r, h3, h4⟩, by rw [h5]; simp⟩

/-- OwnLoads, OwnStores, AcknowledgedAtHome: the last places of the own scratchpad and of core 257's under their names; a posted store
with the counter at 63 and at 64. -/
theorem witness_named : let s := demo (regs [(6, 2 ^ 61 + 2 ^ 46 + 0x7FF8), (8, 2 ^ 61 + 0x7FF8)] running)
    let u (n : Nat) : State := s.modMe fun t => { t with acks := n, refusals := [⟨0, 0⟩] }
    let q (a : Access) : Event := .portRequest 257 (s.request (s.me.greg 6) 0x7FF8 0 a)
    s.Free ∧ s.Named (s.me.greg 6) 8 257 ∧ s.Named (s.me.greg 8) 8 256 ∧ s.Own 0x7FF8 8 ∧ (s.me.greg 8).toNat % 2 ^ 19 = 0x7FF8 ∧
    (u 62).Named ((u 62).me.greg 6) 8 257 ∧ (u 63).Named ((u 63).me.greg 6) 8 257 ∧
    goes (exec (.ldI64 5 6 0 0) s) (fun t => t.agenda == [q (.read 8 (fullMask 8))] && t.me.pc == s.me.pc + 4) = true ∧
    goes (exec (.ldI64 5 8 0 0) s) (fun t => t == s.wrote 5 0) = true ∧
    goes (exec (.stW64 8 8 0 0) s) (fun t => t.load (padKey 256 0x7FF8) 8 == 2 ^ 61 + 0x7FF8) = true ∧
    goes (exec (.stW64 0 6 0 0) (u 62)) (fun t => t.me.acks == 63 && t.agenda == [q (.write 8 (fullMask 8) 0)]) = true ∧
    goes (exec (.stW64 0 6 0 0) (u 63)) (fun t => t == (u 63).wait .counter) = true ∧
    goes (exec (.aadd .w64 5 6 8 0) s) (fun t => t.agenda == [q (.rmw .add false 8 (2 ^ 61 + 0x7FF8) 0)]) = true :=
  ⟨free_of (by decide +kernel), named_of (by decide +kernel), named_of (by decide +kernel), own_of (by decide +kernel), by decide +kernel,
    named_of (by decide +kernel), named_of (by decide +kernel), by decide +kernel⟩

/-- OwnLoads, OwnStores, AcknowledgedAtHome: the last doubleword of the leased page, its line held, held in part, filling, dirty and absent. -/
theorem witness_virtual : let t := regs [(6, 2 ^ 63 + 0x1FF8), (7, 1)] running
    let f : L1Frame := { line := 0x3F, data := 7 * 2 ^ 960, dirty := 0, present := BitVec.allOnes 128, filling := false, stale := 0, sent := 0, evict := false, refused := false }
    let none_ := demo t
    let held (x : L1Frame) : State := demoCore t fun k => { k with l1 := [(319, x)] }
    let part := held { f with present := 1 }
    let filling := held { f with present := 0, filling := true }
    let dirty := held { f with dirty := 1 }
    let asks (s u : State) : Bool := u.me.phase?.isSome && u.me.pc == s.me.pc + 4 && u.agenda.length == 1
    none_.Free ∧ none_.Leased (none_.me.greg 6) 8 .read ∧ none_.Leased (none_.me.greg 6) 8 .write ∧ (held f).Leased ((held f).me.greg 6) 8 .read ∧
    (held f).Leased ((held f).me.greg 6) 8 .write ∧ dirty.Leased (dirty.me.greg 6) 8 .read ∧ dirty.Leased (dirty.me.greg 6) 8 .write ∧
    part.Leased (part.me.greg 6) 8 .read ∧ filling.Leased (filling.me.greg 6) 8 .read ∧
    none_.HasFrame 0x3F ∧ (none_.core 256).frame? 0x3F = none ∧ ((held f).core 256).frame? 0x3F = some (319, f) ∧
    goes (exec (.ldI64 5 6 0 0) (held f)) (fun t => t.me.greg 5 == 7) = true ∧
    goes (exec (.ldI64 5 6 0 0) part) (asks part) = true ∧ goes (exec (.ldI64 5 6 0 0) none_) (asks none_) = true ∧
    goes (exec (.ldI64 5 6 0 0) filling) (fun t => t.me.phase?.isSome && t.agenda == []) = true ∧
    goes (exec (.stW64 7 6 0 0) (held f)) (fun t => ((t.core 256).frame? 0x3F).map (fun e => (lineBytes e.2.data 120 8, e.2.dirty)) ==
      some (1, 255#128 <<< 120)) = true ∧
    goes (exec (.stW64 7 6 0 0) none_) (fun t => ((t.core 256).frame? 0x3F).map (fun e => (lineBytes e.2.data 120 8, e.2.present)) ==
      some (1, 255#128 <<< 120) && t.agenda == []) = true ∧
    goes (exec (.aadd .w64 5 6 7 0) none_) (asks none_) = true ∧
    goes (exec (.stAck 3 5 6 7 0) dirty) (fun t => t.me.phase?.isSome && t.agenda.length == 2 && (t.core 256).l1.all fun e => e.2.present == 0) = true :=
  ⟨free_of (by decide +kernel), leased_of (by decide +kernel), leased_of (by decide +kernel), leased_of (by decide +kernel),
    leased_of (by decide +kernel), leased_of (by decide +kernel), leased_of (by decide +kernel), leased_of (by decide +kernel),
    leased_of (by decide +kernel), ⟨319, by decide +kernel, by decide +kernel⟩, by decide +kernel⟩

/-- VectorMemory: the last 64 bytes; lanes 0 and 1 of a gather or scatter, the others inactive. -/
theorem witness_vectorMemory : let s := demo ((vregs [(7, lanes 4 [0, 0x1FFF])] (regs [(6, 0), (8, 0x7FC0)] running)).setPreg 1 0xFF)
    s.Free ∧ Memory.wf s.mem = true ∧ s.Own (s.me.greg 8 + s.me.greg 0) 64 ∧ s.Own (s.me.greg 8 + s.me.greg 0) 4 ∧
    ∀ i, (decide (i < 64 / 4) && active (s.rp 1) 4 i) = true → s.Own (s.me.greg 6 + BitVec.ofInt 64 (vlaneInt (s.rv 7) 4 true i * 4)) 4 := by
  refine ⟨free_of (by decide +kernel), by decide +kernel, own_of (by decide +kernel), own_of (by decide +kernel), ?_⟩
  intro i hi
  have h : ∀ j, j < 16 → active ((demo ((vregs [(7, lanes 4 [0, 0x1FFF])] (regs [(6, 0), (8, 0x7FC0)] running)).setPreg 1 0xFF)).rp 1) 4 j = true →
      own (demo ((vregs [(7, lanes 4 [0, 0x1FFF])] (regs [(6, 0), (8, 0x7FC0)] running)).setPreg 1 0xFF))
        (((demo ((vregs [(7, lanes 4 [0, 0x1FFF])] (regs [(6, 0), (8, 0x7FC0)] running)).setPreg 1 0xFF)).me.greg 6) +
          BitVec.ofInt 64 (vlaneInt ((demo ((vregs [(7, lanes 4 [0, 0x1FFF])] (regs [(6, 0), (8, 0x7FC0)] running)).setPreg 1 0xFF)).rv 7) 4 true j * 4)) 4
        = true := by decide +kernel
  simp only [Bool.and_eq_true, decide_eq_true_eq] at hi
  exact own_of (h i hi.1 hi.2)

/-- MemoryFrame: a load and a store to the own scratchpad, and a store to a virtual address. -/
theorem witness_memoryFrame : let s := demo (regs [(6, 0x7FF8), (7, 2 ^ 63 + 0x1000)] running)
    Memory.wf s.mem = true ∧ s.me.mode ≠ 3 ∧ goes (exec (.ldI64 5 6 0 0) s) (fun _ => true) = true ∧
    goes (exec (.stW64 6 6 0 0) s) (fun t => t.mem.length == 2) = true ∧
    goes (exec (.stW64 6 7 0 0) s) (fun t => t.mem == s.mem) = true := by
  decide +kernel

/-- AccessTraps: an address of each clause, at the bounds of its range, with the trap it takes. -/
theorem witness_accessTraps : (([(4 * 2 ^ 60, 4), (8 * 2 ^ 60 - 8, 4), (3 * 2 ^ 60, 2), (2 ^ 19, 4), (2 ^ 60 - 8, 4), (1, 3), (2 ^ 19 - 1, 3),
    (0x8000, 4), (2 ^ 19 - 8, 4), (2 * 2 ^ 60 + 2 ^ 46 * 0x100, 5), (2 * 2 ^ 60 + 2 ^ 60 - 2 ^ 46, 5)] : List (Nat × Nat)).all fun e =>
      let s := demo (regs [(6, e.1)] running)
      free s && !s.me.tin && goes (exec (.ldI64 5 6 0 0) s) (fun t => t.me.tcause.toNat == e.2 && t.me.tval.toNat == e.1 &&
        t.me.tpc == s.me.pc && t.me.pc == (s.core 256).tvec)) = true ∧
    (demo running).me.mode ≠ 3 ∧ ∀ r ∈ (demo running).runOf 256, (demo running).named? r.part 0x100 = none := by
  decide +kernel

/-- AccessTraps: a ring address with no ring, a place behind S of a core of the run region, second-tier bits in machine mode; an atomic, a
vector store and the second lane of a gather that fail. -/
theorem witness_accessForms : let s (a mode : Nat) : State := demo ((vregs [(7, lanes 4 [0, 1])] (regs [(6, a)] { running with status := BitVec.ofNat 64 mode })).setPreg 1 0xFF)
    let trap (o : Out) (code tval : Nat) : Bool := goes o fun t => t.me.tcause.toNat == code && t.me.tval.toNat == tval
    (s 0 0).Free ∧ (s 0x7FFC 0).Own (0x7FFC + BitVec.ofInt 64 0) 4 ∧ ((s 0 0).core 256).ring? 0 = none ∧
    ((s 0 0).runOf 256 = some run0 ∧ (s 0 0).named? 0 1 = some 257 ∧ (s 0 0).inRegion run0 257 = true) ∧
    ([(2 ^ 60, 0, 4), (2 ^ 61 + 2 ^ 46 + 0x8000, 0, 4), (3 * 2 ^ 60 + 2 ^ 43, 3, 4)] : List (Nat × Nat × Nat)).all (fun e =>
      trap (exec (.ldI64 5 6 0 0) (s e.1 e.2.1)) e.2.2 e.1 && trap (exec (.aadd .w64 5 6 0 0) (s e.1 e.2.1)) e.2.2 e.1 &&
      trap (exec (.vst 5 6 0 0 1) (s e.1 e.2.1)) e.2.2 e.1) = true ∧
    (active ((s 0x7FFC 0).rp 1) 4 0 && active ((s 0x7FFC 0).rp 1) 4 1) = true ∧
    trap (exec (.vgathW32 5 6 7 0 1) (s 0x7FFC 0)) 4 0x8000 = true :=
  ⟨free_of (by decide +kernel), own_of (by decide +kernel), by decide +kernel⟩

/-- AccessTraps, last clause: the first byte behind the lease. -/
theorem witness_lease : let s := demo (regs [(6, 2 ^ 63 + 0x2000)] running)
    (s.me.greg 6).toNat / 2 ^ 57 % 2 ^ 6 = 0 ∧ (s.me.greg 6).toNat % 8 = 0 ∧
    (∀ r ∈ s.runOf 256, pageLeased r.lease ((s.me.greg 6).toNat % 2 ^ 57) .read = false) ∧
    goes (exec (.ldI64 5 6 0 0) s) (fun t => t.me.life == .faulted && t.me.tcause == 6 && t.me.tval == s.me.greg 6 && t.me.pc == s.me.pc) =
      true := by
  decide +kernel

/-! ### Fences, rings, vigils -/

/-- Ring 1 of three days of 4 KiB at 0x1000: strand 0 produces, strands 0 and 2 consume. -/
def ring1 (fill drain : Nat) (drainArr : BitVec 16) : Ring :=
  { cfg := { n := 1, base := 0x1000, days := 3, daySize := 0x1000, prod := 1, cons := 5, wait := 6, index := 0 }, fill, drain,
    fillArr := 0, drainArr }

/-- The base state with ring 1. -/
def demoRing (fill drain : Nat) (drainArr : BitVec 16) : State := demoCore running fun k => { k with rings := [(1, ring1 fill drain drainArr)] }

/-- FencesAndSynchronisation: settled, with a line in the L1 that an acquire drops and an instruction line it drops; and with
a store unacknowledged. -/
theorem witness_fences : let l : L1Frame := { line := 5, data := 0, dirty := 0, present := BitVec.allOnes 128, filling := false, stale := 0, sent := 0, evict := false, refused := false }
    let s := demoCore { running with status := 1 } fun k => { k with l1 := [(0, l)], icache := [(9, 0)] }
    let u := demo { running with acks := 1 }
    s.Free ∧ s.me.outst = none ∧ s.Settled ∧ s.slices = [] ∧ u.Free ∧ u.me.outst = none ∧ u.me.acks ≠ 0 ∧ 1 ≤ s.me.mode ∧
    s.reticles = [] ∧ (∀ n, n < 16 → (s.strand 256 n).acks = 0) ∧ s.farEnds 256 = [] ∧
    goes (exec (.fenceRel .package 0) s) (fun t => t == s.retire .on) = true ∧
    goes (exec (.fenceFull .partition 0) s) (fun t => t.me == (s.retire .on).me && (t.core 256).icache == [] &&
      ((t.core 256).l1.map fun e => e.2.present) == [0]) = true ∧
    goes (exec (.fenceAcq .core 0) s) (fun t => t == s.retire .on) = true ∧
    goes (exec (.fenceAck 0) u) (fun t => t.me.phase? == some .fenceAck && t.me.pc == u.me.pc + 4) = true ∧
    goes (exec (.fenceRel .core 3) u) (fun t => t.me.phase? == some (.fence true false .core)) = true ∧
    goes (exec .ptsync s) (fun t => t == s.retire .on) = true ∧ goes (exec .netsync s) (fun t => t == s.retire .on) = true :=
  ⟨free_of (by decide +kernel), by decide +kernel, settled_of (by decide +kernel), by decide +kernel, free_of (by decide +kernel), by decide +kernel⟩

/-- FencesAndSynchronisation: a package release with a dirty line of the second tier, a package acquire with a clean one, and an acquire of
reticle scope. -/
theorem witness_farFences : let l (dirty : Nat) : SliceLine := { part := 0, line := 0x20, phys := 2 ^ 60, ps := 0, d := false, data := 1, dirty }
    let s (dirty : Nat) : State := { demoCore running (fun k => { k with icache := [(9, 0)] }) with slices := [(40, { Slice.reset with lines := [l dirty] })] }
    (s 1).Free ∧ (s 1).Settled ∧ (l 1).far = true ∧ 40 ∈ part0.slices ∧ (s 1).partition? ((s 1).partOf 256) = some part0 ∧
    goes (exec (.fenceRel .package 0) (s 1)) (fun t => t.me.phase? == some (.tier false) && t.agenda == [.secondTierCompletion 256 0]) = true ∧
    goes (exec (.fenceAcq .package 0) (s 0)) (fun t => (t.slice 40).lines == [] && (t.core 256).icache == []) = true ∧
    goes (exec (.fenceFull .package 0) (s 0)) (fun t => (t.slice 40).lines == []) = true ∧
    goes (exec (.fenceAcq .reticle 0) (s 0)) (fun t => (t.slice 40).lines.length == 1 && (t.core 256).icache == []) = true :=
  ⟨free_of (by decide +kernel), settled_of (by decide +kernel), by decide +kernel⟩

/-- RingsAndVigils: room for a day (held 1 of 2) and none (held 2 of 2); the last consumer and one that waits; at the wrap
of a pointer. The steps are those of the trace of R62. -/
theorem witness_rings : let s := demoRing 1 0 4
    let full := demoRing 2 0 0
    let wrap := demoRing (3 * 2 ^ 28 - 1) (3 * 2 ^ 28 - 2) 4
    s.Free ∧ s.me.outst = none ∧ full.Free ∧ full.me.outst = none ∧ wrap.Free ∧ wrap.me.outst = none ∧
    (s.core 256).ring? 1 = some (ring1 1 0 4) ∧ (full.core 256).ring? 1 = some (ring1 2 0 0) ∧
    (1 : BitVec 16).getLsbD 0 = true ∧ (5 : BitVec 16).getLsbD 0 = true ∧
    goes (exec (.daybarFill 1 0) s) (fun t => (t.core 256).ring? 1 == some (ring1 2 0 4) && t.me == (s.retire .on).me) = true ∧
    goes (exec (.daybarFill 1 0) full) (fun t => t.me.phase? == some (.daybar 1 false)) = true ∧
    goes (exec (.daybarDrain 1 0) s) (fun t => (t.core 256).ring? 1 == some (ring1 1 1 0) && t.me == (s.retire .on).me) = true ∧
    goes (exec (.daybarDrain 1 0) full) (fun t => t.me.phase? == some (.daybar 1 true) && (t.core 256).ring? 1 == some (ring1 2 0 1)) = true ∧
    goes (exec (.daybarFill 1 0) wrap) (fun t => ((t.core 256).ring? 1).map Ring.fill == some 0) = true :=
  ⟨free_of (by decide +kernel), by decide +kernel, free_of (by decide +kernel), by decide +kernel, free_of (by decide +kernel), by decide +kernel⟩

/-- RingsAndVigils: conditions that hold and that do not, and a queue count. -/
theorem witness_vigils : let s := demoRing 1 0 0
    let f := demoRing 2 0 0
    let q := demoCore running fun k => { k with queues := k.queues.set! 3 { entries := List.replicate 16 7, head := 0 } }
    goes (exec (.vigilReady 5 1 4 0) s) (fun t => t == s.wrote 5 0) = true ∧ goes (exec (.vigilRoom 5 1 4 0) s) (fun t => t == s.wrote 5 0) = true ∧
    goes (exec (.vigilRoom 5 1 24 0) f) (fun t => t.me.phase? == some (.vigil 3 5 1 24)) = true ∧
    goes (exec (.vigilQne 5 3 4 0) s) (fun t => t.me.phase? == some (.vigil 0 5 3 4)) = true ∧
    goes (exec (.vigilQnf 5 3 4 0) q) (fun t => t.me.phase? == some (.vigil 1 5 3 4)) = true ∧
    goes (exec (.vigilQne 5 3 4 0) q) (fun t => t == q.wrote 5 0) = true ∧
    goes (exec (.qcount 5 3 0) q) (fun t => t.me.greg 5 == 16) = true := by
  decide +kernel

/-! ### Groups and the deque -/

/-- Group 255 of the run: cores 256 and 257. -/
def group255 : Group :=
  { ref := ⟨0, 255⟩, image := { count := 2, wait := 6, zeros := 0, members := [0, 1] }, run := some 0, members := [256, 257],
    expected := [256, 257], arrived := [], redOp := none, redValues := [], seq := 0, unpopped := [] }

/-- The base state with that group, and broadcasts delivered to core 256. -/
def demoGroup (t : Strand) (b : List (Nat × Word)) : State :=
  { demoCore t fun k => { k with bcast := [(255, b)] } with groups := [group255] }

/-- Groups: a member with nothing delivered, with a value delivered, with another strand's barrier arrival and contribution not
yet sent, with ones sent, and a core outside the group. -/
theorem witness_groups : let s := demoGroup (regs [(6, 0xFF), (7, 9)] running) []
    let d := demoGroup (regs [(6, 0xFF)] running) [(3, 42), (4, 43)]
    let o := demo (regs [(6, 0xFF)] running)
    let j (sent : Bool) := s.modCore 256 fun k => { k with arrivals := [false, true].map fun red => { idx := 255, reduction := red, arriver := .strand 1, sent, withdrawn := false } }
    let joined (t u : State) (p : Phase) : Bool := u.me.phase? == some p && u.agenda == t.agenda
    (j false).Free ∧ (j true).Free ∧ ([false, true].all fun sent => [false, true].all fun red =>
      (((j sent).core 256).arrival? 255 red).all fun x => x.arriver != .strand 0 && x.sent == sent) = true ∧
    ([false, true].all fun sent => goes (exec (.bar 6 0) (j sent)) (fun t => joined (j sent) t (.barrier ⟨0, 255⟩ true)) &&
      goes (exec (.redAdd 5 6 7 0) (j sent)) (fun t => joined (j sent) t (.reduce ⟨0, 255⟩ 5 .add 9 true))) = true ∧
    s.Free ∧ s.Settled ∧ d.Free ∧ d.Settled ∧ o.Free ∧ o.me.tin = false ∧ o.groupOf 256 255 = none ∧ s.groupOf 256 255 = some group255 ∧
    d.groupOf 256 255 = some group255 ∧ (s.core 256).arrival? 255 false = none ∧ (s.core 256).arrival? 255 true = none ∧ lookupD [] 255 (s.core 256).bcast = [] ∧
    lookupD [] 255 (d.core 256).bcast = [(3, 42), (4, 43)] ∧
    goes (exec (.bar 6 0) s) (fun t => t.me.phase? == some (.barrier ⟨0, 255⟩ true) && t.agenda == [.barrierArrival ⟨0, 255⟩ 256 256]) = true ∧
    goes (exec (.bcastSend 6 7 0) s) (fun t => t.agenda == [.broadcastAccept ⟨0, 255⟩ 256 0 9]) = true ∧
    goes (exec (.bcastRecv 5 6 0) s) (fun t => t.me.phase? == some (.bcastRecv ⟨0, 255⟩ 5 (some 0) none)) = true ∧
    goes (exec (.bcastRecv 5 6 0) d) (fun t => t.me == (d.wrote 5 42).me && lookupD [] 255 (t.core 256).bcast == [(4, 43)] &&
      t.agenda == [.broadcastCreditReturn ⟨0, 255⟩ 256 3 256]) = true ∧
    goes (exec (.redMaxI64 5 6 7 0) s) (fun t => t.me.phase? == some (.reduce ⟨0, 255⟩ 5 .maxI 9 true) &&
      t.agenda == [.reductionContribution ⟨0, 255⟩ 256 0 .maxI 9 256]) = true ∧
    goes (exec (.bar 6 0) o) (fun t => t.me.tcause == 5 && t.me.tval == 255) = true :=
  ⟨free_of (by decide +kernel), free_of (by decide +kernel), by decide +kernel, by decide +kernel, free_of (by decide +kernel),
    settled_of (by decide +kernel), free_of (by decide +kernel), settled_of (by decide +kernel), free_of (by decide +kernel), by decide +kernel⟩

/-- A frame. -/
def frame0 : Frame := { entry := 2 ^ 63 + 0x1100, args := #v[1, 2, 3, 4, 5, 6], fmta := 0x11, fmtb := 0, scla := 0, sclb := 0x80 }

/-- Deque: `spawn` of a record in the own scratchpad, with 31 frames held; the spec's argument order. -/
theorem witness_spawn : let s := { demoCore { regs [(6, 0x7FC0)] running with sclb := 0x80 } fun k =>
      { k with deque := { k.deque with hw := List.replicate 31 frame0 } } with
      mem := padMem 0x7FC0 ([4] ++ List.replicate 7 0 ++ [1]) }
    s.Free ∧ s.me.outst = none ∧ s.Own (s.me.greg 6) 64 ∧ (s.me.greg 6).toNat / 2 ^ 60 = 0 ∧ s.load (s.ownKey (s.me.greg 6)) 8 % 4 = 0 ∧
    (s.core 256).deque.hw.length < 32 ∧
    (s.core 256).deque.hw.length + (s.core 256).deque.overN + (s.core 256).deque.reserved < 32 + (s.core 256).deque.slots ∧
    goes (exec (.spawn 6 0) s) (fun t => t.me == (s.retire .on).me && (t.core 256).deque.hw.head?.map (fun f => (f.entry, f.args.toList, f.sclb)) ==
      some (4, [1, 0, 0, 0, 0, 0], 0x80) && (t.core 256).deque.hw.length == 32) = true :=
  ⟨free_of (by decide +kernel), by decide +kernel, own_of (by decide +kernel), by decide +kernel⟩

/-- Deque: `take` of the last frame, and of none with a victim to ask; a destination among the arguments. -/
theorem witness_take : let s := demoCore running fun k => { k with deque := { k.deque with hw := [frame0] } }
    let e := demo running
    s.Free ∧ s.me.outst = none ∧ e.Free ∧ e.me.outst = none ∧ (s.core 256).deque.overN = 0 ∧ (e.core 256).deque.hw = [] ∧
    (e.victim 256 []).1 = some 257 ∧
    goes (exec (.take 1 0) s) (fun t => t.me.pc == 2 ^ 63 + 0x1100 && t.me.greg 4 == 1 && t.me.greg 9 == 6 && t.me.greg 1 == 2 ^ 63 + 0x1004 &&
      t.me.fmta == 0x11 && (t.core 256).deque.hw == []) = true ∧
    goes (exec (.take 9 0) s) (fun t => t.me.greg 9 == 2 ^ 63 + 0x1004) = true ∧
    goes (exec (.take 1 0) e) (fun t => t.me.phase? == some (.take 1 [257] 0 none) && t.agenda == [.theftRequest 257 256 0]) = true :=
  ⟨free_of (by decide +kernel), by decide +kernel, free_of (by decide +kernel), by decide +kernel⟩

/-- Deque: `join` of the last and of the first of two, and `yield` with and without a frame. -/
theorem witness_join : let s := demoPad (regs [(6, 0x100)] running) 0x100 [1]
    let m := demoPad (regs [(6, 0x100)] running) 0x100 []
    let y := demoCore running fun k => { k with deque := { k.deque with hw := [frame0] } }
    s.Free ∧ s.Settled ∧ s.NoLoop ∧ s.Own (s.me.greg 6) 8 ∧ m.Own (m.me.greg 6) 8 ∧ Memory.wf s.mem = true ∧ y.Free ∧ y.me.outst = none ∧
    0 < (y.core 256).deque.hw.length + (y.core 256).deque.overN ∧
    goes (exec (.join 6 0) s) (fun t => t.load (padKey 256 0x100) 8 == 0 && t.me.pc == 2 ^ 63 + 0x1004) = true ∧
    goes (exec (.join 6 0) m) (fun t => t.load (padKey 256 0x100) 8 == 2 ^ 64 - 1 && t.me.pc == 2 ^ 63 + 0x1008) = true ∧
    goes (exec (.yield 0) y) (fun t => t == y.retire .on) = true ∧ goes (exec (.yield 0) s) (fun t => t.me.phase? == some .yield) = true :=
  ⟨free_of (by decide +kernel), settled_of (by decide +kernel), ⟨by decide +kernel, by decide +kernel⟩, own_of (by decide +kernel),
    own_of (by decide +kernel), by decide +kernel, free_of (by decide +kernel), by decide +kernel⟩

/-! ### Long accumulators and the almanac -/

/-- LongAccumulatorsAndAlmanac: an accumulator in the last 88 bytes, and an empty state at the smallest exponent. -/
theorem witness_longAcc : let s := demoPad (regs [(6, 0x7FA8), (7, 0x3F800000), (5, 0x40000000), (8, 1)] running) 0x7FA8 []
    let key := padKey 256 0x7FA8
    s.Free ∧ Memory.wf s.mem = true ∧ (s.me.greg 6).toNat % 8 = 0 ∧ (s.me.greg 6).toNat + 88 ≤ (s.core 256).scr ∧
    (∀ i, i < 11 → s.Own (s.me.greg 6 + BitVec.ofNat 64 (8 * i)) 8) ∧ (s.core 256).accBusy = false ∧
    binary32.value 0x3F800000 = .fin false (2 ^ 23) (-23) ∧ binary32.value 1 = .fin false 1 (-149) ∧
    ((binary32.value 0x3F800000).mul (binary32.value 0x40000000)).1 = .fin false (2 ^ 46) (-45) ∧
    goes (exec (.laz 6 0) s) (fun t => (t.accStep 256 0 true).load key 88 == 0 && t.me.pc == 2 ^ 63 + 0x1004) = true ∧
    goes (exec (.laadd 6 7 0) s) (fun t => (t.accStep 256 0 true).load key 80 == 2 ^ 320 && t.load key 80 == 0 && t.me.pc == 2 ^ 63 + 0x1004) = true ∧
    goes (exec (.laadd 6 8 0) s) (fun t => (t.accStep 256 0 true).load key 80 == 2 ^ 171) = true ∧
    goes (exec (.laaddp 6 7 5 0) s) (fun t => (t.accStep 256 0 true).load key 80 == 2 ^ 321) = true ∧
    goes (exec (.larndF32 5 6 0) s) (fun t => t.me.greg 5 == 0) = true := by
  refine ⟨free_of (by decide +kernel), by decide +kernel, by decide +kernel, by decide +kernel, ?_, by decide +kernel⟩
  intro i hi
  have h : ∀ i, i < 11 → own (demoPad (regs [(6, 0x7FA8), (7, 0x3F800000), (5, 0x40000000), (8, 1)] running) 0x7FA8 [])
      ((demoPad (regs [(6, 0x7FA8), (7, 0x3F800000), (5, 0x40000000), (8, 1)] running) 0x7FA8 []).me.greg 6 + BitVec.ofNat 64 (8 * i)) 8 = true := by
    decide +kernel
  exact own_of (h i hi)

/-- An almanac of two slots of 64 bytes, one filled, the other filling or free. -/
def demoAlmanac (t : Strand) (l : List (Nat × AlEntry)) : State :=
  demoCore t fun k => { k with almN := 2, almBase := 0x400, almanac := l }

/-- The almanac clauses: a granule filled, filling, absent with an entry free and with none, and an eviction. -/
theorem witness_almanac : let t := regs [(6, 2 ^ 63 + 0x1040), (7, 1)] running
    let a := demoAlmanac t [(1, { tag := 0x41, filling := none })]
    let b := demoAlmanac t [(1, { tag := 0x41, filling := some 3 })]
    let c := demoAlmanac t [(0, { tag := 0x99, filling := none })]
    let d := demoAlmanac t [(0, { tag := 0x99, filling := none }), (1, { tag := 0x98, filling := none })]
    a.Free ∧ b.Free ∧ c.Free ∧ d.Free ∧ (a.core 256).almN ≠ 0 ∧ (a.me.greg 6).toNat / 2 ^ 57 = 64 ∧
    (a.me.greg 6).toNat % 2 ^ 57 / 2 ^ (a.core 256).almS = 0x41 ∧ (a.me.greg 7).toNat < (a.core 256).almN ∧ a.me.stall = none ∧ c.me.stall = none ∧
    goes (exec (.alook 5 6 0) a) (fun t => t == a.wrote 5 1) = true ∧ goes (exec (.alook 5 6 0) b) (fun t => t == b.wrote 5 (2 ^ 62 + 1)) = true ∧
    goes (exec (.alook 5 6 0) c) (fun t => t == c.wrote 5 (2 ^ 63 + 1)) = true ∧
    goes (exec (.alook 5 6 0) d) (fun t => t == d.wrote 5 (2 ^ 63 + 0x7FF)) = true ∧
    goes (exec (.alevict 7 0) a) (fun t => (t.core 256).almanac == [] && t.me == (a.retire .on).me) = true ∧
    goes (exec (.alevict 7 0) c) (fun t => t == c.retire .on) = true :=
  ⟨free_of (by decide +kernel), free_of (by decide +kernel), free_of (by decide +kernel), free_of (by decide +kernel), by decide +kernel⟩

/-! ### Copies -/

/-- Copy-address registers of a strand. -/
def eregs (l : List (Nat × Nat)) (t : Strand) : Strand :=
  l.foldl (fun t e => t.setEreg (BitVec.ofNat 5 e.1) (BitVec.ofNat 64 e.2)) t

/-- What every start of a copy asks of the core: no copy, no lock, an id not in use. -/
def channelFree (s : State) : Bool :=
  free s && (s.core s.cur.1).copies.length < 16 && (s.core s.cur.1).copies.all (fun x => x.id != (s.core s.cur.1).nextId) &&
  (s.core s.cur.1).locks.isEmpty && (s.core s.cur.1).portLocks.isEmpty && decide ((s.core s.cur.1).scr ≤ 2 ^ 19)

/-- CopiesAndFills: the largest byte count that fits both halves of the scratchpad; rows at a negative stride; a conversion. -/
theorem witness_copies : let s := demo (eregs [(30, 0), (31, 0x4000)] (regs [(7, 0x4000)] running))
    let r := demo (eregs [(28, 0x1F0), (29, 0x4000), (30, 2 ^ 64 - 16), (31, 32)] (regs [(7, 32 * 2 ^ 32 + 16)] running))
    let f := demo (eregs [(27, 0x100), (28, 0x4000), (29, 7 * 2 ^ 24 + 0x12 * 2 ^ 16 + 0x11)] (regs [(7, 0x400)] running))
    channelFree s = true ∧ channelFree r = true ∧ channelFree f = true ∧
    (rowsSpan 0x1F0 (-16) 32 16).lo = 0 ∧ (rowsSpan 0x1F0 (-16) 32 16).hi = 0x200 ∧ (rowsSpan 0x4000 32 32 16).hi = 0x43F0 ∧
    copyFmts (f.me.ereg 29) = some (.bin binary32, none, .bin binary16) ∧
    goes (exec (.cpy 5 30 7 0) s) (fun t => ((t.core 256).copies.map Copy.kind) == [.cpy] && t.agenda == [.copyStart 256 0] &&
      t.me == (s.retire .on).me) = true ∧
    goes (exec (.cpy2 5 28 7 0) r) (fun t => ((t.core 256).copies.map fun x => (x.kind, x.locks, x.geo.length)) == [(.cpy2, [1, 2], 4)] &&
      t.me == (r.retire .on).me) = true ∧
    goes (exec (.cpyf 5 27 7 0) f) (fun t => ((t.core 256).copies.map fun x => (x.kind, x.rm)) == [(.cpyf, 0)] &&
      t.me == (f.retire .on).me) = true := by
  decide +kernel

/-- CopiesAndFills: a `cpyh` with its north neighbour, with and without a barrier. -/
theorem witness_cpyh : let t (gb : Nat) := eregs [(0, 0x1000), (1, 4 + 4 * 2 ^ 16 + 1 * 2 ^ 32 + 2 * 2 ^ 36), (2, 24), (3, 1)] (regs [(7, gb)] running)
    let s := demoGroup (t 0xFF01) []
    let b := demoGroup (t 0x1FF01) []
    let g := (List.range 5).map fun i => s.me.ereg (0 + BitVec.ofNat 5 i)
    channelFree s = true ∧ channelFree b = true ∧ (haloTile g).ok g = true ∧ (haloTile g).span.lo = 0xFE4 ∧ (haloTile g).span.hi = 0x1074 ∧
    s.groupOf 256 255 = some group255 ∧
    (match s.stripRanges (haloTile g) (strips g 0xFF01) with
      | .ok srcs => srcs.length == 1 && (overlapAt ((haloTile g).range 256 :: srcs)).isNone
      | .error _ => false) = true ∧
    goes (exec (.cpyh 5 0 7 0) s) (fun t => t.agenda == [.cpyhArrival 256 0] && (t.core 256).locks.length == 1) = true ∧
    goes (exec (.cpyh 5 0 7 0) b) (fun t => t.agenda == [.cpyhSourceRegistration 256 0]) = true := by
  decide +kernel

/-- A copy that has started, and one that has not. -/
def copyAt (p : CopyPhase) : Copy :=
  { id := 7, strand := 0, reg := 5, kind := .cpy, geo := [0x100, 0x4000], gb := 0x80, rm := 0, next := 0, inFlight := 0, refusedAt := none,
    phase := p, code := 0, busy := true, locks := [8, 9] }

/-- CopiesAndFills: `cpycan` of a copy that has not started and of none; `alfill` of the last entry. -/
theorem witness_cancel : let s := demoCore running fun k => { k with copies := [copyAt .starting], nextId := 10 }
    let a := demoAlmanac (regs [(6, 1), (7, 2 ^ 63 + 0x1FC0)] running) []
    (s.core 256).copies.find? (fun x => x.strand == s.cn && x.reg == 5) = some (copyAt .starting) ∧
    (s.core 256).copies.find? (fun y => y.id == 7) = some (copyAt .starting) ∧ channelFree a = true ∧ (a.core 256).l1 = [] ∧
    (a.me.greg 6).toNat < (a.core 256).almN ∧ (a.me.greg 7).toNat / 2 ^ 57 = 64 ∧ (a.core 256).almS ≤ 16 ∧
    (a.runOf 256 = some run0 ∧ ∀ j, j < 64 → pageLeased run0.lease (0x1FC0 + j) .read = true) ∧
    a.lockHomes 256 (.virt (a.partOf 256)) 0x1FC0 64 ≠ [] ∧ (a.core 256).almBase + (1 + 1) * 64 ≤ (a.core 256).scr ∧
    goes (exec (.cpycan 5 0) s) (fun t => (t.core 256).copy? 7 == some { copyAt .starting with phase := .ending, code := 0x81 } &&
      t.agenda == [.copyStatusWrite 256 7]) = true ∧
    goes (exec (.cpycan 6 0) s) (fun t => t == s.retire .on) = true ∧
    goes (exec (.alfill 5 6 7 0) a) (fun t => ((t.core 256).copies.map fun y => (y.kind, y.geo)) == [(.alfill 1, [2 ^ 63 + 0x1FC0, 0x440])] &&
      (t.core 256).almanac == [(1, { tag := 0x7F, filling := some 0 })] && t.agenda.length == 1 && t.me.pc == a.me.pc + 4) = true := by
  decide +kernel

/-! ### Tiles -/

/-- The 64 bytes of a map record. -/
def recordNat (base rstride cstride roff coff rows cols fmt sbase ibase : Nat) : Nat :=
  base + 2 ^ 64 * (rstride + 2 ^ 64 * (cstride + 2 ^ 64 * (roff + 2 ^ 32 * (coff + 2 ^ 32 * (rows + 2 ^ 16 * (cols + 2 ^ 16 * (fmt + 2 ^ 32 *
    (sbase + 2 ^ 128 * ibase))))))))

/-- Memory entries of a number's bytes that are not zero, at an offset of the own scratchpad. -/
def padNat (off n x : Nat) : List Host.Cell :=
  ((List.range n).filter fun i => x / 2 ^ (8 * i) % 256 ≠ 0).map fun i => ⟨padKey 256 (off + i), BitVec.ofNat 8 (x / 2 ^ (8 * i))⟩

/-- A node of strand 0. -/
def nodeOf (kind : NodeKind) (fmt : Nat) (state : NodeState) (sources : List Source) : Node :=
  { kind, owner := 0, age := 1, pc := 2 ^ 63 + 0x1000, state, sources, map := MapRec.ofNat 0, rowMask := 0, colMask := 0, depth := 0, scale := 0,
    mask := 0, fmt, rmat := 0, cmat := 0, bank := none, slot := none, lock := none, fault := none, inPlace := false }

/-- Three nodes: a view and a weight tile of D16, and a pending sum, named by m1, m2 and m3. -/
def demoTiles (t : Strand) : State :=
  demoCore (((t.setHandle 1 (.node 0)).setHandle 2 (.node 1)).setHandle 3 (.node 2)) fun k => { k with
    advq := 4, nextAge := 9
    nodes := [(0, nodeOf .view 0x20 .pending []), (1, nodeOf .twload 0x28 .done []), (2, nodeOf .tadd 0x11 .pending [.node 0, .node 0])] }

/-- TileAppendsAndSources: the strand one below its quota, with operands of each kind and the lowest free entry. -/
theorem witness_appends : let s := demoTiles (regs [(6, 0x3F800000), (7, 0x11), (29, 2 ^ 32 - 1), (30, 1), (31, 2 ^ 32 - 1)] running)
    s.Free ∧ ((s.core 256).heldNodes 0).length = 3 ∧ (s.core 256).quota 0 = 4 ∧ (s.core 256).freeNode = some 3 ∧ s.me.handle 0 = .empty ∧
    (s.operandOf 3).plain = some (.node 2, 0x11) ∧ (s.operandOf 1).plain = some (.node 0, 0x11) ∧ (s.operandOf 1).left = some (.node 0, 0x20) ∧
    (s.operandOf 2).right = some (.node 1, 0x20) ∧ mmaCode 0x20 = true ∧ tileCode 0x11 = true ∧ s.operandOf 3 = .tile (.node 2) 0x11 ∧
    goes (exec (.tadd 0 3 1 0) s) (fun t => ((t.core 256).node? 3).map (fun v => (v.kind, v.sources, v.age, v.state)) ==
      some (.tadd, [.node 2, .node 0], 9, .pending) && t.me.handle 0 == .node 3 && t.me.pc == s.me.pc + 4) = true ∧
    goes (exec (.tscale 0 1 6 0) s) (fun t => ((t.core 256).node? 3).map (fun v => (v.kind, v.scale)) == some (.tscale, 0x3F800000)) = true ∧
    goes (exec (.tcvt 0 1 7 0) s) (fun t => ((t.core 256).node? 3).map (fun v => (v.kind, v.fmt)) == some (.tcvt, 0x11)) = true ∧
    goes (exec (.tmma 0 1 2 29 false 0) s) (fun t => ((t.core 256).node? 3).map (fun v => (v.kind, v.sources, v.rowMask, v.colMask)) ==
      some (.tmma false, [.node 0, .node 1], BitVec.allOnes 32, 1)) = true ∧
    goes (exec (.tmma 3 1 2 29 true 0) s) (fun t => ((t.core 256).node? 3).map (fun v => (v.kind, v.sources, v.inPlace)) ==
      some (.tmma true, [.node 0, .node 1, .node 2], true) && t.me.handle 3 == .node 3) = true :=
  ⟨free_of (by decide +kernel), by decide +kernel⟩

/-- A binary32 record of 32 by 32 elements that ends at the scratchpad's end, and one of a weight tile of one block. -/
def viewRecord : Nat := recordNat 0x7000 128 4 0 0 32 32 0x11 0 0
def weightRecord : Nat := recordNat 0x7FB0 0 68 0 0 32 1 0x29 0x7F80 0x7F84

/-- TileAppendsAndSources: both records pass their checks, with bounding ranges in the own scratchpad. -/
theorem witness_sources : let s := { demo (regs [(6, 0x100), (7, 0x140)] running) with mem := padNat 0x100 64 viewRecord ++ padNat 0x140 64 weightRecord }
    let v := MapRec.ofNat (s.load (s.ownKey 0x100) 64)
    let w := MapRec.ofNat (s.load (s.ownKey 0x140) 64)
    s.Free ∧ s.Own (s.me.greg 6) 64 ∧ s.Own (s.me.greg 7) 64 ∧ ((s.core 256).heldNodes 0).length < (s.core 256).quota 0 ∧
    (s.core 256).freeNode = some 0 ∧ s.me.handle 0 = .empty ∧
    v.viewChecks 0x100 false = none ∧ v.span = some ⟨0x7000, 0x8000⟩ ∧ (match s.rangeCheck 256 0 ⟨0x7000, 0x8000⟩ .read with
      | .ok p => p == (.pad 256, 0x7000, 0x1000)
      | .error _ => false) = true ∧
    w.weightChecks 0x140 = none ∧ w.weightSpan = some ⟨0x7F80, 0x7FF4⟩ ∧ (match s.rangeCheck 256 0 ⟨0x7F80, 0x7FF4⟩ .read with
      | .ok p => p == (.pad 256, 0x7F80, 0x74)
      | .error _ => false) = true ∧
    goes (exec (.tview 0 6 0) s) (fun t => ((t.core 256).node? 0).map (fun n => (n.kind, n.fmt, n.lock)) == some (.view, 0x11, some 0) &&
      ((t.core 256).locks.map fun e => (e.base, e.len)) == [(0x7000, 0x1000)] && t.me == ((s.modMe fun t => t.setHandle 0 (.node 0)).retire .on).me) = true ∧
    goes (exec (.twload 0 7 0) s) (fun t => ((t.core 256).node? 0).map (fun n => (n.kind, n.fmt)) == some (.twload, 0x29)) = true :=
  ⟨free_of (by decide +kernel), own_of (by decide +kernel), own_of (by decide +kernel), by decide +kernel⟩

/-- The base state with a VALUE of one element in bank 2 named by m4, and a view of that element at 0x7000. -/
def demoValue (t : Strand) : State :=
  { demo (t.setHandle 4 (.value 2 0x11 1 1 3 77)) with
    mem := padNat 0x100 64 (recordNat 0x7000 4 4 0 0 1 1 0x11 0 0)
    clusters := [(64, { Cluster.reset with
      banks := Cluster.reset.banks.set! 2 { data := 0x40490FDB, scales := 0, tag := some { ctx := 0, core := 0, strand := 0 } } })] }

/-- TileUses: a store of a VALUE whose bank carries the strand's tag, and what it writes; queries and drops. -/
theorem witness_tileUses : let s := demoValue (regs [(6, 0x100), (7, 2 ^ 32 + 1)] running)
    let r := MapRec.ofNat (s.load (s.ownKey 0x100) 64)
    let reg := r.storeRegion ⟨1, 1⟩
    s.Free ∧ s.Own (s.me.greg 6) 64 ∧ s.Unlocked ∧ s.me.handle 4 = .value 2 0x11 1 1 3 77 ∧ r.viewChecks 0x100 true = none ∧
    r.span = some ⟨0x7000, 0x7004⟩ ∧ (match s.rangeCheck 256 0 ⟨0x7000, 0x7004⟩ .write with
      | .ok _ => true
      | .error _ => false) = true ∧
    ((s.cluster (clusterOf 256)).bank 2).tag = some { ctx := (s.core 256).pctx.toNat, core := 256 % 4, strand := s.cn } ∧
    (match State.sourceGrid 256 (.value 2 0x11 1 1) (bitsOf reg.cols) (bitsOf reg.rows) s with
      | .ok (grid, t) => t == s && (r.writes reg fun i j => gridAt grid i j) == [(0x7000, 4, fullMask 4, 0x40490FDB)]
      | .error _ => false) = true ∧
    goes (exec (.tstore 4 6 7 0) s) (fun t => t.load (padKey 256 0x7000) 4 == 0x40490FDB && t.me == (s.retire .on).me) = true ∧
    goes (exec (.tforce 4 6 0) s) (fun t => t == s.retire .on) = true ∧ goes (exec (.tdrop 4 0) s) (fun t => t.me.handle 4 == .empty) = true ∧
    goes (exec (.tquery 4 6 0) s) (fun t => (t.me.greg 6).toNat == 4 * 2 ^ 60 + 0x11 * 2 ^ 52 + 0x7F * 2 ^ 45 + 2 ^ 44 + 2 * 2 ^ 41 + 3 * 2 ^ 28) = true ∧
    goes (exec (.tquery 5 6 0) s) (fun t => (t.me.greg 6).toNat == 0x7F * 2 ^ 45) = true :=
  ⟨free_of (by decide +kernel), own_of (by decide +kernel), ⟨by decide +kernel, by decide +kernel⟩, by decide +kernel⟩

/-- LongAccumulatorsAndAlmanac: NaN and infinite addends, and products that are. -/
theorem witness_longAccSpecial : let s (b d : Nat) : State := demo (regs [(6, 0x7FA8), (7, b), (5, d)] running)
    let st (o : Out) : Option Nat := next o fun t => (t.accStep 256 0 true).load (padKey 256 0x7FF8) 8
    binary32.value 0x7FC00000 = .nan ∧ binary32.value 0xFF800000 = .inf true ∧
    ((binary32.value 0x7F800000).mul (binary32.value 0)).1 = .nan ∧ ((binary32.value 0x7F800000).mul (binary32.value 0xBF800000)).1 = .inf true ∧
    st (exec (.laadd 6 7 0) (s 0x7FC00000 0)) = some 1 ∧ st (exec (.laadd 6 7 0) (s 0x7F800000 0)) = some 2 ∧
    st (exec (.laadd 6 7 0) (s 0xFF800000 0)) = some 4 ∧ st (exec (.laaddp 6 7 5 0) (s 0x7F800000 0)) = some 1 ∧
    st (exec (.laaddp 6 7 5 0) (s 0x7F800000 0x3F800000)) = some 2 ∧ st (exec (.laaddp 6 7 5 0) (s 0x7F800000 0xBF800000)) = some 4 := by
  decide +kernel

/-- TileUses: a force of a PENDING sum of two VALUES, of a sum of two views with a chain of one node, and the word of a node. -/
theorem witness_tforce : let v := nodeOf .tadd 0x11 .pending [.value 0 0x11 32 32, .value 1 0x11 32 32]
    let s := demoCore ((regs [(6, 2 ^ 32 + 1), (7, 0)] running).setHandle 3 (.node 2)) fun k => { k with nodes := [(2, v)] }
    let u := demoTiles (regs [(6, 2 ^ 32 + 1)] running)
    let f := s.modCore 256 fun k => { k with nodes := [(2, { v with state := .faulted, fault := some (.adventFault, 9), bank := some 5 })] }
    s.Free ∧ u.Free ∧ s.me.handle 3 = .node 2 ∧ (s.core 256).nodes = [(2, v)] ∧ (v.fresh ⟨1, 1⟩).rows ≠ 0 ∧
    ((u.core 256).plan (addDemand [] 2 ⟨1, 1⟩)).isEmpty = false ∧
    goes (exec (.tforce 3 6 0) s) (fun t => t.me.phase? == some (.demand [{ node := 2, rows := 1, cols := 1 }] none none) &&
      ((t.core 256).node? 2).map Node.state == some .demanded) = true ∧
    goes (exec (.tforce 3 6 0) u) (fun t => t.me.phase?.isSome && t.agenda == [.operandFetchComplete 256 0] &&
      ((t.core 256).node? 2).map Node.state == some .demanded) = true ∧
    goes (exec (.tquery 3 7 0) s) (fun t => (t.me.greg 7).toNat == v.state.code * 2 ^ 60 + 0x11 * 2 ^ 52 + 2 * 2 ^ 45 + v.kind.code * 2 ^ 28) = true ∧
    goes (exec (.tquery 3 7 0) f) (fun t => (t.me.greg 7).toNat % 2 ^ 28 == causeCode .adventFault * 2 ^ 16) = true :=
  ⟨free_of (by decide +kernel), free_of (by decide +kernel), by decide +kernel⟩

/-- TileUses: a force and a query of nodes in the table; the weight tile is DONE. -/
theorem witness_tileNodes : let s := demoTiles (regs [(6, 1)] running)
    s.Free ∧ s.me.handle 1 = .node 0 ∧ (s.core 256).node? 0 = some (nodeOf .view 0x20 .pending []) ∧ s.me.handle 2 = .node 1 ∧
    (s.core 256).node? 1 = some (nodeOf .twload 0x28 .done []) ∧ (∀ e ∈ (s.core 256).nodes, e.1 = 1 → e.2 = nodeOf .twload 0x28 .done []) ∧
    (s.me.greg 6).toNat % 4 ≠ 0 ∧ goes (exec (.tforce 1 6 0) s) (fun t => t == s.retire .on) = true ∧
    goes (exec (.tforce 2 6 0) s) (fun t => t == s.retire .on) = true ∧ goes (exec (.tquery 3 6 0) s) (fun t => t.me.greg 6 == 0) = true :=
  ⟨free_of (by decide +kernel), by decide +kernel⟩

/-! ### Traps, system registers and privileged instructions -/

/-- R272, R287, R290, R293, R309: entry of `scall`, a privileged instruction in user mode, a steward's instruction on strand 1,
and a trap with TIN set. -/
theorem test_traps : (let s := demo { running with status := 8, tcause := 3 }
    let u := { demoCore running fun k => k.setStrand 1 running with cur := (256, 1), ir := 0xE0000002 }
    let f := { demo { running with status := 0x80, tcause := 3 } with ir := 0x5 }
    goes (exec .scall s) (fun t => (t.me.tcause, t.me.tpc, t.me.tval, t.me.pc) == (0x0F, 2 ^ 63 + 0x1004, 0, 2 ^ 63 + 0x1800) &&
      (t.me.tstatus, t.me.mode, t.me.tin, t.me.ie, t.me.qmap) == (8, 1, true, false, false)) = true ∧
    goes (exec .brk (demo running)) (fun t => t.me.tcause == 0x10) = true ∧
    goes (exec .rett { demo running with ir := 0xE0000001 }) (fun t => (t.me.tcause, t.me.tval, t.me.tpc) == (2, 0xE0000001, 2 ^ 63 + 0x1000)) = true ∧
    goes (exec .halt u) (fun t => (t.me.tcause, t.me.tval) == (0x11, 0xE0000002)) = true ∧
    goes (exec (.unassignedEncoding 5) f) (fun t => t.me.life == .faulted && t.me.tcause == 3 && (t.reports.map fun r => (r.kind, r.cause, r.syndrome)) ==
      [(7, 1, 3)]) = true) := by
  decide +kernel

/-- SoftwareAndPrivilegeTraps: TIN clear in user mode, a strand that is not the steward, and TIN set. -/
theorem witness_traps : let s := demo running
    let u := { demoCore running fun k => k.setStrand 15 running with cur := (256, 15) }
    let f := demo { running with status := 0x80, tcause := 0x8000000000000003 }
    s.Free ∧ s.me.tin = false ∧ s.me.mode < 1 ∧ u.Free ∧ u.me.tin = false ∧ u.cur.2 % 16 ≠ 0 ∧ f.Free ∧ f.me.tin = true :=
  ⟨free_of (by decide +kernel), by decide +kernel, by decide +kernel, free_of (by decide +kernel), by decide +kernel, by decide +kernel,
    free_of (by decide +kernel), by decide +kernel⟩

/-- R288, ReturnWaitAndHalt: a return to user mode with a skip; a wait with and without an enabled interrupt; the halt of a
steward alone in its core. -/
theorem witness_return : let r := demo { running with status := 0x81, tpc := 2 ^ 63 + 0x1040, tstatus := 0x128, tshadow := 3, tls0 := 5, tle0 := 6, tlc0 := 7 }
    let w := demo { running with status := 1 }
    let i := demo { running with status := 0x1001, tcmp := 0 }
    let h := demo (regs [(5, 9)] { running with m := running.m.set! 3 (.value 0 0 0 0 0 0) })
    1 ≤ r.me.mode ∧ 1 ≤ w.me.mode ∧ (w.core 256).enabled 0 = 0 ∧ 1 ≤ i.me.mode ∧ h.Free ∧ h.me.outst = none ∧ h.cur.2 % 16 = 0 ∧
    (∀ n, n < 16 → n ≠ 0 → (h.strand 256 n).life = .dormant) ∧ h.me.acks = 0 ∧ (h.core 256).deque.hw = [] ∧ (h.core 256).deque.overN = 0 ∧
    (h.core 256).deque.reserved = 0 ∧ (h.core 256).deque.leaving = 0 ∧
    goes (exec .rett r) (fun t => (t.me.pc, t.me.skip, t.me.mode, t.me.tin, t.me.ie, t.me.qmap) == (2 ^ 63 + 0x1040, 3, 0, false, true, true) &&
      t.me.level0 == { start := 5, stop := 6, count := 7, active := true }) = true ∧
    goes (exec .wfi w) (fun t => t.me.life == .waiting && t.me.pc == w.me.pc + 4) = true ∧
    goes (exec .wfi i) (fun t => t.me.life == .running) = ((i.core 256).enabled 0 != 0) ∧ (i.core 256).enabled 0 ≠ 0 ∧
    goes (exec .halt h) (fun t => t.me.life == .dormant && (t.core 256).retired && t.me.handle 3 == .empty && t.agenda.getLast? ==
      some (.completionRelease 256) && t.me.greg 5 == 9) = true := by
  refine ⟨by decide +kernel, by decide +kernel, by decide +kernel, by decide +kernel, free_of (by decide +kernel), ?_⟩
  decide +kernel

/-- SystemRegisters: reads and writes of each kind by the steward in the modes they need, at the bounds of the quota sum. -/
theorem witness_sysRegs : let s := demoCore (regs [(6, 2 ^ 64 - 1), (7, 96)] { running with status := 1 }) fun k =>
      { k with advqh := 0, hostmsg := [7, 8], calends := 99 }
    let m := demo (regs [(6, 0xABC01)] { running with status := 3 })
    s.Free ∧ 1 ≤ s.me.mode ∧ s.cur.2 % 16 = 0 ∧ quotasOk 96 (s.core 256).advqh = true ∧ quotasOk 97 (s.core 256).advqh = false ∧ m.Free ∧ m.me.mode = 3 ∧
    goes (exec (.srr 5 0x002) s) (fun t => t == s.wrote 5 99) = true ∧ goes (exec (.srr 5 0x112) s) (fun t => t.me.greg 5 == 7 && (t.core 256).hostmsg == [8]) = true ∧
    goes (exec (.srr 5 0x009) s) (fun t => t.me.greg 5 == 0x8000) = true ∧ goes (exec (.srr 5 0x120) s) (fun t => t.me.greg 5 == 0xFEDCBA9876543210) = true ∧
    goes (exec (.srr 5 0x00B) s) (fun t => t.me.tcause == 1) = true ∧ goes (exec (.srr 5 0x301) s) (fun t => t.me.tcause == 2) = true ∧
    goes (exec (.srr 5 0x102) (demo running)) (fun t => t.me.tcause == 2) = true ∧
    goes (exec (.srw 0x000 6) s) (fun t => t.me.fctl == 0x1F) = true ∧ goes (exec (.srw 0x107 6) s) (fun t => (t.core 256).tvec == 2 ^ 64 - 4) = true ∧
    goes (exec (.srw 0x122 7) s) (fun t => (t.core 256).advq == 96) = true ∧
    goes (exec (.srw 0x122 6) s) (fun t => t.me.tcause == 4 && t.me.tval == 2 ^ 64 - 1) = true ∧
    goes (exec (.srx 5 0x108 6) s) (fun t => t.me.greg 5 == 0 && t.me.scratch == 2 ^ 64 - 1) = true ∧
    goes (exec (.srw 0x002 6) s) (fun t => t == s.retire .on) = true ∧ goes (exec (.srw 0x301 6) m) (fun t => (t.core 256).pctx == 0xBC01) = true ∧
    goes (exec (.srw 0x100 6) s) (fun t => t.me.status == 0xF199) = true := by
  refine ⟨free_of (by decide +kernel), by decide +kernel, by decide +kernel, by decide +kernel, by decide +kernel, free_of (by decide +kernel), ?_⟩
  decide +kernel

/-- StrandControl: `start` of a dormant strand and of a running one, `reap` of each, and a slot table. -/
theorem witness_strands : let s := demoCore (regs [(6, 15), (7, 2 ^ 63 + 0x1103)] { running with status := 1 }) fun k =>
      (k.setStrand 3 { running with m := running.m.set! 3 (.value 0 0 0 0 0 0) })
    let u := s.modMe (fun t => t.setGreg 6 3)
    s.Free ∧ s.cur.2 % 16 = 0 ∧ s.me.acks = 0 ∧ (s.strand 256 15).life = .dormant ∧ (u.strand 256 3).life ≠ .dormant ∧ u.Free ∧
    (u.strand 256 3).outst = none ∧ (u.strand 256 3).acks = 0 ∧ (u.core 256).copies = [] ∧ 1 ≤ s.me.mode ∧ slotsValid 0xFEDCBA9876543210 0xFFFF = true ∧
    goes (exec (.startS 6 7) s) (fun t => t.strand 256 15 == { Strand.reset with pc := 2 ^ 63 + 0x1100, life := .running, status := 8, startAt := (s.core 256).ticks + 8 }) = true ∧
    goes (exec (.startS 6 7) u) (fun t => t == u.retire .on) = true ∧ goes (exec (.reap 6) s) (fun t => t == s.retire .on) = true ∧
    goes (exec (.reap 6) u) (fun t => (t.strand 256 3).life == .dormant && (t.strand 256 3).handle 3 == .empty && t.me == (u.retire .on).me) = true ∧
    goes (exec (.slotw 6 7) (s.modMe fun t => (t.setGreg 6 0xFEDCBA9876543210).setGreg 7 0xFFFF)) (fun t =>
      (t.core 256).pendingSlots == [{ slots := 0xFEDCBA9876543210, sloten := 0xFFFF, since := 0 }]) = true := by
  refine ⟨free_of (by decide +kernel), by decide +kernel, by decide +kernel, by decide +kernel, by decide +kernel, free_of (by decide +kernel), ?_⟩
  decide +kernel

/-- StrandControl: a `reap` under way, whose target has come to owe nothing; its register has another value by now. -/
theorem witness_reapUnderWay : let s := (demoCore (regs [(6, 5)] { running with stall := some { pc := 2 ^ 63 + 0x1000, since := 0, why := .reap 3 } })
      fun k => k.setStrand 3 { running with reaping := true })
    s.Free ∧ s.cur.2 % 16 = 0 ∧ s.me.stall = some { pc := s.me.pc, since := 0, why := .reap 3 } ∧ (s.strand 256 3).outst = none ∧
    (s.strand 256 3).acks = 0 ∧ (s.core 256).copies = [] ∧
    goes (exec (.reap 6) s) (fun t => (t.strand 256 3).life == .dormant && !(t.strand 256 3).reaping && t.me == (s.retire .on).me) = true :=
  ⟨free_of (by decide +kernel), by decide +kernel⟩

/-- BanksAndMonitor: a bank's image in the last 4,224 bytes of the scratchpad. -/
def demoBank : State :=
  { demo (regs [(6, 0x8000 - 4224)] { running with status := 1 }) with
    clusters := [(64, { Cluster.reset with
      banks := Cluster.reset.banks.set! 7 { data := 0x123456789, scales := 5, tag := some { ctx := 9, core := 2, strand := 3 } } })] }

theorem own_demoBank : ∀ i, i < 528 → demoBank.Own (demoBank.me.greg 6 + BitVec.ofNat 64 (8 * i)) 8 := by
  have h : ∀ a, a < 24 → ∀ b, b < 22 → own demoBank (demoBank.me.greg 6 + BitVec.ofNat 64 (8 * (22 * a + b))) 8 = true := by decide +kernel
  intro i hi
  have := h (i / 22) (by omega) (i % 22) (by omega)
  rw [show 22 * (i / 22) + i % 22 = i from by omega] at this
  exact own_of this

theorem witness_banks : demoBank.Free ∧ Memory.wf demoBank.mem = true ∧ 1 ≤ demoBank.me.mode ∧ (demoBank.me.greg 6).toNat % 128 = 0 ∧
    (demoBank.me.greg 6).toNat + 4224 ≤ (demoBank.core 256).scr ∧ (demoBank.core 256).scr ≤ 2 ^ 19 ∧ demoBank.bankBusy 256 7 = false ∧
    ((demoBank.cluster 64).bank 0).tag = none ∧ clusterOf 256 = 64 ∧
    goes (exec (.accspill 7 6) demoBank) (fun _ => true) = true ∧
    goes (exec (.accfill 0 6) demoBank) (fun t => ((t.cluster 64).bank 0) == Bank.reset && t.me == (demoBank.retire .on).me) = true :=
  ⟨free_of (by decide +kernel), by decide +kernel⟩

/-- BanksAndMonitor: the monitor instructions in machine mode; a key in the last 64 bytes, a group image of one member. -/
theorem witness_monitor : let s := { demo (regs [(6, 0x7FC0), (7, 0x3F), (8, 0x100), (9, 0xFF), (10, 0x001)] { running with status := 3 }) with
      mem := padNat 0x100 16 (1 + 6 * 2 ^ 16) ++ padMem 0x7FC0 [1, 2] }
    let im := s.groupImage (padKey 256 0x100)
    s.Free ∧ Memory.wf s.mem = true ∧ s.me.mode = 3 ∧ s.Own (s.me.greg 6) 64 ∧ (s.me.greg 6).toNat + 64 ≤ (s.core 256).scr ∧ (s.core 256).scr ≤ 2 ^ 19 ∧
    (s.keySlot 0x3F).key = none ∧ s.quietTo 256 0xFF = true ∧ s.Own (s.me.greg 8) 8 ∧ im = { count := 1, wait := 6, zeros := 0, members := [0] } ∧
    s.groupTrap ⟨0, 0xFF⟩ im = none ∧ (linesOf (padKey 256 0x100) (8 + 2 * im.count)).findSome? s.poisoned? = none ∧
    (match s.ownBytes (s.me.greg 8) (8 + 2 * im.count) 8 false with
      | .at_ _ _ => true
      | _ => false) = true ∧
    s.partition? (s.partOf 256) = some part0 ∧ part0.site? 0 = some 1 ∧ s.groupMembers 0 im = some [256] ∧
    goes (exec (.kslotw 7 6) s) (fun t => t.keySlot 0x3F == { key := some (0, 0x201), gen := 0 } && t.load (padKey 256 0x7FC0) 64 == 0) = true ∧
    goes (exec (.kslotclr 7) s) (fun t => t.keySlot 0x3F == { key := none, gen := 1 }) = true ∧
    goes (exec (.nselw 9 10) s) (fun t => t.nsel == [(256, 0xFF, true)]) = true ∧
    goes (exec (.grpw 9 8) s) (fun t => (t.group? ⟨0, 0xFF⟩).map (fun g => (g.members, g.run)) == some ([256], some 0)) = true ∧
    goes (exec (.blkfence 10) s) (fun _ => true) = true := by
  refine ⟨free_of (by decide +kernel), by decide +kernel, by decide +kernel, own_of (by decide +kernel), by decide +kernel, by decide +kernel, by decide +kernel, by decide +kernel, own_of (by decide +kernel), ?_⟩
  decide +kernel

/-- BanksAndMonitor: an image that clears the entry; a misaligned address, an image that runs past S, too many members, a wait out of
range, bytes that are not zero, a member outside the partition, one listed twice, and an entry that a run holds. -/
theorem witness_grpw : let at_ (a image : Nat) (gs : List Group) : State :=
      { demo (regs [(6, a), (7, 0xFF)] { running with status := 3 }) with mem := padNat (a / 8 * 8) 16 image, groups := gs }
    let ok (s : State) : Bool := free s && s.me.mode == 3 && !s.me.tin && Memory.wf s.mem
    let clear := at_ 0x100 0 [{ group255 with run := none }]
    ([(at_ 0x101 0 [], 3), (at_ 0x7FF8 1 [], 4), (at_ 0x100 4097 [], 4), (at_ 0x100 (1 + 5 * 2 ^ 16) [], 4),
      (at_ 0x100 (1 + 6 * 2 ^ 16 + 2 ^ 24) [], 4), (at_ 0x100 (1 + 6 * 2 ^ 16 + 2 ^ 64 * 0x100) [], 5), (at_ 0x100 (2 + 6 * 2 ^ 16) [], 4),
      (at_ 0x100 (1 + 6 * 2 ^ 16) [group255], 4)] : List (State × Nat)).all (fun e => ok e.1 &&
        (e.1.me.greg 6 != 0x100 || (match e.1.ownBytes (e.1.me.greg 6) (8 + 2 * (e.1.groupImage (padKey 256 0x100)).count) 8 false with
          | .at_ _ _ => own e.1 0x100 8
          | _ => false)) &&
        goes (exec (.grpw 7 6) e.1) fun t => t.me.tcause.toNat == e.2 && t.me.tval == e.1.me.greg 6 && t.groups == e.1.groups) = true ∧
    own (at_ 0x7FF8 1 []) 0x7FF8 8 = true ∧ (at_ 0x100 (1 + 6 * 2 ^ 16) [group255]).groupHeld ⟨0, 255⟩ = true ∧
    (ok clear && own clear 0x100 8 && (clear.groupTrap ⟨0, 255⟩ (clear.groupImage (padKey 256 0x100))).isNone &&
      (match clear.ownBytes 0x100 8 8 false with
        | .at_ _ _ => true
        | _ => false) && goes (exec (.grpw 7 6) clear) fun t => t.groups == []) = true := by
  decide +kernel

/-! ### Witnesses: events of a core -/

/-- An outstanding instruction in a phase, issued at tick 0. -/
def outAt (p : Phase) : Outst :=
  { word := 0x12345678, pc := 2 ^ 63 + 0x1000, la := 0, retired := 0, since := 0, err := none, pops := [], cleaning := none, record := none, scalars := [], order := 0,
    phase := p }

/-- A strand that waits in a phase, its PC behind the instruction. -/
def waits (p : Phase) (t : Strand) : Strand := { t with pc := 2 ^ 63 + 0x1004, outst := some (outAt p) }

/-- CoreEvents: quotas at their bound; an enabled doorbell; a wait that ends by it or by the timer; a deferred refusal; the two ends of
an outstanding instruction; a staged slot table at a rotation. -/
theorem witness_coreEvents : let i := demo { running with status := 0x4100, dbsrc := 2 }
    let w := demo { running with status := 0x4000, dbsrc := 2, life := .waiting, tcmp := 0 }
    let r := demo { running with refusals := [⟨2 ^ 63 + 0x1900, 2 ^ 63 + 0x1010⟩, ⟨5, 6⟩] }
    let d := demo (waits (.done none) running)
    let j := demo (waits (.done (some (2 ^ 63 + 0x1080, true))) running)
    let table (n since : Nat) : SlotTable := { slots := BitVec.ofNat 64 n, sloten := 3, since }
    let p := demoCore running fun k => { k with pendingSlots := [table 6 0, table 7 1, table 8 2], calends := 32, ticks := 9 }
    let ready (s : State) : Prop := (s.strand 256 0).outst = none ∧ (s.strand 256 0).tin = false ∧ (s.strand 256 0).popped = [] ∧
      (s.strand 256 0).stall = none ∧ (s.strand 256 0).rerun = false
    quotasOk 0 (BitVec.ofNat 64 (96 * 2 ^ 56)) = true ∧ (i.core 256).interrupt? 0 = some 2 ∧ (i.strand 256 0).life = .running ∧
    (i.strand 256 0).ie = true ∧ ready i ∧ (i.strand 256 0).refusals = [] ∧ (w.strand 256 0).life = .waiting ∧
    (w.core 256).enabled 0 ≠ 0 ∧ (w.strand 256 0).tcmp.toNat ≤ (w.core 256).calends.toNat ∧ (r.strand 256 0).life = .running ∧ ready r ∧ quotasOk (BitVec.ofNat 64 (96 * 2 ^ 56)) 0 = true ∧
    (d.strand 256 0).outst = some (outAt (.done none)) ∧ (d.strand 256 0).refusals = [] ∧
    (j.strand 256 0).outst = some (outAt (.done (some (2 ^ 63 + 0x1080, true)))) ∧ (j.strand 256 0).refusals = [] ∧ (p.core 256).pendingSlots = [table 6 0] ++ table 7 1 :: [table 8 2] ∧ (p.core 256).calends.toNat % 16 = 0 ∧
    goes (exec (.interruptEntry 256 0) i) (fun t => (t.me.tcause, t.me.tpc, t.me.pc) == (2 ^ 63 + 2, 2 ^ 63 + 0x1000, 2 ^ 63 + 0x1800)) = true ∧
    goes (exec (.wfiWake 256 0) w) (fun t => t.me.life == .running) = true ∧ goes (exec (.timerExpiry 256 0) w) (fun t => t.me.life == .running) = true ∧
    goes (exec (.deferredTrap 256 0) r) (fun t => (t.me.tcause, t.me.tval, t.me.tattr, t.me.refusals.length) == (7, 2 ^ 63 + 0x1900, 2 ^ 63 + 0x1010, 1)) = true ∧
    goes (exec (.longLatencyComplete 256 0) d) (fun t => t.me.outst == none && t.me.pc == 2 ^ 63 + 0x1004) = true ∧
    goes (exec (.longLatencyComplete 256 0) j) (fun t => t.me.pc == 2 ^ 63 + 0x1080) = true ∧
    goes (exec (.slotTableSwitch 256) p) (fun t => ((t.core 256).slots, (t.core 256).sloten, (t.core 256).pendingSlots) == (7, 3, [table 8 2])) = true ∧
    (let early := demoCore running fun k => { k with pendingSlots := [table 6 0], calends := 16, ticks := 7 }
     (early.core 256).ticks < 0 + 8 ∧ goes (exec (.slotTableSwitch 256) early) (fun t => t == early) = true) ∧
    goes (exec (.doorbellWrite 256 3) i) (fun t => t.me.dbsrc == 10) = true ∧ goes (exec (.tcmpWrite 256 0 9) i) (fun t => t.me.tcmp == 9) = true ∧
    goes (exec (.fctlWrite 256 0 0xFF) i) (fun t => t.me.fctl == 0x1F) = true ∧ goes (exec (.ipendWrite 256 0 (2 ^ 17)) i) (fun t => t.me.dbsrc == 0) = true := by
  decide +kernel

/-- A core whose tick count is at a limit. -/
def timed (n : Nat) (t : Strand) (f : Core → Core) : State := demoCore t fun k => f { k with ticks := n }

/-- What a timeout leaves: the cause and TVAL of the trap to come. -/
def errOf (t : State) : Option (Cause × Word) := (t.strand 256 0).outst.bind Outst.err

/-- Timeouts: every wait at the cc at which its limit is reached. -/
theorem witness_timeouts : let y := timed 4096 (waits .yield running) id
    let v := timed 64 (waits (.vigil 0 5 2 6) running) id
    let q := timed 4096 (waits (.push 25 7 0) { running with status := 8 }) fun k =>
      { k with queues := k.queues.set! 1 { entries := List.replicate 16 3, head := 2 } }
    let r := timed 4096 (waits (.register [] [(3, .pad 257)] (2 ^ 61 + 0x40) none none) running) id
    let d := timed 64 (waits (.daybar 1 true) running) fun k => { k with rings := [(1, ring1 2 2 1)] }
    (errOf y = none ∧ goes (exec (.yieldTimeout 256 0) y) (fun t => t.me.phase? == some (.done none)) = true) ∧
    ((v.core 256).vigilHolds 0 2 = false ∧ goes (exec (.vigilTimeout 256 0) v) (fun t => (errOf t).map Prod.fst == some .vigilTimeout) = true) ∧
    (q.fullPort 256 0 25 = true ∧ goes (exec (.queueTimeout 256 0) q) (fun t => (errOf t).map Prod.fst == some .queueTimeout) = true) ∧
    goes (exec (.registrationRetryTimeout 256 0) r) (fun t => errOf t == some (.rangeLocked, 2 ^ 61 + 0x40)) = true ∧
    ((d.core 256).ring? 1 = some (ring1 2 2 1) ∧ goes (exec (.dayBarrierTimeout 256 0) d) (fun t => errOf t ==
      some (.vigilTimeout, BitVec.ofNat 64 (2 ^ 62 + 2 ^ 61 + 2 ^ 32 + 5 * 2 ^ 16 + 2 * 256 + 2)) && ((t.core 256).ring? 1).map Ring.drainArr == some 0) = true) := by
  decide +kernel

/-- A group's wait of core 256 whose arrival or contribution, if any, has left the core. -/
def groupWait (red : Bool) (p : Phase) : State :=
  { timed 64 (waits p running) fun k => { k with arrivals := [{ idx := 255, reduction := red, arriver := .strand 0, sent := true, withdrawn := false }] } with groups := [group255] }

/-- Timeouts of groups, and of waits before issue. -/
theorem witness_groupTimeouts : let b := groupWait false (.barrier ⟨0, 255⟩ true)
    let r := groupWait true (.reduce ⟨0, 255⟩ 5 .add 1 true)
    let s := groupWait false (.bcastSend ⟨0, 255⟩ 3 false (some 0))
    let v := groupWait false (.bcastRecv ⟨0, 255⟩ 5 (some 0) none)
    let stalled (w : StallWhy) : State := timed 4096 { running with stall := some { pc := 2 ^ 63 + 0x1000, since := 0, why := w } } id
    let c := { timed 64 running (fun k => { k with copies := [{ copyAt (.barrier 0) with kind := .cpyh, gb := 0xFF00 }], arrivals :=
      [{ idx := 255, reduction := false, arriver := .copy 7, sent := false, withdrawn := false }] }) with groups := [group255] }
    let gone (s : State) : State := s.modCore 256 fun k => { k with arrivals := k.arrivals.map fun a => { a with withdrawn := true } }
    ([(b, .groupWaitTimeout 256 0), (r, .groupWaitTimeout 256 0), (c, .cpyhBarrierTimeout 256 7)] : List (State × Instr)).all (fun e =>
      goes (exec e.2 (gone e.1)) fun t => t == gone e.1) = true ∧
    (b.group? ⟨0, 255⟩ = some group255 ∧ (b.core 256).arrivalSent 255 false = true ∧ (r.core 256).arrivalSent 255 true = true ∧ goes (exec (.groupWaitTimeout 256 0) b) (fun t => t.agenda == [.barrierWithdrawal ⟨0, 255⟩ 256 false 256]) = true) ∧
    goes (exec (.groupWaitTimeout 256 0) r) (fun t => t.agenda == [.barrierWithdrawal ⟨0, 255⟩ 256 true 256]) = true ∧
    goes (exec (.bcastSendTimeout 256 0) s) (fun t => errOf t == some (.vigilTimeout, 255)) = true ∧
    (lookupD [] 255 (v.core 256).bcast = [] ∧ goes (exec (.bcastRecvTimeout 256 0) v) (fun t => errOf t == some (.vigilTimeout, 255)) = true) ∧
    goes (exec (.queueTimeout 256 0) (stalled (.queue 3 false))) (fun t => t.me.tcause == 8 && t.me.tpc == 2 ^ 63 + 0x1000) = true ∧
    goes (exec (.copyWaitTimeout 256 0) (stalled .channel)) (fun t => t.me.tcause == 7 && t.me.tval == 0) = true ∧
    goes (exec (.copyWaitTimeout 256 0) (stalled .bound)) (fun t => t.me.tcause == 7) = true ∧
    ((c.core 256).copy? 7 ≠ none ∧ goes (exec (.cpyhBarrierTimeout 256 7) c) (fun t => t.agenda == [.barrierWithdrawal ⟨0, 255⟩ 256 false 256]) = true) := by
  decide +kernel

/-- Timeouts: a demand that finds every bank held by nodes of older strands' cores. -/
theorem witness_bankWait : let held : Bank := { data := 0, scales := 0, tag := some { ctx := 0, core := 1, strand := 3 } }
    let s := { timed 4096 (waits (.demand [⟨2, 1, 1⟩] (some ⟨[], []⟩) (some 0)) running) fun k =>
        { k with nodes := [(2, nodeOf .tadd 0x11 .demanded [.value 1 0x11 32 32, .value 1 0x11 32 32])] } with
      clusters := [(64, { Cluster.reset with banks := Vector.replicate 8 held })] }
    s.bindBank 256 = .wait ∧ (s.strand 256 0).outst.map Outst.pops = some [] ∧ (s.core 256).node? 2 ≠ none ∧ (s.strand 256 0).tin = false ∧
    goes (exec (.accBankWaitTimeout 256 0) s) (fun t => (t.me.tcause, t.me.tpc, t.me.tattr) == (0x0C, 2 ^ 63 + 0x1000, 2 ^ 63 + 0x1000) && t.me.outst == none) =
      true := by
  decide +kernel

/-! ### Witnesses: events of homes -/

/-- A request of core 256, strand 0. -/
def reqOf (addr : Nat) (a : Access) : Req := { core := 256, strand := 0, pc := 2 ^ 63 + 0x1000, part := 0, addr, full := 2 ^ 63 + addr, lane := 0, access := a }

/-- HomeEvents: a port's read, write and sum; a range another core registered as a destination. -/
theorem witness_port : let s := demoPad running 0x100 [1, 2, 3, 0x80]
    let q := s.modCore 256 fun k => { k with locks := [{ id := 1, core := 257, strand := 0, kind := .copyDest, place := .pad 256, base := 0x100, len := 4, rows := ⟨0, 0, 0, 0⟩ }] }
    Memory.wf s.mem = true ∧ s.Awake 256 ∧ (s.core 256).locks = [] ∧ (s.core 256).portLocks = [] ∧ s.poisoned? (padKey 256 0x100 / 128) = none ∧
    (0xFF : Nat) < 2 ^ (8 * 1) ∧ q.Awake 256 ∧
    goes (exec (.portRequest 256 (reqOf 0x100 (.read 4 (fullMask 4)))) s) (fun t => t.agenda ==
      [.loadResponse 256 0 (.pad 256) { lane := 0, value := 0x80030201, serial := 0, err := none }]) = true ∧
    goes (exec (.portRequest 256 (reqOf 0x103 (.write 1 (fullMask 1) 0xFF))) s) (fun t => t.load (padKey 256 0x100) 4 == 0xFF030201 &&
      t.agenda == [.postedStoreAck 256 0 (.pad 256) none]) = true ∧
    goes (exec (.portRequest 256 (reqOf 0x100 (.rmw .add false 4 0x80000000 0))) s) (fun t => t.load (padKey 256 0x100) 4 == 0x00030201) = true ∧
    goes (exec (.portRequest 256 (reqOf 0x103 (.write 1 (fullMask 1) 0xFF))) q) (fun t => t.agenda ==
      [.postedStoreAck 256 0 (.pad 256) (some ⟨2 ^ 63 + 0x103, 2 ^ 63 + 0x1000⟩)] && t.mem == q.mem) = true := by
  refine ⟨by decide +kernel, ⟨by decide +kernel, by decide +kernel⟩, by decide +kernel, by decide +kernel, by decide +kernel, by decide +kernel,
    ⟨by decide +kernel, by decide +kernel⟩, by decide +kernel⟩

/-- The chiplets that the slices of stack 2 of site 1, and frames of its tier 0, need to serve lines. -/
def stackUp : List (Chip × Chiplet) := [(⟨1, 1, 0⟩, { Chiplet.reset with state := .ready }), (⟨1, 2, 0⟩, { Chiplet.reset with state := .ready })]

/-- A slice with some contents beside the base state. -/
def demoSlice (x : Slice) : State := { demo running with slices := [(40, x)], chiplets := stackUp }

/-- HomeEvents: a line held, a miss with and without a translation, the fill that serves it, and a stack that serves nothing. -/
theorem witness_slice : let l : SliceLine := { part := 0, line := 0x20, phys := 2 ^ 37 + 0x1000, ps := 0, d := false, data := 0x04030201, dirty := 0 }
    let h := demoSlice { Slice.reset with lines := [l] }
    let e : TEntry := { va := 0x1000, ps := 0, tier := 0, frame := 2 ^ 25 + 1, d := false }
    let q := reqOf 0x1000 (.read 4 (fullMask 4))
    let m := { demoSlice { Slice.reset with tcache := [e], waiting := [q] } with mem := [(⟨2 ^ 37 + 0x1002, 9⟩ : Host.Cell)] }
    let o := { demoSlice Slice.reset with chiplets := stackUp.take 1 }
    o.stackServes (40 / 16) = false ∧ h.stackServes (40 / 16) = true ∧ m.stackServes (e.key (0x20 * 128) / 2 ^ 36) = true ∧
    goes (exec (.sliceAccess 40 q) o) (fun t => (t.slice 40).waiting == [q] && t.agenda == []) = true ∧
    (h.slice 40).waiting = [] ∧ (h.slice 40).filter = [] ∧ m.lineKeys = [] ∧ m.poison = [] ∧
    (h.slice 40).line? 0 (0x1000 / 128) = some l ∧ h.linePoison l = none ∧ (m.slice 40).line? 0 0x20 = none ∧ (m.slice 40).tlb? (0x20 * 128) = some e ∧
    e.key (0x20 * 128) % 128 = 0 ∧ (m.slice 40).waiting = [q] ∧
    goes (exec (.sliceAccess 40 q) h) (fun t => t.agenda == [.loadResponse 256 0 (.slice 40) { lane := 0, value := 0x04030201, serial := 0, err := none }]) = true ∧
    goes (exec (.sliceAccess 40 (reqOf 0x1000 .fill)) h) (fun t => t.agenda == [.l1FillResponse 256 0x20 { data := l.data, blocked := 0, err := none }]) = true ∧
    goes (exec (.sliceAccess 40 q) (demoSlice { Slice.reset with tcache := [e] })) (fun t => t.agenda == [.sliceMissFill 40 0x20] && (t.slice 40).waiting == [q]) = true ∧
    goes (exec (.sliceAccess 40 q) (demoSlice Slice.reset)) (fun t => t.agenda == [.walkRequest 40 0x20]) = true ∧
    goes (exec (.sliceMissFill 40 0x20) m) (fun t => t.agenda == [.loadResponse 256 0 (.slice 40) { lane := 0, value := 0x090000, serial := 0, err := none }] &&
      (t.slice 40).waiting == [] && ((t.slice 40).line? 0 0x20).map SliceLine.data == some 0x090000) = true := by
  decide +kernel

/-- HomeEvents, CacheAndLockEvents: a translation to a line of memory that serves nothing, and a release behind a waiting request. -/
theorem witness_homeWaits : let e : TEntry := { va := 0x1000, ps := 0, tier := 0, frame := 2 ^ 25 + 1, d := false }
    let q := reqOf 0x1000 (.read 4 (fullMask 4))
    let o := { demoSlice { Slice.reset with tcache := [e], waiting := [q] } with chiplets := [] }
    o.keyServes (e.key (0x20 * 128)) = false ∧ goes (exec (.sliceMissFill 40 0x20) o) (fun t => t == o.post (.sliceMissFill 40 0x20)) = true ∧
    (o.slice 40).waiting ≠ [] ∧ goes (exec (.lockRelease (.slice 40) 257 3) o) (fun t => t == o.again (.lockRelease (.slice 40) 257 3)) = true ∧
    (o.slice 40).filter = [] := by
  decide +kernel

/-- HomeEvents: a walk begins, goes down, ends in a leaf, is retried, and is given up. -/
theorem witness_walk : let q := reqOf 0x1000 (.read 4 (fullMask 4))
    let at_ (level retries : Nat) (raw : Nat) : State := { demoSlice { Slice.reset with waiting := [q], walks := [{ line := 0x20, level, table := 2 ^ 37, retries }] } with
      mem := ((List.range 8).filter fun i => raw / 2 ^ (8 * i) % 256 ≠ 0).map fun i => ⟨2 ^ 37 + 8 * (0x1000 / 2 ^ (12 + 9 * level) % 512) + i, BitVec.ofNat 8 (raw / 2 ^ (8 * i))⟩ }
    let table := 1 + (2 ^ 25 + 2) * 4096
    let leaf := 1 + 4 + 8 + (2 ^ 25 + 3) * 4096
    ((demo running).slice 40).walk? 0x20 = none ∧ (demo running).partition? 0 = some part0 ∧
    ((at_ 4 0 table).pte (2 ^ 37) 4 0x1000).good 4 = true ∧ ((at_ 4 0 table).pte (2 ^ 37) 4 0x1000).leaf = false ∧
    ((at_ 0 0 leaf).pte (2 ^ 37) 0 0x1000).good 0 = true ∧ ((at_ 0 0 leaf).pte (2 ^ 37) 0 0x1000).leaf = true ∧
    ((at_ 0 63 0).pte (2 ^ 37) 0 0x1000).good 0 = false ∧
    goes (exec (.walkRequest 40 0x20) (demoSlice { Slice.reset with waiting := [q] })) (fun t => t.agenda == [.walkEntryReturn 40 0x20] &&
      (t.slice 40).walk? 0x20 == some { line := 0x20, level := 4, table := 2 ^ 37, retries := 0 }) = true ∧
    goes (exec (.walkEntryReturn 40 0x20) (at_ 4 0 table)) (fun t => (t.slice 40).walk? 0x20 == some { line := 0x20, level := 3, table := 2 ^ 37 + 0x2000, retries := 0 }) = true ∧
    goes (exec (.walkEntryReturn 40 0x20) (at_ 0 0 leaf)) (fun t => (t.slice 40).walk? 0x20 == none && t.agenda == [.sliceMissFill 40 0x20] &&
      (t.slice 40).tcache == [{ va := 0x1000, ps := 0, tier := 0, frame := 2 ^ 25 + 3, d := false }]) = true ∧
    goes (exec (.walkEntryReturn 40 0x20) (at_ 0 63 0)) (fun t => t.agenda == [.walkRetry 40 0x20]) = true ∧
    goes (exec (.walkEntryReturn 40 0x20) (at_ 0 64 0)) (fun t => t.agenda == [.walkRaceExhausted 40 0x20]) = true ∧
    goes (exec (.walkRetry 40 0x20) (at_ 0 63 0)) (fun t => ((t.slice 40).walk? 0x20).map Walk.retries == some 64) = true ∧
    goes (exec (.walkRaceExhausted 40 0x20) (at_ 0 64 0)) (fun t => (t.reports.map fun r => (r.kind, r.cause)) == [(5, 0x14)] && (t.slice 40).waiting == [] &&
      t.agenda == [refuseReply q (.slice 40) .walkRaceExhausted]) = true := by
  decide +kernel

/-- HomeEvents: the answer to a load of a signed byte, and of a posted store that was refused. -/
theorem witness_answers : let s := demo { waits (.access (.scalar 5 1 true false) 1 [] 1 []) running with acks := 1 }
    (s.core 256).switchedOut = false ∧ (s.strand 256 0).qmap = false ∧ (s.strand 256 0).reaping = false ∧
    goes (exec (.loadResponse 256 0 (.pad 256) { lane := 0, value := 0x80, serial := 0, err := none }) s) (fun t => t.me.greg 5 == 0xFFFFFFFFFFFFFF80 &&
      t.me.phase? == some (.done none)) = true ∧
    goes (exec (.postedStoreAck 256 0 (.slice 40) (some ⟨3, 4⟩)) s) (fun t => t.me.acks == 0 && t.me.refusals == [⟨3, 4⟩]) = true := by
  decide +kernel

/-- CacheAndLockEvents: a fill awaited and one dropped, the answers of write-backs, one of a frame whose way has become scratchpad, a
retry, a fetched line, and a log. -/
theorem witness_cacheEvents : let fr : L1Frame := { line := 0x20, data := 7, dirty := 0, present := 0, filling := true, stale := 0, sent := 0, evict := false, refused := false }
    let at_ (i : Nat) (f : L1Frame) : State := demoCore running fun k => { k with l1 := [(i, f)] }
    let l1 := at_ 300
    let sent (e : Bool) : L1Frame := { fr with sent := 3, filling := false, evict := e }
    let log := { demo running with reticles := [(1, { dirtyLog := [1], invLog := [5], seq := 9 })] }
    let tier := demo (waits (.tier false) running)
    ((l1 fr).core 256).frame? 0x20 = some (300, fr) ∧ ((l1 fr).core 256).scr / 16384 ≤ 300 / 128 ∧ 3 / 128 < ((l1 fr).core 256).scr / 16384 ∧
    ((List.range 16).all fun n => ((l1 fr).strand 256 n).phase?.isNone) = true ∧ log.changes = [] ∧
    goes (exec (.l1FillResponse 256 0x20 { data := 99, blocked := 0, err := none }) (l1 { fr with stale := 2 })) (fun t =>
      ((t.core 256).frame? 0x20).map (fun e => (e.2.data, e.2.stale)) == some (7, 1)) = true ∧
    goes (exec (.l1WritebackReply 256 0x20 true) (at_ 3 (sent false))) (fun t => ((t.core 256).frame? 0x20).isNone) = true ∧ ((l1 { fr with refused := true, dirty := 6, filling := false }).core 256).l1.length = 1 ∧
    log.partAt 1 = some part0 ∧
    goes (exec (.l1FillResponse 256 0x20 { data := 99, blocked := 0, err := none }) (l1 fr)) (fun t => ((t.core 256).frame? 0x20).map (fun e => (e.2.data, e.2.filling)) ==
      some (99, false)) = true ∧
    goes (exec (.l1WritebackReply 256 0x20 true) (l1 (sent false))) (fun t => ((t.core 256).frame? 0x20).map (fun e => e.2.sent) == some 0) = true ∧
    goes (exec (.l1WritebackReply 256 0x20 true) (l1 (sent true))) (fun t => ((t.core 256).frame? 0x20).isNone) = true ∧
    goes (exec (.l1WritebackReply 256 0x20 false) (l1 (sent false))) (fun t => ((t.core 256).frame? 0x20).map (fun e => (e.2.dirty, e.2.refused)) == some (3, true)) = true ∧
    goes (exec (.writebackRetry 256) (l1 { fr with refused := true, dirty := 6, filling := false })) (fun t => t.agenda.length == 1 &&
      ((t.core 256).frame? 0x20).map (fun e => (e.2.dirty, e.2.sent)) == some (0, 6)) = true ∧
    goes (exec (.secondTierCompletion 256 0) tier) (fun t => t.me.phase? == some (.done none)) = true ∧
    goes (exec (.dirtyLogMerge 1) log) (fun t => (t.reticle 1).dirtyLog == [] && (t.reticle 1).invLog == [5]) = true ∧
    goes (exec (.invalidationLogApply 1) log) (fun t => (t.reticle 1).invLog == [] && (t.reticle 1).dirtyLog == [1]) = true := by
  decide +kernel

/-- CacheAndLockEvents: registrations at a port and at a slice with nothing waiting, their answer and their release. -/
theorem witness_lockEvents : let e : LockEntry := { id := 3, core := 257, strand := 1, kind := .view, place := .pad 256, base := 0x100, len := 64, rows := ⟨0, 0, 0, 0⟩ }
    let v : LockEntry := { e with place := .virt 0, base := 0x1000 }
    let s := demo running
    let w := demo (waits (.register [(3, .pad 257)] [] 0 (some (2, 4)) none) running)
    let held := demoCore running fun k => { k with portLocks := [e] }
    s.Awake 256 ∧ held.Awake 256 ∧ ((s.slice 40).filter = [] ∧ (s.slice 40).waiting = [] ∧ (s.filterEntries 40 v).length ≤ 1024 ∧ (s.core 256).locks = [] ∧ (s.core 256).portLocks = [] ∧
    goes (exec (.lockRegistration (.pad 256) e) s) (fun t => (t.core 256).portLocks == [e] && t.agenda == [.lockRegistrationAck 257 3 (.pad 256) .acked]) = true ∧
    goes (exec (.lockRegistration (.slice 40) v) s) (fun t => t.agenda == [.lockRegistrationAck 257 3 (.slice 40) .acked]) = true ∧
    goes (exec (.lockRegistrationAck 256 3 (.pad 257) .acked) w) (fun t => t.me.phase? == some (.done none) && t.me.handle 4 == .node 2) = true ∧
    goes (exec (.lockRelease (.pad 256) 257 3) held) (fun t => (t.core 256).portLocks == []) = true) :=
  ⟨⟨by decide +kernel, by decide +kernel⟩, ⟨by decide +kernel, by decide +kernel⟩, by decide +kernel⟩

/-- CacheAndLockEvents: the last core of a run that has nothing left to do, and a fetch of a line that its home slice holds. -/
theorem witness_fetchEvents : let all : State := { demo running with
      cores := (List.range 64).map fun i => (256 + i, { core0 with retired := true }) }
    let l : SliceLine := { part := 0, line := 0x20, phys := 2 ^ 37 + 0x1000, ps := 0, d := false, data := 0x04531C00, dirty := 0 }
    let h := (demo running).homeSlice 0 0x20
    let up (chip index : Nat) : Chip × Chiplet := (⟨h / 32, chip, index⟩, { Chiplet.reset with state := .ready })
    let s : State := { demo running with slices := [(h, { Slice.reset with lines := [l] })], chiplets := [up 1 (h / 16 % 2), up 2 0] }
    ((all.core 256).retired = true ∧ all.runOf 256 = some run0 ∧ (all.regionCores run0).all (fun x => all.finished x && !all.agenda.contains (.completionRelease x)) = true ∧
      all.slices = [] ∧ (all.core 256).copies = [] ∧ (all.core 256).l1 = []) ∧
    ((s.strand 256 0).life = .running ∧ (s.strand 256 0).reaping = false ∧ (s.strand 256 0).fetchErr = none ∧ (s.core 256).stopped = false ∧
      s.fetchTrap 256 (s.strand 256 0).pc = none ∧ l.line = (s.strand 256 0).pc.toNat % 2 ^ 57 / 128 ∧ s.partOf 256 = 0 ∧
      s.lineAtHand 0 0x20 = true ∧ (s.slice (s.homeSlice 0 0x20)).line? 0 0x20 = some l ∧ s.linePoison l = none) ∧
    goes (exec (.completionRelease 256) all) (fun t => t.agenda == [.harvest 0 0]) = true ∧
    goes (exec (.instructionFetchReturn 256 0) s) (fun t => (t.core 256).fetched? (2 ^ 63 + 0x1000) == some 0x04531C00) = true := by
  decide +kernel

/-! ### Witnesses: groups, deques, tiles, copies -/

/-- The base state with a group whose root, core 256, is in a phase, its strand 0 arriving and contributing for it. -/
def rooted (t : Strand) (g : Group) : State :=
  { demoCore t fun k => { k with arrivals := [false, true].map fun red => { idx := 255, reduction := red, arriver := .strand 0, sent := true, withdrawn := false } } with
    groups := [g] }

/-- The same with the core's withdrawals on their way. -/
def withdrawing (s : State) : State := s.modCore 256 fun k => { k with arrivals := k.arrivals.map fun a => { a with withdrawn := true } }

/-- GroupEvents: the first and the last arrival, a withdrawal of no episode, before its arrival and in time, a contribution. -/
theorem witness_groupEvents : let wait := waits (.barrier ⟨0, 255⟩ true) running
    let first := rooted wait group255
    let last := rooted wait { group255 with arrived := [257] }
    let in_ := withdrawing (rooted wait { group255 with arrived := [256] })
    let early := withdrawing first
    let red (l : List (Nat × Word)) (op : Option RedOp) : State := rooted (waits (.reduce ⟨0, 255⟩ 5 .add 9 true) running) { group255 with redValues := l, redOp := op }
    (first.group? ⟨0, 255⟩ = some group255 ∧ group255.members.head? = some 256 ∧ 256 ∈ group255.expected ∧ 256 ∉ group255.arrived ∧
      (first.core 256).arrivalSent 255 false = true ∧ ((first.core 256).arrival? 255 true).map Arrival.arriver = some (.strand 0)) ∧
    goes (exec (.barrierArrival ⟨0, 255⟩ 256 256) first) (fun t => t.groups == [{ group255 with arrived := [256] }]) = true ∧
    goes (exec (.barrierArrival ⟨0, 255⟩ 256 256) last) (fun t => t.groups == [group255] && t.me.phase? == some (.done none)) = true ∧
    goes (exec (.barrierWithdrawal ⟨0, 255⟩ 256 false 256) first) (fun t => t == first) = true ∧
    goes (exec (.barrierWithdrawal ⟨0, 255⟩ 256 false 256) in_) (fun t => t.groups == [group255] && errOf t == some (.vigilTimeout, 255) &&
      (t.core 256).arrival? 255 false == none) = true ∧
    (∀ y ∈ (early.core 256).copies, y.phase = .starting) ∧
    goes (exec (.barrierWithdrawal ⟨0, 255⟩ 256 false 256) early) (fun t => t.groups == [group255] && errOf t == some (.vigilTimeout, 255) &&
      ((t.core 256).arrival? 255 false).map Arrival.withdrawn == some false) = true ∧
    goes (exec (.barrierWithdrawal ⟨0, 255⟩ 256 true 256) (red [] none)) (fun t => t == red [] none) = true ∧
    goes (exec (.barrierWithdrawal ⟨0, 255⟩ 256 true 256) (withdrawing (red [(256, 9)] (some .add)))) (fun t => (t.groups.map Group.redValues) == [[]] &&
      errOf t == some (.vigilTimeout, 255)) = true ∧
    goes (exec (.reductionContribution ⟨0, 255⟩ 256 0 .add 9 256) (red [] none)) (fun t => t.groups == [{ group255 with redOp := some .add, redValues := [(256, 9)] }]) = true ∧
    goes (exec (.reductionContribution ⟨0, 255⟩ 256 0 .add 9 256) (red [(257, 2 ^ 64 - 1)] (some .add))) (fun t => t.groups == [group255] && t.me.greg 5 == 8 &&
      t.me.phase? == some (.done none)) = true ∧
    goes (exec (.reductionContribution ⟨0, 255⟩ 256 0 .add 9 256) (red [(257, 1)] (some .minI))) (fun t => errOf t == some (.illegal, 0x12345678) &&
      (t.core 256).arrival? 255 true == none) = true := by
  decide +kernel

/-- GroupEvents: a broadcast with three values and with four not yet popped, its flood down the tree, through a member that has retired
too, and its credit; a root past its stop point; a `cpyh` whose arrival is withdrawn. -/
theorem witness_broadcast : let send := waits (.bcastSend ⟨0, 255⟩ 3 true (some 0)) running
    let held (n : Nat) : Group := { group255 with seq := n, unpopped := (List.range n).map fun i => (i, [256, 257]) }
    let s := rooted send (held 3)
    let f := rooted send (held 4)
    let h : Copy := { copyAt (.barrier 0) with kind := .cpyh, gb := 0xFF00 }
    let halo := rooted running { group255 with arrived := [256] }
    let away := (rooted send group255).modCore 256 fun k => { k with stopped := true }
    s.Awake 256 ∧ ((s.core 256).retired = false ∧ (held 3).unpopped.length < 4 ∧ 4 ≤ (held 4).unpopped.length ∧ (away.core 256).stopped = true ∧
    goes (exec (.broadcastAccept ⟨0, 255⟩ 256 0 3) s) (fun t => t.agenda == [.broadcastFloodArrival ⟨0, 255⟩ 256 3 3] &&
      t.groups == [held 4] && t.me.phase? == some (.done none)) = true ∧
    goes (exec (.broadcastAccept ⟨0, 255⟩ 256 0 3) f) (fun t => t.me.phase? == some (.bcastSend ⟨0, 255⟩ 3 false (some 0)) && t.agenda == []) = true ∧
    goes (exec (.broadcastFloodArrival ⟨0, 255⟩ 256 3 7) s) (fun t => lookupD [] 255 (t.core 256).bcast == [(3, 7)] &&
      t.agenda == [.broadcastFloodArrival ⟨0, 255⟩ 257 3 7]) = true ∧
    goes (exec (.broadcastFloodArrival ⟨0, 255⟩ 256 3 7) (s.modCore 256 fun k => { k with retired := true })) (fun t =>
      (t.core 256).bcast == [] && t.agenda == [.broadcastFloodArrival ⟨0, 255⟩ 257 3 7]) = true ∧
    goes (exec (.barrierWithdrawal ⟨0, 255⟩ 256 false 256) (withdrawing (halo.modCore 256 fun k => { k with copies := [h] }))) (fun t =>
      ((t.core 256).copy? 7).map (fun y => (y.phase, y.code)) == some (.ending, 0x09)) = true ∧
    goes (exec (.broadcastCreditReturn ⟨0, 255⟩ 256 0 256) s) (fun t => (t.groups.map fun g => g.unpopped.head?) == [some (0, [257])]) = true ∧
    goes (exec (.barrierArrival ⟨0, 255⟩ 257 257) away) (fun t => t.ejected == [(256, .barrierArrival ⟨0, 255⟩ 257 257)]) = true ∧
    goes (exec (.broadcastAccept ⟨0, 255⟩ 257 0 3) away) (fun t => t.ejected == [(256, .broadcastAccept ⟨0, 255⟩ 257 0 3)]) = true ∧
    goes (exec (.dayBarrierAdvance 256 1 false) (demoCore (waits (.daybar 1 false) running) fun k => { k with rings := [(1, { ring1 0 0 0 with fillArr := 1 })] }))
      (fun t => ((t.core 256).ring? 1).map (fun r => (r.fill, r.fillArr)) == some (1, 0) && t.me.phase? == some (.done none)) = true) :=
  ⟨⟨by decide +kernel, by decide +kernel⟩, by decide +kernel⟩

/-- GroupEvents: a message of core 256 at the fourth of four members, on its way to the first by way of the second. -/
theorem witness_climb : let g : Group := { group255 with members := [258, 257, 256, 259], expected := [258, 257, 256, 259] }
    let s := rooted running g
    s.group? ⟨0, 255⟩ = some g ∧ g.members.idxOf? 259 = some 3 ∧ g.members[(3 - 1) / 2]? = some 257 ∧ s.Awake 257 ∧
    g.members.head? ≠ some 257 ∧
    goes (exec (.barrierArrival ⟨0, 255⟩ 259 259) s) (fun t => t.agenda == [.barrierArrival ⟨0, 255⟩ 259 257]) = true ∧
    goes (exec (.reductionContribution ⟨0, 255⟩ 259 0 .add 5 259) s) (fun t => t.agenda == [.reductionContribution ⟨0, 255⟩ 259 0 .add 5 257]) =
      true ∧
    goes (exec (.barrierArrival ⟨0, 255⟩ 259 257) s) (fun t => t.groups == [{ g with arrived := [259] }]) = true :=
  ⟨by decide +kernel, by decide +kernel, by decide +kernel, ⟨by decide +kernel, by decide +kernel⟩, by decide +kernel⟩

/-- A core whose deque holds frames, taken from before, beside a thief. -/
def demoDeque (f : Deque → Deque) : State := demoCore running fun k => { k with deque := f { k.deque with taken := true } }

/-- StealingAndLevelling: theft from the hardware part, from the overflow region, of nothing; replies; levelling. -/
theorem witness_deques : let two := demoDeque fun q => { q with hw := [frame0, { frame0 with fmtb := 1 }] }
    let ovf := { demoDeque fun q => { q with hw := List.replicate 32 frame0, base := 0x1000, slots := 2, first := 1, overN := 1 } with
      mem := padNat 0x1040 64 0x77 }
    let asks (m : Nat) : State := demo (waits (.take 1 [257] m none) running)
    two.Awake 256 ∧ ((two.core 256).retired = false ∧ (two.core 256).deque.taken = true ∧ (demo running |>.core 256).deque.taken = false ∧
    ((asks 0).victim 256 [257]).1 = some 258 ∧ (asks 0).me.phase? = some (.take 1 [257] 0 none) ∧ ovf.mem.length = 1 ∧
    goes (exec (.theftRequest 256 257 2) two) (fun t => t.agenda == [.theftReply 257 2 (some { frame0 with fmtb := 1 })] && (t.core 256).deque.hw == [frame0]) = true ∧
    goes (exec (.theftRequest 256 257 2) ovf) (fun t => (t.core 256).deque.overN == 0 && (t.core 256).deque.first == 0 && t.agenda ==
      [.theftReply 257 2 (some (frameOfImage 0x77))]) = true ∧
    goes (exec (.theftRequest 256 257 2) (demo running)) (fun t => t.agenda == [.theftReply 257 2 none]) = true ∧
    goes (exec (.theftReply 256 0 none) (asks 0)) (fun t => t.me.phase? == some (.take 1 [257, 258] 1 none) && t.agenda == [.theftRequest 258 256 0]) = true ∧
    goes (exec (.theftReply 256 0 none) (asks 7)) (fun t => t.me.phase? == some (.take 1 [257] 8 (some (none, 0)))) = true ∧
    goes (exec (.theftReply 256 0 (some frame0)) (asks 0)) (fun t => t.me.phase? == some (.take 1 [257] 0 (some (some frame0, 0)))) = true ∧
    goes (exec (.levellingGrantRequest 256 257 40) two) (fun t => (t.core 256).deque.reserved == 30 && t.agenda == [.levellingGrant 257 256 30]) = true ∧
    goes (exec (.levellingGrant 256 257 1) two) (fun t => (t.core 256).deque.hw == [frame0] && (t.core 256).deque.leaving == 1 &&
      t.agenda == [.levelledFrameArrival 257 256 (some { frame0 with fmtb := 1 }) 0]) = true ∧
    goes (exec (.levelledFrameArrival 256 257 (some frame0) 0) two) (fun t => (t.core 256).deque.hw.length == 3) = true ∧
    goes (exec (.levelledFrameArrival 256 257 (some frame0) 0) ovf) (fun t => (t.core 256).deque.overN == 2 && (t.core 256).deque.first == 0 &&
      t.load (padKey 256 0x1000) 64 == frameImage frame0) = true ∧
    goes (exec (.levellingInterval 256) (two.modCore 256 fun k => { k with balance := 16, ticks := 9 })) (fun t => (t.core 256).levelAt == 9 + 2 ^ 16) = true) :=
  ⟨⟨by decide +kernel, by decide +kernel⟩, by decide +kernel⟩

/-- The step of position 0, 0 of the sum below: 1 + 2 = 3. -/
def sum0 : StepOut := { cells := [(0, 0, 0x40400000)], pairs := [] }

/-- A node at work: a sum of two VALUES in banks 0 and 1, whose result has or lacks bank 2. -/
def demoStep (staged : Bool) (bank : Option Nat) : State :=
  let tag : Option BankTag := some { ctx := 0, core := 0, strand := 0 }
  { demoCore (waits (.demand [⟨2, 1, 1⟩] (if staged then some sum0 else none) none) running) (fun k =>
      { k with nodes := [(2, { nodeOf .tadd 0x11 .demanded [.value 0 0x11 32 32, .value 1 0x11 32 32] with bank })] }) with
    clusters := [(64, { Cluster.reset with
      banks := ((Cluster.reset.banks.set! 0 { data := 0x3F800000, scales := 0, tag }).set! 1 { data := 0x40000000, scales := 0, tag }).set! 2
        { data := 0, scales := 0, tag := if bank.isSome then tag else none }
      holder := if staged then some 256 else none
      requests := if staged then [(256, 0)] else [] })] }

/-- TileEvents: a fetched step, a step on the array, the handover of an idle array and of one requested for a node with a bank and with
none. -/
theorem witness_tileEvents : let f := demoStep false (some 2)
    let n := demoStep false none
    let s := demoStep true (some 2)
    let asks (t : State) : State := t.modCluster 64 fun c => { c with holder := none, requests := [(256, 0)] }
    let k (t : State) : Cluster := t.cluster 64
    (f.core 256).node? 2 ≠ none ∧ (f.core 256).olderDemand 0 0 = false ∧ ((f.core 256).node? 2).bind (f.displaced? 256 0) = none ∧
    ((asks n).bindBank 256 == .bound 2) = true ∧ (s.strand 256 0).work? = some ([⟨2, 1, 1⟩], some sum0, none) ∧
    ((n.core 256).node? 2).map (fun v => (n.core 256).bankOf 96 v) = some none ∧ (k (asks n)).nextHolder 64 3 = some 256 ∧ (k f).nextHolder 64 3 = none ∧
    (match ((f.core 256).node? 2).map fun v => f.evalNode 256 v ⟨1, 1⟩ with
      | some (.ok (o, t)) => o == sum0 && t == f
      | _ => false) = true ∧
    (((s.core 256).node? 2).map fun v => (s.core 256).bankOf 96 v) = some (some 2) ∧
    goes (exec (.operandFetchComplete 256 0) f) (fun t => t.me.phase? == some (.demand [⟨2, 1, 1⟩] (some sum0) none) && (k t).requests == [(256, 0)] &&
      t.agenda == [.arrayLeaseHandover 64]) = true ∧
    goes (exec (.tileStep 64) s) (fun t => ((k t).bank 2).data.toNat % 2 ^ 32 == 0x40400000 && ((t.core 256).node? 2).map (fun v => (v.rmat, v.cmat)) == some (1, 1) &&
      (k t).steps == 1 && t.agenda == [.arrayLeaseHandover 64] && t.me.phase? == some (.demand [] none none)) = true ∧
    goes (exec (.arrayLeaseHandover 64) f) (fun t => (k t).holder == none && t.agenda == []) = true ∧
    ([(s, false), (n, true)].all fun e => goes (exec (.arrayLeaseHandover 64) (asks e.1)) fun t => (k t).holder == some 256 && t.agenda == [.tileStep 64] &&
      ((t.core 256).node? 2).map (fun v => (v.state, v.bank)) == some (.evaluating, some 2) && ((k t).bank 2).tag == some { ctx := 0, core := 0, strand := 0 }) = true := by
  decide +kernel

/-- TileEvents: what a step computes at row 0 and column 0 of two VALUES, 1 and 2 there and 0 elsewhere, for a node of each kind. -/
theorem witness_tileResults : let s (v : Node) : State := (demoStep false (some 2)).modCore 256 fun k => { k with nodes := [(2, { v with bank := some 2, state := .demanded })] }
    let two : List Source := [.value 0 0x11 32 32, .value 1 0x11 32 32]
    let n (kind : NodeKind) : Node := { nodeOf kind 0x11 .demanded two with scale := 0x40800000, mask := 2 ^ 32 + 1, rowMask := 1, colMask := 1, depth := 2 ^ 32 + 8 * 2 ^ 16 }
    let fetched (v : Node) : Option Nat := next (exec (.operandFetchComplete 256 0) (s v)) fun t => match t.me.phase? with
      | some (.demand _ (some out) _) => (out.cells.headD (0, 0, 0)).2.2
      | _ => 0
    ([(n .tadd, 0x40400000), (n .tmulw, 0x40000000), (n .tscale, 0x40800000), (n .tmask, 0x3F800000), (n (.tred 0), 0x3F800000),
      (n (.tred 3), 0x3F800000), (n .tcvt, 0x3F800000), (n (.tmma false), 0x40000000), (n (.tact 0), 0x3F800000)] : List (Node × Nat)).all (fun e =>
        ((s e.1).core 256).node? 2 == some { e.1 with bank := some 2 } && ((s e.1).displaced? 256 0 { e.1 with bank := some 2 }).isNone &&
        (e.1.kind.isSource == false) && fetched e.1 == some e.2) = true := by
  decide +kernel

/-- TileEvents: a weight tile of one block with nothing stored, whose index and scales lie in the own scratchpad. -/
theorem witness_weights : let v := { nodeOf .twload 0x29 .evaluating [] with map := MapRec.ofNat weightRecord }
    let s : State := { demoCore (waits (.demand [⟨0, 0, 0⟩] none none) running) (fun k => { k with nodes := [(0, v)] }) with
      clusters := [(64, { Cluster.reset with slots := [(5, 256, 0, [])] })] }
    (s.core 256).node? 0 = some v ∧ (match State.readTile 256 v.map ((codeDx v.map.fmt).getD d16) (List.range (v.map.cols * v.map.blocks)) s with
      | .ok (_, t) => t == s
      | .error _ => false) = true ∧
    goes (exec (.twloadFetchComplete 256 0) s) (fun t => ((t.core 256).node? 0).map Node.state == some .done && t.me.phase? == some (.demand [] none none)) = true := by
  decide +kernel

/-- A core with one copy. -/
def demoCopy (x : Copy) : State := { demoCore running fun k => { k with copies := [x], nextId := 10 } with mem := padMem 0x100 [1, 2, 3] }

/-- CopyEvents: a start, a read, a write, the statuses, and a resume. -/
theorem witness_copyEvents : let st := copyAt .starting
    let run := copyAt .running
    let fl : Copy := { run with next := 1, inFlight := 1 }
    let fin : Copy := { run with next := 2 }
    let pend : Copy := { run with refusedAt := some 0, phase := .pending }
    let us := run.units
    us.length = 2 ∧ ((demoCopy st).core 256).copy? 7 = some st ∧ ((demoCopy st).core 256).quiet st = true ∧ (demoCopy st).me.acks = 0 ∧
    (us.map fun u => ((demoCopy run).spot 256 u.src, (demoCopy run).spot 256 u.dst)) = [((.pad 256, 0x100), (.pad 256, 0x4000)), ((.pad 256, 0x140), (.pad 256, 0x4040))] ∧
    (us[0]?.map fun u => (demoCopy pend).unitPads 256 pend 0 u) = some [256] ∧ ((demoCopy st).core 256).stopped = false ∧
    (us[0]?.map fun u => ((demoCopy run).away 256 true (run.reads 0 u), (demoCopy run).unitConflict 256 run false (run.reads 0 u),
      (demoCopy run).away 256 true (run.writes 0 u), (demoCopy run).unitConflict 256 run true (run.writes 0 u), (demoCopy run).inside 256 run 0 u)) =
      some (false, false, false, false, true) ∧
    goes (exec (.copyStart 256 7) (demoCopy st)) (fun t => t.agenda == [.streamerUnitRead 256 7 0] && ((t.core 256).copy? 7).map Copy.phase == some .running) = true ∧
    goes (exec (.streamerUnitRead 256 7 0) (demoCopy run)) (fun t => ((t.core 256).copy? 7).map (fun x => (x.next, x.inFlight)) == some (1, 1) &&
      t.agenda == [.copyUnitWrite 256 7 0 { bytes := [1, 2, 3] ++ List.replicate 61 0, scale := [] }, .streamerUnitRead 256 7 1]) = true ∧
    goes (exec (.copyUnitWrite 256 7 0 { bytes := [1, 2, 3] ++ List.replicate 61 0, scale := [] }) (demoCopy fl)) (fun t =>
      t.load (padKey 256 0x4000) 64 == 0x030201 && ((t.core 256).copy? 7).map Copy.inFlight == some 0) = true ∧
    goes (exec (.copyStatusWrite 256 7) (demoCopy fin)) (fun t => t.me.greg 5 == 0x80 && (t.core 256).copies == []) = true ∧
    goes (exec (.copyStatusWrite 256 7) (demoCopy { st with phase := .ending, code := 0x81 })) (fun t => t.me.greg 5 == 0x8100008000000000) = true ∧
    goes (exec (.copyStatusWrite 256 7) (demoCopy { run with refusedAt := some 1, phase := .refused, next := 1 })) (fun t => t.me.greg 5 == 0x8000004000000040 &&
      ((t.core 256).copy? 7).map Copy.phase == some .pending) = true ∧
    goes (exec (.copyResume 256) (demoCopy pend)) (fun t => t.agenda == [.streamerUnitRead 256 7 0] && ((t.core 256).copy? 7).map Copy.phase == some .running) = true := by
  decide +kernel

/-- CopyEvents: a source, and a destination, at a core past its stop point; a destination under a lock; a `cpyh` that arrives for its core,
joins another's arrival, and registers its sources. -/
theorem witness_copyRefusals : let run := { copyAt .running with geo := [2 ^ 61 + 2 ^ 46 + 0x100, 0x4000] }
    let out := { copyAt .running with geo := [0x100, 2 ^ 61 + 2 ^ 46 + 0x100], next := 1, inFlight := 1 }
    let away (x : Copy) : State := (demoCopy x).modCore 257 fun k => { k with stopped := true }
    let halo (p : CopyPhase) : Copy := { copyAt p with kind := .cpyh, gb := 0xFF01, geo := [0x1000, 4 + 4 * 2 ^ 16 + 1 * 2 ^ 32 + 2 * 2 ^ 36, 24, 1, 0] }
    let g := { demoCopy (halo (.arriving none)) with groups := [group255] }
    let b := { demoCopy (halo .passed) with groups := [group255] }
    let own : Arrival := { idx := 255, reduction := false, arriver := .copy 7, sent := false, withdrawn := false }
    let arrives (a : Arrival) : State := g.modCore 256 fun k => { k with arrivals := [a] }
    let barred : Copy := { copyAt .running with next := 1, inFlight := 1 }
    let locked := (demoCopy barred).modCore 256 fun k => { k with portLocks := [{ id := 1, core := 257, strand := 0, kind := .view, place := .pad 256, base := 0x4000, len := 4, rows := ⟨0, 0, 0, 0⟩ }] }
    (run.units.map fun u => ((away run).spot 256 u.src).1) = [.pad 257, .pad 257] ∧ (run.units[0]?.map fun u => (away run).away 256 ((away run).inside 256 run 0 u) (run.reads 0 u)) = some true ∧
    (barred.units[0]?.map fun u => (locked.away 256 true (barred.writes 0 u), locked.unitConflict 256 barred true (barred.writes 0 u))) = some (false, true) ∧
    goes (exec (.copyUnitWrite 256 7 0 { bytes := [1], scale := [] }) locked) (fun t => ((t.core 256).copy? 7).map (fun x => (x.phase, x.code, x.inFlight)) ==
      some (.ending, 0x07, 0) && t.mem == locked.mem) = true ∧ (g.core 256).arrival? 255 false = none ∧ ((arrives own).core 256).l1 = [] ∧
    goes (exec (.cpyhArrival 256 7) g) (fun t => t.agenda == [.cpyhArrival 256 7] && (t.core 256).arrival? 255 false == some own) = true ∧
    goes (exec (.cpyhArrival 256 7) (arrives { own with arriver := .strand 1 })) (fun t => t.agenda == [] &&
      ((t.core 256).copy? 7).map Copy.phase == some (.barrier 0)) = true ∧
    goes (exec (.streamerUnitRead 256 7 0) (away run)) (fun t => ((t.core 256).copy? 7).map (fun x => (x.phase, x.refusedAt)) == some (.refused, some 0)) = true ∧
    goes (exec (.copyUnitWrite 256 7 0 { bytes := [1], scale := [] }) (away out)) (fun t => ((t.core 256).copy? 7).map (fun x => (x.phase, x.refusedAt, x.inFlight)) ==
      some (.refused, some 0, 0) && t.mem == (away out).mem) = true ∧
    goes (exec (.cpyhArrival 256 7) (arrives own)) (fun t => t.agenda == [.barrierArrival ⟨0, 255⟩ 256 256] && (t.core 256).arrivalSent 255 false && ((t.core 256).copy? 7).map Copy.phase == some (.barrier 0)) = true ∧
    goes (exec (.cpyhSourceRegistration 256 7) b) (fun t => (t.core 256).locks.length == 1 && ((t.core 256).copy? 7).map (fun x => (x.phase, x.locks)) ==
      some (.sources [(10, .pad 257)] [] 0, [8, 9, 10]) && t.agenda.length == 1) = true := by
  decide +kernel

/-- CopyEvents: a copy whose line's write-back was refused; a `cpyh` whose release is clean, and refused; a unit before an earlier one of
its home, one behind a refused one, and a converted block's scale. -/
theorem witness_copyOrder : let f : L1Frame := { line := 0x20, data := 7, dirty := 1, present := 1, filling := false, stale := 0, sent := 0, evict := false, refused := true }
    let e : LockEntry := { id := 8, core := 256, strand := 0, kind := .copyDest, place := .virt 0, base := 0x1000, len := 128, rows := ⟨0, 0, 0, 0⟩ }
    let kept := (demoCopy (copyAt .starting)).modCore 256 fun k => { k with l1 := [(300, f)], locks := [e] }
    let halo (l : Option Nat) : State := ({ demoCopy { copyAt (.arriving (some { awaited := [], refused := l })) with kind := .cpyh, gb := 0xFF01 } with
      groups := [group255] }).modCore 256 fun k => { k with arrivals := [{ idx := 255, reduction := false, arriver := .copy 7, sent := false, withdrawn := false }] }
    let x := { copyAt .running with next := 2, inFlight := 2 }
    let d : CopyData := { bytes := [9], scale := [] }
    let s := demoCopy x
    let wait := { s with agenda := [.copyUnitWrite 256 7 0 d] }
    let back := demoCopy { x with refusedAt := some 0, phase := .refused, inFlight := 1 }
    let y := { copyAt .running with kind := .cpyf, geo := [0x100, 0x4000, 0x20 * 2 ^ 16 + 0x11, 0, 0x5000], gb := 64, next := 2, inFlight := 2 }
    let scale := { demoCopy y with agenda := [.copyUnitWrite 256 7 1 d] }
    let c : CopyData := { bytes := [], scale := [0x7F, 1] }
    ((kept.core 256).keptDirty (copyAt .starting) = true ∧ (kept.core 256).quiet (copyAt .starting) = true ∧ (kept.strand 256 0).acks = 0 ∧
      (kept.core 256).stopped = false) ∧
    goes (exec (.copyStart 256 7) kept) (fun t => ((t.core 256).copy? 7).map (fun x => (x.phase, x.code)) == some (.ending, 0x07)) = true ∧
    goes (exec (.cpyhArrival 256 7) (halo none)) (fun t => t.agenda == [.barrierArrival ⟨0, 255⟩ 256 256]) = true ∧
    goes (exec (.cpyhArrival 256 7) (halo (some 5))) (fun t => ((t.core 256).copy? 7).map (fun x => (x.phase, x.code)) == some (.ending, 0x07)) = true ∧
    wait.partHome 256 x 0 d = wait.partHome 256 x 1 d ∧
    goes (exec (.copyUnitWrite 256 7 1 d) wait) (fun t => t == { wait with agenda := wait.agenda ++ [.copyUnitWrite 256 7 1 d] }) = true ∧
    (x.units[0]?.map fun u => (x.writes 0 u).map fun z => back.homeOf 256 z.1) = some [.pad 256] ∧ (back.spot 256 0x4040).1 = .pad 256 ∧
    goes (exec (.copyUnitWrite 256 7 1 d) back) (fun t => ((t.core 256).copy? 7).map (fun x => (x.phase, x.refusedAt, x.inFlight)) ==
      some (.refused, some 0, 0) && t.mem == back.mem) = true ∧
    y.units.length = 2 ∧ scale.spot 256 (geoAt y.geo 4 + 2) = (.pad 256, 0x5002) ∧
    goes (exec (.copyUnitWrite 256 7 1 c) { scale with agenda := [] }) (fun t => t.load (padKey 256 0x5002) 2 == 0x17F &&
      ((t.core 256).copy? 7).map Copy.inFlight == some 1) = true ∧
    goes (exec (.copyUnitWrite 256 7 1 c) scale) (fun t => t.mem == scale.mem && t.agenda.length == 2) = true := by
  decide +kernel

/-! ### Witnesses: runs, endpoints and the module -/

/-- Requests: of virtual function 0 for its own partition and for another, and of the physical function for the module. -/
def rq0 : Request := { function := some 0, seq := 7, part := 0, reticle := 8 }
def rqWrong : Request := { rq0 with function := some 3 }
def rqm : Request := { function := none, seq := 7, part := 0xFFFF, reticle := 8 }

/-- Memory entries of doublewords at ascending keys. -/
def wordsMem (l : List (Nat × Nat)) : List Host.Cell :=
  l.flatMap fun e => ((List.range 8).filter fun i => e.2 / 2 ^ (8 * i) % 256 ≠ 0).map fun i => ⟨e.1 + i, BitVec.ofNat 8 (e.2 / 2 ^ (8 * i))⟩

/-- Page tables that map the leased page, writable and executable, and two MiB at 0x200000, writable. -/
def tables0 : List Host.Cell := wordsMem [(2 ^ 37, 1 + (2 ^ 25 + 1) * 4096), (2 ^ 37 + 0x1000, 1 + (2 ^ 25 + 2) * 4096),
  (2 ^ 37 + 0x2000, 1 + (2 ^ 25 + 3) * 4096), (2 ^ 37 + 0x3000, 1 + (2 ^ 25 + 4) * 4096),
  (2 ^ 37 + 0x3008, 1 + 4 + 8 + 9 * 64 + (2 ^ 25 + 512) * 4096), (2 ^ 37 + 0x4008, 1 + 4 + 8 + 16 + (2 ^ 25 + 5) * 4096)]

/-- A module whose block 0 of site 1 has one live cluster, so that a run region of it has four cores. -/
def tiny (r : Run) (f : Core → Core) : State :=
  { State.reset with
    mem := tables0
    blocks := [(4, { Block.reset with live := [0] })]
    cores := (List.range 4).map fun i => (256 + i, f { core0 with scr := 0 })
    partitions := [part0]
    runs := [r] }

/-- A run of that region. -/
def run1 : Run := { run0 with scr := 0 }

/-- A switch in progress. -/
def inter1 (accepted : List Nat) (stop : Nat) (committed : Bool) : Intercalation :=
  { asked := rq0, saveBase := 2 ^ 63 + 0x200000, incoming := none, stop := BitVec.ofNat 64 stop, accepted, committed }

/-- What a step leaves of the run of partition 0 in context 0. -/
def runIs {α : Type} [DecidableEq α] (t : State) (f : Run → α) (v : α) : Bool := (t.run? 0 0).map f == some v

/-- A run whose switch every site has accepted, its cores' strands 0 running. -/
def agreedSwitch (l : RunLife) : State := tiny { run1 with life := l, inter := some (inter1 [1] 65536 false) } fun k => k.setStrand 0 running

/-- Intercalation: every page of its save area can be written. -/
theorem witness_savePages : ∀ va ∈ pagesOf 0x200000 492608, (agreedSwitch .live).checkPage part0 va true false = .good := by
  have h : ∀ k, k < 11 → ∀ j, j < 11 → (agreedSwitch .live).checkPage part0 ((0x200 + (11 * k + j)) * 4096) true false = .good := by
    intro k hk
    interval_cases k <;> decide +kernel
  intro va hv
  obtain ⟨i, hi, rfl⟩ := List.mem_map.mp hv
  have hi : i < 121 := List.mem_range.mp hi
  have := h (i / 11) (by omega) (i % 11) (by omega)
  rwa [show 11 * (i / 11) + i % 11 = i from by omega] at this

/-- Intercalation: request, proposal in time and too late, commit put off, stop, switch-out point. -/
theorem witness_switchOut : let live := tiny run1 id
    let prop (stop : Nat) : State := { tiny { run1 with inter := some (inter1 [] stop false) } id with wafer := 100 }
    let stop := tiny { run1 with inter := some (inter1 [1] 64 true) } fun k => { k with calends := 64 }
    let out := tiny { run1 with life := .switchingOut } fun k => { k with stopped := true }
    live.regionCores run1 = [256, 257, 258, 259] ∧ live.regionSites run1 = [1] ∧ live.regionCommitted run1 = false ∧ stop.regionCommitted run1 = true ∧
    (agreedSwitch .live).partition? 0 = some part0 ∧ live.saveLength run1 = 492608 ∧ stop.runOf 256 = some { run1 with inter := some (inter1 [1] 64 true) } ∧
    (stop.reticle 1).invLog = [] ∧ (out.core 256).stopped = true ∧ (out.core 256).copies = [] ∧ (out.core 256).l1 = [] ∧ (out.cluster 64).holder = none ∧
    (∀ n, n < 16 → (stop.strand 256 n).outst = none) ∧
    goes (exec (.intercalationRequest rq0 0 (2 ^ 63 + 0x200000) none) live) (fun t => t.agenda == [.intercalationProposal 0 0 1] &&
      runIs t Run.inter (some (inter1 [] 65536 false)) && t.toHost == [.accepted rq0 opSwitch]) = true ∧
    goes (exec (.intercalationProposal 0 0 1) (prop 8292)) (fun t => t.agenda == [.intercalationCommit 0 0]) = true ∧
    goes (exec (.intercalationProposal 0 0 1) (prop 8291)) (fun t => runIs t Run.inter none && t.agenda == [] && t.toHost == [.refused rq0 opSwitch 0 noIndex]) = true ∧
    goes (exec (.intercalationCommit 0 0) (agreedSwitch .starting)) (fun t => t.agenda == [.intercalationCommit 0 0]) = true ∧
    goes (exec (.intercalationStop 256) stop) (fun t => (t.core 256).stopped && t.agenda == [.switchOutPoint 256] && runIs t Run.life .switchingOut) = true ∧
    (let second := tiny { run1 with life := .switchingOut, inter := some (inter1 [1] 64 true) } fun k => { k with calends := 64 }
     goes (exec (.intercalationStop 257) second) (fun t => (t.core 257).stopped && t.agenda == [.switchOutPoint 257] && runIs t Run.life .switchingOut) = true) ∧
    goes (exec (.switchOutPoint 256) out) (fun t => (t.core 256).switchedOut && t.agenda == [.coreSwitchedOut 256]) = true := by
  decide +kernel

/-- Intercalation: the image of a core, the eject section, with and without a run to bring in, and the agreement and the end of
a resume. -/
theorem witness_switchIn : let away (r : Run) : State := tiny { run1 with life := r.life, inter := r.inter, saveBase := r.saveBase } fun k => { k with stopped := true, switchedOut := true }
    let out := away { run1 with life := .switchingOut, inter := some (inter1 [1] 64 true) }
    let with2 := { out with runs := [{ run1 with life := .switchingOut, inter := some { inter1 [1] 64 true with incoming := some (1, 0) } },
      { run1 with ctx := 1, life := .switchedOut }] }
    let back (l : RunLife) (value : Nat) : State := { tiny { run1 with life := l, issueFrom := BitVec.ofNat 64 value } (fun k => { k with run := none }) with
      saved := [(0, 0, 256, { core0 with stopped := true, switchedOut := true, nextAge := 5 })], ejectSections := [(0, 0, [.theftReply 256 0 none])] }
    let soon (k : Core → Core) : State := { tiny { run1 with life := .resuming, issueFrom := 64 } k with wafer := 64 }
    (out.runOf 256).map Run.life = some .switchingOut ∧ (∀ c ∈ out.regionCores run1, (out.core c).switchedOut = true ∧ (out.core c).run = some (0, 0)) ∧
    out.sliceTraffic (out.regionCores run1) = false ∧ (back .switchedOut 0).blocksHeld 0 0 run1.blocks = false ∧ with2.blocksHeld 0 1 run1.blocks = true ∧
    ((back .switchedOut 0).saved.map fun e => (e.1, e.2.1, e.2.2.1)).Nodup ∧
    goes (exec (.coreSwitchedOut 256) out) (fun t => t.saved.length == 1 && t.mem == out.mem) = true ∧
    goes (exec (.ejectSectionCopy 0 0) out) (fun t => (t.core 256).run == none && runIs t (fun r => (r.life, r.inter)) (.switchedOut, none) &&
      t.toHost == [.done rq0 opSwitch]) = true ∧
    goes (exec (.ejectSectionCopy 0 0) with2) (fun t => t.agenda.getLast? == some (.resume 0 1)) = true ∧
    goes (exec (.ejectSectionCopy 0 0) (away { run1 with life := .stopped 2 })) (fun t => t.agenda.getLast? == some (.harvest 0 0)) = true ∧
    goes (exec (.resume 0 1) with2) (fun t => t.toHost == [.refused run1.asked opSwitch 0 noIndex]) = true ∧
    goes (exec (.resume 0 0) (back .switchedOut 0)) (fun t => runIs t (fun r => (r.life, r.issueFrom)) (.rejoining [], 65536) && t.agenda == [.intercalationProposal 0 0 1]) = true ∧
    goes (exec (.intercalationProposal 0 0 1) (back (.rejoining []) 8192)) (fun t => runIs t Run.life (.rejoining [1]) && t.agenda == [.resume 0 0]) = true ∧
    goes (exec (.intercalationProposal 0 0 1) (back (.rejoining []) 8191)) (fun t => runIs t Run.life .switchedOut && t.toHost == [.refused run1.asked opSwitch 0 noIndex]) = true ∧
    goes (exec (.resume 0 0) (back (.rejoining [1]) 65536)) (fun t => (t.core 256).nextAge == 5 && !(t.core 256).stopped && !(t.core 256).switchedOut &&
      t.agenda.contains (.theftReply 256 0 none) && runIs t (fun r => (r.life, r.issueFrom)) (.resuming, 65536)) = true ∧
    goes (exec (.resumeIssue 0 0) (soon id)) (fun t => runIs t Run.life .live && t.agenda == [] && t.toHost == [.done run1.asked opSwitch]) = true ∧
    goes (exec (.resumeIssue 0 0) (soon fun k => { k with retired := true })) (fun t => t.agenda == [.harvest 0 0]) = true := by
  decide +kernel

/-- A run block for that region: its trap vector is the last word of its code. -/
def rb0 : RunBlock :=
  { maintenance := false, blocks := [(0, 0)], entry := 2 ^ 63 + 0x1000, slots := 0xFEDCBA9876543210, sloten := 0xFFFF, slotsIndex := 1, scratch := 0x4000, almS := 6, almN := 0,
    almBase := 0, dqN := 0, dqBase := 0, scratchIndex := 2, rings := [], groups := [],
    ranges := [{ base := 0x200000, len := 0x1000, read := true, write := true, exec := false, index := 9 }], frames := [], trapvec := 2 ^ 63 + 0x1003,
    sections := [{ base := 0x1000, code := true, bytes := [0, 0, 0, 0] }], scratchData := [] }

/-- The module with the parts of that region READY. -/
def upWith (m : List Host.Cell) : State :=
  { State.reset with
    mem := m
    blocks := [(4, { Block.reset with live := [0] })]
    partitions := [part0]
    chiplets := (⟨1, 0, 0⟩, { Chiplet.reset with state := .ready }) :: stackUp }

/-- RunCommands: requests of a wrong function; a partition made, refused and destroyed; a launch refused, waiting for a page, and set up. -/
theorem witness_launch : let s := upWith tables0
    let none_ := { s with partitions := [] }
    let p1 : Machine.Partition := { part0 with num := 1 }
    let r := runFor rb0 rq0 0
    ([.createPartition rqWrong 1 1 0 0 (2 ^ 37), .launch rqWrong rb0, .endRun rqWrong 0 none] : List Instr).all (fun i =>
      goes (exec i s) fun t => t.toHost.length == 1 && t.runs == [] && t.partitions == [part0]) = true ∧
    none_.liveSlices part0 = part0.slices ∧ none_.mayCreate part0 = true ∧ s.mayCreate p1 = false ∧ s.partition? 0 = some part0 ∧ s.runs = [] ∧
    s.launchRefused rq0 part0 rb0 = none ∧ s.launchRefused rq0 part0 { rb0 with scratch := 0x4001 } = some (0x0101, 2) ∧
    s.launchRefused rq0 part0 { rb0 with trapvec := 2 ^ 63 + 0x1004 } = some (0, noIndex) ∧ s.regionReady part0 rb0 = true ∧
    { s with chiplets := stackUp }.regionReady part0 rb0 = false ∧
    s.freeContext 0 = some 0 ∧ badLease r.lease = none ∧ (∀ g ∈ leasePages r.lease, s.checkPage part0 g.1 g.2.1 g.2.2.1 = .good) ∧
    leasePages r.lease = [(0x200000, true, false, 9), (0x1000, false, true, noIndex)] ∧ (upWith []).checkPage part0 0x200000 true false = .missing ∧
    (upWith []).moving 0 0x200000 = false ∧ s.checkPage part0 0x200000 true true = .bad ∧
    goes (exec (.createPartition rq0 1 1 0 0 (2 ^ 37)) none_) (fun t => t.partitions == [part0] && t.toHost == [.data rq0 opCreate [1, 4, 49, 32], .done rq0 opCreate]) = true ∧
    goes (exec (.createPartition { rq0 with function := none, part := 1 } 1 1 0 0 (2 ^ 37)) s) (fun t => t == s.refuse { rq0 with function := none, part := 1 } opCreate 0 noIndex) = true ∧
    goes (exec (.destroyPartition rq0) s) (fun t => (t.partition? 0).isNone && t.toHost == [.done rq0 opDestroy]) = true ∧
    goes (exec (.launch rq0 { rb0 with scratch := 0x4001 }) s) (fun t => t.toHost == [.refused rq0 opLaunch 0x0101 2]) = true ∧
    goes (exec (.launch rq0 rb0) (upWith [])) (fun t => t.toHost == [.accepted rq0 opLaunch, .pageFault 0 0 0x200000] && runIs t Run.life (.paging rb0)) = true := by
  decide +kernel

/-- RunCommands: a launch refused at each check, in their order, with the next checks failing too or not; a page fault of the
launch that waits, and one of another page. -/
theorem witness_launchRefusals : let s := upWith tables0
    let ring (n base : Nat) : RingCfg := { n, base, days := 2, daySize := 1024, prod := 1, cons := 1, wait := 6, index := 20 + n }
    let group (idx : Nat) : GroupCfg := { idx, image := { count := 1, wait := 6, zeros := 0, members := [0] }, index := 30 + idx % 256 }
    let frame (core fmta : Nat) : FrameCfg := { core, entry := 2 ^ 63 + 0x1000, args := Vector.replicate 6 0, fmta, fmtb := 0, scla := 0, sclb := 0, index := 50 + core }
    let live := { s with runs := [{ run1 with sections := [{ base := 0x1800, code := false, bytes := [1] }] }] }
    let held := { s with runs := [run1] }
    let w := { upWith [] with runs := [runFor rb0 rq0 0] }
    ([(s, { rb0 with scratch := 0x4400, almN := 1 }, 0x0101, 2), (s, { rb0 with almN := 1, almS := 5 }, 0x0102, 2),
      (s, { rb0 with rings := [ring 0 0, ring 1 1024] }, 0x0102, 21), (s, { rb0 with sloten := 0xFFFE }, 0x0103, 1),
      (s, { rb0 with slots := 0 }, 0x0103, 1), (s, { rb0 with blocks := [(1, 0)] }, 0x0104, 0), (s, { rb0 with groups := [group 0, group 256] }, 0x0104, 30),
      (s, { rb0 with frames := [frame 0 0, frame 64 0] }, 0x0104, 114), (s, { rb0 with frames := [frame 0 0, frame 1 4] }, 0, 51),
      (s, { rb0 with trapvec := 2 ^ 63 + 2 ^ 57 + 0x1003 }, 0, noIndex), (s, { rb0 with scratchData := [(0x3FFF, [1, 2])] }, 0x0105, noIndex),
      (live, { rb0 with sections := [{ base := 0x1000, code := true, bytes := List.replicate 4 0 }] }, 0x0106, noIndex), (held, rb0, 0x0107, 0)]
      : List (State × RunBlock × Nat × Nat)).all (fun e =>
        goes (exec (.launch rq0 e.2.1) e.1) fun t => t == e.1.refuse rq0 opLaunch e.2.2.1 e.2.2.2) = true ∧
    w.run? 0 0 = some (runFor rb0 rq0 0) ∧ w.waitsFor (runFor rb0 rq0 0) = some (0x200000, true, false, 9) ∧
    goes (exec (.pageFaultRefusal rq0 0 0x1000) w) (fun t => t == w) = true := by
  decide +kernel

/-- The same with one live cluster in each block of the site, so that its network-select tables are small. -/
def upSmall : State := { upWith tables0 with blocks := (List.range 4).map fun b => (4 + b, { Block.reset with live := [0] }) }

/-- RunCommands: no block is cut off, so that a launch whose pages stand is set up. -/
theorem witness_setUp : upSmall.cutOff = [] ∧ upSmall.launchRefused rq0 part0 rb0 = none := by
  decide +kernel

/-- RunCommands: a message to a queue of seven and of eight, on the core and in its saved state, the end of a wait for pages, the
agreement on a start value and its refusal, the start, the ends of a run and its harvest. -/
theorem witness_runCommands : let q (n : Nat) : State := tiny run1 fun k => { k with hostmsg := List.replicate n 5 }
    let kept (n : Nat) : State := { tiny run1 (fun k => { k with run := none }) with saved := [(0, 0, 259, { core0 with hostmsg := List.replicate n 5 })] }
    let w := { upWith [] with runs := [runFor rb0 rq0 0] }
    let life (l : RunLife) (t : Nat) : State := tiny { run1 with life := l, startT := BitVec.ofNat 64 t } fun k => { k with scr := 0x4000 }
    let fin := tiny run1 fun k => { k with retired := true }
    let stopped := tiny { run1 with life := .stopped 2 } fun k => { k with run := none }
    let trap := tiny run1 fun k => k.setStrand 3 { running with tcause := 7 }
    (q 7).named? 0 3 = some 259 ∧ (((q 7).core 259).run.map Prod.fst) = some 0 ∧ (((kept 7).core 259).run.map Prod.fst) = none ∧
    (w.run? 0 0 = some (runFor rb0 rq0 0) ∧ (w.waitsFor (runFor rb0 rq0 0)).isSome) ∧
    (life (.settingUp Undo.empty []) 0).regionClean run1 = true ∧ (∀ c ∈ fin.regionCores run1, fin.finished c = true) ∧
    goes (exec (.hostmsg rq0 3 6) (q 7)) (fun t => (t.core 259).hostmsg == List.replicate 7 5 ++ [6] && t.toHost == [.done rq0 opHostmsg]) = true ∧
    goes (exec (.hostmsg rq0 3 6) (q 8)) (fun t => t == (q 8).refuse rq0 opHostmsg 0 noIndex) = true ∧
    goes (exec (.hostmsg rq0 3 6) (kept 7)) (fun t => (t.saved.map fun e => e.2.2.2.hostmsg) == [List.replicate 7 5 ++ [6]]) = true ∧
    goes (exec (.hostmsg rq0 3 6) (kept 8)) (fun t => t == (kept 8).refuse rq0 opHostmsg 0 noIndex) = true ∧
    goes (exec (.pageFaultRefusal rq0 0 0x200000) w) (fun t => t.runs == [] && t.toHost == [.refused rq0 opLaunch 0x0202 9]) = true ∧
    goes (exec (.stewardStart 0 0) (life (.settingUp Undo.empty []) 0)) (fun t => runIs t (fun r => (r.life, r.startT)) (.agreeing Undo.empty [], 65536) && t.agenda == [.intercalationProposal 0 0 1]) = true ∧
    goes (exec (.intercalationProposal 0 0 1) (life (.agreeing Undo.empty []) 8192)) (fun t => runIs t Run.life .starting) = true ∧
    goes (exec (.intercalationProposal 0 0 1) (life (.agreeing Undo.empty []) 8191)) (fun t => t.runs == [] && (t.core 256).run == none && t.toHost == [.refused run1.asked opLaunch 0x0204 noIndex]) = true ∧
    goes (exec (.stewardStart 0 0) { life .starting 64 with wafer := 64 }) (fun t => runIs t Run.life .live && (t.strand 259 0).life == .running &&
      ((t.strand 259 0).pc, (t.strand 259 0).greg 2) == (2 ^ 63 + 0x1000, 0x4000)) = true ∧
    goes (exec (.endRun rq0 0 none) (tiny run1 id)) (fun t => runIs t Run.life (.stopped 2) && (t.core 259).stopped && t.agenda.length == 4) = true ∧
    goes (exec (.endRun rq0 0 (some (257, 3))) trap) (fun t => runIs t (fun r => (r.life, r.cause, r.causeCore)) (.stopped 4, 7, 16 + 3)) = true ∧
    goes (exec (.harvest 0 0) fin) (fun t => t.runs == [] && (t.core 256).run == none && t.toHost.length == 1) = true ∧
    goes (exec (.harvest 0 0) stopped) (fun t => t.toHost == [.completion { part := 0, ctx := 0, outcome := 2, start := 0, stop := 0, dirty := 0, cause := 0, core := 0 }]) = true := by
  decide +kernel

/-- RunCommands: a line of a section still to be written, at hand and not; an agreement refused, the cores put back. -/
theorem witness_sections : let l : SliceLine := { part := 0, line := 0x20, phys := 2 ^ 37 + 0x1000, ps := 0, d := false, data := 7, dirty := 0 }
    let h := (tiny run1 id).homeSlice 0 0x20
    let up (chip index : Nat) : Chip × Chiplet := (⟨h / 32, chip, index⟩, { Chiplet.reset with state := .ready })
    let r := { run1 with life := .settingUp Undo.empty [0x20], sections := [{ base := 0x1000, code := true, bytes := [1, 2, 3] }] }
    let s : State := { tiny r id with slices := [(h, { Slice.reset with lines := [l] })], chiplets := [up 1 (h / 16 % 2), up 2 0] }
    let old : Undo := { Undo.empty with cores := (List.range 4).map fun i => (256 + i, Core.reset) }
    let a := tiny { run1 with life := .agreeing old [], startT := 8191 } fun k => { k with scr := 0x4000 }
    (tiny r id).lineAtHand 0 0x20 = false ∧ s.lineAtHand 0 0x20 = true ∧ (s.slice (s.homeSlice 0 0x20)).line? 0 0x20 = some l ∧
    goes (exec (.stewardStart 0 0) (tiny r id)) (fun t => t.agenda.contains (.stewardStart 0 0)) = true ∧
    goes (exec (.stewardStart 0 0) s) (fun t => ((t.slice h).line? 0 0x20).map (fun x => lineBytes x.data 0 4) == some 0x030201 &&
      runIs t Run.life (.settingUp { Undo.empty with lines := [(0x20, 7)] } [])) = true ∧
    (∀ e ∈ old.cores, e.2.run ≠ some (0, 0)) ∧ (old.cores.map Prod.fst).Nodup ∧
    goes (exec (.intercalationProposal 0 0 1) a) (fun t => t.runs == [] && t.core 256 == (a.core 256).putBack Core.reset) = true := by
  decide +kernel

/-- RunCommands: a region whose L1 still has a refused write-back waits. -/
theorem witness_settingUp : let f : L1Frame := { line := 5, data := 1, dirty := 1, present := 1, filling := false, stale := 0, sent := 0, evict := false, refused := true }
    let s := tiny { run1 with life := .settingUp Undo.empty [] } fun k => { k with l1 := [(300, f)] }
    s.regionClean run1 = false ∧ (s.core 256).refusedLine?.isSome = true ∧
    goes (exec (.stewardStart 0 0) s) (fun t => t.agenda == [.writebackRetry 256, .writebackRetry 257, .writebackRetry 258, .writebackRetry 259] &&
      runIs t Run.startT 65536) = true := by
  decide +kernel

/-- A lease endpoint's change that waits. -/
def waiting1 (op : Nat) (move : Option Move) (seq : Nat) : Change := { asked := rq0, op, marks := [(1, seq)], move }

/-- EndpointCommands: pages mapped, kept, cleared, moved and unmapped; a page that a run pins. -/
theorem witness_pages : let s := upWith tables0
    let leaf : Leaf := { frame := 2 ^ 25 + 7, tier := 0, ps := 0, writable := true, executable := false }
    let kept : Leaf := { frame := 2 ^ 25 + 5, tier := 0, ps := 0, writable := true, executable := true }
    let pin := { s with runs := [run1] }
    let dirty := { s with mem := wordsMem [(2 ^ 37, 1 + (2 ^ 25 + 1) * 4096), (2 ^ 37 + 0x1000, 1 + (2 ^ 25 + 2) * 4096), (2 ^ 37 + 0x2000, 1 + (2 ^ 25 + 3) * 4096),
      (2 ^ 37 + 0x3000, 1 + (2 ^ 25 + 4) * 4096), (2 ^ 37 + 0x4008, 1 + 4 + 8 + 32 + (2 ^ 25 + 5) * 4096), (2 ^ 37 + 0x5000, 0x77)] }
    let va : Word := 2 ^ 63 + 0x1000
    s.leafOf 0 0x1000 = some { raw := 1 + 4 + 8 + 16 + (2 ^ 25 + 5) * 4096, at_ := 2 ^ 37 + 0x4008 } ∧ s.leafOf 0 0x2000 = none ∧
    s.pinnedPage 0 0x1000 4096 = false ∧ s.moving 0 0x1000 = false ∧ s.logRoom part0 = true ∧ s.changes = [] ∧
    pin.pinnedPage 0 0x1000 4096 = true ∧ part0.ownsFrame { raw := leafEntry leaf, at_ := 0 } = true ∧ (dirty.leafOf 0 0x1000).map Pte.d = some true ∧
    Memory.wf s.mem = true ∧ Memory.wf dirty.mem = true ∧ leafEntry kept = 1 + 4 + 8 + 16 + (2 ^ 25 + 5) * 4096 ∧
    (match (s.accept rq0 opMap).tableFor part0 0x2000 0 5 4 part0.ptroot [] with
      | some (tab, u) => tab == 2 ^ 37 + 0x4000 && (u.putLeaf part0 0x2000 leaf tab).map Prod.fst == some false
      | none => false) = true ∧
    goes (exec (.mapPage rq0 (2 ^ 63 + 0x2000) leaf []) s) (fun t => t.load (2 ^ 37 + 0x4010) 8 == leafEntry leaf && t.toHost == [.done rq0 opMap]) = true ∧
    goes (exec (.mapPage rq0 va leaf []) s) (fun t => t.toHost == [.accepted rq0 opMap] && t.changes.length == 1) = true ∧
    goes (exec (.mapPage rq0 va kept []) s) (fun t => t.toHost == [.done rq0 opMap] && t.mem == s.mem) = true ∧
    goes (exec (.unmapPage rq0 va) s) (fun t => t.load (2 ^ 37 + 0x4008) 8 == 0 && (t.reticle 1).invLog == [1] && t.agenda == [.unmapPage rq0 va]) = true ∧
    goes (exec (.unmapPage rq0 (2 ^ 63 + 0x2000)) s) (fun t => t == s.refuse rq0 opUnmap 0 noIndex) = true ∧
    goes (exec (.unmapPage rq0 va) pin) (fun t => t == pin.refuse rq0 opUnmap 0 noIndex) = true ∧
    goes (exec (.unmapPage rqWrong va) s) (fun t => t == s.refuse rqWrong opUnmap 0 noIndex) = true ∧
    goes (exec (.clearD rq0 va) dirty) (fun t => t.load (2 ^ 37 + 0x4008) 8 == 1 + 4 + 8 + (2 ^ 25 + 5) * 4096) = true ∧
    goes (exec (.clearD rq0 va) s) (fun t => t.toHost == [.done rq0 opClearD]) = true ∧
    goes (exec (.dirtyQuery rq0 va) dirty) (fun t => t.toHost == [.data rq0 opDirty [1], .done rq0 opDirty]) = true := by
  decide +kernel

/-- CacheAndLockEvents: a merge of two entries of the page, whose D is clear, and of one whose D is set. -/
theorem witness_dirtyMerge : let s (d : Nat) (l : List Word) : State := { upWith tables0 with
      mem := wordsMem [(2 ^ 37, 1 + (2 ^ 25 + 1) * 4096), (2 ^ 37 + 0x1000, 1 + (2 ^ 25 + 2) * 4096), (2 ^ 37 + 0x2000, 1 + (2 ^ 25 + 3) * 4096),
        (2 ^ 37 + 0x3000, 1 + (2 ^ 25 + 4) * 4096), (2 ^ 37 + 0x4008, 1 + 4 + 8 + d + (2 ^ 25 + 5) * 4096)]
      reticles := [(1, { Reticle.reset with dirtyLog := l, seq := 3 })] }
    let raw := 1 + 4 + 8 + (2 ^ 25 + 5) * 4096
    (s 0 []).partAt 1 = some part0 ∧ Memory.wf (s 0 [1, 1]).mem = true ∧
    (s 0 []).leafOf 0 0x1000 = some { raw, at_ := 2 ^ 37 + 0x4008 } ∧ ((s 32 []).leafOf 0 0x1000).map Pte.d = some true ∧
    (Pte.copies { raw, at_ := 2 ^ 37 + 0x4008 }) = [2 ^ 37 + 0x4008] ∧
    goes (exec (.dirtyLogMerge 1) (s 0 [1, 1])) (fun t => t.load (2 ^ 37 + 0x4008) 8 == raw + 32 && (t.reticle 1).dirtyLog == []) = true ∧
    goes (exec (.dirtyLogMerge 1) (s 32 [1])) (fun t => t.mem == (s 32 []).mem) = true := by
  decide +kernel

/-- EndpointCommands: a MAP refused: of a page that a lease covers, in a larger leaf that one covers, and over a table page; a clear of a
page that is not mapped. -/
theorem witness_mapRefusals : let s := upWith tables0
    let wide := { s with runs := [{ run1 with lease := [{ base := 0x1000, len := 0x2000, read := true, write := true, exec := true, index := 0 }] }] }
    let leaf (ps : Nat) : Leaf := { frame := 2 ^ 25 + 0x600, tier := 0, ps, writable := true, executable := false }
    let refuses (s : State) (i : Instr) (op : Nat) : Bool := goes (exec i s) fun t => t == s.refuse rq0 op 0 noIndex
    (wide.pinnedPage 0 0x2000 4096 = true ∧ wide.leafOf 0 0x2000 = none ∧ part0.ownsFrame { raw := leafEntry (leaf 9), at_ := 0 } = true ∧
      s.leafOf 0 0 = none ∧ s.movingIn 0 0 0x200000 = false) ∧
    (match (s.accept rq0 opMap).tableFor part0 0 (leafLevel 9) 5 4 part0.ptroot [] with
      | some (tab, u) => (u.putLeaf part0 0 (leaf 9) tab).isNone
      | none => false) = true ∧
    refuses wide (.mapPage rq0 (2 ^ 63 + 0x2000) (leaf 0) []) opMap = true ∧ refuses s (.mapPage rq0 (2 ^ 63) (leaf 9) []) opMap = true ∧
    refuses s (.clearD rq0 (2 ^ 63 + 0x2000)) opClearD = true := by
  decide +kernel

/-- EndpointCommands: a change whose entries are not yet applied, and are; a MOVE through its steps, to a frame that may hold it. -/
theorem witness_moves : let m : Move := { page := 0x1000, ps := 0, raw := 1 + 4 + 8 + 16 + (2 ^ 25 + 5) * 4096, at_ := 2 ^ 37 + 0x4008, frame := 2 ^ 25 + 9, flushed := false }
    let at_ (x : Change) : State := { upWith tables0 with changes := [x], reticles := [(1, { Reticle.reset with seq := 1, invLog := [1] })] }
    let va : Word := 2 ^ 63 + 0x1000
    let done := waiting1 opMove (some { m with flushed := true }) 0
    part0.ownsFrame m.target = true ∧ (upWith tables0).keptBack part0 m.target = false ∧ part0.ownsFrame { m with frame := 0 }.target = false ∧
    (upWith tables0).keptBack part0 { m with frame := 2 ^ 25 + 1 }.target = true ∧
    (at_ (waiting1 opUnmap none 0)).change? rq0 opUnmap = some (waiting1 opUnmap none 0) ∧ (at_ (waiting1 opUnmap none 0)).logsApplied [(1, 0)] = true ∧
    (at_ (waiting1 opUnmap none 1)).logsApplied [(1, 1)] = false ∧
    goes (exec (.movePage rq0 va (2 ^ 25 + 9)) (upWith tables0)) (fun t => (t.changes.map Change.move) == [some m] && t.load (2 ^ 37 + 0x4008) 8 == m.raw - 1) = true ∧
    goes (exec (.unmapPage rq0 va) (at_ (waiting1 opUnmap none 0))) (fun t => t.changes == [] && t.toHost == [.done rq0 opUnmap]) = true ∧
    goes (exec (.unmapPage rq0 va) (at_ (waiting1 opUnmap none 1))) (fun t => t.agenda == [.unmapPage rq0 va] && t.toHost == []) = true ∧
    goes (exec (.movePage rq0 va 0) (at_ (waiting1 opMove (some m) 1))) (fun t => t.agenda == [.movePage rq0 va 0]) = true ∧
    goes (exec (.movePage rq0 va 0) (at_ (waiting1 opMove (some m) 0))) (fun t => t.changes == [done]) = true ∧
    goes (exec (.movePage rq0 va 0) (at_ done)) (fun _ => true) = true ∧
    (m.ps = 0 ∧ m.entry.ps = 0 ∧ (m.target.cached m.page).key m.page = 2 ^ 37 + 0x9000 ∧ tierKey 0 (m.at_ / 8 * 8) + 8 ≤ 2 ^ 37 + 0x9000) := by
  decide +kernel

/-- EndpointCommands: groups, keys, the journal and the start records; an unwrapped key is none or some. -/
theorem witness_endpoints : let s := upWith []
    let im : GroupImage := { count := 1, wait := 6, zeros := 0, members := [0] }
    let g := { s with groups := [{ group255 with image := im, members := [256], expected := [256], run := none }] }
    let k := s.setKeySlot 63 { key := some (0, 5), gen := 2 }
    let rec_ := { s with startRecords := [{ chip := ⟨1, 0, 0⟩, state := 2, fail := 0, action := 0, attempts := 1 }] }
    let old : JournalEntry := { seq := 0, part := 0, what := .routingAborted }
    let other : JournalEntry := { seq := 1, part := 3, what := .routingAborted }
    let j := { rec_ with journal := [old, other] }
    s.groupTrap ⟨0, 255⟩ im = none ∧ s.groupMembers 0 im = some [256] ∧ g.groupHeld ⟨0, 255⟩ = false ∧ (g.group? ⟨0, 255⟩).isSome = true ∧
    (s.keySlot 63).key = none ∧ (k.keySlot 63).key = some (0, 5) ∧
    (Config.unwrapKey 7 = none ∨ ∃ key, Config.unwrapKey 7 = some key) ∧
    goes (exec (.groupTableWrite rq0 255 im) s) (fun t => (t.group? ⟨0, 255⟩).map Group.members == some [256] && t.toHost == [.done rq0 opGroupWrite]) = true ∧
    goes (exec (.groupTableWrite rq0 255 { im with count := 0, members := [] }) g) (fun t => (t.group? ⟨0, 255⟩).isNone) = true ∧
    goes (exec (.groupTableRead rq0 255) g) (fun t => t.toHost == [.data rq0 opGroupRead [1, 6, 0], .done rq0 opGroupRead]) = true ∧
    goes (exec (.keyClear rq0 63) k) (fun t => t.keySlot 63 == { key := none, gen := 3 } && t.toHost == [.done rq0 opKeyClear]) = true ∧
    goes (exec (.setWriteSlot rq0 63) k) (fun t => (t.partitions.map Partition.writeSlot) == [some 63]) = true ∧
    goes (exec (.journalRead rqm 1) j) (fun t => t.toHost == [.journal rqm [other, { seq := 7, part := 0xFFFF, what := .accepted opJournal }] j.startRecords, .done rqm opJournal]) = true ∧
    goes (exec (.journalRead rq0 0) j) (fun t => t.toHost == [.journal rq0 [old, { seq := 7, part := 0, what := .accepted opJournal }] [], .done rq0 opJournal]) = true ∧
    goes (exec (.startRecord rqm ⟨1, 0, 0⟩ 1) rec_) (fun t => (t.startRecords.map StartRecord.action) == [1]) = true ∧
    goes (exec (.startRecord rqm ⟨1, 0, 0⟩ 2) rec_) (fun t => t == rec_.refuse rqm opStartRecord 0 noIndex) = true ∧
    goes (exec (.startRecord rq0 ⟨1, 0, 0⟩ 1) rec_) (fun t => t == rec_.refuse rq0 opStartRecord 0 noIndex) = true :=
  ⟨by decide +kernel, by decide +kernel, by decide +kernel, by decide +kernel, by decide +kernel, by decide +kernel,
    (by cases h : Config.unwrapKey 7 with
      | none => exact .inl rfl
      | some key => exact .inr ⟨key, rfl⟩), by decide +kernel⟩

/-- ResetsAndPower: four sites to retention and back, five off and on again, busy sites; resets keep the mode bits. -/
theorem witness_power : let s := { upWith tables0 with journal := [{ seq := 0, part := 0, what := .routingAborted }] }
    let kept := { s with lowPower := [(1, false)] }
    let off := { s with lowPower := [(1, true)], chiplets := [(⟨1, 0, 0⟩, Chiplet.reset)] }
    let busy := tiny run1 fun k => k.setStrand 0 { running with status := 0x8B }
    s.sitesBusy [1, 2, 3, 4] = false ∧ (∀ x ∈ [1, 2, 3, 4, 6], Config.isCompute x = true) ∧ s.sitesBusy [1, 2, 3, 4, 6] = false ∧ s.sitesLeased [1, 2, 3, 4, 6] = false ∧
    (1, false) ∈ kept.lowPower ∧ (1, true) ∈ off.lowPower ∧ off.startRecords = [] ∧ busy.sitesBusy [1] = true ∧ s.lowPower = [] ∧ kept.slices = [] ∧
    goes (exec (.retentionEntry rqm [1]) busy) (fun t => t == busy.refuse rqm opPower 0 noIndex) = true ∧
    goes (exec (.powerOff rq0 [1]) s) (fun t => t == s.refuse rq0 opPower 0 noIndex) = true ∧
    goes (exec (.retentionEntry rqm [1, 2, 3, 4]) State.reset) (fun t => t.lowPower == [(1, false), (2, false), (3, false), (4, false)]) = true ∧
    goes (exec (.retentionExit rqm [1]) { kept with partitions := [] }) (fun t => t.lowPower == []) = true ∧
    goes (exec (.powerOff rqm [1, 2, 3, 4, 6]) { s with partitions := [] }) (fun t => t.bringup ⟨1, 0, 0⟩ == .dark) = true ∧
    goes (exec (.powerOn rqm [1]) { off with partitions := [] }) (fun t => t.lowPower == [] && t.bringup ⟨1, 0, 0⟩ == .powerGood) = true ∧
    goes (exec .powerLoss s) (fun t => t == { State.reset with journal := s.journal }) = true ∧
    goes (exec (.warmReset rqm) busy) (fun t => t.runs == [] && (t.core 256).run == none && (t.strand 256 0).status == 3 && (t.journal.map JournalEntry.what).contains (.reset false)) = true ∧
    goes (exec (.coldReset rqm) { s with firmware := 1, nextFirmware := some 2 }) (fun t => t.firmware == 2 && t.nextFirmware == none && t.bringup ⟨1, 0, 0⟩ == .linksTrained) = true := by
  decide +kernel

/-- A module in which a block is at a step of the procession, its parent and its neighbour to the east LINKS_TRAINED. -/
def atStep (b : Bringup) : State :=
  { State.reset with
    modulePower := true
    chiplets := [(⟨1, 0, 1⟩, { Chiplet.reset with state := b, parent := some ⟨1, 2, 0⟩, origin := 3 }), (⟨1, 2, 0⟩, { Chiplet.reset with state := .ready }),
      (⟨2, 0, 0⟩, { Chiplet.reset with state := .linksTrained })] }

/-- BringUpAndSupply: the steps of a chiplet, a self-test at four and at three live clusters, an overrun, a wavefront, records of each
ACTION. -/
theorem witness_bringUp : let c : Chip := ⟨1, 0, 1⟩
    let parent := { atStep .powerGood with chiplets := [(c, { Chiplet.reset with state := .linksTrained, parent := some ⟨1, 2, 0⟩, origin := 3 })] }
    let acts (a : Nat) : State := { atStep .clockLocked with startRecords := [{ chip := c, state := 2, fail := 0, action := a, attempts := 1 }] }
    let alone := { atStep .clockLocked with chiplets := (atStep .clockLocked).chiplets.take 2 }
    (atStep .dark).record? c = none ∧ (atStep .dark).fed c = true ∧ (atStep .clockLocked).linked c = true ∧ alone.linked c = false ∧
    (atStep .selfTestPassed).recordable c = true ∧ 4 ≤ ((atStep .configLoaded).chiplet c).state.code ∧
    (parent.chiplet c).parent = some ⟨1, 2, 0⟩ ∧ (parent.chiplet c).state.code < 4 ∧
    goes (exec (.powerGood c) (atStep .dark)) (fun t => t.bringup c == .powerGood && t.journal.length == 1) = true ∧
    goes (exec (.clockLocked c) (atStep .dark)) (fun t => t == atStep .dark) = true ∧
    goes (exec (.clockLocked c) (atStep .powerGood)) (fun t => t.bringup c == .clockLocked) = true ∧
    goes (exec (.linksTrained c) (atStep .clockLocked)) (fun t => t.bringup c == .linksTrained) = true ∧ goes (exec (.linksTrained c) alone) (fun t => t == alone) = true ∧
    goes (exec (.chipReady c) (atStep .selfTestPassed)) (fun t => t.bringup c == .ready) = true ∧ goes (exec (.chipReady c) alone) (fun t => t == alone) = true ∧
    goes (exec (.selfTestPassed c [0, 5, 19, 7]) (atStep .configLoaded)) (fun t => t.bringup c == .selfTestPassed && (t.block 5).live == [0, 5, 7, 19]) = true ∧
    goes (exec (.selfTestPassed c [0, 5, 19]) (atStep .configLoaded)) (fun t => t.bringup c == .fenced) = true ∧
    goes (exec (.bringupLimitOverrun c 3) (atStep .dark)) (fun t => t.bringup c == .fenced && (t.record? c).map StartRecord.fail == some 3) = true ∧
    goes (exec (.wavefrontArrival c ⟨1, 3, 0⟩ 2) parent) (fun t => t.chiplet c == { Chiplet.reset with state := .powerGood, parent := some ⟨1, 3, 0⟩, origin := 2 }) = true ∧
    goes (exec (.wavefrontArrival c ⟨1, 3, 0⟩ 3) parent) (fun t => t == parent) = true ∧
    goes (exec (.linksTrained c) (acts 1)) (fun t => t.bringup c == .fenced) = true ∧
    goes (exec (.linksTrained c) (acts 2)) (fun t => t.bringup c == .linksTrained && (t.block 5).cap == 1 && t.startRecords == []) = true ∧
    goes (exec (.linksTrained c) (acts 3)) (fun t => (t.chiplet c).halfRate && (t.block 5).cap == 0) = true := by
  decide +kernel

/-- BringUpAndSupply: ACTION 2 at a block of cap 1 and at one of step 1; a wavefront at a service reticle, of its own origin and above it;
chip 3 of one READY. -/
theorem witness_bringUpAgain : let c : Chip := ⟨1, 0, 1⟩
    let y : Chip := ⟨linkSite 0, 3, 0⟩
    let acts (b : Block) : State := { atStep .clockLocked with startRecords := [{ chip := c, state := 2, fail := 0, action := 2, attempts := 1 }], blocks := [(5, b)] }
    let at_ (x : Bringup) : State := { State.reset with modulePower := true, chiplets := [(y, { Chiplet.reset with state := x })] }
    (acts { Block.reset with cap := 1 }).linked c = true ∧ ((at_ .powerGood).chiplet y).parent = none ∧
    goes (exec (.linksTrained c) (acts { Block.reset with cap := 1 })) (fun t => (t.block 5).cap == 2) = true ∧
    goes (exec (.linksTrained c) (acts { Block.reset with step := 1 })) (fun t => (t.block 5).cap == 2) = true ∧
    goes (exec (.wavefrontArrival y ⟨1, 3, 0⟩ (Config.serviceSites.idxOf y.site)) (at_ .powerGood)) (fun t => t == at_ .powerGood) = true ∧
    (at_ .selfTestPassed).recordable y = true ∧ (at_ .selfTestPassed).record? y = none ∧
    goes (exec (.wavefrontArrival c ⟨1, 3, 0⟩ 9) { atStep .dark with chiplets := [] }) (fun t => t.chiplet c == { Chiplet.reset with parent := some ⟨1, 3, 0⟩, origin := 9 }) = true := by
  decide +kernel

/-- A block whose clock is stretched since tick 0, at a tick. -/
def sagging (tick : Nat) : State := { State.reset with blocks := [(5, { Block.reset with stretched := some 0 })], wafer := BitVec.ofNat 64 tick }

/-- A band 3 at step 2, hot or cool since tick 0, at a tick. -/
def banded (hot cool : Bool) (tick : Nat) : State :=
  { State.reset with wafer := BitVec.ofNat 64 tick
                     bands := State.reset.bands.set! 3 { step := 2, milliC := if hot then 105000 else 90000, cool := if cool then some 0 else none, hot := if hot then some 0 else none } }

/-- BringUpAndSupply: bonds and their readings, regulators, droop and the thermal bands, each limit at its bound. -/
theorem witness_supply : let s := State.reset
    let b : Bond := ⟨0, 0, 1, 0⟩
    let near : Bond := ⟨0, 1, 0, 2⟩
    let phases (n : Nat) : State := { s with blocks := [(5, { Block.reset with failedPhases := n })] }
    let read (n : Nat) : State := { s with bondReadings := [(b, 90, n), (near, 60, 0)] }
    b ∉ s.deadBonds ∧ s.neighbourDrops b = [] ∧ (read 2).neighbourDrops b = [60] ∧ s.partitions = [] ∧ (bondBlock ⟨0, 10, 0, 11⟩).isSome = true ∧
    goes (exec (.bondMarkedDead b) s) (fun t => t.deadBonds == [b]) = true ∧
    goes (exec (.regulatorPhaseFailure 1 1) (phases 1)) (fun t => (t.block 5).cap == 0 && (t.block 5).failedPhases == 2) = true ∧
    goes (exec (.regulatorPhaseFailure 1 1) (phases 2)) (fun t => (t.block 5).cap == 1) = true ∧
    goes (exec (.regulatorPhaseFailure 1 1) (phases 4)) (fun t => t.bringup ⟨1, 0, 1⟩ == .fenced) = true ∧
    goes (exec (.droopStretch 1 1) s) (fun t => (t.block 5).stretched == some 0 && t.toHost == [.railLow 1 1 true]) = true ∧
    goes (exec (.droopCap 1 1) (sagging 2250001)) (fun t => (t.block 5).cap == 1) = true ∧ goes (exec (.droopCap 1 1) (sagging 2250000)) (fun t => t == sagging 2250000) = true ∧
    goes (exec (.droopEnd 1 1) (sagging 9)) (fun t => (t.block 5).stretched == none) = true ∧
    goes (exec (.bondSupplyReading b 100) (read 2)) (fun t => t.bondReadings == [(b, 100, 0), (near, 60, 0)]) = true ∧
    goes (exec (.bondSupplyReading b 101) (read 1)) (fun t => t.bondReadings == [(b, 101, 2), (near, 60, 0)] && t.deadBonds == []) = true ∧
    goes (exec (.bondSupplyReading b 101) (read 2)) (fun t => t.deadBonds == [b]) = true ∧
    goes (exec (.thermalReading 3 84999) s) (fun t => (t.band 3).step == 0 && t.toHost == [.temperature 3 84999]) = true ∧
    goes (exec (.thermalReading 3 95000) s) (fun t => (t.band 3).step == 2) = true ∧ goes (exec (.thermalReading 3 105000) s) (fun t => (t.band 3).hot == some 0) = true ∧
    goes (exec (.thermalStepUp 3) (banded false true 225000000)) (fun t => (t.band 3).step == 1) = true ∧
    goes (exec (.thermalStepUp 3) (banded false true 224999999)) (fun t => t == banded false true 224999999) = true ∧
    goes (exec (.thermalFence 3) (banded true false 22499999)) (fun t => t == banded true false 22499999) = true ∧
    goes (exec (.thermalFence 3) (banded true false 22500000)) (fun t => t.bringup ⟨19, 0, 0⟩ == .fenced) = true := by
  decide +kernel

/-- BringUpAndSupply: the values a commit is agreed at, accepted in time and too late, and its end; checksums hold or do not. -/
theorem witness_routing : let table : RoutingTable := { enables := 0xFF, bonds := [], behind := [] }
    let up (accepted : List Nat) : State := { State.reset with update := some { set := 9, loaded := [(5, table)], stop := some 8192, accepted } }
    let all := List.range 42
    ((Config.crcGood table 1 = false ∨ Config.signatureGood 9 2 = false) ∨ (Config.crcGood table 1 = true ∧ Config.signatureGood 9 2 = true)) ∧
    (∀ y, y < 42 → y ∈ all) ∧
    goes (exec (.intercalationProposal 0xFFFF 0 4) (up [])) (fun t => (t.update.map RoutingUpdate.accepted) == some [4]) = true ∧
    goes (exec (.intercalationProposal 0xFFFF 0 4) { up [] with wafer := 1 }) (fun t => t.update == none) = true ∧
    goes (exec .routingTableCommit { up all with wafer := 8192 }) (fun t => t.routing == [(5, table)] && t.update == none) = true ∧
    goes (exec .routingTableCommit { up all with wafer := 8191 }) (fun t => t.routing == []) = true ∧
    goes (exec .routingUpdateAbort (up [])) (fun t => t.update == none && t.journal.length == 1) = true := by
  refine ⟨?_, by decide +kernel, by decide +kernel⟩
  cases Config.crcGood _ 1 <;> cases Config.signatureGood 9 2 <;> simp

/-- LinksAndErrors: a bind and its refusals, flits of each type and of a bad CRC, a wrong sequence number and a wrong tag, sending again, a
link and a bond that give up, a service reticle that is not READY, and errors of each place. -/
theorem witness_links : let dark := tiny run1 id
    let s := { dark with chiplets := [(⟨linkSite 0, 3, 0⟩, { Chiplet.reset with state := .ready })] }
    let p6 := { s with partitions := [{ part0 with c0 := 0 }] }
    let sent : LinkFlit := { type := 1, vc := 0, seq := 9, ack := 0, linkId := 5, payload := 0, crcGood := true }
    let bind : LinkBinding := { part := 0, tag := 5, base := 2 ^ 63 + 0x1000, len := 0x1000 }
    let waiting (n : Nat) (x : Option (Nat × Nat)) : State :=
      s.setLink 0 { Link.reset with bound := some bind, unacked := [(sent, x)], resends := n }
    let bound := waiting 0 (some (0, 0x20))
    let flit (type seq tag : Nat) (good : Bool) : LinkFlit := { type, vc := 0, seq, ack := 9, linkId := tag, payload := 1000 + 2 ^ 64 * 24, crcGood := good }
    let err (p : EccPlace) : EccError := { place := p, syndrome := 3 }
    let b : Bond := ⟨15, 0, 16, 0⟩
    let busy := { s with agenda := [.theftRequest 512 256 0] }
    (s.link 0).up = true ∧ (bound.link 0).unacked ≠ [] ∧ bound.run? 0 0 = some run1 ∧ s.serviceReady (linkSite 0) = true ∧
    dark.serviceReady (linkSite 0) = false ∧
    (Config.signatureGood 1 2 = true ∨ Config.signatureGood 1 2 = false) ∧ (part0.rel? (linkSite 0)) = none ∧
    (∀ b f, ({ bound with runs := [] }).linkWrites b f = []) ∧
    (((p6.partition? 0).bind fun p => p.rel? (linkSite 0)).isSome = true ∧ firstUnleased run1.lease 0x1000 0x1000 .write = none ∧
      pageLeased run1.lease (0x20 * 128) .write = true) ∧
    goes (exec (.linkBind rq0 0 5 (2 ^ 63 + 0x1000) 0x1000) p6) (fun t => (t.link 0).bound == some bind && t.toHost == [.done rq0 opBind]) = true ∧
    goes (exec (.linkBind rq0 0 5 (2 ^ 63 + 0x1000) 0x1001) p6) (fun t => t == p6.refuse rq0 opBind 0 noIndex) = true ∧
    goes (exec (.linkBind rq0 0 5 (2 ^ 63 + 0x1000) 0x1000) { p6 with chiplets := [] }) (fun t => (t.link 0).bound == none) = true ∧
    goes (exec (.linkFlitReceive 0 (flit 2 1 0 true)) dark) (fun t => t == dark) = true ∧ goes (exec (.calendsFlitSend 0) dark) (fun t => t == dark) = true ∧
    goes (exec (.linkFlitReceive 0 (flit 0 7 0 true)) bound) (fun t => (t.link 0).unacked == [] && (t.link 0).acked == 9) = true ∧
    goes (exec (.linkFlitReceive 0 (flit 2 1 0 true)) s) (fun t => t.wafer == 1024 && (t.link 0).received == 1 && (t.link 0).lanes.length == 1) = true ∧
    goes (exec (.linkFlitReceive 0 (flit 2 2 0 true)) s) (fun t => t.wafer == 0 && (t.link 0).lanes == []) = true ∧
    goes (exec (.linkFlitReceive 0 (flit 1 1 4 true)) bound) (fun t => (t.reports.map Report.kind) == [3]) = true ∧
    goes (exec (.linkFlitReceive 0 (flit 1 1 5 false)) bound) (fun t => (t.reports.map Report.kind) == [3] && (t.link 0).retried.length == 1 && t.toHost == []) = true ∧
    goes (exec (.linkRetryExhausted (.higrim 0)) (waiting 7 (some (0, 0x20)))) (fun t => t == waiting 7 (some (0, 0x20))) = true ∧
    goes (exec (.linkRetryExhausted (.higrim 0)) (waiting 8 (some (0, 0x20)))) (fun t =>
      !(t.link 0).up && runIs t Run.life (.stopped 1) && (t.reports.map Report.kind) == [4]) = true ∧
    goes (exec (.linkRetryExhausted (.higrim 0)) (waiting 8 none)) (fun t => !(t.link 0).up && t.runs == s.runs) = true ∧
    (busy.wayEnds (.theftRequest 512 256 0) = some (.pad 256, .pad 512) ∧ busy.crosses b (.theftRequest 512 256 0) = true ∧ 256 ∈ busy.bereaved (.theftRequest 512 256 0)) ∧
    goes (exec (.calendsFlitSend 0) s) (fun t => (t.link 0).sent == 1 && (t.link 0).unacked.length == 1 && (t.link 0).resends == 0) = true ∧
    goes (exec (.calendsFlitSend 0) bound) (fun t => (t.link 0).sent == 1 && (t.link 0).lanes.length == 2 && (t.link 0).resends == 1) = true ∧
    goes (exec (.calendsFlitSend 0) (waiting 8 none)) (fun t => t.agenda == [.linkRetryExhausted (.higrim 0)]) = true ∧
    goes (exec (.eccErrorDetected (err (.corrected 1 2))) s) (fun t => (t.reports.map fun r => (r.kind, r.cause, r.location)) == [(0, 0, 1)]) = true ∧
    goes (exec (.eccErrorDetected (err (.line 77))) s) (fun t => t.poison == [77] && (t.reports.map fun r => (r.kind, r.cause)) == [(1, 0x13)]) = true ∧
    goes (exec (.eccErrorDetected (err (.strandState 256 3))) s) (fun t => (t.strand 256 3).life == .faulted && (t.strand 256 3).tcause == 0x13) = true ∧
    goes (exec (.eccErrorDetected (err (.coreState 256 0))) s) (fun t => (t.strand 256 15).life == .faulted && runIs t Run.life (.stopped 1)) = true := by
  refine ⟨by decide +kernel, by decide +kernel, by decide +kernel, by decide +kernel, by decide +kernel, ?_, by decide +kernel, ?_,
    by decide +kernel, by decide +kernel⟩
  · cases Config.signatureGood 1 2 <;> simp
  · intro b f
    simp only [State.linkWrites, List.filterMap_eq_nil_iff]
    intro i _
    cases Config.linkWrite _ <;> simp [State.leasedFor]

/-- LinksAndErrors: the first and the last byte of an aperture. -/
theorem witness_aperture : aperture? (apertureKey 0 0) = some (0, 0) ∧ aperture? (apertureKey 23 (2 ^ 26 - 1)) = some (23, 2 ^ 26 - 1) ∧
    aperture? 0x1000 = none ∧ (Pte.hole { raw := leafEntry { frame := 1, tier := 0, ps := 0, writable := true, executable := false }, at_ := 0 }) = false :=
  ⟨aperture?_key 0 0, aperture?_key 23 (2 ^ 26 - 1), by decide +kernel, by decide +kernel⟩

/-- LinksAndErrors: a bond that gives up stops the run of a message that crosses it. -/
theorem witness_bondDown : let s := { tiny run1 id with agenda := [.theftRequest 512 256 0], partitions := [] }
    goes (exec (.linkRetryExhausted (.bond ⟨15, 0, 16, 0⟩)) s) (fun t => t.deadBonds == [⟨15, 0, 16, 0⟩] && runIs t Run.life (.stopped 1) && (t.reports.map Report.kind) == [4]) = true := by
  decide +kernel

end Sys2Proof.Tests
end

section
/-! PROOFS. The statements of `00_scope.md`: the constant registers (R9, R97), and resets, low power and loss of power
(R3, R356, R361). -/

namespace Sys2Proof.Machine

/-- Settles O9. -/
theorem constantRegisters : Obligations.ConstantRegisters := by
  intro t v
  exact ⟨t.greg_zero, t.preg_zero, t.setGreg_zero v, t.setPreg_zero v⟩

/-! ### What write-backs, merges and harvests leave alone

Before a reset clears the module, lease changes are completed, dirty lines are written back and runs are harvested; a slice
that wakes serves what waits. All of these work on memory, slices, logs and messages: none trains a chiplet, touches a
strand's registers or starts a run. -/

/-- What a reset leaves of a core (R275, R276, R356), and what it computes the modes of its strands from. -/
def Core.lasting (k : Core) : Vector Strand 16 × Nat × Word × BitVec 16 := (k.strands, k.scr, k.tvec, k.pctx)

/-- The name of a run: its partition and context. -/
def Run.key (r : Run) : Nat × Nat := (r.part, r.ctx)

/-- A state differs from an earlier one in nothing that a reset or a power command reads or leaves: messages to the host are
only added, and no run is new. -/
structure State.Keeps (s t : State) : Prop where
  chiplets : t.chiplets = s.chiplets
  firmware : t.firmware = s.firmware
  nextFirmware : t.nextFirmware = s.nextFirmware
  lowPower : t.lowPower = s.lowPower
  toHost : s.toHost <+: t.toHost
  runs : t.runs.map Run.key ⊆ s.runs.map Run.key
  cores : ∀ c, (t.core c).lasting = (s.core c).lasting

/-- The fields that `State.Keeps` speaks of. -/
def State.house (s : State) :=
  (s.chiplets, s.firmware, s.nextFirmware, s.lowPower, s.toHost, s.runs, s.cores)

theorem State.Keeps.of_house {s t : State} (h : t.house = s.house) : s.Keeps t := by
  simp only [State.house, Prod.mk.injEq] at h
  obtain ⟨hch, hfw, hnf, hlp, hth, hr, hc⟩ := h
  exact ⟨hch, hfw, hnf, hlp, hth ▸ List.prefix_refl _, by simp [hr], fun c => by simp [State.core, hc]⟩

theorem State.Keeps.refl (s : State) : s.Keeps s := .of_house rfl

theorem State.Keeps.trans {s t u : State} (h : s.Keeps t) (g : t.Keeps u) : s.Keeps u where
  chiplets := g.chiplets.trans h.chiplets
  firmware := g.firmware.trans h.firmware
  nextFirmware := g.nextFirmware.trans h.nextFirmware
  lowPower := g.lowPower.trans h.lowPower
  toHost := h.toHost.trans g.toHost
  runs := List.Subset.trans g.runs h.runs
  cores c := (g.cores c).trans (h.cores c)

/-- A fold keeps what each of its steps keeps. `view` is the state within the accumulator. -/
theorem State.Keeps.foldl_view {α β : Type} (view : β → State) (f : β → α → β) (l : List α) (b : β)
    (h : ∀ b x, (view b).Keeps (view (f b x))) : (view b).Keeps (view (l.foldl f b)) :=
  List.foldlRecOn l f (motive := fun y => (view b).Keeps (view y)) (.refl _) fun y hy x _ => hy.trans (h y x)

theorem State.Keeps.foldl {α : Type} (f : State → α → State) (l : List α) (s : State) (h : ∀ u x, State.Keeps u (f u x)) :
    s.Keeps (l.foldl f s) := .foldl_view id f l s h

theorem State.Keeps.ite {s t u : State} {p : Prop} [Decidable p] (h : s.Keeps t) (g : s.Keeps u) : s.Keeps (if p then t else u) := by
  split
  · exact h
  · exact g

theorem State.keeps_tell (s : State) (m : ToHost) : s.Keeps (s.tell m) where
  chiplets := rfl
  firmware := rfl
  nextFirmware := rfl
  lowPower := rfl
  toHost := List.prefix_append _ _
  runs := List.Subset.refl _
  cores _ := rfl

theorem State.keeps_note (s : State) (p : Nat) (w : JournalWhat) : s.Keeps (s.note p w) := .of_house rfl

theorem State.keeps_fulfil (s : State) (rq : Request) (op : Nat) : s.Keeps (s.fulfil rq op) :=
  (Keeps.of_house rfl : s.Keeps (s.noteAs rq.seq rq.part (.done op))).trans (keeps_tell _ _)

/-! What the end of a command leaves alone (R339): it journals and answers, no more. -/

@[simp] theorem State.fulfil_mem (s : State) (rq : Request) (op : Nat) : (s.fulfil rq op).mem = s.mem := rfl
@[simp] theorem State.fulfil_byte (s : State) (rq : Request) (op k : Nat) : (s.fulfil rq op).byte k = s.byte k := rfl
@[simp] theorem State.fulfil_core (s : State) (rq : Request) (op c : Nat) : (s.fulfil rq op).core c = s.core c := rfl
@[simp] theorem State.fulfil_lowPower (s : State) (rq : Request) (op : Nat) : (s.fulfil rq op).lowPower = s.lowPower := rfl
@[simp] theorem State.fulfil_bringup (s : State) (rq : Request) (op : Nat) (chip : Chip) :
    (s.fulfil rq op).bringup chip = s.bringup chip := rfl
@[simp] theorem State.note_core (s : State) (p : Nat) (w : JournalWhat) (c : Nat) : (s.note p w).core c = s.core c := rfl

theorem State.keeps_report (s : State) (r : Report) : s.Keeps (s.report r) :=
  (Keeps.of_house rfl : s.Keeps (s.journalReport r)).trans (keeps_tell _ _)

theorem State.keeps_poisonReport (s : State) (time loc addr : Word) (part key : Nat) (why : Cause) :
    s.Keeps (s.poisonReport time loc addr part key why) := s.keeps_report _

/-- A core may change in everything but its lasting registers. -/
theorem State.keeps_modCore (s : State) (c : Nat) (f : Core → Core) (h : ∀ k : Core, (f k).lasting = k.lasting) :
    s.Keeps (s.modCore c f) where
  chiplets := rfl
  firmware := rfl
  nextFirmware := rfl
  lowPower := rfl
  toHost := List.prefix_refl _
  runs := List.Subset.refl _
  cores d := by
    by_cases hd : d = c
    · rw [hd, State.core_modCore, h]
    · rw [State.core_modCore_other _ _ _ _ hd]

/-! #### Memory, serials and tables -/

theorem State.keeps_store (s : State) (k n v : Nat) : s.Keeps (s.store k n v) := by
  obtain ⟨m, h⟩ := s.store_frame k n v
  rw [h]
  exact .of_house rfl

theorem State.keeps_bump (s : State) (k : Nat) : s.Keeps (s.bump k).2 := by
  obtain ⟨_, _, h⟩ := s.bump_frame k
  rw [h]
  exact .of_house rfl

theorem State.keeps_serial (s : State) (k : Nat) : s.Keeps (s.serial k).2 := by
  obtain ⟨_, _, h⟩ := s.serial_frame k
  rw [h]
  exact .of_house rfl

theorem State.keeps_setMasked (s : State) (key : Nat) (data : Line) (mask : LineMask) : s.Keeps (s.setMasked key data mask) := by
  refine .foldl _ _ _ fun u i => ?_
  split
  · exact .of_house rfl
  · exact .refl _

theorem State.keeps_copyCells (s : State) (a b n : Nat) : s.Keeps (s.copyCells a b n) := by
  induction n with
  | zero => exact .refl _
  | succ n ih => exact ih.trans (.of_house rfl)

theorem State.keeps_writeLeaf (s : State) (e : Pte) (v : Nat) : s.Keeps (s.writeLeaf e v) :=
  .foldl _ _ _ fun u _ => u.keeps_store _ _ _

theorem State.keeps_setPin (s : State) (part va : Nat) (pin : Bool) : s.Keeps (s.setPin part va pin) := by
  unfold State.setPin
  split
  · exact .refl _
  · split
    · exact .refl _
    · exact s.keeps_writeLeaf _ _

theorem State.keeps_unpin (s : State) (part base len : Nat) : s.Keeps (s.unpin part base len) := by
  refine .foldl _ _ _ fun u va => ?_
  dsimp only
  split
  · exact .refl _
  · split
    · exact .refl _
    · exact u.keeps_setPin _ _ _

/-! #### Slices and their logs (R66, R332, R333) -/

theorem State.keeps_sendData (s : State) (n part line payload : Nat) : s.Keeps (s.sendData n part line payload) := by
  simp only [State.sendData]
  split
  · exact .of_house rfl
  · exact .refl _

theorem State.keeps_writeLine (s : State) (l : SliceLine) : s.Keeps (s.writeLine l) := by
  unfold State.writeLine
  split
  · exact .refl _
  split
  · exact s.keeps_sendData _ _ _ _
  refine (s.keeps_setMasked l.phys l.data l.dirty).trans ?_
  dsimp only
  split
  · exact .refl _
  split
  · exact .refl _
  split <;> exact .of_house rfl

theorem State.keeps_modSlice (s : State) (k : Nat) (f : Slice → Slice) : s.Keeps (s.modSlice k f) := .of_house rfl

theorem State.keeps_installLine (s : State) (k part line : Nat) (e : TEntry) : s.Keeps (s.installLine k part line e) := by
  simp only [State.installLine]
  refine Keeps.trans ?_ (keeps_modSlice _ _ _)
  split
  · exact .refl _
  · exact (s.keeps_writeLine _).trans (.of_house rfl)

theorem State.keeps_ensureLine {s t : State} {part line : Nat} {l : SliceLine} (h : s.ensureLine part line = .ok (l, t)) :
    s.Keeps t := by
  simp only [State.ensureLine] at h
  split at h
  · cases h
    exact .refl _
  split at h
  · cases h
  split at h
  · cases h
    exact (s.keeps_modSlice _ _).trans (keeps_installLine _ _ _ _ _)
  · cases h

theorem State.keeps_mergeEntry (s : State) (part : Nat) (w : Word) : s.Keeps (s.mergeEntry part w).2 := by
  simp only [State.mergeEntry]
  split
  · split
    · exact .of_house rfl
    · exact .refl _
  · split
    · exact .refl _
    · exact s.keeps_writeLeaf _ _

theorem State.keeps_mergeLog (s : State) (site : Nat) : s.Keeps (s.mergeLog site).2 := by
  simp only [State.mergeLog]
  split
  · exact .refl _
  next p _ =>
    have merged := Keeps.foldl_view Prod.snd (fun a w => (a.1 + (a.2.mergeEntry p.num w).1, (a.2.mergeEntry p.num w).2))
      (s.reticle site).dirtyLog (0, s) fun a w => a.2.keeps_mergeEntry p.num w
    exact merged.trans (.of_house rfl)

theorem State.keeps_mergeLogs (s : State) (part : Nat) : s.Keeps (s.mergeLogs part).2 := by
  simp only [State.mergeLogs]
  split
  · exact .refl _
  · exact .foldl_view Prod.snd _ _ (0, s) fun a x => a.2.keeps_mergeLog x

theorem State.keeps_dirtyTouch (s : State) (k : Nat) (l : SliceLine) : s.Keeps (s.dirtyTouch k l).2 := by
  unfold State.dirtyTouch
  dsimp only
  split
  · exact .refl _
  have room : s.Keeps (if 16384 ≤ (s.reticle (k / 32)).dirtyLog.length then (s.mergeLog (k / 32)).2 else s) :=
    .ite (s.keeps_mergeLog _) (.refl _)
  generalize (if 16384 ≤ (s.reticle (k / 32)).dirtyLog.length then (s.mergeLog (k / 32)).2 else s) = u at room ⊢
  refine room.trans ?_
  split <;> dsimp only
  · refine Keeps.trans ?_ (keeps_modSlice _ _ _)
    exact .ite (.of_house rfl) (.of_house rfl)
  · exact .ite (.of_house rfl) (.of_house rfl)

theorem State.keeps_sliceWrite (s : State) (k : Nat) (l : SliceLine) (off n mask v : Nat) :
    s.Keeps (s.sliceWrite k l off n mask v).2 :=
  (s.keeps_dirtyTouch k l).trans ((keeps_modSlice _ _ _).trans (keeps_bump _ _))

theorem State.keeps_applyInv (s : State) (k : Nat) (w : Word) : s.Keeps (s.applyInv k w) := by
  unfold State.applyInv
  exact Keeps.trans (.foldl _ _ _ fun u l => (u.keeps_writeLine l).trans (keeps_modSlice _ _ _)) (keeps_modSlice _ _ _)

theorem State.keeps_applyLog (s : State) (site : Nat) : s.Keeps (s.applyLog site) :=
  Keeps.trans (.foldl _ _ _ fun _ w => .foldl _ _ _ fun u i => u.keeps_applyInv (32 * site + i) w) (.of_house rfl)

theorem State.keeps_overSlices (s : State) (part : Nat) (f : Nat → State → State) (h : ∀ k u, State.Keeps u (f k u)) :
    s.Keeps (s.overSlices part f) := by
  unfold State.overSlices
  split
  · exact .refl _
  · exact .foldl _ _ _ fun u k => h k u

/-! #### Requests that a slice serves (R66, R361) -/

theorem State.keeps_performSlice (s : State) (k : Nat) (q : Req) (l : SliceLine) : s.Keeps (s.performSlice k q l) := by
  have post (u : State) (e : Event) : u.Keeps (u.post e) := .of_house rfl
  unfold State.performSlice
  dsimp only
  refine .ite (post _ _) (.ite (.refl _) ?_)
  split
  · exact (s.keeps_poisonReport _ _ _ _ _ _).trans (post _ _)
  cases q.access with
  | touch f => exact .refl _
  | read n mask => exact post _ _
  | readAck n => exact (s.keeps_serial _).trans (post _ _)
  | write n mask v => exact (Keeps.ite (.refl _) (s.keeps_sliceWrite _ _ _ _ _ _)).trans (post _ _)
  | writeAck n v => exact (s.keeps_sliceWrite _ _ _ _ _ _).trans (post _ _)
  | rmw op sg n x cmp => exact (s.keeps_sliceWrite _ _ _ _ _ _).trans (post _ _)
  | fill => exact post _ _
  | writeback mask data =>
    exact ((s.keeps_dirtyTouch k l).trans (keeps_modSlice _ _ _)).trans ((keeps_bump _ _).trans (post _ _))

theorem State.keeps_serve (s : State) (k fuel : Nat) : s.Keeps (s.serve k fuel) := by
  induction fuel generalizing s with
  | zero => exact .refl _
  | succ fuel ih =>
    unfold State.serve
    split
    · exact .refl _
    split
    · exact .refl _
    split
    · exact (s.keeps_modSlice _ _).trans ((keeps_performSlice _ _ _ _).trans (ih _))
    · split <;> exact .of_house rfl

theorem State.keeps_wakeSlices (s : State) (site : Nat) : s.Keeps (s.wakeSlices site) :=
  .foldl _ _ _ fun u _ => u.keeps_serve _ _

/-- A slice at which nothing waits has nothing to go on with. -/
theorem State.serveAll_idle (s : State) (k : Nat) (h : (s.slice k).waiting = []) : s.serveAll k = s := by
  simp [State.serveAll, State.serve, h]

theorem State.wakeSlices_idle (s : State) (site : Nat) (h : ∀ i, i < 32 → (s.slice (32 * site + i)).waiting = []) :
    s.wakeSlices site = s :=
  List.foldlRecOn (motive := fun u => u = s) _ _ rfl fun u hu i hi => by
    rw [hu, s.serveAll_idle _ (h i (List.mem_range.mp hi))]

/-! #### The stop and the harvest of a run (R309, R331) -/

/-- Stopping cores changes nothing but cores, and none of their lasting registers. -/
theorem State.stopCores_cores (cs : List Nat) (s : State) : ∃ ks,
    cs.foldl (fun s c => s.modCore c fun k => { k with stopped := true }) s = { s with cores := ks } ∧
      ∀ c, (lookupD Core.reset c ks).lasting = (s.core c).lasting := by
  induction cs generalizing s with
  | nil => exact ⟨s.cores, rfl, fun _ => rfl⟩
  | cons d cs ih =>
    obtain ⟨ks, h, hk⟩ := ih (s.modCore d fun k => { k with stopped := true })
    exact ⟨ks, h, fun c => (hk c).trans ((s.keeps_modCore d (fun k => { k with stopped := true }) fun _ => rfl).cores c)⟩

theorem State.modRun_keys (s : State) (part ctx : Nat) (f : Run → Run) (h : ∀ r, (f r).key = r.key) :
    (s.modRun part ctx f).runs.map Run.key = s.runs.map Run.key := by
  simp only [State.modRun, List.map_map]
  refine List.map_congr_left fun r _ => ?_
  simp only [Function.comp]
  split
  · exact h r
  · rfl

/-- What the stop of a run changes: how runs stand, that its cores stand still, and what is in flight. -/
theorem State.stopRun_frame (s : State) (part ctx outcome : Nat) : ∃ rs ks ag,
    s.stopRun part ctx outcome = { s with runs := rs, cores := ks, agenda := ag } ∧ rs.map Run.key = s.runs.map Run.key ∧
      ∀ c, (lookupD Core.reset c ks).lasting = (s.core c).lasting := by
  unfold State.stopRun
  split
  · exact ⟨s.runs, s.cores, s.agenda, rfl, rfl, fun _ => rfl⟩
  next r _ =>
    split
    · exact ⟨s.runs, s.cores, s.agenda, rfl, rfl, fun _ => rfl⟩
    dsimp only
    have keys := s.modRun_keys part ctx (fun r => { r with life := .stopped outcome }) fun _ => rfl
    split
    · obtain ⟨ks, h, hk⟩ := State.stopCores_cores (s.regionCores r) (s.modRun part ctx fun r => { r with life := .stopped outcome })
      rw [h]
      exact ⟨_, ks, _, rfl, keys, hk⟩
    · exact ⟨_, s.cores, _, rfl, keys, fun _ => rfl⟩

theorem State.keeps_stopRun (s : State) (part ctx outcome : Nat) : s.Keeps (s.stopRun part ctx outcome) := by
  obtain ⟨rs, ks, ag, h, hr, hk⟩ := s.stopRun_frame part ctx outcome
  rw [h]
  exact ⟨rfl, rfl, rfl, rfl, List.prefix_refl _, hr ▸ List.Subset.refl _, hk⟩

theorem State.keeps_stopRunOf (s : State) (c outcome : Nat) : s.Keeps (s.stopRunOf c outcome) := by
  unfold State.stopRunOf
  split
  · exact .refl _
  · exact s.keeps_stopRun _ _ _

theorem State.keeps_releaseRun (s : State) (r : Run) (cores : List Nat) : s.Keeps (s.releaseRun r cores) := .of_house rfl

theorem Core.free_lasting (k : Core) (r : Run) : (k.free r).lasting = k.lasting := by
  unfold Core.free
  split <;> rfl

/-- A run and its hold on group entries are forgotten (R331, R336): the step of a harvest at which the run goes. -/
def State.without (s : State) (r : Run) : State :=
  { s with
    groups := s.groups.map fun g => g.free r
    runs := s.runs.filter fun q => !(q.part == r.part && q.ctx == r.ctx) }

theorem State.keeps_without (s : State) (r : Run) : s.Keeps (s.without r) where
  chiplets := rfl
  firmware := rfl
  nextFirmware := rfl
  lowPower := rfl
  toHost := List.prefix_refl _
  runs := List.map_subset _ (List.filter_subset_self _)
  cores _ := rfl

theorem State.without_key (s : State) (r : Run) : r.key ∉ (s.without r).runs.map Run.key := by
  rw [List.mem_map]
  rintro ⟨q, hq, hk⟩
  obtain ⟨hp, hc⟩ := Prod.mk.inj hk
  simp [State.without, hp, hc] at hq

/-- After its run is forgotten, a harvest frees cores, merges logs, clears PINs and reports. -/
theorem State.without_keeps_harvestRun (s : State) (r : Run) (outcome : Nat) :
    ((if outcome = 0 then s else s.releaseRun r (s.regionCores r)).without r).Keeps (s.harvestRun r outcome) := by
  unfold State.harvestRun
  refine Keeps.trans ?_ (keeps_tell _ _)
  refine Keeps.trans ?_ (keeps_note _ _ _)
  refine Keeps.trans ?_ (keeps_unpin _ _ _ _)
  refine Keeps.trans ?_ (.foldl _ _ _ fun u x => u.keeps_unpin _ _ _)
  refine Keeps.trans ?_ (keeps_mergeLogs _ _)
  exact .foldl _ _ _ fun u c => u.keeps_modCore c _ fun k => k.free_lasting r

theorem State.keeps_harvestRun (s : State) (r : Run) (outcome : Nat) : s.Keeps (s.harvestRun r outcome) :=
  have released : s.Keeps (if outcome = 0 then s else s.releaseRun r (s.regionCores r)) :=
    .ite (.refl _) (s.keeps_releaseRun _ _)
  released.trans ((keeps_without _ r).trans (s.without_keeps_harvestRun r outcome))

/-- A harvested run is gone. -/
theorem State.harvestRun_key (s : State) (r : Run) (outcome : Nat) : r.key ∉ (s.harvestRun r outcome).runs.map Run.key :=
  fun h => without_key _ r ((s.without_keeps_harvestRun r outcome).runs h)

/-- No run stands once each has been harvested. -/
theorem State.harvest_all (s : State) (outcome : Nat) : (s.runs.foldl (fun s r => s.harvestRun r outcome) s).runs = [] := by
  have gone (l : List Run) (s : State) (k : Nat × Nat) (hk : k ∈ (l.foldl (fun s r => s.harvestRun r outcome) s).runs.map Run.key) :
      k ∈ s.runs.map Run.key ∧ k ∉ l.map Run.key := by
    induction l generalizing s with
    | nil => exact ⟨hk, List.not_mem_nil⟩
    | cons r l ih =>
      obtain ⟨h1, h2⟩ := ih _ hk
      refine ⟨(s.keeps_harvestRun r outcome).runs h1, ?_⟩
      rw [List.map_cons, List.mem_cons, not_or]
      exact ⟨fun h => s.harvestRun_key r outcome (h ▸ h1), h2⟩
  refine List.eq_nil_iff_forall_not_mem.mpr fun q hq => ?_
  obtain ⟨h1, h2⟩ := gone _ _ _ (List.mem_map_of_mem hq)
  exact h2 h1

/-! #### Writes at homes, lease changes and dirty L1s (R55, R330, R356) -/

theorem State.keeps_homeReport (s : State) (c : Nat) (a : Word) (place : Place) (k key : Nat) (why : Cause) :
    s.Keeps (s.homeReport c a place k key why) := s.keeps_poisonReport _ _ _ _ _ _

theorem State.keeps_homeWrite (s : State) (c : Nat) (a : Word) (place : Place) (k n mask v : Nat) :
    s.Keeps (s.homeWrite c a place k n mask v) := by
  unfold State.homeWrite
  split
  · split
    · exact s.keeps_homeReport _ _ _ _ _ _
    · exact (s.keeps_store _ _ _).trans (keeps_bump _ _)
  · split
    · exact s.keeps_stopRunOf _ _
    next l t h =>
      refine (keeps_ensureLine h).trans ?_
      split
      · exact keeps_homeReport _ _ _ _ _ _ _
      · exact keeps_sliceWrite _ _ _ _ _ _ _

theorem State.keeps_flushMove (s : State) (part : Nat) (m : Move) : s.Keeps (s.flushMove part m) :=
  s.keeps_overSlices part _ fun k _ =>
    Keeps.trans (.foldl _ _ _ fun u l => (u.keeps_writeLine l).trans (keeps_modSlice _ _ _)) (keeps_modSlice _ k _)

theorem State.keeps_endMove (s : State) (part : Nat) (m : Move) : s.Keeps (s.endMove part m) := by
  unfold State.endMove
  refine Keeps.trans ?_ (keeps_writeLeaf _ _ _)
  refine Keeps.trans ?_ (keeps_overSlices _ _ _ fun k u => u.keeps_modSlice k _)
  have copied := s.keeps_copyCells ((m.entry.cached m.page).key m.page) ((m.target.cached m.page).key m.page) (2 ^ (12 + m.ps))
  exact copied.trans (.of_house rfl)

theorem State.keeps_dropChange (s : State) (x : Change) : s.Keeps (s.dropChange x) := .of_house rfl

theorem State.keeps_settleChanges (s : State) : s.Keeps s.settleChanges := by
  refine .foldl _ _ _ fun u x => ?_
  have applied : u.Keeps (x.marks.foldl (fun s m => s.applyLog m.1) u) := .foldl _ _ _ fun v m => v.keeps_applyLog m.1
  dsimp only
  generalize x.marks.foldl (fun s m => s.applyLog m.1) u = v at applied ⊢
  refine Keeps.trans (Keeps.trans ?_ (keeps_dropChange _ x)) (keeps_fulfil _ _ _)
  refine applied.trans ?_
  split
  · exact .refl _
  · exact Keeps.trans (.ite (.refl _) (keeps_flushMove _ _ _)) (keeps_endMove _ _ _)

theorem State.keeps_flushL1 (s : State) (c part : Nat) : s.Keeps (s.flushL1 c part) := by
  unfold State.flushL1
  refine Keeps.trans (.foldl _ _ _ fun u e => ?_) (keeps_modCore _ c _ fun _ => rfl)
  exact .ite (.refl _) (u.keeps_homeWrite _ _ _ _ _ _ _)

/-! ### Resets (R356) -/

/-- A value looked up in a list of changed values is the value looked up, changed, where the change leaves the default. -/
theorem lookupD_map {α : Type} (d : α) (k : Nat) (f : Nat → α → α) (hd : f k d = d) (l : List (Nat × α)) :
    lookupD d k (l.map fun e => (e.1, f e.1 e.2)) = f k (lookupD d k l) := by
  induction l with
  | nil => exact hd.symm
  | cons e l ih =>
    by_cases h : e.1 = k
    · simp [lookupD, h]
    · simp [lookupD, h, ih]

theorem State.core_keepL1 (s : State) (c : Nat) :
    State.core { s with cores := s.cores.map fun e => (e.1, e.2.keepL1) } c = (s.core c).keepL1 :=
  lookupD_map Core.reset c (fun _ k => k.keepL1) rfl s.cores

theorem State.keeps_keepL1 (s : State) : s.Keeps { s with cores := s.cores.map fun e => (e.1, e.2.keepL1) } where
  chiplets := rfl
  firmware := rfl
  nextFirmware := rfl
  lowPower := rfl
  toHost := List.prefix_refl _
  runs := List.Subset.refl _
  cores c := by rw [s.core_keepL1]; rfl

/-- Every run is harvested and a routing update under way aborted: the part of a reset before it clears the units. -/
def State.ended (s : State) : State :=
  let s := s.runs.foldl (fun s r => s.harvestRun r 2) s
  if s.update.isSome then s.abortRouting else s

theorem State.keeps_abortRouting (s : State) : s.Keeps s.abortRouting := .of_house rfl

theorem State.keeps_ended (s : State) : s.Keeps s.ended :=
  (Keeps.foldl _ _ _ fun u r => u.keeps_harvestRun r 2).trans (.ite (keeps_abortRouting _) (.refl _))

theorem State.ended_runs (s : State) : s.ended.runs = [] := by
  have h := s.harvest_all 2
  unfold State.ended
  dsimp only
  split <;> exact h

theorem State.ended_update (s : State) : s.ended.update = none := by
  unfold State.ended
  dsimp only
  split
  · rfl
  next h => simpa using h

theorem Core.cleared_reset : Core.reset.cleared = Core.reset := by
  simp only [Core.cleared, Core.reset, Vector.map_replicate]
  rfl

theorem State.resetCommon_core (s : State) (c : Nat) : s.resetCommon.core c = (s.ended.core c).cleared :=
  lookupD_map Core.reset c (fun _ k => k.cleared) Core.cleared_reset s.ended.cores

/-- A strand of a cleared core keeps its modes, and those only (R3, R276). -/
theorem Core.cleared_strand (k : Core) (n : Nat) : k.cleared.strand n = (k.strand n).cleared := by
  simp [Core.strand, Core.cleared]

/-- What both resets make of a state: nothing runs or is in flight, and each core is cleared from registers that it had. -/
structure State.ResetFrom (s t : State) : Prop where
  runs : t.runs = []
  agenda : t.agenda = []
  ejected : t.ejected = []
  saved : t.saved = []
  update : t.update = none
  cores : ∀ c, ∃ k : Core, t.core c = k.cleared ∧ k.lasting = (s.core c).lasting

theorem State.Keeps.resetFrom {s t : State} (h : s.Keeps t) : s.ResetFrom t.resetCommon where
  runs := t.ended_runs
  agenda := rfl
  ejected := rfl
  saved := rfl
  update := t.ended_update
  cores c := ⟨t.ended.core c, t.resetCommon_core c, (h.trans t.keeps_ended).cores c⟩

/-- What a reset promises of the state it answers, as `Obligations.ResetsAndPower` words it. -/
def State.ClearedTo (s : State) (rq : Request) (t : State) (cold : Bool) : Prop :=
  t.runs = [] ∧ t.agenda = [] ∧ t.ejected = [] ∧ t.saved = [] ∧ t.update = none ∧
    (∃ l : List ToHost, t.toHost = l ++ [.done rq opReset]) ∧
    (∃ (e f : JournalEntry) (l : List JournalEntry), t.journal = l ++ [e, f] ∧ e.what = .reset cold ∧ f.what = .done opReset) ∧
    ∀ c, (∀ n, t.strand c n = (s.strand c n).cleared) ∧
      (t.core c).run = none ∧ (t.core c).copies = [] ∧
      (t.core c).nodes = [] ∧ (t.core c).locks = [] ∧ (t.core c).portLocks = [] ∧ (t.core c).queues = Core.reset.queues ∧
      (t.core c).deque = Deque.reset ∧ (t.core c).scr = (s.core c).scr ∧ (t.core c).tvec = (s.core c).tvec ∧
      (t.core c).pctx = (s.core c).pctx

/-- A reset journals itself and then that it is done, which it also answers (R339, R356). -/
theorem State.ResetFrom.clearedTo {s t : State} (h : s.ResetFrom t) (rq : Request) (cold : Bool) :
    s.ClearedTo rq ((t.note 0xFFFF (.reset cold)).fulfil rq opReset) cold := by
  refine ⟨h.runs, h.agenda, h.ejected, h.saved, h.update, ⟨_, rfl⟩, ⟨_, _, t.journal, List.append_assoc .., rfl, rfl⟩,
    fun c => ?_⟩
  obtain ⟨k, hk, hl⟩ := h.cores c
  simp only [Core.lasting, Prod.mk.injEq] at hl
  obtain ⟨hstrands, hscr, htvec, hpctx⟩ := hl
  simp only [State.strand, State.fulfil_core, State.note_core, hk]
  refine ⟨fun n => ?_, rfl, rfl, rfl, rfl, rfl, rfl, rfl, hscr, htvec, hpctx⟩
  have hn : k.strand n = (s.core c).strand n := by simp only [Core.strand, hstrands]
  rw [k.cleared_strand, hn]

/-- The state to which `Chiplet.retrain` takes a chiplet. -/
def Bringup.retrained : Bringup → Bringup
  | .configLoaded => .linksTrained
  | .selfTestPassed => .linksTrained
  | .ready => .linksTrained
  | x => x

theorem Chiplet.retrain_state (k : Chiplet) : k.retrain.state = k.state.retrained := by
  cases h : k.state <;> simp [Chiplet.retrain, Bringup.retrained, h]

/-- A cold reset takes every chiplet back in the procession. -/
theorem State.bringup_retrain (s t : State) (h : t.chiplets = s.chiplets.map fun e => (e.1, e.2.retrain)) (chip : Chip) :
    t.bringup chip = (s.bringup chip).retrained := by
  simp only [State.bringup, h, List.find?_map, Function.comp_def]
  cases s.chiplets.find? fun e => e.1 == chip with
  | none => rfl
  | some e => exact e.2.retrain_state

/-! ### Requests for the module (R364) -/

theorem State.moduleEndpoint_module (s : State) {rq : Request} (op : Nat) (go : Out) (hf : rq.function = none)
    (hp : rq.part = 0xFFFF) : s.moduleEndpoint rq op go = go := by
  simp [State.moduleEndpoint, hf, hp]

theorem State.moduleEndpoint_other (s : State) {rq : Request} (op : Nat) (go : Out) (h : rq.function ≠ none ∨ rq.part ≠ 0xFFFF) :
    s.moduleEndpoint rq op go = .next (s.refuse rq op 0 noIndex) := by
  rcases h with h | h <;> simp [State.moduleEndpoint, h]

/-- Requests that are the physical function's only, with their operation codes (R356, R361, R369). -/
theorem exec_module_refused (s : State) {rq : Request} (h : rq.function ≠ none ∨ rq.part ≠ 0xFFFF) (sites : List Nat)
    (image sig : Nat) :
    ∀ e ∈ ([(.warmReset rq, opReset), (.coldReset rq, opReset), (.retentionEntry rq sites, opPower),
      (.retentionExit rq sites, opPower), (.powerOff rq sites, opPower), (.powerOn rq sites, opPower),
      (.firmwareUpdate rq image sig, opFirmware)] : List (Instr × Nat)), exec e.1 s = .next (s.refuse rq e.2 0 noIndex) := by
  simp only [List.forall_mem_cons]
  exact ⟨s.moduleEndpoint_other _ _ h, s.moduleEndpoint_other _ _ h, s.moduleEndpoint_other _ _ h, s.moduleEndpoint_other _ _ h,
    s.moduleEndpoint_other _ _ h, s.moduleEndpoint_other _ _ h, s.moduleEndpoint_other _ _ h, List.forall_mem_nil _⟩

theorem exec_warmReset (s : State) {rq : Request} (hf : rq.function = none) (hp : rq.part = 0xFFFF) :
    ∃ t, exec (.warmReset rq) s = .next t ∧ s.ClearedTo rq t false := by
  refine ⟨_, s.moduleEndpoint_module _ _ hf hp, State.ResetFrom.clearedTo (State.Keeps.resetFrom ?_) rq false⟩
  refine State.Keeps.trans (.of_house rfl : s.Keeps (s.accept rq opReset)) ((State.keeps_settleChanges _).trans ?_)
  refine .foldl _ _ _ fun u e => ?_
  split
  · exact u.keeps_flushL1 _ _
  · exact .refl _

theorem exec_coldReset (s : State) {rq : Request} (hf : rq.function = none) (hp : rq.part = 0xFFFF) :
    ∃ t, exec (.coldReset rq) s = .next t ∧ s.ClearedTo rq t true ∧ t.firmware = s.nextFirmware.getD s.firmware ∧
      t.nextFirmware = none ∧ ∀ chip, t.bringup chip = (s.bringup chip).retrained := by
  let u : State := (s.accept rq opReset).settleChanges
  let v : State := { u with cores := u.cores.map fun e => (e.1, e.2.keepL1) }
  have settled : s.Keeps v :=
    .trans (.of_house rfl : s.Keeps (s.accept rq opReset)) ((State.keeps_settleChanges _).trans u.keeps_keepL1)
  have ended : s.Keeps v.ended := settled.trans v.keeps_ended
  obtain ⟨hruns, hagenda, hejected, hsaved, hupdate, hcores⟩ := settled.resetFrom
  refine ⟨_, s.moduleEndpoint_module _ _ hf hp, State.ResetFrom.clearedTo ⟨hruns, hagenda, hejected, hsaved, hupdate, hcores⟩ rq true,
    ?_, rfl, State.bringup_retrain s _ ?_⟩
  · change v.ended.nextFirmware.getD v.ended.firmware = _
    rw [ended.nextFirmware, ended.firmware]
  · change v.ended.chiplets.map _ = _
    rw [ended.chiplets]

/-! ### Network-select tables made anew (R337, R361)

Sites that leave or enter a low-power state change what the tables reach; a block that no route reaches is fenced, which stops
its runs. Nothing but blocks is fenced, and no byte, slice or register changes. -/

/-- What making the tables anew leaves alone. -/
structure State.Rerouted (s t : State) : Prop where
  mem : t.mem = s.mem
  slices : t.slices = s.slices
  lowPower : t.lowPower = s.lowPower
  toHost : t.toHost = s.toHost
  strands : ∀ c, (t.core c).strands = (s.core c).strands
  bringup : ∀ chip, chip.chip ≠ 0 → t.bringup chip = s.bringup chip

theorem State.Rerouted.refl (s : State) : s.Rerouted s := ⟨rfl, rfl, rfl, rfl, fun _ => rfl, fun _ _ => rfl⟩

theorem State.Rerouted.trans {s t u : State} (h : s.Rerouted t) (g : t.Rerouted u) : s.Rerouted u where
  mem := g.mem.trans h.mem
  slices := g.slices.trans h.slices
  lowPower := g.lowPower.trans h.lowPower
  toHost := g.toHost.trans h.toHost
  strands c := (g.strands c).trans (h.strands c)
  bringup chip hc := (g.bringup chip hc).trans (h.bringup chip hc)

/-- Making the tables anew tells the host nothing. -/
theorem State.Rerouted.told {s t : State} (h : s.Rerouted t) : s.toHost <+: t.toHost := h.toHost ▸ List.prefix_refl _

theorem State.Rerouted.foldl {α : Type} (f : State → α → State) (l : List α) (s : State)
    (h : ∀ u, ∀ x ∈ l, State.Rerouted u (f u x)) : s.Rerouted (l.foldl f s) :=
  List.foldlRecOn l f (.refl s) fun u hu x hx => hu.trans (h u x hx)

theorem State.bringup_setChip (s : State) (chip : Chip) (v : Chiplet) : (s.setChip chip v).bringup chip = v.state := by
  simp [State.bringup, State.setChip]

theorem State.bringup_setChip_other (s : State) {chip c : Chip} (v : Chiplet) (h : c ≠ chip) :
    (s.setChip chip v).bringup c = s.bringup c := by
  have found : (s.chiplets.filter fun e => e.1 != chip).find? (fun e => e.1 == c) = s.chiplets.find? fun e => e.1 == c := by
    rw [List.find?_filter]
    congr 1
    funext e
    by_cases he : e.1 = c <;> simp [he, h]
  simp only [State.bringup, State.setChip, List.find?_cons, beq_eq_false_iff_ne.mpr (Ne.symm h), found]

theorem State.rerouted_stopRun (s : State) (part ctx outcome : Nat) : s.Rerouted (s.stopRun part ctx outcome) := by
  obtain ⟨rs, ks, ag, h, -, hk⟩ := s.stopRun_frame part ctx outcome
  rw [h]
  exact ⟨rfl, rfl, rfl, rfl, fun c => congrArg Prod.fst (hk c), fun _ _ => rfl⟩

theorem State.rerouted_fenceOne (s : State) {chip : Chip} (h : chip.chip = 0) : s.Rerouted (s.fenceOne chip) := by
  unfold State.fenceOne
  dsimp only
  rw [if_pos h]
  have marked : s.Rerouted ((s.setChip chip { s.chiplet chip with state := .fenced }).note 0xFFFF (.fenced chip)) :=
    ⟨rfl, rfl, rfl, rfl, fun _ => rfl, fun c hc => s.bringup_setChip_other _ fun hcc => hc (hcc ▸ h)⟩
  exact marked.trans (.foldl (fun (s : State) (r : Run) => s.stopRun r.part r.ctx 1) _ _ fun u r _ => u.rerouted_stopRun _ _ _)

/-- A table names blocks only. -/
theorem State.entries_block (s : State) (p : Partition) : ∀ e ∈ s.entries p, e.2.2.1.chip = 0 := by
  intro e he
  simp only [State.entries, List.mem_flatMap, List.mem_filterMap, Option.bind_eq_some_iff] at he
  obtain ⟨h, -, n, -, site, -, he⟩ := he
  split at he
  · cases he
  · cases he
    rfl

theorem State.cutOff_block (s : State) : ∀ chip ∈ s.cutOff, chip.chip = 0 := by
  intro chip h
  simp only [State.cutOff, List.mem_eraseDups, List.mem_flatMap, List.mem_filterMap] at h
  obtain ⟨p, -, e, he, h⟩ := h
  split at h
  · cases h
    exact s.entries_block p e he
  · cases h

theorem State.rerouted_settleTables (fuel : Nat) (s : State) : s.Rerouted (State.settleTables fuel s) := by
  have computed (u : State) : u.Rerouted (u.partitions.foldl (fun s p => s.tablesOf p) u) :=
    .foldl _ _ _ fun _ _ _ => ⟨rfl, rfl, rfl, rfl, fun _ => rfl, fun _ _ => rfl⟩
  induction fuel generalizing s with
  | zero => exact computed s
  | succ fuel ih =>
    unfold State.settleTables
    split
    · exact computed s
    · exact Rerouted.trans (.foldl _ _ _ fun u c hc => u.rerouted_fenceOne (s.cutOff_block c hc)) (ih _)

theorem State.rerouted_tables (s : State) : s.Rerouted s.tables := s.rerouted_settleTables 152

/-! ### Sites come back (R361) -/

/-- Sites are out of their low-power state and routed again; their slices have not gone on yet. -/
def State.rejoined (s : State) (sites : List Nat) : State :=
  State.tables { s with lowPower := s.lowPower.filter fun e => !sites.contains e.1 }

theorem State.rerouted_rejoined (s : State) (sites : List Nat) :
    State.Rerouted { s with lowPower := s.lowPower.filter fun e => !sites.contains e.1 } (s.rejoined sites) :=
  State.rerouted_tables _

theorem State.rejoined_keeps_backFrom (s : State) (sites : List Nat) : (s.rejoined sites).Keeps (s.backFrom sites) :=
  .foldl _ _ _ fun u x => u.keeps_wakeSlices x

/-- Sites that come back are in no low-power state any more. -/
theorem State.not_mem_backFrom (s : State) {sites : List Nat} {x : Nat} (hx : x ∈ sites) (off : Bool) :
    (x, off) ∉ (s.backFrom sites).lowPower := by
  rw [(s.rejoined_keeps_backFrom sites).lowPower, (s.rerouted_rejoined sites).lowPower]
  simp [hx]

theorem State.backFrom_toHost (s : State) (sites : List Nat) : s.toHost <+: (s.backFrom sites).toHost :=
  (s.rerouted_rejoined sites).told.trans (s.rejoined_keeps_backFrom sites).toHost

theorem State.backFrom_bringup (s : State) (sites : List Nat) (chip : Chip) (h : chip.chip ≠ 0) :
    (s.backFrom sites).bringup chip = s.bringup chip := by
  rw [State.bringup, (s.rejoined_keeps_backFrom sites).chiplets]
  exact (s.rerouted_rejoined sites).bringup chip h

/-- Where nothing waits at the sites' slices, memory is as it was. -/
theorem State.backFrom_mem (s : State) (sites : List Nat) (h : ∀ x ∈ sites, ∀ i, i < 32 → (s.slice (32 * x + i)).waiting = []) :
    (s.backFrom sites).mem = s.mem := by
  have rerouted := s.rerouted_rejoined sites
  have idle : s.backFrom sites = s.rejoined sites :=
    List.foldlRecOn (motive := fun v => v = s.rejoined sites) sites (fun s x => s.wakeSlices x) rfl fun v hv x hx => by
      rw [hv]
      exact (s.rejoined sites).wakeSlices_idle x fun i hi => by simpa only [State.slice, rerouted.slices] using h x hx i hi
  rw [idle, rerouted.mem]

/-- The answer of a command whose effect tells the host nothing that was not told before. -/
theorem State.fulfil_toHost {s t : State} (h : s.toHost <+: t.toHost) (rq : Request) (op : Nat) :
    ∃ l, (t.fulfil rq op).toHost = s.toHost ++ l ++ [.done rq op] := by
  obtain ⟨l, hl⟩ := h
  exact ⟨l, by rw [hl]; rfl⟩

/-! ### Chiplets of sites that were off (R354, R361) -/

theorem State.chiplet_state (s : State) (chip : Chip) : (s.chiplet chip).state = s.bringup chip := by
  unfold State.chiplet State.bringup
  cases s.chiplets.find? fun e => e.1 == chip <;> rfl

/-- What the first step of the procession changes, where no start record acts: chiplets that were dark have power. -/
structure State.Powers (s t : State) : Prop where
  toHost : t.toHost = s.toHost
  startRecords : t.startRecords = []
  bringup : ∀ c, t.bringup c = s.bringup c ∨ (s.bringup c = .dark ∧ t.bringup c = .powerGood)

theorem State.Powers.refl {s : State} (h : s.startRecords = []) : s.Powers s := ⟨rfl, h, fun _ => .inl rfl⟩

theorem State.Powers.trans {s t u : State} (h : s.Powers t) (g : t.Powers u) : s.Powers u where
  toHost := g.toHost.trans h.toHost
  startRecords := g.startRecords
  bringup c := by
    rcases g.bringup c with h2 | ⟨h2, h3⟩
    · rw [h2]
      exact h.bringup c
    · rcases h.bringup c with h1 | ⟨-, h1⟩
      · exact .inr ⟨h1 ▸ h2, h3⟩
      · rw [h1] at h2
        cases h2

/-- A chiplet with power keeps it. -/
theorem State.Powers.powerGood {s t : State} (h : s.Powers t) {c : Chip} (hc : s.bringup c = .powerGood) : t.bringup c = .powerGood := by
  rcases h.bringup c with h | ⟨-, h⟩
  · exact h.trans hc
  · exact h

theorem State.powers_advance {s : State} (hr : s.startRecords = []) (chip : Chip) :
    s.Powers (s.advance chip .dark .powerGood) ∧
      (s.bringup chip = .dark → (s.advance chip .dark .powerGood).bringup chip = .powerGood) := by
  by_cases h : s.bringup chip = .dark
  · have moved : s.advance chip .dark .powerGood = (s.setChip chip { s.chiplet chip with
        state := .powerGood, halfRate := (s.chiplet chip).halfRate || false }).note 0xFFFF (.bringup chip Bringup.powerGood.code) := by
      simp [State.advance, s.chiplet_state, h, State.record?, hr]
    rw [moved]
    refine ⟨⟨rfl, hr, fun c => ?_⟩, fun _ => s.bringup_setChip _ _⟩
    by_cases hc : c = chip
    · exact .inr ⟨hc ▸ h, hc ▸ s.bringup_setChip _ _⟩
    · exact .inl (s.bringup_setChip_other _ hc)
  · have stays : s.advance chip .dark .powerGood = s := by simp [State.advance, s.chiplet_state, h]
    rw [stays]
    exact ⟨.refl hr, fun hd => absurd hd h⟩

/-- The chiplets of some sites take the first step of the procession. -/
def State.powerSites (sites : List Nat) (s : State) (e : Chip × Chiplet) : State :=
  if sites.contains e.1.site then s.advance e.1 .dark .powerGood else s

theorem State.powers_foldl (sites : List Nat) (l : List (Chip × Chiplet)) {s : State} (hr : s.startRecords = []) :
    s.Powers (l.foldl (State.powerSites sites) s) ∧
      ∀ e ∈ l, e.1.site ∈ sites → s.bringup e.1 = .dark → (l.foldl (State.powerSites sites) s).bringup e.1 = .powerGood := by
  induction l generalizing s with
  | nil => exact ⟨.refl hr, fun _ he => absurd he List.not_mem_nil⟩
  | cons x l ih =>
    have step : s.Powers (State.powerSites sites s x) := by
      unfold State.powerSites
      split
      · exact (State.powers_advance hr x.1).1
      · exact .refl hr
    obtain ⟨rest, each⟩ := ih step.startRecords
    refine ⟨step.trans rest, fun e he hs hd => ?_⟩
    rcases List.mem_cons.mp he with rfl | he
    · refine rest.powerGood ?_
      rw [State.powerSites, if_pos (by simpa using hs)]
      exact (State.powers_advance hr e.1).2 hd
    · rcases step.bringup e.1 with h | ⟨-, h⟩
      · exact each e he hs (h.trans hd)
      · exact rest.powerGood h

/-! ### Sites whose contents are lost (R361) -/

theorem cellRead_absent (k : Nat) (m : List Host.Cell) (h : ∀ e ∈ m, e.1 ≠ k) : cellRead k m = unwritten := by
  induction m with
  | nil => rfl
  | cons e m ih =>
    obtain ⟨he, hm⟩ := List.forall_mem_cons.mp h
    simp only [cellRead, if_neg he, ih hm, ite_self]

theorem cellRead_filter (k : Nat) (p : Host.Cell → Bool) (m : List Host.Cell) (h : ∀ e : Host.Cell, e.1 = k → p e = false) :
    cellRead k (m.filter p) = unwritten :=
  cellRead_absent k _ fun e he hk => by simp [h e hk] at he

/-- First-tier bytes of a site that is off read as bytes never written (log 4). -/
theorem State.loseSites_byte (s : State) (sites : List Nat) (k : Nat) (hk : k < 2 ^ 43) (h : k / 2 ^ 37 ∈ sites) :
    (s.loseSites sites).byte k = 0 :=
  cellRead_filter k _ _ fun e he => by
    rw [he]
    beta_reduce
    rw [decide_eq_true hk, List.contains_iff_mem.mpr h]
    rfl

/-- So do the bytes of its cores' arrays. -/
theorem State.loseSites_pad (s : State) (sites : List Nat) (c off : Nat) (ho : off < 2 ^ 19) (h : siteOf c ∈ sites) :
    (s.loseSites sites).byte (padKey c off) = 0 := by
  have at_ : (padKey c off - 2 ^ 80) / 2 ^ 27 = siteOf c := by
    simp only [padKey, siteOf]
    omega
  have above : 2 ^ 80 ≤ padKey c off := by
    simp only [padKey]
    omega
  refine cellRead_filter _ _ _ fun e he => ?_
  rw [he]
  beta_reduce
  rw [at_, decide_eq_true above, List.contains_iff_mem.mpr h, Bool.true_and, Bool.or_true]
  rfl

theorem State.loseSites_strands (s : State) (sites : List Nat) (c : Nat) (h : siteOf c ∈ sites) :
    ((s.loseSites sites).core c).strands = Vector.replicate 16 Strand.reset := by
  have lost : (s.loseSites sites).cores = s.cores.map fun e => (e.1, if sites.contains (siteOf e.1) then e.2.vacated else e.2) :=
    List.map_congr_left fun e _ => by split <;> rfl
  have vacated := lookupD_map Core.reset c (fun d k => if sites.contains (siteOf d) then k.vacated else k) (ite_self _) s.cores
  rw [State.core, lost, vacated, if_pos (by simpa using h)]
  rfl

/-- Sites are off: their contents are lost, and the tables made anew. -/
def State.switchedOff (s : State) (sites : List Nat) : State :=
  State.tables { s.loseSites sites with lowPower := sites.map (fun x => (x, true)) ++ s.lowPower }

theorem State.rerouted_switchedOff (s : State) (sites : List Nat) :
    State.Rerouted { s.loseSites sites with lowPower := sites.map (fun x => (x, true)) ++ s.lowPower } (s.switchedOff sites) :=
  State.rerouted_tables _

/-- Sites are in retention: their contents stand, and the tables are made anew. -/
def State.retained (s : State) (sites : List Nat) : State :=
  State.tables { s with lowPower := sites.map (fun x => (x, false)) ++ s.lowPower }

theorem State.rerouted_retained (s : State) (sites : List Nat) :
    State.Rerouted { s with lowPower := sites.map (fun x => (x, false)) ++ s.lowPower } (s.retained sites) :=
  State.rerouted_tables _

theorem State.switchedOff_byte (s : State) (sites : List Nat) (k : Nat) : (s.switchedOff sites).byte k = (s.loseSites sites).byte k :=
  congrArg (cellRead k) (s.rerouted_switchedOff sites).mem

/-! ### The commands (R361) -/

/-- Compute sites in no low-power state may rest exactly where no live run stands on them. -/
theorem State.mayRest_eq (s : State) (sites : List Nat)
    (h : ∀ x ∈ sites, Config.isCompute x = true ∧ ∀ off, (x, off) ∉ s.lowPower) :
    s.mayRest sites = !s.sitesBusy sites := by
  have all : (sites.all fun x => Config.isCompute x && !(s.lowPower.any fun e => e.1 == x)) = true := by
    refine List.all_eq_true.mpr fun x hx => ?_
    obtain ⟨hc, hl⟩ := h x hx
    rw [hc, Bool.true_and, Bool.not_eq_true', List.any_eq_false]
    intro e he hx
    exact hl e.2 (beq_iff_eq.mp hx ▸ he)
  rw [State.mayRest, all, Bool.and_true]

section
variable {s : State} {rq : Request} (hf : rq.function = none) (hp : rq.part = 0xFFFF) (sites : List Nat)
include hf hp

theorem exec_rest_busy (h : s.mayRest sites = false) :
    exec (.retentionEntry rq sites) s = .next (s.refuse rq opPower 0 noIndex) ∧
      exec (.powerOff rq sites) s = .next (s.refuse rq opPower 0 noIndex) := by
  constructor
  · exact (s.moduleEndpoint_module _ _ hf hp).trans (by simp [h])
  · exact (s.moduleEndpoint_module _ _ hf hp).trans (by simp [h])

theorem exec_retentionEntry (h : s.mayRest sites = true) (hne : sites ≠ []) (hl : sites.length ≤ 4) :
    ∃ t, exec (.retentionEntry rq sites) s = .next t ∧ (∃ l, t.toHost = s.toHost ++ l ++ [.done rq opPower]) ∧
      (∀ x ∈ sites, (x, false) ∈ t.lowPower) ∧ t.mem = s.mem := by
  have rerouted := (s.accept rq opPower).rerouted_retained sites
  refine ⟨((s.accept rq opPower).retained sites).fulfil rq opPower,
    (s.moduleEndpoint_module _ _ hf hp).trans (congrArg _ (if_neg (by simp [h, hne, hl]))),
    State.fulfil_toHost rerouted.told rq opPower, fun x hx => ?_, ?_⟩
  · rw [State.fulfil_lowPower, rerouted.lowPower]
    exact List.mem_append_left _ (List.mem_map_of_mem hx)
  · rw [State.fulfil_mem, rerouted.mem]
    rfl

theorem exec_powerOff (h : s.mayRest sites = true) (hl : 5 ≤ sites.length) (hs : s.sitesLeased sites = false) :
    ∃ t, exec (.powerOff rq sites) s = .next t ∧ ((∃ l, t.toHost = s.toHost ++ l ++ [.done rq opPower]) ∧
      ∀ x ∈ sites, (x, true) ∈ t.lowPower) ∧
      (∀ c, siteOf c ∈ sites →
        (t.core c).strands = Vector.replicate 16 Strand.reset ∧ ∀ off, off < 2 ^ 19 → t.byte (padKey c off) = 0) ∧
      ∀ k, k < 2 ^ 43 → k / 2 ^ 37 ∈ sites → t.byte k = 0 := by
  have rerouted := (s.accept rq opPower).rerouted_switchedOff sites
  refine ⟨((s.accept rq opPower).switchedOff sites).fulfil rq opPower,
    (s.moduleEndpoint_module _ _ hf hp).trans (congrArg _ (if_neg (by simp [h, hs, hl]))),
    ⟨State.fulfil_toHost rerouted.told rq opPower, fun x hx => ?_⟩, fun c hc => ⟨?_, fun off ho => ?_⟩,
    fun k hk hx => ?_⟩
  · rw [State.fulfil_lowPower, rerouted.lowPower]
    exact List.mem_append_left _ (List.mem_map_of_mem hx)
  · rw [State.fulfil_core, rerouted.strands]
    exact State.loseSites_strands _ _ _ hc
  · rw [State.fulfil_byte, State.switchedOff_byte]
    exact State.loseSites_pad _ _ _ _ ho hc
  · rw [State.fulfil_byte, State.switchedOff_byte]
    exact State.loseSites_byte _ _ _ hk hx

theorem exec_retentionExit (h : ∀ x ∈ sites, (x, false) ∈ s.lowPower) :
    ∃ t, exec (.retentionExit rq sites) s = .next t ∧ ((∃ l, t.toHost = s.toHost ++ l ++ [.done rq opPower]) ∧
      ∀ x ∈ sites, ∀ off, (x, off) ∉ t.lowPower) ∧
      ((∀ x ∈ sites, ∀ i, i < 32 → (s.slice (32 * x + i)).waiting = []) → t.mem = s.mem) := by
  refine ⟨((s.accept rq opPower).backFrom sites).fulfil rq opPower,
    (s.moduleEndpoint_module _ _ hf hp).trans (congrArg _ (if_pos (by simpa using h))),
    ⟨State.fulfil_toHost ((s.accept rq opPower).backFrom_toHost sites) rq opPower, fun x hx off => ?_⟩, fun hw => ?_⟩
  · rw [State.fulfil_lowPower]
    exact State.not_mem_backFrom _ hx off
  · rw [State.fulfil_mem]
    exact State.backFrom_mem _ sites hw

theorem exec_powerOn (h : ∀ x ∈ sites, (x, true) ∈ s.lowPower) (hr : s.startRecords = []) :
    ∃ t, exec (.powerOn rq sites) s = .next t ∧ ((∃ l, t.toHost = s.toHost ++ l ++ [.done rq opPower]) ∧
      ∀ x ∈ sites, ∀ off, (x, off) ∉ t.lowPower) ∧
      ∀ e ∈ s.chiplets, e.1.site ∈ sites → e.1.chip ≠ 0 → s.bringup e.1 = .dark → t.bringup e.1 = .powerGood := by
  obtain ⟨powers, each⟩ := State.powers_foldl sites s.chiplets (s := s.accept rq opPower) hr
  let powered : State := s.chiplets.foldl (State.powerSites sites) (s.accept rq opPower)
  refine ⟨(powered.backFrom sites).fulfil rq opPower,
    (s.moduleEndpoint_module _ _ hf hp).trans (congrArg _ (if_pos (by simpa using h))),
    ⟨State.fulfil_toHost (powers.toHost ▸ powered.backFrom_toHost sites) rq opPower, fun x hx off => ?_⟩, fun e he hs hc hd => ?_⟩
  · rw [State.fulfil_lowPower]
    exact State.not_mem_backFrom _ hx off
  · rw [State.fulfil_bringup, State.backFrom_bringup _ _ _ hc]
    exact each e he hs hd

end

/-- Settles O58. A request for the module is refused to all but the physical function; a reset is the settling of changes and
dirty lines, which keeps every register, before the clearing; low power is the sites' loss and the tables made anew. -/
theorem resetsAndPower : Obligations.ResetsAndPower := by
  intro s rq cleared done low back
  refine ⟨exec_module_refused s, fun hf hp => ⟨exec_warmReset s hf hp, ?_, ?_, ?_, ?_⟩, rfl⟩
  · obtain ⟨t, ht, hcleared, hfirmware, hnext, hbringup⟩ := exec_coldReset s hf hp
    refine ⟨t, ht, hcleared, hfirmware, hnext, fun chip => ?_⟩
    rw [hbringup]
    cases s.bringup chip <;> rfl
  · intro sites hsites
    have rest := s.mayRest_eq sites hsites
    refine ⟨fun hbusy => exec_rest_busy hf hp sites (by rw [rest, hbusy]; rfl), fun hidle => ?_⟩
    rw [hidle] at rest
    refine ⟨fun hne hl => ?_, exec_powerOff hf hp sites rest⟩
    obtain ⟨t, ht, hdone, hlow, hmem⟩ := exec_retentionEntry hf hp sites rest hne hl
    exact ⟨t, ht, ⟨hdone, hlow⟩, hmem⟩
  · exact exec_retentionExit hf hp
  · exact exec_powerOn hf hp

end Sys2Proof.Machine
end

section
/-! PROOFS. The statement of `01_kernel_view.md` about the deque (R18, R107, R109, R187 to R190): `spawn`, `take`, `join` and
`yield`. -/

namespace Sys2Proof.Machine

/-! ### Updates of one strand after another -/

theorem State.setCore_setCore (s : State) (c : Nat) (k l : Core) : (s.setCore c k).setCore c l = s.setCore c l := by
  simp [State.setCore, assign_assign]

theorem Core.setStrand_setStrand (k : Core) (n : Nat) (t u : Strand) : (k.setStrand n t).setStrand n u = k.setStrand n u := by
  simp [Core.setStrand]

theorem State.modStrand_modStrand (s : State) (c n : Nat) (f g : Strand → Strand) :
    (s.modStrand c n f).modStrand c n g = s.modStrand c n fun t => g (f t) := by
  rw [State.modStrand, State.strand_modStrand]
  simp only [State.modStrand, State.setStrand, State.core_setCore, Core.setStrand_setStrand, State.setCore_setCore]

theorem State.modStrand_modMe (s : State) (f g : Strand → Strand) :
    (s.modMe f).modStrand s.cur.1 s.cur.2 g = s.modMe fun t => g (f t) := s.modStrand_modStrand _ _ f g

/-- Updates that agree on the issuing strand agree. -/
theorem State.modMe_congr (s : State) {f g : Strand → Strand} (h : f s.me = g s.me) : s.modMe f = s.modMe g :=
  congrArg s.setMe h

/-- `State.me_modMe`, of the strand by its numbers. -/
@[simp] theorem State.strand_modMe (s : State) (f : Strand → Strand) : (s.modMe f).strand s.cur.1 s.cur.2 = f s.me := s.me_modMe f

/-- Strand numbers are taken modulo 16. -/
theorem State.modStrand_cn (s : State) (f : Strand → Strand) : s.modStrand s.cur.1 s.cn f = s.modMe f := by
  simp [State.modMe, State.setMe, State.me, State.modStrand, State.setStrand, State.strand, Core.setStrand, Core.strand, State.cn]

theorem State.core_modMe (s : State) (f : Strand → Strand) :
    (s.modMe f).core s.cur.1 = (s.core s.cur.1).setStrand s.cur.2 (f s.me) := s.core_setCore _ _

/-- A change of the issuing core that leaves its strands alone leaves the issuing strand alone. -/
theorem State.me_modCore (s : State) (f : Core → Core) (h : (f (s.core s.cur.1)).strands = (s.core s.cur.1).strands) :
    (s.modCore s.cur.1 f).me = s.me := by
  simp [State.me, State.strand, Core.strand, h]

/-- A change of the core's deque is seen by what reads the deque alone. -/
@[simp] theorem State.core_modDeque (s : State) (c : Nat) (f : Deque → Deque) :
    (s.modDeque c f).core c = { s.core c with deque := f (s.core c).deque } := s.core_modCore c _

theorem State.me_modDeque (s : State) (f : Deque → Deque) : (s.modDeque s.cur.1 f).me = s.me := s.me_modCore _ rfl

/-! ### An outstanding instruction of the issuing strand (R102) -/

/-- What becoming outstanding leaves of a strand with nothing skipped. -/
def Strand.held (t : Strand) (o : Outst) : Strand :=
  { t with outst := some o, popped := [], rerun := false, record := none, scalars := [], order := none, pc := t.pc + 4, skip := 0,
           stall := none }

@[simp] theorem Strand.held_outst (t : Strand) (o : Outst) : (t.held o).outst = some o := rfl

/-- The record that `hold` makes for an instruction of the issuing strand with nothing skipped. -/
def State.issued (s : State) (la : La) (p : Phase) : Outst :=
  { word := s.ir, pc := s.me.pc, la := if s.me.atEnd s.me.pc then 0 else la.toNat, retired := 0,
    since := (s.core s.cur.1).ticks, err := none, pops := s.me.popped, cleaning := none, record := s.me.record,
    scalars := if s.me.rerun then s.me.scalars
      else ((s.core s.cur.1).copies.filter fun x => x.strand == s.cn && !x.busy).map fun x => (x.reg, s.me.greg x.reg)
    order := s.me.order.getD (s.core s.cur.1).ticks, phase := p }

theorem State.hold_free {s : State} (h : s.Free) (la : La) (p : Phase) : s.hold la p = s.modMe fun t => t.held (s.issued la p) := by
  unfold State.hold
  refine s.modMe_congr ?_
  simp only [h.noSkip]
  rfl

theorem State.setPhase_cn (s : State) (p : Phase) : s.setPhase s.cur.1 s.cn p = s.setPhase s.cur.1 s.cur.2 p :=
  s.modStrand_cn _

theorem State.me_setPhase {s : State} {o : Outst} (h : s.me.outst = some o) (p : Phase) :
    (s.setPhase s.cur.1 s.cur.2 p).me = { s.me with outst := some { o with phase := p } } := by
  refine (s.strand_modStrand _ _ _).trans ?_
  rw [show (s.strand s.cur.1 s.cur.2).outst = some o from h]
  rfl

theorem State.setPhase_held (s : State) (o : Outst) (p : Phase) :
    (s.modMe fun t => t.held o).setPhase s.cur.1 s.cur.2 p = s.modMe fun t => t.held { o with phase := p } := by
  rw [State.setPhase, State.modStrand_modMe]
  rfl

/-- The end action does not see where the PC stands. -/
theorem Strand.endAction_pc (t : Strand) (a pc go : Word) : { t with pc := a }.endAction pc go = t.endAction pc go := by
  simp only [Strand.endAction, Strand.endInner]

/-- A completion sees nothing of what becoming outstanding changed. -/
theorem Strand.complete_held (t : Strand) (h : t.outst = none) (o : Outst) (pc : Word) (skip : Nat) (f : Flow) :
    { t.held o with outst := none }.complete pc skip f = t.complete pc skip f := by
  rw [← h]
  rcases f with _ | ⟨a, _ | _⟩
  · exact Strand.endAction_pc _ (t.pc + 4) pc _
  · rfl
  · rfl

/-- An instruction that completes in its first slot completes as an ordinary one does. -/
theorem State.finish_held {s : State} (h : s.me.outst = none) (hs : s.me.skip = 0) {o : Outst} (hp : o.pc = s.me.pc)
    (hr : o.retired = 0) (f : Flow) : (s.modMe fun t => t.held o).finish s.cur.1 s.cur.2 f = s.retire f := by
  rw [State.finish, State.modStrand_modMe]
  refine s.modMe_congr ?_
  rw [hs, ← s.me.complete_held h o, ← hp, ← hr]
  rfl

theorem State.phase?_held (s : State) (o : Outst) :
    ((s.modMe fun t => t.held o).strand s.cur.1 s.cur.2).phase? = some o.phase := by
  rw [State.strand_modMe]
  rfl

/-- An instruction that is not complete in its first slot waits in its phase. -/
theorem State.endDone_held {s : State} {o : Outst} (h : ∀ r, o.phase ≠ .done r) :
    (s.modMe fun t => t.held o).endDone s.cur.1 s.cur.2 = s.modMe fun t => t.held o := by
  unfold State.endDone
  rw [s.phase?_held]
  split
  case h_1 e => exact absurd (Option.some.inj e) (h _)
  case h_2 e => exact absurd (Option.some.inj e) (h _)
  case h_3 => rfl

/-- A state whose issuing strand has just become outstanding, memory being as before, waits in its phase. -/
theorem State.waitsIn_of_held {s t : State} {o : Outst} (hme : t.me = s.me.held o) (hmem : t.mem = s.mem) : s.WaitsIn t o.phase := by
  refine ⟨?_, ?_, hmem, ?_⟩ <;> rw [hme] <;> rfl

/-! ### `yield` (R190) -/

theorem exec_yield_free {s : State} (h : s.Free) (la : La) :
    exec (.yield la) s =
      .next (((s.modMe fun t => t.held (s.issued la .yield)).service s.cur.1 s.cur.2).endDone s.cur.1 s.cur.2) := by
  change Host.Outcome.next (s.begin [] la .yield) = _
  rw [State.begin, State.pops_free h, State.hold_free h]

/-- No cycle has passed for an instruction that has just become outstanding. -/
theorem State.elapsed_issued (s : State) (la : La) (p : Phase) :
    (s.modMe fun t => t.held (s.issued la p)).elapsed s.cur.1 s.cur.2 = 0 := by
  simp only [State.elapsed, State.strand_modMe, Strand.held_outst, State.core_modMe, Core.setStrand_ticks]
  exact Nat.sub_self _

/-- `yield` in its first slot looks at the deque alone. -/
theorem State.service_yield (s : State) (la : La) :
    (s.modMe fun t => t.held (s.issued la .yield)).service s.cur.1 s.cur.2 =
      if 1 ≤ (s.core s.cur.1).deque.depth then s.modMe fun t => t.held { s.issued la .yield with phase := .done none }
      else s.modMe fun t => t.held (s.issued la .yield) := by
  have noTrap : (s.issued la .yield).err.isSome = false := rfl
  have phase : (s.issued la .yield).phase = .yield := rfl
  simp [State.service, noTrap, phase, State.elapsed_issued, State.core_modMe, State.done, State.setPhase_held]

theorem exec_yield_some {s : State} (h : s.Free) (ho : s.me.outst = none) (la : La) (hq : 1 ≤ (s.core s.cur.1).deque.depth) :
    exec (.yield la) s = .next (s.retire .on) := by
  rw [exec_yield_free h, State.service_yield, if_pos hq, State.endDone, s.phase?_held]
  exact congrArg _ (State.finish_held ho h.noSkip rfl rfl .on)

theorem exec_yield_none {s : State} (h : s.Free) (la : La) (hq : (s.core s.cur.1).deque.depth = 0) :
    ∃ t, exec (.yield la) s = .next t ∧ s.WaitsIn t .yield := by
  refine ⟨_, ?_, State.waitsIn_of_held (o := s.issued la .yield) (s.me_modMe fun t => t.held _) rfl⟩
  rw [exec_yield_free h, State.service_yield, if_neg (by omega), State.endDone_held (fun _ => Phase.noConfusion)]

/-! ### Data of memory (R2) -/

theorem State.byte_of_mem {s t : State} (h : t.mem = s.mem) (k : Nat) : t.byte k = s.byte k := congrArg (cellRead k) h

theorem State.load_of_mem {s t : State} (h : t.mem = s.mem) (k n : Nat) : t.load k n = s.load k n := by
  have bytes : ∀ k, t.bytes k n = s.bytes k n := by
    induction n with
    | zero => exact fun _ => rfl
    | succ n ih => exact fun k => congrArg₂ List.cons (State.byte_of_mem h k) (ih (k + 1))
  exact congrArg ofBytes (bytes k)

theorem State.store_of_mem {s t : State} (h : t.mem = s.mem) (k n v : Nat) : (t.store k n v).mem = (s.store k n v).mem := by
  unfold State.store
  generalize toBytes n v = bs
  induction bs generalizing s t k with
  | nil => exact h
  | cons b bs ih => exact ih (congrArg (cellWrite k b) h) (k + 1)

theorem State.bytes_add (s : State) (k m n : Nat) : s.bytes k (m + n) = s.bytes k m ++ s.bytes (k + m) n := by
  induction m generalizing k with
  | zero => simp [State.bytes]
  | succ m ih => rw [Nat.succ_add, State.bytes, State.bytes, ih, List.cons_append, show k + 1 + m = k + (m + 1) by omega]

theorem ofBytes_append (a b : List Byte) : ofBytes (a ++ b) = ofBytes a + 2 ^ (8 * a.length) * ofBytes b := by
  induction a with
  | nil => simp [ofBytes]
  | cons x a ih =>
    rw [List.cons_append, ofBytes, ofBytes, ih, List.length_cons, Nat.mul_succ, Nat.pow_add, show 2 ^ 8 = 256 by decide]
    ring

/-- A datum is its first bytes and the rest above them. -/
theorem State.load_add (s : State) (k m n : Nat) : s.load k (m + n) = s.load k m + 2 ^ (8 * m) * s.load (k + m) n := by
  rw [State.load, State.bytes_add, ofBytes_append, State.bytes_length]
  rfl

/-- A field of whole bytes of a datum is the datum of those bytes. -/
theorem slot_load (s : State) (k j m n : Nat) (h : j + m ≤ n) : slot (8 * j) (8 * m) (s.load k n) = s.load (k + j) m := by
  obtain ⟨r, rfl⟩ := Nat.exists_eq_add_of_le h
  have below := s.load_lt k j
  have inside := s.load_lt (k + j) m
  rw [Nat.add_assoc, State.load_add, State.load_add, slot, Nat.add_mul_div_left _ _ (Nat.two_pow_pos _),
    Nat.div_eq_of_lt below, Nat.zero_add, Nat.add_mul_mod_self_left, Nat.mod_eq_of_lt inside]

/-! ### `spawn` (R18, R187) -/

/-- The frame that the 56 bytes of a record make (R18, R187). -/
theorem frameOfImage_load_entry (s : State) (k : Nat) : (frameOfImage (s.load k 56)).entry = BitVec.ofNat 64 (s.load k 8) :=
  congrArg (BitVec.ofNat 64) (slot_load s k 0 8 56 (by omega))

theorem frameOfImage_load_arg (s : State) (k : Nat) {i : Nat} (hi : i < 6) :
    (frameOfImage (s.load k 56)).args.toList.getD i 0 = BitVec.ofNat 64 (s.load (k + 8 + 8 * i) 8) := by
  have arg : slot (64 * (i + 1)) 64 (s.load k 56) = s.load (k + 8 + 8 * i) 8 := by
    have := slot_load s k (8 * (i + 1)) 8 56 (by omega)
    rwa [show 8 * (8 * (i + 1)) = 64 * (i + 1) by omega, show k + 8 * (i + 1) = k + 8 + 8 * i by omega] at this
  rw [← arg]
  simp [frameOfImage, hi]

/-- The frame that `spawn` of a record pushes: the record with the strand's shadow format registers (R187). -/
def State.spawned (s : State) (key : Nat) : Frame :=
  { frameOfImage (s.load key 56) with fmta := s.me.fmta, fmtb := s.me.fmtb, scla := s.me.scla, sclb := s.me.sclb }

theorem exec_spawn_own {s : State} (h : s.Free) (a : Reg) (la : La) (hown : s.Own (s.me.greg a) 64)
    (hentry : s.load (s.ownKey (s.me.greg a)) 8 % 4 = 0) (hnear : (s.core s.cur.1).deque.hw.length < 32)
    (hroom : 0 < (s.core s.cur.1).deque.room) :
    exec (.spawn a la) s =
      .next ((s.modDeque s.cur.1 fun q => { q with hw := s.spawned (s.ownKey (s.me.greg a)) :: q.hw }).retire .on) := by
  have aligned : s.load (padKey s.cur.1 (s.me.greg a).toNat) 56 % 4 = 0 := by
    rw [show 56 = 8 + 48 from rfl, State.load_add]
    simp only [State.ownKey] at hentry
    omega
  have plain : field 63 60 (s.me.greg a) ≠ 1 := by
    have := hown.space
    simp only [field]
    omega
  change execSpawn a la s = _
  simp only [execSpawn, State.gate_free h, State.read_free h, State.own_checkElem hown, State.own_elemVerdict hown, hown.clean,
    State.pops_free h, State.pushNear, if_pos hnear, if_neg plain, aligned, hroom.ne']
  rfl

/-! ### `take` of an own frame (R188) -/

/-- Words written one after another to the registers from g4 on. -/
theorem Strand.greg_foldl_setGreg (t : Strand) (v : Nat → Word) (r : Reg) (n : Nat) (hn : n ≤ 27) :
    ((List.range n).foldl (fun t i => t.setGreg (BitVec.ofNat 5 (4 + i)) (v i)) t).greg r =
      if 4 ≤ r.toNat ∧ r.toNat < 4 + n then v (r.toNat - 4) else t.greg r := by
  induction n with
  | zero => exact (if_neg (by omega)).symm
  | succ n ih =>
    rw [List.range_succ, List.foldl_append, List.foldl_cons, List.foldl_nil]
    by_cases hr : r = BitVec.ofNat 5 (4 + n)
    · have number : r.toNat = 4 + n := by rw [hr, BitVec.toNat_ofNat]; omega
      have notZero : r ≠ 0 := fun h => by rw [h] at number; simp at number; omega
      rw [← hr, Strand.greg_setGreg _ _ _ notZero, if_pos (by omega), number, Nat.add_sub_cancel_left]
    · have other : r.toNat ≠ 4 + n := fun h => hr (by rw [← h, BitVec.ofNat_toNat, BitVec.setWidth_eq])
      rw [Strand.greg_setGreg_other _ _ _ _ hr, ih (by omega)]
      exact if_congr (by omega) rfl rfl

theorem Strand.greg_loadFrame (t : Strand) (f : Frame) (r : Reg) :
    (t.loadFrame f).greg r = if 4 ≤ r.toNat ∧ r.toNat < 10 then f.args.toList.getD (r.toNat - 4) 0 else t.greg r :=
  t.greg_foldl_setGreg (fun i => f.args.toList.getD i 0) r 6 (by decide)

theorem Strand.loadFrame_status (t : Strand) (f : Frame) : (t.loadFrame f).status = t.status := by
  simp [Strand.loadFrame, List.range_succ]

/-- What a strand holds once it has entered a frame by a `take` at `pc`, but for its PC (R188). -/
def Strand.entered (t : Strand) (f : Frame) (d : Reg) (pc : Word) : Strand := (t.loadFrame f).setGreg d (pc + 4)

theorem Strand.entered_format (t : Strand) (f : Frame) (d : Reg) (pc : Word) :
    ((t.entered f d pc).fmta, (t.entered f d pc).fmtb, (t.entered f d pc).scla, (t.entered f d pc).sclb) =
      (f.fmta, f.fmtb, f.scla, f.sclb) := by
  rw [Strand.entered, Strand.setGreg_fmta, Strand.setGreg_fmtb, Strand.setGreg_scla, Strand.setGreg_sclb]
  rfl

theorem Strand.greg_entered_dest (t : Strand) (f : Frame) (d : Reg) (pc : Word) :
    (t.entered f d pc).greg d = if d = 0 then 0 else pc + 4 := by
  split
  case isTrue h => rw [h, Strand.greg_zero]
  case isFalse h => exact Strand.greg_setGreg _ _ _ h

theorem Strand.greg_entered_other (t : Strand) (f : Frame) (d : Reg) (pc : Word) {r : Reg} (h : r ≠ d) :
    (t.entered f d pc).greg r = (t.loadFrame f).greg r := Strand.greg_setGreg_other _ _ _ _ h

/-- A `take` that has its frame enters it in the strand, and touches no more of the core than the steward's mark (R188, R264). -/
theorem State.taken_some {s : State} (h : s.me.qmap = false) (d : Reg) (pc : Word) (f : Frame) :
    ∃ t, s.taken s.cur.1 s.cur.2 d pc (some f) = t ∧ t.me = s.me.entered f d pc ∧ t.mem = s.mem ∧ t.cur = s.cur ∧
      (t.core s.cur.1).deque.hw = (s.core s.cur.1).deque.hw := by
  have noPorts : ((s.modMe fun t => t.loadFrame f).strand s.cur.1 s.cur.2).qmap = false := by
    rw [State.strand_modMe, Strand.qmap, Strand.loadFrame_status]
    exact h
  have entered : s.taken s.cur.1 s.cur.2 d pc (some f) = (s.modMe fun t => t.entered f d pc).tookFirst s.cur.1 s.cur.2 := by
    change ((s.modMe fun t => t.loadFrame f).writeG s.cur.1 s.cur.2 d (pc + 4)).tookFirst _ _ = _
    rw [State.writeG_plain _ _ _ _ _ noPorts, State.modStrand_modMe]
    rfl
  refine ⟨_, entered, ?_⟩
  unfold State.tookFirst
  split
  · exact ⟨((s.modMe _).me_modDeque _).trans (s.me_modMe _), rfl, rfl, by rw [State.core_modDeque, State.core_modMe]; rfl⟩
  · exact ⟨s.me_modMe _, rfl, rfl, by rw [State.core_modMe]; rfl⟩

theorem State.popNear_cons {s : State} {c : Nat} {f : Frame} {rest : List Frame} (hq : (s.core c).deque.hw = f :: rest)
    (hr : rest ≠ [] ∨ (s.core c).deque.overN = 0) : s.popNear c = some (f, s.modDeque c fun q => { q with hw := rest }) := by
  have last : ¬(rest.isEmpty && 0 < (s.core c).deque.overN) = true := by
    simpa [Nat.pos_iff_ne_zero, imp_iff_not_or] using hr
  simp only [State.popNear, hq, if_neg last]

theorem State.me_retire (s : State) (f : Flow) : (s.retire f).me = s.me.complete s.me.pc s.me.skip f := s.me_modMe _

theorem State.deque_retire (s : State) (f : Flow) : ((s.retire f).core s.cur.1).deque = (s.core s.cur.1).deque := by
  rw [State.retire, State.core_modMe, Core.setStrand_deque]

/-- `take` with a frame in the hardware part enters it. -/
theorem exec_take_own {s : State} (h : s.Free) (d : Reg) (la : La) {f : Frame} {rest : List Frame}
    (hq : (s.core s.cur.1).deque.hw = f :: rest) (hr : rest ≠ [] ∨ (s.core s.cur.1).deque.overN = 0) :
    ∃ t, exec (.take d la) s = .next t ∧ (t.core s.cur.1).deque.hw = rest ∧ t.mem = s.mem ∧
      t.me = (s.me.entered f d s.me.pc).complete s.me.pc 0 (.to f.entry false) := by
  let u := s.modDeque s.cur.1 fun q => { q with hw := rest }
  have hu : u.me = s.me := s.me_modDeque _
  obtain ⟨t, taken, hme, hmem, hcur, hhw⟩ := State.taken_some (s := u) (by rw [hu]; exact h.noPorts) d s.me.pc f
  refine ⟨t.retire (.to f.entry false), ?_, ?_, hmem, ?_⟩
  · change execTake d la s = _
    rw [execTake, State.gate_free h, State.popNear_cons hq hr, ← taken]
    simp only [State.fullPort_free h, Bool.false_eq_true, if_false]
    rfl
  · have := t.deque_retire (.to f.entry false)
    rw [hcur] at this
    exact (congrArg Deque.hw this).trans (hhw.trans (congrArg (fun k => k.deque.hw) (s.core_modDeque _ _)))
  · rw [State.me_retire, hme, hu]
    rfl

/-! ### `take` from a victim (R109) -/

/-- An update of the issuing strand leaves alone which run a core is in and whether it has retired from it. -/
theorem State.run_modMe (s : State) (f : Strand → Strand) (c : Nat) :
    ((s.modMe f).core c).run = (s.core c).run ∧ ((s.modMe f).core c).retired = (s.core c).retired := by
  by_cases hc : c = s.cur.1
  · rw [hc, State.core_modMe]
    exact ⟨rfl, rfl⟩
  · rw [show (s.modMe f).core c = s.core c from s.core_setCore_other _ _ _ hc]
    exact ⟨rfl, rfl⟩

theorem State.runOf_modMe (s : State) (f : Strand → Strand) (c : Nat) : (s.modMe f).runOf c = s.runOf c := by
  simp only [State.runOf, (s.run_modMe f c).1, State.modMe_runs]

/-- The next victim does not depend on the asking strand. -/
theorem State.victim_modMe (s : State) (f : Strand → Strand) (asked : List Nat) :
    (s.modMe f).victim s.cur.1 asked = s.victim s.cur.1 asked := by
  have retired : (s.modMe f).isRetired = s.isRetired := funext fun c => (s.run_modMe f c).2
  have steal : ((s.modMe f).core s.cur.1).deque = (s.core s.cur.1).deque := by rw [State.core_modMe, Core.setStrand_deque]
  unfold State.victim
  rw [steal, retired, State.runOf_modMe]
  rfl

/-- A `take` whose request is under way waits. -/
theorem State.slot_take {s : State} {c n : Nat} {o : Outst} {d : Reg} {asked : List Nat} {m : Nat}
    (h : (s.strand c n).outst = some o) (hp : o.phase = .take d asked m none) : (s.service c n).endDone c n = s := by
  have idle : s.service c n = s := by simp only [State.service, h, hp, ite_self]
  simp only [idle, State.endDone, Strand.phase?, h, hp, Option.map_some]

/-- `take` with no frame and a victim asks it. -/
theorem exec_take_asks {s : State} (h : s.Free) (d : Reg) (la : La) (hq : (s.core s.cur.1).deque.hw = []) {v p : Nat}
    (hv : s.victim s.cur.1 [] = (some v, p)) :
    ∃ t, exec (.take d la) s = .next t ∧ s.WaitsIn t (.take d [v] 0 none) ∧
      t.agenda = s.agenda ++ [.theftRequest v s.cur.1 s.cn] := by
  let o : Outst := { s.issued la (.take d [] 0 none) with phase := .take d [v] 0 none }
  let u := (s.modMe fun t => t.held (s.issued la (.take d [] 0 none))).modDeque s.cur.1 fun q => { q with steal := p }
  let t := (u.setPhase s.cur.1 s.cur.2 (.take d [v] 0 none)).post (.theftRequest v s.cur.1 s.cn)
  have asked : (s.modMe fun t => t.held (s.issued la (.take d [] 0 none))).askVictim s.cur.1 s.cn d [] 0 = t := by
    simp only [State.askVictim, State.victim_modMe, hv, if_neg (show ¬8 ≤ 0 by decide)]
    exact congrArg (fun u => State.post u _) (u.setPhase_cn _)
  have hu : u.me = s.me.held (s.issued la (.take d [] 0 none)) := (State.me_modDeque _ _).trans (s.me_modMe _)
  have hme : t.me = s.me.held o := by
    refine (State.me_setPhase (congrArg Strand.outst hu) _).trans ?_
    rw [hu]
    rfl
  refine ⟨t, ?_, State.waitsIn_of_held hme rfl, rfl⟩
  change execTake d la s = _
  rw [execTake, State.gate_free h]
  simp only [State.popNear, hq]
  rw [State.hold_free h, asked]
  exact congrArg _ (State.slot_take (o := o) (congrArg Strand.outst hme) rfl)

/-! ### `join` (R83, R189) -/

theorem State.Own.modMe {s : State} {a : Word} {n : Nat} (h : s.Own a n) (f : Strand → Strand) : (s.modMe f).Own a n where
  space := h.space
  inside := by
    rw [State.modMe_cur, State.core_modMe]
    exact h.inside
  aligned := h.aligned
  unlocked := by
    rw [State.modMe_cur, State.core_modMe]
    exact h.unlocked
  noOthers := by
    rw [State.modMe_cur, State.core_modMe]
    exact h.noOthers
  clean := h.clean

theorem State.ownKey_modMe (s : State) (f : Strand → Strand) (a : Word) : (s.modMe f).ownKey a = s.ownKey a := rfl

theorem exec_join_free {s : State} (h : s.Free) (a : Reg) (la : La) (hown : s.Own (s.me.greg a) 8) :
    exec (.join a la) s =
      .next (((s.modMe fun t => t.held (s.issued la (.joinRelease (s.me.greg a)))).service s.cur.1 s.cur.2).endDone s.cur.1 s.cur.2) := by
  change execJoin a la s = _
  simp only [execJoin, State.gate_free h, State.read_free h, State.own_checkAcked hown, State.own_elemVerdict hown, Verdict.locks,
    Core.forced_nil, State.demanding_nil, State.retireViews_nil]
  rw [State.begin, State.pops_free h, State.hold_free h]

theorem State.overLines_idle (f : State → Nat → Option State) (s : State) (l : List Nat) (h : ∀ x ∈ l, f s x = some s) :
    State.overLines f l s = some s := by
  induction l with
  | nil => rfl
  | cons x l ih =>
    rw [State.overLines, h x List.mem_cons_self]
    exact ih fun y hy => h y (List.mem_cons_of_mem x hy)

/-- An L1 with nothing dirty has nothing to write back (R55). -/
theorem State.cleanAll_clean (s : State) (c n : Nat) (h : ∀ e ∈ (s.core c).l1, e.2.dirty = 0) : s.cleanAll c n = some s := by
  refine State.overLines_idle _ s _ fun l _ => ?_
  unfold State.cleanLine
  split
  case h_1 => rfl
  case h_2 f fr hf => exact if_pos (h (f, fr) (List.mem_of_find?_eq_some hf))

/-- A release finds nothing to wait for in a settled strand (R83). -/
theorem State.release_settled {s : State} (h : s.Settled) {o : Outst} (ho : o.cleaning = none) :
    ∃ w, (s.modMe fun t => t.held o).release s.cur.1 s.cur.2 .partition =
      (.done, s.modMe fun t => t.held { o with cleaning := some w }) := by
  let u := s.modMe fun t => t.held o
  have l1 : (u.core s.cur.1).l1 = (s.core s.cur.1).l1 := by rw [State.core_modMe, Core.setStrand_l1]
  have outst : (u.strand s.cur.1 s.cur.2).outst = some o := by rw [State.strand_modMe, Strand.held_outst]
  have acks : (u.strand s.cur.1 s.cur.2).acks = 0 := by
    rw [State.strand_modMe]
    exact h.acked
  have clean : u.cleanAll s.cur.1 s.cur.2 = some u := u.cleanAll_clean _ _ fun e he => (h.clean e (l1 ▸ he)).1
  have nothing : (u.core s.cur.1).cleaning.result = .done := by
    have noneSent : (s.core s.cur.1).l1.filter (fun e => e.2.sent != 0) = [] := by
      rw [List.filter_eq_nil_iff]
      intro e he
      simp [(h.clean e he).2.1]
    simp only [Core.cleaning, l1, noneSent]
    rfl
  refine ⟨(u.core s.cur.1).cleaning, ?_⟩
  change u.release s.cur.1 s.cur.2 .partition = _
  simp only [State.release, State.cleanL1, acks, outst, Option.bind_some, ho, clean, nothing, wide]
  simp only [reduceCtorEq, ne_eq, not_true_eq_false, if_false, Bool.not_true, Bool.false_eq_true]
  exact congrArg _ ((s.modStrand_modMe _ _).trans rfl)

/-- A `join` in its first slot, its strand being settled, sends its decrement. -/
theorem State.service_join {s : State} (h : s.Settled) (la : La) (a : Word) :
    ∃ w, (s.modMe fun t => t.held (s.issued la (.joinRelease a))).service s.cur.1 s.cur.2 =
      let u := s.modMe fun t => t.held { s.issued la (.joinRelease a) with cleaning := some w }
      (u.sendJoin s.cur.1 s.cur.2 s.me.pc a).getD u := by
  obtain ⟨w, hw⟩ := State.release_settled h (o := s.issued la (.joinRelease a)) rfl
  refine ⟨w, ?_⟩
  have noTrap : (s.issued la (.joinRelease a)).err.isSome = false := rfl
  have phase : (s.issued la (.joinRelease a)).phase = .joinRelease a := rfl
  simp only [State.service, State.strand_modMe, Strand.held_outst, noTrap, phase, State.releaseThen, hw, State.onRelease]
  rfl

/-- The decrement of a counter (R189). -/
def decrement : Access := .rmw .add false 8 (BitVec.allOnes 64) 0

/-- The decrement of a counter in the own scratchpad is performed and answered at once. -/
theorem State.sendJoin_own {s : State} {a : Word} (h : s.Own a 8) (pc : Word) :
    s.sendJoin s.cur.1 s.cur.2 pc a =
      let r := s.applyPad (s.ownKey a) decrement
      some ((r.2.2.setPhase s.cur.1 s.cur.2 (.access .joined 8 [] 1 [replyOk 0 r.1 r.2.1])).answered s.cur.1 s.cur.2) := by
  have clear : s.verdict s.cur.1 s.cur.2 (.own a.toNat) true 8 = .clear := s.own_verdict h s.cur.2 true 0 8 (by decide)
  simp only [State.sendJoin, State.own_target h, clear, h.clean]
  rfl

/-- What a decrement performed in the own scratchpad reads and changes. -/
theorem State.applyPad_decrement (s : State) (k : Nat) :
    let r := s.applyPad k decrement
    r.1 = s.load k 8 ∧ r.2.2.mem = (s.store k 8 ((s.load k 8 + (2 ^ 64 - 1)) % 2 ^ 64)).mem ∧ r.2.2.cur = s.cur ∧ r.2.2.me = s.me := by
  obtain ⟨m, sr, f, frame⟩ := s.applyPad_frame k decrement
  exact ⟨rfl, State.bump_mem _ _, by rw [frame], by rw [frame]; rfl⟩

/-- The completion that a `Phase.done` stands for. -/
def doneFlow : Option (Word × Bool) → Flow
  | none => .on
  | some (a, cancels) => .to a cancels

/-- An outstanding instruction that is complete ends. -/
theorem State.me_endDone {s : State} {o : Outst} (h : s.me.outst = some o) (r : Option (Word × Bool)) :
    ((s.setPhase s.cur.1 s.cur.2 (.done r)).endDone s.cur.1 s.cur.2).me =
      { s.me with outst := none }.complete o.pc o.retired (doneFlow r) := by
  have hme := State.me_setPhase h (.done r)
  have phase : ((s.setPhase s.cur.1 s.cur.2 (.done r)).strand s.cur.1 s.cur.2).phase? = some (.done r) :=
    congrArg Strand.phase? hme
  have finished (f : Flow) : ((s.setPhase s.cur.1 s.cur.2 (.done r)).finish s.cur.1 s.cur.2 f).me =
      { s.me with outst := none }.complete o.pc o.retired f := by
    refine (State.strand_modStrand _ _ _ _).trans ?_
    rw [show (s.setPhase s.cur.1 s.cur.2 (.done r)).strand s.cur.1 s.cur.2 = _ from hme]
  rcases r with _ | ⟨a, c⟩ <;> rw [State.endDone, phase] <;> exact finished _

theorem State.endDone_mem (s : State) (c n : Nat) : (s.endDone c n).mem = s.mem := by
  unfold State.endDone
  split <;> rfl

/-- A strand whose last acknowledged access returned a serial (R86, R189). -/
def Strand.withSerial (t : Strand) (serial : BitVec 32) : Strand := { t with lastseq := serial }

/-- A `join` whose answer has come completes, with its serial in LASTSEQ, and acquires if it was the last (R189). -/
theorem State.joined_end {s : State} {o : Outst} (h : s.me.outst = some o) (v : Nat) (serial : BitVec 32)
    (hp : o.phase = .access .joined 8 [] 1 [replyOk 0 v serial]) :
    let t := (s.answered s.cur.1 s.cur.2).endDone s.cur.1 s.cur.2
    t.mem = s.mem ∧ t.me = { s.me.withSerial serial with outst := none }.complete o.pc o.retired
      (doneFlow (Dest.joined.flow o.pc o.retired [replyOk 0 v serial])) := by
  let u := if v = 1 then s.modCore s.cur.1 Core.acquire else s
  have umem : u.mem = s.mem := by
    unfold u
    split <;> rfl
  have ucur : u.cur = s.cur := by
    unfold u
    split <;> rfl
  have ume : u.me = s.me := by
    unfold u
    split
    · exact s.me_modCore _ rfl
    · rfl
  have answered : s.answered s.cur.1 s.cur.2 = (u.modStrand s.cur.1 s.cur.2 fun t => t.withSerial serial).setPhase s.cur.1 s.cur.2
      (.done (Dest.joined.flow o.pc o.retired [replyOk 0 v serial])) := by
    simp only [State.answered, show (s.strand s.cur.1 s.cur.2).outst = some o from h, hp]
    rfl
  rw [answered]
  refine ⟨(State.endDone_mem _ _ _).trans umem, ?_⟩
  rw [← ucur]
  have := State.me_endDone (s := u.modMe fun t => t.withSerial serial) (o := o)
    (by rw [State.me_modMe, ume]; exact h) (Dest.joined.flow o.pc o.retired [replyOk 0 v serial])
  rw [State.me_modMe, ume] at this
  exact this

/-- The decrement sent, a `join` of a counter in the own scratchpad ends in the same slot (R189). -/
theorem State.sendJoin_ends {s : State} (h : s.me.outst = none) {a : Word} (hown : s.Own a 8) {o : Outst} (hp : o.pc = s.me.pc)
    (hr : o.retired = 0) :
    let u := s.modMe fun t => t.held o
    let t := ((u.sendJoin s.cur.1 s.cur.2 s.me.pc a).getD u).endDone s.cur.1 s.cur.2
    let old := s.load (s.ownKey a) 8
    t.mem = (s.store (s.ownKey a) 8 ((old + (2 ^ 64 - 1)) % 2 ^ 64)).mem ∧
      ∃ serial, t.me = (s.me.withSerial serial).complete s.me.pc 0 (doneFlow (Dest.joined.flow s.me.pc 0 [replyOk 0 old serial])) := by
  intro u t old
  let r := u.applyPad (s.ownKey a) decrement
  let p : Phase := .access .joined 8 [] 1 [replyOk 0 r.1 r.2.1]
  obtain ⟨read, stored, rcur, rme⟩ := u.applyPad_decrement (s.ownKey a)
  have same : u.load (s.ownKey a) 8 = old := State.load_of_mem rfl _ 8
  have held : r.2.2.me = s.me.held o := rme.trans (s.me_modMe _)
  have hcur : r.2.2.cur = s.cur := rcur
  have hme : (r.2.2.setPhase s.cur.1 s.cur.2 p).me = s.me.held { o with phase := p } := by
    rw [← hcur, State.me_setPhase (congrArg Strand.outst held), held]
    rfl
  have sent : t = ((r.2.2.setPhase s.cur.1 s.cur.2 p).answered s.cur.1 s.cur.2).endDone s.cur.1 s.cur.2 := by
    have := State.sendJoin_own (hown.modMe fun t => t.held o) s.me.pc
    rw [State.modMe_cur, State.ownKey_modMe] at this
    unfold t
    rw [this]
    rfl
  obtain ⟨tmem, tme⟩ := State.joined_end (s := r.2.2.setPhase s.cur.1 s.cur.2 p) (congrArg Strand.outst hme) r.1 r.2.1 rfl
  rw [show (r.2.2.setPhase s.cur.1 s.cur.2 p).cur = s.cur from hcur, ← sent] at tmem tme
  refine ⟨tmem.trans (stored.trans ?_), r.2.1, tme.trans ?_⟩
  · rw [same]
    exact State.store_of_mem rfl _ _ _
  · rw [hme, show r.1 = old from read.trans same]
    change Strand.complete { (s.me.withSerial r.2.1).held { o with phase := p } with outst := none } o.pc o.retired _ = _
    rw [Strand.complete_held (s.me.withSerial r.2.1) h, hp, hr]

/-- `join` of a counter in the own scratchpad by a settled strand decrements it, and completes as it was the last or not. -/
theorem exec_join_own {s : State} (h : s.Free) (hs : s.Settled) (a : Reg) (la : La) (hown : s.Own (s.me.greg a) 8) :
    let key := s.ownKey (s.me.greg a)
    ∃ t serial, exec (.join a la) s = .next t ∧ t.mem = (s.store key 8 ((s.load key 8 + (2 ^ 64 - 1)) % 2 ^ 64)).mem ∧
      t.me = (s.me.withSerial serial).complete s.me.pc 0
        (doneFlow (Dest.joined.flow s.me.pc 0 [replyOk 0 (s.load key 8) serial])) := by
  obtain ⟨w, service⟩ := State.service_join hs la (s.me.greg a)
  obtain ⟨hmem, serial, hme⟩ := State.sendJoin_ends hs.idle hown
    (o := { s.issued la (.joinRelease (s.me.greg a)) with cleaning := some w }) rfl rfl
  exact ⟨_, serial, by rw [exec_join_free h a la hown, service], hmem, hme⟩

/-- A completion leaves the general registers and what is outstanding alone. -/
theorem Strand.complete_keeps (t : Strand) (pc : Word) (skip : Nat) (f : Flow) :
    (t.complete pc skip f).outst = t.outst ∧ ∀ r, (t.complete pc skip f).greg r = t.greg r := by
  obtain ⟨p, l0, l1, frame⟩ := t.complete_frame pc skip f
  rw [frame]
  exact ⟨rfl, fun _ => rfl⟩

/-- With no loop, a `join` goes on if it was the last and else skips an instruction (R189). -/
theorem Strand.complete_join (t : Strand) (h0 : t.level0.active = false) (h1 : t.level1.active = false) (pc : Word) (v : Nat)
    (serial : BitVec 32) : (t.complete pc 0 (doneFlow (Dest.joined.flow pc 0 [replyOk 0 v serial]))).pc =
      if v = 1 then pc + 4 else pc + 8 := by
  have flow : Dest.joined.flow pc 0 [replyOk 0 v serial] = if v = 1 then none else some (pc + 8, true) := rfl
  by_cases hv : v = 1
  · rw [if_pos hv, flow, if_pos hv, doneFlow, Strand.complete_on _ _ _ h0 h1]
    rfl
  · rw [if_neg hv, flow, if_neg hv]
    rfl

/-! ### The statement -/

/-- Settles O37. `spawn` and a `take` of an own frame complete at once; a `take` that asks and a `yield` on an empty deque wait
in their phase; a `join` releases, decrements and ends in its first slot. -/
theorem deque : Obligations.Deque := by
  intro s hfree hidle d a la
  dsimp only
  refine ⟨fun hown _ hentry hnear hroom => ?_, fun f rest hq hr => ?_, fun hq v p hv => exec_take_asks hfree d la hq hv,
    fun hwf hsettled hloop hown => ?_, fun hq => exec_yield_some hfree hidle la hq, fun hq => exec_yield_none hfree la hq⟩
  · refine ⟨s.spawned _, exec_spawn_own hfree a la hown hentry hnear ?_, frameOfImage_load_entry s _,
      fun i hi => frameOfImage_load_arg s _ hi, rfl⟩
    simp only [Deque.room, Deque.depth]
    omega
  · obtain ⟨t, run, hhw, hmem, hme⟩ := exec_take_own hfree d la hq hr
    refine ⟨t, run, by rw [hme]; rfl, hhw, fun i hi hd => ?_, ?_, ?_, fun r hd hr => ?_, hmem⟩
    · have number : (BitVec.ofNat 5 (4 + i)).toNat = 4 + i := by rw [BitVec.toNat_ofNat]; omega
      rw [hme, (Strand.complete_keeps _ _ _ _).2, Strand.greg_entered_other _ _ _ _ hd, Strand.greg_loadFrame, if_pos (by omega),
        number, Nat.add_sub_cancel_left]
    · rw [hme, (Strand.complete_keeps _ _ _ _).2]
      exact Strand.greg_entered_dest _ _ _ _
    · rw [hme]
      exact Strand.entered_format _ _ _ _
    · rw [hme, (Strand.complete_keeps _ _ _ _).2, Strand.greg_entered_other _ _ _ _ hd, Strand.greg_loadFrame, if_neg (by omega)]
  · obtain ⟨t, serial, run, hmem, hme⟩ := exec_join_own hfree hsettled a la hown
    refine ⟨t, run, ⟨?_, fun k hk => ?_⟩, ?_, ?_, ?_⟩
    · rw [State.load_of_mem hmem, State.load_store _ _ _ _ hwf]
      exact Nat.mod_mod _ _
    · rw [State.byte_of_mem hmem]
      exact s.byte_store_other _ _ _ k hk hwf
    · rw [hme]
      exact (s.me.withSerial serial).complete_join hloop.inner hloop.outer _ _ _
    · rw [hme, (Strand.complete_keeps _ _ _ _).1]
      exact hidle
    · rw [hme]
      exact (Strand.complete_keeps _ _ _ _).2

end Sys2Proof.Machine
end

section
/-! PROOFS. The statement of `02_number_formats.md` about the events of a core (R272, R285). -/

namespace Sys2Proof.Machine

/-! ### Interrupts of a strand whose TIN is set (R272, R285) -/

theorem State.life_doorbell (s : State) (c n m : Nat) : ((s.doorbell c n).strand c m).life = (s.strand c m).life := by
  by_cases h : m % 16 = 0
  · have same : ∀ u : State, u.strand c m = u.strand c 0 := fun u => by simp [State.strand, Core.strand, h]
    rw [same, same, State.doorbell, State.strand_modStrand]
  · rw [State.doorbell, State.strand_modStrand_other _ _ _ _ _ _ (.inr h)]

theorem State.life_firstFault (s : State) (c n code d m : Nat) : ((s.firstFault c n code).strand d m).life = (s.strand d m).life := by
  unfold State.firstFault
  split <;> rfl

theorem State.life_enterFaulted (s : State) (c n code : Nat) : ((s.enterFaulted c n code).strand c n).life = .faulted := by
  have marked : (((((s.forsake c (.strand (n % 16))).modStrand c n fun t => { t with life := .faulted, stall := none }).firstFault c n
      code)).strand c n).life = .faulted := by
    rw [State.life_firstFault, State.strand_modStrand]
  unfold State.enterFaulted
  dsimp only
  split
  · exact marked
  · rw [State.life_doorbell]
    exact marked

/-- An interrupt that a strand takes while its TIN is set is a machine check: the strand enters FAULTED. -/
theorem exec_interruptEntry_tin {s : State} {c n i : Nat} (hi : (s.core c).interrupt? n = some i) (ht : s.interrupted c n = true)
    (hp : (s.strand c n).popped = []) (htin : (s.strand c n).tin = true) :
    ∃ u, exec (.interruptEntry c n) s = .next u ∧ (u.strand c n).life = .faulted := by
  have notDeferred : (s.strand c n).defers = false := by simp [Strand.defers, htin]
  have tin : ((s.setAside c n).strand c n).tin = true := by
    rw [State.setAside, State.unpop, hp, State.strand_modStrand]
    exact htin
  refine ⟨(s.setAside c n).entry c n (BitVec.ofNat 64 (2 ^ 63 + i)) (s.strand c n).nextPc 0 0 0 (s.strand c n).nextPc, ?_, ?_⟩
  · change execInterruptEntry c n s = _
    simp only [execInterruptEntry, hi, ht, notDeferred]
    rfl
  · rw [State.entry]
    simp only [tin, if_true]
    exact State.life_enterFaulted _ _ _ _

/-- Strand 0 of core 256 runs with interrupts enabled and TIN set, as a handler that has set IE again does, and an intercalation
notice is pending. -/
def handlerNotified : State :=
  State.reset.modStrand 256 0 fun t => { t with life := .running, status := 0x2180, xn := true }

theorem handlerNotified_strand :
    handlerNotified.strand 256 0 = { Strand.reset with life := .running, status := 0x2180, xn := true } :=
  State.strand_modStrand _ _ _ _

theorem handlerNotified_interrupt : (handlerNotified.core 256).interrupt? 0 = some 0 := by decide

/-- Refutes O47: the clause about interrupt entry admits a strand whose TIN is set, and such a strand is FAULTED by the interrupt with
none of the steps of an entry done (R272). -/
theorem not_coreEvents : ¬ Obligations.CoreEvents := by
  intro h
  obtain ⟨-, -, -, -, -, -, -, -, entry, -⟩ := h handlerNotified 256 0 0
  have strand := handlerNotified_strand
  obtain ⟨t, run, taken⟩ := entry 0 handlerNotified_interrupt
    ⟨by rw [strand], by rw [strand]; rfl, by rw [strand]; rfl, by rw [strand]; rfl, fun w m hw => by rw [strand] at hw; cases hw⟩
    (by rw [strand]; rfl) (.inr (by rw [strand]; rfl))
  obtain ⟨u, run', faulted⟩ := exec_interruptEntry_tin handlerNotified_interrupt (by decide) (by rw [strand]; rfl) (by rw [strand]; rfl)
  cases Host.Outcome.next.inj (run.symm.trans run')
  obtain ⟨-, -, -, -, -, -, -, -, -, -, -, -, -, -, -, life, -⟩ := taken
  have running : (handlerNotified.strand 256 0).life = .running := by rw [strand]
  exact Life.noConfusion (faulted.symm.trans (life.trans running))

end Sys2Proof.Machine
end

section
/-! PROOFS. The statement of `02_number_formats.md` about the long accumulators and the almanac (R44, R45, R58, R59, R176, R178, R260 to
R262). -/

namespace Sys2Proof.Machine

/-! ### Doublewords of memory (R2) -/

/-- The number whose 64-bit words are given, the lowest first. -/
def wordsValue (ws : List Nat) : Nat := ws.zipIdx.foldl (fun a w => a + w.1 * 2 ^ (64 * w.2)) 0

theorem wordsValue_concat (ws : List Nat) (w : Nat) : wordsValue (ws ++ [w]) = wordsValue ws + w * 2 ^ (64 * ws.length) := by
  simp [wordsValue, List.zipIdx_append]

/-- A datum of n doublewords is the number they make. -/
theorem State.load_words (s : State) (k n : Nat) : s.load k (8 * n) = wordsValue ((List.range n).map fun i => s.load (k + 8 * i) 8) := by
  induction n with
  | zero => rfl
  | succ n ih =>
    rw [List.range_succ, List.map_append, List.map_singleton, wordsValue_concat, ← ih, Nat.mul_succ, State.load_add, List.length_map,
      List.length_range, ← Nat.mul_assoc, Nat.mul_comm (s.load (k + 8 * n) 8)]

/-- A number is made of its words. -/
theorem wordsValue_digits (u n : Nat) : wordsValue ((List.range n).map fun i => u / 2 ^ (64 * i) % 2 ^ 64) = u % 2 ^ (64 * n) := by
  induction n with
  | zero => simp [wordsValue, Nat.mod_one]
  | succ n ih =>
    rw [List.range_succ, List.map_append, List.map_singleton, wordsValue_concat, ih, List.length_map, List.length_range, Nat.mul_succ,
      Nat.pow_add, Nat.mod_mul, Nat.mul_comm (2 ^ (64 * n))]

/-- Doublewords written one after another into a record at a key. -/
def State.putWords (s : State) (key : Nat) (ws : List (Nat × Nat)) : State := ws.foldl (fun s w => s.store (key + 8 * w.1) 8 w.2) s

theorem State.putWords_cons (s : State) (key : Nat) (w : Nat × Nat) (ws : List (Nat × Nat)) :
    s.putWords key (w :: ws) = (s.store (key + 8 * w.1) 8 w.2).putWords key ws := List.foldl_cons ..

theorem State.putWords_of_mem {s t : State} (h : t.mem = s.mem) (key : Nat) (ws : List (Nat × Nat)) :
    (t.putWords key ws).mem = (s.putWords key ws).mem := by
  induction ws generalizing s t with
  | nil => exact h
  | cons w ws ih =>
    rw [State.putWords_cons, State.putWords_cons]
    exact ih (State.store_of_mem h _ _ _)

/-- Words written into a record of n leave every byte outside it as before. -/
theorem State.byte_putWords_other {s : State} {key n : Nat} (ws : List (Nat × Nat)) (hw : ∀ w ∈ ws, w.1 < n)
    (hwf : Memory.wf s.mem = true) {k : Nat} (hk : k < key ∨ key + 8 * n ≤ k) : (s.putWords key ws).byte k = s.byte k := by
  induction ws generalizing s with
  | nil => rfl
  | cons w ws ih =>
    have inside := hw w List.mem_cons_self
    rw [State.putWords_cons, ih (fun x hx => hw x (List.mem_cons_of_mem w hx)) (State.wf_store _ _ _ _ hwf),
      State.byte_store_other _ _ _ _ _ (by omega) hwf]

/-- A datum that no written byte touches is as before. -/
theorem State.load_store_other (s : State) (k n v j m : Nat) (h : j + m ≤ k ∨ k + n ≤ j) (hwf : Memory.wf s.mem = true) :
    (s.store k n v).load j m = s.load j m := by
  have bytes : (s.store k n v).bytes j m = s.bytes j m := by
    induction m generalizing j with
    | zero => rfl
    | succ m ih => exact congrArg₂ List.cons (s.byte_store_other k n v j (by omega) hwf) (ih (j + 1) (by omega))
  exact congrArg ofBytes bytes

/-- What a record's words are once some are written: those listed as listed, the others as before. -/
theorem State.load_putWords {s : State} {key : Nat} {W : Nat → Nat} (ws : List (Nat × Nat)) (hwf : Memory.wf s.mem = true)
    (listed : ∀ i v, (i, v) ∈ ws → v = W i ∧ W i < 2 ^ 64) {i : Nat} (other : (∀ v, (i, v) ∉ ws) → s.load (key + 8 * i) 8 = W i) :
    (s.putWords key ws).load (key + 8 * i) 8 = W i := by
  induction ws generalizing s with
  | nil => exact other fun _ => List.not_mem_nil
  | cons w ws ih =>
    obtain ⟨j, v⟩ := w
    obtain ⟨hv, hlt⟩ := listed j v List.mem_cons_self
    rw [State.putWords_cons]
    refine ih (State.wf_store _ _ _ _ hwf) (fun i v h => listed i v (List.mem_cons_of_mem _ h)) fun rest => ?_
    by_cases hij : i = j
    · subst hij
      rw [State.load_store _ _ _ _ hwf, hv]
      exact Nat.mod_eq_of_lt hlt
    · rw [State.load_store_other _ _ _ _ _ _ (by dsimp only; omega) hwf]
      exact other fun v h => (List.mem_cons.mp h).elim (fun e => hij (congrArg Prod.fst e)) (rest v)

/-! ### Writes of a long accumulator in the own scratchpad (R260 to R262) -/

/-- The 88 bytes at an address of the issuing core's own scratchpad are an accumulator with nothing in the way of an access. -/
structure State.OwnAcc (s : State) (x : Word) : Prop where
  aligned : x.toNat % 8 = 0
  inside : x.toNat + 88 ≤ (s.core s.cur.1).scr
  own : ∀ i, i < 11 → s.Own (x + BitVec.ofNat 64 (8 * i)) 8

theorem State.OwnAcc.space {s : State} {x : Word} (h : s.OwnAcc x) : x.toNat < 2 ^ 19 := by
  simpa using (h.own 0 (by decide)).space

/-- Word i of an accumulator lies 8 i bytes on. -/
theorem State.OwnAcc.word {s : State} {x : Word} (h : s.OwnAcc x) {i : Nat} (hi : i < 11) :
    (x + BitVec.ofNat 64 (8 * i)).toNat = x.toNat + 8 * i := by
  have := h.space
  rw [BitVec.toNat_add, BitVec.toNat_ofNat]
  omega

theorem State.OwnAcc.clean {s : State} {x : Word} (h : s.OwnAcc x) {i : Nat} (hi : i < 11) :
    s.poisoned? (padKey s.cur.1 (x.toNat + 8 * i) / 128) = none := h.word hi ▸ (h.own i hi).clean

theorem State.OwnAcc.accumulator {s : State} {x : Word} (h : s.OwnAcc x) : s.accumulator x = .ok x.toNat := by
  have space := h.space
  have low : field 18 0 x = x.toNat := by simp [field]; omega
  have h1 : field 63 60 x = 0 := by simp [field]; omega
  have h2 : field 59 19 x = 0 := by simp [field]; omega
  simp [State.accumulator, low, h1, h2, h.aligned, Nat.not_lt.mpr h.inside]

/-- The last byte of an accumulator lies in the line of its status word. -/
theorem State.OwnAcc.accPoison {s : State} {x : Word} (h : s.OwnAcc x) : s.accPoison x.toNat = none := by
  have line : padKey s.cur.1 (x.toNat + 87) / 128 = padKey s.cur.1 (x.toNat + 8 * 10) / 128 := by
    have := h.aligned
    simp only [padKey]
    omega
  have first := h.clean (i := 0) (by decide)
  rw [Nat.mul_zero, Nat.add_zero] at first
  rw [State.accPoison, line, first, h.clean (by decide)]
  rfl

/-- When and where the unit writes a word of an accumulator, and what, as it starts on a list of them (R262). -/
def State.accDueWord (s : State) (x : Word) (clears : Bool) (w : (Nat × Nat) × Nat) : Nat × Word × Nat × Nat :=
  ((s.core s.cur.1).ticks + (if clears then 6 else 5 + w.2), x + BitVec.ofNat 64 (8 * w.1.1), x.toNat + 8 * w.1.1, w.1.2)

def State.accDue (s : State) (x : Word) (clears : Bool) (ws : List (Nat × Nat)) : List (Nat × Word × Nat × Nat) :=
  ws.zipIdx.map (s.accDueWord x clears)

theorem State.accDue_bounds (s : State) (x : Word) (clears : Bool) (ws : List (Nat × Nat)) (h : ws.length ≤ 11) :
    ∀ w ∈ s.accDue x clears ws, (s.core s.cur.1).ticks + 5 ≤ w.1 ∧ w.1 ≤ (s.core s.cur.1).ticks + 15 := by
  intro w hw
  obtain ⟨⟨p, i⟩, hp, rfl⟩ := List.mem_map.mp hw
  have := List.snd_lt_of_mem_zipIdx hp
  simp only [State.accDueWord]
  split <;> omega

/-- Words of an accumulator with nothing in the way are taken on by the unit. -/
theorem State.OwnAcc.accWrite {s : State} {x : Word} (h : s.OwnAcc x) (hf : s.Free) (la : La) (srcs : List Reg) (clears : Bool)
    {ws : List (Nat × Nat)} (hw : ∀ w ∈ ws, w.1 < 11) :
    s.accWrite la srcs x x.toNat clears ws = .next (s.modMe fun t => t.held (s.issued la (.adding (s.accDue x clears ws)))) := by
  let xs : List (Nat × Word × Nat × Nat × Nat) := ws.map fun w => (0, x + BitVec.ofNat 64 (8 * w.1), 8, fullMask 8, w.2)
  have own : OwnElems s xs := by
    intro y hy
    obtain ⟨w, hmem, rfl⟩ := List.mem_map.mp hy
    exact h.own w.1 (hw w hmem)
  have elems : ws.map (fun w => (⟨0, x + BitVec.ofNat 64 (8 * w.1), .own (x.toNat + 8 * w.1), 8, fullMask 8,
      w.2⟩ : Elem)) = xs.map ownElem := by
    rw [List.map_map]
    refine List.map_congr_left fun w hmem => ?_
    simp only [Function.comp, ownElem, h.word (hw w hmem)]
  have unlocked : ((xs.map ownElem).find? fun e => s.elemVerdict s.cur.1 s.cur.2 true e == .locked) = none := by
    rw [List.find?_eq_none]
    intro e he
    obtain ⟨y, hy, rfl⟩ := List.mem_map.mp he
    simp [ownElem, State.own_elemVerdict (own y hy)]
  unfold State.accWrite
  rw [elems]
  simp only [unlocked, State.own_verdicts true xs own, Verdict.locks, Core.forced_nil, State.demanding_nil, State.retireViews_nil,
    State.pops_free hf, State.hold_free hf]
  rfl

/-! ### The unit's work (R262) -/

/-- A state with other memory, and what a write leaves of serials and free choices (R87). -/
def State.rewritten (s : State) (m : List Host.Cell) (sr : List (Nat × BitVec 32)) (f : Nat) : State :=
  { s with mem := m, serials := sr, fresh := f }

theorem State.rewritten_mem (s : State) (m : List Host.Cell) (sr : List (Nat × BitVec 32)) (f : Nat) :
    (s.rewritten m sr f).mem = m := rfl

theorem State.rewritten_poisoned? (s : State) (m : List Host.Cell) (sr : List (Nat × BitVec 32)) (f key : Nat) :
    (s.rewritten m sr f).poisoned? key = s.poisoned? key := rfl

theorem State.rewritten_rewritten (s : State) (m m' : List Host.Cell) (sr sr' : List (Nat × BitVec 32)) (f f' : Nat) :
    (s.rewritten m sr f).rewritten m' sr' f' = s.rewritten m' sr' f' := rfl

/-- A doubleword written to a clean line of the own scratchpad changes memory as a store does, and the line's serial. -/
theorem State.storeOwn_clean {s : State} {c off : Nat} (h : s.poisoned? (padKey c off / 128) = none) (a : Word) {v : Nat}
    (hv : v < 2 ^ 64) : ∃ sr f, s.storeOwn c a off 8 (fullMask 8) v = s.rewritten (s.store (padKey c off) 8 v).mem sr f := by
  obtain ⟨sr, f, bumped⟩ := (s.store (padKey c off) 8 v).bump_frame (padKey c off / 128)
  obtain ⟨m, stored⟩ := s.store_frame (padKey c off) 8 v
  refine ⟨sr, f, ?_⟩
  rw [State.storeOwn, if_neg (fullMask_ne_zero 8 (by decide)), h]
  dsimp only
  rw [State.storeMasked_full _ _ _ _ hv, bumped, stored]
  rfl

/-- One write of an accumulator's word by the unit (R262). -/
def State.accPut (c : Nat) (s : State) (w : Nat × Word × Nat × Nat) : State := s.storeOwn c w.2.1 w.2.2.1 8 (fullMask 8) w.2.2.2

/-- The unit's words written one after another change memory as stores do, and serials. -/
theorem State.accDue_written (s u : State) (x : Word) (clears : Bool) (ws : List (Nat × Nat)) (hv : ∀ w ∈ ws, w.2 < 2 ^ 64)
    (clean : ∀ w ∈ ws, u.poisoned? (padKey s.cur.1 (x.toNat + 8 * w.1) / 128) = none) :
    ∃ sr f, (s.accDue x clears ws).foldl (State.accPut s.cur.1) u = u.rewritten (u.putWords (s.ownKey x) ws).mem sr f := by
  suffices written : ∀ (k : Nat) (u : State), (∀ w ∈ ws, u.poisoned? (padKey s.cur.1 (x.toNat + 8 * w.1) / 128) = none) →
      ∃ sr f, ((ws.zipIdx k).map (s.accDueWord x clears)).foldl (State.accPut s.cur.1) u =
        u.rewritten (u.putWords (s.ownKey x) ws).mem sr f from written 0 u clean
  clear clean u
  induction ws with
  | nil => exact fun _ u _ => ⟨u.serials, u.fresh, rfl⟩
  | cons w ws ih =>
    intro k u clean
    have key : padKey s.cur.1 (x.toNat + 8 * w.1) = s.ownKey x + 8 * w.1 := by
      simp only [State.ownKey, padKey, Nat.add_assoc]
    obtain ⟨sr, f, first⟩ := State.storeOwn_clean (clean w List.mem_cons_self) (x + BitVec.ofNat 64 (8 * w.1))
      (hv w List.mem_cons_self)
    obtain ⟨sr', f', rest⟩ := ih (fun y hy => hv y (List.mem_cons_of_mem w hy)) (k + 1)
      (u.rewritten (u.store (padKey s.cur.1 (x.toNat + 8 * w.1)) 8 w.2).mem sr f) fun y hy => clean y (List.mem_cons_of_mem w hy)
    refine ⟨sr', f', ?_⟩
    rw [List.zipIdx_cons, List.map_cons, List.foldl_cons, State.accPut, State.accDueWord, first, rest, State.rewritten_rewritten,
      State.putWords_of_mem (State.rewritten_mem _ _ _ _), State.putWords_cons, key]

/-- All the words that are left written, an addition is done (R262, R312). -/
theorem State.accStep_all (s : State) {o : Outst} {todo : List (Nat × Word × Nat × Nat)} (h : o.phase = .adding todo) :
    let t := s.modMe fun t => t.held o
    t.accStep s.cur.1 s.cur.2 true =
      (todo.foldl (State.accPut s.cur.1) t).setPhase s.cur.1 s.cur.2 (.done none) := by
  intro t
  have all : ∀ l : List (Nat × Word × Nat × Nat), l.takeWhile (fun w => true || decide (w.1 ≤ (t.core s.cur.1).ticks)) = l := by
    intro l
    induction l with
    | nil => rfl
    | cons w l ih => exact congrArg (w :: ·) ih
  rw [State.accStep, State.phase?_held, h]
  dsimp only
  rw [all, List.drop_length]
  rfl

/-- An instruction of the long accumulator at an address starts the unit on words, and with them written `result` holds. -/
def State.AccStarts (s : State) (x : Word) (o : Out) (result : State → Prop) : Prop :=
  ∃ t ws, o = .next t ∧ s.WaitsIn t (.adding ws) ∧
    (∀ w ∈ ws, (s.core s.cur.1).ticks + 5 ≤ w.1 ∧ w.1 ≤ (s.core s.cur.1).ticks + 15) ∧
    let u := t.accStep s.cur.1 s.cur.2 true
    u.me.phase? = some (.done none) ∧ u.me.g = s.me.g ∧ (∀ k, k < s.ownKey x ∨ s.ownKey x + 88 ≤ k → u.byte k = s.byte k) ∧ result u

/-- The unit's work on words of an accumulator: they are written, and nothing else of memory changes. -/
theorem State.OwnAcc.starts {s : State} {x : Word} (h : s.OwnAcc x) (hf : s.Free) (hwf : Memory.wf s.mem = true) (la : La)
    (srcs : List Reg) (clears : Bool) {ws : List (Nat × Nat)} (hlen : ws.length ≤ 11) (hw : ∀ w ∈ ws, w.1 < 11)
    (hv : ∀ w ∈ ws, w.2 < 2 ^ 64) {result : State → Prop}
    (hr : ∀ u : State, u.mem = (s.putWords (s.ownKey x) ws).mem → result u) :
    s.AccStarts x (s.accWrite la srcs x x.toNat clears ws) result := by
  let o := s.issued la (.adding (s.accDue x clears ws))
  let t := s.modMe fun t => t.held o
  obtain ⟨sr, f, written⟩ := s.accDue_written t x clears ws hv fun w hmem => h.clean (hw w hmem)
  let v := t.rewritten (t.putWords (s.ownKey x) ws).mem sr f
  have step : t.accStep s.cur.1 s.cur.2 true = v.setPhase s.cur.1 s.cur.2 (.done none) :=
    (s.accStep_all rfl).trans (congrArg (fun u => State.setPhase u _ _ _) written)
  have held : v.me = s.me.held o := s.me_modMe fun t => t.held o
  have me : (v.setPhase s.cur.1 s.cur.2 (.done none)).me = { s.me.held o with outst := some { o with phase := .done none } } := by
    refine (State.me_setPhase (congrArg Strand.outst held) _).trans ?_
    rw [held]
  have mem : v.mem = (s.putWords (s.ownKey x) ws).mem :=
    State.putWords_of_mem (s := s) (t := t) rfl _ _
  have waits : s.WaitsIn t o.phase := State.waitsIn_of_held (s.me_modMe fun t => t.held o) rfl
  refine ⟨t, s.accDue x clears ws, h.accWrite hf la srcs clears hw, waits, s.accDue_bounds x clears ws hlen, ?_⟩
  dsimp only
  rw [step]
  refine ⟨by rw [me]; rfl, by rw [me]; rfl, fun k hk => ?_, hr _ mem⟩
  exact (State.byte_of_mem mem k).trans (State.byte_putWords_other ws hw hwf hk)

/-! ### The sum of a long accumulator (R44, R45, R261) -/

theorem State.getD_accWords (s : State) (off : Nat) {i : Nat} (hi : i < 11) :
    (s.accWords off).getD i 0 = s.load (padKey s.cur.1 (off + 8 * i)) 8 := by
  simp [State.accWords, hi]

/-- The number of n bits that an integer is modulo 2^n. -/
def modBits (n : Nat) (v : Int) : Nat := (v % 2 ^ n).toNat

theorem cast_modBits (n : Nat) (v : Int) : (modBits n v : Int) = v % 2 ^ n :=
  Int.toNat_of_nonneg (Int.emod_nonneg v (Int.pow_pos (by decide)).ne')

theorem modBits_lt (n : Nat) (v : Int) : modBits n v < 2 ^ n := by
  rw [← Nat.cast_lt (α := Int), cast_modBits, Nat.cast_pow]
  exact Int.emod_lt_of_pos v (Int.pow_pos (by decide))

/-- The signed value of an accumulator's 640 bits, in units of 2^-320 (R44). -/
def accSigned (v : Nat) : Int := if 2 ^ 639 ≤ v then (v : Int) - 2 ^ 640 else v

theorem accValue_eq (ws : List Nat) : accValue ws = accSigned (wordsValue (ws.take 10)) := rfl

/-- A comparison of a natural number with a power of two may be made among integers. -/
theorem ite_two_pow_le_cast (n v : Nat) (x y : Int) :
    (if 2 ^ n ≤ v then x else y) = if 2 ^ n ≤ (v : Int) then x else y :=
  if_congr (by exact_mod_cast Iff.rfl) rfl rfl

theorem accSigned_eq (v : Nat) : accSigned v = (if 2 ^ 639 ≤ (v : Int) then (v : Int) - 2 ^ 640 else v : Int) :=
  ite_two_pow_le_cast 639 v _ _

theorem State.getD_accStatus (s : State) (x : Word) : (s.accWords x.toNat).getD 10 0 = s.load (s.ownKey x + 80) 8 := by
  rw [s.getD_accWords _ (by decide)]
  simp only [State.ownKey, padKey, Nat.add_assoc]

theorem State.take_accWords (s : State) (x : Word) :
    (s.accWords x.toNat).take 10 = (List.range 10).map fun i => s.load (s.ownKey x + 8 * i) 8 := by
  rw [State.accWords, ← List.map_take, List.take_range]
  simp only [State.ownKey, padKey, Nat.add_assoc]
  rfl

/-- The first ten words of an accumulator make its first 80 bytes. -/
theorem State.wordsValue_accWords (s : State) (x : Word) : wordsValue ((s.accWords x.toNat).take 10) = s.load (s.ownKey x) 80 := by
  rw [s.take_accWords, ← State.load_words]

/-- An accumulator's value is the signed number of its first 80 bytes (R44). -/
theorem State.accValue_accWords (s : State) (x : Word) : accValue (s.accWords x.toNat) = accSigned (s.load (s.ownKey x) 80) := by
  rw [accValue_eq, s.wordsValue_accWords]

/-- The ten words of an accumulator that holds an integer modulo 2^640. -/
def accDigits (t : Int) : List Nat := (List.range 10).map fun i => modBits 640 t / 2 ^ (64 * i) % 2 ^ 64

theorem getD_accDigits (t : Int) {i : Nat} (hi : i < 10) : (accDigits t).getD i 0 = modBits 640 t / 2 ^ (64 * i) % 2 ^ 64 := by
  rw [accDigits, List.getD_eq_getElem _ _ (by rwa [List.length_map, List.length_range]), List.getElem_map, List.getElem_range]

theorem wordsValue_accDigits (t : Int) :
    wordsValue ((List.range 10).map fun i => (accDigits t).getD i 0) = modBits 640 t := by
  have digits : ((List.range 10).map fun i => (accDigits t).getD i 0) = accDigits t :=
    List.map_congr_left fun i hi => getD_accDigits t (List.mem_range.mp hi)
  rw [digits, accDigits, wordsValue_digits, show 64 * 10 = 640 from rfl]
  exact Nat.mod_eq_of_lt (modBits_lt 640 t)

/-- The exact sum of a finite addend and an accumulator's value (R261). -/
def accSum (ws : List Nat) (n : Bool) (m : Nat) (e : Int) : Int :=
  accValue ws + (if n then -1 else 1) *
    (if 0 ≤ e + 320 then (m : Int) * 2 ^ (e + 320).toNat else (m : Int) / 2 ^ (-(e + 320)).toNat)

/-- A sum overflows the accumulator (R44). -/
def accOverflows (t : Int) : Bool := t < -(2 ^ 639) || 2 ^ 639 - 1 < t

theorem accOverflows_eq (t : Int) : accOverflows t = (decide (t < -2 ^ 639) || decide (2 ^ 639 ≤ t)) := by
  rw [accOverflows, decide_eq_decide.mpr Int.sub_one_lt_iff]

/-- What an addition makes of an accumulator's ten words, and of its status (R261). -/
def accTarget (ws : List Nat) : Num → List Nat × Nat
  | .fin n m e => (accDigits (accSum ws n m e),
      if accOverflows (accSum ws n m e) then ws.getD 10 0 % 16 ||| 8 else ws.getD 10 0 % 16)
  | y => (ws.take 10, ws.getD 10 0 % 16 ||| (accSpecial y).getD 0)

/-- An addition writes the words that it changes, and the status when it changes. -/
theorem accAdd_eq (ws : List Nat) (x : Num) :
    accAdd ws x = (((List.range 10).filter fun i => (accTarget ws x).1.getD i 0 != ws.getD i 0).map fun i =>
        (i, (accTarget ws x).1.getD i 0)) ++
      (if (accTarget ws x).2 = ws.getD 10 0 % 16 then [] else [(10, (accTarget ws x).2)]) := by
  have same : accAdd ws x = (let changed := ((List.range 10).filter fun i => (accTarget ws x).1.getD i 0 != ws.getD i 0).map fun i =>
      (i, (accTarget ws x).1.getD i 0)
    if (accTarget ws x).2 = ws.getD 10 0 % 16 then changed else changed ++ [(10, (accTarget ws x).2)]) := by
    cases x <;> rfl
  rw [same]
  dsimp only
  split <;> simp

/-- The words of an accumulator after an addition, its status word last. -/
def accAfter (ws : List Nat) (x : Num) (i : Nat) : Nat :=
  if i < 10 then (accTarget ws x).1.getD i 0
  else if (accTarget ws x).2 = ws.getD 10 0 % 16 then ws.getD 10 0 else (accTarget ws x).2

theorem mem_accAdd {ws : List Nat} {x : Num} {i v : Nat} (h : (i, v) ∈ accAdd ws x) : i < 11 ∧ v = accAfter ws x i := by
  rw [accAdd_eq, List.mem_append] at h
  rcases h with h | h
  · obtain ⟨j, hj, e⟩ := List.mem_map.mp h
    obtain ⟨rfl, rfl⟩ := Prod.mk.inj e
    have := List.mem_range.mp (List.mem_filter.mp hj).1
    exact ⟨by omega, by rw [accAfter, if_pos this]⟩
  · split at h
    · exact absurd h List.not_mem_nil
    · next changed =>
      obtain ⟨rfl, rfl⟩ := Prod.mk.inj (List.mem_singleton.mp h)
      exact ⟨by decide, by rw [accAfter, if_neg (by decide), if_neg changed]⟩

theorem accAdd_length (ws : List Nat) (x : Num) : (accAdd ws x).length ≤ 11 := by
  have words := List.length_filter_le (fun i => (accTarget ws x).1.getD i 0 != ws.getD i 0) (List.range 10)
  rw [List.length_range] at words
  rw [accAdd_eq, List.length_append, List.length_map]
  split <;> simp only [List.length_nil, List.length_singleton] <;> omega

/-- A word that an addition does not write keeps its value. -/
theorem accAfter_kept {ws : List Nat} {x : Num} {i : Nat} (hi : i < 11) (h : ∀ v, (i, v) ∉ accAdd ws x) :
    ws.getD i 0 = accAfter ws x i := by
  by_contra changed
  refine h (accAfter ws x i) ?_
  rw [accAdd_eq, List.mem_append]
  by_cases low : i < 10
  · rw [accAfter, if_pos low] at changed ⊢
    exact .inl (List.mem_map.mpr ⟨i, List.mem_filter.mpr ⟨List.mem_range.mpr low, by simpa using Ne.symm changed⟩, rfl⟩)
  · obtain rfl : i = 10 := by omega
    rw [accAfter, if_neg (by decide)] at changed ⊢
    split at changed
    · exact absurd rfl changed
    · next status =>
      rw [if_neg status, if_neg status]
      exact .inr (List.mem_singleton_self _)

theorem State.accWords_lt (s : State) (off i : Nat) : (s.accWords off).getD i 0 < 2 ^ 64 := by
  by_cases hi : i < 11
  · rw [s.getD_accWords off hi]
    exact s.load_lt _ 8
  · rw [List.getD_eq_default _ _ (by simp [State.accWords]; omega)]
    decide

theorem accTarget_status_lt (ws : List Nat) (x : Num) : (accTarget ws x).2 < 16 := by
  have low : ws.getD 10 0 % 16 < 2 ^ 4 := Nat.mod_lt _ (by decide)
  cases x with
  | nan => exact Nat.or_lt_two_pow low (by decide)
  | inf neg => cases neg <;> exact Nat.or_lt_two_pow low (by decide)
  | fin neg m e =>
    rw [accTarget]
    split
    · exact Nat.or_lt_two_pow low (by decide)
    · exact low

theorem State.accAfter_lt (s : State) (off : Nat) (x : Num) (i : Nat) : accAfter (s.accWords off) x i < 2 ^ 64 := by
  have status := accTarget_status_lt (s.accWords off) x
  unfold accAfter
  split
  · next low =>
    have kept : ((s.accWords off).take 10).getD i 0 < 2 ^ 64 := by
      rw [List.getD_eq_getElem?_getD, List.getElem?_take_of_lt low, ← List.getD_eq_getElem?_getD]
      exact s.accWords_lt off i
    cases x with
    | fin neg m e =>
      rw [accTarget, getD_accDigits _ low]
      exact Nat.mod_lt _ (by decide)
    | nan => exact kept
    | inf neg => exact kept
  · split
    · exact s.accWords_lt off 10
    · omega

/-- What an addition leaves in memory: its words, and the low bits of the status. -/
theorem State.load_accAdd {s u : State} {x : Word} {v : Num} (hwf : Memory.wf s.mem = true)
    (hu : u.mem = (s.putWords (s.ownKey x) (accAdd (s.accWords x.toNat) v)).mem) :
    u.load (s.ownKey x) 80 = wordsValue ((List.range 10).map fun i => (accTarget (s.accWords x.toNat) v).1.getD i 0) ∧
      u.load (s.ownKey x + 80) 8 % 16 = (accTarget (s.accWords x.toNat) v).2 := by
  have word : ∀ i, i < 11 → u.load (s.ownKey x + 8 * i) 8 = accAfter (s.accWords x.toNat) v i := by
    intro i hi
    rw [State.load_of_mem hu]
    refine State.load_putWords _ hwf (fun j w h => ⟨(mem_accAdd h).2, s.accAfter_lt _ _ _⟩) fun kept => ?_
    rw [← accAfter_kept hi kept, s.getD_accWords _ hi]
    simp only [State.ownKey, padKey, Nat.add_assoc]
  constructor
  · rw [show 80 = 8 * 10 from rfl, State.load_words]
    refine congrArg wordsValue (List.map_congr_left fun i hi => ?_)
    have low := List.mem_range.mp hi
    rw [word i (by omega), accAfter, if_pos low]
  · have status := accTarget_status_lt (s.accWords x.toNat) v
    rw [show 80 = 8 * 10 from rfl, word 10 (by decide), accAfter, if_neg (by decide)]
    split
    · next same => exact same.symm
    · exact Nat.mod_eq_of_lt status

/-! ### The instructions (R261) -/

/-- A result at issue, of an instruction that can issue, is written and completes. -/
theorem State.lateResult_free {s : State} (h : s.Free) (srcs : List Reg) (la : La) (d : Reg) (v : Word) :
    s.lateResult srcs la d v = s.wrote d v := by
  simp only [State.lateResult, State.pops_free h, State.fullPort_free h, State.write_free h]
  rfl

theorem exec_laadd_free {s : State} (h : s.Free) (a b : Reg) (la : La) :
    exec (.laadd a b la) s = s.accAdding la [a, b] (s.me.greg a) (binary32.value ((s.me.greg b).toNat % 2 ^ 32)) := by
  change execLaadd a b la s = _
  rw [execLaadd, State.read_free h, State.read_free h, lowF32]

theorem exec_laaddp_free {s : State} (h : s.Free) (a b d : Reg) (la : La) :
    exec (.laaddp a b d la) s = s.accAdding la [a, b, d] (s.me.greg a)
      ((binary32.value ((s.me.greg b).toNat % 2 ^ 32)).mul (binary32.value ((s.me.greg d).toNat % 2 ^ 32))).1 := by
  change execLaaddp a b d la s = _
  rw [execLaaddp, State.read_free h, State.read_free h, State.read_free h, lowF32, lowF32]

section
variable {s : State} (hf : s.Free) {a : Reg} (hacc : s.OwnAcc (s.me.greg a)) (hbusy : (s.core s.cur.1).accBusy = false)
include hf hacc hbusy

theorem exec_laz_own (la : La) :
    exec (.laz a la) s = s.accWrite la [a] (s.me.greg a) (s.me.greg a).toNat true ((List.range 11).map fun i => (i, 0)) := by
  change execLaz a la s = _
  simp only [execLaz, State.gate_free hf, State.accUnit, hbusy, State.read_free hf, hacc.accumulator]
  rfl

/-- `laz` in the own scratchpad is taken on, and its words written leave the 88 bytes zero (R261). -/
theorem laz_starts (hwf : Memory.wf s.mem = true) (la : La) :
    s.AccStarts (s.me.greg a) (exec (.laz a la) s) fun u =>
      (u.load (s.ownKey (s.me.greg a)) 80 : Int) = 0 ∧ u.load (s.ownKey (s.me.greg a) + 80) 8 = 0 := by
  rw [exec_laz_own hf hacc hbusy]
  have words : ∀ w ∈ (List.range 11).map fun i => (i, 0), w.1 < 11 ∧ w.2 = 0 := by
    intro w hw
    obtain ⟨i, hi, rfl⟩ := List.mem_map.mp hw
    exact ⟨List.mem_range.mp hi, rfl⟩
  refine hacc.starts hf hwf la [a] true (by simp) (fun w h => (words w h).1) (fun w h => by rw [(words w h).2]; decide) fun u hu => ?_
  have zero : ∀ i, i < 11 → u.load (s.ownKey (s.me.greg a) + 8 * i) 8 = 0 := by
    intro i hi
    rw [State.load_of_mem hu]
    exact State.load_putWords (W := fun _ => 0) _ hwf (fun j v h => ⟨(words _ h).2, by decide⟩)
      fun h => absurd (List.mem_map.mpr ⟨i, List.mem_range.mpr hi, rfl⟩) (h 0)
  refine ⟨?_, zero 10 (by decide)⟩
  rw [show 80 = 8 * 10 from rfl, State.load_words, List.map_congr_left fun i hi => zero i (by have := List.mem_range.mp hi; omega)]
  have none := wordsValue_digits 0 10
  simp only [Nat.zero_div, Nat.zero_mod] at none
  rw [none]
  rfl

theorem accAdding_own (la : La) (srcs : List Reg) (v : Num) :
    s.accAdding la srcs (s.me.greg a) v =
      s.accWrite la srcs (s.me.greg a) (s.me.greg a).toNat false (accAdd (s.accWords (s.me.greg a).toNat) v) := by
  simp only [State.accAdding, State.gate_free hf, State.accUnit, hbusy, hacc.accumulator, hacc.accPoison]
  rfl

/-- An addition in the own scratchpad is taken on, and its words written leave its sum and its status (R261). -/
theorem accAdding_starts (hwf : Memory.wf s.mem = true) (la : La) (srcs : List Reg) (v : Num) {result : State → Prop}
    (hr : ∀ u : State, u.load (s.ownKey (s.me.greg a)) 80 =
        wordsValue ((List.range 10).map fun i => (accTarget (s.accWords (s.me.greg a).toNat) v).1.getD i 0) →
      u.load (s.ownKey (s.me.greg a) + 80) 8 % 16 = (accTarget (s.accWords (s.me.greg a).toNat) v).2 → result u) :
    s.AccStarts (s.me.greg a) (s.accAdding la srcs (s.me.greg a) v) result := by
  rw [accAdding_own hf hacc hbusy]
  refine hacc.starts hf hwf la srcs false (accAdd_length _ _) (fun w h => (mem_accAdd h).1)
    (fun w h => (mem_accAdd h).2 ▸ s.accAfter_lt _ _ _) fun u hu => ?_
  obtain ⟨sum, status⟩ := State.load_accAdd hwf hu
  exact hr u sum status

/-- A finite addend is added exactly, and an overflow sticks (R44, R261). -/
theorem accAdding_fin (hwf : Memory.wf s.mem = true) (la : La) (srcs : List Reg) {neg : Bool} {m : Nat} {e : Int} (he : -320 ≤ e) :
    let sum := accSigned (s.load (s.ownKey (s.me.greg a)) 80) + (if neg then -1 else 1) * (m * 2 ^ (e + 320).toNat)
    let st := s.load (s.ownKey (s.me.greg a) + 80) 8
    s.AccStarts (s.me.greg a) (s.accAdding la srcs (s.me.greg a) (.fin neg m e)) fun u =>
      (u.load (s.ownKey (s.me.greg a)) 80 : Int) = sum % 2 ^ 640 ∧
      u.load (s.ownKey (s.me.greg a) + 80) 8 % 16 = if accOverflows sum then st % 16 ||| 8 else st % 16 := by
  intro sum st
  have total : accSum (s.accWords (s.me.greg a).toNat) neg m e = sum := by
    rw [accSum, if_pos (show 0 ≤ e + 320 by omega), s.accValue_accWords]
  refine accAdding_starts hf hacc hbusy hwf la srcs _ fun u value status => ⟨?_, ?_⟩
  · rw [value, ← cast_modBits, accTarget, total]
    exact congrArg Nat.cast (wordsValue_accDigits sum)
  · rw [status, accTarget, total, s.getD_accStatus]

/-- A NaN or an infinity leaves the value and sets its bit of the status (R45, R261). -/
theorem accAdding_special (hwf : Memory.wf s.mem = true) (la : La) (srcs : List Reg) {v : Num} {bit : Nat} (hv : accSpecial v = some bit)
    (hbit : bit < 16) :
    s.AccStarts (s.me.greg a) (s.accAdding la srcs (s.me.greg a) v) fun u =>
      (u.load (s.ownKey (s.me.greg a)) 80 : Int) = s.load (s.ownKey (s.me.greg a)) 80 ∧
      u.load (s.ownKey (s.me.greg a) + 80) 8 % 16 =
        (BitVec.ofNat 4 (s.load (s.ownKey (s.me.greg a) + 80) 8) ||| BitVec.ofNat 4 bit).toNat := by
  have target : accTarget (s.accWords (s.me.greg a).toNat) v = ((s.accWords (s.me.greg a).toNat).take 10,
      (s.accWords (s.me.greg a).toNat).getD 10 0 % 16 ||| bit) := by
    cases v with
    | fin neg m e => cases hv
    | nan => cases hv; rfl
    | inf neg => cases neg <;> cases hv <;> rfl
  refine accAdding_starts hf hacc hbusy hwf la srcs _ fun u value status => ⟨?_, ?_⟩
  · rw [value, target, ← s.wordsValue_accWords]
    refine congrArg (fun l => (wordsValue l : Int)) (List.ext_getElem ?_ fun i h _ => ?_)
    · simp [State.accWords]
    · rw [List.getElem_map, List.getElem_range, List.getD_eq_getElem]
  · rw [status, target, s.getD_accStatus, BitVec.toNat_or, BitVec.toNat_ofNat, BitVec.toNat_ofNat,
      Nat.mod_eq_of_lt (a := bit) (b := 2 ^ 4) hbit]

/-- `larnd` in the own scratchpad rounds the value once, as its status says, and completes (R261). -/
theorem accRound_own (la : La) (d : Reg) (f : Flt) :
    let st := s.load (s.ownKey (s.me.greg a) + 80) 8
    let v := accSigned (s.load (s.ownKey (s.me.greg a)) 80)
    s.accRound la d a f = .next (s.wrote d (BitVec.ofNat 64 (
      if st % 2 = 1 ∨ (st / 2 % 2 = 1 ∧ st / 4 % 2 = 1) ∨ st / 8 % 2 = 1 then f.canonNan
      else if st / 2 % 2 = 1 then f.infBits false
      else if st / 4 % 2 = 1 then f.infBits true
      else (f.round s.me.rm.plain (.fin (decide (v < 0)) v.natAbs (-320))).1))) := by
  simp only [State.accRound, State.gate_free hf, State.accUnit, hbusy, State.read_free hf, hacc.accumulator, hacc.accPoison,
    State.lateResult_free hf, s.getD_accStatus, s.accValue_accWords, Bool.or_eq_true, Bool.and_eq_true, decide_eq_true_eq, or_assoc,
    Bool.false_eq_true, if_false]

end

/-! ### The almanac (R58, R59, R176, R178) -/

/-- A lookup of a virtual address, the almanac being set up, writes what it finds and completes (R176). -/
theorem exec_alook_virt {s : State} (hf : s.Free) (d a : Reg) (la : La) (hn : (s.core s.cur.1).almN ≠ 0)
    (hx : (s.me.greg a).toNat / 2 ^ 57 = 64) :
    exec (.alook d a la) s = .next (s.wrote d (BitVec.ofNat 64 (
      match (s.core s.cur.1).alFind ((s.me.greg a).toNat % 2 ^ 57 / 2 ^ (s.core s.cur.1).almS) with
      | some (i, e) => (if e.filling.isSome then 2 ^ 62 else 0) + i
      | none => 2 ^ 63 + (s.core s.cur.1).alFree.getD 0x7FF))) := by
  have low : field 56 0 (s.me.greg a) = (s.me.greg a).toNat % 2 ^ 57 := by simp [field]
  have virt : plainVirt (s.me.greg a) = true := by
    have high : field 63 60 (s.me.greg a) = 8 ∧ field 62 57 (s.me.greg a) = 0 := by
      simp only [field]
      omega
    simp [plainVirt, high]
  change execAlook d a la s = _
  simp only [execAlook, State.gate_free hf, State.read_free hf, hn, virt, low, State.lateResult_free hf]
  rfl

/-- The lowest entry of the almanac that is not valid. -/
theorem Core.alFree_eq_some {k : Core} {i : Nat} (hi : i < k.almN) (hfree : ∀ e ∈ k.almanac, e.1 ≠ i)
    (hlow : ∀ j, j < i → ∃ e ∈ k.almanac, e.1 = j) : k.alFree = some i := by
  rw [Core.alFree, List.find?_range_eq_some]
  refine ⟨by simpa using hfree, List.mem_range.mpr hi, fun j hj => by simpa using hlow j hj⟩

theorem Core.alFree_eq_none {k : Core} (h : ∀ j, j < k.almN → ∃ e ∈ k.almanac, e.1 = j) : k.alFree = none := by
  rw [Core.alFree, List.find?_range_eq_none]
  exact fun j hj => by simpa using h j hj

/-- An eviction of an entry that is none's or filled drops it, if it is there, and completes (R178). -/
theorem exec_alevict_free {s : State} (hf : s.Free) (a : Reg) (la : La) (hi : (s.me.greg a).toNat < (s.core s.cur.1).almN)
    (hs : s.me.stall = none) :
    (∀ e, (s.core s.cur.1).almanac.find? (fun e => e.1 == (s.me.greg a).toNat) = some e → e.2.filling = none →
      exec (.alevict a la) s =
        .next ((s.modCore s.cur.1 fun k => { k with almanac := k.almanac.filter fun e => e.1 != (s.me.greg a).toNat }).retire .on)) ∧
    ((s.core s.cur.1).almanac.find? (fun e => e.1 == (s.me.greg a).toNat) = none → exec (.alevict a la) s = .next (s.retire .on)) := by
  have run : exec (.alevict a la) s = execAlevict a la s := rfl
  simp only [execAlevict, State.gate_free hf, State.read_free hf, State.pops_free hf, hs, Option.any_none, Nat.not_le.mpr hi,
    Bool.false_eq_true, if_false] at run
  refine ⟨fun e hfind hfill => ?_, fun hfind => ?_⟩
  · rw [hfind, Option.map_some, hfill] at run
    exact run
  · rw [hfind] at run
    exact run

/-! ### The statement -/

/-- Settles O38. What the unit writes is a list of words of the accumulator; an addition's list makes it the sum, `laz`'s zero. -/
theorem longAccumulatorsAndAlmanac : Obligations.LongAccumulatorsAndAlmanac := by
  refine ⟨fun s hf hwf d a b la => ?_, fun s hf d a la => ?_⟩
  · intro x key acc signed st low started added special rounded haligned hinside hown hbusy
    have hacc : s.OwnAcc x := ⟨haligned, hinside, hown⟩
    have value : signed (acc s) = accSigned (s.load key 80) := (accSigned_eq _).symm
    have adding (i : Instr) (srcs : List Reg) (v : Num) (hi : exec i s = s.accAdding la srcs x v) :
        (∀ neg m e, v = .fin neg m e → -320 ≤ e → added i neg m e) ∧ (v = .nan → special i 1) ∧
        (∀ neg, v = .inf neg → special i (if neg then 4 else 2)) := by
      refine ⟨fun neg m e hv he => ?_, fun hv => ?_, fun neg hv => ?_⟩ <;> subst hv
      · have := accAdding_fin hf hacc hbusy hwf la srcs (neg := neg) (m := m) he
        rw [← hi, ← value] at this
        simp only [accOverflows_eq] at this
        exact this
      · have := accAdding_special hf hacc hbusy hwf la srcs (v := .nan) rfl (by decide)
        rw [← hi] at this
        exact this
      · have := accAdding_special hf hacc hbusy hwf la srcs (v := .inf neg) (bit := if neg then 4 else 2) (by cases neg <;> rfl)
          (by cases neg <;> decide)
        rw [← hi] at this
        exact this
    obtain ⟨fin, nan, inf⟩ := adding (.laadd a b la) [a, b] (binary32.value (low b)) (exec_laadd_free hf a b la)
    obtain ⟨pfin, pnan, pinf⟩ := adding (.laaddp a b d la) [a, b, d] ((binary32.value (low b)).mul (binary32.value (low d))).1
      (exec_laaddp_free hf a b d la)
    refine ⟨?_, fin, pfin, nan, inf, pnan, pinf, ?_, ?_⟩
    · have := laz_starts hf hacc hbusy hwf la
      exact this
    · have := accRound_own hf hacc hbusy la d binary32
      rw [← value] at this
      exact this
    · have := accRound_own hf hacc hbusy la d binary64
      rw [← value] at this
      exact this
  · intro k x tag found
    refine ⟨fun hn hx => ?_, fun hi hs => ?_⟩
    · have lookup := exec_alook_virt hf d a la hn hx
      refine ⟨fun i e hfind hfill => ?_, fun i e n hfind hfill => ?_, fun hnone => ?_⟩
      · rw [show k.alFind tag = some (i, e) from hfind] at lookup
        simp only [hfill, Option.isSome_none] at lookup
        exact lookup.trans (by rw [if_neg Bool.false_ne_true, Nat.zero_add])
      · rw [show k.alFind tag = some (i, e) from hfind] at lookup
        simp only [hfill, Option.isSome_some] at lookup
        exact lookup
      · have missing : k.alFind tag = none := List.find?_eq_none.mpr fun e he => by simpa using hnone e he
        rw [missing] at lookup
        refine ⟨fun i hi hfree hlow => ?_, fun hall => ?_⟩
        · rw [Core.alFree_eq_some hi hfree hlow] at lookup
          exact lookup
        · rw [Core.alFree_eq_none hall] at lookup
          exact lookup
    · obtain ⟨filled, absent⟩ := exec_alevict_free hf a la hi hs
      exact ⟨filled, fun hnone => absent (List.find?_eq_none.mpr fun e he => by simpa using hnone e he)⟩

end Sys2Proof.Machine
end

section
/-! PROOFS. The statement of `02_number_formats.md` about tile steps, array leases and weight fetches (R46, R216, R223 to R228, R233, R235,
R240, R241). -/

namespace Sys2Proof.Machine

/-! ### binary32 values (R27, R32) -/

/-- A value that binary32 holds rounds to itself: its bits are its exponent's place and its significand (R27, R32). -/
theorem round_binary32_exact (neg : Bool) {m : Nat} {e : Int} (hm : m ≠ 0) (hlt : m < 2 ^ 24) (hlow : -149 ≤ e) (hhigh : e ≤ 104)
    (hnorm : 2 ^ 23 ≤ m ∨ e = -149) :
    (binary32.round .rne (.fin neg m e)).1 = (if neg then 2 ^ 31 else 0) + ((e + 149).toNat * 2 ^ 23 + m) := by
  have log : m.log2 < 24 := (Nat.log2_lt hm).mpr hlt
  have normal : 2 ^ 23 ≤ m → m.log2 = 23 := fun h => (Nat.log2_eq_iff hm).mpr ⟨h, hlt⟩
  have free : (max (roundAt .rne neg m e (e + (m.log2 : Int) - (23 : Nat))).1 1).log2 < 24 := by
    have fits : m * 2 ^ (e - (e + (m.log2 : Int) - (23 : Nat))).toNat < 2 ^ 24 := by
      have exponent : (e - (e + (m.log2 : Int) - (23 : Nat))).toNat = 23 - m.log2 := by omega
      calc m * 2 ^ (e - (e + (m.log2 : Int) - (23 : Nat))).toNat
          < 2 ^ (m.log2 + 1) * 2 ^ (23 - m.log2) := by
            rw [exponent]
            exact Nat.mul_lt_mul_of_pos_right Nat.lt_log2_self (Nat.two_pow_pos _)
        _ = 2 ^ 24 := by rw [← Nat.pow_add, show m.log2 + 1 + (23 - m.log2) = 24 by omega]
    rw [roundAt, if_pos (by omega)]
    exact (Nat.log2_lt (by omega)).mpr (max_lt fits (by decide))
  have place : max (e + (m.log2 : Int)) (1 - (127 : Nat)) - (23 : Nat) = e := by omega
  have exact : roundAt .rne neg m e e = (m, true) := by simp [roundAt]
  have inRange : ¬((127 : Nat) : Int) < e + (m.log2 : Int) - (23 : Nat) +
      ((max (roundAt .rne neg m e (e + (m.log2 : Int) - (23 : Nat))).1 1).log2 : Int) := by omega
  have steps : (e - (1 - ((127 : Nat) : Int) - (23 : Nat))).toNat = (e + 149).toNat := by omega
  rw [Flt.round, if_neg hm]
  simp only [show binary32.frac = 23 from rfl, show binary32.bias = 127 from rfl, place, exact, inRange, steps, decide_false,
    Bool.false_eq_true, if_false]
  rfl

/-- The bits of a NaN are those whose value is none (R27). -/
theorem Flt.isNan_value (f : Flt) (b : Nat) : (f.value b).isNan = f.isNan b := by
  unfold Flt.value Flt.isNan
  dsimp only
  split
  · next special =>
    rw [beq_iff_eq.mpr special, Bool.true_and]
    split
    · next zero => simp [zero, Num.isNan]
    · next other => simp [other, Num.isNan]
  · next finite =>
    rw [beq_eq_false_iff_ne.mpr finite, Bool.false_and]
    split <;> rfl

theorem Num.eq_nan_of_isNan {x : Num} (h : x.isNan = true) : x = .nan := by
  cases x with
  | nan => rfl
  | inf n => cases h
  | fin n m e => cases h

/-- Bits that are no NaN are their value rounded (R27, R32). -/
theorem round_binary32_value {b : Nat} (hb : b < 2 ^ 32) (h : binary32.isNan b = false) :
    (binary32.round .rne (binary32.value b)).1 = b := by
  have fields : b = (if binary32.sign b then 2 ^ 31 else 0) + (binary32.expOf b * 2 ^ 23 + binary32.fracOf b) := by
    simp only [Flt.sign, Flt.expOf, Flt.fracOf, binary32, beq_iff_eq]
    split <;> omega
  have exp : binary32.expOf b < 256 := Nat.mod_lt _ (by decide)
  have frac : binary32.fracOf b < 2 ^ 23 := Nat.mod_lt _ (by decide)
  have top : binary32.top = 255 := rfl
  have bias : binary32.bias = 127 := rfl
  have wfrac : binary32.frac = 23 := rfl
  unfold Flt.value
  dsimp only
  split
  · next special =>
    have zero : binary32.fracOf b = 0 := by
      simpa only [Flt.isNan, special, beq_self_eq_true, Bool.true_and, bne_eq_false_iff_eq] using h
    conv_rhs => rw [fields, special, zero]
    rw [if_pos zero]
    rfl
  · next finite =>
    split
    · next subnormal =>
      by_cases zero : binary32.fracOf b = 0
      · conv_rhs => rw [fields, subnormal, zero]
        rw [zero]
        rfl
      · conv_rhs => rw [fields, subnormal]
        rw [bias, wfrac, round_binary32_exact _ zero (by omega) (by omega) (by omega) (.inr (by omega)),
          show (1 - ((127 : Nat) : Int) - (23 : Nat) + 149).toNat = 0 from rfl]
    · next normal =>
      conv_rhs => rw [fields]
      rw [bias, wfrac, round_binary32_exact _ (by omega) (by omega) (by omega) (by omega) (.inl (by omega))]
      refine congrArg ((if binary32.sign b then 2 ^ 31 else 0) + ·) ?_
      omega

/-- The values that binary32 holds (R27), and +0 where a source has no element. -/
def Num.isF32 (x : Num) : Prop := x = .zero ∨ ∃ b, b < 2 ^ 32 ∧ x = binary32.value b

/-- Rounding keeps what is a number and what is none apart. -/
theorem isNan_roundF32 {x : Num} (h : x.isF32) : binary32.isNan (roundF32 x) = x.isNan := by
  obtain rfl | ⟨b, hb, rfl⟩ := h
  · rfl
  rw [Flt.isNan_value]
  cases hn : binary32.isNan b with
  | false => rw [roundF32, round_binary32_value hb hn, hn]
  | true =>
    rw [Num.eq_nan_of_isNan ((binary32.isNan_value b).trans hn)]
    rfl

/-! ### The maximum of a row or column (R227) -/

/-- The maximumNumber of two binary32 values, of which a NaN is dropped (R161). -/
def maxF32 (a b : Nat) : Nat := (binary32.pickNumber true a b).1

theorem maxF32_nan_right {a b : Nat} (ha : binary32.isNan a = false) (hb : binary32.isNan b = true) : maxF32 a b = a := by
  simp [maxF32, Flt.pickNumber, ha, hb]

theorem maxF32_nan_left {a b : Nat} (ha : binary32.isNan a = true) (hb : binary32.isNan b = false) : maxF32 a b = b := by
  simp [maxF32, Flt.pickNumber, ha, hb]

theorem maxF32_nans {a b : Nat} (ha : binary32.isNan a = true) (hb : binary32.isNan b = true) : maxF32 a b = binary32.canonNan := by
  simp [maxF32, Flt.pickNumber, ha, hb]

theorem isNan_maxF32 {a b : Nat} (ha : binary32.isNan a = false) (hb : binary32.isNan b = false) :
    binary32.isNan (maxF32 a b) = false := by
  simp only [maxF32, Flt.pickNumber, ha, hb, Bool.false_eq_true, if_false]
  rw [apply_ite binary32.isNan, ha, hb, ite_self]

/-- From a number on, NaNs are passed over. -/
theorem foldl_maxF32_number (xs : List Num) (hx : ∀ x ∈ xs, x.isF32) {a : Nat} (ha : binary32.isNan a = false) :
    xs.foldl (fun a x => maxF32 a (roundF32 x)) a = ((xs.filter fun x => !x.isNan).map roundF32).foldl maxF32 a := by
  induction xs generalizing a with
  | nil => rfl
  | cons x xs ih =>
    have rest := fun y hy => hx y (List.mem_cons_of_mem x hy)
    have class_ := isNan_roundF32 (hx x List.mem_cons_self)
    rw [List.foldl_cons]
    cases hn : x.isNan <;> rw [hn] at class_
    · rw [List.filter_cons_of_pos (by rw [hn]; rfl), List.map_cons, List.foldl_cons]
      exact ih rest (isNan_maxF32 ha class_)
    · rw [List.filter_cons_of_neg (by rw [hn]; decide), maxF32_nan_right ha class_]
      exact ih rest ha

/-- The maximum of R227 is the maximumNumber of all values one after another. -/
theorem maxTile_eq_foldl (xs : List Num) (hx : ∀ x ∈ xs, x.isF32) :
    maxTile xs = xs.foldl (fun a x => maxF32 a (roundF32 x)) binary32.canonNan := by
  induction xs with
  | nil => rfl
  | cons x xs ih =>
    have rest := fun y hy => hx y (List.mem_cons_of_mem x hy)
    have class_ := isNan_roundF32 (hx x List.mem_cons_self)
    rw [List.foldl_cons]
    cases hn : x.isNan <;> rw [hn] at class_
    · rw [maxF32_nan_left (by decide) class_, foldl_maxF32_number xs rest class_, maxTile,
        List.filter_cons_of_pos (by rw [hn]; rfl), List.map_cons]
      rfl
    · rw [maxF32_nans (by decide) class_, ← ih rest, maxTile, List.filter_cons_of_neg (by rw [hn]; decide), maxTile]

/-! ### The exact sum of a row or column (R227) -/

/-- An accumulator of an exact sum: not a finite zero of negative sign. -/
def Num.plain : Num → Prop
  | .fin n m _ => m = 0 → n = false
  | _ => True

theorem Num.plain_add {a : Num} (ha : a.plain) (x : Num) : (a.add .rne x).1.plain := by
  cases a with
  | nan => cases x <;> exact trivial
  | inf n =>
    cases x with
    | inf k =>
      simp only [Num.add]
      split <;> exact trivial
    | _ => exact trivial
  | fin n m e =>
    cases x with
    | nan => exact trivial
    | inf k => exact trivial
    | fin k p q =>
      simp only [Num.add]
      split
      · split
        · next both =>
          simp only [Bool.and_eq_true, decide_eq_true_eq] at both
          exact fun _ => ha both.1.1
        · exact fun _ => rfl
      · next sum => exact fun zero => absurd (Int.natAbs_eq_zero.mp zero) sum

theorem Num.plain_foldl_add (xs : List Num) {a : Num} (ha : a.plain) : (xs.foldl (fun (a x : Num) => (a.add .rne x).1) a).plain := by
  induction xs generalizing a with
  | nil => exact ha
  | cons x xs ih => exact ih (Num.plain_add ha x)

/-- A sum that has become NaN stays it. -/
theorem foldl_add_nan (xs : List Num) : xs.foldl (fun (a x : Num) => (a.add .rne x).1) Num.nan = Num.nan := by
  induction xs with
  | nil => rfl
  | cons x xs ih => cases x <;> exact ih

/-- A sum that has become infinite stays it but for a NaN or the other infinity. -/
theorem foldl_add_inf (n : Bool) (xs : List Num) :
    xs.foldl (fun (a x : Num) => (a.add .rne x).1) (Num.inf n) = if xs.any Num.isNan || xs.any (· == .inf (!n)) then .nan else .inf n := by
  induction xs with
  | nil => rfl
  | cons x xs ih =>
    rw [List.foldl_cons]
    cases x with
    | nan => exact foldl_add_nan xs
    | fin k m e => simpa [Num.add, Num.isNan] using ih
    | inf k =>
      by_cases same : n = k
      · subst same
        simpa [Num.add, Num.isNan] using ih
      · obtain rfl : k = !n := Bool.eq_not.mpr (Ne.symm same)
        simpa [Num.add, Num.isNan] using foldl_add_nan xs

/-- The sum of R227 of finite and special values, from a finite one on. -/
theorem foldl_add_fin (n : Bool) (m : Nat) (e : Int) (xs : List Num) :
    xs.foldl (fun (a x : Num) => (a.add .rne x).1) (Num.fin n m e) =
      if xs.any Num.isNan || (xs.any (· == .inf false) && xs.any (· == .inf true)) then .nan
      else if xs.any (· == .inf false) then .inf false
      else if xs.any (· == .inf true) then .inf true
      else xs.foldl (fun (a x : Num) => (a.add .rne x).1) (Num.fin n m e) := by
  induction xs generalizing n m e with
  | nil => rfl
  | cons x xs ih =>
    rw [List.foldl_cons]
    cases x with
    | nan => exact foldl_add_nan xs
    | fin k p q =>
      obtain ⟨n', m', e', sum⟩ : ∃ n' m' e', (Num.add .rne (.fin n m e) (.fin k p q)).1 = .fin n' m' e' := by
        simp only [Num.add]
        split
        · split <;> exact ⟨_, _, _, rfl⟩
        · exact ⟨_, _, _, rfl⟩
      rw [sum]
      simpa [Num.isNan] using ih n' m' e'
    | inf k =>
      have start : (Num.add .rne (.fin n m e) (.inf k)).1 = .inf k := rfl
      rw [start, foldl_add_inf]
      cases k <;> cases hn : xs.any Num.isNan <;> simp [Num.isNan, hn]
      by_cases other : Num.inf false ∈ xs <;> simp [other]

/-- The sum of R227 is the exact sum rounded once. -/
theorem sumTile_eq (xs : List Num) : sumTile xs = roundF32 (exactSum xs) := by
  have special := foldl_add_fin false 0 0 xs
  have plain : (exactSum xs).plain := Num.plain_foldl_add xs fun _ => rfl
  unfold sumTile
  dsimp only
  split
  · next nan => rw [exactSum, special, if_pos nan]; rfl
  · next noNan =>
    split
    · next pos => rw [exactSum, special, if_neg noNan, if_pos pos]; rfl
    · next noPos =>
      split
      · next neg => rw [exactSum, special, if_neg noNan, if_neg noPos, if_pos neg]; rfl
      · cases sum : exactSum xs with
        | fin n m e =>
          rw [sum] at plain
          dsimp only
          split
          · next zero =>
            obtain rfl := plain zero
            rw [zero]
            rfl
          · rfl
        | nan => rfl
        | inf n => rfl

/-! ### Operands that are values (R218, R224) -/

/-- Element (i, j) of operand x of a node whose operands are values: the bank's bits, or +0 beyond the value's shape. -/
def Cluster.operandElem (q : Cluster) (v : Node) (x i j : Nat) : Num :=
  match v.sources[x]? with
  | some (.value b _ h l) =>
    if i < h ∧ j < l then binary32.value ((q.bank b).data.toNat / 2 ^ (32 * (32 * i + j)) % 2 ^ 32) else .fin false 0 0
  | _ => .fin false 0 0

theorem Cluster.operandElem_none {v : Node} {x : Nat} (h : v.sources[x]? = none) (q : Cluster) (i j : Nat) :
    q.operandElem v x i j = .zero := by
  rw [Cluster.operandElem, h]
  rfl

theorem Cluster.operandElem_isF32 (q : Cluster) (v : Node) (x i j : Nat) : (q.operandElem v x i j).isF32 := by
  unfold Cluster.operandElem
  split
  · split
    · exact .inr ⟨_, Nat.mod_lt _ (Nat.two_pow_pos 32), rfl⟩
    · exact .inl rfl
  · exact .inl rfl

/-- All operands of a node are values. -/
def Node.ofValues (v : Node) : Prop := ∀ x ∈ v.sources, ∃ b f h l, x = .value b f h l

theorem Node.ofValues.sourceElem {v : Node} (hv : v.ofValues) {idx : Nat} {x : Source} (hx : v.sources[idx]? = some x) (s : State)
    (c i j : Nat) : s.sourceElem c x i j = .ok ((s.cluster (clusterOf c)).operandElem v idx i j, s) := by
  obtain ⟨b, f, h, l, rfl⟩ := hv x (List.mem_of_getElem? hx)
  simp only [State.sourceElem, Cluster.operandElem, hx, Bool.and_eq_true, decide_eq_true_eq, Num.zero, Bank.elem, Bank.bits]

/-- The grid that a read of rows `is` and columns `js` gives. -/
def gridOf (val : Nat → Nat → Num) (is js : List Nat) : List (Nat × List (Nat × Num)) :=
  is.map fun i => (i, js.map fun j => (j, val i j))

theorem lookupD_map_key {α : Type} (d : α) (f : Nat → α) {k : Nat} {ks : List Nat} (h : k ∈ ks) :
    lookupD d k (ks.map fun k => (k, f k)) = f k := by
  induction ks with
  | nil => cases h
  | cons a ks ih =>
    rw [List.map_cons, lookupD]
    split
    · next same => rw [same]
    · next other => exact ih ((List.mem_cons.mp h).resolve_left (Ne.symm other))

theorem gridAt_gridOf (val : Nat → Nat → Num) {is js : List Nat} {i j : Nat} (hi : i ∈ is) (hj : j ∈ js) :
    gridAt (gridOf val is js) i j = val i j := by
  rw [gridAt, gridOf, lookupD_map_key _ _ hi, lookupD_map_key _ _ hj]

section
variable {s : State} {c : Nat} {x : Source} {val : Nat → Nat → Num} (h : ∀ i j, s.sourceElem c x i j = .ok (val i j, s))
include h

theorem State.sourceRow_eq (i : Nat) (js : List Nat) : State.sourceRow c x i js s = .ok (js.map fun j => (j, val i j), s) := by
  induction js with
  | nil => rfl
  | cons j js ih => simp only [State.sourceRow, h, ih, List.map_cons]

theorem State.sourceGrid_eq (js is : List Nat) : State.sourceGrid c x js is s = .ok (gridOf val is js, s) := by
  induction is with
  | nil => rfl
  | cons i is ih => simp only [State.sourceGrid, State.sourceRow_eq h, ih, gridOf, List.map_cons]

end

/-- Rows and columns of an operand that is a value are read at once. -/
theorem Node.ofValues.grid {v : Node} (hv : v.ofValues) {idx : Nat} {x : Source} (hx : v.sources[idx]? = some x) (s : State) (c : Nat)
    (js is : List Nat) : ∃ g, State.sourceGrid c x js is s = .ok (g, s) ∧ ∀ i j, i ∈ is → j ∈ js →
      gridAt g i j = (s.cluster (clusterOf c)).operandElem v idx i j :=
  ⟨_, State.sourceGrid_eq (hv.sourceElem hx s c) js is, fun _ _ hi hj => gridAt_gridOf _ hi hj⟩

/-- A region of an operand that is a value, or is missing, is read at once. -/
theorem Node.ofValues.operand {v : Node} (hv : v.ofValues) (s : State) (c idx : Nat) (r : Region) :
    ∃ g, s.operand c v idx r = .ok (g, s) ∧ ∀ i j, i ∈ bitsOf r.rows → j ∈ bitsOf r.cols →
      gridAt g i j = (s.cluster (clusterOf c)).operandElem v idx i j := by
  unfold State.operand
  cases hx : v.sources[idx]? with
  | none => exact ⟨[], rfl, fun i j _ _ => (Cluster.operandElem_none hx _ i j).symm⟩
  | some x => exact hv.grid hx s c _ _

/-! ### The positions a demand adds (R233) -/

theorem mem_bitsOf {b : BitVec 32} {i : Nat} : i ∈ bitsOf b ↔ b.getLsbD i = true := by
  simp only [bitsOf, List.mem_filter, List.mem_range, and_iff_right_iff_imp]
  exact BitVec.lt_of_getLsbD

theorem mem_bitsOf_and {a b : BitVec 32} {i : Nat} (ha : i ∈ bitsOf a) (hb : b.getLsbD i = true) : i ∈ bitsOf (a &&& b) := by
  rw [mem_bitsOf, BitVec.getLsbD_and, hb, mem_bitsOf.mp ha]
  rfl

theorem mem_bitsOf_all {i : Nat} (h : i < 32) : i ∈ bitsOf (lowBits 32) := by
  rw [mem_bitsOf, show lowBits 32 = BitVec.allOnes 32 from rfl, BitVec.getLsbD_allOnes]
  exact decide_eq_true h

theorem mem_bitsOf_lt {b : BitVec 32} {i : Nat} (h : i ∈ bitsOf b) : i < 32 := BitVec.lt_of_getLsbD (mem_bitsOf.mp h)

theorem Node.mem_added (v : Node) (r : Region) (i j : Nat) :
    (i, j) ∈ v.added r ↔ (v.rmat ||| (v.clip r).rows).getLsbD i = true ∧ (v.cmat ||| (v.clip r).cols).getLsbD j = true ∧
      ¬ (v.rmat.getLsbD i = true ∧ v.cmat.getLsbD j = true) := by
  simp only [Node.added, List.mem_flatMap, List.mem_filterMap, mem_bitsOf, Option.ite_none_left_eq_some, Option.some.injEq,
    Prod.mk.injEq, Bool.and_eq_true]
  constructor
  · rintro ⟨i, hi, j, hj, new, rfl, rfl⟩
    exact ⟨hi, hj, new⟩
  · rintro ⟨hi, hj, new⟩
    exact ⟨i, hi, j, hj, new, rfl, rfl⟩

/-- A demand cut to nothing has neither rows nor columns. -/
theorem Node.clip_cols_eq_zero {v : Node} {r : Region} (h : (v.clip r).rows = 0) : (v.clip r).cols = 0 := by
  unfold Node.clip at h ⊢
  dsimp only at h ⊢
  split
  · rfl
  · next some_ =>
    rw [if_neg some_] at h
    simp only [Bool.or_eq_true, decide_eq_true_eq, not_or] at some_
    split at h <;> exact absurd h some_.1

theorem getLsbD_new {a m : BitVec 32} {i : Nat} (hi : (m ||| a).getLsbD i = true) (hm : ¬ m.getLsbD i = true) :
    (a &&& ~~~m).getLsbD i = true := by
  rw [BitVec.getLsbD_or, Bool.or_eq_true] at hi
  have ha := hi.resolve_left hm
  rw [BitVec.getLsbD_and, BitVec.getLsbD_not, ha, eq_false_of_ne_true hm, decide_eq_true (BitVec.lt_of_getLsbD ha)]
  rfl

theorem getLsbD_or_of_new_eq_zero {a m : BitVec 32} (h : a &&& ~~~m = 0) {i : Nat} (hi : (m ||| a).getLsbD i = true) :
    m.getLsbD i = true := by
  by_contra hm
  have bit := getLsbD_new hi hm
  rw [h] at bit
  simp at bit

/-- The positions added lie in the rows and columns that the step fetches. -/
theorem Node.fresh_of_added {v : Node} {r : Region} {i j : Nat} (h : (i, j) ∈ v.added r) :
    i ∈ bitsOf (v.fresh r).rows ∧ j ∈ bitsOf (v.fresh r).cols := by
  obtain ⟨hi, hj, new⟩ := (v.mem_added r i j).mp h
  rw [mem_bitsOf, mem_bitsOf]
  unfold Node.fresh
  dsimp only
  split
  · next none_ =>
    rw [none_] at hi
    rw [Node.clip_cols_eq_zero none_] at hj
    exact absurd ⟨by simpa using hi, by simpa using hj⟩ new
  · split
    · next old =>
      simp only [Bool.and_eq_true, decide_eq_true_eq] at old
      exact absurd ⟨getLsbD_or_of_new_eq_zero old.1 hi, getLsbD_or_of_new_eq_zero old.2 hj⟩ new
    · constructor
      · dsimp only
        split
        · next cols => exact getLsbD_new hi fun hm => new ⟨hm, getLsbD_or_of_new_eq_zero cols hj⟩
        · exact hi
      · dsimp only
        split
        · next rows => exact getLsbD_new hj fun hm => new ⟨getLsbD_or_of_new_eq_zero rows hi, hm⟩
        · exact hj

/-! ### What a step computes of an operand (R46, R224 to R228) -/

/-- Element t of the row or column that `tred` reduces to (i, j). -/
def redElem (elem : Nat → Nat → Nat → Num) (k i j t : Nat) : Num := if k % 2 = 0 then elem 0 i t else elem 0 t j

/-- The enabled depth elements of K block x. -/
def Node.enabledIn (v : Node) (x : Nat) : List Nat :=
  (List.range (6 * kBlock v.map.fmt)).filter fun k =>
    k / kBlock v.map.fmt == x && decide (v.depth.toNat % 512 ≤ k) && decide (k < v.depth.toNat / 2 ^ 16 % 512) && v.depth.getLsbD (32 + x)

/-- The DX block of row i: its element codes, its scale and its other byte. -/
def Node.rowBlock (v : Node) (elem : Nat → Nat → Nat → Num) (i : Nat) : Nat × Nat × Nat × Flags :=
  ((codeDx v.fmt).getD d16).ofValues .rne ((List.range 32).map fun j => elem 0 i j)

/-- The bits a step writes at (i, j), of the operands' elements. -/
def Node.stepValue (v : Node) (elem : Nat → Nat → Nat → Num) (i j : Nat) : Nat :=
  match v.kind with
  | .tmma acc =>
    let start := if acc then roundF32 (elem 2 i j) else 0
    if v.rowMask.getLsbD i && v.colMask.getLsbD j then
      (List.range 6).foldl (fun a x => (blockStep a ((v.enabledIn x).map fun k => (elem 0 i k, elem 1 k j))).1) start
    else start
  | .tadd => roundF32 ((elem 0 i j).add .rne (elem 1 i j)).1
  | .tmulw => roundF32 ((elem 0 i j).mul (elem 1 i j)).1
  | .tscale => roundF32 ((elem 0 i j).mul (binary32.value v.scale.toNat)).1
  | .tact k => (activationOf k).result (elem 0 i j)
  | .tcvt => match codeFlt v.fmt with
    | some f => roundTo f (elem 0 i j)
    | none => roundF32 (((codeDx v.fmt).getD d16).value (((codeDx v.fmt).getD d16).elem (v.rowBlock elem i).1 j) (v.rowBlock elem i).2.1
        (v.rowBlock elem i).2.2.1)
  | .tred k =>
    if k < 2 then roundF32 ((List.range 32).foldl (fun a t => (a.add .rne (redElem elem k i j t)).1) (.fin false 0 0))
    else (List.range 32).foldl (fun a t => maxF32 a (roundF32 (redElem elem k i j t))) binary32.canonNan
  | .tmask => if v.mask.getLsbD i && v.mask.getLsbD (32 + j) then roundF32 (elem 0 i j) else 0
  | _ => 0

/-- What the step of a node over a region gives, of operands with these elements: the positions it adds with their values, and the
scales of the row blocks of a conversion to DX. -/
structure State.StepGives (s : State) (c : Nat) (v : Node) (r : Region) (out : StepOut) : Prop where
  fetched : s.evalNode c v r = .ok (out, s)
  cells : out.cells = (v.added r).map fun p => (p.1, p.2, v.stepValue ((s.cluster (clusterOf c)).operandElem v) p.1 p.2)
  pairs : v.kind = .tcvt → codeFlt v.fmt = none → ∀ p ∈ out.pairs,
    p.2 = (v.rowBlock ((s.cluster (clusterOf c)).operandElem v) p.1).2.1 +
      256 * (v.rowBlock ((s.cluster (clusterOf c)).operandElem v) p.1).2.2.1

theorem State.StepGives.mem_cells {s : State} {c : Nat} {v : Node} {r : Region} {out : StepOut} (h : s.StepGives c v r out)
    (i j x : Nat) : (i, j, x) ∈ out.cells ↔
      i < 32 ∧ j < 32 ∧ (v.rmat ||| (v.clip r).rows).getLsbD i = true ∧ (v.cmat ||| (v.clip r).cols).getLsbD j = true ∧
        ¬ (v.rmat.getLsbD i = true ∧ v.cmat.getLsbD j = true) ∧ x = v.stepValue ((s.cluster (clusterOf c)).operandElem v) i j := by
  rw [h.cells, List.mem_map]
  constructor
  · rintro ⟨⟨i, j⟩, added, same⟩
    obtain ⟨rfl, rfl, rfl⟩ := by simpa only [Prod.mk.injEq] using same
    obtain ⟨hi, hj, new⟩ := (v.mem_added r i j).mp added
    exact ⟨BitVec.lt_of_getLsbD hi, BitVec.lt_of_getLsbD hj, hi, hj, new, rfl⟩
  · rintro ⟨-, -, hi, hj, new, rfl⟩
    exact ⟨(i, j), (v.mem_added r i j).mpr ⟨hi, hj, new⟩, rfl⟩

section
variable {s : State} {c : Nat} {v : Node} {r : Region}

/-- A step without scales gives its values at the rows and columns it fetches. -/
theorem stepGives_of_cellsOf {f : Nat → Nat → Nat} (run : s.evalNode c v r = .ok (cellsOf (v.added r) f, s))
    (value : ∀ i j, i ∈ bitsOf (v.fresh r).rows → j ∈ bitsOf (v.fresh r).cols →
      f i j = v.stepValue ((s.cluster (clusterOf c)).operandElem v) i j) : ∃ out, s.StepGives c v r out := by
  refine ⟨_, run, List.map_congr_left fun p hp => ?_, fun _ _ p hp => absurd hp List.not_mem_nil⟩
  obtain ⟨hi, hj⟩ := Node.fresh_of_added hp
  rw [value p.1 p.2 hi hj]

variable (hv : v.ofValues)
include hv

theorem stepGives_tadd (hk : v.kind = .tadd) : ∃ out, s.StepGives c v r out := by
  obtain ⟨a, readA, elemA⟩ := hv.operand s c 0 (v.fresh r)
  obtain ⟨b, readB, elemB⟩ := hv.operand s c 1 (v.fresh r)
  refine stepGives_of_cellsOf (f := fun i j => roundF32 ((gridAt a i j).add .rne (gridAt b i j)).1) ?_ fun i j hi hj => ?_
  · simp only [State.evalNode, hk, readA, readB]
  · rw [elemA i j hi hj, elemB i j hi hj, Node.stepValue, hk]

theorem stepGives_tmulw (hk : v.kind = .tmulw) : ∃ out, s.StepGives c v r out := by
  obtain ⟨a, readA, elemA⟩ := hv.operand s c 0 (v.fresh r)
  obtain ⟨b, readB, elemB⟩ := hv.operand s c 1 (v.fresh r)
  refine stepGives_of_cellsOf (f := fun i j => roundF32 ((gridAt a i j).mul (gridAt b i j)).1) ?_ fun i j hi hj => ?_
  · simp only [State.evalNode, hk, readA, readB]
  · rw [elemA i j hi hj, elemB i j hi hj, Node.stepValue, hk]

theorem stepGives_tscale (hk : v.kind = .tscale) : ∃ out, s.StepGives c v r out := by
  obtain ⟨a, readA, elemA⟩ := hv.operand s c 0 (v.fresh r)
  refine stepGives_of_cellsOf (f := fun i j => roundF32 ((gridAt a i j).mul (binary32.value v.scale.toNat)).1) ?_ fun i j hi hj => ?_
  · simp only [State.evalNode, hk, readA]
  · rw [elemA i j hi hj, Node.stepValue, hk]

theorem stepGives_tact {k : Nat} (hk : v.kind = .tact k) : ∃ out, s.StepGives c v r out := by
  obtain ⟨a, readA, elemA⟩ := hv.operand s c 0 (v.fresh r)
  refine stepGives_of_cellsOf (f := fun i j => (activationOf k).result (gridAt a i j)) ?_ fun i j hi hj => ?_
  · simp only [State.evalNode, hk, readA]
  · rw [elemA i j hi hj, Node.stepValue, hk]

theorem stepGives_tcvt_flt (hk : v.kind = .tcvt) {f : Flt} (hf : codeFlt v.fmt = some f) : ∃ out, s.StepGives c v r out := by
  obtain ⟨a, readA, elemA⟩ := hv.operand s c 0 (v.fresh r)
  refine stepGives_of_cellsOf (f := fun i j => roundTo f (gridAt a i j)) ?_ fun i j hi hj => ?_
  · simp only [State.evalNode, hk, hf, readA]
  · rw [elemA i j hi hj, Node.stepValue, hk, hf]

theorem stepGives_tcvt_dx (hk : v.kind = .tcvt) (hf : codeFlt v.fmt = none) : ∃ out, s.StepGives c v r out := by
  obtain ⟨a, readA, elemA⟩ := hv.operand s c 0 ⟨(v.fresh r).rows, lowBits 32⟩
  have block : ∀ i ∈ bitsOf (v.fresh r).rows, ((codeDx v.fmt).getD d16).ofValues .rne ((List.range 32).map fun j => gridAt a i j) =
      v.rowBlock ((s.cluster (clusterOf c)).operandElem v) i := fun i hi => by
    rw [Node.rowBlock]
    refine congrArg _ (List.map_congr_left fun j hj => ?_)
    exact elemA i j hi (mem_bitsOf_all (List.mem_range.mp hj))
  refine ⟨_, by simp only [State.evalNode, hk, hf, readA]; rfl, List.map_congr_left fun p hp => ?_, fun _ _ p hp => ?_⟩
  · rw [block p.1 (Node.fresh_of_added hp).1, Node.stepValue, hk]
    simp only [hf]
  · obtain ⟨i, hi, rfl⟩ := List.mem_map.mp hp
    rw [block i hi]

theorem stepGives_tmask (hk : v.kind = .tmask) : ∃ out, s.StepGives c v r out := by
  obtain ⟨a, readA, elemA⟩ := hv.operand s c 0
    ⟨(v.fresh r).rows &&& v.mask.extractLsb' 0 32, (v.fresh r).cols &&& v.mask.extractLsb' 32 32⟩
  refine stepGives_of_cellsOf (f := fun i j => if v.mask.getLsbD i && v.mask.getLsbD (32 + j) then roundF32 (gridAt a i j) else 0) ?_
    fun i j hi hj => ?_
  · simp only [State.evalNode, hk, readA]
  · rw [Node.stepValue, hk]
    dsimp only
    split
    · next on =>
      rw [Bool.and_eq_true] at on
      rw [elemA i j (mem_bitsOf_and hi (by simp [mem_bitsOf_lt hi, on.1]))
        (mem_bitsOf_and hj (by simp [mem_bitsOf_lt hj, on.2]))]
    · rfl

theorem stepGives_tred {k : Nat} (hk : v.kind = .tred k) : ∃ out, s.StepGives c v r out := by
  obtain ⟨a, readA, elemA⟩ := hv.operand s c 0
    (if k % 2 = 0 then ⟨(v.fresh r).rows, lowBits 32⟩ else ⟨lowBits 32, (v.fresh r).cols⟩)
  refine stepGives_of_cellsOf (f := fun i j =>
    let xs := (List.range 32).map fun t => if k % 2 = 0 then gridAt a i t else gridAt a t j
    if k < 2 then sumTile xs else maxTile xs) ?_ fun i j hi hj => ?_
  · simp only [State.evalNode, hk, readA]
  · have line : ((List.range 32).map fun t => if k % 2 = 0 then gridAt a i t else gridAt a t j) =
        (List.range 32).map (redElem ((s.cluster (clusterOf c)).operandElem v) k i j) := by
      refine List.map_congr_left fun t ht => ?_
      have inAll := mem_bitsOf_all (List.mem_range.mp ht)
      unfold redElem
      split
      · next rows => exact elemA i t (by rwa [if_pos rows]) (by rwa [if_pos rows])
      · next cols => exact elemA t j (by rwa [if_neg cols]) (by rwa [if_neg cols])
    have numbers : ∀ x ∈ (List.range 32).map (redElem ((s.cluster (clusterOf c)).operandElem v) k i j), x.isF32 := by
      intro x hx
      obtain ⟨t, _, rfl⟩ := List.mem_map.mp hx
      unfold redElem
      split <;> exact Cluster.operandElem_isF32 _ _ _ _ _
    dsimp only
    rw [line, sumTile_eq, maxTile_eq_foldl _ numbers, exactSum, List.foldl_map, List.foldl_map, Node.stepValue, hk]

end

/-! ### The product of a step (R46, R224) -/

theorem Node.filter_depthOn (v : Node) (x : Nat) : (v.depthOn.filter fun k => k / kBlock v.map.fmt == x) = v.enabledIn x := by
  rw [Node.depthOn, Node.enabledIn, List.filter_filter]
  refine List.filter_congr fun k _ => ?_
  cases block : k / kBlock v.map.fmt == x
  · simp
  · rw [beq_iff_eq] at block
    simp [block, BitVec.extractLsb'_toNat, Nat.shiftRight_eq_div_pow, Bool.and_assoc]

/-- The loop of R46 over the factors that were read is that over the operands' elements. -/
theorem Node.blockLoop_factors (v : Node) {a b : List (Nat × List (Nat × Num))} {elem : Nat → Nat → Nat → Num} {i j : Nat}
    (ha : ∀ k ∈ v.depthOn, gridAt a i k = elem 0 i k) (hb : ∀ k ∈ v.depthOn, gridAt b k j = elem 1 k j) (start : Nat) :
    blockLoop start (v.factors v.depthOn a b i j) =
      (List.range 6).foldl (fun y x => (blockStep y ((v.enabledIn x).map fun k => (elem 0 i k, elem 1 k j))).1) start := by
  have factors : v.factors v.depthOn a b i j = (List.range 6).map fun x => (v.enabledIn x).map fun k => (elem 0 i k, elem 1 k j) := by
    refine List.map_congr_left fun x _ => ?_
    rw [v.filter_depthOn]
    refine List.map_congr_left fun k hk => ?_
    have on : k ∈ v.depthOn := by
      rw [← v.filter_depthOn] at hk
      exact (List.mem_filter.mp hk).1
    rw [ha k on, hb k on]
  rw [factors, blockLoop, List.foldl_map]

theorem stepGives_tmma {s : State} {c : Nat} {v : Node} {r : Region} (hv : v.ofValues) {acc : Bool} (hk : v.kind = .tmma acc)
    (two : 2 ≤ v.sources.length) : ∃ out, s.StepGives c v r out := by
  have h0 := List.getElem?_eq_getElem (l := v.sources) (i := 0) (by omega)
  have h1 := List.getElem?_eq_getElem (l := v.sources) (i := 1) (by omega)
  obtain ⟨a, readA, elemA⟩ := hv.grid h0 s c v.depthOn (bitsOf ((v.fresh r).rows &&& v.rowMask))
  obtain ⟨b, readB, elemB⟩ := hv.grid h1 s c (bitsOf ((v.fresh r).cols &&& v.colMask)) v.depthOn
  obtain ⟨g, readG, elemG⟩ := hv.operand s c 2 (v.fresh r)
  have readStart : (if acc then s.operand c v 2 (v.fresh r) else .ok ([], s)) = .ok (if acc then g else [], s) := by
    cases acc
    · rfl
    · exact readG
  refine stepGives_of_cellsOf (f := fun i j =>
    let c0 := if acc then roundF32 (gridAt (if acc then g else []) i j) else 0
    if v.rowMask.getLsbD i && v.colMask.getLsbD j then blockLoop c0 (v.factors v.depthOn a b i j) else c0) ?_ fun i j hi hj => ?_
  · simp only [State.evalNode, hk, h0, h1, readA, readB, readStart]
  · have start : (if acc then roundF32 (gridAt (if acc then g else []) i j) else 0) =
        if acc then roundF32 ((s.cluster (clusterOf c)).operandElem v 2 i j) else 0 := by
      cases acc
      · rfl
      · exact congrArg roundF32 (elemG i j hi hj)
    dsimp only
    rw [start, Node.stepValue, hk]
    dsimp only
    split
    · next on =>
      rw [Bool.and_eq_true] at on
      exact v.blockLoop_factors (fun k hk => elemA i k (mem_bitsOf_and hi on.1) hk)
        (fun k hk => elemB k j hk (mem_bitsOf_and hj on.2)) _
    · rfl

/-- A step of a node whose operands are values is fetched at once. -/
theorem State.stepGives_of_values (s : State) (c : Nat) {v : Node} (r : Region) (hv : v.ofValues) (computed : v.kind.isSource = false)
    (two : ∀ acc, v.kind = .tmma acc → 2 ≤ v.sources.length) : ∃ out, s.StepGives c v r out := by
  cases hk : v.kind with
  | view => rw [hk] at computed; cases computed
  | twload => rw [hk] at computed; cases computed
  | tmma acc => exact stepGives_tmma hv hk (two acc hk)
  | tadd => exact stepGives_tadd hv hk
  | tmulw => exact stepGives_tmulw hv hk
  | tscale => exact stepGives_tscale hv hk
  | tact k => exact stepGives_tact hv hk
  | tcvt =>
    cases hf : codeFlt v.fmt with
    | some f => exact stepGives_tcvt_flt hv hk hf
    | none => exact stepGives_tcvt_dx hv hk hf
  | tred k => exact stepGives_tred hv hk
  | tmask => exact stepGives_tmask hv hk

/-- The rectified linear unit keeps a positive value, rounded. -/
theorem relu_result_pos {m : Nat} (hm : 0 < m) (e : Int) : (activationOf 0).result (.fin false m e) = roundF32 (.fin false m e) := by
  rw [Activation.result, activationOf, Activation.at, if_neg (by simp; omega)]
  rfl

/-! ### Clusters, nodes and demands after a write -/

theorem State.cluster_modCluster (s : State) (k : Nat) (f : Cluster → Cluster) : (s.modCluster k f).cluster k = f (s.cluster k) :=
  s.cluster_setCluster k _

theorem Cluster.bank_setBank (q : Cluster) (b : Nat) (x : Bank) : (q.setBank b x).bank b = x := by
  simp [Cluster.bank, Cluster.setBank]

theorem find?_assign {α : Type} (i : Nat) (v : α) (l : List (Nat × α)) :
    ((assign i v l).find? fun e => e.1 == i).map Prod.snd = some v := by
  induction l with
  | nil => simp [assign]
  | cons e l ih =>
    rw [assign]
    split
    · simp
    · next other => rw [List.find?_cons_of_neg (by simpa using other), ih]

theorem Core.node?_setNode (k : Core) (i : Nat) (v : Node) : (k.setNode i v).node? i = some v := find?_assign i v k.nodes

theorem Core.node?_modNode {k : Core} {i : Nat} {v : Node} (h : k.node? i = some v) (f : Node → Node) :
    (k.modNode i f).node? i = some (f v) := by
  rw [Core.modNode, h]
  exact k.node?_setNode i _

theorem State.node?_setPhase (s : State) (c n : Nat) (p : Phase) (i : Nat) :
    ((s.setPhase c n p).core c).node? i = (s.core c).node? i := by
  rw [State.setPhase, State.modStrand, State.setStrand, State.core_setCore]
  rfl

theorem State.strand_setPhase {s : State} {c n : Nat} {o : Outst} (h : (s.strand c n).outst = some o) (p : Phase) :
    (s.setPhase c n p).strand c n = { s.strand c n with outst := some { o with phase := p } } := by
  rw [State.setPhase, State.strand_modStrand, h]

theorem State.phase_setPhase {s : State} {c n : Nat} {o : Outst} (h : (s.strand c n).outst = some o) (p : Phase) :
    ((s.setPhase c n p).strand c n).phase? = some p := by
  rw [State.strand_setPhase h]
  rfl

/-- A strand with work outstanding demands it. -/
theorem Strand.demands_of_work {t : Strand} {ws : List Work} {out : Option StepOut} {since : Option Nat}
    (h : t.work? = some (ws, out, since)) : ∃ o, t.outst = some o ∧ o.phase = .demand ws out since := by
  unfold Strand.work? at h
  split at h
  · next o outst =>
    split at h
    · next phase =>
      obtain ⟨rfl, rfl, rfl⟩ := by simpa only [Option.some.injEq, Prod.mk.injEq] using h
      exact ⟨o, outst, phase⟩
    · cases h
  · cases h

theorem State.workDone_last {s : State} {c n : Nat} {w : Work} {out : Option StepOut} {since : Option Nat}
    (h : (s.strand c n).work? = some ([w], out, since)) : s.workDone c n = s.setPhase c n (.demand [] none none) := by
  rw [State.workDone, h]
  rfl

theorem State.beginWork_core (s : State) (c n : Nat) (ws : List Work) : (s.beginWork c n ws).core c = s.core c := by
  cases ws <;> rfl

theorem State.node?_workDone (s : State) (c n i : Nat) : ((s.workDone c n).core c).node? i = (s.core c).node? i := by
  unfold State.workDone
  split
  · rw [State.beginWork_core, State.node?_setPhase]
  · rfl

theorem State.workDone_clusters (s : State) (c n : Nat) : (s.workDone c n).clusters = s.clusters := by
  unfold State.workDone
  split
  · next r _ _ _ => cases r <;> rfl
  · rfl

theorem State.workDone_mem (s : State) (c n : Nat) : (s.workDone c n).mem = s.mem := by
  unfold State.workDone
  split
  · next r _ _ _ => cases r <;> rfl
  · rfl

/-! ### A fetched step is staged (R235, R241) -/

theorem State.stage_core (s : State) (c n d : Nat) : (s.stage c n).core d = s.core d := by
  unfold State.stage
  dsimp only
  split <;> rfl

theorem State.stage_mem (s : State) (c n : Nat) : (s.stage c n).mem = s.mem := by
  unfold State.stage
  dsimp only
  split <;> rfl

theorem State.stage_requests (s : State) (c n : Nat) :
    ((s.stage c n).cluster (clusterOf c)).requests = (s.cluster (clusterOf c)).requests ++ [(c, n % 16)] := by
  have same : (s.stage c n).cluster (clusterOf c) =
      (s.modCluster (clusterOf c) fun k => { k with requests := k.requests ++ [(c, n % 16)] }).cluster (clusterOf c) := by
    unfold State.stage
    dsimp only
    split <;> rfl
  rw [same, State.cluster_modCluster]

theorem State.stage_agenda (s : State) (c n : Nat) :
    (s.stage c n).agenda = s.agenda ++ if (s.cluster (clusterOf c)).holder.isNone then [.arrayLeaseHandover (clusterOf c)] else [] := by
  unfold State.stage
  simp only [State.cluster_modCluster]
  split
  · rfl
  · exact (List.append_nil _).symm

/-- The head of a strand's demand is the step of a computed node whose operands may be fetched (R235, R239, R240). -/
structure State.MayFetch (s : State) (c n : Nat) (w : Work) (rest : List Work) (v : Node) : Prop where
  outstanding : ∃ o since, (s.strand c n).outst = some o ∧ o.phase = .demand (w :: rest) none since ∧
    (s.core c).olderDemand n o.order = false
  node : (s.core c).node? w.node = some v
  computed : v.kind.isSource = false
  sound : v.state ≠ .faulted
  going : (s.core c).stopped = false
  room : ((s.cluster (clusterOf c)).requests.filter fun r => r.1 == c).length < 2
  tagged : s.displaced? c n v = none

/-- The state in which a strand's step is staged with its operands fetched. -/
def State.staged (s : State) (c n : Nat) (w : Work) (rest : List Work) (out : StepOut) : State :=
  (s.setPhase c n (.demand (w :: rest) (some out) none)).stage c n

section
variable {s : State} {c n : Nat} {w : Work} {rest : List Work} {v : Node} {out : StepOut} (h : s.MayFetch c n w rest v)
include h

theorem State.MayFetch.fetchNext (eval : s.evalNode c v ⟨w.rows, w.cols⟩ = .ok (out, s)) :
    s.fetchNext c n = s.staged c n w rest out := by
  obtain ⟨o, since, outst, phase, oldest⟩ := h.outstanding
  have weights : v.kind ≠ .twload := fun hk => by
    have computed := h.computed
    rw [hk] at computed
    cases computed
  rw [State.fetchNext, outst]
  dsimp only
  rw [phase]
  dsimp only
  rw [h.node]
  dsimp only
  rw [h.going, oldest, h.computed, if_neg Bool.false_ne_true, if_neg Bool.false_ne_true, if_neg h.sound, if_neg weights,
    if_neg Bool.false_ne_true, if_neg (Nat.not_le.mpr h.room), State.fetchStep, h.tagged]
  dsimp only
  rw [eval]
  rfl

theorem State.MayFetch.exec_operandFetchComplete (eval : s.evalNode c v ⟨w.rows, w.cols⟩ = .ok (out, s)) :
    exec (.operandFetchComplete c n) s = .next (s.staged c n w rest out) :=
  congrArg Host.Outcome.next (h.fetchNext eval)

theorem State.MayFetch.phase_staged (out : StepOut) :
    ((s.staged c n w rest out).strand c n).phase? = some (.demand (w :: rest) (some out) none) := by
  obtain ⟨o, since, outst, -, -⟩ := h.outstanding
  rw [State.strand, State.staged, State.stage_core]
  exact State.phase_setPhase outst _

end

theorem State.staged_mem (s : State) (c n : Nat) (w : Work) (rest : List Work) (out : StepOut) : (s.staged c n w rest out).mem = s.mem :=
  State.stage_mem _ c n

theorem State.staged_requests (s : State) (c n : Nat) (w : Work) (rest : List Work) (out : StepOut) :
    ((s.staged c n w rest out).cluster (clusterOf c)).requests = (s.cluster (clusterOf c)).requests ++ [(c, n % 16)] :=
  State.stage_requests _ c n

theorem State.staged_agenda (s : State) (c n : Nat) (w : Work) (rest : List Work) (out : StepOut) : (s.staged c n w rest out).agenda =
    s.agenda ++ if (s.cluster (clusterOf c)).holder.isNone then [.arrayLeaseHandover (clusterOf c)] else [] :=
  State.stage_agenda _ c n

theorem State.node?_staged (s : State) (c n : Nat) (w : Work) (rest : List Work) (out : StepOut) (i : Nat) :
    ((s.staged c n w rest out).core c).node? i = (s.core c).node? i := by
  rw [State.staged, State.stage_core, State.node?_setPhase]

/-! ### A step ends on the array (R216, R233, R235) -/

/-- The node whose step over a region has ended. -/
def Node.stepped (v : Node) (r : Region) : Node :=
  { v with rmat := v.rmat ||| (v.clip r).rows, cmat := v.cmat ||| (v.clip r).cols, state := .pending }

/-- The state in which the last step of a demand has ended in bank b, its node not yet whole. -/
def State.afterLast (s : State) (c n : Nat) (w : Work) (v : Node) (b : Nat) (out : StepOut) : State :=
  ((s.modCluster (clusterOf c) fun q => q.setBank b ((q.bank b).apply out)).modCore c fun k =>
    k.setNode w.node (v.stepped ⟨w.rows, w.cols⟩)).setPhase c n (.demand [] none none)

section
variable {s : State} {c n : Nat} {w : Work} {out : StepOut} {since : Option Nat}

/-- What the last step of a demand leaves outstanding. -/
theorem State.strand_afterLast (h : (s.strand c n).work? = some ([w], some out, since)) (v : Node) (b : Nat) :
    ∃ o, ((s.afterLast c n w v b out).strand c n).outst = some o ∧ o.phase = .demand [] none none := by
  obtain ⟨o, outst, -⟩ := Strand.demands_of_work h
  refine ⟨{ o with phase := .demand [] none none }, ?_, rfl⟩
  rw [State.afterLast, State.strand_setPhase (o := o)]
  rw [State.strand, State.core_modCore]
  exact outst

/-- The last step of a demand ends and leaves its node in part. -/
theorem State.stepEnds_last (h : (s.strand c n).work? = some ([w], some out, since)) {v : Node}
    (part : ((v.stepped ⟨w.rows, w.cols⟩).rmat, (v.stepped ⟨w.rows, w.cols⟩).cmat) ≠
      (lowBits v.kind.shape.1, lowBits v.kind.shape.2)) (b : Nat) :
    s.stepEnds c n w v b out = s.afterLast c n w v b out := by
  have more : ¬ ((decide ((v.stepped ⟨w.rows, w.cols⟩).rmat = lowBits v.kind.shape.1) &&
      decide ((v.stepped ⟨w.rows, w.cols⟩).cmat = lowBits v.kind.shape.2)) = true) := fun whole => by
    rw [Bool.and_eq_true, decide_eq_true_eq, decide_eq_true_eq] at whole
    exact part (Prod.ext whole.1 whole.2)
  refine (congrArg (State.workDone · c n) (if_neg more)).trans
    (State.workDone_last (w := w) (out := some out) (since := since) ?_)
  rw [State.strand, State.core_modCore]
  exact h

end

/-- A strand with no work left has nothing to fetch. -/
theorem State.fetchNext_idle {s : State} {c n : Nat} {o : Outst} (h : (s.strand c n).outst = some o) {out : Option StepOut}
    {since : Option Nat} (hp : o.phase = .demand [] out since) : s.fetchNext c n = s := by
  rw [State.fetchNext, h]
  dsimp only
  rw [hp]

/-- After the last staged step of all cores the lease ends. -/
theorem State.afterStep_idle {s : State} {cl c : Nat} (held : (s.cluster cl).holder = some c) (idle : (s.cluster cl).requests = []) :
    s.afterStep cl = s.post (.arrayLeaseHandover cl) := by
  have ends : (s.cluster cl).leased = false := by
    rw [Cluster.leased, held]
    dsimp only
    rw [idle, List.any_nil, Bool.and_false]
  rw [State.afterStep, ends, held]
  rfl

/-! ### The array passes to a core (R240, R241) -/

/-- The state in which a step of a core's node runs. -/
def State.running (s : State) (c i : Nat) : State := s.modCore c fun k => k.modNode i fun v => { v with state := .evaluating }

theorem State.node?_running {s : State} {c i : Nat} {v : Node} (h : (s.core c).node? i = some v) :
    ((s.running c i).core c).node? i = some { v with state := .evaluating } := by
  rw [State.running, State.core_modCore]
  exact Core.node?_modNode h _

theorem State.startStep_runs {s t : State} {cl h c n fuel : Nat} (held : (s.cluster cl).holder = some h)
    (head : (s.cluster cl).requests.find? (fun r => r.1 == h) = some (c, n)) (runs : s.tryStep c n = .runs t) :
    State.startStep cl (fuel + 1) s = t.post (.tileStep cl) := by
  rw [State.startStep, held]
  dsimp only
  rw [head]
  dsimp only
  rw [runs]

section
variable {s : State} {c n : Nat} {w : Work} {rest : List Work} {out : Option StepOut} {since : Option Nat} {v : Node}
  (work : (s.strand c n).work? = some (w :: rest, out, since)) (node : (s.core c).node? w.node = some v)
include work node

theorem State.tryStep_bound (bank : ((s.core c).bankOf 96 v).isSome = true) :
    s.tryStep c n = .runs (s.running c w.node) := by
  rw [State.tryStep, work]
  dsimp only
  rw [node]
  dsimp only
  rw [if_pos bank]
  rfl

theorem State.tryStep_binds (bank : (s.core c).bankOf 96 v = none) {b : Nat} (free : s.bindBank c = .bound b) :
    s.tryStep c n = .runs ((s.takeBank c n w v b).running c w.node) := by
  rw [State.tryStep, work]
  dsimp only
  rw [node]
  dsimp only
  rw [bank, free]
  rfl

end

/-! ### The end of a step as an event (R235) -/

/-- The array has taken the only step that its cluster staged. -/
def State.emptied (s : State) (cl : Nat) : State := s.modCluster cl fun k => { k with requests := [], steps := k.steps + 1 }

/-- The state after the only staged step of a cluster, the last of its strand's demand. -/
def State.lastStepped (s : State) (c n : Nat) (w : Work) (v : Node) (b : Nat) (out : StepOut) : State :=
  ((s.emptied (clusterOf c)).afterLast c n w v b out).post (.arrayLeaseHandover (clusterOf c))

theorem State.cluster_lastStepped (s : State) (c n : Nat) (w : Work) (v : Node) (b : Nat) (out : StepOut) :
    (s.lastStepped c n w v b out).cluster (clusterOf c) =
      { s.cluster (clusterOf c) with requests := [], steps := (s.cluster (clusterOf c)).steps + 1 }.setBank b
        (((s.cluster (clusterOf c)).bank b).apply out) := by
  refine ((s.emptied (clusterOf c)).cluster_modCluster (clusterOf c) fun q => q.setBank b ((q.bank b).apply out)).trans ?_
  rw [State.emptied, State.cluster_modCluster]
  rfl

theorem State.phase_lastStepped {s : State} {c n : Nat} {w : Work} {out : StepOut} {since : Option Nat}
    (work : (s.strand c n).work? = some ([w], some out, since)) (v : Node) (b : Nat) :
    ((s.lastStepped c n w v b out).strand c n).phase? = some (.demand [] none none) := by
  obtain ⟨o, outst, phase⟩ := State.strand_afterLast (s := s.emptied (clusterOf c)) work v b
  refine (congrArg (Option.map Outst.phase) outst).trans ?_
  rw [Option.map_some, phase]

theorem State.node?_lastStepped (s : State) (c n : Nat) (w : Work) (v : Node) (b : Nat) (out : StepOut) :
    ((s.lastStepped c n w v b out).core c).node? w.node = some (v.stepped ⟨w.rows, w.cols⟩) := by
  refine (State.node?_setPhase _ c n _ _).trans ?_
  rw [State.core_modCore]
  exact Core.node?_setNode _ _ _

/-- The only step that a cluster staged, the last of its strand's demand, ends and leaves its node in part. -/
theorem exec_tileStep_last {s : State} {c n : Nat} {w : Work} {out : StepOut} {since : Option Nat} {v : Node} {b : Nat}
    (work : (s.strand c n).work? = some ([w], some out, since)) (node : (s.core c).node? w.node = some v)
    (held : (s.cluster (clusterOf c)).holder = some c) (only : (s.cluster (clusterOf c)).requests = [(c, n)])
    (tagged : (s.emptied (clusterOf c)).displaced? c n v = none) (bank : (s.core c).bankOf 96 v = some b)
    (part : ((v.stepped ⟨w.rows, w.cols⟩).rmat, (v.stepped ⟨w.rows, w.cols⟩).cmat) ≠
      (lowBits v.kind.shape.1, lowBits v.kind.shape.2)) :
    exec (.tileStep (clusterOf c)) s = .next (s.lastStepped c n w v b out) := by
  have drop : (s.modCluster (clusterOf c) fun k => { k.dropRequest c n with steps := k.steps + 1 }) = s.emptied (clusterOf c) := by
    simp only [State.emptied, State.modCluster, Cluster.dropRequest, only, List.erase_cons_head]
  have head : ([(c, n)].find? fun r => r.1 == c) = some (c, n) := List.find?_cons_of_pos (beq_self_eq_true c)
  have work' : ((s.emptied (clusterOf c)).strand c n).work? = some ([w], some out, since) := work
  have node' : ((s.emptied (clusterOf c)).core c).node? w.node = some v := node
  have bank' : ((s.emptied (clusterOf c)).core c).bankOf 96 v = some b := bank
  have cluster := s.cluster_lastStepped c n w v b out
  have ends : ((s.emptied (clusterOf c)).afterLast c n w v b out).afterStep (clusterOf c) = s.lastStepped c n w v b out :=
    State.afterStep_idle (c := c) ((congrArg Cluster.holder cluster).trans held) (congrArg Cluster.requests cluster)
  obtain ⟨o, outst, idle⟩ := State.strand_afterLast work' v b
  have run : exec (.tileStep (clusterOf c)) s = execTileStep (clusterOf c) s := rfl
  rw [run, execTileStep, held]
  dsimp only
  rw [only, head]
  dsimp only
  rw [drop, work']
  dsimp only
  rw [node']
  dsimp only
  rw [tagged, bank']
  dsimp only
  rw [State.stepEnds_last work' part, State.fetchNext_idle outst idle, ends]

/-! ### The array passes to the next core (R241) -/

/-- The place in its cluster of the core after which the array passes on. -/
def Cluster.lastPlace (k : Cluster) : Nat :=
  match k.holder with
  | some h => h % 4
  | none => 3

/-- The state in which a cluster's array has passed to a core, or to none. -/
def State.passed (s : State) (cl : Nat) (h : Option Nat) : State := s.modCluster cl fun k => { k with holder := h, steps := 0 }

theorem State.cluster_passed (s : State) (cl : Nat) (h : Option Nat) :
    (s.passed cl h).cluster cl = { s.cluster cl with holder := h, steps := 0 } := s.cluster_modCluster cl _

section
variable {s : State} {cl : Nat} (ended : ¬ ((s.cluster cl).leased = true ∧ Event.tileStep cl ∈ s.agenda))
include ended

/-- Where no step runs on, the array passes to the next requesting core, if there is one. -/
theorem exec_arrayLeaseHandover : exec (.arrayLeaseHandover cl) s =
    ((s.cluster cl).nextHolder cl (s.cluster cl).lastPlace).elim (.next (s.passed cl none)) fun h =>
      .next (State.startStep cl 4 (s.passed cl (some h))) := by
  have run : exec (.arrayLeaseHandover cl) s = execArrayLeaseHandover cl s := rfl
  have going : ¬ ((s.cluster cl).leased && s.agenda.contains (.tileStep cl)) = true := by simpa using ended
  rw [run, execArrayLeaseHandover, if_neg going]
  split
  · next idle =>
    rw [show (s.cluster cl).nextHolder cl (s.cluster cl).lastPlace = none from idle]
    rfl
  · next h heir =>
    rw [show (s.cluster cl).nextHolder cl (s.cluster cl).lastPlace = some h from heir]
    rfl

theorem exec_arrayLeaseHandover_none (idle : (s.cluster cl).nextHolder cl (s.cluster cl).lastPlace = none) :
    exec (.arrayLeaseHandover cl) s = .next (s.passed cl none) := by
  rw [exec_arrayLeaseHandover ended, idle]
  rfl

theorem exec_arrayLeaseHandover_some {h : Nat} (heir : (s.cluster cl).nextHolder cl (s.cluster cl).lastPlace = some h) :
    exec (.arrayLeaseHandover cl) s = .next (State.startStep cl 4 (s.passed cl (some h))) := by
  rw [exec_arrayLeaseHandover ended, heir]
  rfl

end

/-- What the event of a handover to core c leaves where the step at the head of the core's requests starts: node i runs as v. -/
structure State.Starts (s : State) (c i : Nat) (v : Node) (t : State) : Prop where
  run : exec (.arrayLeaseHandover (clusterOf c)) s = .next t
  mem : t.mem = s.mem
  lease : ((t.cluster (clusterOf c)).holder, (t.cluster (clusterOf c)).steps) = (some c, 0)
  agenda : t.agenda = s.agenda ++ [.tileStep (clusterOf c)]
  node : (t.core c).node? i = some { v with state := .evaluating }

section
variable {s : State} {c n : Nat} {w : Work} {rest : List Work} {out : Option StepOut} {since : Option Nat} {v : Node}
  (ended : ¬ ((s.cluster (clusterOf c)).leased = true ∧ Event.tileStep (clusterOf c) ∈ s.agenda))
  (heir : (s.cluster (clusterOf c)).nextHolder (clusterOf c) (s.cluster (clusterOf c)).lastPlace = some c)
  (head : (s.cluster (clusterOf c)).requests.find? (fun r => r.1 == c) = some (c, n))
include ended heir head

theorem exec_arrayLeaseHandover_runs {t : State} (runs : (s.passed (clusterOf c) (some c)).tryStep c n = .runs t) :
    exec (.arrayLeaseHandover (clusterOf c)) s = .next (t.post (.tileStep (clusterOf c))) := by
  rw [exec_arrayLeaseHandover_some ended heir]
  refine congrArg Host.Outcome.next (State.startStep_runs (h := c) ?_ ?_ runs) <;> rw [State.cluster_passed]
  exact head

variable (work : (s.strand c n).work? = some (w :: rest, out, since)) (node : (s.core c).node? w.node = some v)
include work node

/-- A step whose node has its bank starts. -/
theorem starts_bound (bank : ((s.core c).bankOf 96 v).isSome = true) : ∃ t, s.Starts c w.node v t := by
  have runs := State.tryStep_bound (s := s.passed (clusterOf c) (some c)) work node bank
  exact ⟨_, exec_arrayLeaseHandover_runs ended heir head runs, rfl,
    congrArg (fun k : Cluster => (k.holder, k.steps)) (s.cluster_passed (clusterOf c) (some c)), rfl, State.node?_running node⟩

/-- A step whose node has no bank starts in the free bank that it binds, under the owner's tag. -/
theorem starts_binds (bank : (s.core c).bankOf 96 v = none) {b : Nat} (free : s.bindBank c = .bound b) :
    ∃ t, s.Starts c w.node { v with bank := some b } t ∧
      ((t.cluster (clusterOf c)).bank b).tag = some { ctx := (s.core c).pctx.toNat, core := c % 4, strand := n % 16 } := by
  have free' : (s.passed (clusterOf c) (some c)).bindBank c = .bound b := by
    rw [← free, State.bindBank, State.bindBank, State.cluster_passed]
    rfl
  have runs := State.tryStep_binds (s := s.passed (clusterOf c) (some c)) work node bank free'
  have cluster := State.cluster_modCluster (s.passed (clusterOf c) (some c)) (clusterOf c) fun q =>
    q.setBank b { q.bank b with tag := some { ctx := (s.core c).pctx.toNat, core := c % 4, strand := n % 16 } }
  refine ⟨_, ⟨exec_arrayLeaseHandover_runs ended heir head runs, rfl, ?_, rfl, State.node?_running ?_⟩, ?_⟩
  · refine (congrArg (fun k : Cluster => (k.holder, k.steps)) cluster).trans ?_
    rw [State.cluster_passed]
    rfl
  · rw [State.takeBank, State.core_modCore]
    exact Core.node?_setNode _ _ _
  · refine (congrArg (fun k : Cluster => (k.bank b).tag) cluster).trans ?_
    rw [Cluster.bank_setBank]

end

/-! ### A weight tile is fetched (R223) -/

/-- The tile is written to the weight slot of a core's node. -/
def Cluster.fillSlot (k : Cluster) (c i : Nat) (bs : List Byte) : Cluster :=
  { k with slots := k.slots.map fun e => if e.2.1 == c && e.2.2.1 == i then (e.1, e.2.1, e.2.2.1, bs) else e }

theorem Cluster.mem_slots_fillSlot {k : Cluster} {c i x : Nat} (h : (x, c, i, []) ∈ k.slots) (bs : List Byte) :
    (x, c, i, bs) ∈ (k.fillSlot c i bs).slots :=
  List.mem_map.mpr ⟨_, h, by simp⟩

/-- The state in which a weight node's tile is in its slot and the node is DONE. -/
def State.weighted (s : State) (c i : Nat) (v : Node) (bs : List Byte) : State :=
  (s.modCluster (clusterOf c) fun k => k.fillSlot c i bs).modCore c fun k => k.setNode i { v with state := .done }

theorem State.cluster_weighted (s : State) (c i : Nat) (v : Node) (bs : List Byte) :
    (s.weighted c i v bs).cluster (clusterOf c) = (s.cluster (clusterOf c)).fillSlot c i bs :=
  s.cluster_modCluster (clusterOf c) fun k => k.fillSlot c i bs

theorem State.node?_weighted (s : State) (c i : Nat) (v : Node) (bs : List Byte) :
    ((s.weighted c i v bs).core c).node? i = some { v with state := .done } := by
  rw [State.weighted, State.core_modCore]
  exact Core.node?_setNode _ _ _

theorem State.strand_weighted (s : State) (c i : Nat) (v : Node) (bs : List Byte) (n : Nat) :
    (s.weighted c i v bs).strand c n = s.strand c n := by
  rw [State.strand, State.weighted, State.core_modCore]
  rfl

/-- What a fetched weight tile leaves: the owner's demand goes on where it waits for this node. -/
def State.tileFetched (s : State) (c i : Nat) (v : Node) (bs : List Byte) : State :=
  match (s.strand c v.owner).work? with
  | some (w :: _, _, _) => if w.node = i then (s.weighted c i v bs).workDone c v.owner else s.weighted c i v bs
  | _ => s.weighted c i v bs

theorem exec_twloadFetchComplete {s : State} {c i : Nat} {v : Node} {bs : List Byte} (node : (s.core c).node? i = some v)
    (hk : v.kind = .twload) (hs : v.state = .evaluating)
    (read : State.readTile c v.map ((codeDx v.map.fmt).getD d16) (List.range (v.map.cols * v.map.blocks)) s = .ok (bs, s)) :
    exec (.twloadFetchComplete c i) s = .next (s.tileFetched c i v bs) := by
  have run : exec (.twloadFetchComplete c i) s = execTwloadFetchComplete c i s := rfl
  rw [run, execTwloadFetchComplete, node]
  dsimp only
  rw [if_neg (by simp [hk, hs]), read]
  dsimp only
  rw [State.tileFetched, ← s.strand_weighted c i v bs]
  rfl

/-- The owner's demand touches nothing of what the tile's arrival wrote. -/
theorem State.tileFetched_cases (s : State) (c i : Nat) (v : Node) (bs : List Byte) :
    s.tileFetched c i v bs = (s.weighted c i v bs).workDone c v.owner ∨ s.tileFetched c i v bs = s.weighted c i v bs := by
  unfold State.tileFetched
  split
  · split
    · exact .inl rfl
    · exact .inr rfl
  · exact .inr rfl

theorem State.tileFetched_mem (s : State) (c i : Nat) (v : Node) (bs : List Byte) : (s.tileFetched c i v bs).mem = s.mem := by
  obtain done | kept := s.tileFetched_cases c i v bs
  · rw [done, State.workDone_mem]
    rfl
  · rw [kept]
    rfl

theorem State.tileFetched_clusters (s : State) (c i : Nat) (v : Node) (bs : List Byte) :
    (s.tileFetched c i v bs).clusters = (s.weighted c i v bs).clusters := by
  obtain done | kept := s.tileFetched_cases c i v bs
  · rw [done, State.workDone_clusters]
  · rw [kept]

theorem State.node?_tileFetched (s : State) (c i : Nat) (v : Node) (bs : List Byte) :
    ((s.tileFetched c i v bs).core c).node? i = some { v with state := .done } := by
  obtain done | kept := s.tileFetched_cases c i v bs
  · rw [done, State.node?_workDone, State.node?_weighted]
  · rw [kept, State.node?_weighted]

theorem State.mem_slots_tileFetched {s : State} {c i x : Nat} (h : (x, c, i, []) ∈ (s.cluster (clusterOf c)).slots) (v : Node)
    (bs : List Byte) : (x, c, i, bs) ∈ ((s.tileFetched c i v bs).cluster (clusterOf c)).slots := by
  have same : (s.tileFetched c i v bs).cluster (clusterOf c) = (s.weighted c i v bs).cluster (clusterOf c) :=
    congrArg (lookupD Cluster.reset (clusterOf c)) (s.tileFetched_clusters c i v bs)
  rw [same, State.cluster_weighted]
  exact Cluster.mem_slots_fillSlot h bs

/-- A demand whose last item is the weight node is done. -/
theorem State.phase_tileFetched {s : State} {c : Nat} {w : Work} {v : Node} {out : Option StepOut} {since : Option Nat}
    (work : (s.strand c v.owner).work? = some ([w], out, since)) (bs : List Byte) :
    ((s.tileFetched c w.node v bs).strand c v.owner).phase? = some (.demand [] none none) := by
  obtain ⟨o, outst, -⟩ := Strand.demands_of_work work
  rw [← s.strand_weighted c w.node v bs v.owner] at outst
  have work' := work
  rw [← s.strand_weighted c w.node v bs v.owner] at work'
  rw [State.tileFetched, work]
  dsimp only
  rw [if_pos rfl, State.workDone_last work', State.phase_setPhase outst]

/-! ### The tile events -/

/-- Settles O53, event by event: a fetch of value operands gives the step's values at the positions added, and stages it; each event of
the array and of a weight fetch is the equation of its case. -/
theorem tileEvents : Obligations.TileEvents := by
  unfold Obligations.TileEvents
  intro s c n i v node
  refine ⟨?_, ?_, ?_, ?_, ?_⟩
  · rintro o w rest since out outst phase rfl computed sound going oldest room tagged eval
    have fetch : s.MayFetch c n w rest v := ⟨⟨o, since, outst, phase, oldest⟩, node, computed, sound, going, room, tagged⟩
    exact ⟨_, fetch.exec_operandFetchComplete eval, fetch.phase_staged out, s.staged_requests c n w rest out,
      (s.node?_staged c n w rest out w.node).trans node, s.staged_mem c n w rest out, s.staged_agenda c n w rest out⟩
  · rintro o w rest since outst phase rfl computed sound going oldest room tagged hv two
    intro near elem line e enabled block result d
    have fetch : s.MayFetch c n w rest v := ⟨⟨o, since, outst, phase, oldest⟩, node, computed, sound, going, room, tagged⟩
    obtain ⟨out, gives⟩ := s.stepGives_of_values c ⟨w.rows, w.cols⟩ hv computed two
    refine ⟨_, out, fetch.exec_operandFetchComplete gives.fetched, fetch.phase_staged out, s.staged_mem c n w rest out, gives.mem_cells,
      gives.pairs, fun hk i j m e positive hm => ?_⟩
    have relu : result i j = (activationOf 0).result (elem 0 i j) := by
      change v.stepValue ((s.cluster (clusterOf c)).operandElem v) i j = _
      rw [Node.stepValue, hk]
      rfl
    rw [relu, positive, relu_result_pos hm]
    rfl
  · rintro w b out since work rfl held only
    intro u tagged bank done v' part
    have cluster := s.cluster_lastStepped c n w v b out
    refine ⟨_, exec_tileStep_last work node held only tagged bank part, rfl, s.node?_lastStepped c n w v b out, ?_,
      congrArg Cluster.requests cluster, congrArg Cluster.steps cluster, State.phase_lastStepped work v b, rfl⟩
    rw [cluster, Cluster.bank_setBank]
  · intro ended last
    refine ⟨exec_arrayLeaseHandover_none ended, ?_⟩
    rintro w rest out since heir head work rfl
    constructor
    · intro bank
      obtain ⟨t, h⟩ := starts_bound ended heir head work node bank
      exact ⟨t, h.run, h.mem, h.lease, h.agenda, h.node⟩
    · intro b bank free
      obtain ⟨t, h, tag⟩ := starts_binds ended heir head work node bank free
      exact ⟨t, ⟨h.run, h.mem, h.lease, h.agenda, h.node⟩, tag⟩
  · intro bs hk hs read
    refine ⟨_, exec_twloadFetchComplete node hk hs read, s.node?_tileFetched c i v bs, s.tileFetched_mem c i v bs,
      fun x h => State.mem_slots_tileFetched h v bs, ?_⟩
    rintro w out since work rfl
    exact State.phase_tileFetched work bs

end Sys2Proof.Machine
end

section
/-! PROOFS. The statement of `03_memory_hierarchy.md` about the messages of a group (R116, R117, R182). -/

namespace Sys2Proof.Machine

/-- A `cpyh` that waits in the barrier episode of group 255. -/
def waitingHalo : Copy where
  id := 7
  strand := 0
  reg := 1
  kind := .cpyh
  geo := []
  gb := 0xFF00
  rm := 0
  next := 0
  inFlight := 0
  refusedAt := none
  phase := .barrier 0
  code := 0
  busy := true
  locks := []

/-- Group 255 has one member, core 256, whose arrival has not come. -/
def loneGroup : Group where
  ref := ⟨0, 255⟩
  image := { count := 1, wait := 0, zeros := 0, members := [] }
  run := none
  members := [256]
  expected := [256]
  arrived := []
  redOp := none
  redValues := []
  seq := 0
  unpopped := []

/-- Core 256 holds two records of its arrival in one episode: the first has left it and been withdrawn, the second, which a `cpyh`
makes, has not left it. -/
def recordedTwice : State :=
  { State.reset with
    groups := [loneGroup]
    cores := [(256, { Core.reset with
      copies := [waitingHalo]
      arrivals := [{ idx := 255, reduction := false, arriver := .gone, sent := true, withdrawn := true },
        { idx := 255, reduction := false, arriver := .copy 7, sent := false, withdrawn := false }] })] }

/-- The withdrawal ends the `cpyh`, and with it go both records. -/
theorem recordedTwice_withdrawal : ∃ t, exec (.barrierWithdrawal ⟨0, 255⟩ 256 false 256) recordedTwice = .next t ∧
    (t.core 256).arrival? 255 false = none := ⟨_, rfl, by decide +kernel⟩

/-- Refutes O51. The statement says of every state that the record of the withdrawn arrival stays with the core. In `recordedTwice` the
core has two records of one episode, the older of them withdrawn; the withdrawal at the root then ends the `cpyh` that the younger one
belongs to, and that `cpyh` drops the core's records of the episode. A step that records an arrival (`putArrival`) keeps one record of
it, so no run makes this state: what the statement lacks is that hypothesis. -/
theorem not_groupEvents : ¬ Obligations.GroupEvents := by
  intro h
  obtain ⟨-, -, -, -, atRoot⟩ := h recordedTwice 256
  obtain ⟨-, -, withdrawal, -⟩ := atRoot ⟨0, 255⟩ loneGroup 256 256 0 rfl rfl ⟨rfl, rfl⟩ rfl (by decide)
  obtain ⟨t, run, -, -, ⟨-, kept⟩, -⟩ := withdrawal ⟨_, rfl, rfl⟩ (by
    intro y since a _ _ first maker
    cases Option.some.inj first
    cases maker)
  obtain ⟨u, run', lost⟩ := recordedTwice_withdrawal
  cases Host.Outcome.next.inj (run.symm.trans run')
  exact nomatch lost.symm.trans (kept rfl _ rfl)
end Sys2Proof.Machine
end

section
/-! PROOFS. The statement of `03_memory_hierarchy.md` about day barriers, vigils and queue counts (R62, R184 to R186). -/

namespace Sys2Proof.Machine

/-- What every step of a fold keeps, the fold keeps. -/
theorem foldl_keeps {σ α β : Type} (g : σ → β) (f : σ → α → σ) (h : ∀ s x, g (f s x) = g s) (l : List α) (s : σ) :
    g (l.foldl f s) = g s := by
  induction l generalizing s with
  | nil => rfl
  | cons x r ih => rw [List.foldl_cons, ih, h]

/-! ### Strands that go on (R102) -/

/-- A strand whose outstanding instruction, if it has one, is complete. -/
def Strand.ended (t : Strand) : Strand := { t with outst := t.outst.map fun o => { o with phase := .done none } }

/-- A strand's outstanding instruction is in a phase and has met no trap. -/
def Strand.WaitsAs (t : Strand) (p : Phase) : Prop := ∃ o, t.outst = some o ∧ o.err = none ∧ o.phase = p

theorem Strand.ended_ended (t : Strand) : t.ended.ended = t.ended := by
  simp [Strand.ended, Function.comp_def]

theorem Strand.ended_outst {t : Strand} {o : Outst} (h : t.outst = some o) : t.ended.outst = some { o with phase := .done none } := by
  simp [Strand.ended, h]

theorem State.done_eq (s : State) (c n : Nat) : s.done c n = s.modStrand c n Strand.ended := by
  rw [State.done, State.setPhase, State.modStrand, State.modStrand, Strand.ended]
  refine congrArg _ ?_
  cases h : (s.strand c n).outst
  · exact congrArg (fun x => { s.strand c n with outst := x }) h
  · rfl

theorem Core.strand_mod {k : Core} {m n : Nat} (h : m % 16 = n % 16) : k.strand m = k.strand n := by
  simp [Core.strand, h]

theorem State.strand_mod (s : State) (c : Nat) {m n : Nat} (h : m % 16 = n % 16) : s.strand c m = s.strand c n := Core.strand_mod h

/-- The strands that `strandsIn` lists. -/
theorem Core.mem_strandsIn {k : Core} {p : Phase → Bool} {n : Nat} :
    n ∈ k.strandsIn p ↔ n < 16 ∧ ∃ o, (k.strand n).outst = some o ∧ o.err = none ∧ p o.phase = true := by
  rw [Core.strandsIn, List.mem_filter, List.mem_range]
  cases (k.strand n).outst <;> simp

/-- Ending instructions of a core's strands changes those strands and nothing else. -/
theorem State.strand_foldDone (c m : Nat) (l : List Nat) (s : State) :
    (l.foldl (fun s n => s.done c n) s).strand c m =
      if ∃ n ∈ l, n % 16 = m % 16 then (s.strand c m).ended else s.strand c m := by
  induction l generalizing s with
  | nil => simp
  | cons n r ih =>
    rw [List.foldl_cons, ih, State.done_eq]
    by_cases here : n % 16 = m % 16
    · rw [← s.strand_mod c here, ← State.strand_mod _ c here, State.strand_modStrand, Strand.ended_ended]
      simp [here]
    · rw [State.strand_modStrand_other _ _ _ _ _ _ (.inr (Ne.symm here))]
      simp [here]

theorem State.core_modStrand (s : State) (c n : Nat) (f : Strand → Strand) :
    (s.modStrand c n f).core c = (s.core c).setStrand n (f (s.strand c n)) := s.core_setCore _ _

theorem State.rings_foldDone (c : Nat) (l : List Nat) (s : State) :
    ((l.foldl (fun s n => s.done c n) s).core c).rings = (s.core c).rings :=
  foldl_keeps (fun s : State => (s.core c).rings) _ (fun s n => by rw [State.done_eq, State.core_modStrand, Core.setStrand_rings]) l s

theorem State.mem_foldDone (c : Nat) (l : List Nat) (s : State) : (l.foldl (fun s n => s.done c n) s).mem = s.mem :=
  foldl_keeps State.mem _ (fun s n => by rw [State.done_eq, State.modStrand_mem]) l s

theorem State.cur_foldDone (c : Nat) (l : List Nat) (s : State) : (l.foldl (fun s n => s.done c n) s).cur = s.cur :=
  foldl_keeps State.cur _ (fun s n => by rw [State.done_eq, State.modStrand_cur]) l s

/-- The end of an outstanding instruction at its strand's slot, once it is complete. -/
theorem State.endDone_of_done {s : State} {c n : Nat} {o : Outst} (h : (s.strand c n).outst = some o) (hp : o.phase = .done none) :
    s.endDone c n = s.modStrand c n fun t => { t with outst := none }.complete o.pc o.retired .on := by
  have phase : (s.strand c n).phase? = some (.done none) := by rw [Strand.phase?, h, ← hp]; rfl
  simp only [State.endDone, phase, State.finish, State.modStrand, h]

theorem State.endDone_of_waits {s : State} {c n : Nat} {p : Phase} (h : (s.strand c n).phase? = some p) (hp : ∀ r, p ≠ .done r) :
    s.endDone c n = s := by
  simp only [State.endDone, h]
  split
  case h_1 e => exact absurd (Option.some.inj e) (hp _)
  case h_2 e => exact absurd (Option.some.inj e) (hp _)
  case h_3 => rfl

/-! ### Day barriers (R62, R184) -/

theorem Core.ring?_setRing (k : Core) (i : Nat) (r : Ring) : (k.setRing i r).ring? i = some r := find?_assign i r k.rings

/-- A ring after a side's barrier has been looked at: its pointer has advanced if the barrier's conditions hold. -/
def Ring.tried (r : Ring) (drain : Bool) : Ring := if r.ready drain then r.advance drain else r

section
variable {s : State} {c i : Nat} {drain : Bool} {r : Ring} (ring : (s.core c).ring? i = some r)
include ring

theorem State.dayAdvance_eq : s.dayAdvance c i drain = if r.ready drain = true then
    ((s.core c).strandsIn fun p => p == .daybar i drain).foldl (fun s n => s.done c n)
      (s.modCore c fun k => k.setRing i (r.advance drain)) else s := by
  simp only [State.dayAdvance, ring]
  cases r.ready drain <;> rfl

theorem State.ring_dayAdvance : ((s.dayAdvance c i drain).core c).ring? i = some (r.tried drain) := by
  rw [State.dayAdvance_eq ring, Ring.tried]
  split
  · rw [Core.ring?, State.rings_foldDone, State.core_modCore]
    exact Core.ring?_setRing _ i _
  · exact ring

theorem State.mem_dayAdvance : (s.dayAdvance c i drain).mem = s.mem := by
  rw [State.dayAdvance_eq ring]
  split
  · exact State.mem_foldDone _ _ _
  · rfl

theorem State.cur_dayAdvance : (s.dayAdvance c i drain).cur = s.cur := by
  rw [State.dayAdvance_eq ring]
  split
  · exact State.cur_foldDone _ _ _
  · rfl

/-- A day barrier that advances lets the strands go on that wait at it. -/
theorem State.strand_dayAdvance_waiting (ready : r.ready drain = true) {n : Nat} (waits : (s.strand c n).WaitsAs (.daybar i drain)) :
    (s.dayAdvance c i drain).strand c n = (s.strand c n).ended := by
  obtain ⟨o, outst, err, phase⟩ := waits
  have waiting : ∃ m ∈ (s.core c).strandsIn (fun p => p == .daybar i drain), m % 16 = n % 16 := by
    refine ⟨n % 16, Core.mem_strandsIn.mpr ⟨Nat.mod_lt _ (by decide), o, ?_, err, beq_iff_eq.mpr phase⟩, Nat.mod_mod _ _⟩
    rw [Core.strand_mod (Nat.mod_mod n 16)]
    exact outst
  rw [State.dayAdvance_eq ring, if_pos ready, State.strand_foldDone, if_pos waiting]
  exact congrArg Strand.ended (by rw [State.strand, State.core_modCore]; rfl)

/-- It leaves the other strands alone, and every strand where it does not advance. -/
theorem State.strand_dayAdvance_other {n : Nat} (other : r.ready drain = true → ¬ (s.strand c n).WaitsAs (.daybar i drain)) :
    (s.dayAdvance c i drain).strand c n = s.strand c n := by
  rw [State.dayAdvance_eq ring]
  split
  · rename_i ready
    rw [State.strand_foldDone, if_neg]
    · rw [State.strand, State.core_modCore]; rfl
    · rintro ⟨m, listed, same⟩
      obtain ⟨-, o, outst, err, phase⟩ := Core.mem_strandsIn.mp listed
      refine other ready ⟨o, ?_, err, beq_iff_eq.mp phase⟩
      rw [← s.strand_mod c same]
      exact outst
  · rfl

end

/-- A ring with a strand's arrival at a side. -/
def Ring.joinedBy (r : Ring) (drain : Bool) (n : Nat) : Ring :=
  let bit : BitVec 16 := BitVec.ofNat 16 (2 ^ (n % 16))
  if drain then { r with drainArr := r.drainArr ||| bit } else { r with fillArr := r.fillArr ||| bit }

/-- The members of a side. -/
def Ring.members (r : Ring) (drain : Bool) : BitVec 16 := if drain then r.cfg.cons else r.cfg.prod

section
variable {s : State} (free : s.Free) (idle : s.me.outst = none) {i : Nat} {drain : Bool} {r : Ring}
  (ring : (s.core s.cur.1).ring? i = some r) (member : (r.members drain).getLsbD (s.cur.2 % 16) = true)
include free idle ring member

/-- A member arrives at a day barrier: both sides are looked at, and it goes on or waits. -/
theorem State.dayBarrier_arrives (la : La) : ∃ t, s.dayBarrier la i drain = .next t ∧ t.mem = s.mem ∧
    (t.core s.cur.1).ring? i = some (((r.joinedBy drain s.cur.2).tried drain).tried !drain) ∧
    ((r.joinedBy drain s.cur.2).ready drain = true → t.me = (s.retire .on).me) ∧
    ((r.joinedBy drain s.cur.2).ready drain = false → s.WaitsIn t (.daybar i drain)) := by
  let o := s.issued la (.daybar i drain)
  let r' := r.joinedBy drain s.cur.2
  let v := (s.modMe fun t => t.held o).modCore s.cur.1 fun k => k.setRing i r'
  have vring : (v.core s.cur.1).ring? i = some r' := by rw [State.core_modCore]; exact Core.ring?_setRing _ i r'
  have vme : v.strand s.cur.1 s.cur.2 = s.me.held o := by
    rw [← s.strand_modMe fun t => t.held o, State.strand, State.core_modCore]
    rfl
  let w := v.dayAdvance s.cur.1 i drain
  have wring : (w.core s.cur.1).ring? i = some (r'.tried drain) := State.ring_dayAdvance vring
  let x := w.dayAdvance s.cur.1 i !drain
  have xcur : x.cur = s.cur := (State.cur_dayAdvance wring).trans (State.cur_dayAdvance vring)
  have xmem : x.mem = s.mem := (State.mem_dayAdvance wring).trans (State.mem_dayAdvance vring)
  have xring : (x.core s.cur.1).ring? i = some ((r'.tried drain).tried !drain) := State.ring_dayAdvance wring
  have notOther : ∀ t : Strand, (t.phase? = some (.daybar i drain) ∨ t.phase? = some (.done none)) → ¬ t.WaitsAs (.daybar i !drain) := by
    rintro t ht ⟨q, outst, -, phase⟩
    rw [Strand.phase?, outst, Option.map_some, phase] at ht
    cases drain <;> simp at ht
  have run : s.dayBarrier la i drain = .next (x.endDone s.cur.1 s.cur.2) := by
    rw [State.dayBarrier, ring]
    dsimp only
    rw [show (if drain = true then r.cfg.cons else r.cfg.prod) = r.members drain from rfl, show s.cn = s.cur.2 % 16 from rfl, member,
      State.hold_free free, State.dayArrive, State.core_modMe]
    rw [show ((s.core s.cur.1).setStrand s.cur.2 (s.me.held (s.issued la (.daybar i drain)))).ring? i = some r from ring]
    simp only [Nat.mod_mod]
    rfl
  refine ⟨_, run, ?_⟩
  cases ready : r'.ready drain
  · have xme : x.strand s.cur.1 s.cur.2 = s.me.held o := by
      have wme : w.strand s.cur.1 s.cur.2 = s.me.held o :=
        (State.strand_dayAdvance_other vring fun h => absurd (ready.symm.trans h) (by decide)).trans vme
      exact (State.strand_dayAdvance_other wring fun _ => by rw [wme]; exact notOther _ (.inl rfl)).trans wme
    rw [State.endDone_of_waits (p := .daybar i drain) (by rw [xme]; rfl) (by simp)]
    refine ⟨xmem, xring, fun h => absurd h (by decide), fun _ => ?_⟩
    exact State.waitsIn_of_held (o := o) (by rw [State.me, xcur]; exact xme) xmem
  · have xme : x.strand s.cur.1 s.cur.2 = (s.me.held o).ended := by
      have wme : w.strand s.cur.1 s.cur.2 = (s.me.held o).ended := by
        rw [← vme]
        exact State.strand_dayAdvance_waiting vring ready ⟨o, by rw [vme]; rfl, rfl, rfl⟩
      exact (State.strand_dayAdvance_other wring fun _ => by rw [wme]; exact notOther _ (.inr rfl)).trans wme
    have outst : (x.strand s.cur.1 s.cur.2).outst = some { o with phase := .done none } := by rw [xme]; rfl
    rw [State.endDone_of_done outst rfl]
    refine ⟨xmem, ?_, fun _ => ?_, fun h => absurd h (by decide)⟩
    · rw [State.core_modStrand]
      exact xring
    · rw [State.me, show (x.modStrand s.cur.1 s.cur.2 _).cur = s.cur from xcur, State.strand_modStrand, xme, State.me_retire,
        free.noSkip, ← s.me.complete_held idle o]
      rfl

end

/-! ### Vigils and queue counts (R185, R186) -/

theorem Strand.held_setGreg (t : Strand) (o : Outst) (d : Reg) (v : Word) : (t.held o).setGreg d v = (t.setGreg d v).held o := by
  simp only [Strand.setGreg]
  split <;> rfl

theorem State.modMe_modMe (s : State) (f g : Strand → Strand) : (s.modMe f).modMe g = s.modMe fun t => g (f t) :=
  s.modStrand_modMe f g

/-- A result at the slot of the issue completes the instruction in the pipeline. -/
theorem State.resultTo_held {s : State} (free : s.Free) (idle : s.me.outst = none) {o : Outst} (pc : o.pc = s.me.pc)
    (retired : o.retired = 0) (d : Reg) (v : Word) :
    ((s.modMe fun t => t.held o).resultTo s.cur.1 s.cur.2 d v).endDone s.cur.1 s.cur.2 = s.wrote d v := by
  have plain : ((s.modMe fun t => t.held o).strand s.cur.1 s.cur.2).qmap = false := by
    rw [State.strand_modMe]
    exact free.noPorts
  have full : (s.modMe fun t => t.held o).fullPort s.cur.1 s.cur.2 d = false := by
    rw [State.fullPort, Strand.port?_none _ _ plain]
  let u := s.modMe fun t => t.setGreg d v
  have ume : u.me = s.me.setGreg d v := s.me_modMe _
  have written : (s.modMe fun t => t.held o).modStrand s.cur.1 s.cur.2 (fun t => t.setGreg d v) = u.modMe fun t => t.held o := by
    rw [State.modStrand_modMe]
    exact (s.modMe_congr (s.me.held_setGreg o d v)).trans (s.modMe_modMe _ _).symm
  have phase : ((u.modMe fun t => t.held { o with phase := .done none }).strand u.cur.1 u.cur.2).phase? = some (.done none) :=
    u.phase?_held _
  rw [State.resultTo, full, if_neg (by decide), State.writeG_plain _ _ _ _ _ plain, written, State.done]
  change ((u.modMe fun t => t.held o).setPhase u.cur.1 u.cur.2 _).endDone u.cur.1 u.cur.2 = _
  rw [State.setPhase_held, State.endDone, phase]
  dsimp only
  refine (State.finish_held (s := u) (o := { o with phase := .done none }) ?_ ?_ ?_ retired .on).trans rfl
  · rw [ume, Strand.setGreg_outst, idle]
  · rw [ume, Strand.setGreg_skip, free.noSkip]
  · rw [ume, Strand.setGreg_pc]
    exact pc

section
variable {s : State} (free : s.Free) {fn q : Nat} (named : fn < 2 ∨ ((s.core s.cur.1).ring? q).isSome = true)
include free named

theorem State.vigil_begins (la : La) (d : Reg) (x : Nat) :
    s.vigil la fn d q x = .next (((s.modMe fun t => t.held (s.issued la (.vigil fn d q x))).service s.cur.1 s.cur.2).endDone
      s.cur.1 s.cur.2) := by
  have configured : (decide (2 ≤ fn) && ((s.core s.cur.1).ring? q).isNone) = false := by
    rcases named with two | some
    · simp [two]
    · simp [Option.isNone_eq_false_iff.mpr some]
  rw [State.vigil, configured, State.gate_free free, State.begin, State.pops_free free, State.hold_free free]
  rfl

omit free named in
/-- A vigil looks at its condition in the slot of its issue. -/
theorem State.service_vigil (la : La) (d : Reg) (x : Nat) :
    let u := s.modMe fun t => t.held (s.issued la (.vigil fn d q x))
    u.service s.cur.1 s.cur.2 = if (s.core s.cur.1).vigilHolds fn q = true then u.resultTo s.cur.1 s.cur.2 d 0 else u := by
  intro u
  have holds : (u.core s.cur.1).vigilHolds fn q = (s.core s.cur.1).vigilHolds fn q := by rw [State.core_modMe]; rfl
  have noTrap : (s.issued la (.vigil fn d q x)).err.isSome = false := rfl
  have phase : (s.issued la (.vigil fn d q x)).phase = .vigil fn d q x := rfl
  have outst : (u.strand s.cur.1 s.cur.2).outst = some (s.issued la (.vigil fn d q x)) := by rw [State.strand_modMe]; rfl
  have now : u.elapsed s.cur.1 s.cur.2 = 0 := s.elapsed_issued la _
  rw [← holds]
  unfold State.service
  rw [outst]
  dsimp only
  rw [noTrap, phase, now]
  rfl

theorem State.vigil_holds (idle : s.me.outst = none) (la : La) (d : Reg) (x : Nat) (holds : (s.core s.cur.1).vigilHolds fn q = true) :
    s.vigil la fn d q x = .next (s.wrote d 0) := by
  rw [State.vigil_begins free named, State.service_vigil, if_pos holds, State.resultTo_held free idle rfl rfl]

theorem State.vigil_waits (la : La) (d : Reg) (x : Nat) (holds : (s.core s.cur.1).vigilHolds fn q = false) :
    ∃ t, s.vigil la fn d q x = .next t ∧ s.WaitsIn t (.vigil fn d q x) := by
  refine ⟨_, State.vigil_begins free named la d x, ?_⟩
  rw [State.service_vigil, if_neg (by simp [holds]), State.endDone_held (by simp [State.issued])]
  exact State.waitsIn_of_held (o := s.issued la (.vigil fn d q x)) (s.me_modMe fun t => t.held _) rfl

end

theorem Core.vigilHolds_ready {k : Core} {q : Nat} {r : Ring} (h : k.ring? q = some r) :
    k.vigilHolds 2 q = true ↔ r.held ≠ 0 := by
  simp [Core.vigilHolds, h]

theorem Core.vigilHolds_room {k : Core} {q : Nat} {r : Ring} (h : k.ring? q = some r) :
    k.vigilHolds 3 q = true ↔ r.held < r.cfg.days - 1 := by
  simp [Core.vigilHolds, h]

theorem exec_qcount_free {s : State} (free : s.Free) (d : Reg) (q : BitVec 5) (la : La) :
    exec (.qcount d q la) s = .next (s.wrote d (BitVec.ofNat 64 ((s.core s.cur.1).queue q.toNat).entries.length)) := by
  change s.gate [] [] [d] _ = _
  rw [State.gate_free free, State.lateResult_free free]

section
variable (r : Ring) (drain : Bool) (n : Nat)

theorem Ring.modulus_joinedBy : (r.joinedBy drain n).modulus = r.modulus := by cases drain <;> rfl

theorem Ring.held_joinedBy : (r.joinedBy drain n).held = r.held := by cases drain <;> rfl

theorem Ring.tried_of_ready {r : Ring} {drain : Bool} (h : r.ready drain = true) : r.tried drain = r.advance drain := if_pos h

theorem Ring.tried_of_not {r : Ring} {drain : Bool} (h : r.ready drain = false) : r.tried drain = r :=
  if_neg (by rw [h]; decide)

theorem Ring.ready_fill : r.ready false = true ↔ r.fillArr &&& r.cfg.prod = r.cfg.prod ∧ r.held < r.cfg.days - 1 := by
  simp [Ring.ready]

theorem Ring.ready_drain : r.ready true = true ↔ r.drainArr &&& r.cfg.cons = r.cfg.cons ∧ r.held ≠ 0 := by
  simp [Ring.ready]

/-- Looking at the other side leaves a side's pointer and arrivals alone. -/
theorem Ring.fill_tried_drain : (r.tried true).fill = r.fill ∧ (r.tried true).fillArr = r.fillArr := by
  rw [Ring.tried]
  split
  · simp [Ring.advance]
  · exact ⟨rfl, rfl⟩

theorem Ring.drain_tried_fill : (r.tried false).drain = r.drain ∧ (r.tried false).drainArr = r.drainArr := by
  rw [Ring.tried]
  split
  · simp [Ring.advance]
  · exact ⟨rfl, rfl⟩

end

/-! ### The statement -/

/-- Settles O35, instruction by instruction. -/
theorem ringsAndVigils : Obligations.RingsAndVigils := by
  unfold Obligations.RingsAndVigils
  intro s free idle i d q x la r k bit whole held ring n
  have whole_eq : whole = r.modulus := rfl
  refine ⟨exec_qcount_free free d q la, fun configured member => ?_, fun configured member => ?_, ?_, fun configured => ?_⟩
  · obtain ⟨t, run, mem, rings, goes, waits⟩ := State.dayBarrier_arrives free idle (drain := false) configured member la
    let r' := r.joinedBy false s.cur.2
    have rings : ring t = some ((r'.tried false).tried true) := rings
    have ready : r'.ready false = true ↔ (r.fillArr ||| bit) &&& r.cfg.prod = r.cfg.prod ∧ held < r.cfg.days - 1 :=
      r'.ready_fill.trans (by rw [Ring.held_joinedBy]; rfl)
    obtain ⟨pointer, arrivals⟩ := (r'.tried false).fill_tried_drain
    refine ⟨t, run, mem, fun all => ?_, fun all => ?_⟩
    · have tried := Ring.tried_of_ready (ready.mpr all)
      refine ⟨goes (ready.mpr all), ?_, ?_⟩ <;> rw [rings, Option.map_some]
      · rw [pointer, tried, whole_eq, ← r.modulus_joinedBy false s.cur.2]
        rfl
      · rw [arrivals, tried]
        rfl
    · have not : r'.ready false = false := Bool.eq_false_iff.mpr fun h => all (ready.mp h)
      have tried := Ring.tried_of_not not
      refine ⟨waits not, ?_, ?_⟩ <;> rw [rings, Option.map_some]
      · rw [pointer, tried]
        rfl
      · rw [arrivals, tried]
        rfl
  · obtain ⟨t, run, mem, rings, goes, waits⟩ := State.dayBarrier_arrives free idle (drain := true) configured member la
    let r' := r.joinedBy true s.cur.2
    have rings : ring t = some ((r'.tried true).tried false) := rings
    have ready : r'.ready true = true ↔ (r.drainArr ||| bit) &&& r.cfg.cons = r.cfg.cons ∧ held ≠ 0 :=
      r'.ready_drain.trans (by rw [Ring.held_joinedBy]; rfl)
    obtain ⟨pointer, arrivals⟩ := (r'.tried true).drain_tried_fill
    refine ⟨t, run, mem, fun all => ?_, fun all => ?_⟩
    · have tried := Ring.tried_of_ready (ready.mpr all)
      refine ⟨goes (ready.mpr all), ?_, ?_⟩ <;> rw [rings, Option.map_some]
      · rw [pointer, tried, whole_eq, ← r.modulus_joinedBy true s.cur.2]
        rfl
      · rw [arrivals, tried]
        rfl
    · have not : r'.ready true = false := Bool.eq_false_iff.mpr fun h => all (ready.mp h)
      have tried := Ring.tried_of_not not
      refine ⟨waits not, ?_, ?_⟩ <;> rw [rings, Option.map_some]
      · rw [pointer, tried]
        rfl
      · rw [arrivals, tried]
        rfl
  · intro e he
    simp only [List.mem_cons, List.not_mem_nil, or_false] at he
    rcases he with rfl | rfl
    · have holds : k.vigilHolds 0 q.toNat = decide (n ≠ 0) := by simp [Core.vigilHolds, n, Nat.pos_iff_ne_zero]
      exact ⟨fun h => State.vigil_holds free (.inl (by decide)) idle la d _ (holds.trans h),
        fun h => State.vigil_waits free (.inl (by decide)) la d _ (holds.trans h)⟩
    · have holds : k.vigilHolds 1 q.toNat = decide (n < 16) := by simp [Core.vigilHolds, n]
      exact ⟨fun h => State.vigil_holds free (.inl (by decide)) idle la d _ (holds.trans h),
        fun h => State.vigil_waits free (.inl (by decide)) la d _ (holds.trans h)⟩
  · have named : (k.ring? q.toNat).isSome = true := by rw [configured]; rfl
    intro e he
    simp only [List.mem_cons, List.not_mem_nil, or_false] at he
    rcases he with rfl | rfl
    · have holds : k.vigilHolds 2 q.toNat = decide (held ≠ 0) := by
        rw [Bool.eq_iff_iff, decide_eq_true_iff, Core.vigilHolds_ready configured]
        rfl
      exact ⟨fun h => State.vigil_holds free (.inr named) idle la d _ (holds.trans h),
        fun h => State.vigil_waits free (.inr named) la d _ (holds.trans h)⟩
    · have holds : k.vigilHolds 3 q.toNat = decide (held < r.cfg.days - 1) := by
        rw [Bool.eq_iff_iff, decide_eq_true_iff, Core.vigilHolds_room configured]
        rfl
      exact ⟨fun h => State.vigil_holds free (.inr named) idle la d _ (holds.trans h),
        fun h => State.vigil_waits free (.inr named) la d _ (holds.trans h)⟩

end Sys2Proof.Machine
end

section
/-! PROOFS. Accesses of R50 whose checks pass, wherever their bytes lie: the place the address reaches, the verdict of the range locks,
and what a scalar load does with a value at hand, a miss of the L1, or bytes of another core (R49, R50, R54, R63, R70, R169). -/

namespace Sys2Proof.Machine

/-! ### The place an address reaches (R49, R50) -/

/-- An address that names a core reaches its scratchpad (R63). -/
theorem State.named_target {s : State} {a : Word} {n t : Nat} (h : s.Named a n t) (mode : Nat) (w : Right) :
    s.target s.cur.1 mode a n w = .ok (if t = s.cur.1 then .own (a.toNat % 2 ^ 19) else .pad t (a.toNat % 2 ^ 19)) := by
  have space := h.space
  have zero := h.zero
  have h2 : field 63 60 a = 2 := by simp [field]; omega
  have h3 : field 45 19 a = 0 := by simp [field]; omega
  have h4 : field 18 0 a = a.toNat % 2 ^ 19 := by simp [field]
  have h5 : field 59 46 a = a.toNat / 2 ^ 46 % 2 ^ 14 := by simp [field]
  obtain ⟨r, run, names, region⟩ := h.names
  rw [← h5] at names
  rw [← h4]
  have inside : ¬ (s.core s.cur.1).scr ≤ field 18 0 a := by rw [h4]; exact Nat.not_le.mpr h.inside
  by_cases own : t = s.cur.1
  · subst own
    simp [State.target, h2, h3, h.aligned, run, names, region, inside]
  · simp [State.target, h2, h3, h.aligned, run, names, region, inside, own]

/-- A virtual address in the lease reaches itself. -/
theorem State.leased_target {s : State} {a : Word} {n : Nat} {w : Right} (h : s.Leased a n w) (mode : Nat) :
    s.target s.cur.1 mode a n w = .ok (.virt (a.toNat % 2 ^ 57)) := by
  have space := h.space
  have h2 : field 63 60 a = 8 := by simp [field]; omega
  have h3 : field 62 57 a = 0 := by simp [field]; omega
  have h4 : field 56 0 a = a.toNat % 2 ^ 57 := by simp [field]
  obtain ⟨r, run, grants⟩ := h.grants
  rw [← h4] at grants ⊢
  simp [State.target, h2, h3, h.aligned, run, grants]

/-! ### Range locks (R70) -/

/-- No lock of the issuing core conflicts with an access elsewhere than in its own scratchpad. -/
theorem State.verdict_clear {s : State} {c m : Nat} {t : Target} {place : Place} {lo : Nat} (at_ : s.placeOf c t = some (place, lo))
    (other : ∀ o, t ≠ .own o) {w : Bool} {len : Nat}
    (unlocked : ∀ e ∈ (s.core c).locks, e.place = place → lockConflict e true w lo len = false) : s.verdict c m t w len = .clear := by
  have mine : ((s.core c).locks.filter fun e => e.place == place && lockConflict e true w lo len) = [] := by
    rw [List.filter_eq_nil_iff]
    intro e he
    by_cases hp : e.place = place
    · simp [unlocked e he hp]
    · simp [hp]
  cases t with
  | own o => exact absurd rfl (other o)
  | pad _ _ => simp [State.verdict, at_, mine]
  | virt _ => simp [State.verdict, at_, mine]
  | phys _ => simp [State.verdict, at_, mine]

/-- An element is under no lock where none of the runs it touches is. -/
theorem State.elemVerdict_clear {s : State} {c m : Nat} {w : Bool} {e : Elem}
    (h : ∀ i len, i + len ≤ e.n → s.verdict c m (e.at_.plus i) w len = .clear) : s.elemVerdict c m w e = .clear := by
  have key : ∀ l : List (Nat × Nat), (∀ r ∈ l, r.1 + r.2 ≤ e.n) →
      l.foldl (fun (v : Verdict) r => v.join (s.verdict c m (e.at_.plus r.1) w r.2)) Verdict.clear = .clear := by
    intro l
    induction l with
    | nil => intro _; rfl
    | cons r l ih =>
      intro hl
      rw [List.foldl_cons, h r.1 r.2 (hl r (by simp))]
      exact ih fun x hx => hl x (by simp [hx])
  exact key _ (touchedRuns_inside e.n e.mask)

theorem State.named_elemVerdict {s : State} {a : Word} {n t : Nat} (h : s.Named a n t) (m : Nat) (w : Bool) (lane : Nat) (addr : Word)
    (mask value : Nat) : s.elemVerdict s.cur.1 m w ⟨lane, addr, .pad t (a.toNat % 2 ^ 19), n, mask, value⟩ = .clear :=
  State.elemVerdict_clear fun i len hi => State.verdict_clear (place := .pad t) (lo := a.toNat % 2 ^ 19 + i) rfl (fun _ => Target.noConfusion)
    fun e he hp => h.unlocked e he hp w _ len (by omega) (by dsimp only at hi; omega)

theorem State.leased_elemVerdict {s : State} {a : Word} {n : Nat} {r : Right} (h : s.Leased a n r) (m : Nat) (w : Bool) (lane : Nat)
    (addr : Word) (mask value : Nat) : s.elemVerdict s.cur.1 m w ⟨lane, addr, .virt (a.toNat % 2 ^ 57), n, mask, value⟩ = .clear :=
  State.elemVerdict_clear fun i len hi => State.verdict_clear (place := .virt (s.partOf s.cur.1)) (lo := a.toNat % 2 ^ 57 + i) rfl
    (fun _ => Target.noConfusion) fun e he hp => h.unlocked e he hp w _ len (by omega) (by dsimp only at hi; omega)

/-- A checked element under no lock. -/
theorem State.checkElem_clear {s : State} {w : Right} {lane mask value n : Nat} {a : Word} {t : Target}
    (target : s.target s.cur.1 s.me.mode a n w = .ok t)
    (clear : s.elemVerdict s.cur.1 s.cur.2 (w == .write) ⟨lane, a, t, n, mask, value⟩ = .clear) :
    s.checkElem w lane a n mask value = .ok ⟨lane, a, t, n, mask, value⟩ := by
  simp [State.checkElem, target, clear]

/-! ### Extension of what was read (R169) -/

theorem extendTo_unsigned {n v : Nat} (h : v < 2 ^ (8 * n)) : extendTo n false v = BitVec.ofNat 64 v := by
  simp [extendTo, Nat.mod_eq_of_lt h]

theorem extendTo_signed (n v : Nat) : extendTo n true v = (BitVec.ofNat (8 * n) v).signExtend 64 := by
  rw [extendTo, if_pos rfl, BitVec.signExtend, BitVec.toInt_eq_msb_cond, BitVec.msb_eq_decide]
  simp only [signExt, BitVec.toNat_ofNat, decide_eq_true_eq]
  split <;> simp

/-! ### Frames of the L1 (R54) -/

/-- A line's frame, once it is given a new content for that line. -/
theorem Core.frame?_assign {f line : Nat} {v : L1Frame} (hv : v.line = line) (l : List (Nat × L1Frame))
    (h : ∀ e, (l.find? fun e => e.2.line == line) = some e → e.1 = f) :
    ((assign f v l).find? fun e => e.2.line == line) = some (f, v) := by
  induction l with
  | nil => simp [assign, hv]
  | cons e r ih =>
    rw [assign]
    split
    · simp [hv]
    · rename_i other
      have differs : (e.2.line == line) = false := by
        refine Bool.eq_false_iff.mpr fun same => other ?_
        exact h e (by rw [List.find?_cons_of_pos (p := fun e : Nat × L1Frame => e.2.line == line) same])
      rw [List.find?_cons_of_neg (by simp [differs])]
      refine ih fun x hx => h x ?_
      rw [List.find?_cons_of_neg (by simp [differs])]
      exact hx

theorem byteMask_one (k j : Nat) : (byteMask k 1).getLsbD j = (decide (j = k) && decide (j < 128)) := by
  rw [byteMask, Nat.pow_one, Nat.add_sub_cancel (n := 1) (m := 1), Nat.one_mul, BitVec.getLsbD_ofNat, Nat.testBit_two_pow, Bool.and_comm]
  simp only [eq_comm]

/-- The bytes of a datum that is touched whole. -/
theorem touchedBytes_full (off n j : Nat) :
    (touchedBytes off n (fullMask n)).getLsbD j = (decide (off ≤ j) && decide (j < off + n) && decide (j < 128)) := by
  have touched : ∀ i, i < n → fullMask n / 2 ^ (8 * i) % 256 ≠ 0 := by
    intro i hi none
    have bit : (fullMask n).testBit (8 * i) = true := by rw [fullMask, Nat.testBit_two_pow_sub_one]; simp; omega
    rw [Nat.testBit_eq_decide_div_mod_eq, decide_eq_true_iff] at bit
    omega
  have upTo : ∀ m, m ≤ n → ((List.range m).foldl (fun (x : LineMask) i =>
      if fullMask n / 2 ^ (8 * i) % 256 = 0 then x else x ||| byteMask (off + i) 1) 0).getLsbD j =
        (decide (off ≤ j) && decide (j < off + m) && decide (j < 128)) := by
    intro m
    induction m with
    | zero => intro _; simp
    | succ m ih =>
      intro hm
      rw [List.range_succ, List.foldl_append, List.foldl_cons, List.foldl_nil, if_neg (touched m hm), BitVec.getLsbD_or,
        ih (by omega), byteMask_one, Bool.eq_iff_iff]
      simp
      omega
  exact upTo n le_rfl

/-- The bytes of a whole datum inside a line are present where each of them is. -/
theorem present_touchedBytes {present : LineMask} {off n : Nat} (fits : off + n ≤ 128) :
    present &&& touchedBytes off n (fullMask n) = touchedBytes off n (fullMask n) ↔ ∀ i, i < n → present.getLsbD (off + i) = true := by
  constructor
  · intro all i hi
    have bit := congrArg (fun x : LineMask => x.getLsbD (off + i)) all
    simp only [BitVec.getLsbD_and, touchedBytes_full] at bit
    simpa [hi, show off + i < 128 by omega] using bit
  · intro all
    refine BitVec.eq_of_getLsbD_eq fun j hj => ?_
    rw [BitVec.getLsbD_and, touchedBytes_full]
    by_cases inside : off ≤ j ∧ j < off + n
    · have bit := all (j - off) (by omega)
      rw [Nat.add_sub_cancel' inside.1] at bit
      simp [bit]
    · have outside : (decide (off ≤ j) && decide (j < off + n)) = false := by simp; omega
      simp [outside]

section
variable {k : Core} {va n f : Nat} {fr : L1Frame} (frame : k.frame? (va / 128) = some (f, fr)) (fits : va % 128 + n ≤ 128)
include frame fits

theorem Core.presentMask_some (all : ∀ i, i < n → fr.present.getLsbD (va % 128 + i) = true) :
    k.presentMask va n (fullMask n) = some (lineBytes fr.data (va % 128) n) := by
  simp only [Core.presentMask, frame]
  rw [if_pos ((present_touchedBytes fits).mpr all)]

theorem Core.presentMask_none (some_ : ∃ i, i < n ∧ fr.present.getLsbD (va % 128 + i) = false) :
    k.presentMask va n (fullMask n) = none := by
  obtain ⟨i, hi, absent⟩ := some_
  simp only [Core.presentMask, frame]
  rw [if_neg fun all => absurd ((present_touchedBytes fits).mp all i hi) (by simp [absent])]

end

theorem Core.frame?_line {k : Core} {line f : Nat} {fr : L1Frame} (h : k.frame? line = some (f, fr)) : fr.line = line :=
  beq_iff_eq.mp (List.find?_some (p := fun e : Nat × L1Frame => e.2.line == line) h)

/-- The frame of a line after its content has been replaced. -/
theorem Core.frame?_setFrame {k : Core} {line f : Nat} {v : L1Frame} (hv : v.line = line)
    (h : ∀ e, k.frame? line = some e → e.1 = f) : (k.setFrame f v).frame? line = some (f, v) :=
  Core.frame?_assign hv k.l1 h

/-! ### Scalar loads (R169) -/

theorem State.posts_nil (s : State) : s.posts [] = s := by simp [State.posts]

theorem State.Free.of_same {s t : State} (h : s.Free) (cur : t.cur = s.cur) (me : t.me = s.me)
    (copies : (t.core s.cur.1).copies = (s.core s.cur.1).copies) : t.Free where
  noPorts := by rw [me]; exact h.noPorts
  noCopies := by rw [cur, copies]; exact h.noCopies
  noSkip := by rw [me]; exact h.noSkip
  noPops := by rw [me]; exact h.noPops
  noRerun := by rw [me]; exact h.noRerun

/-- The value of a scalar load at hand completes it. -/
theorem State.complete_scalar {s : State} (h : s.Free) (srcs : List Reg) (la : La) (d : Reg) (n lane v : Nat) (sg : Bool)
    (serial : BitVec 32) : s.complete srcs la (.scalar d n sg false) [replyOk lane v serial] = s.wrote d (extendTo n sg v) := by
  have written : s.writeG s.cur.1 s.cur.2 d (extendTo n sg v) = s.modMe fun t => t.setGreg d (extendTo n sg v) :=
    s.writeG_plain _ _ _ _ h.noPorts
  simp [State.complete, State.pops_free h, Dest.scalar?, State.fullPort_free h, State.deliver, Dest.flow, replyOk, written, State.wrote]

section
variable {s : State} (free : s.Free) {a : Word} {n : Nat} {t : Target}
  (checked : s.checkElem .read 0 a n (fullMask n) 0 = .ok ⟨0, a, t, n, fullMask n, 0⟩)
  (clear : s.elemVerdict s.cur.1 s.cur.2 false ⟨0, a, t, n, fullMask n, 0⟩ = .clear)
include free checked clear

/-- A load whose value is at hand completes. -/
theorem State.load1_hand {v : Nat} (hand : s.atHand ⟨0, a, t, n, fullMask n, 0⟩ = some (.ok v)) (la : La) (srcs : List Reg) (d : Reg)
    (sg : Bool) : s.load1 la srcs d a n sg =
      .next ((s.touchHits [⟨0, a, t, n, fullMask n, 0⟩]).complete srcs la (.scalar d n sg false) [replyOk 0 v 0]) := by
  rw [State.load1, State.loads, State.gate_free free]
  simp [State.checkElems, checked, State.verdicts, clear, Verdict.join, State.handReplies, hand]
  rfl

/-- A load of another core's bytes waits for its answer. -/
theorem State.load1_pad {c off : Nat} (pad : t = .pad c off) (la : La) (srcs : List Reg) (d : Reg) (sg : Bool) :
    s.load1 la srcs d a n sg = .next (((s.modMe fun t => t.held (s.issued la (.access (.scalar d n sg false) n [] 1 []))).post
      (.portRequest c (s.request a off 0 (.read n (fullMask n)))))) := by
  subst pad
  rw [State.load1, State.loads, State.gate_free free]
  simp [State.checkElems, checked, State.verdicts, clear, Verdict.join, State.handReplies, State.atHand, State.askFills, State.touchHits,
    State.pops_free free, State.hold_free free]
  rfl

/-- A load of bytes that the L1 does not hold waits for its line. -/
theorem State.load1_miss {va : Nat} (virt : t = .virt va) (absent : (s.core s.cur.1).presentMask va n (fullMask n) = none) {u : State}
    (asked : State.askFills s.cur.1 s.cn [(a, 0)] s = (u, none)) (la : La) (srcs : List Reg) (d : Reg) (sg : Bool) :
    s.load1 la srcs d a n sg = .next (((u.touchHits [⟨0, a, .virt va, n, fullMask n, 0⟩]).pops srcs).hold la
      (.access (.scalar d n sg false) n [(a, 0)] 1 [])) := by
  subst virt
  rw [State.load1, State.loads, State.gate_free free]
  simp [State.checkElems, checked, State.verdicts, clear, Verdict.join, State.handReplies, State.atHand, absent, asked]
  exact State.posts_nil _

end

/-! ### Lines asked for (R54) -/

/-- Nothing that an instruction of the issuing core sees of its strands, their copies or memory differs. -/
structure State.Beside (s u : State) : Prop where
  cur : u.cur = s.cur
  mem : u.mem = s.mem
  strands : (u.core s.cur.1).strands = (s.core s.cur.1).strands
  copies : (u.core s.cur.1).copies = (s.core s.cur.1).copies

theorem State.Beside.refl (s : State) : s.Beside s := ⟨rfl, rfl, rfl, rfl⟩

theorem State.Beside.me {s u : State} (h : s.Beside u) : u.me = s.me := by
  rw [State.me, State.strand, h.cur, Core.strand, h.strands]
  rfl

theorem State.Free.beside {s u : State} (h : s.Free) (b : s.Beside u) : u.Free := h.of_same b.cur b.me b.copies

/-- A line has been asked for from its home slice, into frame f, and nothing else that a strand sees has changed. -/
structure State.FillAsked (s u : State) (line f : Nat) : Prop extends s.Beside u where
  filling : ∃ fr, (u.core s.cur.1).frame? line = some (f, fr) ∧ fr.filling = true
  sent : ∃ q, u.agenda = s.agenda ++ [.sliceAccess (s.homeSlice (s.partOf s.cur.1) line) q] ∧ q.core = s.cur.1 ∧
    q.part = s.partOf s.cur.1 ∧ q.addr = line * 128 ∧ q.access = .fill

/-- A fill into a frame of the line. -/
theorem State.fillAsked_requestFill {s : State} {line f : Nat} {fr : L1Frame} (h : (s.core s.cur.1).frame? line = some (f, fr)) (n : Nat) :
    s.FillAsked (s.requestFill s.cur.1 n line) line f := by
  have core : (s.requestFill s.cur.1 n line).core s.cur.1 = (s.core s.cur.1).setFrame f { fr with filling := true, evict := false } := by
    unfold State.requestFill
    change (s.modCore s.cur.1 fun k => match k.frame? line with
      | none => k
      | some (f, fr) => k.setFrame f { fr with filling := true, evict := false }).core s.cur.1 = _
    rw [State.core_modCore, h]
  refine ⟨⟨rfl, rfl, by rw [core]; rfl, by rw [core]; rfl⟩, ⟨{ fr with filling := true, evict := false }, ?_, rfl⟩,
    ⟨_, rfl, rfl, rfl, rfl, rfl⟩⟩
  rw [core]
  refine Core.frame?_setFrame (show fr.line = line from Core.frame?_line h) fun e he => ?_
  rw [h] at he
  rw [← Option.some.inj he]

/-- A line without a frame takes an empty one of its set. -/
theorem State.allocate_got {s : State} {line : Nat} (h : s.HasFrame line) (n : Nat) :
    ∃ f, s.allocate s.cur.1 n line = .got (s.modCore s.cur.1 fun k => (k.setFrame f (emptyFrame line)).touch f) := by
  obtain ⟨f, member, empty⟩ := h
  have found : (((s.core s.cur.1).setFrames line).find? fun f => !((s.core s.cur.1).l1.any fun e => e.1 == f)).isSome = true := by
    rw [List.find?_isSome]
    refine ⟨f, member, ?_⟩
    simpa using empty
  obtain ⟨g, hg⟩ := Option.isSome_iff_exists.mp found
  exact ⟨g, by simp only [State.allocate, hg]⟩

theorem field_56_0 (a : Word) : field 56 0 a = a.toNat % 2 ^ 57 := by simp [field]

section
variable {s : State} {a : Word} {line : Nat} (names : field 56 0 a / 128 = line) (n i : Nat)
include names

theorem State.askFills_filling {f : Nat} {fr : L1Frame} (frame : (s.core s.cur.1).frame? line = some (f, fr)) (h : fr.filling = true) :
    State.askFills s.cur.1 n [(a, i)] s = (s, none) := by
  simp [State.askFills, names, frame, h]

theorem State.askFills_frame {f : Nat} {fr : L1Frame} (frame : (s.core s.cur.1).frame? line = some (f, fr)) (h : fr.filling = false) :
    ∃ u, State.askFills s.cur.1 n [(a, i)] s = (u, none) ∧ s.FillAsked u line f := by
  refine ⟨_, ?_, State.fillAsked_requestFill frame n⟩
  simp [State.askFills, names, frame, h]

theorem State.askFills_absent (absent : (s.core s.cur.1).frame? line = none) (h : s.HasFrame line) :
    ∃ u f, State.askFills s.cur.1 n [(a, i)] s = (u, none) ∧ s.FillAsked u line f := by
  obtain ⟨f, got⟩ := State.allocate_got h n
  let v := s.modCore s.cur.1 fun k => (k.setFrame f (emptyFrame line)).touch f
  have core : v.core s.cur.1 = ((s.core s.cur.1).setFrame f (emptyFrame line)).touch f := s.core_modCore _ _
  have frame : (v.core v.cur.1).frame? line = some (f, emptyFrame line) := by
    change (v.core s.cur.1).frame? line = _
    rw [core]
    refine Core.frame?_setFrame (k := s.core s.cur.1) rfl fun e he => ?_
    rw [absent] at he
    cases he
  have part : v.partOf v.cur.1 = s.partOf s.cur.1 := by
    change v.partOf s.cur.1 = _
    rw [State.partOf, core]
    rfl
  obtain ⟨⟨cur, mem, strands, copies⟩, filling, sent⟩ := State.fillAsked_requestFill frame n
  rw [part] at sent
  refine ⟨_, f, ?_, ⟨⟨cur, mem, strands.trans ?_, copies.trans ?_⟩, filling, sent⟩⟩
  · simp only [State.askFills, names, absent, got]
    rfl
  · exact (congrArg Core.strands core).trans rfl
  · exact (congrArg Core.copies core).trans rfl

end

/-! ### Hits and misses of the L1 (R54) -/

theorem State.touchHits_frame {s : State} {va f : Nat} {fr : L1Frame} (frame : (s.core s.cur.1).frame? (va / 128) = some (f, fr))
    (lane n mask value : Nat) (a : Word) :
    s.touchHits [⟨lane, a, .virt va, n, mask, value⟩] = s.modCore s.cur.1 fun k => k.touch f := by
  simp [State.touchHits, frame]

theorem State.free_touch {s : State} (h : s.Free) (f : Nat) : (s.modCore s.cur.1 fun k => k.touch f).Free :=
  h.of_same rfl (s.me_modCore _ rfl) (by rw [State.core_modCore]; rfl)

theorem State.leased_checkElem {s : State} {a : Word} {n : Nat} (h : s.Leased a n .read) :
    s.checkElem .read 0 a n (fullMask n) 0 = .ok ⟨0, a, .virt (a.toNat % 2 ^ 57), n, fullMask n, 0⟩ :=
  State.checkElem_clear (State.leased_target h _) (State.leased_elemVerdict h _ _ _ _ _ _)

section
variable {s : State} (free : s.Free) {a : Word} {n : Nat} (leased : s.Leased a n .read) (la : La) (srcs : List Reg) (d : Reg) (sg : Bool)
include free leased

/-- A load of present bytes completes, and its line becomes the most recently used. -/
theorem State.load1_hit {f : Nat} {fr : L1Frame} (frame : (s.core s.cur.1).frame? (a.toNat % 2 ^ 57 / 128) = some (f, fr))
    {v : Nat} (hit : (s.core s.cur.1).presentMask (a.toNat % 2 ^ 57) n (fullMask n) = some v) :
    s.load1 la srcs d a n sg = .next ((s.modCore s.cur.1 fun k => k.touch f).wrote d (extendTo n sg v)) := by
  rw [State.load1_hand free (State.leased_checkElem leased) (State.leased_elemVerdict leased _ _ _ _ _ _) (v := v)
    (congrArg (Option.map Except.ok) hit), State.touchHits_frame frame, State.complete_scalar (State.free_touch free f)]

/-- A load of bytes that are not present waits, once its line is on its way. -/
theorem State.load1_asked (absent : (s.core s.cur.1).presentMask (a.toNat % 2 ^ 57) n (fullMask n) = none) {u : State}
    (asked : State.askFills s.cur.1 s.cn [(a, 0)] s = (u, none)) (beside : s.Beside u) {f : Nat} {fr : L1Frame}
    (frame : (u.core s.cur.1).frame? (a.toNat % 2 ^ 57 / 128) = some (f, fr)) :
    ∃ t, s.load1 la srcs d a n sg = .next t ∧ s.WaitsIn t (.access (.scalar d n sg false) n [(a, 0)] 1 []) ∧ t.agenda = u.agenda ∧
      (t.core s.cur.1).frame? (a.toNat % 2 ^ 57 / 128) = some (f, fr) := by
  let w := u.modCore s.cur.1 fun k => k.touch f
  have core : w.core s.cur.1 = (u.core s.cur.1).touch f := u.core_modCore _ _
  have besideW : s.Beside w := ⟨beside.cur, beside.mem, by rw [core]; exact beside.strands, by rw [core]; exact beside.copies⟩
  have freeW : w.Free := free.beside besideW
  refine ⟨_, State.load1_miss free (State.leased_checkElem leased) (State.leased_elemVerdict leased _ _ _ _ _ _) rfl absent asked la
    srcs d sg, ?_⟩
  rw [State.touchHits_frame (by rw [beside.cur]; exact frame), beside.cur, State.pops_free freeW, State.hold_free freeW]
  refine ⟨State.waitsIn_of_held (o := w.issued la _) ((w.me_modMe _).trans (by rw [besideW.me])) beside.mem, rfl, ?_⟩
  rw [← besideW.cur, State.core_modMe]
  change (w.core w.cur.1).frame? _ = _
  rw [besideW.cur, core]
  exact frame

end

theorem extendTo_eq {n v : Nat} (sg : Bool) (h : v < 2 ^ (8 * n)) :
    extendTo n sg v = if sg then (BitVec.ofNat (8 * n) v).signExtend 64 else BitVec.ofNat 64 v := by
  cases sg
  · exact extendTo_unsigned h
  · exact extendTo_signed n v

theorem lineBytes_lt (data : Line) (off n : Nat) : lineBytes data off n < 2 ^ (8 * n) := Nat.mod_lt _ (Nat.two_pow_pos _)

/-- A load of the own scratchpad completes. -/
theorem State.load1_own {s : State} (free : s.Free) {a : Word} {n : Nat} (own : s.Own a n) (la : La) (srcs : List Reg) (d : Reg) (sg : Bool) :
    s.load1 la srcs d a n sg = .next (s.wrote d (extendTo n sg (s.load (s.ownKey a) n))) := by
  rw [State.load1_hand free (s.own_checkElem own .read 0 _ _) (s.own_elemVerdict own _ _ _ _ _ _) (v := s.load (s.ownKey a) n)
    (s.own_atHand (x := (0, a, n, fullMask n, 0)) own)]
  exact congrArg _ (State.complete_scalar free srcs la d n 0 _ sg 0)

/-- A load of the own scratchpad under its name completes as under its own address (R63). -/
theorem State.load1_named {s : State} (free : s.Free) {a o : Word} {n : Nat} (named : s.Named a n s.cur.1) (own : s.Own o n)
    (same : o.toNat = a.toNat % 2 ^ 19) (la : La) (srcs : List Reg) (d : Reg) (sg : Bool) :
    s.load1 la srcs d a n sg = .next (s.wrote d (extendTo n sg (s.load (s.ownKey o) n))) := by
  have target : s.target s.cur.1 s.me.mode a n .read = .ok (.own o.toNat) := by
    rw [State.named_target named, if_pos rfl, same]
  have clear := s.own_elemVerdict own s.cur.2 false 0 a (fullMask n) 0
  rw [State.load1_hand free (State.checkElem_clear target clear) clear (v := s.load (s.ownKey o) n)
    (s.own_atHand (x := (0, o, n, fullMask n, 0)) own)]
  exact congrArg _ (State.complete_scalar free srcs la d n 0 _ sg 0)

/-- Settles O28: an own address, an address that names a core, and a virtual address, each with what it finds. -/
theorem ownLoads : Obligations.OwnLoads := by
  unfold Obligations.OwnLoads
  intro s free d a b la imm off idx c part e he x n value waits
  have offset : ∀ k, s.offset a imm k = off k := fun k => by rw [State.offset, State.read_free free]; rfl
  have indexed : ∀ k, s.indexed a b k = idx k := fun k => by rw [State.indexed, State.read_free free, State.read_free free]
  obtain ⟨srcs, run, size⟩ : ∃ srcs, exec e.1 s = s.load1 la srcs d x n e.2.2.2 ∧ (n = 1 ∨ n = 2 ∨ n = 4 ∨ n = 8) := by
    have plain (k : Nat) (sg : Bool) (hk : k = 1 ∨ k = 2 ∨ k = 4 ∨ k = 8) :
        ∃ srcs, s.load1 la [a] d (s.offset a imm k) k sg = s.load1 la srcs d (off k) k sg ∧ (k = 1 ∨ k = 2 ∨ k = 4 ∨ k = 8) :=
      ⟨_, by rw [offset], hk⟩
    have scaled (k : Nat) (sg : Bool) (hk : k = 1 ∨ k = 2 ∨ k = 4 ∨ k = 8) :
        ∃ srcs, s.load1 la [a, b] d (s.indexed a b k) k sg = s.load1 la srcs d (idx k) k sg ∧ (k = 1 ∨ k = 2 ∨ k = 4 ∨ k = 8) :=
      ⟨_, by rw [indexed], hk⟩
    simp only [List.mem_cons, List.not_mem_nil, or_false] at he
    rcases he with rfl | rfl | rfl | rfl | rfl | rfl | rfl | rfl | rfl | rfl | rfl | rfl | rfl | rfl
    exacts [plain 1 true (by decide), plain 1 false (by decide), plain 2 true (by decide), plain 2 false (by decide),
      plain 4 true (by decide), plain 4 false (by decide), plain 8 false (by decide), scaled 1 true (by decide),
      scaled 1 false (by decide), scaled 2 true (by decide), scaled 2 false (by decide), scaled 4 true (by decide),
      scaled 4 false (by decide), scaled 8 false (by decide)]
  have completes {o : Out} (h : s.load1 la srcs d x n e.2.2.2 = o) : exec e.1 s = o := run.trans h
  clear_value x n
  clear he
  refine ⟨fun own => ?_, fun named own => ?_, fun t named other => ?_, fun leased => ?_⟩
  · refine completes ?_
    rw [State.load1_own free own, extendTo_eq _ (s.load_lt _ n)]
  · refine completes ?_
    rw [State.load1_named free named own (by rw [BitVec.toNat_ofNat]; omega), extendTo_eq _ (s.load_lt _ n)]
  · have checked := State.checkElem_clear ((State.named_target named s.me.mode .read).trans (by rw [if_neg other]))
      (State.named_elemVerdict named s.cur.2 false 0 x (fullMask n) 0)
    exact ⟨_, ⟨completes (State.load1_pad free checked (State.named_elemVerdict named _ _ _ _ _ _) rfl la srcs d e.2.2.2),
      State.waitsIn_of_held (o := s.issued la _) (s.me_modMe fun t => t.held _) rfl⟩, rfl⟩
  · intro at_ line asked
    have fits : x.toNat % 2 ^ 57 % 128 + n ≤ 128 := by
      have aligned := leased.aligned
      rcases size with rfl | rfl | rfl | rfl <;> omega
    have lane : x.toNat % 2 ^ 57 % 128 = at_ := by dsimp only [at_]; omega
    have names : field 56 0 x / 128 = line := by rw [field_56_0]
    have askedOf : ∀ {u t : State} {f : Nat} {fr : L1Frame}, s.FillAsked u line f → (u.core c).frame? line = some (f, fr) →
        t.agenda = u.agenda → (t.core c).frame? line = some (f, fr) → asked t := by
      intro u t f fr h hu agenda ht
      obtain ⟨fr', hf, filling⟩ := h.filling
      obtain rfl : fr = fr' := congrArg Prod.snd (Option.some.inj (hu.symm.trans hf))
      exact ⟨⟨f, fr, ht, filling⟩, by rw [agenda]; exact h.sent⟩
    refine ⟨fun f fr frame => ⟨fun all => ?_, fun missing => ?_⟩, fun absent room => ?_⟩
    · have hit := Core.presentMask_some frame fits (by rw [lane]; exact all)
      refine completes ?_
      rw [State.load1_hit free leased la srcs d _ frame hit, lane, extendTo_eq _ (lineBytes_lt _ _ n)]
    · have absent := Core.presentMask_none frame fits (by rw [lane]; exact missing)
      cases filling : fr.filling
      · obtain ⟨u, ask, h⟩ := State.askFills_frame names s.cn 0 frame filling
        obtain ⟨fr', hu, -⟩ := h.filling
        obtain ⟨t, run, waits, agenda, ht⟩ := State.load1_asked free leased la srcs d e.2.2.2 absent ask h.toBeside hu
        exact ⟨t, ⟨completes run, waits⟩, nofun, fun _ => askedOf h hu agenda ht⟩
      · obtain ⟨t, run, waits, agenda, -⟩ := State.load1_asked free leased la srcs d e.2.2.2 absent
          (State.askFills_filling names s.cn 0 frame filling) (State.Beside.refl s) frame
        exact ⟨t, ⟨completes run, waits⟩, fun _ => agenda, nofun⟩
    · have none : (s.core s.cur.1).presentMask (x.toNat % 2 ^ 57) n (fullMask n) = none := by
        simp only [Core.presentMask]
        rw [absent, if_neg (fullMask_ne_zero n (by omega))]
      obtain ⟨u, f, ask, h⟩ := State.askFills_absent names s.cn 0 absent room
      obtain ⟨fr, hu, -⟩ := h.filling
      obtain ⟨t, run, waits, agenda, ht⟩ := State.load1_asked free leased la srcs d e.2.2.2 none ask h.toBeside hu
      exact ⟨t, ⟨completes run, waits⟩, askedOf h hu agenda ht⟩

end Sys2Proof.Machine
end

section
/-! PROOFS. What a trap does to the strand that takes it, and what it leaves of the module: an entry (R272), a fault that ends the task
(R310), and the arrivals that a strand gives up with it (R116, R180). -/

namespace Sys2Proof.Machine

/-! ### Trap entry (R272) -/

theorem State.unpop_of_none {s : State} {c n : Nat} (h : (s.strand c n).popped = []) : s.unpop c n = s := by
  rw [State.unpop, h]

/-- A cause that does not end the task is raised as an entry, where TIN is clear and nothing is popped. -/
theorem State.raise_enters {s : State} {c n : Nat} {cause : Cause} (noPops : (s.strand c n).popped = [])
    (tin : (s.strand c n).tin = false) (lease : cause ≠ .leaseViolation) (walk : cause ≠ .walkRaceExhausted) (pc tval tattr : Word)
    (shadow : Nat) : s.raise c n cause pc tval tattr shadow =
      s.modStrand c n fun t => t.enter (s.core c).tvec (BitVec.ofNat 64 (causeCode cause)) pc tval tattr shadow := by
  rw [State.raise, State.unpop_of_none noPops, State.entry_tin_clear _ _ _ _ _ _ _ _ _ tin]
  · exact lease
  · exact walk

section
variable (t : Strand) (tvec cause pc tval tattr : Word) (shadow : Nat)

theorem Strand.mode_enter : (t.enter tvec cause pc tval tattr shadow).mode = if t.mode = 3 then 3 else 1 := by
  have low (m : Word) : ((t.status &&& 0xF010) ||| 0x80 ||| m) &&& 3 = m &&& 3 := by
    rw [BitVec.and_or_distrib_right, BitVec.and_or_distrib_right, BitVec.and_assoc]
    exact (congrArg (· ||| m &&& 3) (congrArg (· ||| _) BitVec.and_zero)).trans BitVec.zero_or
  change (((t.status &&& 0xF010) ||| 0x80 ||| if t.mode = 3 then (3 : Word) else 1) &&& 3).toNat = _
  rw [low]
  by_cases machine : t.mode = 3
  · rw [if_pos machine, if_pos machine]
    rfl
  · rw [if_neg machine, if_neg machine]
    rfl

theorem Strand.tin_enter : (t.enter tvec cause pc tval tattr shadow).tin = true := by
  simp [Strand.enter, Strand.tin]

theorem Strand.ie_enter : (t.enter tvec cause pc tval tattr shadow).ie = false := by
  simp only [Strand.enter, Strand.ie, BitVec.getLsbD_or, BitVec.getLsbD_and]
  split <;> simp

theorem Strand.qmap_enter : (t.enter tvec cause pc tval tattr shadow).qmap = false := by
  simp only [Strand.enter, Strand.qmap, BitVec.getLsbD_or, BitVec.getLsbD_and]
  split <;> simp

end

theorem State.me_from (s : State) (c n : Nat) : (s.from_ c n).me = s.strand c n := rfl

/-- An entry with no shadow, seen from its strand. -/
theorem State.trapped_enter (s : State) (c n code : Nat) (pc tval : Word) : (s.from_ c n).Trapped
    ((s.modStrand c n fun t => t.enter (s.core c).tvec (BitVec.ofNat 64 code) pc tval 0 0).from_ c n) code pc tval := by
  have me : ((s.modStrand c n fun t => t.enter (s.core c).tvec (BitVec.ofNat 64 code) pc tval 0 0).from_ c n).me =
      (s.strand c n).enter (s.core c).tvec (BitVec.ofNat 64 code) pc tval 0 0 := by
    rw [State.me_from, State.strand_modStrand]
  unfold State.Trapped
  rw [me, Strand.mode_enter, Strand.tin_enter, Strand.ie_enter, Strand.qmap_enter]
  exact ⟨rfl, rfl, rfl, rfl, rfl, rfl, rfl, rfl, rfl, rfl, rfl, rfl, rfl, rfl, rfl, rfl, rfl, rfl, rfl, rfl, rfl, rfl, rfl, rfl⟩

/-- The trap of an instruction that has not issued. -/
theorem State.trapped_trap {s : State} (free : s.Free) (tin : s.me.tin = false) {cause : Cause} (lease : cause ≠ .leaseViolation)
    (walk : cause ≠ .walkRaceExhausted) (tval : Word) : s.Trapped (s.trap cause tval) (causeCode cause) s.me.pc tval := by
  rw [State.trap, State.raise_enters free.noPops tin lease walk, free.noSkip]
  exact s.trapped_enter s.cur.1 s.cur.2 (causeCode cause) s.me.pc tval

/-! ### Arrivals given up (R116, R180) -/

/-- A strand but for its outstanding instruction. -/
def Strand.SameBut (t u : Strand) : Prop := ∃ o, u = { t with outst := o }

theorem Strand.SameBut.trans {t u v : Strand} (h : t.SameBut u) (h' : u.SameBut v) : t.SameBut v := by
  obtain ⟨o, rfl⟩ := h
  obtain ⟨p, rfl⟩ := h'
  exact ⟨p, rfl⟩

/-- A strand whose joined arrival is no more is yet to arrive. -/
def Strand.rejoined (t : Strand) (idx : Nat) (red : Bool) : Strand :=
  { t with outst := t.outst.map fun o => { o with phase := o.phase.rejoined idx red } }

theorem State.core_posts (s : State) (es : List Event) (c : Nat) : (s.posts es).core c = s.core c := rfl

theorem State.strand_rejoin (s : State) (c idx : Nat) (red : Bool) (n : Nat) :
    (s.rejoin c idx red).strand c n = (s.strand c n).rejoined idx red := by
  unfold State.rejoin
  rw [State.strand, State.core_posts, State.core_modCore]
  exact Vector.getElem_map _ _

theorem State.cur_rejoin (s : State) (c idx : Nat) (red : Bool) : (s.rejoin c idx red).cur = s.cur := rfl

theorem State.mem_rejoin (s : State) (c idx : Nat) (red : Bool) : (s.rejoin c idx red).mem = s.mem := rfl

theorem State.mem_forsake (s : State) (c : Nat) (who : Arriver) : (s.forsake c who).mem = s.mem :=
  foldl_keeps State.mem _ (fun s _ => State.mem_rejoin s _ _ _) _ s

theorem State.cur_forsake (s : State) (c : Nat) (who : Arriver) : (s.forsake c who).cur = s.cur :=
  foldl_keeps State.cur _ (fun s _ => State.cur_rejoin s _ _ _) _ s

theorem State.strand_forsake (s : State) (c : Nat) (who : Arriver) (n : Nat) : (s.strand c n).SameBut ((s.forsake c who).strand c n) := by
  rw [State.forsake]
  generalize ((s.core c).arrivals.filter fun a => a.arriver == who && !a.sent) = l
  induction l generalizing s with
  | nil => exact ⟨_, rfl⟩
  | cons a r ih => exact Strand.SameBut.trans ⟨_, s.strand_rejoin c a.idx a.reduction n⟩ (ih _)

/-! ### Faults that end the task (R310) -/

theorem State.strand_firstFault (s : State) (c n code d m : Nat) : (s.firstFault c n code).strand d m = s.strand d m := by
  unfold State.firstFault
  split <;> rfl

theorem State.mem_firstFault (s : State) (c n code : Nat) : (s.firstFault c n code).mem = s.mem := by
  unfold State.firstFault
  split <;> rfl

theorem State.mem_enterFaulted (s : State) (c n code : Nat) : (s.enterFaulted c n code).mem = s.mem := by
  unfold State.enterFaulted
  dsimp only
  split
  · exact (State.mem_firstFault _ _ _ _).trans (State.mem_forsake s c _)
  · exact (State.mem_firstFault _ _ _ _).trans (State.mem_forsake s c _)

theorem State.cur_firstFault (s : State) (c n code : Nat) : (s.firstFault c n code).cur = s.cur := by
  unfold State.firstFault
  split <;> rfl

theorem State.cur_enterFaulted (s : State) (c n code : Nat) : (s.enterFaulted c n code).cur = s.cur := by
  unfold State.enterFaulted
  dsimp only
  split
  · exact (State.cur_firstFault _ _ _ _).trans (State.cur_forsake s c _)
  · exact (State.cur_firstFault _ _ _ _).trans (State.cur_forsake s c _)

/-- A strand that enters FAULTED keeps all but its outstanding instruction and its stall. -/
theorem State.strand_enterFaulted (s : State) (c n code : Nat) : ∃ o,
    (s.enterFaulted c n code).strand c n = { s.strand c n with outst := o, life := .faulted, stall := none } := by
  obtain ⟨o, ho⟩ := s.strand_forsake c (.strand (n % 16)) n
  refine ⟨o, ?_⟩
  have marked : (((s.forsake c (.strand (n % 16))).modStrand c n fun t => { t with life := .faulted, stall := none }).firstFault c n
      code).strand c n = { s.strand c n with outst := o, life := .faulted, stall := none } := by
    rw [State.strand_firstFault, State.strand_modStrand, ho]
  unfold State.enterFaulted
  dsimp only
  split
  · exact marked
  · rename_i notSteward
    rw [State.doorbell, State.strand_modStrand_other _ _ _ _ _ _ (.inr notSteward)]
    exact marked

end Sys2Proof.Machine
end

section
/-! PROOFS. The statement of `03_memory_hierarchy.md` about accesses whose address fails a check (R50, R51, R272, R310). -/

namespace Sys2Proof.Machine

/-! ### The checks of an address, in their order (R50) -/

/-- A selector that names no space. -/
def NoSpace (x : Word) : Prop := 4 ≤ x.toNat / 2 ^ 60 ∧ x.toNat / 2 ^ 60 < 8

/-- A bit that the space's format holds at zero is set (R49; log 9 for space 0x3). -/
def BeyondSpace (x : Word) : Prop :=
  (x.toNat / 2 ^ 60 = 0 ∧ 2 ^ 19 ≤ x.toNat % 2 ^ 60) ∨ (x.toNat / 2 ^ 60 = 1 ∧ 2 ^ 19 ≤ x.toNat % 2 ^ 54) ∨
    (x.toNat / 2 ^ 60 = 2 ∧ 2 ^ 19 ≤ x.toNat % 2 ^ 46) ∨ (x.toNat / 2 ^ 60 = 3 ∧ 2 ^ 43 ≤ x.toNat % 2 ^ 60) ∨
    (8 ≤ x.toNat / 2 ^ 60 ∧ x.toNat / 2 ^ 57 ≠ 64)

theorem field_63_60 (x : Word) : field 63 60 x = x.toNat / 2 ^ 60 := by
  have := x.isLt
  simp only [field]
  omega

theorem field_18_0 (x : Word) : field 18 0 x = x.toNat % 2 ^ 19 := by simp only [field]; omega

/-- An address of space 0x2 names core t, which is of the run region of core c. -/
def State.Holds (s : State) (c : Nat) (x : Word) (t : Nat) : Prop :=
  ∃ r, s.runOf c = some r ∧ s.named? r.part (x.toNat / 2 ^ 46 % 2 ^ 14) = some t ∧ s.inRegion r t = true

theorem noSpace_iff (x : Word) : (decide (4 ≤ field 63 60 x) && decide (field 63 60 x < 8)) = true ↔ NoSpace x := by
  rw [field_63_60, NoSpace, Bool.and_eq_true, decide_eq_true_iff, decide_eq_true_iff]

theorem beyondSpace_iff (x : Word) :
    (decide (field 63 60 x = 0) && decide (field 59 19 x ≠ 0) || decide (field 63 60 x = 1) && decide (field 53 19 x ≠ 0) ||
      decide (field 63 60 x = 2) && decide (field 45 19 x ≠ 0) || decide (field 63 60 x = 3) && decide (field 59 43 x ≠ 0) ||
      decide (8 ≤ field 63 60 x) && decide (field 62 57 x ≠ 0)) = true ↔ BeyondSpace x := by
  have := x.isLt
  simp only [Bool.or_eq_true, Bool.and_eq_true, decide_eq_true_iff]
  rw [field_63_60, BeyondSpace]
  simp only [field]
  omega

section
variable {s : State} {c mode n : Nat} {x : Word} (w : Right)

theorem State.target_noSpace (h : NoSpace x) : s.target c mode x n w = .error (.localRange, x) := by
  rw [State.target]
  rw [if_pos ((noSpace_iff x).mpr h)]

theorem State.target_privileged (sel : x.toNat / 2 ^ 60 = 3) (hm : mode ≠ 3) : s.target c mode x n w = .error (.privileged, x) := by
  rw [State.target]
  rw [if_neg (mt (noSpace_iff x).mp (by rw [NoSpace]; omega)), if_pos (by rw [field_63_60, sel]; simp [hm])]

theorem notPrivileged {x : Word} {mode : Nat} (allowed : x.toNat / 2 ^ 60 = 3 → mode = 3) :
    ¬ (decide (field 63 60 x = 3) && decide (mode ≠ 3)) = true := by
  rw [field_63_60, Bool.and_eq_true, decide_eq_true_iff, decide_eq_true_iff]
  exact fun h => h.2 (allowed h.1)

variable (allowed : x.toNat / 2 ^ 60 = 3 → mode = 3)
include allowed

theorem State.target_beyondSpace (h : BeyondSpace x) : s.target c mode x n w = .error (.localRange, x) := by
  rw [State.target]
  rw [if_neg (mt (noSpace_iff x).mp (by rw [NoSpace]; rw [BeyondSpace] at h; omega)),
    if_neg (notPrivileged allowed), if_pos ((beyondSpace_iff x).mpr h)]

variable (space : ¬ NoSpace x) (inside : ¬ BeyondSpace x)
include space inside

theorem State.target_misaligned (h : x.toNat % n ≠ 0) : s.target c mode x n w = .error (.misaligned, x) := by
  rw [State.target]
  rw [if_neg (mt (noSpace_iff x).mp space), if_neg (notPrivileged allowed),
    if_neg (mt (beyondSpace_iff x).mp inside), if_pos h]

variable (aligned : x.toNat % n = 0)
include aligned

theorem State.target_outside (sel : x.toNat / 2 ^ 60 = 0) (out : (s.core c).scr ≤ x.toNat % 2 ^ 19) :
    s.target c mode x n w = .error (.localRange, x) := by
  rw [State.target, if_neg (mt (noSpace_iff x).mp space), if_neg (notPrivileged allowed), if_neg (mt (beyondSpace_iff x).mp inside),
    if_neg (not_not.mpr aligned), field_63_60, sel, if_pos rfl, if_pos (by rw [field_18_0]; exact out)]

theorem State.target_noRing (sel : x.toNat / 2 ^ 60 = 1) (out : ∀ r, (s.core c).ring? (x.toNat / 2 ^ 58 % 4) = some r →
    r.cfg.days ≤ x.toNat / 2 ^ 54 % 8 ∨ r.cfg.daySize ≤ x.toNat % 2 ^ 19) : s.target c mode x n w = .error (.localRange, x) := by
  rw [State.target, if_neg (mt (noSpace_iff x).mp space), if_neg (notPrivileged allowed), if_neg (mt (beyondSpace_iff x).mp inside),
    if_neg (not_not.mpr aligned), field_63_60, sel, if_neg (by decide), if_pos rfl]
  split
  · rfl
  · rename_i r configured
    have beyond : (decide (r.cfg.days ≤ field 56 54 x) || decide (r.cfg.daySize ≤ field 18 0 x)) = true := by
      rw [Bool.or_eq_true, decide_eq_true_iff, decide_eq_true_iff, field_18_0]
      exact out r configured
    rw [if_pos beyond]

theorem State.target_noCore (sel : x.toNat / 2 ^ 60 = 2) (none : ∀ t, ¬ s.Holds c x t) : s.target c mode x n w = .error (.noSuchCore, x) := by
  rw [State.target, if_neg (mt (noSpace_iff x).mp space), if_neg (notPrivileged allowed), if_neg (mt (beyondSpace_iff x).mp inside),
    if_neg (not_not.mpr aligned), field_63_60, sel, if_neg (by decide), if_neg (by decide), if_pos rfl]
  split
  · rfl
  · rename_i r run
    split
    · rfl
    · rename_i t names
      have out : (!s.inRegion r t) = true := by
        rw [Bool.not_eq_true']
        exact Bool.eq_false_iff.mpr fun region => none t ⟨r, run, names, region⟩
      rw [if_pos out]

theorem State.target_coreOutside (sel : x.toNat / 2 ^ 60 = 2) {t : Nat} (held : s.Holds c x t)
    (out : (s.core c).scr ≤ x.toNat % 2 ^ 19) : s.target c mode x n w = .error (.localRange, x) := by
  obtain ⟨r, run, names, region⟩ := held
  have names' : s.named? r.part (field 59 46 x) = some t := names
  rw [State.target, if_neg (mt (noSpace_iff x).mp space), if_neg (notPrivileged allowed), if_neg (mt (beyondSpace_iff x).mp inside),
    if_neg (not_not.mpr aligned), field_63_60, sel, if_neg (by decide), if_neg (by decide), if_pos rfl, run]
  dsimp only
  rw [names']
  dsimp only
  rw [region, if_neg (by decide), if_pos (by rw [field_18_0]; exact out)]

theorem State.target_unleased (sel : 8 ≤ x.toNat / 2 ^ 60)
    (out : ∀ r, s.runOf c = some r → pageLeased r.lease (x.toNat % 2 ^ 57) w = false) :
    s.target c mode x n w = .error (.leaseViolation, x) := by
  rw [State.target, if_neg (mt (noSpace_iff x).mp space), if_neg (notPrivileged allowed), if_neg (mt (beyondSpace_iff x).mp inside),
    if_neg (not_not.mpr aligned), field_63_60, if_neg (by omega), if_neg (by omega), if_neg (by omega), if_neg (by omega), field_56_0]
  split
  · rfl
  · rename_i r run
    rw [out r run, if_neg (by decide)]

/-- A virtual address that passes the other checks fails for its lease only. -/
theorem State.target_virtual_error (sel : 8 ≤ x.toNat / 2 ^ 60) {e : Cause × Word} (h : s.target c mode x n w = .error e) :
    e = (.leaseViolation, x) := by
  rw [State.target, if_neg (mt (noSpace_iff x).mp space), if_neg (notPrivileged allowed), if_neg (mt (beyondSpace_iff x).mp inside),
    if_neg (not_not.mpr aligned), field_63_60, if_neg (by omega), if_neg (by omega), if_neg (by omega), if_neg (by omega)] at h
  split at h
  · exact (Except.error.inj h).symm
  · split at h
    · cases h
    · exact (Except.error.inj h).symm

end

/-! ### Instructions whose first failing element traps (R50, R196, R197) -/

section
variable {s : State}

theorem State.checkElem_fails {w : Right} {lane mask value n : Nat} {a : Word} {e : Cause × Word}
    (h : s.target s.cur.1 s.me.mode a n w = .error e) : s.checkElem w lane a n mask value = .error e := by
  simp only [State.checkElem, h]

/-- The lowest lane that fails decides, where those below it may be made. -/
theorem State.checkElems_fails {w : Right} {lane mask value n : Nat} {a : Word} {e : Cause × Word}
    (h : s.target s.cur.1 s.me.mode a n w = .error e) (below above : List (Nat × Word × Nat × Nat × Nat)) (own : OwnElems s below) :
    s.checkElems w (below ++ (lane, a, n, mask, value) :: above) = .error e := by
  induction below with
  | nil => simp only [List.nil_append, State.checkElems, State.checkElem_fails h]
  | cons x r ih =>
    simp only [List.cons_append, State.checkElems, s.own_checkElem (own x (by simp)), ih fun y hy => own y (by simp [hy])]

variable (free : s.Free)
include free

theorem State.loads_fails {lane mask n : Nat} {a : Word} {e : Cause × Word} (h : s.target s.cur.1 s.me.mode a n .read = .error e)
    (below above : List (Nat × Word × Nat × Nat)) (own : ∀ x ∈ below, s.Own x.2.1 x.2.2.1) (la : La) (srcs writes : List Reg) (d : Dest) :
    s.loads la srcs writes d (below ++ (lane, a, n, mask) :: above) = .next (s.trap e.1 e.2) := by
  rw [State.loads, State.gate_free free, List.map_append, List.map_cons, State.checkElems_fails h _ _ ?_]
  intro y hy
  obtain ⟨x, hx, rfl⟩ := List.mem_map.mp hy
  exact own x hx

theorem State.stores_fails {lane mask value n : Nat} {a : Word} {e : Cause × Word} (h : s.target s.cur.1 s.me.mode a n .write = .error e)
    (below above : List (Nat × Word × Nat × Nat × Nat)) (own : OwnElems s below) (la : La) (srcs : List Reg) :
    s.stores la srcs (below ++ (lane, a, n, mask, value) :: above) = .next (s.trap e.1 e.2) := by
  rw [State.stores, State.gate_free free, State.checkElems_fails h _ _ own]

/-- An access at its home fails for the first of its rights that does. -/
theorem State.acked_fails {rights : List Right} {a : Word} {n : Nat} {e : Cause × Word}
    (fails : ∃ w ∈ rights, s.target s.cur.1 s.me.mode a n w = .error e)
    (only : ∀ w ∈ rights, ∀ e', s.target s.cur.1 s.me.mode a n w = .error e' → e' = e) (la : La) (srcs writes : List Reg) (d : Dest)
    (acc : Access) : s.acked la srcs writes d rights a n acc = .next (s.trap e.1 e.2) := by
  have checked : s.checkAcked rights a n = .error e := by
    unfold State.checkAcked
    split
    · rename_i e' found
      obtain ⟨u, hu, found⟩ := List.exists_of_findSome?_eq_some found
      split at found
      · rename_i e'' h
        rw [← Option.some.inj found, only u hu e'' h]
      · cases found
    · rename_i none
      obtain ⟨w, hw, h⟩ := fails
      have absent := List.findSome?_eq_none_iff.mp none w hw
      rw [h] at absent
      cases absent
  rw [State.acked, State.gate_free free, checked]

end

/-- The violation of a lease ends the task: the trap registers are written and the handler is not entered (R310). -/
theorem State.trap_leaseViolation {s : State} (free : s.Free) (x : Word) :
    let t := s.trap .leaseViolation x
    t.me.life = .faulted ∧ t.me.tcause = 0x06 ∧ t.me.tpc = s.me.pc ∧ t.me.tval = x ∧ t.me.pc = s.me.pc ∧ t.me.g = s.me.g ∧
      t.mem = s.mem := by
  let u := s.modMe fun t => t.saveTrap (BitVec.ofNat 64 (causeCode .leaseViolation)) s.me.pc x 0 s.me.skip
  have ends : s.trap .leaseViolation x = u.enterFaulted s.cur.1 s.cur.2 (causeCode .leaseViolation) := by
    rw [State.trap, State.raise, State.unpop_of_none free.noPops]
    rfl
  have cur : (s.trap .leaseViolation x).cur = s.cur := by rw [ends, State.cur_enterFaulted]; rfl
  obtain ⟨o, strand⟩ := u.strand_enterFaulted s.cur.1 s.cur.2 (causeCode .leaseViolation)
  have me : (s.trap .leaseViolation x).me = { s.me.saveTrap (BitVec.ofNat 64 (causeCode .leaseViolation)) s.me.pc x 0 s.me.skip with
      outst := o, life := .faulted, stall := none } := by
    rw [State.me, cur, ends, strand, State.strand_modMe]
  have mem : (s.trap .leaseViolation x).mem = s.mem := by rw [ends]; exact u.mem_enterFaulted _ _ _
  dsimp only
  rw [me]
  exact ⟨rfl, rfl, rfl, rfl, rfl, rfl, mem⟩

/-! ### The statement -/

/-- An instruction traps at itself, with an address, where a right that its access there needs fails. -/
def State.TrapsWhereFailing (s : State) (i : Instr) (x : Word) (n : Nat) (rights : List Right) : Prop :=
  ∀ e, (∃ w ∈ rights, s.target s.cur.1 s.me.mode x n w = .error e) →
    (∀ w ∈ rights, ∀ e', s.target s.cur.1 s.me.mode x n w = .error e' → e' = e) → exec i s = .next (s.trap e.1 e.2)

section
variable {s : State} (free : s.Free)
include free

theorem State.load_trapsWhereFailing {i : Instr} {x : Word} {n mask : Nat} {la : La} {srcs writes : List Reg} {d : Dest}
    (run : exec i s = s.loads la srcs writes d [(0, x, n, mask)]) : s.TrapsWhereFailing i x n [.read] := by
  rintro e ⟨w, hw, h⟩ -
  obtain rfl := List.mem_singleton.mp hw
  exact run.trans (State.loads_fails free h [] [] nofun la srcs writes d)

theorem State.store_trapsWhereFailing {i : Instr} {x : Word} {n mask value : Nat} {la : La} {srcs : List Reg}
    (run : exec i s = s.stores la srcs [(0, x, n, mask, value)]) : s.TrapsWhereFailing i x n [.write] := by
  rintro e ⟨w, hw, h⟩ -
  obtain rfl := List.mem_singleton.mp hw
  exact run.trans (State.stores_fails free h [] [] nofun la srcs)

theorem State.acked_trapsWhereFailing {i : Instr} {x : Word} {n : Nat} {rights : List Right} {la : La} {srcs writes : List Reg} {d : Dest}
    {acc : Access} (run : exec i s = s.acked la srcs writes d rights x n acc) : s.TrapsWhereFailing i x n rights :=
  fun _ h only => run.trans (State.acked_fails free h only la srcs writes d acc)

/-- The lanes below an active one come before it in an access by index. -/
theorem State.laneAddrs_split (a b : Reg) {p : Word} {n i : Nat} (hi : i < 64 / n) (act : active p n i = true) :
    ∃ below above, s.laneAddrs a b p n = below ++ (i, s.me.greg a + BitVec.ofInt 64 (vlaneInt (s.rv b) n true i * n)) :: above ∧
      ∀ y ∈ below, ∃ j, j < i ∧ active p n j = true ∧ y = (j, s.me.greg a + BitVec.ofInt 64 (vlaneInt (s.rv b) n true j * n)) := by
  have member : i ∈ (List.range (64 / n)).filter fun i => active p n i := List.mem_filter.mpr ⟨List.mem_range.mpr hi, act⟩
  have ordered : ((List.range (64 / n)).filter fun i => active p n i).Pairwise (· < ·) := List.pairwise_lt_range.filter _
  obtain ⟨below, above, split⟩ := List.append_of_mem member
  refine ⟨_, _, by rw [State.laneAddrs, split, State.read_free free, List.map_append, List.map_cons], fun y hy => ?_⟩
  obtain ⟨j, hj, rfl⟩ := List.mem_map.mp hy
  rw [split, List.pairwise_append] at ordered
  refine ⟨j, ordered.2.2 j hj i (by simp), ?_, rfl⟩
  have listed : j ∈ (List.range (64 / n)).filter fun i => active p n i := by rw [split]; simp [hj]
  exact (List.mem_filter.mp listed).2

theorem State.gather_trapsWhereFailing {i : Instr} {la : La} {d a b : Reg} {p : Word} {n : Nat} (run : exec i s = s.gather la d a b p n)
    {l : Nat} (hl : l < 64 / n) (act : active p n l = true)
    (own : ∀ j, j < l → active p n j = true → s.Own (s.me.greg a + BitVec.ofInt 64 (vlaneInt (s.rv b) n true j * n)) n) :
    s.TrapsWhereFailing i (s.me.greg a + BitVec.ofInt 64 (vlaneInt (s.rv b) n true l * n)) n [.read] := by
  rintro e ⟨w, hw, h⟩ -
  obtain rfl := List.mem_singleton.mp hw
  obtain ⟨below, above, split, low⟩ := State.laneAddrs_split free a b hl act
  rw [run, State.gather, split, List.map_append, List.map_cons]
  refine State.loads_fails free h _ _ (fun x hx => ?_) _ _ _ _
  obtain ⟨y, hy, rfl⟩ := List.mem_map.mp hx
  obtain ⟨j, hj, active, rfl⟩ := low y hy
  exact own j hj active

theorem State.scatter_trapsWhereFailing {i : Instr} {la : La} {d a b : Reg} {p : Word} {n : Nat} (run : exec i s = s.scatter la d a b p n)
    {l : Nat} (hl : l < 64 / n) (act : active p n l = true)
    (own : ∀ j, j < l → active p n j = true → s.Own (s.me.greg a + BitVec.ofInt 64 (vlaneInt (s.rv b) n true j * n)) n) :
    s.TrapsWhereFailing i (s.me.greg a + BitVec.ofInt 64 (vlaneInt (s.rv b) n true l * n)) n [.write] := by
  rintro e ⟨w, hw, h⟩ -
  obtain rfl := List.mem_singleton.mp hw
  obtain ⟨below, above, split, low⟩ := State.laneAddrs_split free a b hl act
  rw [run, State.scatter, split, List.map_append, List.map_cons]
  refine State.stores_fails free h _ _ (fun x hx => ?_) _ _
  obtain ⟨y, hy, rfl⟩ := List.mem_map.mp hx
  obtain ⟨j, hj, active, rfl⟩ := low y hy
  exact own j hj active

end

/-- Settles O33: each check of R50 fails as its rule says, and the first element that fails decides. -/
theorem accessTraps : Obligations.AccessTraps := by
  unfold Obligations.AccessTraps
  intro s free tin d a b la imm p ty w aw sg k fails x off idx sum both
  have fails_of : ∀ {i : Instr} {x : Word} {n : Nat} {rights : List Right}, rights ≠ [] → s.TrapsWhereFailing i x n rights →
      fails i x n rights := by
    intro i x n rights some_ traps
    dsimp only [fails]
    obtain ⟨r, hr⟩ := List.exists_mem_of_ne_nil rights some_
    have trapped {cause : Cause} (h : ∀ w, s.target s.cur.1 s.me.mode x n w = .error (cause, x)) (lease : cause ≠ .leaseViolation)
        (walk : cause ≠ .walkRaceExhausted) : ∃ t, exec i s = .next t ∧ s.Trapped t (causeCode cause) s.me.pc x :=
      ⟨_, traps (cause, x) ⟨r, hr, h r⟩ fun w _ e he => Except.error.inj (he.symm.trans (h w)),
        State.trapped_trap free tin lease walk x⟩
    refine ⟨fun h => trapped (fun w => State.target_noSpace w h) nofun nofun,
      fun sel mode => trapped (fun w => State.target_privileged w sel mode) nofun nofun,
      fun h allowed => trapped (fun w => State.target_beyondSpace w allowed h) nofun nofun,
      fun space inside allowed => ⟨fun h => trapped (fun w => State.target_misaligned w allowed space inside h) nofun nofun,
        fun aligned => ⟨fun sel out => ?_, fun sel out => ?_, fun sel none => ?_, fun c sel held out => ?_, fun sel out => ?_⟩⟩⟩
    · exact trapped (fun w => State.target_outside w allowed space inside aligned sel out) nofun nofun
    · exact trapped (fun w => State.target_noRing w allowed space inside aligned sel out) nofun nofun
    · exact trapped (fun w => State.target_noCore w allowed space inside aligned sel none) nofun nofun
    · exact trapped (fun w => State.target_coreOutside w allowed space inside aligned sel held out) nofun nofun
    · obtain ⟨w, hw, unleased⟩ := out
      exact ⟨_, traps (.leaseViolation, x) ⟨w, hw, State.target_unleased w allowed space inside aligned sel unleased⟩
        fun w _ e he => State.target_virtual_error w allowed space inside aligned sel he, State.trap_leaseViolation free x⟩
  have offset : ∀ n, s.offset a imm n = off n := fun n => by rw [State.offset, State.read_free free]; rfl
  have indexed : ∀ n, s.indexed a b n = idx n := fun n => by rw [State.indexed, State.read_free free, State.read_free free]
  have at_ : s.read a = x := State.read_free free a
  have summed : s.read a + s.read b = sum := by rw [State.read_free free, State.read_free free]
  refine ⟨fun e he => ?_, fun e he => ?_⟩
  · simp only [List.mem_cons, List.not_mem_nil, or_false] at he
    have load (n : Nat) (sg : Bool) {i : Instr} (run : exec i s = s.load1 la [a] d (s.offset a imm n) n sg) : fails i (off n) n [.read] :=
      fails_of nofun (State.load_trapsWhereFailing free (run.trans (by rw [offset]; rfl)))
    have store (n : Nat) {i : Instr} (run : exec i s = s.store1 la [a, d] d (s.offset a imm n) n) : fails i (off n) n [.write] :=
      fails_of nofun (State.store_trapsWhereFailing free (run.trans (by rw [offset]; rfl)))
    have atomic (op : AtomOp) (sg : Bool) {i : Instr} (run : exec i s = s.atomic la op sg aw d a b) : fails i x (atomBytes aw) both :=
      fails_of nofun (State.acked_trapsWhereFailing free (run.trans (by rw [State.atomic, at_])))
    rcases he with rfl | rfl | rfl | rfl | rfl | rfl | rfl | rfl | rfl | rfl | rfl | rfl | rfl | rfl | rfl | rfl | rfl | rfl | rfl |
      rfl | rfl | rfl | rfl | rfl | rfl | rfl | rfl
    · exact load 1 true rfl
    · exact load 1 false rfl
    · exact load 2 true rfl
    · exact load 2 false rfl
    · exact load 4 true rfl
    · exact load 4 false rfl
    · exact load 8 false rfl
    · exact fails_of nofun (State.load_trapsWhereFailing free (congrArg (fun y => s.load1 la [a, b] d y _ (ldSigned ty)) (indexed _)))
    · exact store 1 rfl
    · exact store 2 rfl
    · exact store 4 rfl
    · exact store 8 rfl
    · exact fails_of nofun (State.store_trapsWhereFailing free (congrArg (fun y => s.store1 la [a, b, d] d y _) (indexed _)))
    · exact fails_of nofun (State.acked_trapsWhereFailing free (congrArg (fun y => s.acked la _ _ _ _ y _ _) at_))
    · exact fails_of nofun (State.acked_trapsWhereFailing free (congrArg (fun y => s.acked la _ _ _ _ y _ _) summed))
    · exact atomic .swap false rfl
    · exact atomic .cas false rfl
    · exact atomic .add false rfl
    · exact atomic .and false rfl
    · exact atomic .or false rfl
    · exact atomic .xor false rfl
    · exact atomic .min sg rfl
    · exact atomic .max sg rfl
    · exact fails_of nofun (State.load_trapsWhereFailing free (congrArg (fun y => s.loads la _ _ _ [(0, y, 64, _)]) summed))
    · exact fails_of nofun (State.load_trapsWhereFailing free (congrArg (fun y => s.loads la _ _ _ [(0, y, 64, _)]) summed))
    · exact fails_of nofun (State.store_trapsWhereFailing free (congrArg (fun y => s.stores la _ [(0, y, 64, _, _)]) summed))
    · exact fails_of nofun (State.load_trapsWhereFailing free (congrArg (fun y => s.loads la _ _ _ [(0, y, 4, _)]) summed))
  · simp only [List.mem_cons, List.not_mem_nil, or_false] at he
    intro n lane i hi act own
    rcases he with rfl | rfl | rfl | rfl
    · exact fails_of nofun (State.gather_trapsWhereFailing free rfl hi act own)
    · exact fails_of nofun (State.gather_trapsWhereFailing free rfl hi act own)
    · exact fails_of nofun (State.scatter_trapsWhereFailing free rfl hi act own)
    · exact fails_of nofun (State.scatter_trapsWhereFailing free rfl hi act own)

end Sys2Proof.Machine
end

section
/-! PROOFS. What leaves every byte of memory alone: traps, waits, the results of loads, the L1, and the end of a tile's views; and the
statement of `03_memory_hierarchy.md` about what loads and stores change (R50, R54, R169 to R171, R195, R196). -/

namespace Sys2Proof.Machine

/-! ### Traps and waits -/

theorem State.mem_unpop (s : State) (c n : Nat) : (s.unpop c n).mem = s.mem := by
  unfold State.unpop
  split <;> rfl

theorem State.mem_machineCheck (s : State) (c n : Nat) (pc : Word) (code first : Nat) : (s.machineCheck c n pc code first).mem = s.mem :=
  (State.report_mem _ _).trans (s.mem_enterFaulted c n code)

theorem State.mem_endTask (s : State) (c n : Nat) (cause : Cause) (tpc tval : Word) (shadow : Nat) :
    (s.endTask c n cause tpc tval shadow).mem = s.mem :=
  State.mem_enterFaulted _ _ _ _

theorem State.mem_entry (s : State) (c n : Nat) (cause tpc tval tattr : Word) (shadow : Nat) (at_ : Word) :
    (s.entry c n cause tpc tval tattr shadow at_).mem = s.mem := by
  unfold State.entry
  dsimp only
  split
  · exact s.mem_machineCheck c n _ _ _
  · rfl

theorem State.mem_raise (s : State) (c n : Nat) (cause : Cause) (tpc tval tattr : Word) (shadow : Nat) :
    (s.raise c n cause tpc tval tattr shadow).mem = s.mem := by
  unfold State.raise
  dsimp only
  split
  · exact (State.mem_endTask _ _ _ _ _ _ _).trans (s.mem_unpop c n)
  · exact (State.mem_endTask _ _ _ _ _ _ _).trans (s.mem_unpop c n)
  · exact (State.mem_entry _ _ _ _ _ _ _ _ _).trans (s.mem_unpop c n)

theorem State.mem_trap (s : State) (cause : Cause) (tval : Word) : (s.trap cause tval).mem = s.mem := s.mem_raise _ _ _ _ _ _ _

theorem State.mem_wait (s : State) (why : StallWhy) : (s.wait why).mem = s.mem := rfl

theorem State.mem_hold (s : State) (la : La) (p : Phase) : (s.hold la p).mem = s.mem := rfl

theorem State.mem_retire (s : State) (f : Flow) : (s.retire f).mem = s.mem := rfl

theorem State.mem_poisonReport (s : State) (time loc addr : Word) (part key : Nat) (why : Cause) :
    (s.poisonReport time loc addr part key why).mem = s.mem := rfl

theorem State.mem_physReport (s : State) (c key : Nat) (why : Cause) : (s.physReport c key why).mem = s.mem := rfl

theorem State.mem_poisonTrap (s : State) (es : List Elem) (cause : Cause) (a : Word) : (s.poisonTrap es cause a).mem = s.mem := by
  unfold State.poisonTrap
  split
  · split
    · exact State.mem_trap _ _ _
    · exact State.mem_trap _ _ _
    · exact State.mem_trap _ _ _
  · exact State.mem_trap _ _ _

/-! ### Results (R113, R169) -/

theorem State.mem_popOne (s : State) (q : Nat) : (s.popOne q).mem = s.mem := by
  unfold State.popOne
  split <;> rfl

theorem State.mem_pops (s : State) (srcs : List Reg) : (s.pops srcs).mem = s.mem :=
  foldl_keeps State.mem _ State.mem_popOne _ s

theorem State.mem_writeG (s : State) (c n : Nat) (r : Reg) (v : Word) : (s.writeG c n r v).mem = s.mem := by
  unfold State.writeG
  split <;> rfl

theorem State.mem_deliver (s : State) (c n : Nat) (d : Dest) (got : List Reply) : (s.deliver c n d got).mem = s.mem := by
  cases d with
  | scalar d n' sg seq =>
    refine (State.mem_writeG _ _ _ _ _).trans ?_
    split <;> rfl
  | serial d => exact State.mem_writeG _ _ _ _ _
  | _ => rfl

theorem State.mem_answered (s : State) (c n : Nat) : (s.answered c n).mem = s.mem := by
  unfold State.answered
  split
  · rfl
  · split
    · dsimp only
      split
      · rfl
      · split
        · rfl
        · split
          · split
            · split <;> rfl
            · exact State.mem_deliver _ _ _ _ _
          · refine (State.mem_deliver _ _ _ _ _).trans ?_
            split
            · split <;> rfl
            · rfl
    · rfl

theorem State.mem_complete (s : State) (srcs : List Reg) (la : La) (d : Dest) (got : List Reply) :
    (s.complete srcs la d got).mem = s.mem := by
  have pops := s.mem_pops srcs
  unfold State.complete
  dsimp only
  split
  · split
    · exact (State.mem_answered _ _ _).trans pops
    · refine ((State.mem_retire _ _).trans (State.mem_deliver _ _ _ _ _)).trans ?_
      split
      · split <;> exact pops
      · exact pops
  · refine ((State.mem_retire _ _).trans (State.mem_deliver _ _ _ _ _)).trans ?_
    split
    · split <;> exact pops
    · exact pops

/-! ### The L1 (R54) -/

theorem State.mem_touchHits (s : State) (es : List Elem) : (s.touchHits es).mem = s.mem := by
  refine foldl_keeps State.mem _ (fun s e => ?_) es s
  split
  · split <;> rfl
  · rfl

/-- The state that an allocation leaves, where it leaves one. -/
def Alloc.state? : Alloc → Option State
  | .got s => some s
  | .wait s => some s
  | .locked => none

theorem State.mem_allocate {s u : State} {c n line : Nat} (h : (s.allocate c n line).state? = some u) : u.mem = s.mem := by
  unfold State.allocate at h
  dsimp only at h
  split at h
  · cases h; rfl
  · split at h
    · cases h; rfl
    · split at h
      · cases h
      · split at h
        · cases h; rfl
        · split at h
          · cases h; rfl
          · split at h
            · cases h; rfl
            · split at h
              · cases h; rfl
              · cases h; rfl

theorem State.mem_requestFill (s : State) (c n line : Nat) : (s.requestFill c n line).mem = s.mem := rfl

theorem State.mem_askFills (c n : Nat) (l : List (Word × Nat)) (s : State) : (State.askFills c n l s).1.mem = s.mem := by
  induction l generalizing s with
  | nil => rfl
  | cons x r ih =>
    unfold State.askFills
    dsimp only
    split
    · refine (ih _).trans ?_
      split <;> rfl
    · split
      · rename_i u got
        exact (ih _).trans ((State.mem_requestFill _ _ _ _).trans (State.mem_allocate (congrArg Alloc.state? got)))
      · rename_i u got
        exact State.mem_allocate (congrArg Alloc.state? got)
      · rfl

/-! ### Loads -/

/-- What every step an instruction that passes its gate keeps, the instruction keeps. -/
theorem State.mem_of_gate {s t : State} {srcs pushes writes : List Reg} {go : Out} (h : s.gate srcs pushes writes go = .next t)
    (passed : go = .next t → t.mem = s.mem) : t.mem = s.mem := by
  unfold State.gate at h
  split at h
  · cases h; rfl
  · exact passed h

theorem State.mem_loads {s t : State} {la : La} {srcs writes : List Reg} {d : Dest} {xs : List (Nat × Word × Nat × Nat)}
    (h : s.loads la srcs writes d xs = .next t) : t.mem = s.mem := by
  refine State.mem_of_gate h fun h => ?_
  split at h
  · cases h; exact State.mem_trap _ _ _
  · split at h
    · cases h; rfl
    · split at h
      · cases h; exact State.mem_poisonTrap _ _ _ _
      · dsimp only at h
        split at h
        · cases h
          exact (State.mem_complete _ _ _ _ _).trans (State.mem_touchHits _ _)
        · split at h
          · cases h; exact State.mem_trap _ _ _
          · rename_i u asked
            cases h
            refine (State.mem_pops _ _).trans ((State.mem_touchHits _ _).trans ?_)
            exact (congrArg (fun p => p.1.mem) asked).symm.trans (State.mem_askFills _ _ _ s)

/-! ### Tiles whose views a store retires (R70, R73) -/

section
variable {β : Type} (g : State → β)
  (locks : ∀ s c p, g (State.modCore s c fun k => { k with locks := k.locks.filter p }) = g s)
  (nodes : ∀ s c i, g (State.modCore s c fun k => k.dropNode i) = g s) (posts : ∀ s es, g (State.posts s es) = g s)
  (cluster : ∀ s k f, g (State.modCluster s k f) = g s)

include locks posts in
/-- What neither the locks of a core nor a message changes, the release of a lock keeps. -/
theorem State.releaseLock_keeps (s : State) (c id : Nat) : g (s.releaseLock c id) = g s := by
  unfold State.releaseLock
  split
  · rfl
  · exact (posts _ _).trans (locks _ _ _)

include cluster in
theorem State.freeBank_keeps (s : State) (c n b : Nat) : g (s.freeBank c n b) = g s := by
  unfold State.freeBank
  dsimp only
  split
  · rfl
  · exact cluster _ _ _

include locks nodes posts cluster

/-- What no lock, no node, no message and no cluster's record changes, the end of a tile's node keeps. -/
theorem State.leave_keeps (c fuel i : Nat) (s : State) : g (State.leave c fuel i s) = g s := by
  induction fuel generalizing i s with
  | zero => rfl
  | succ fuel ih =>
    unfold State.leave
    split
    · rfl
    · rename_i v _
      have dropped (u : State) (hu : g u = g s) : g ((u.modCore c fun k => k.dropNode i).freeSlot c i) = g s :=
        (cluster _ _ _).trans ((nodes _ _ _).trans hu)
      have released : g ((match v.lock with
          | some id => s.releaseLock c id
          | none => s)) = g s := by
        split
        · exact State.releaseLock_keeps g locks posts _ _ _
        · rfl
      refine (foldl_keeps g _ (fun s x => ?_) _ _).trans ?_
      · split
        · split
          · rfl
          · exact ih _ _
        · exact State.freeBank_keeps g cluster _ _ _ _
      · split
        · exact (State.freeBank_keeps g cluster _ _ _ _).trans (dropped _ released)
        · exact dropped _ released

/-- The end of views keeps what, in addition, the handles of a core's strands do not change. -/
theorem State.retireViews_keeps
    (handles : ∀ s c f, g (State.modCore s c fun k => { k with strands := k.strands.map fun t => { t with m := t.m.map f } }) = g s)
    (s : State) (c : Nat) (ids : List Nat) : g (s.retireViews c ids) = g s :=
  foldl_keeps g _ (fun s i => (State.leave_keeps g locks nodes posts cluster c 100 i (s.modCore c _)).trans (handles s c _)) _ s

end

theorem State.mem_retireViews (s : State) (c : Nat) (locks : List Nat) : (s.retireViews c locks).mem = s.mem :=
  State.retireViews_keeps State.mem (fun _ _ _ => rfl) (fun _ _ _ => rfl) (fun _ _ => rfl) (fun _ _ _ => rfl) (fun _ _ _ => rfl) s c locks

theorem State.cur_retireViews (s : State) (c : Nat) (locks : List Nat) : (s.retireViews c locks).cur = s.cur :=
  State.retireViews_keeps State.cur (fun _ _ _ => rfl) (fun _ _ _ => rfl) (fun _ _ => rfl) (fun _ _ _ => rfl) (fun _ _ _ => rfl) s c locks

theorem State.cur_pops (s : State) (srcs : List Reg) : (s.pops srcs).cur = s.cur := by
  refine foldl_keeps State.cur _ (fun s q => ?_) _ s
  unfold State.popOne
  split <;> rfl

/-! ### Stores (R170, R195) -/

/-- A checked element is the access at the place its address reaches. -/
theorem State.checkElem_ok {s : State} {w : Right} {lane n mask value : Nat} {a : Word} {e : Elem}
    (h : s.checkElem w lane a n mask value = .ok e) :
    ∃ t, e = ⟨lane, a, t, n, mask, value⟩ ∧ s.target s.cur.1 s.me.mode a n w = .ok t := by
  unfold State.checkElem at h
  split at h
  · cases h
  · rename_i t target
    dsimp only at h
    split at h
    · cases h
    · exact ⟨t, (Except.ok.inj h).symm, target⟩

theorem State.checkElems_one {s : State} {w : Right} {x : Nat × Word × Nat × Nat × Nat} {es : List Elem}
    (h : s.checkElems w [x] = .ok es) : ∃ e, es = [e] ∧ s.checkElem w x.1 x.2.1 x.2.2.1 x.2.2.2.1 x.2.2.2.2 = .ok e := by
  unfold State.checkElems at h
  split at h
  · cases h
  · rename_i e checked
    exact ⟨e, (Except.ok.inj h).symm, checked⟩

/-- What a place that an address reaches says of the address's space. -/
theorem State.space_of_target {s : State} {c mode n : Nat} {a : Word} {w : Right} {t : Target} (h : s.target c mode a n w = .ok t) :
    (∃ o, t = .own o) ∨ (∃ d o, t = .pad d o) ∨ (∃ k, t = .phys k ∧ mode = 3) ∨
      ∃ va, t = .virt va ∧ field 63 60 a ≠ 0 ∧ field 63 60 a ≠ 2 := by
  rw [State.target] at h
  split at h
  · cases h
  · split at h
    · cases h
    · rename_i notPrivileged
      split at h
      · cases h
      · split at h
        · cases h
        · split at h
          · split at h
            · cases h
            · exact .inl ⟨_, (Except.ok.inj h).symm⟩
          · rename_i notOwn
            split at h
            · split at h
              · cases h
              · split at h
                · cases h
                · exact .inl ⟨_, (Except.ok.inj h).symm⟩
            · split at h
              · split at h
                · cases h
                · split at h
                  · cases h
                  · split at h
                    · cases h
                    · split at h
                      · cases h
                      · split at h
                        · exact .inl ⟨_, (Except.ok.inj h).symm⟩
                        · exact .inr (.inl ⟨_, _, (Except.ok.inj h).symm⟩)
              · rename_i notNamed
                split at h
                · rename_i monitor
                  split at h
                  · cases h
                  · have machine : mode = 3 := by
                      by_contra other
                      exact notPrivileged (by simp [monitor, other])
                    exact .inr (.inr (.inl ⟨_, (Except.ok.inj h).symm, machine⟩))
                · split at h
                  · cases h
                  · split at h
                    · exact .inr (.inr (.inr ⟨_, (Except.ok.inj h).symm, notOwn, notNamed⟩))
                    · cases h

/-- A write to the own scratchpad changes only the bytes it names. -/
theorem State.byte_storeOwn {s : State} (wf : Memory.wf s.mem = true) (c : Nat) (a : Word) (off n mask v : Nat) {k : Nat}
    (hk : k < padKey c off ∨ padKey c off + n ≤ k) : (s.storeOwn c a off n mask v).byte k = s.byte k := by
  unfold State.storeOwn
  split
  · rfl
  · split
    · rfl
    · exact (State.byte_of_mem (State.bump_mem _ _) k).trans (s.byte_store_other _ _ _ k hk wf)

/-- The state that a write leaves, where it leaves one. -/
def Stored.state? : Stored → Option State
  | .done s => some s
  | .wait s => some s
  | .locked => none

/-- Writes to a virtual address, made in the L1, change no byte of memory. -/
theorem State.mem_storeOne_virt {s u : State} {c n : Nat} {pc : Word} {a : Word} {va nb mask v : Nat}
    (h : (s.storeOne c n pc false a (.virt va) nb mask v).state? = some u) : u.mem = s.mem := by
  unfold State.storeOne at h
  dsimp only at h
  split at h
  · cases h; rfl
  · simp only [Bool.false_eq_true, if_false] at h
    split at h
    · cases h; rfl
    · split at h
      · rename_i got
        cases h
        exact (State.modCore_mem _ _ _).trans (State.mem_allocate (congrArg Alloc.state? got))
      · rename_i got
        cases h
        exact State.mem_allocate (congrArg Alloc.state? got)
      · cases h

theorem State.mem_drain {c n : Nat} {pc : Word} (l : List (Word × Nat × Nat × Nat))
    (virt : ∀ x ∈ l, field 63 60 x.1 ≠ 0 ∧ field 63 60 x.1 ≠ 2) (s : State) : (State.drain c n pc false l s).state.mem = s.mem := by
  induction l generalizing s with
  | nil => rfl
  | cons x r ih =>
    have target : s.spotTarget c x.1 = .virt (field 56 0 x.1) := by
      obtain ⟨own, pad⟩ := virt x (by simp)
      simp [State.spotTarget, State.spot, own, pad]
    unfold State.drain
    rw [target]
    split
    · rename_i u stored
      exact (ih (fun y hy => virt y (by simp [hy])) u).trans (State.mem_storeOne_virt (congrArg Stored.state? stored))
    · rename_i u stored
      exact State.mem_storeOne_virt (congrArg Stored.state? stored)
    · rfl

theorem Drained.mem_finish (d : Drained) (la : La) : (d.finish la false none).mem = d.state.mem := by
  unfold Drained.finish
  dsimp only
  split
  · rfl
  · split <;> rfl

theorem State.mem_beginWork (s : State) (c n : Nat) (w : List Work) : (s.beginWork c n w).mem = s.mem := by
  cases w <;> rfl

theorem State.mem_demanding {s t : State} {la : La} {srcs : List Reg} {ds : List (Nat × Region)} {go : Out}
    (h : s.demanding la srcs ds go = .next t) : t.mem = s.mem ∨ go = .next t := by
  unfold State.demanding at h
  split at h
  · exact .inr h
  · cases h
    exact .inl ((State.mem_beginWork _ _ _ _).trans (s.mem_pops srcs))

/-- A store that writes one element changes, outside machine mode, at most the bytes of the own scratchpad that its address reaches. -/
theorem State.byte_stores {s t : State} (wf : Memory.wf s.mem = true) (mode : s.me.mode ≠ 3) {la : La} {srcs : List Reg} {lane n mask v : Nat}
    {a : Word} (h : s.stores la srcs [(lane, a, n, mask, v)] = .next t) {k : Nat}
    (hk : ∀ off, s.target s.cur.1 s.me.mode a n .write = .ok (.own off) → k < padKey s.cur.1 off ∨ padKey s.cur.1 off + n ≤ k) :
    t.byte k = s.byte k := by
  have keeps (m : t.mem = s.mem) : t.byte k = s.byte k := State.byte_of_mem m k
  unfold State.stores State.gate at h
  split at h
  · cases h; exact keeps rfl
  · split at h
    · cases h; exact keeps (State.mem_trap _ _ _)
    · rename_i es checked
      obtain ⟨e, rfl, one⟩ := State.checkElems_one checked
      obtain ⟨at_, rfl, target⟩ := State.checkElem_ok one
      rw [lastWrites_single] at h
      dsimp only at h
      split at h
      · cases h; exact keeps rfl
      · split at h
        · cases h; exact keeps rfl
        · split at h
          · cases h; exact keeps (State.mem_trap _ _ _)
          · rcases State.mem_demanding h with same | h
            · exact keeps same
            · generalize hu : (s.retireViews s.cur.1 (s.verdicts true [⟨lane, a, at_, n, mask, v⟩]).locks).pops srcs = u at h
              have umem : u.mem = s.mem := by rw [← hu]; exact (State.mem_pops _ _).trans (s.mem_retireViews _ _)
              have ucur : u.cur = s.cur := by rw [← hu]; exact (State.cur_pops _ _).trans (s.cur_retireViews _ _)
              rcases State.space_of_target target with ⟨off, rfl⟩ | ⟨d, off, rfl⟩ | ⟨key, rfl, machine⟩ | ⟨va, rfl, virt⟩
              · obtain rfl : ((State.drain u.cur.1 u.cn u.me.pc false [] (u.storeOwn u.cur.1 a off n mask v)).finish la false none) = t :=
                  Host.Outcome.next.inj h
                refine (State.byte_of_mem (Drained.mem_finish _ _) k).trans
                  ((State.byte_storeOwn (by rw [umem]; exact wf) _ _ _ _ _ _ ?_).trans (State.byte_of_mem umem k))
                rw [ucur]
                exact hk off target
              · cases h
                refine keeps ((Drained.mem_finish _ _).trans (Eq.trans ?_ umem))
                change (List.foldl _ u [_]).mem = u.mem
                rw [List.foldl_cons, List.foldl_nil]
                simp only [State.storeOne]
                split
                · rename_i done
                  split at done
                  · cases done
                  · cases done
                    rfl
                · rfl
              · exact absurd machine mode
              · cases h
                refine keeps ((Drained.mem_finish _ _).trans (Eq.trans ?_ umem))
                exact State.mem_drain [(a, n, mask, v)] (fun x hx => by rw [List.mem_singleton.mp hx]; exact virt) u

/-- Settles O32: loads by their common shape, and stores by the one element that each writes. -/
theorem memoryFrame : Obligations.MemoryFrame := by
  unfold Obligations.MemoryFrame
  intro s t wf d a b la imm p ty w
  refine ⟨fun i hi run => ?_, fun mode e he run k hk => ?_⟩
  · simp only [List.mem_cons, List.not_mem_nil, or_false] at hi
    rcases hi with rfl | rfl | rfl | rfl | rfl | rfl | rfl | rfl | rfl | rfl | rfl | rfl | rfl <;> exact State.mem_loads run
  · simp only [List.mem_cons, List.not_mem_nil, or_false] at he
    rcases he with rfl | rfl | rfl | rfl | rfl | rfl <;> exact State.byte_stores wf mode run hk

end Sys2Proof.Machine
end

section
/-! PROOFS. The statement of `03_memory_hierarchy.md` about waits that reach their limit (R62, R71, R114, R117, R182, R185, R190, R240,
R248, R253). -/

namespace Sys2Proof.Machine

/-! ### A trap that a waiting instruction takes at its next slot (R102) -/

theorem State.strand_modCore_keeps {s : State} {c : Nat} {f : Core → Core} (h : (f (s.core c)).strands = (s.core c).strands) (d m : Nat) :
    (s.modCore c f).strand d m = s.strand d m := by
  by_cases same : d = c
  · subst same
    rw [State.strand, State.core_modCore, Core.strand, h]
    rfl
  · rw [State.strand, State.core_modCore_other _ _ _ _ same]
    rfl

section
variable {s u : State} {c n : Nat} {o : Outst} (outst : (s.strand c n).outst = some o) (noTrap : o.err = none)
include outst noTrap

theorem State.erred_setErr (strand : u.strand c n = s.strand c n) (mem : u.mem = s.mem) (cause : Cause) (tval : Word) :
    s.Erred (u.setErr c n cause tval) c n cause tval := by
  refine ⟨mem, o, outst, ?_⟩
  rw [State.setErr, State.strand_modStrand, strand, outst]
  simp [noTrap]

theorem State.erred_expire (idx : Nat) : s.Erred (s.expire c idx [n]) c n .vigilTimeout (BitVec.ofNat 64 idx) :=
  State.erred_setErr outst noTrap rfl rfl _ _

end

theorem State.phase?_of_outst {s : State} {c n : Nat} {o : Outst} (h : (s.strand c n).outst = some o) :
    (s.strand c n).phase? = some o.phase := by
  rw [Strand.phase?, h]
  rfl

theorem State.elapsed_of_outst {s : State} {c n : Nat} {o : Outst} (h : (s.strand c n).outst = some o) :
    s.elapsed c n = (s.core c).ticks - o.since := by
  rw [State.elapsed, h]

/-! ### What the end of a tile and of a copy leaves of the strands -/

theorem State.strand_leave (c fuel i : Nat) (s : State) (d m : Nat) : (State.leave c fuel i s).strand d m = s.strand d m :=
  State.leave_keeps (fun s => s.strand d m) (fun _ _ _ => State.strand_modCore_keeps rfl d m)
    (fun _ _ _ => State.strand_modCore_keeps rfl d m) (fun _ _ => rfl) (fun _ _ _ => rfl) c fuel i s

theorem State.mem_leave (c fuel i : Nat) (s : State) : (State.leave c fuel i s).mem = s.mem :=
  State.leave_keeps State.mem (fun _ _ _ => rfl) (fun _ _ _ => rfl) (fun _ _ => rfl) (fun _ _ _ => rfl) c fuel i s

section
variable {β : Type} (g : State → β) (core : ∀ s c f, (∀ k, (f k).strands = k.strands) → g (State.modCore s c f) = g s)
  (posts : ∀ s es, g (State.posts s es) = g s)
include core posts

/-- What of a core only its strands hold, the end of a copy keeps. -/
theorem State.dropCopy_keeps (s : State) (c id : Nat) : g (s.dropCopy c id) = g s := by
  unfold State.dropCopy
  split
  · rfl
  · rename_i k _
    have released : g (k.locks.foldl (fun s l => s.releaseLock c l) s) = g s :=
      foldl_keeps g _ (fun s l => State.releaseLock_keeps g (fun s c p => core s c _ fun _ => rfl) posts s c l) _ s
    dsimp only
    split
    · refine (core _ _ _ ?_).trans ((core _ _ _ ?_).trans released) <;> exact fun _ => rfl
    · refine (core _ _ _ ?_).trans released
      exact fun _ => rfl

end

theorem State.strand_dropCopy (s : State) (c id d m : Nat) : (s.dropCopy c id).strand d m = s.strand d m :=
  State.dropCopy_keeps (fun s => s.strand d m) (fun _ _ _ h => State.strand_modCore_keeps (h _) d m) (fun _ _ => rfl) s c id

theorem State.mem_dropCopy (s : State) (c id : Nat) : (s.dropCopy c id).mem = s.mem :=
  State.dropCopy_keeps State.mem (fun _ _ _ _ => rfl) (fun _ _ => rfl) s c id

/-- A registration that times out gives up its tile or its copy, and its strand is to trap (R71). -/
theorem exec_registrationRetryTimeout {s : State} {c n : Nat} {waiting refused : List (Nat × Home)} {first : Word}
    {node : Option (Nat × Tile)} {copy : Option Nat} (phase : (s.strand c n).phase? = some (.register waiting refused first node copy))
    (late : (refused.isEmpty || decide (s.elapsed c n < (s.core c).limit)) = false) :
    ∃ u : State, u.strand c n = s.strand c n ∧ u.mem = s.mem ∧
      exec (.registrationRetryTimeout c n) s = .next (u.setErr c n .rangeLocked first) := by
  change ∃ u : State, _ ∧ _ ∧ execRegistrationRetryTimeout c n s = _
  simp only [execRegistrationRetryTimeout, phase, late]
  refine ⟨_, ?_, ?_, rfl⟩
  · split
    · refine (State.strand_dropCopy _ c _ c n).trans ?_
      split
      · exact State.strand_leave c 100 _ s c n
      · rfl
    · split
      · exact State.strand_leave c 100 _ s c n
      · rfl
  · split
    · refine (State.mem_dropCopy _ c _).trans ?_
      split
      · exact State.mem_leave c 100 _ s
      · rfl
    · split
      · exact State.mem_leave c 100 _ s
      · rfl

/-! ### Withdrawals (R117) -/

/-- A core sends one withdrawal an episode, known by its arrival's record. -/
theorem State.withdraw_of_arrival {s : State} {r : GroupRef} {c : Nat} {red : Bool} {a : Arrival}
    (h : (s.core c).arrival? r.idx red = some a) :
    (a.withdrawn = false → s.withdraw r c red =
      (s.modCore c fun k => k.setWithdrawn r.idx red true).post (.barrierWithdrawal r c red c)) ∧
    (a.withdrawn = true → s.withdraw r c red = s) := by
  obtain ⟨idx, reduction, arriver, sent, withdrawn⟩ := a
  constructor <;> rintro rfl <;> rw [State.withdraw, h]

/-! ### The wait for an accumulator bank (R240) -/

/-- The trap of a demand whose instruction had popped nothing: its strand enters the handler with the instruction at an end. -/
theorem State.demandTrap_enters {s : State} {c n : Nat} {o : Outst} (outst : (s.strand c n).outst = some o) (tin : (s.strand c n).tin = false)
    (noPops : o.pops = []) {cause : Cause} (lease : cause ≠ .leaseViolation) (walk : cause ≠ .walkRaceExhausted) (tval tattr : Word) :
    let u := s.demandTrap c n cause tval tattr
    (u.strand c n).tcause = BitVec.ofNat 64 (causeCode cause) ∧ (u.strand c n).tpc = o.pc ∧ (u.strand c n).tattr = tattr ∧
      (u.strand c n).pc = (s.core c).tvec ∧ (u.strand c n).outst = none ∧ u.mem = s.mem := by
  let v := (s.modCore c fun k => k.abandon n).unstage c n
  have core : v.core c = (s.core c).abandon n := by
    change (s.modCore c fun k => k.abandon n).core c = _
    rw [State.core_modCore]
  have strand : v.strand c n = s.strand c n := by rw [State.strand, core]; rfl
  let w := v.modStrand c n fun t => { t with outst := none, popped := o.pops }
  have wstrand : w.strand c n = { s.strand c n with outst := none, popped := o.pops } := by
    rw [State.strand_modStrand, strand]
  have tvec : (w.core c).tvec = (s.core c).tvec := by rw [State.core_modStrand, Core.setStrand_tvec, core]; rfl
  have run : s.demandTrap c n cause tval tattr =
      w.modStrand c n fun t => t.enter (s.core c).tvec (BitVec.ofNat 64 (causeCode cause)) o.pc tval tattr o.retired := by
    have raised := State.raise_enters (s := w) (c := c) (n := n) (cause := cause) (by rw [wstrand]; exact noPops)
      (by rw [wstrand]; exact tin) lease walk o.pc tval tattr o.retired
    rw [tvec] at raised
    rw [State.demandTrap, State.finishTrap, strand, outst]
    exact raised
  intro u
  have me : u.strand c n = (w.strand c n).enter (s.core c).tvec (BitVec.ofNat 64 (causeCode cause)) o.pc tval tattr o.retired := by
    rw [show u = _ from run, State.strand_modStrand]
  rw [me, wstrand, show u = _ from run]
  exact ⟨rfl, rfl, rfl, rfl, rfl, rfl⟩

/-! ### The statement -/

/-- Settles O48, wait by wait. -/
theorem timeouts : Obligations.Timeouts := by
  unfold Obligations.Timeouts
  intro s c n t k limit withdraws
  have withdraws_of {i : Instr} {r : GroupRef} {red : Bool} (run : exec i s = .next (s.withdraw r c red)) : withdraws i r red := by
    intro a ha
    obtain ⟨open_, sent⟩ := State.withdraw_of_arrival ha
    exact ⟨fun h => run.trans (congrArg _ (open_ h)), fun h => run.trans (congrArg _ (sent h))⟩
  refine ⟨fun o outst noTrap => ?_, fun outst tin noPops w stall late noSkip => ?_, fun x since g listed phase group late => ?_⟩
  · intro waited
    have outst : (s.strand c n).outst = some o := outst
    have phase := State.phase?_of_outst outst
    have elapsed : s.elapsed c n = waited := State.elapsed_of_outst outst
    have erred (u : State) (strand : u.strand c n = s.strand c n) (mem : u.mem = s.mem) (cause : Cause) (tval : Word) :
        s.Erred (u.setErr c n cause tval) c n cause tval := State.erred_setErr outst noTrap strand mem cause tval
    refine ⟨fun h late => ?_, fun fn d q x h late fails => ?_, fun d v since h full late => ?_, fun refused first node copy h some_ late => ?_,
      fun i drain r h ring late => ?_, fun r red g h group late => ?_, fun r v first g h group late => ?_,
      fun r d first push g h group late empty => ?_, fun w rest so since v h late noBank node tin noPops => ?_⟩
    · rw [h] at phase
      have ended : t.ended = { t with outst := some { o with phase := .done none } } := by rw [Strand.ended, outst]; rfl
      change execYieldTimeout c n s = .next (s.setStrand c n _)
      simp only [execYieldTimeout, phase, elapsed]
      rw [if_pos late, State.done_eq, State.modStrand, ended]
    · rw [h] at phase
      refine ⟨_, ?_, erred s rfl rfl _ _⟩
      change execVigilTimeout c n s = _
      simp only [execVigilTimeout, phase, elapsed]
      rw [if_pos (by simp [late, k, fails])]
    · obtain ⟨q, port⟩ : ∃ q, t.port? d = some q := by
        rw [State.fullPort] at full
        split at full
        · exact ⟨_, ‹_›⟩
        · cases full
      have held : s.heldResult c n = some (d, since) := by simp only [State.heldResult, outst, noTrap, h, full]; rfl
      refine ⟨_, q, ?_, port, erred s rfl rfl _ _⟩
      change execQueueTimeout c n s = _
      simp only [execQueueTimeout, outst, held, h]
      rw [if_neg (show ¬ (s.core c).ticks - since < (s.core c).limit from Nat.not_lt.mpr late), port]
      rfl
    · rw [h] at phase
      have waits : (refused.isEmpty || decide (s.elapsed c n < (s.core c).limit)) = false := by
        rw [elapsed, Bool.or_eq_false_iff, decide_eq_false_iff_not]
        exact ⟨by simpa using some_, Nat.not_lt.mpr late⟩
      obtain ⟨u, strand, mem, run⟩ := exec_registrationRetryTimeout phase waits
      exact ⟨_, run, erred u strand mem _ _⟩
    · rw [h] at phase
      have ring : (s.core c).ring? i = some r := ring
      let bit : BitVec 16 := ~~~(BitVec.ofNat 16 (2 ^ (n % 16)))
      let r' := if drain then { r with drainArr := r.drainArr &&& bit } else { r with fillArr := r.fillArr &&& bit }
      let u := s.modCore c fun k => k.setRing i r'
      refine ⟨_, r', ?_, erred u (State.strand_modCore_keeps rfl c n) rfl _ _, ?_, ?_⟩
      · change execDayBarrierTimeout c n s = _
        simp only [execDayBarrierTimeout, phase, ring, elapsed]
        rw [if_neg (Nat.not_lt.mpr late)]
      · rw [State.setErr, State.core_modStrand, State.core_modCore]
        exact Core.ring?_setRing _ i r'
      · have cleared (x : BitVec 16) : (x &&& bit).getLsbD (n % 16) = false := by
          have low : n % 16 < 16 := Nat.mod_lt _ (by decide)
          rw [BitVec.getLsbD_and, BitVec.getLsbD_not, BitVec.getLsbD_ofNat, Nat.testBit_two_pow_self]
          simp [low]
        cases drain <;> exact cleared _
    · have waits : (s.core c).waitsOn n = some (r, red) := by
        have outst : ((s.core c).strand n).outst = some o := outst
        simp only [Core.waitsOn, outst, noTrap]
        rcases h with ⟨rfl, h⟩ | ⟨rfl, d, op, b, h⟩ <;> rw [h] <;> rfl
      refine withdraws_of ?_
      change execGroupWaitTimeout c n s = _
      simp only [execGroupWaitTimeout, waits, group, elapsed]
      rw [if_neg (Nat.not_lt.mpr late)]
    · rw [h] at phase
      refine ⟨_, ?_, State.erred_expire outst noTrap _⟩
      change execBcastSendTimeout c n s = _
      simp only [execBcastSendTimeout, phase, group]
      rw [if_pos late]
    · rw [h] at phase
      refine ⟨_, ?_, State.erred_expire outst noTrap _⟩
      change execBcastRecvTimeout c n s = _
      simp only [execBcastRecvTimeout, phase, group]
      rw [if_pos (by simp [k] at empty; simp [empty]; exact late)]
    · have node : (s.core c).node? w.node = some v := node
      have work : (s.strand c n).work? = some (w :: rest, some so, some since) := by rw [Strand.work?, outst]; dsimp only; rw [h]
      have run : exec (.accBankWaitTimeout c n) s =
          .next (s.demandTrap c n .accOwned (accTval ((s.cluster (clusterOf c)).bank 0).tag true 0) v.pc) := by
        change execAccBankWaitTimeout c n s = _
        simp only [execAccBankWaitTimeout, work, noBank, node]
        rw [if_neg (show ¬ (s.core c).ticks - since < (s.core c).limit from Nat.not_lt.mpr late)]
      exact ⟨_, run, State.demandTrap_enters outst tin noPops (cause := .accOwned) nofun nofun _ _⟩
  · have outst : (s.strand c n).outst = none := outst
    have stall : (s.strand c n).stall = some w := stall
    have raised (cause : Cause) (tval : Word) (lease : cause ≠ .leaseViolation) (walk : cause ≠ .walkRaceExhausted) :
        (s.from_ c n).Trapped ((s.raise c n cause t.pc tval 0 t.skip).from_ c n) (causeCode cause) t.pc tval := by
      rw [State.raise_enters noPops tin lease walk, noSkip]
      exact s.trapped_enter c n (causeCode cause) t.pc tval
    refine ⟨fun q push why => ⟨_, ?_, raised .queueTimeout _ nofun nofun⟩, fun why => ⟨_, ?_, raised .rangeLocked 0 nofun nofun⟩⟩
    · change execQueueTimeout c n s = _
      simp only [execQueueTimeout, outst, stall, why]
      rw [if_neg (show ¬ (s.core c).ticks - w.since < (s.core c).limit from Nat.not_lt.mpr late)]
    · change execCopyWaitTimeout c n s = _
      simp only [execCopyWaitTimeout, stall]
      rw [if_pos (by rcases why with why | why <;> simp [why] <;> exact late)]
  · have listed : (s.core c).copy? x.id = some x := listed
    refine withdraws_of ?_
    change execCpyhBarrierTimeout c x.id s = _
    simp only [execCpyhBarrierTimeout, listed, phase, group]
    rw [if_neg (Nat.not_lt.mpr late)]

end Sys2Proof.Machine
end

section
/-! PROOFS. The statement of `03_memory_hierarchy.md` about requests at scratchpad ports and slices, walks and answers (R64, R66, R70,
R75, R81, R86, R87, R325 to R328, R365). -/

namespace Sys2Proof.Machine

/-! ### Scratchpad ports (R64, R70, R86, R87) -/

/-- A core that has passed neither point takes a message. -/
theorem State.arrive_awake {s : State} {c : Nat} (h : s.Awake c) (answer : Bool) (e : Event) (go : Out) : s.arrive c answer e go = go := by
  obtain ⟨stopped, switched⟩ := h
  simp [State.arrive, stopped, switched]

/-- A core that has not switched out takes an answer. -/
theorem State.arrive_answer {s : State} {c : Nat} (h : (s.core c).switchedOut = false) (e : Event) (go : Out) :
    s.arrive c true e go = go := by
  simp [State.arrive, h]

theorem State.padRefuses_unlocked {s : State} {c : Nat} (locks : (s.core c).locks = []) (ports : (s.core c).portLocks = []) (rc : Nat)
    (write : Bool) (lo len : Nat) : s.padRefuses c rc write lo len = false := by
  simp [State.padRefuses, locks, ports]

section
variable {s : State} {c : Nat} {q : Req} (awake : s.Awake c)
include awake

/-- A request at a core under no lock and without poison is performed and answered. -/
theorem exec_portRequest_performs (locks : (s.core c).locks = []) (ports : (s.core c).portLocks = [])
    (clean : s.poisoned? (padKey c q.addr / 128) = none) :
    let r := s.applyPad (padKey c q.addr) q.access
    exec (.portRequest c q) s = .next (r.2.2.post (performReply q (.pad c) r.1 r.2.1)) := by
  have free : ((accessRuns q.access).any fun r => s.padRefuses c q.core (accessWrites q.access) (q.addr + r.1) r.2) = false := by
    simp [State.padRefuses_unlocked locks ports]
  change execPortRequest c q s = _
  rw [execPortRequest, State.arrive_awake awake, State.performPad, free]
  simp only [clean]
  rfl

theorem exec_portRequest_refuses {r : Nat × Nat} (run : r ∈ accessRuns q.access)
    (locked : s.padRefuses c q.core (accessWrites q.access) (q.addr + r.1) r.2 = true) :
    exec (.portRequest c q) s = .next (s.post (refuseReply q (.pad c) .rangeLocked)) := by
  change execPortRequest c q s = _
  rw [execPortRequest, State.arrive_awake awake, State.performPad, if_pos (List.any_eq_true.mpr ⟨r, run, locked⟩)]

end

/-- A store and the rise of its line's serial. -/
theorem State.stored_bump {s : State} (wf : Memory.wf s.mem = true) (key n v line : Nat) :
    s.Stored ((s.store key n v).bump line).2 key n (v % 2 ^ (8 * n)) := by
  have mem := State.bump_mem (s.store key n v) line
  refine ⟨?_, fun k hk => (State.byte_of_mem mem k).trans (s.byte_store_other _ _ _ _ hk wf)⟩
  rw [State.load_of_mem mem, s.load_store _ _ _ wf, show 256 ^ n = 2 ^ (8 * n) by rw [Nat.pow_mul]]

theorem State.stored_of_mem {s t u : State} {key n v : Nat} (h : s.Stored t key n v) (mem : u.mem = t.mem) : s.Stored u key n v :=
  ⟨(State.load_of_mem mem key n).trans h.1, fun k hk => (State.byte_of_mem mem k).trans (h.2 k hk)⟩

theorem State.cores_store_bump (s : State) (key n v line : Nat) : ((s.store key n v).bump line).2.cores = s.cores ∧
    ((s.store key n v).bump line).2.agenda = s.agenda := by
  obtain ⟨m, hm⟩ := s.store_frame key n v
  obtain ⟨sr, f, hb⟩ := (s.store key n v).bump_frame line
  rw [hb, hm]
  exact ⟨rfl, rfl⟩

/-! ### Slices (R66, R75) -/

theorem State.slice_modSlice (s : State) (k : Nat) (f : Slice → Slice) : (s.modSlice k f).slice k = f (s.slice k) := s.slice_setSlice k _

theorem State.slice_post (s : State) (e : Event) (k : Nat) : (s.post e).slice k = s.slice k := rfl

theorem State.serve_idle {s : State} {k : Nat} (h : (s.slice k).waiting = []) (fuel : Nat) : s.serve k fuel = s := by
  cases fuel with
  | zero => rfl
  | succ fuel => rw [State.serve]; simp only [h]

/-- A slice without locks performs a read of its copy of a line. -/
theorem State.performSlice_read {s : State} {k : Nat} {q : Req} {l : SliceLine} {n m : Nat} (read : q.access = .read n m)
    (noLocks : (s.slice k).filter = []) (clean : s.linePoison l = none) :
    s.performSlice k q l = s.post (performReply q (.slice k) (lineBytes l.data (q.addr % 128) n) 0) := by
  have free : ∀ lo len, (s.slice k).refuses q.part q.core (accessWrites q.access) lo len = false := by
    intro lo len
    simp [Slice.refuses, noLocks]
  rw [read] at free
  simp [State.performSlice, read, clean, free]

/-- And a fill of it. -/
theorem State.performSlice_fill {s : State} {k : Nat} {q : Req} {l : SliceLine} (fill : q.access = .fill)
    (noLocks : (s.slice k).filter = []) (clean : s.linePoison l = none) :
    s.performSlice k q l = s.post (.l1FillResponse q.core l.line { data := l.data, blocked := 0, err := none }) := by
  have unblocked : (s.slice k).blocked q.part l.line = 0 := by
    refine List.foldlRecOn (motive := fun m => m = 0) _ _ rfl fun m hm i _ => ?_
    simp [noLocks, hm]
  simp [State.performSlice, fill, clean, unblocked]

section
variable {s : State} {k : Nat} {q : Req} (waiting : (s.slice k).waiting = [q])
include waiting

/-- A slice whose one request finds its line performs it. -/
theorem State.serveAll_present (serves : s.stackServes (k / 16) = true) {l : SliceLine}
    (present : (s.slice k).line? q.part (q.addr / 128) = some l) :
    s.serveAll k = ((s.modSlice k fun sl => { sl with waiting := [] }).performSlice k q l).serve k 1 := by
  rw [State.serveAll, waiting, List.length_singleton, State.serve]
  simp [waiting, serves, present]

theorem State.serveAll_unserved (serves : s.stackServes (k / 16) = false) : s.serveAll k = s := by
  rw [State.serveAll, waiting, List.length_singleton, State.serve]
  simp [waiting, serves]

/-- A slice whose one request misses asks for the line, or for a walk. -/
theorem State.serveAll_absent (serves : s.stackServes (k / 16) = true) (absent : (s.slice k).line? q.part (q.addr / 128) = none) :
    s.serveAll k = s.post (if ((s.slice k).tlb? q.addr).isSome then .sliceMissFill k (q.addr / 128) else .walkRequest k (q.addr / 128)) := by
  rw [State.serveAll, waiting, List.length_singleton, State.serve]
  simp only [waiting, serves, absent]
  cases (s.slice k).tlb? q.addr <;> rfl

/-- The read that a slice performs once it has nothing else waiting. -/
theorem State.serveAll_read (serves : s.stackServes (k / 16) = true) {l : SliceLine} (noLocks : (s.slice k).filter = [])
    (present : (s.slice k).line? q.part (q.addr / 128) = some l) (clean : s.linePoison l = none) {n m : Nat} (read : q.access = .read n m) :
    s.serveAll k = (s.modSlice k fun sl => { sl with waiting := [] }).post
      (.loadResponse q.core q.strand (.slice k) (replyOk q.lane (lineBytes l.data (q.addr % 128) n) 0)) := by
  have noLocks' : ((s.modSlice k fun sl => { sl with waiting := [] }).slice k).filter = [] := by rw [State.slice_modSlice]; exact noLocks
  rw [State.serveAll_present waiting serves present, State.performSlice_read read noLocks' clean, State.serve_idle]
  · simp only [performReply, read]
  · rw [State.slice_post, State.slice_modSlice]

end

/-- A request joins an idle slice. -/
theorem exec_sliceAccess_idle {s : State} {k : Nat} (idle : (s.slice k).waiting = []) (q : Req) :
    exec (.sliceAccess k q) s = .next ((s.modSlice k fun sl => { sl with waiting := [q] }).serveAll k) := by
  change execSliceAccess k q s = _
  rw [execSliceAccess, State.enqueue, idle]
  simp only [State.modSlice, idle]
  rfl

/-! ### Walks (R325 to R328) -/

theorem Slice.walk?_setWalk (k : Slice) (w : Walk) : (k.setWalk w).walk? w.line = some w := by
  simp [Slice.walk?, Slice.setWalk]

theorem Slice.walk?_endWalk (k : Slice) (line : Nat) : (k.endWalk line).walk? line = none := by
  simp [Slice.walk?, Slice.endWalk]

theorem Slice.head?_cache (k : Slice) (e : TEntry) : (k.cache e).tcache.head? = some e := rfl

theorem Slice.line?_names {k : Slice} {part line : Nat} {l : SliceLine} (h : k.line? part line = some l) : l.part = part ∧ l.line = line := by
  have found := List.find?_some h
  simpa using found

theorem Slice.line?_putLine (k : Slice) (l : SliceLine) : (k.putLine l).line? l.part l.line = some l := by
  simp [Slice.line?, Slice.putLine]

/-- A walk that is given up answers the request, unless a write or an engine made it (R328). -/
theorem State.walkFails_answer {r : Req} (notWrite : ∀ a b v, r.access ≠ .write a b v) (notBack : ∀ a b, r.access ≠ .writeback a b)
    (notTouch : ∀ b, r.access ≠ .touch b) (s : State) (k : Nat) :
    s.walkFails k r = s.post (refuseReply r (.slice k) .walkRaceExhausted) := by
  unfold State.walkFails
  cases h : r.access with
  | write a b v => exact absurd h (notWrite a b v)
  | writeback a b => exact absurd h (notBack a b)
  | touch b => exact absurd h (notTouch b)
  | read | readAck | writeAck | rmw | fill => rfl

/-- A line installed at a slice that holds none. -/
theorem State.installLine_empty {s : State} {k : Nat} (empty : (s.slice k).lines = []) (part line : Nat) (e : TEntry) :
    s.installLine k part line e = s.modSlice k fun sl => sl.putLine
      { part, line, phys := e.key (line * 128), ps := e.ps, d := e.d, data := s.memLine (e.key (line * 128)), dirty := 0 } := by
  simp [State.installLine, empty]

/-! ### Answers (R64, R81) -/

/-- The answer of a scalar load reaches a strand whose destination is a register. -/
theorem State.answered_scalar {s : State} {c n : Nat} {d : Reg} {w : Nat} {sg : Bool} {r : Reply}
    (phase : (s.strand c n).phase? = some (.access (.scalar d w sg false) w [] 1 [r])) (plain : (s.strand c n).qmap = false)
    (good : r.err = none) :
    s.answered c n = (s.modStrand c n fun t => t.setGreg d (extendTo w sg r.value)).setPhase c n (.done none) := by
  obtain ⟨o, outst, access⟩ := Option.map_eq_some_iff.mp phase
  have notFull : s.fullPort c n d = false := by rw [State.fullPort, Strand.port?_none _ _ plain]
  have first : sortBy Reply.lane [r] = [r] := rfl
  simp only [State.answered, outst, access, List.length_singleton, first]
  simp only [List.findSome?, good, Dest.scalar?, notFull, State.deliver, List.headD]
  simp [s.writeG_plain c n d _ plain]

/-! ### The statement -/

/-- Settles O49, event by event. -/
theorem homeEvents : Obligations.HomeEvents := by
  unfold Obligations.HomeEvents
  intro s wf c n q key k send value
  refine ⟨fun awake locks ports clean => ⟨fun w m read => ?_, fun w v write some_ small => ?_, fun w x cmp rmw => ?_⟩,
    fun awake write locked => ?_, fun idle serves => ?_, fun l serves idle noLocks present clean => ⟨fun w m read => ?_, fun fill => ?_⟩,
    fun serves idle absent => ?_, ?_, fun line w walk same => ?_, fun d w sg h r on plain good phase => ?_, fun h refused on live => ?_⟩
  · rw [exec_portRequest_performs awake locks ports clean, read]
    simp only [State.applyPad, performReply, read]
    rfl
  · have wide : fullMask w ≠ 0 := fullMask_ne_zero w some_
    have applied : s.applyPad key q.access = (0, ((s.store key w v).bump (key / 128)).1, ((s.store key w v).bump (key / 128)).2) := by
      rw [write]
      simp only [State.applyPad]
      rw [if_neg wide, s.storeMasked_full key w v small]
    have run := exec_portRequest_performs awake locks ports clean
    have stored := State.stored_bump wf key w v (key / 128)
    obtain ⟨cores, agenda⟩ := s.cores_store_bump key w v (key / 128)
    rw [Nat.mod_eq_of_lt small] at stored
    dsimp only at run
    rw [applied] at run
    refine ⟨_, run, State.stored_of_mem stored rfl, cores, ?_⟩
    simp only [performReply, write]
    exact congrArg (· ++ _) agenda
  · let v := (s.load key w + x.toNat % 2 ^ (8 * w)) % 2 ^ (8 * w)
    have applied : s.applyPad key q.access = (s.load key w, ((s.store key w v).bump (key / 128)).1, ((s.store key w v).bump (key / 128)).2) := by
      rw [rmw]
      rfl
    have run := exec_portRequest_performs awake locks ports clean
    have stored := State.stored_bump wf key w v (key / 128)
    obtain ⟨cores, agenda⟩ := s.cores_store_bump key w v (key / 128)
    rw [Nat.mod_mod] at stored
    dsimp only at run
    rw [applied] at run
    refine ⟨_, run, State.stored_of_mem stored rfl, cores, ((s.store key w v).bump (key / 128)).1, ?_⟩
    simp only [performReply, rmw]
    exact congrArg (· ++ _) agenda
  · obtain ⟨w, v, write, some_⟩ := write
    obtain ⟨e, he, other, place, kind, low, high⟩ := locked
    have run : (0, w) ∈ accessRuns q.access := by simp [write, accessRuns, touchedRuns, fullMask]
    refine (exec_portRequest_refuses awake run ?_).trans ?_
    · have conflict : lockConflict e (e.core == q.core) true (q.addr + 0) w = true := by
        simp only [lockConflict, kind, overlaps, Bool.and_eq_true, decide_eq_true_iff]
        omega
      rw [State.padRefuses, Bool.or_eq_true]
      refine .inl (List.any_eq_true.mpr ⟨e, he, ?_⟩)
      rw [write, accessWrites, conflict, place]
      simp [other]
    · rw [refuseReply, write]
      rfl
  · rw [exec_sliceAccess_idle idle]
    refine congrArg _ (State.serveAll_unserved (q := q) ?_ serves)
    rw [State.slice_modSlice]
  · let u := s.modSlice c fun sl => { sl with waiting := [q] }
    have slice : u.slice c = { s.slice c with waiting := [q] } := s.slice_modSlice c _
    have served := State.serveAll_read (s := u) (k := c) (q := q) (by rw [slice]) serves (by rw [slice]; exact noLocks)
      (by rw [slice]; exact present) clean read
    refine ⟨_, (exec_sliceAccess_idle idle q).trans (congrArg _ served), rfl, ?_, rfl⟩
    rw [State.slice_post, State.slice_modSlice]
  · let u := s.modSlice c fun sl => { sl with waiting := [q] }
    have slice : u.slice c = { s.slice c with waiting := [q] } := s.slice_modSlice c _
    let w := u.modSlice c fun sl => { sl with waiting := [] }
    have slice' : w.slice c = { u.slice c with waiting := [] } := u.slice_modSlice c _
    have served := State.serveAll_present (s := u) (k := c) (q := q) (by rw [slice]) serves (by rw [slice]; exact present)
    have filled := State.performSlice_fill (s := w) (k := c) (l := l) fill (by rw [slice', slice]; exact noLocks) clean
    rw [filled, State.serve_idle (by rw [State.slice_post, slice'])] at served
    refine ⟨_, (exec_sliceAccess_idle idle q).trans (congrArg _ served), rfl, ?_⟩
    have line : l.line = q.addr / 128 := (Slice.line?_names present).2
    rw [line]
    rfl
  · let u := s.modSlice c fun sl => { sl with waiting := [q] }
    have slice : u.slice c = { s.slice c with waiting := [q] } := s.slice_modSlice c _
    have asked := State.serveAll_absent (s := u) (k := c) (q := q) (by rw [slice]) serves (by rw [slice]; exact absent)
    refine ⟨_, (exec_sliceAccess_idle idle q).trans (congrArg _ asked), rfl, ?_, ?_⟩
    · rw [State.slice_post, slice]
    · rw [slice]
      rfl
  · intro line waiting
    refine ⟨fun e w m absent tlb empty noLocks noPoison noKeys read whole serves keyServes => ?_, fun e absent tlb unserved => ?_,
      fun p part noWalk => ?_⟩
    · let u := s.modSlice c fun k => k.cache e
      have uslice : u.slice c = (s.slice c).cache e := s.slice_modSlice c _
      let l : SliceLine := { part := q.part, line, phys := e.key (line * 128), ps := e.ps, d := e.d,
                             data := s.memLine (e.key (line * 128)), dirty := 0 }
      let v := u.modSlice c fun sl => sl.putLine l
      have vslice : v.slice c = (u.slice c).putLine l := u.slice_modSlice c _
      have installed : u.installLine c q.part line e = v := State.installLine_empty (by rw [uslice]; exact empty) _ _ _
      have present : (v.slice c).line? q.part (q.addr / 128) = some l := by rw [vslice]; exact Slice.line?_putLine _ l
      have clean : v.linePoison l = none := by
        have noPoison : v.poison = [] := noPoison
        have noKeys : v.lineKeys = [] := noKeys
        simp [State.linePoison, State.poisoned?, noPoison, noKeys]
      have vwaiting : (v.slice c).waiting = [q] := by rw [vslice, uslice]; exact waiting
      have vlocks : (v.slice c).filter = [] := by rw [vslice, uslice]; exact noLocks
      have served := State.serveAll_read vwaiting serves vlocks present clean read
      have run : exec (.sliceMissFill c line) s = .next (v.serveAll c) := by
        have absent : ((s.slice c).line? q.part line).isSome = false := by rw [absent]; rfl
        change execSliceMissFill c line s = _
        rw [← installed]
        simp only [execSliceMissFill, waiting, absent, tlb, keyServes, line]
        rw [if_neg (not_not.mpr rfl), if_neg (by decide), if_neg (by decide)]
      rw [served] at run
      refine ⟨_, run, rfl, ?_, ?_, rfl⟩
      · rw [State.slice_post, State.slice_modSlice]
      · rw [State.slice_post, State.slice_modSlice]
        exact congrArg (Option.map SliceLine.data) present
    · have absent : ((s.slice c).line? q.part line).isSome = false := by rw [absent]; rfl
      change execSliceMissFill c line s = _
      simp only [execSliceMissFill, waiting, absent, tlb, unserved, line]
      rw [if_neg (not_not.mpr rfl), if_neg (by decide), if_pos (by decide)]
      rfl
    · change ∃ t, execWalkRequest c line s = _ ∧ _
      simp only [execWalkRequest, waiting, part, noWalk]
      refine ⟨_, rfl, rfl, rfl, ?_⟩
      rw [State.slice_post, State.slice_modSlice]
      exact Slice.walk?_setWalk _ _
  · intro e
    subst same
    refine ⟨fun good inner => ?_, fun good leaf whole => ?_, fun bad => ?_, ?_, fun r waiting late notWrite notBack notTouch => ?_⟩
    · change ∃ t, execWalkEntryReturn c w.line s = _ ∧ _
      have whole : e.hole = false := by simp [Pte.hole, inner]
      simp only [execWalkEntryReturn, walk]
      rw [if_neg (by simp [e, good, whole]), if_neg (by simp [e, inner])]
      refine ⟨_, rfl, rfl, ?_, rfl⟩
      rw [State.slice_post, State.slice_modSlice]
      exact Slice.walk?_setWalk _ _
    · change ∃ t, execWalkEntryReturn c w.line s = _ ∧ _
      simp only [execWalkEntryReturn, walk]
      rw [if_neg (by simp [e, good, whole]), if_pos leaf]
      refine ⟨_, rfl, rfl, ?_, ?_, rfl⟩
      · rw [State.slice_post, State.slice_modSlice]
        exact Slice.walk?_endWalk _ _
      · rw [State.slice_post, State.slice_modSlice]
        rfl
    · change execWalkEntryReturn c w.line s = _
      simp only [execWalkEntryReturn, walk]
      rw [if_pos (by simpa [e] using bad)]
      rfl
    · change ∃ t, execWalkRetry c w.line s = _ ∧ _
      simp only [execWalkRetry, walk]
      refine ⟨_, rfl, rfl, rfl, ?_⟩
      rw [State.slice_post, State.slice_modSlice]
      exact Slice.walk?_setWalk (s.slice c) { w with retries := w.retries + 1 }
    · change ∃ t x, execWalkRaceExhausted c w.line s = _ ∧ _
      let u := s.modSlice c fun k => k.endWalk w.line
      have uslice : u.slice c = (s.slice c).endWalk w.line := s.slice_modSlice c _
      have uwaiting : (u.slice c).waiting = [r] := by rw [uslice]; exact waiting
      let x : Report :=
        { time := u.clockOf r.core, location := location (c / 32) 2 0 5 (c % 32) 0, address := BitVec.ofNat 64 (2 ^ 63 + w.line * 128),
          syndrome := BitVec.ofNat 32 (64 * 256 + w.level), cause := causeCode .walkRaceExhausted, kind := 5, part := r.part }
      let t := ((u.report x).modSlice c fun k => { k with waiting := [] }).post (refuseReply r (.slice c) .walkRaceExhausted)
      have tslice : t.slice c = { u.slice c with waiting := [] } := by
        rw [State.slice_post, State.slice_modSlice]
        rfl
      have twaiting : (t.slice c).waiting = [] := by rw [tslice]
      refine ⟨t, x, ?_, rfl, rfl, rfl, rfl, twaiting, ?_, rfl⟩
      · have fails : ((u.report x).modSlice c fun k => { k with waiting := [] }).walkFails c r = t :=
          State.walkFails_answer notWrite notBack notTouch _ c
        rw [← State.serveAll_idle t c twaiting, ← fails]
        simp only [execWalkRaceExhausted, walk]
        rw [uwaiting]
        dsimp only
        rw [if_neg (Nat.not_lt.mpr late)]
      · rw [tslice, uslice]
        exact Slice.walk?_endWalk _ _
  · let o := s.setPhase c n (.access (.scalar d w sg false) w [] 1 [r])
    obtain ⟨x, outst, access⟩ := Option.map_eq_some_iff.mp phase
    have phase' : (o.strand c n).phase? = some (.access (.scalar d w sg false) w [] 1 [r]) := State.phase_setPhase outst _
    have run : exec (.loadResponse c n h r) s = .next (o.answered c n) := by
      change execLoadResponse c n h r s = _
      rw [execLoadResponse, State.arrive_answer on, phase]
      rfl
    let y : Outst := { x with phase := .access (.scalar d w sg false) w [] 1 [r] }
    have ostrand : o.strand c n = { s.strand c n with outst := some y } := State.strand_setPhase outst _
    let v := o.modStrand c n fun t => t.setGreg d (extendTo w sg r.value)
    have vstrand : v.strand c n = (o.strand c n).setGreg d (extendTo w sg r.value) := o.strand_modStrand c n _
    have voutst : (v.strand c n).outst = some y := by rw [vstrand, Strand.setGreg_outst, ostrand]
    have answered : o.answered c n = v.setPhase c n (.done none) :=
      State.answered_scalar phase' (by rw [ostrand]; exact plain) good
    have greg : ∀ a, ((v.setPhase c n (.done none)).strand c n).greg a = ((o.strand c n).setGreg d (extendTo w sg r.value)).greg a := by
      intro a
      rw [State.strand_setPhase voutst, ← vstrand]
      rfl
    rw [answered] at run
    refine ⟨_, run, State.phase_setPhase voutst _, rfl, ?_, fun a other => ?_⟩
    · rw [greg]
      split
      · rename_i zero
        rw [zero]
        exact if_pos rfl
      · rename_i notZero
        exact Strand.greg_setGreg _ _ _ notZero
    · rw [greg, Strand.greg_setGreg_other _ _ _ _ other, ostrand]
      rfl
  · change execPostedStoreAck c n h refused s = _
    have live : (s.strand c n).reaping = false := live
    rw [execPostedStoreAck, State.arrive_answer on, State.modStrand, State.modStrand, live]
    rfl

end Sys2Proof.Machine
end

section
/-! PROOFS. Events of the first-level cache, of instruction fetch and of a run's completion (R54, R55, R85, R122, R344). -/

namespace Sys2Proof.Machine

theorem State.modCore_congr (s : State) (c : Nat) {f g : Core → Core} (h : f (s.core c) = g (s.core c)) : s.modCore c f = s.modCore c g := by
  rw [State.modCore, State.modCore, h]

theorem State.modSlice_congr (s : State) (k : Nat) {f g : Slice → Slice} (h : f (s.slice k) = g (s.slice k)) :
    s.modSlice k f = s.modSlice k g := by
  rw [State.modSlice, State.modSlice, h]

theorem State.modStrand_congr (s : State) (c n : Nat) {f g : Strand → Strand} (h : f (s.strand c n) = g (s.strand c n)) :
    s.modStrand c n f = s.modStrand c n g := by
  rw [State.modStrand, State.modStrand, h]

/-- An outstanding instruction completes. -/
theorem State.done_of_outst {s : State} {c n : Nat} {o : Outst} (h : (s.strand c n).outst = some o) :
    s.done c n = s.modStrand c n fun t => { t with outst := some { o with phase := .done none } } := by
  rw [State.done_eq]
  refine s.modStrand_congr c n ?_
  rw [Strand.ended, h]
  rfl

/-! ### Write-backs of the L1 (R54, R70) -/

section
variable {s : State} {c line f : Nat} {fr : L1Frame} (on : (s.core c).switchedOut = false)
  (frame : (s.core c).frame? line = some (f, fr))
include on frame

/-- The answer to a write-back reaches what waits for it, and then the line's frame. -/
theorem exec_l1WritebackReply (performed : Bool) : exec (.l1WritebackReply c line performed) s =
    .next ((s.modCore c fun k => k.cleaned line performed).modCore c fun k =>
      if performed then
        if (fr.evict || decide (f / 128 < (s.core c).scr / 16384)) && fr.dirty == 0 && fr.quiet then k.freeFrame f
        else k.keepFrame f { fr with sent := 0, evict := fr.evict && fr.dirty == 0 && !fr.filling }
      else k.setFrame f { fr with dirty := fr.dirty ||| fr.sent, present := fr.present ||| fr.sent, sent := 0, refused := true,
                                  evict := false }) := by
  have told : (s.modCore c fun k => k.cleaned line performed).core c = (s.core c).cleaned line performed := s.core_modCore c _
  have frame' : ((s.core c).cleaned line performed).frame? line = some (f, fr) := frame
  change execL1WritebackReply c line performed s = _
  rw [execL1WritebackReply, State.arrive_answer on]
  dsimp only
  rw [told, frame']
  cases performed <;> rfl

/-- A frame that stays after a write-back that was performed. -/
theorem exec_l1WritebackReply_stays (stays : fr.evict = false) (inside : (s.core c).scr / 16384 ≤ f / 128) :
    exec (.l1WritebackReply c line true) s = .next ((s.modCore c fun k => k.cleaned line true).modCore c fun k =>
      k.setFrame f { fr with sent := 0, evict := false }) := by
  rw [exec_l1WritebackReply on frame]
  refine congrArg _ (State.modCore_congr _ c ?_)
  simp [stays, Nat.not_lt.mpr inside, Core.keepFrame, L1Frame.gone]

/-- A frame that is to leave and owes nothing more. -/
theorem exec_l1WritebackReply_leaves (leaves : fr.evict = true ∨ f / 128 < (s.core c).scr / 16384) (clean : fr.dirty = 0)
    (filled : fr.filling = false) (fresh : fr.stale = 0) :
    exec (.l1WritebackReply c line true) s = .next ((s.modCore c fun k => k.cleaned line true).modCore c fun k => k.freeFrame f) := by
  rw [exec_l1WritebackReply on frame]
  refine congrArg _ (State.modCore_congr _ c ?_)
  have go : (fr.evict || decide (f / 128 < (s.core c).scr / 16384)) = true := by simpa using leaves
  simp [go, clean, L1Frame.quiet, filled, fresh]

/-- The answer to a fill that was forgotten (R55). -/
theorem exec_l1FillResponse_stale (stale : fr.stale ≠ 0) (r : Fill) : exec (.l1FillResponse c line r) s =
    .next (s.modCore c fun k => k.keepFrame f { fr with stale := fr.stale - 1 }) := by
  change execL1FillResponse c line r s = _
  rw [execL1FillResponse, State.arrive_answer on, frame]
  exact if_pos stale

end

/-- A refused write-back is sent again with all that is dirty. -/
theorem exec_writebackRetry {s : State} {c f : Nat} {fr : L1Frame} (only : (s.core c).l1 = [(f, fr)]) (refused : fr.refused = true)
    (idle : fr.sent = 0) : exec (.writebackRetry c) s = .next (s.writeback c 0 f fr fr.evict) := by
  change execWritebackRetry c s = _
  rw [execWritebackRetry, State.resend, only]
  simp [refused, idle]

/-! ### Instruction fetch (R122, R156) -/

theorem exec_instructionFetchReturn {s : State} {c n : Nat} {l : SliceLine} (runs : (s.strand c n).life = .running)
    (live : (s.strand c n).reaping = false) (on : (s.core c).stopped = false) (noTrap : s.fetchTrap c (s.strand c n).pc = none)
    (noErr : (s.strand c n).fetchErr = none) (hand : s.lineAtHand (s.partOf c) (field 56 0 (s.strand c n).pc / 128) = true)
    (present : (s.slice (s.homeSlice (s.partOf c) (field 56 0 (s.strand c n).pc / 128))).line? (s.partOf c)
      (field 56 0 (s.strand c n).pc / 128) = some l) (clean : s.linePoison l = none) :
    exec (.instructionFetchReturn c n) s =
      .next (s.modCore c fun k => { k with icache := (l.line, l.data) :: k.icache.filter fun e => e.1 != l.line }) := by
  change execInstructionFetchReturn c n s = _
  simp [execInstructionFetchReturn, runs, live, on, noTrap, noErr, hand, present, clean]

/-! ### Completion (R85, R344) -/

/-- What a table of default values holds at a key is the default or listed. -/
theorem lookupD_mem {α : Type} (d : α) (k : Nat) (l : List (Nat × α)) : lookupD d k l = d ∨ (k, lookupD d k l) ∈ l := by
  induction l with
  | nil => exact .inl rfl
  | cons e r ih =>
    obtain ⟨j, v⟩ := e
    rw [lookupD]
    split
    · rename_i same
      exact .inr (by simp [same])
    · exact ih.imp id (List.mem_cons_of_mem _)

theorem State.writeFar_clean {s : State} (clean : ∀ e ∈ s.slices, ∀ l ∈ e.2.lines, l.far = true → l.dirty = 0) (part : Nat) :
    s.writeFar part = s := by
  have none (k : Nat) : ((s.slice k).lines.filter fun l => l.far && l.dirty != 0) = [] := by
    rw [List.filter_eq_nil_iff]
    intro l hl far
    rw [Bool.and_eq_true] at far
    refine absurd ?_ (by simpa using far.2)
    rcases lookupD_mem Slice.reset k s.slices with reset | listed
    · rw [State.slice, reset] at hl
      cases hl
    · exact clean _ listed l hl far.1
  unfold State.writeFar State.overSlices
  split
  · rfl
  · rename_i p _
    induction p.slices with
    | nil => rfl
    | cons k r ih =>
      rw [List.foldl_cons]
      dsimp only
      rw [none]
      exact ih

theorem exec_completionRelease {s : State} {c : Nat} {r : Run} (retired : (s.core c).retired = true) (noCopies : (s.core c).copies = [])
    (empty : (s.core c).l1 = []) (run : s.runOf c = some r) (live : r.life = .live)
    (clean : ∀ e ∈ s.slices, ∀ l ∈ e.2.lines, l.far = true → l.dirty = 0)
    (ended : ∀ x ∈ s.regionCores r, s.finished x = true ∧ Event.completionRelease x ∉ s.agenda) :
    exec (.completionRelease c) s = .next (s.post (.harvest r.part r.ctx)) := by
  have quiet : (s.core c).writingBack = false := by simp [Core.writingBack, empty]
  have noRefused : (s.core c).refusedLine? = none := by simp [Core.refusedLine?, empty]
  have cleaned : s.cleanAll c 0 = some s := s.cleanAll_clean c 0 (by simp [empty])
  have complete : s.runComplete r = true := by
    rw [State.runComplete, List.all_eq_true]
    intro x hx
    obtain ⟨finished, notDue⟩ := ended x hx
    simp [finished, notDue]
  change execCompletionRelease c s = _
  simp [execCompletionRelease, retired, noCopies, quiet, noRefused, cleaned, State.writeFar_clean clean, run, live, complete]

end Sys2Proof.Machine
end

section
/-! PROOFS. What reaches a core's waiting strands one by one: the answers to a fill (R54), and to a registration (R69 to R71). -/

namespace Sys2Proof.Machine

/-! ### Changes to one strand -/

/-- Of memory, a core's L1 and its strands, only strand n differs. -/
structure State.OnlyStrand (s t : State) (c n : Nat) : Prop where
  mem : t.mem = s.mem
  l1 : (t.core c).l1 = (s.core c).l1
  others : ∀ m, m % 16 ≠ n % 16 → t.strand c m = s.strand c m

section
variable {s t u : State} {c n : Nat}

theorem State.OnlyStrand.refl (s : State) (c n : Nat) : s.OnlyStrand s c n := ⟨rfl, rfl, fun _ _ => rfl⟩

theorem State.OnlyStrand.trans (h : s.OnlyStrand t c n) (h' : t.OnlyStrand u c n) : s.OnlyStrand u c n :=
  ⟨h'.mem.trans h.mem, h'.l1.trans h.l1, fun m hm => (h'.others m hm).trans (h.others m hm)⟩

/-- Nothing of memory and the cores differs. -/
theorem State.OnlyStrand.of_cores (cores : t.cores = s.cores) (mem : t.mem = s.mem) (c n : Nat) : s.OnlyStrand t c n := by
  have core : t.core c = s.core c := congrArg (lookupD Core.reset c) cores
  exact ⟨mem, congrArg Core.l1 core, fun m _ => congrArg (Core.strand · m) core⟩

theorem State.OnlyStrand.modStrand (s : State) (c n : Nat) (f : Strand → Strand) : s.OnlyStrand (s.modStrand c n f) c n :=
  ⟨rfl, by rw [State.core_modStrand]; rfl, fun m hm => s.strand_modStrand_other c n c m f (.inr hm)⟩

theorem State.OnlyStrand.modCore (s : State) (c n : Nat) {f : Core → Core} (l1 : (f (s.core c)).l1 = (s.core c).l1)
    (strands : (f (s.core c)).strands = (s.core c).strands) : s.OnlyStrand (s.modCore c f) c n :=
  ⟨rfl, by rw [State.core_modCore, l1], fun m _ => State.strand_modCore_keeps strands c m⟩

theorem State.OnlyStrand.setPhase (s : State) (c n : Nat) (p : Phase) : s.OnlyStrand (s.setPhase c n p) c n := .modStrand s c n _

theorem State.OnlyStrand.setErr (s : State) (c n : Nat) (cause : Cause) (a : Word) : s.OnlyStrand (s.setErr c n cause a) c n :=
  .modStrand s c n _

theorem State.OnlyStrand.modCluster (s : State) (c n k : Nat) (f : Cluster → Cluster) : s.OnlyStrand (s.modCluster k f) c n :=
  ⟨rfl, rfl, fun _ _ => rfl⟩

theorem State.OnlyStrand.writeG (s : State) (c n : Nat) (r : Reg) (v : Word) : s.OnlyStrand (s.writeG c n r v) c n := by
  unfold State.writeG
  split
  · exact .modCore s c n rfl rfl
  · exact .modStrand s c n _

theorem State.OnlyStrand.deliver (s : State) (c n : Nat) (d : Dest) (got : List Reply) : s.OnlyStrand (s.deliver c n d got) c n := by
  unfold State.deliver
  dsimp only
  split
  · exact .refl s c n
  · split
    · exact .trans (.modStrand s c n _) (.writeG _ c n _ _)
    · exact .writeG s c n _ _
  · exact .writeG s c n _ _
  · exact .modStrand s c n _
  · exact .modStrand s c n _
  · exact .modStrand s c n _
  · exact .modStrand s c n _
  · exact .modCluster s c n _ _

end

/-! ### Answers of fills (R54) -/

/-- A strand waits for no `join`. -/
def Strand.NoJoin (t : Strand) : Prop := ∀ m need want got, t.phase? ≠ some (.access .joined m need want got)

theorem State.OnlyStrand.answered {s : State} {c n : Nat} (h : (s.strand c n).NoJoin) : s.OnlyStrand (s.answered c n) c n := by
  unfold State.answered
  split
  · exact .refl s c n
  · rename_i o outst
    split
    · rename_i d w need want got phase
      have notJoined : d ≠ .joined := by
        rintro rfl
        exact h w need want got (by rw [Strand.phase?, outst, Option.map_some, phase])
      dsimp only
      split
      · exact .refl s c n
      · split
        · exact .setErr s c n _ _
        · split
          · split
            · split
              · exact .trans (.modStrand s c n _) (.setPhase _ c n _)
              · exact .setPhase s c n _
            · exact .trans (.deliver s c n _ _) (.setPhase _ c n _)
          · split
            · exact absurd rfl notJoined
            · exact .trans (.deliver s c n _ _) (.setPhase _ c n _)
    · exact .refl s c n

theorem State.OnlyStrand.answerNeeds {s : State} {c n : Nat} (h : (s.strand c n).NoJoin) (line : Nat) (err : Option Cause) :
    s.OnlyStrand (s.answerNeeds c n line err) c n := by
  unfold State.answerNeeds
  split
  · rename_i d w need want got phase
    dsimp only
    split
    · exact .refl s c n
    · refine .trans (.setPhase s c n _) (.answered fun m need' want' got' joined => ?_)
      obtain ⟨o, outst, -⟩ := Option.map_eq_some_iff.mp phase
      rw [State.phase_setPhase outst] at joined
      cases Option.some.inj joined
      exact h _ _ _ _ phase
  · exact .refl s c n

/-- A fill's answers, strand by strand, leave the L1 and memory alone. -/
theorem State.foldl_answerNeeds {c line : Nat} {err : Option Cause} {l : List Nat} (apart : l.Pairwise fun a b => a % 16 ≠ b % 16) (s : State)
    (noJoin : ∀ n ∈ l, (s.strand c n).NoJoin) :
    let t := l.foldl (fun s n => s.answerNeeds c n line err) s
    t.mem = s.mem ∧ (t.core c).l1 = (s.core c).l1 := by
  induction l generalizing s with
  | nil => exact ⟨rfl, rfl⟩
  | cons n r ih =>
    rw [List.pairwise_cons] at apart
    have step := State.OnlyStrand.answerNeeds (noJoin n (by simp)) line err
    obtain ⟨mem, l1⟩ := ih apart.2 (s.answerNeeds c n line err) fun m hm => by
      rw [step.others m (apart.1 m hm).symm]
      exact noJoin m (by simp [hm])
    exact ⟨mem.trans step.mem, l1.trans step.l1⟩

theorem range_apart : (List.range 16).Pairwise fun a b => a % 16 ≠ b % 16 := by decide

/-- A fill delivered whole to a frame that holds nothing. -/
theorem L1Frame.filled_whole {fr : L1Frame} {r : Fill} (clean : fr.dirty = 0) (idle : fr.sent = 0) (open_ : r.blocked = 0) :
    (fr.filled r).data = r.data ∧ (fr.filled r).present = BitVec.allOnes 128 ∧ (fr.filled r).filling = false := by
  have whole : ~~~(fr.dirty ||| fr.sent ||| r.blocked) = BitVec.allOnes 128 := by rw [clean, idle, open_]; decide
  have bits : (List.range 128).foldl (fun m i => if (BitVec.allOnes 128).getLsbD i then m + 255 * 2 ^ (8 * i) else m) 0 = fullMask 128 := by
    decide +kernel
  refine ⟨?_, ?_, rfl⟩
  · simp only [L1Frame.filled]
    rw [whole, bits, mergeBits_full 128 _ _ r.data.isLt fr.data.isLt, BitVec.ofNat_toNat, BitVec.setWidth_eq]
  · simp only [L1Frame.filled]
    rw [whole, BitVec.or_allOnes]

theorem exec_l1FillResponse_whole {s : State} {c line f : Nat} {fr : L1Frame} {r : Fill} (on : (s.core c).switchedOut = false)
    (frame : (s.core c).frame? line = some (f, fr)) (good : r.err = none) (fresh : fr.stale = 0)
    (noJoin : ∀ n, (s.strand c n).NoJoin) : ∃ t, exec (.l1FillResponse c line r) s = .next t ∧ t.mem = s.mem ∧
      (t.core c).frame? line = some (f, fr.filled r) := by
  let u := s.modCore c fun k => k.setFrame f (fr.filled r)
  have core : u.core c = (s.core c).setFrame f (fr.filled r) := s.core_modCore c _
  obtain ⟨mem, l1⟩ := State.foldl_answerNeeds (c := c) (line := line) (err := none) range_apart u fun n _ => by
    rw [State.strand, core]
    exact noJoin n
  refine ⟨_, ?_, mem, ?_⟩
  rotate_left
  · rw [Core.frame?, l1, core]
    refine Core.frame?_setFrame (show fr.line = line from Core.frame?_line frame) fun e he => ?_
    rw [frame] at he
    rw [← Option.some.inj he]
  · change execL1FillResponse c line r s = _
    rw [execL1FillResponse, State.arrive_answer on, frame]
    dsimp only
    rw [if_neg (not_not.mpr fresh), good]

/-! ### Answers to a registration (R69, R71, R220, R253) -/

theorem State.l1_leave (c fuel i : Nat) (s : State) (d : Nat) : ((State.leave c fuel i s).core d).l1 = (s.core d).l1 := by
  have same (s : State) (c : Nat) (f : Core → Core) (h : ∀ k, (f k).l1 = k.l1) : ((s.modCore c f).core d).l1 = (s.core d).l1 := by
    by_cases here : d = c
    · rw [here, State.core_modCore, h]
    · rw [State.core_modCore_other _ _ _ _ here]
  exact State.leave_keeps (fun s => (s.core d).l1) (fun s c _ => same s c _ fun _ => rfl) (fun s c _ => same s c _ fun _ => rfl)
    (fun _ _ => rfl) (fun _ _ _ => rfl) c fuel i s

/-- The end of what a handle named changes no strand. -/
theorem State.strand_releaseHandle (s : State) (c n : Nat) (h : Handle) (d m : Nat) : (s.releaseHandle c n h).strand d m = s.strand d m := by
  cases h with
  | empty => rfl
  | node i =>
    change (s.reconsider c i).strand d m = _
    unfold State.reconsider
    split
    · rfl
    · exact State.strand_leave c 100 i s d m
  | value b _ _ _ _ _ => exact State.freeBank_keeps (fun s => s.strand d m) (fun _ _ _ => rfl) s c n b

theorem State.mem_releaseHandle (s : State) (c n : Nat) (h : Handle) : (s.releaseHandle c n h).mem = s.mem := by
  cases h with
  | empty => rfl
  | node i =>
    change (s.reconsider c i).mem = _
    unfold State.reconsider
    split
    · rfl
    · exact State.mem_leave c 100 i s
  | value b _ _ _ _ _ => exact State.freeBank_keeps State.mem (fun _ _ _ => rfl) s c n b

theorem State.strand_putHandle (s : State) (c n : Nat) (m : Tile) (h : Handle) :
    (s.putHandle c n m h).strand c n = (s.strand c n).setHandle m h := by
  rw [State.putHandle, State.strand_releaseHandle, State.strand_modStrand]

theorem State.strand_putHandle_other (s : State) (c n : Nat) (m : Tile) (h : Handle) {j : Nat} (hj : j % 16 ≠ n % 16) :
    (s.putHandle c n m h).strand c j = s.strand c j := by
  rw [State.putHandle, State.strand_releaseHandle, State.strand_modStrand_other _ _ _ _ _ _ (.inr hj)]

theorem State.mem_putHandle (s : State) (c n : Nat) (m : Tile) (h : Handle) : (s.putHandle c n m h).mem = s.mem := by
  rw [State.putHandle, State.mem_releaseHandle]
  rfl

theorem State.strand_modCopy (s : State) (c id : Nat) (f : Copy → Copy) (d m : Nat) : (s.modCopy c id f).strand d m = s.strand d m :=
  State.strand_modCore_keeps rfl d m

/-- A copy whose registrations are complete goes on; no strand changes. -/
theorem State.strand_copyReady (s : State) (c id d m : Nat) : (s.copyReady c id).strand d m = s.strand d m := by
  unfold State.copyReady
  split
  · rfl
  · split
    · dsimp only
      split <;> exact s.strand_modCopy c id _ d m
    · exact s.strand_modCopy c id _ d m

theorem State.mem_copyReady (s : State) (c id : Nat) : (s.copyReady c id).mem = s.mem := by
  unfold State.copyReady
  split
  · rfl
  · split
    · dsimp only
      split <;> rfl
    · rfl

/-- The home's acknowledgement of a registration that waits for nothing else names the tile and completes the instruction. -/
theorem State.answerStrand_last {s : State} {c n lock i : Nat} {h : Home} {m : Tile} {first : Word}
    (phase : (s.strand c n).phase? = some (.register [(lock, h)] [] first (some (i, m)) none)) :
    s.answerStrand c n lock h .acked = (s.putHandle c n m (.node i)).done c n := by
  simp only [State.answerStrand, phase]
  simp [State.registered]

theorem State.registered_keeps (s : State) (c j : Nat) (node : Option (Nat × Tile)) (copy : Option Nat) :
    (s.registered c j node copy).mem = s.mem ∧ ∀ n, n % 16 ≠ j % 16 → (s.registered c j node copy).strand c n = s.strand c n := by
  have done (u : State) (n : Nat) (hn : n % 16 ≠ j % 16) : (u.done c j).strand c n = u.strand c n :=
    u.strand_modStrand_other _ _ _ _ _ (.inr hn)
  unfold State.registered
  dsimp only
  refine ⟨?_, fun n hn => (done _ n hn).trans ?_⟩
  · cases copy with
    | none => cases node with
      | none => rfl
      | some e => exact s.mem_putHandle c j e.2 (.node e.1)
    | some id => cases node with
      | none => exact s.mem_copyReady c id
      | some e => exact (State.mem_copyReady _ c id).trans (s.mem_putHandle c j e.2 (.node e.1))
  · cases copy with
    | none => cases node with
      | none => rfl
      | some e => exact s.strand_putHandle_other c j e.2 (.node e.1) hn
    | some id => cases node with
      | none => exact s.strand_copyReady c id c n
      | some e => exact (State.strand_copyReady _ c id c n).trans (s.strand_putHandle_other c j e.2 (.node e.1) hn)

/-- An acknowledgement for one strand leaves the others and memory alone. -/
theorem State.answerStrand_keeps (s : State) (c j lock : Nat) (h : Home) :
    (s.answerStrand c j lock h .acked).mem = s.mem ∧
      ∀ n, n % 16 ≠ j % 16 → (s.answerStrand c j lock h .acked).strand c n = s.strand c n := by
  unfold State.answerStrand
  split
  · split
    · exact ⟨rfl, fun _ _ => rfl⟩
    · dsimp only
      split
      · exact s.registered_keeps c j _ _
      · exact ⟨rfl, fun n hn => s.strand_modStrand_other _ _ _ _ _ (.inr hn)⟩
  · exact ⟨rfl, fun _ _ => rfl⟩

/-- A strand of a fold over strands that each step changes alone. -/
theorem State.foldl_strands_once {f : State → Nat → State} {c : Nat}
    (keeps : ∀ s j, (f s j).mem = s.mem ∧ ∀ n, n % 16 ≠ j % 16 → (f s j).strand c n = s.strand c n) {n : Nat} (hn : n < 16) (s : State) :
    ((List.range 16).foldl f s).mem = s.mem ∧
      ∃ u : State, u.strand c n = s.strand c n ∧ ((List.range 16).foldl f s).strand c n = (f u n).strand c n := by
  have mem (l : List Nat) (u : State) : (l.foldl f u).mem = u.mem := foldl_keeps State.mem f (fun s j => (keeps s j).1) l u
  have others (l : List Nat) (apart : ∀ j ∈ l, n % 16 ≠ j % 16) (u : State) : (l.foldl f u).strand c n = u.strand c n := by
    induction l generalizing u with
    | nil => rfl
    | cons j r ih =>
      rw [List.foldl_cons, ih (fun i hi => apart i (by simp [hi]))]
      exact (keeps u j).2 n (apart j (by simp))
  obtain ⟨pre, post, split⟩ := List.append_of_mem (List.mem_range.mpr hn)
  have apart := range_apart
  rw [split, List.pairwise_append, List.pairwise_cons] at apart
  obtain ⟨-, ⟨after, -⟩, before⟩ := apart
  refine ⟨mem _ s, pre.foldl f s, others pre (fun j hj => (before j hj n (by simp)).symm) s, ?_⟩
  rw [split, List.foldl_append, List.foldl_cons]
  exact others post (fun j hj => after j hj) _

/-! ### What copies that end leave of the strands (R116, R253) -/

/-- A strand whose instruction is complete has kept all but it. -/
def Strand.DoneAs (t u : Strand) : Prop := t.SameBut u ∧ (t.phase? = some (.done none) → u.phase? = some (.done none))

theorem Strand.DoneAs.refl (t : Strand) : t.DoneAs t := ⟨⟨_, rfl⟩, id⟩

theorem Strand.DoneAs.trans {t u v : Strand} (h : t.DoneAs u) (h' : u.DoneAs v) : t.DoneAs v := ⟨h.1.trans h'.1, h'.2 ∘ h.2⟩

theorem Strand.DoneAs.rejoined (t : Strand) (idx : Nat) (red : Bool) : t.DoneAs (t.rejoined idx red) := by
  refine ⟨⟨_, rfl⟩, fun h => ?_⟩
  obtain ⟨o, outst, phase⟩ := Option.map_eq_some_iff.mp h
  rw [Strand.phase?, Strand.rejoined, outst]
  simp [phase, Phase.rejoined]

theorem State.doneAs_forsake (s : State) (c : Nat) (who : Arriver) (n : Nat) : (s.strand c n).DoneAs ((s.forsake c who).strand c n) := by
  rw [State.forsake]
  generalize ((s.core c).arrivals.filter fun a => a.arriver == who && !a.sent) = l
  induction l generalizing s with
  | nil => exact .refl _
  | cons a r ih =>
    rw [List.foldl_cons]
    refine .trans ?_ (ih _)
    rw [State.strand_rejoin]
    exact .rejoined _ _ _

theorem State.doneAs_endCopy (s : State) (c id code n : Nat) : (s.strand c n).DoneAs ((s.endCopy c id code).strand c n) := by
  unfold State.endCopy
  split
  · exact .refl _
  · have ended (f : Copy → Copy) : (s.strand c n).DoneAs (((s.forsake c (.copy id)).modCopy c id f).strand c n) := by
      rw [State.strand_modCopy]
      exact s.doneAs_forsake c (.copy id) n
    dsimp only
    split
    · exact ended _
    · exact ended _

theorem State.mem_endCopy (s : State) (c id code : Nat) : (s.endCopy c id code).mem = s.mem := by
  unfold State.endCopy
  split
  · rfl
  · dsimp only
    split <;> exact s.mem_forsake c (.copy id)

/-- An acknowledgement for a copy's registration. -/
theorem State.doneAs_answerCopy (s : State) (c lock : Nat) (h : Home) (k : Copy) (n : Nat) :
    (s.strand c n).DoneAs ((s.answerCopy c lock h .acked k).strand c n) ∧ (s.answerCopy c lock h .acked k).mem = s.mem := by
  have modCopy (f : Copy → Copy) : (s.strand c n).DoneAs ((s.modCopy c k.id f).strand c n) := by
    rw [State.strand_modCopy]
    exact .refl _
  unfold State.answerCopy
  split
  · split
    · exact ⟨.refl _, rfl⟩
    · simp only [↓reduceIte]
      split
      · exact ⟨modCopy _, rfl⟩
      · split
        · exact ⟨modCopy _, rfl⟩
        · split
          · exact ⟨s.doneAs_endCopy c k.id 0x07 n, s.mem_endCopy c k.id 0x07⟩
          · exact ⟨modCopy _, rfl⟩
  · exact ⟨.refl _, rfl⟩

theorem State.doneAs_foldl {f : State → Copy → State} {c n : Nat}
    (keeps : ∀ s k, (s.strand c n).DoneAs ((f s k).strand c n) ∧ (f s k).mem = s.mem) (l : List Copy) (s : State) :
    (s.strand c n).DoneAs ((l.foldl f s).strand c n) ∧ (l.foldl f s).mem = s.mem := by
  induction l generalizing s with
  | nil => exact ⟨.refl _, rfl⟩
  | cons k r ih =>
    obtain ⟨strand, mem⟩ := keeps s k
    obtain ⟨strand', mem'⟩ := ih (f s k)
    exact ⟨strand.trans strand', mem'.trans mem⟩

theorem exec_lockRegistrationAck_last {s : State} {c n lock i : Nat} {h : Home} {m : Tile} {first : Word}
    (on : (s.core c).switchedOut = false) (hn : n < 16)
    (phase : (s.strand c n).phase? = some (.register [(lock, h)] [] first (some (i, m)) none)) :
    ∃ t, exec (.lockRegistrationAck c lock h .acked) s = .next t ∧ (t.strand c n).phase? = some (.done none) ∧
      (t.strand c n).handle m = .node i ∧ t.mem = s.mem := by
  let f : State → Nat → State := fun s n => s.answerStrand c n lock h .acked
  obtain ⟨mem, u, same, strand⟩ := State.foldl_strands_once (f := f) (fun s j => s.answerStrand_keeps c j lock h) hn s
  let v := (List.range 16).foldl f s
  obtain ⟨⟨⟨o, kept⟩, done⟩, mem'⟩ := State.doneAs_foldl (f := fun s k => s.answerCopy c lock h .acked k)
    (fun s k => s.doneAs_answerCopy c lock h k n) (v.core c).copies v
  have answered : v.strand c n = ((u.strand c n).setHandle m (.node i)).ended := by
    refine strand.trans ?_
    change (u.answerStrand c n lock h .acked).strand c n = _
    rw [State.answerStrand_last (by rw [same]; exact phase), State.done_eq, State.strand_modStrand, State.strand_putHandle]
  obtain ⟨x, outst, -⟩ := Option.map_eq_some_iff.mp phase
  refine ⟨_, ?_, done ?_, ?_, mem'.trans mem⟩
  · change execLockRegistrationAck c lock h .acked s = _
    rw [execLockRegistrationAck, State.arrive_answer on]
  · rw [answered, same, Strand.phase?, Strand.ended]
    simp [Strand.setHandle, outst]
  · rw [kept, answered]
    simp [Strand.handle, Strand.ended, Strand.setHandle]

end Sys2Proof.Machine
end

section
/-!
PROOFS. The dirty and invalidation logs of a reticle (R332, R333): a merge goes entry by entry and touches the copies of a leaf
only; an invalidation drops what it covers, and nothing enters a slice with it.
-/
namespace Sys2Proof.Machine

open Host

/-! ### The merge of a dirty log -/

theorem State.pte_of_mem {s t : State} (mem : t.mem = s.mem) (table level va : Nat) : t.pte table level va = s.pte table level va := by
  rw [State.pte, State.pte, State.load_of_mem mem]

theorem State.walkFrom_of_mem {s t : State} (mem : t.mem = s.mem) (va fuel level table : Nat) :
    t.walkFrom va fuel level table = s.walkFrom va fuel level table := by
  induction fuel generalizing level table with
  | zero => rw [State.walkFrom, State.walkFrom, State.pte_of_mem mem]
  | succ fuel ih => simp only [State.walkFrom, State.pte_of_mem mem, ih]

theorem State.leafOf_congr {s t : State} (mem : t.mem = s.mem) (parts : t.partitions = s.partitions) (part va : Nat) :
    t.leafOf part va = s.leafOf part va := by
  have same : t.partition? part = s.partition? part := by rw [State.partition?, State.partition?, parts]
  simp only [State.leafOf, same, State.walkFrom_of_mem mem]

/-- A walk that ends in a leaf ends in an entry whose bits above the tier and frame are clear (R326). -/
theorem State.walkFrom_ok_lt {s : State} {va fuel level table : Nat} {r : Nat × Pte} (h : s.walkFrom va fuel level table = .ok r) :
    r.2.raw < 2 ^ 56 := by
  induction fuel generalizing level table with
  | zero => cases h
  | succ fuel ih =>
    simp only [State.walkFrom] at h
    split at h
    · cases h
    next good =>
      split at h
      · cases h
        simp only [Bool.not_eq_true', Bool.not_eq_false, Pte.good, Bool.and_eq_true, beq_iff_eq] at good
        exact Nat.lt_of_div_eq_zero (by decide) good.1.1.2
      · exact ih h

theorem State.leafOf_lt {s : State} {part va : Nat} {e : Pte} (h : s.leafOf part va = some e) : e.raw < 2 ^ 56 := by
  unfold State.leafOf at h
  split at h
  · cases h
  next p _ =>
    split at h
    next level found walked =>
      cases h
      exact State.walkFrom_ok_lt walked
    · cases h

theorem State.writeLeaf_frame (s : State) (e : Pte) (v : Nat) : ∃ m, s.writeLeaf e v = { s with mem := m } := by
  unfold State.writeLeaf
  generalize e.copies = l
  induction l generalizing s with
  | nil => exact ⟨_, rfl⟩
  | cons a l ih =>
    obtain ⟨m, stored⟩ := s.store_frame (tierKey 0 a) 8 v
    rw [List.foldl_cons, stored]
    exact ih _

theorem State.writeLeaf_of_mem {s t : State} (mem : t.mem = s.mem) (e : Pte) (v : Nat) : (t.writeLeaf e v).mem = (s.writeLeaf e v).mem := by
  unfold State.writeLeaf
  generalize e.copies = l
  induction l generalizing s t with
  | nil => exact mem
  | cons a l ih =>
    rw [List.foldl_cons, List.foldl_cons]
    exact ih (s := s.store (tierKey 0 a) 8 v) (t := t.store (tierKey 0 a) 8 v) (State.store_of_mem mem _ _ _)

theorem State.writeLeaf_setReticle (s : State) (site : Nat) (r : Reticle) (e : Pte) (v : Nat) :
    (s.setReticle site r).writeLeaf e v = (s.writeLeaf e v).setReticle site r := by
  have mem := State.writeLeaf_of_mem (s := s) (t := s.setReticle site r) rfl e v
  obtain ⟨m, stored⟩ := s.writeLeaf_frame e v
  obtain ⟨m', stored'⟩ := (s.setReticle site r).writeLeaf_frame e v
  rw [stored, stored'] at mem
  obtain rfl : m' = m := mem
  rw [stored, stored']
  rfl

/-- What the merge of one entry does, by the leaf its page has. -/
def State.mergedWith (s : State) (part : Nat) (w : Word) : Option Pte → State
  | none =>
    if s.changes.any fun x => x.undirtied part (field 44 0 w * 4096) then
      { s with changes := s.changes.map fun x =>
        if x.undirtied part (field 44 0 w * 4096) then { x with move := x.move.map fun m => { m with raw := m.raw + 32 } } else x }
    else s
  | some e => if e.d then s else s.writeLeaf e (e.raw + 32)

theorem State.mergeEntry_eq (s : State) (part : Nat) (w : Word) :
    (s.mergeEntry part w).2 = s.mergedWith part w (s.leafOf part (field 44 0 w * 4096)) := by
  rw [State.mergeEntry]
  cases s.leafOf part (field 44 0 w * 4096) with
  | none =>
    dsimp only [State.mergedWith]
    split <;> rfl
  | some e =>
    dsimp only [State.mergedWith]
    split <;> rfl

/-- A merge of one entry depends on, and changes, memory and the changes under way only. -/
theorem State.mergeEntry_setReticle (s : State) (part : Nat) (w : Word) (site : Nat) (r : Reticle) :
    ((s.setReticle site r).mergeEntry part w).2 = (s.mergeEntry part w).2.setReticle site r := by
  rw [State.mergeEntry_eq, State.mergeEntry_eq, State.leafOf_congr (s := s) (t := s.setReticle site r) rfl rfl]
  cases s.leafOf part (field 44 0 w * 4096) with
  | none =>
    rw [State.mergedWith, State.mergedWith, apply_ite (State.setReticle · site r)]
    rfl
  | some e =>
    dsimp only [State.mergedWith]
    split
    · rfl
    · exact s.writeLeaf_setReticle site r e _

theorem State.mergeEntry_keeps (s : State) (part : Nat) (w : Word) :
    (s.mergeEntry part w).2.partitions = s.partitions ∧ (s.mergeEntry part w).2.reticles = s.reticles := by
  rw [State.mergeEntry_eq]
  cases s.leafOf part (field 44 0 w * 4096) with
  | none =>
    dsimp only [State.mergedWith]
    split <;> exact ⟨rfl, rfl⟩
  | some e =>
    dsimp only [State.mergedWith]
    split
    · exact ⟨rfl, rfl⟩
    · obtain ⟨m, stored⟩ := s.writeLeaf_frame e (e.raw + 32)
      rw [stored]
      exact ⟨rfl, rfl⟩

/-- The state once a log's entries are merged, the log itself apart. -/
def State.merged (s : State) (part : Nat) (log : List Word) : State := log.foldl (fun s w => (s.mergeEntry part w).2) s

theorem State.merged_setReticle (s : State) (part : Nat) (log : List Word) (site : Nat) (r : Reticle) :
    (s.setReticle site r).merged part log = (s.merged part log).setReticle site r := by
  induction log generalizing s with
  | nil => rfl
  | cons w ws ih =>
    rw [State.merged, List.foldl_cons, State.mergeEntry_setReticle]
    exact ih _

theorem State.setReticle_setReticle (s : State) (site : Nat) (q r : Reticle) :
    (s.setReticle site q).setReticle site r = s.setReticle site r := by
  rw [State.setReticle, State.setReticle, State.setReticle, assign_assign]

theorem State.partAt_congr {s t : State} (h : t.partitions = s.partitions) (site : Nat) : t.partAt site = s.partAt site := by
  rw [State.partAt, State.partAt, h]

theorem exec_dirtyLogMerge {s : State} {site : Nat} {p : Partition} (here : s.partAt site = some p) :
    exec (.dirtyLogMerge site) s =
      .next ((s.merged p.num (s.reticle site).dirtyLog).setReticle site { s.reticle site with dirtyLog := [] }) := by
  have second (l : List Word) (a : Nat × State) :
      (l.foldl (fun a w => (a.1 + (a.2.mergeEntry p.num w).1, (a.2.mergeEntry p.num w).2)) a).2 = a.2.merged p.num l := by
    induction l generalizing a with
    | nil => rfl
    | cons w ws ih => exact ih _
  change execDirtyLogMerge site s = _
  rw [execDirtyLogMerge, State.mergeLog, here]
  exact congrArg (fun t : State => (.next (t.setReticle site { s.reticle site with dirtyLog := [] }) : Out))
    (second _ (0, s))

/-- The merge of a state whose log is given. -/
theorem exec_dirtyLogMerge_logged {s : State} {site : Nat} {p : Partition} (here : s.partAt site = some p) (r : Reticle) :
    exec (.dirtyLogMerge site) (s.setReticle site r) = .next ((s.merged p.num r.dirtyLog).setReticle site { r with dirtyLog := [] }) := by
  rw [exec_dirtyLogMerge (s := s.setReticle site r) (p := p) ((State.partAt_congr rfl site).trans here),
    State.reticle_setReticle, State.merged_setReticle,
    State.setReticle_setReticle]

theorem Pte.copies_aligned {e : Pte} {a : Nat} (h : a ∈ e.copies) : a % 8 = 0 := by
  obtain ⟨i, -, rfl⟩ := List.mem_map.mp h
  generalize e.at_ / _ = q
  rw [← Nat.mul_assoc, Nat.mul_comm q 8, Nat.mul_assoc, ← Nat.mul_add, Nat.mul_mod_right]

theorem tierKey_aligned {a : Nat} (aligned : a % 8 = 0) : tierKey 0 a % 8 = 0 := by
  rw [tierKey]
  omega

/-- A word that stands at an aligned address still stands there once it is stored at others. -/
theorem State.load_stores_holds {v : Nat} (word : v < 2 ^ 64) {l : List Nat} (aligned : ∀ a ∈ l, a % 8 = 0) {b : Nat} (here : b % 8 = 0)
    {s : State} (wf : Memory.wf s.mem = true) (holds : s.load (tierKey 0 b) 8 = v) :
    (l.foldl (fun s a => s.store (tierKey 0 a) 8 v) s).load (tierKey 0 b) 8 = v := by
  induction l generalizing s with
  | nil => exact holds
  | cons a l ih =>
    obtain ⟨first, rest⟩ := List.forall_mem_cons.mp aligned
    rw [List.foldl_cons]
    refine ih rest (s.wf_store _ _ _ wf) ?_
    have atB := tierKey_aligned here
    have atA := tierKey_aligned first
    by_cases same : tierKey 0 b = tierKey 0 a
    · rw [same, s.load_store _ _ _ wf]
      exact Nat.mod_eq_of_lt word
    · rw [s.load_store_other _ _ _ _ _ (by omega) wf, holds]

/-- A leaf's word is written at each of its copies, and nowhere else (R327). -/
theorem State.writeLeaf_copies {s : State} (wf : Memory.wf s.mem = true) (e : Pte) {v : Nat} (word : v < 2 ^ 64) :
    (∀ a ∈ e.copies, (s.writeLeaf e v).load (tierKey 0 a) 8 = v) ∧
      ∀ j, (∀ a ∈ e.copies, j < tierKey 0 a ∨ tierKey 0 a + 8 ≤ j) → (s.writeLeaf e v).byte j = s.byte j := by
  unfold State.writeLeaf
  have aligned : ∀ a ∈ e.copies, a % 8 = 0 := fun a => Pte.copies_aligned
  generalize e.copies = l at aligned
  constructor
  · induction l generalizing s with
    | nil => exact fun a h => absurd h List.not_mem_nil
    | cons b l ih =>
      obtain ⟨first, rest⟩ := List.forall_mem_cons.mp aligned
      intro a h
      rw [List.foldl_cons]
      rcases List.mem_cons.mp h with rfl | later
      · refine State.load_stores_holds word rest first (s.wf_store _ _ _ wf) ?_
        rw [s.load_store _ _ _ wf]
        exact Nat.mod_eq_of_lt word
      · exact ih (s.wf_store _ _ _ wf) rest a later
  · intro j outside
    clear aligned
    induction l generalizing s with
    | nil => rfl
    | cons b l ih =>
      obtain ⟨first, rest⟩ := List.forall_mem_cons.mp outside
      rw [List.foldl_cons, ih (s.wf_store _ _ _ wf) rest, s.byte_store_other _ _ _ _ first wf]

/-- The D bit a log's entry sets (R332). -/
theorem State.mem_mergeEntry {s : State} {part : Nat} {w : Word} {e : Pte} (leaf : s.leafOf part (w.toNat % 2 ^ 45 * 4096) = some e) :
    (s.mergeEntry part w).2.mem = if e.d then s.mem else (s.writeLeaf e (e.raw + 32)).mem := by
  have va : field 44 0 w = w.toNat % 2 ^ 45 := by rw [field, Nat.pow_zero, Nat.div_one]
  rw [State.mergeEntry_eq, va, leaf, State.mergedWith, apply_ite State.mem]

theorem State.mergeEntry_leaf {s : State} (wf : Memory.wf s.mem = true) {part : Nat} {w : Word} {e : Pte}
    (leaf : s.leafOf part (w.toNat % 2 ^ 45 * 4096) = some e) {t : State} (mem : t.mem = (s.mergeEntry part w).2.mem) :
    (e.d = true → t.mem = s.mem) ∧ (e.d = false → (∀ a ∈ e.copies, t.load (tierKey 0 a) 8 = e.raw + 32) ∧
      ∀ j, (∀ a ∈ e.copies, j < tierKey 0 a ∨ tierKey 0 a + 8 ≤ j) → t.byte j = s.byte j) := by
  rw [State.mem_mergeEntry leaf] at mem
  refine ⟨fun set => by rw [mem, set, if_pos rfl], fun clear => ?_⟩
  rw [clear, if_neg Bool.false_ne_true] at mem
  have bound := State.leafOf_lt leaf
  obtain ⟨copies, others⟩ := State.writeLeaf_copies wf e (v := e.raw + 32) (by omega)
  refine ⟨fun a h => ?_, fun j h => ?_⟩
  · rw [State.load_of_mem mem, copies a h]
  · rw [State.byte_of_mem mem, others j h]

/-! ### The invalidation log -/

/-- From s to t the slices have only lost lines and translations, where no page is being moved; logs and changes are as before. -/
structure State.Shrinks (s t : State) : Prop where
  reticles : t.reticles = s.reticles
  changes : t.changes = s.changes
  slices : s.changes = [] → ∀ k, (∀ l ∈ (t.slice k).lines, l ∈ (s.slice k).lines) ∧ ∀ e ∈ (t.slice k).tcache, e ∈ (s.slice k).tcache

namespace State.Shrinks

theorem refl (s : State) : s.Shrinks s := ⟨rfl, rfl, fun _ _ => ⟨fun _ => id, fun _ => id⟩⟩

theorem trans {s t u : State} (h : s.Shrinks t) (h' : t.Shrinks u) : s.Shrinks u where
  reticles := h'.reticles.trans h.reticles
  changes := h'.changes.trans h.changes
  slices still k :=
    have first := h.slices still k
    have second := h'.slices (h.changes.trans still) k
    ⟨fun l hl => first.1 l (second.1 l hl), fun e he => first.2 e (second.2 e he)⟩

theorem foldl {α : Type} {f : State → α → State} (step : ∀ s x, State.Shrinks s (f s x)) (l : List α) (s : State) :
    s.Shrinks (l.foldl f s) := by
  induction l generalizing s with
  | nil => exact refl s
  | cons x l ih => exact (step s x).trans (ih _)

/-- An update of one slice that adds nothing to it, where no page is being moved. -/
theorem modSlice {s : State} {k : Nat} {f : Slice → Slice}
    (step : s.changes = [] → (∀ l ∈ (f (s.slice k)).lines, l ∈ (s.slice k).lines) ∧ ∀ e ∈ (f (s.slice k)).tcache, e ∈ (s.slice k).tcache) :
    s.Shrinks (s.modSlice k f) where
  reticles := rfl
  changes := rfl
  slices still j := by
    by_cases h : j = k
    · rw [h, State.slice_modSlice]
      exact step still
    · rw [State.slice, State.modSlice, State.setSlice, lookupD_assign_other _ _ _ _ _ h]
      exact ⟨fun _ => id, fun _ => id⟩

end State.Shrinks

theorem State.setMasked_frame (s : State) (key : Nat) (data : Line) (mask : LineMask) :
    ∃ m, s.setMasked key data mask = { s with mem := m } := by
  unfold State.setMasked
  generalize List.range 128 = l
  induction l generalizing s with
  | nil => exact ⟨_, rfl⟩
  | cons i l ih =>
    rw [List.foldl_cons]
    split
    · exact ih _
    · exact ih _

/-- A write-back of a slice's line leaves slices, logs and changes. -/
theorem State.shrinks_writeLine (s : State) (l : SliceLine) : s.Shrinks (s.writeLine l) := by
  have kept (t : State) (reticles : t.reticles = s.reticles) (changes : t.changes = s.changes) (slices : t.slices = s.slices) :
      s.Shrinks t := by
    refine ⟨reticles, changes, fun _ k => ?_⟩
    rw [State.slice, slices]
    exact ⟨fun _ => id, fun _ => id⟩
  obtain ⟨m, stored⟩ := s.setMasked_frame l.phys l.data l.dirty
  unfold State.writeLine
  split
  · exact .refl s
  · split
    next n off _ =>
      unfold State.sendData
      dsimp only
      split
      · exact kept _ rfl rfl rfl
      · exact .refl s
    · rw [stored]
      dsimp only
      split
      · exact kept _ rfl rfl rfl
      · split
        · exact kept _ rfl rfl rfl
        · split <;> exact kept _ rfl rfl rfl

/-- What an invalidation does with one line it covers: written where dirty, then dropped, or kept clean where its page is moved. -/
def State.flushLine (k : Nat) (s : State) (l : SliceLine) : State :=
  (s.writeLine l).modSlice k fun sl =>
    if s.moving l.part (l.line * 128) then sl.putLine { l with dirty := 0 } else sl.dropLine l.part l.line

theorem State.not_moving {s : State} (still : s.changes = []) (part va : Nat) : s.moving part va = false := by
  rw [State.moving, still]
  rfl

theorem State.shrinks_flushLine (k : Nat) (s : State) (l : SliceLine) : s.Shrinks (s.flushLine k l) := by
  have written := s.shrinks_writeLine l
  refine written.trans (.modSlice fun still => ?_)
  rw [State.not_moving (written.changes.symm.trans still), if_neg Bool.false_ne_true]
  exact ⟨fun x hx => List.mem_of_mem_filter hx, fun _ => id⟩

theorem State.flushLine_drops {s : State} (still : s.changes = []) (k : Nat) (l : SliceLine) :
    ∀ x ∈ ((s.flushLine k l).slice k).lines, ¬ (x.part = l.part ∧ x.line = l.line) := by
  rw [State.flushLine, State.slice_modSlice, State.not_moving still, if_neg Bool.false_ne_true]
  rintro x hx ⟨part, line⟩
  have kept := (List.mem_filter.mp hx).2
  simp [part, line] at kept

/-- What one entry of a list establishes and every step keeps, the whole fold establishes. -/
theorem foldl_establishes {σ α : Type} {f : σ → α → σ} {inv P : σ → Prop} {x : α} (keeps : ∀ s y, inv s → inv (f s y))
    (starts : ∀ s, inv s → P (f s x)) (stays : ∀ s y, inv s → P s → P (f s y)) {l : List α} (h : x ∈ l) {s : σ} (hs : inv s) :
    P (l.foldl f s) := by
  have later (l : List α) (s : σ) (hs : inv s) (hP : P s) : P (l.foldl f s) := by
    induction l generalizing s with
    | nil => exact hP
    | cons y l ih => exact ih _ (keeps s y hs) (stays s y hs hP)
  induction l generalizing s with
  | nil => cases h
  | cons y l ih =>
    rw [List.foldl_cons]
    rcases List.mem_cons.mp h with rfl | rest
    · exact later l _ (keeps s x hs) (starts s hs)
    · exact ih rest (keeps s y hs)

/-- No line and no translation of a slice is covered by an entry of the log. -/
def State.Cleared (w : Word) (k : Nat) (s : State) : Prop :=
  (∀ l ∈ (s.slice k).lines, invCovers w (l.line * 128) 128 = false) ∧
    ∀ e ∈ (s.slice k).tcache, invCovers w e.va (2 ^ (12 + e.ps)) = false

theorem State.Shrinks.cleared {s t : State} (h : s.Shrinks t) (still : s.changes = []) {w : Word} {k : Nat} (was : s.Cleared w k) :
    t.Cleared w k :=
  ⟨fun l hl => was.1 l ((h.slices still k).1 l hl), fun e he => was.2 e ((h.slices still k).2 e he)⟩

theorem State.applyInv_eq (s : State) (k : Nat) (w : Word) :
    s.applyInv k w = ((((s.slice k).lines.filter fun l => invCovers w (l.line * 128) 128).foldl (State.flushLine k) s).modSlice k fun sl =>
      { sl with tcache := sl.tcache.filter fun e => !invCovers w e.va (2 ^ (12 + e.ps)) }) := rfl

theorem State.shrinks_applyInv (s : State) (k : Nat) (w : Word) : s.Shrinks (s.applyInv k w) := by
  rw [State.applyInv_eq]
  exact (Shrinks.foldl (State.shrinks_flushLine k) _ s).trans (.modSlice fun _ => ⟨fun _ => id, fun e he => List.mem_of_mem_filter he⟩)

theorem State.cleared_applyInv {s : State} (still : s.changes = []) (k : Nat) (w : Word) : (s.applyInv k w).Cleared w k := by
  have flushed := Shrinks.foldl (State.shrinks_flushLine k) ((s.slice k).lines.filter fun l => invCovers w (l.line * 128) 128) s
  rw [State.applyInv_eq, State.Cleared, State.slice_modSlice]
  refine ⟨fun x hx => Bool.eq_false_iff.mpr fun covered => ?_, fun e he => ?_⟩
  · have hit : x ∈ (s.slice k).lines.filter fun l => invCovers w (l.line * 128) 128 :=
      List.mem_filter.mpr ⟨(flushed.slices still k).1 x hx, covered⟩
    have gone := foldl_establishes (f := State.flushLine k) (inv := fun s => s.changes = [])
      (P := fun t => ∀ y ∈ (t.slice k).lines, ¬ (y.part = x.part ∧ y.line = x.line))
      (fun s y h => (s.shrinks_flushLine k y).changes.trans h) (fun s h => State.flushLine_drops h k x)
      (fun s y h was z hz => was z (((s.shrinks_flushLine k y).slices h k).1 z hz)) hit still
    exact gone x hx ⟨rfl, rfl⟩
  · simpa using (List.mem_filter.mp he).2

/-- One entry of an invalidation log at the 32 slices of its reticle. -/
def State.applyEntry (site : Nat) (s : State) (w : Word) : State := (List.range 32).foldl (fun s i => s.applyInv (32 * site + i) w) s

theorem State.shrinks_applyEntry (site : Nat) (s : State) (w : Word) : s.Shrinks (s.applyEntry site w) :=
  .foldl (fun s i => s.shrinks_applyInv (32 * site + i) w) _ s

theorem State.cleared_applyEntry {s : State} (still : s.changes = []) (site : Nat) (w : Word) {i : Nat} (hi : i < 32) :
    (s.applyEntry site w).Cleared w (32 * site + i) :=
  foldl_establishes (f := fun s i => State.applyInv s (32 * site + i) w) (inv := fun s => s.changes = [])
    (fun s j h => (s.shrinks_applyInv (32 * site + j) w).changes.trans h) (fun _ h => State.cleared_applyInv h (32 * site + i) w)
    (fun s j h => (s.shrinks_applyInv (32 * site + j) w).cleared h) (List.mem_range.mpr hi) still

theorem exec_invalidationLogApply (s : State) (site : Nat) : ∃ t, exec (.invalidationLogApply site) s = .next t ∧
    (t.reticle site).invLog = [] ∧ (t.reticle site).dirtyLog = (s.reticle site).dirtyLog ∧
    (s.changes = [] → ∀ i, i < 32 → ∀ w ∈ (s.reticle site).invLog, t.Cleared w (32 * site + i)) := by
  let u := (s.reticle site).invLog.foldl (State.applyEntry site) s
  have applied : s.Shrinks u := .foldl (State.shrinks_applyEntry site) _ s
  have log : u.reticle site = s.reticle site := by rw [State.reticle, State.reticle, applied.reticles]
  refine ⟨u.setReticle site { u.reticle site with invLog := [] }, rfl, ?_, ?_, fun still i hi w hw => ?_⟩
  · rw [State.reticle_setReticle]
  · rw [State.reticle_setReticle, log]
  · exact foldl_establishes (f := State.applyEntry site) (inv := fun s => s.changes = []) (P := State.Cleared w (32 * site + i))
      (fun s y h => (s.shrinks_applyEntry site y).changes.trans h) (fun _ h => State.cleared_applyEntry h site w hi)
      (fun s y h => (s.shrinks_applyEntry site y).cleared h) hw still

end Sys2Proof.Machine
end

section
/-!
PROOFS. Range locks at their homes (R69 to R73), and the statement on the first-level cache, registrations, fetches and logs.
-/
namespace Sys2Proof.Machine

open Host

/-! ### Registrations and releases at their homes -/

theorem exec_lockRegistration_pad {s : State} {c : Nat} (awake : s.Awake c) (e : LockEntry) (noLocks : (s.core c).locks = [])
    (noPortLocks : (s.core c).portLocks = []) : exec (.lockRegistration (.pad c) e) s =
      .next ((s.modCore c fun k => { k with portLocks := [e] }).post (.lockRegistrationAck e.core e.id (.pad c) .acked)) := by
  have registered : s.registerPad c e = (.acked, s.modCore c fun k => { k with portLocks := [e] }) := by
    have added : s.modCore c (fun k => { k with portLocks := k.portLocks ++ [e] }) = s.modCore c fun k => { k with portLocks := [e] } :=
      State.modCore_congr s c (by rw [noPortLocks]; rfl)
    simp [State.registerPad, noLocks, noPortLocks, added]
  change execLockRegistration (.pad c) e s = _
  rw [execLockRegistration, State.arrive_awake awake, registered]

theorem exec_lockRegistration_slice {s : State} {k : Nat} (e : LockEntry) (idle : (s.slice k).waiting = []) (empty : (s.slice k).filter = [])
    (room : (s.filterEntries k e).length ≤ 1024) : exec (.lockRegistration (.slice k) e) s =
      .next ((s.modSlice k fun x => { x with filter := s.filterEntries k e }).post (.lockRegistrationAck e.core e.id (.slice k) .acked)) := by
  have added : s.modSlice k (fun x => { x with filter := x.filter ++ s.filterEntries k e }) =
      s.modSlice k fun x => { x with filter := s.filterEntries k e } := State.modSlice_congr s k (by rw [empty]; rfl)
  have registered : s.registerSlice k e = (.acked, s.modSlice k fun x => { x with filter := s.filterEntries k e }) := by
    simp [State.registerSlice, empty, List.take_of_length_le room, List.drop_eq_nil_of_le room, added]
  change execLockRegistration (.slice k) e s = _
  simp only [execLockRegistration, idle, registered]
  rfl

theorem exec_lockRelease_pad {s : State} {c : Nat} (awake : s.Awake c) (owner lock : Nat) : exec (.lockRelease (.pad c) owner lock) s =
    .next (s.modCore c fun k => { k with portLocks := k.portLocks.filter fun h => !(h.core == owner && h.id == lock) }) := by
  change execLockRelease (.pad c) owner lock s = _
  rw [execLockRelease, State.arrive_awake awake]

theorem exec_lockRelease_slice (s : State) (k owner lock : Nat) : exec (.lockRelease (.slice k) owner lock) s =
    .next (if (s.slice k).waiting = [] then s.modSlice k fun x => { x with filter := x.filter.filter fun h => !(h.core == owner && h.id == lock) }
      else s.again (.lockRelease (.slice k) owner lock)) := by
  change execLockRelease (.slice k) owner lock s = _
  rw [execLockRelease]
  cases (s.slice k).waiting <;> rfl

/-! ### Write-backs sent again, and fetched instructions -/

/-- Every dirty byte of the only frame leaves for its home. -/
theorem State.writeback_sends {s : State} {c f : Nat} {fr : L1Frame} (only : (s.core c).l1 = [(f, fr)]) (n : Nat) (evict : Bool) :
    ∃ fr' q, ((s.writeback c n f fr evict).core c).l1 = [(f, fr')] ∧ fr'.sent = fr.dirty ∧ fr'.dirty = 0 ∧ fr'.refused = false ∧
      (s.writeback c n f fr evict).mem = s.mem ∧
      (s.writeback c n f fr evict).agenda = s.agenda ++ [.sliceAccess (s.homeSlice (s.partOf c) fr.line) q] ∧
      q.access = .writeback fr.dirty fr.data := by
  have all : fr.dirty &&& BitVec.allOnes 128 = fr.dirty := BitVec.and_allOnes
  have none : fr.dirty &&& ~~~(BitVec.allOnes 128) = 0 := by simp
  let sent : L1Frame := { fr with dirty := fr.dirty &&& ~~~(BitVec.allOnes 128), sent := fr.dirty &&& BitVec.allOnes 128,
                                  evict := evict || fr.evict, refused := false }
  refine ⟨sent, _, ?_, all, none, rfl, rfl, rfl, congrArg (Access.writeback · fr.data) all⟩
  change ((s.modCore c fun k => k.setFrame f sent).core c).l1 = _
  rw [State.core_modCore, Core.setFrame, only, assign, if_pos rfl]

/-- The instruction fetched from the line just entered. -/
theorem Core.fetched?_head {k : Core} {pc : Word} {line : Nat} {data : Line} {rest : List (Nat × Line)} (h : k.icache = (line, data) :: rest)
    (names : field 56 0 pc / 128 = line) : k.fetched? pc = some (lineWord data pc) := by
  simp [Core.fetched?, h, names]

/-! ### The statement -/

/-- A log of one entry, then the rest: the merges compose (R332). -/
theorem exec_dirtyLogMerge_cons {s : State} {site : Nat} {p : Partition} (here : s.partAt site = some p) {w : Word} {ws : List Word}
    (log : (s.reticle site).dirtyLog = w :: ws) :
    let logged (u : State) (l : List Word) : State := u.setReticle site { u.reticle site with dirtyLog := l }
    ∃ t, exec (.dirtyLogMerge site) (logged s [w]) = .next t ∧ t.mem = (s.mergeEntry p.num w).2.mem ∧
      exec (.dirtyLogMerge site) s = exec (.dirtyLogMerge site) (logged t ws) := by
  intro logged
  let u := (s.mergeEntry p.num w).2
  have here' : u.partAt site = some p := (State.partAt_congr (s.mergeEntry_keeps p.num w).1 site).trans here
  refine ⟨u.setReticle site { s.reticle site with dirtyLog := [] }, exec_dirtyLogMerge_logged here _, rfl, ?_⟩
  have again : logged (u.setReticle site { s.reticle site with dirtyLog := [] }) ws =
      u.setReticle site { s.reticle site with dirtyLog := ws } := by
    dsimp only [logged]
    rw [State.reticle_setReticle, State.setReticle_setReticle]
  rw [again, exec_dirtyLogMerge_logged here', exec_dirtyLogMerge here, log]
  rfl

/-- Settles O50: an equation for each event (a fill, a write-back's answer, a registration, its answer and its release), a walk
over the entries of the dirty log, and for the invalidation log the fact that slices only lose lines while it is applied. -/
theorem cacheAndLockEvents : Obligations.CacheAndLockEvents := by
  unfold Obligations.CacheAndLockEvents
  intro s c n k
  refine ⟨fun line f fr r on frame stale => exec_l1FillResponse_stale on frame stale r, ?_, ?_, ?_, ?_, ?_, ?_, ?_, ?_, ?_, ?_, ?_⟩
  case refine_1 =>
    intro line f fr r on frame ok clean idle fresh open_ noJoin
    obtain ⟨t, run, mem, frame'⟩ := exec_l1FillResponse_whole on frame ok fresh noJoin
    exact ⟨t, f, fr.filled r, run, mem, frame', L1Frame.filled_whole clean idle open_⟩
  case refine_2 =>
    intro line f fr on frame told
    exact ⟨fun stays inside => exec_l1WritebackReply_stays on frame stays inside,
      fun leaves clean filled fresh => exec_l1WritebackReply_leaves on frame leaves clean filled fresh, exec_l1WritebackReply on frame false⟩
  case refine_3 =>
    intro f fr only refused idle
    obtain ⟨fr', q, sent⟩ := State.writeback_sends only 0 fr.evict
    exact ⟨_, fr', q, exec_writebackRetry only refused idle, sent⟩
  case refine_4 =>
    intro line l runs live on noTrap noErr hand present names clean
    have lines : field 56 0 (s.strand c n).pc / 128 = line := by rw [field_56_0]
    refine ⟨_, exec_instructionFetchReturn runs live on noTrap noErr (lines ▸ hand) (lines ▸ present) clean, ?_⟩
    rw [State.core_modCore]
    exact Core.fetched?_head rfl (lines.trans names.symm)
  case refine_5 =>
    intro o outst phase
    have waits : (s.strand c n).phase? = some (.tier false) := by rw [Strand.phase?, outst, Option.map_some, phase]
    change execSecondTierCompletion c n s = _
    rw [execSecondTierCompletion, waits, ← State.done_of_outst outst]
    rfl
  case refine_6 => exact fun r retired noCopies empty run live clean ended =>
    exec_completionRelease retired noCopies empty run live clean ended
  case refine_7 =>
    intro site p here logged
    refine ⟨⟨_, exec_dirtyLogMerge here, ?_, ?_⟩, fun w ws log => ?_⟩
    · rw [State.reticle_setReticle]
    · rw [State.reticle_setReticle]
    · obtain ⟨t, first, mem, rest⟩ := exec_dirtyLogMerge_cons here log
      exact ⟨t, first, rest, fun e wf leaf => State.mergeEntry_leaf wf leaf mem⟩
  case refine_8 => exact exec_invalidationLogApply s
  case refine_9 =>
    exact fun e => ⟨fun awake noLocks noPortLocks => exec_lockRegistration_pad awake e noLocks noPortLocks,
      fun idle empty room => exec_lockRegistration_slice e idle empty room⟩
  case refine_10 =>
    intro o h lock i m first on hn outst phase
    exact exec_lockRegistrationAck_last on hn (by rw [Strand.phase?, outst, Option.map_some, phase])
  case refine_11 =>
    intro owner lock
    refine ⟨fun awake => exec_lockRelease_pad awake owner lock, fun idle => ?_, fun busy => ?_⟩
    · rw [exec_lockRelease_slice, if_pos idle]
    · rw [exec_lockRelease_slice, if_neg busy]

end Sys2Proof.Machine
end

section
/-!
PROOFS. The steps of a copy (R91, R248, R249, R253 to R257): what an update of one copy, its end and the message that came back
leave of the core's copies, and an equation for each step.
-/
namespace Sys2Proof.Machine

open Host

/-! ### A core's copies -/

theorem Core.id_of_copy? {k : Core} {id : Nat} {x : Copy} (h : k.copy? id = some x) : x.id = id := by
  simpa using List.find?_some h

/-- An update of the copies that keeps their names. -/
theorem Core.copy?_map {k k' : Core} {g : Copy → Copy} (copies : k'.copies = k.copies.map g) (ids : ∀ y, (g y).id = y.id) (id : Nat) :
    k'.copy? id = (k.copy? id).map g := by
  rw [Core.copy?, Core.copy?, copies, List.find?_map]
  exact congrArg (fun p => (k.copies.find? p).map g) (funext fun y => by simp [ids])

theorem State.core_modCopy (s : State) (c id : Nat) (f : Copy → Copy) : (s.modCopy c id f).core c = (s.core c).modCopy id f :=
  s.core_modCore c _

theorem State.copy?_modCopy {s : State} {c id : Nat} {x : Copy} (h : (s.core c).copy? id = some x) {f : Copy → Copy}
    (ids : ∀ y, (f y).id = y.id) : ((s.modCopy c id f).core c).copy? id = some (f x) := by
  have named := Core.id_of_copy? h
  rw [State.core_modCopy, Core.copy?_map (k := s.core c) (g := fun y => if y.id == id then f y else y) rfl, h]
  · simp [named]
  · intro y
    split
    · exact ids y
    · rfl

/-- A core whose copies are as before has the same copy. -/
theorem Core.copy?_congr {k k' : Core} (copies : k'.copies = k.copies) (id : Nat) : k'.copy? id = k.copy? id := by
  rw [Core.copy?, Core.copy?, copies]

/-! ### The end of a copy (R70, R253) -/

/-- An arrival given up concerns the copies that wait in its barrier only. -/
theorem State.copy?_rejoin {s : State} {c id idx : Nat} {red : Bool} {x : Copy} (h : (s.core c).copy? id = some x)
    (apart : x.phase.inBarrier = false) : ((s.rejoin c idx red).core c).copy? id = some x := by
  unfold State.rejoin
  dsimp only
  generalize hb : (if red = true then [] else (s.core c).copies.filter fun x => x.waitsIn { part := s.partOf c, idx }) = back
  have out : back.contains x = false := by
    rw [← hb, Bool.eq_false_iff]
    intro mem
    split at mem
    · simp at mem
    · have waits := (List.mem_filter.mp (List.contains_iff_mem.mp mem)).2
      rw [Copy.waitsIn, apart] at waits
      simp at waits
  rw [State.core_posts, State.core_modCore,
    Core.copy?_map (k := s.core c) (g := fun x => if back.contains x then { x with phase := .arriving none } else x) rfl,
    h]
  · simp only [Option.map_some, out, Bool.false_eq_true, if_false]
  · intro y
    split <;> rfl

theorem State.copy?_forsake {s : State} {c id : Nat} {x : Copy} (h : (s.core c).copy? id = some x) (apart : x.phase.inBarrier = false)
    (who : Arriver) : ((s.forsake c who).core c).copy? id = some x := by
  unfold State.forsake
  generalize ((s.core c).arrivals.filter fun a => a.arriver == who && !a.sent) = l
  induction l generalizing s with
  | nil => exact h
  | cons a l ih => exact ih (State.copy?_rejoin h apart)

/-- A copy that ends and is not in its barrier. -/
theorem State.copy?_endCopy {s : State} {c id code : Nat} {x : Copy} (h : (s.core c).copy? id = some x) (apart : x.phase.inBarrier = false) :
    ((s.endCopy c id code).core c).copy? id = some { x with phase := .ending, code } := by
  have ended := State.copy?_modCopy (State.copy?_forsake h apart (.copy id)) (f := fun k => { k with phase := .ending, code })
    fun _ => rfl
  unfold State.endCopy
  rw [h]
  dsimp only
  split
  · exact ended
  · exact ended

/-! ### The start, and the units read (R91, R256) -/

section
variable {s : State} {c id : Nat} {x : Copy} (found : (s.core c).copy? id = some x)
include found

theorem exec_copyStart (phase : x.phase = .starting) (acks : (s.strand c x.strand).acks = 0) (quiet : (s.core c).quiet x = true)
    (on : (s.core c).stopped = false) : exec (.copyStart c id) s = .next (if (s.core c).keptDirty x then s.endCopy c id 0x07
      else (s.modCopy c id fun k => { k with phase := .running }).post
        (if x.units = [] then .copyStatusWrite c id else .streamerUnitRead c id 0)) := by
  change execCopyStart c id s = _
  simp only [execCopyStart, found, phase, acks, quiet, on]
  cases (s.core c).keptDirty x <;> cases x.units <;> rfl

theorem exec_streamerUnitRead_away {i : Nat} {u : CopyUnit} (phase : x.phase = .running) (next : x.next = i) (on : (s.core c).stopped = false)
    (unit : x.units[i]? = some u) (room : x.inFlight < 16) (away : s.away c (s.inside c x i u) (x.reads i u) = true) :
    ∃ t, exec (.streamerUnitRead c id i) s = .next t ∧
      (t.core c).copy? id = some { x with refusedAt := some i, phase := .refused } ∧ t.mem = s.mem := by
  have refused := State.copy?_modCopy found (f := fun k => { k with refusedAt := some i, phase := .refused }) fun _ => rfl
  refine ⟨if x.inFlight = 0 then (s.modCopy c id fun k => { k with refusedAt := some i, phase := .refused }).post (.copyStatusWrite c id)
    else s.modCopy c id fun k => { k with refusedAt := some i, phase := .refused }, ?_, ?_, ?_⟩
  · change execStreamerUnitRead c id i s = _
    simp [execStreamerUnitRead, found, phase, next, on, unit, Nat.not_le.mpr room, away]
  · split
    · exact refused
    · exact refused
  · split <;> rfl

theorem exec_streamerUnitRead_sends {i : Nat} {u : CopyUnit} {d : CopyData} {v : State} (phase : x.phase = .running) (next : x.next = i)
    (on : (s.core c).stopped = false) (unit : x.units[i]? = some u) (room : x.inFlight < 16)
    (here : s.away c (s.inside c x i u) (x.reads i u) = false) (unlocked : s.unitConflict c x false (x.reads i u) = false)
    (hand : ∀ l ∈ s.virtLines c (x.reads i u), s.lineAtHand (s.partOf c) l = true) (read : s.readUnit c x i u = .ok (d, v)) :
    exec (.streamerUnitRead c id i) s = .next ((v.modCopy c id fun k => { k with next := i + 1, inFlight := k.inFlight + 1 }).posts
      (.copyUnitWrite c id i { bytes := d.bytes, scale := [] } ::
        (if d.scale = [] then [] else [.copyUnitWrite c id i { bytes := [], scale := d.scale }]) ++
        if i + 1 < x.units.length then [.streamerUnitRead c id (i + 1)] else [])) := by
  have lines : (s.virtLines c (x.reads i u)).find? (fun l => !s.lineAtHand (s.partOf c) l) = none := by
    rw [List.find?_eq_none]
    intro l hl
    simp [hand l hl]
  change execStreamerUnitRead c id i s = _
  simp [execStreamerUnitRead, found, phase, next, on, unit, Nat.not_le.mpr room, here, unlocked, State.withLines, lines, read, unitParts,
    apply_ite (List.map _)]

/-! ### The status word (R73, R249) -/

end

theorem State.locks_releaseLock (s : State) (c id : Nat) :
    ((s.releaseLock c id).core c).locks = (s.core c).locks.filter fun e => e.id != id := by
  unfold State.releaseLock
  split
  next none =>
    refine (List.filter_eq_self.mpr fun e he => ?_).symm
    simpa using List.find?_eq_none.mp none e he
  next e _ =>
    dsimp only
    rw [State.core_posts, State.core_modCore]

theorem State.locks_foldl_releaseLock (c : Nat) (l : List Nat) (s : State) :
    ∀ e ∈ ((l.foldl (fun s l => s.releaseLock c l) s).core c).locks, e ∈ (s.core c).locks ∧ e.id ∉ l := by
  induction l generalizing s with
  | nil => exact fun e he => ⟨he, List.not_mem_nil⟩
  | cons i l ih =>
    intro e he
    obtain ⟨mem, out⟩ := ih (s.releaseLock c i) e he
    rw [State.locks_releaseLock, List.mem_filter] at mem
    exact ⟨mem.1, by simpa [out] using mem.2⟩

theorem State.copies_foldl_releaseLock (c : Nat) (l : List Nat) (s : State) :
    ((l.foldl (fun s l => s.releaseLock c l) s).core c).copies = (s.core c).copies :=
  foldl_keeps (fun s : State => (s.core c).copies) _ (fun s l => State.releaseLock_keeps (fun s : State => (s.core c).copies)
    (fun s d p => by
      by_cases h : c = d
      · subst h; rw [State.core_modCore]
      · rw [State.core_modCore_other _ _ _ _ h]) (fun _ _ => rfl) s c l) l s

theorem State.strand_foldl_releaseLock (c : Nat) (l : List Nat) (s : State) (n : Nat) :
    (l.foldl (fun s l => s.releaseLock c l) s).strand c n = s.strand c n :=
  foldl_keeps (fun s : State => s.strand c n) _ (fun s l => State.releaseLock_keeps (fun s : State => s.strand c n)
    (fun _ _ _ => State.strand_modCore_keeps rfl c n) (fun _ _ => rfl) s c l) l s

theorem State.mem_foldl_releaseLock (c : Nat) (l : List Nat) (s : State) :
    (l.foldl (fun s l => s.releaseLock c l) s).mem = s.mem :=
  foldl_keeps State.mem _ (fun s l => State.releaseLock_keeps State.mem (fun _ _ _ => rfl) (fun _ _ => rfl) s c l) l s

theorem Strand.greg_setGreg_self (t : Strand) (r : Reg) (v : Word) : (t.setGreg r v).greg r = if r = 0 then 0 else v := by
  by_cases h : r = 0
  · rw [if_pos h, h, Strand.greg_zero]
  · rw [if_neg h, Strand.greg_setGreg _ _ _ h]

/-- Whether the strand's instruction waits for the end of a fill of this almanac place. -/
def Core.awaitsEviction (q : Core) (n i : Nat) : Bool := (q.strand n).stall.any fun w => w.pc == (q.strand n).pc && w.why == .evict i

/-- The strand that waits for the end of a fill is told of it. -/
def Core.tellEvicted (q : Core) (n i : Nat) : Core :=
  if q.awaitsEviction n i then q.setStrand n { q.strand n with stall := (q.strand n).stall.map fun w => { w with why := .evicted } } else q

/-- The end of a fill of the almanac (R177). -/
def Core.endFill (q : Core) (n i code : Nat) : Core :=
  let told := q.tellEvicted n i
  { told with
      almanac :=
        if code = 0 && !q.awaitsEviction n i then told.almanac.map fun e => if e.1 == i then (i, { e.2 with filling := none }) else e
        else unassign i told.almanac }

theorem Core.tellEvicted_keeps (q : Core) (n i : Nat) : (q.tellEvicted n i).copies = q.copies ∧ (q.tellEvicted n i).locks = q.locks ∧
    ((q.tellEvicted n i).strand n).g = (q.strand n).g := by
  unfold Core.tellEvicted
  split
  · exact ⟨rfl, rfl, by rw [Core.strand_setStrand]⟩
  · exact ⟨rfl, rfl, rfl⟩

/-- A copy that leaves its core: its register holds the status, and its locks are released. -/
def State.removeCopy (s : State) (c : Nat) (k : Copy) (code : Nat) : State :=
  (k.locks.foldl (fun s l => s.releaseLock c l) (s.modStrand c k.strand fun t => t.setGreg k.reg (k.status code))).modCore c fun q =>
    { q with copies := q.copies.filter fun x => x.id != k.id }

theorem State.retireCopy_eq (s : State) (c : Nat) (k : Copy) (code : Nat) : s.retireCopy c k code = s.removeCopy c k code ∨
    ∃ i, s.retireCopy c k code = (s.removeCopy c k code).modCore c fun q => q.endFill k.strand i code := by
  unfold State.retireCopy
  cases k.kind with
  | alfill i => exact .inr ⟨i, rfl⟩
  | _ => exact .inl rfl

/-- What retiring a copy leaves behind (R73, R249). -/
def State.Retired (s : State) (c : Nat) (k : Copy) (code : Nat) (t : State) : Prop :=
  t.mem = s.mem ∧ (t.strand c k.strand).greg k.reg = (if k.reg = 0 then 0 else k.status code) ∧
    (t.core c).copies = (s.core c).copies.filter (fun y => y.id != k.id) ∧ ∀ e ∈ (t.core c).locks, e.id ∉ k.locks

theorem State.removeCopy_retires (s : State) (c : Nat) (k : Copy) (code : Nat) : s.Retired c k code (s.removeCopy c k code) := by
  let u := s.modStrand c k.strand fun t => t.setGreg k.reg (k.status code)
  let v := k.locks.foldl (fun s l => s.releaseLock c l) u
  have core : (s.removeCopy c k code).core c = { v.core c with copies := (v.core c).copies.filter fun x => x.id != k.id } := v.core_modCore c _
  refine ⟨State.mem_foldl_releaseLock c k.locks u, ?_, ?_, ?_⟩
  · rw [State.removeCopy, State.strand_modCore_keeps rfl, State.strand_foldl_releaseLock, State.strand_modStrand, Strand.greg_setGreg_self]
  · rw [core]
    dsimp only
    rw [State.copies_foldl_releaseLock, State.core_modStrand]
    rfl
  · rw [core]
    exact fun e he => (State.locks_foldl_releaseLock c k.locks u e he).2

theorem State.retireCopy_retires (s : State) (c : Nat) (k : Copy) (code : Nat) : s.Retired c k code (s.retireCopy c k code) := by
  have removed := s.removeCopy_retires c k code
  rcases s.retireCopy_eq c k code with same | ⟨i, filled⟩
  · rw [same]
    exact removed
  · obtain ⟨mem, greg, copies, locks⟩ := removed
    obtain ⟨copies', locks', g⟩ := ((s.removeCopy c k code).core c).tellEvicted_keeps k.strand i
    rw [filled]
    refine ⟨mem, ?_, ?_, ?_⟩
    · rw [State.strand, State.core_modCore, ← greg, Strand.greg, Strand.greg]
      exact congrArg (fun g : Vector Word 32 => if k.reg = 0 then 0 else g[k.reg.toFin]) g
    · rw [State.core_modCore]
      exact copies'.trans copies
    · rw [State.core_modCore]
      intro e he
      exact locks e (locks' ▸ he)

end Sys2Proof.Machine
end

section
/-!
PROOFS. The status word, the arrival and the sources of a halo copy, and a resumed target (R249, R253, R257).
-/
namespace Sys2Proof.Machine

open Host

/-- The record of an arrival that is sent says so. -/
theorem Core.arrivalSent_sendArrival {k : Core} {idx : Nat} {red : Bool} {b : Arrival} (h : k.arrival? idx red = some b) :
    (k.sendArrival idx red).arrivalSent idx red = true := by
  have named : (b.idx == idx && b.reduction == red) = true := List.find?_some (p := fun a : Arrival => a.idx == idx && a.reduction == red) h
  have sent : (k.sendArrival idx red).arrival? idx red =
      (k.arrival? idx red).map fun a => if a.idx == idx && a.reduction == red then { a with sent := true } else a := by
    rw [Core.arrival?, Core.sendArrival, List.find?_map, Core.arrival?]
    refine congrArg (fun p => (k.arrivals.find? p).map _) (funext fun a => ?_)
    dsimp only [Function.comp]
    split <;> rfl
  rw [Core.arrivalSent, sent, h, Option.map_some, if_pos named]
  rfl

section
variable {s : State} {c id : Nat} {x : Copy} (found : (s.core c).copy? id = some x)
include found

/-! ### The status word (R249) -/

theorem exec_copyStatusWrite_retires (empty : x.inFlight = 0) {code : Nat}
    (ends : (x.phase = .running ∧ x.units.length ≤ x.next ∧ code = 0) ∨ (x.phase = .ending ∧ code = x.code)) :
    exec (.copyStatusWrite c id) s = .next (s.retireCopy c x code) := by
  change execCopyStatusWrite c id s = _
  rcases ends with ⟨phase, all, rfl⟩ | ⟨phase, rfl⟩
  · simp [execCopyStatusWrite, found, empty, phase, Nat.not_lt.mpr all]
  · simp [execCopyStatusWrite, found, empty, phase]

theorem exec_copyStatusWrite_refused (empty : x.inFlight = 0) (phase : x.phase = .refused) :
    ∃ t, exec (.copyStatusWrite c id) s = .next t ∧ (t.core c).copy? id = some { x with phase := .pending, busy := false } ∧
      t.mem = s.mem ∧ (t.strand c x.strand).greg x.reg = if x.reg = 0 then 0 else x.status 0x80 := by
  let u := s.modStrand c x.strand fun t => t.setGreg x.reg (x.status 0x80)
  let v := u.modCopy c id fun k => { k with phase := .pending, busy := false }
  have found' : (u.core c).copy? id = some x := by
    rw [State.core_modStrand]
    exact found
  have copy : (v.core c).copy? id = some { x with phase := .pending, busy := false } := State.copy?_modCopy found' fun _ => rfl
  have greg : (v.strand c x.strand).greg x.reg = if x.reg = 0 then 0 else x.status 0x80 := by
    rw [State.strand_modCopy, State.strand_modStrand, Strand.greg_setGreg_self]
  refine ⟨match x.units[x.refusedAt.getD 0]? with
    | some a => v.posts ((v.unitPads c x (x.refusedAt.getD 0) a).map Event.copyResume)
    | none => v, ?_, ?_⟩
  · change execCopyStatusWrite c id s = _
    simp only [execCopyStatusWrite, found, empty, phase]
    rfl
  · split
    · exact ⟨copy, rfl, greg⟩
    · exact ⟨copy, rfl, greg⟩

/-! ### The arrival of a halo copy (R116, R253) -/

section
variable {cleaning : Option Cleaning} (phase : x.phase = .arriving cleaning) (on : (s.core c).stopped = false)
include phase on

theorem exec_cpyhArrival_places (none_ : (s.core c).arrival? (x.group (s.partOf c)).idx false = none) :
    let a : Arrival := { idx := (x.group (s.partOf c)).idx, reduction := false, arriver := .copy id, sent := false, withdrawn := false }
    exec (.cpyhArrival c id) s = .next ((s.modCore c fun k => k.putArrival a).post (.cpyhArrival c id)) := by
  change execCpyhArrival c id s = _
  simp [execCpyhArrival, found, phase, on, none_]

variable {b : Arrival} (held : (s.core c).arrival? (x.group (s.partOf c)).idx false = some b)
include held

theorem exec_cpyhArrival_joins (other : b.arriver ≠ .copy id ∨ b.sent = true) :
    exec (.cpyhArrival c id) s = .next (s.modCopy c id fun y => { y with phase := .barrier (s.core c).ticks }) := by
  have go : (decide (b.arriver ≠ .copy id) || b.sent) = true := by simpa using other
  change execCpyhArrival c id s = _
  simp only [execCpyhArrival, found, phase, on, held]
  exact (if_neg Bool.false_ne_true).trans (if_pos go)

variable (own : b.arriver = .copy id) (waits : b.sent = false) (acks : (s.strand c x.strand).acks = 0)
include own waits acks

theorem exec_cpyhArrival_refused {l : Nat} (dirty : cleaning = some { awaited := [], refused := some l }) :
    exec (.cpyhArrival c id) s = .next (s.endCopy c id 0x07) := by
  change execCpyhArrival c id s = _
  simp [execCpyhArrival, found, phase, on, held, own, waits, acks, dirty, Cleaning.result]

theorem exec_cpyhArrival_sends (clean : (cleaning = none ∧ (s.core c).l1 = []) ∨ cleaning = some { awaited := [], refused := none }) :
    exec (.cpyhArrival c id) s = .next (((s.modCore c fun k => k.sendArrival (x.group (s.partOf c)).idx false).modCopy c id fun k =>
      { k with phase := .barrier (s.core c).ticks }).post (.barrierArrival (x.group (s.partOf c)) c c)) := by
  have ticks (idx : Nat) : ((s.core c).sendArrival idx false).ticks = (s.core c).ticks := rfl
  change execCpyhArrival c id s = _
  rcases clean with ⟨rfl, empty⟩ | rfl
  · have cleaned : s.cleanAll c x.strand = some s := s.cleanAll_clean c _ (by simp [empty])
    simp [execCpyhArrival, found, phase, on, held, own, waits, acks, cleaned, Core.cleaning, empty, Cleaning.result, ticks]
  · simp [execCpyhArrival, found, phase, on, held, own, waits, acks, Cleaning.result, ticks]

end

/-! ### The sources of a halo copy (R253) -/

theorem exec_cpyhSourceRegistration (phase : x.phase = .passed) (on : (s.core c).stopped = false) {es : List LockEntry}
    {hs : List (LockEntry × Home)} (entries : es = (s.haloSources c x).zipIdx.map fun r => r.1.entry ((s.core c).nextId + r.2) c x.strand)
    (homes : hs = es.flatMap fun e => (s.lockHomes c e.place e.base e.len).map fun h => (e, h))
    (free : ∀ e ∈ es, s.ownConflict c e = false) : exec (.cpyhSourceRegistration c id) s =
      .next (((s.modCore c fun q => { q with locks := q.locks ++ es, nextId := (s.core c).nextId + es.length }).modCopy c id fun k =>
        { k with locks := k.locks ++ es.map LockEntry.id
                 phase := if hs = [] then .starting else .sources (hs.map fun e => (e.1.id, e.2)) [] (s.core c).ticks }).posts
          (if hs = [] then [.copyStart c id] else hs.map fun e => .lockRegistration e.2 e.1)) := by
  have ticks : ((s.modCore c fun q => { q with locks := q.locks ++ es, nextId := (s.core c).nextId + es.length }).core c).ticks =
      (s.core c).ticks := by
    rw [State.core_modCore]
  have clear : (es.any fun e => s.ownConflict c e) = false := by
    rw [List.any_eq_false]
    intro e he
    simp [free e he]
  change execCpyhSourceRegistration c id s = _
  simp only [execCpyhSourceRegistration, found, phase, on, ← entries, clear, ← homes, ticks]
  cases hs <;> rfl

end

/-! ### A resumed target (R257) -/

/-- Cores without copies are passed over. -/
theorem foldl_noCopies (f : Nat × Core → State → Copy → State) (l : List (Nat × Core)) (none : ∀ e ∈ l, e.2.copies = []) (s : State) :
    l.foldl (fun s e => e.2.copies.foldl (f e) s) s = s := by
  induction l with
  | nil => rfl
  | cons e l ih =>
    obtain ⟨first, rest⟩ := List.forall_mem_cons.mp none
    rw [List.foldl_cons, first]
    exact ih rest

theorem exec_copyResume {s : State} {c target i : Nat} {x : Copy} {u : CopyUnit} {before after : List (Nat × Core)} {k : Core}
    (cores : s.cores = before ++ (c, k) :: after) (others : ∀ e ∈ before ++ after, e.2.copies = []) (copies : k.copies = [x])
    (phase : x.phase = .pending) (refused : x.refusedAt = some i) (unit : x.units[i]? = some u) (touched : target ∈ s.unitPads c x i u)
    (back : ∀ p ∈ s.unitPads c x i u, (s.core p).stopped = false) : exec (.copyResume target) s =
      .next ((s.modCopy c x.id fun k => { k with phase := .running, next := i, refusedAt := none }).post (.streamerUnitRead c x.id i)) := by
  have noneBefore : ∀ e ∈ before, e.2.copies = [] := fun e he => others e (List.mem_append_left _ he)
  have noneAfter : ∀ e ∈ after, e.2.copies = [] := fun e he => others e (List.mem_append_right _ he)
  have ready : ((s.unitPads c x i u).contains target && (s.unitPads c x i u).all fun t => !(s.core t).stopped) = true := by
    rw [Bool.and_eq_true, List.contains_iff_mem, List.all_eq_true]
    exact ⟨touched, fun p hp => by rw [back p hp]; rfl⟩
  change execCopyResume target s = _
  rw [execCopyResume, back target touched, if_neg Bool.false_ne_true, cores, List.foldl_append, foldl_noCopies _ before noneBefore,
    List.foldl_cons, foldl_noCopies _ after noneAfter]
  simp only [copies, List.foldl_cons, List.foldl_nil, phase, refused, unit]
  rw [if_pos ready]

end Sys2Proof.Machine
end

section
/-!
PROOFS. A copy's unit at its destination (R70, R90, R92, R254, R255, R257), and the statement on copies.
-/
namespace Sys2Proof.Machine

open Host

/-! ### What is still on its way -/

/-- The units a copy has in flight once a message of unit i is back: as many while another of that unit is on its way, else one less. -/
def State.UnitsLeft (s : State) (c id i n m : Nat) : Prop :=
  ((∃ y, Event.copyUnitWrite c id i y ∈ s.agenda) ∧ m = n) ∨ ((∀ y, Event.copyUnitWrite c id i y ∉ s.agenda) ∧ m = n - 1)

theorem State.unitBack_left {s : State} {c id : Nat} {y : Copy} (found : (s.core c).copy? id = some y) (i : Nat) :
    ∃ m, s.UnitsLeft c id i y.inFlight m ∧ ((s.unitBack c id i).core c).copy? id = some { y with inFlight := m } ∧
      (s.unitBack c id i).mem = s.mem := by
  have fewer := State.copy?_modCopy found (f := fun k => { k with inFlight := k.inFlight - 1 }) fun _ => rfl
  unfold State.unitBack
  split
  next out =>
    obtain ⟨e, listed, names⟩ := List.any_eq_true.mp out
    split at names
    next c' id' j x =>
      simp only [Bool.and_eq_true, beq_iff_eq] at names
      obtain ⟨⟨rfl, rfl⟩, rfl⟩ := names
      exact ⟨y.inFlight, .inl ⟨⟨x, listed⟩, rfl⟩, found, rfl⟩
    · cases names
  next none =>
    have gone : ∀ x, Event.copyUnitWrite c id i x ∉ s.agenda := fun x listed =>
      none (List.any_eq_true.mpr ⟨_, listed, by simp⟩)
    refine ⟨y.inFlight - 1, .inr ⟨gone, rfl⟩, ?_⟩
    dsimp only
    rw [fewer]
    dsimp only
    split
    · exact ⟨fewer, rfl⟩
    · exact ⟨fewer, rfl⟩

theorem State.unitLost_left {s : State} {c id : Nat} {x : Copy} (found : (s.core c).copy? id = some x) (i : Nat) (phase : Copy → CopyPhase)
    (code : Copy → Nat) : ∃ m, s.UnitsLeft c id i x.inFlight m ∧ ((s.unitLost c id i phase code).core c).copy? id =
      some { x with refusedAt := some (min i (x.refusedAt.getD i)), phase := phase x, code := code x, inFlight := m } ∧
      (s.unitLost c id i phase code).mem = s.mem :=
  State.unitBack_left (State.copy?_modCopy found
    (f := fun k => { k with refusedAt := some (min i (k.refusedAt.getD i)), phase := phase k, code := code k }) fun _ => rfl) i

/-- A message is early while an earlier unit's, or for a scale its own unit's elements, is on its way to the same home. -/
theorem State.unitEarly_iff {s : State} {c id i : Nat} {x : Copy} {d : CopyData} : s.unitEarly c id x i d = true ↔
    ∃ j y, Event.copyUnitWrite c id j y ∈ s.agenda ∧
      ((j < i ∧ s.partHome c x j y = s.partHome c x i d) ∨ (j = i ∧ d.bytes = [] ∧ y.bytes ≠ [])) := by
  unfold State.unitEarly
  rw [List.any_eq_true]
  constructor
  · rintro ⟨e, listed, names⟩
    split at names
    next c' id' j y =>
      simp only [Bool.and_eq_true, Bool.or_eq_true, beq_iff_eq, decide_eq_true_eq] at names
      obtain ⟨⟨rfl, rfl⟩, order⟩ := names
      exact ⟨j, y, listed, by simpa [and_assoc] using order⟩
    · cases names
  · rintro ⟨j, y, listed, order⟩
    exact ⟨_, listed, by simpa [and_assoc] using order⟩

/-! ### The bytes a message writes -/

theorem Copy.part_eq (x : Copy) (i : Nat) (u : CopyUnit) (d : CopyData) : x.part i u d =
    if d.bytes = [] then (geoAt x.geo 4 + BitVec.ofNat 64 (i * d.scale.length), d.scale.length) else (u.dst, u.n) := by
  unfold Copy.part
  cases d.bytes <;> rfl

/-- Bytes of one line of a scratchpad that has no error are written there whole. -/
theorem State.homeWriteBytes_pad {s : State} {c p off : Nat} {bs : List Byte} (some_ : bs ≠ []) (line : off % 128 + bs.length ≤ 128)
    (clean : s.poisoned? (padKey p off / 128) = none) (a : Word) : State.homeWriteBytes c (.pad p) bs.length a off bs s =
      ((s.store (padKey p off) bs.length (ofBytes bs)).bump (padKey p off / 128)).2 := by
  have bound : ofBytes bs < 2 ^ (8 * bs.length) := ofBytes_lt bs
  have whole : min bs.length (128 - off % 128) = bs.length := by omega
  have written : s.homeWrite c a (.pad p) off bs.length (2 ^ (8 * bs.length) - 1) (ofBytes bs) =
      ((s.store (padKey p off) bs.length (ofBytes bs)).bump (padKey p off / 128)).2 := by
    rw [← s.storeMasked_full _ _ _ bound]
    simp only [State.homeWrite, clean]
    rfl
  have done (t : State) (fuel k : Nat) (a : Word) : State.homeWriteBytes c (.pad p) fuel a k [] t = t := by cases fuel <;> rfl
  obtain ⟨fuel, len⟩ : ∃ fuel, bs.length = fuel + 1 := Nat.exists_eq_succ_of_ne_zero (by simpa using some_)
  have isEmpty : bs.isEmpty = false := by simpa using some_
  conv_lhs => rw [len]
  rw [State.homeWriteBytes, isEmpty, if_neg Bool.false_ne_true]
  dsimp only
  rw [whole, List.take_length, List.drop_length, written, done]

/-! ### A unit at its destination -/

section
variable {s : State} {c id : Nat} {x : Copy} (found : (s.core c).copy? id = some x) {i : Nat} {u : CopyUnit} (unit : x.units[i]? = some u)
  (flies : x.inFlight ≠ 0) {d : CopyData}
include found unit flies

theorem exec_copyUnitWrite_early (early : s.unitEarly c id x i d = true) :
    exec (.copyUnitWrite c id i d) s = .next (s.post (.copyUnitWrite c id i d)) := by
  change execCopyUnitWrite c id i d s = _
  simp only [execCopyUnitWrite, found, unit, if_neg flies, early]
  rfl

variable (inOrder : s.unitEarly c id x i d = false)
include inOrder

/-- A message behind a refused unit is dropped. -/
theorem exec_copyUnitWrite_behind (behind : s.unitBehind c x i d = true) :
    exec (.copyUnitWrite c id i d) s = .next (s.unitLost c id i Copy.phase Copy.code) := by
  change execCopyUnitWrite c id i d s = _
  simp only [execCopyUnitWrite, found, unit, if_neg flies, inOrder, behind]
  rfl

variable (first : s.unitBehind c x i d = false)
include first

theorem exec_copyUnitWrite_away (away : s.away c (s.inside c x i u) [x.part i u d] = true) :
    exec (.copyUnitWrite c id i d) s = .next (s.unitLost c id i Copy.afterRefusal Copy.code) := by
  change execCopyUnitWrite c id i d s = _
  simp only [execCopyUnitWrite, found, unit, if_neg flies, inOrder, first, away]
  rfl

variable (here : s.away c (s.inside c x i u) [x.part i u d] = false)
include here

theorem exec_copyUnitWrite_locked (locked : s.unitConflict c x true [x.part i u d] = true) :
    exec (.copyUnitWrite c id i d) s = .next (s.unitLost c id i (fun k => if k.phase = .running then .ending else k.phase) fun k =>
      if k.phase = .running then 0x07 else k.code) := by
  change execCopyUnitWrite c id i d s = _
  simp only [execCopyUnitWrite, found, unit, if_neg flies, inOrder, first, here, locked]
  rfl

theorem exec_copyUnitWrite_pad (free : s.unitConflict c x true [x.part i u d] = false) {p off : Nat}
    (pad : s.spot c (x.part i u d).1 = (.pad p, off)) :
    exec (.copyUnitWrite c id i d) s = .next ((s.writePart c x i u d).unitBack c id i) := by
  have lines : s.virtLines c [x.part i u d] = [] := by simp [State.virtLines, pad]
  change execCopyUnitWrite c id i d s = _
  simp only [execCopyUnitWrite, found, unit, if_neg flies, inOrder, first, here, free, State.withLines, lines, List.find?_nil]
  rfl

end

/-- A home where an earlier unit was refused takes no later one (R255, R257). -/
theorem State.unitBehind_refused {s : State} {c i r : Nat} {x : Copy} {u v : CopyUnit} {d : CopyData} (unit : x.units[i]? = some u)
    (refused : x.refusedAt = some r) (earlier : r ≤ i) (unit' : x.units[r]? = some v)
    (same : ∃ y ∈ x.writes r v, s.homeOf c y.1 = s.homeOf c (x.part i u d).1) : s.unitBehind c x i d = true := by
  obtain ⟨y, listed, home⟩ := same
  have hit : ((x.writes r v).any fun y => s.partHome c x i d == some (s.homeOf c y.1)) = true :=
    List.any_eq_true.mpr ⟨y, listed, by simp [State.partHome, unit, home]⟩
  simp [State.unitBehind, refused, earlier, unit', hit]

theorem State.homeOf_pad {s : State} {c p off : Nat} {a : Word} (pad : s.spot c a = (.pad p, off)) : s.homeOf c a = .pad p := by
  rw [State.homeOf, pad]

/-- A message whose bytes are written at a scratchpad. -/
theorem State.writePart_stored {s : State} (wf : Memory.wf s.mem = true) {c p off i : Nat} {x : Copy} {u : CopyUnit} {d : CopyData}
    (pad : s.spot c (x.part i u d).1 = (.pad p, off)) (some_ : d.bytes ++ d.scale ≠ []) (line : off % 128 + (d.bytes ++ d.scale).length ≤ 128)
    (clean : s.poisoned? (padKey p off / 128) = none) :
    s.Stored (s.writePart c x i u d) (padKey p off) (d.bytes ++ d.scale).length (ofBytes (d.bytes ++ d.scale)) ∧
      (s.writePart c x i u d).cores = s.cores ∧ (s.writePart c x i u d).agenda = s.agenda := by
  have bound : ofBytes (d.bytes ++ d.scale) < 2 ^ (8 * (d.bytes ++ d.scale).length) := ofBytes_lt _
  have stored := State.stored_bump wf (padKey p off) (d.bytes ++ d.scale).length (ofBytes (d.bytes ++ d.scale)) (padKey p off / 128)
  rw [Nat.mod_eq_of_lt bound] at stored
  rw [State.writePart, pad, State.homeWriteBytes_pad some_ line clean]
  exact ⟨stored, State.cores_store_bump s _ _ _ _⟩

/-- Settles O54: an equation for each step of a copy, with what an update of one copy, its end and a returned message leave of the
core's copies. -/
theorem copyEvents : Obligations.CopyEvents := by
  unfold Obligations.CopyEvents
  intro s c id x found k us now
  have named := Core.id_of_copy? found
  refine ⟨?start, ?read, ?write, ?status, ?arrival, ?sources, ?resume⟩
  case start =>
    intro phase acks quiet on
    rw [exec_copyStart found phase acks quiet on]
    refine ⟨fun clean => by rw [clean]; rfl, fun kept => ⟨_, congrArg _ (if_pos kept), ?_, s.mem_endCopy c id 0x07⟩⟩
    exact State.copy?_endCopy found (by rw [phase]; rfl)
  case read =>
    intro i u phase next on unit room at_
    exact ⟨fun d v here unlocked hand read => exec_streamerUnitRead_sends found phase next on unit room here unlocked hand read,
      fun away => exec_streamerUnitRead_away found phase next on unit room away⟩
  case write =>
    intro i u p off d unit flies to_ bs away locked early left lost
    have part : x.part i u d = to_ := x.part_eq i u d
    refine ⟨fun is => exec_copyUnitWrite_early found unit flies (State.unitEarly_iff.mpr is), fun isNot pad => ?_⟩
    have inOrder : s.unitEarly c id x i d = false := Bool.eq_false_iff.mpr fun h => isNot (State.unitEarly_iff.mp h)
    rw [← part] at pad
    refine ⟨fun r v refused earlier unit' same => ?_, fun noneRefused => ?_⟩
    · rw [← State.homeOf_pad pad] at same
      obtain ⟨m, out, copy, mem⟩ := State.unitLost_left found i Copy.phase Copy.code
      refine ⟨_, m, exec_copyUnitWrite_behind found unit flies inOrder (State.unitBehind_refused unit refused earlier unit' same), out, ?_, mem⟩
      rw [copy, refused, Option.getD_some, Nat.min_eq_right earlier]
    · have first : s.unitBehind c x i d = false := by simp [State.unitBehind, noneRefused]
      have at_ : min i (x.refusedAt.getD i) = i := by rw [noneRefused, Option.getD_none, Nat.min_self]
      refine ⟨fun here free wf some_ line clean => ?_, fun there phase => ?_, fun here meets phase => ?_⟩
      · obtain ⟨stored, cores, agenda⟩ := State.writePart_stored wf pad some_ line clean
        have found' : ((s.writePart c x i u d).core c).copy? id = some x := by rw [State.core, cores]; exact found
        obtain ⟨m, out, copy, mem⟩ := State.unitBack_left found' i
        rw [State.UnitsLeft, agenda] at out
        exact ⟨_, m, exec_copyUnitWrite_pad found unit flies inOrder first (part ▸ here) (part ▸ free) pad,
          State.stored_of_mem stored mem, out, copy⟩
      · obtain ⟨m, out, copy, mem⟩ := State.unitLost_left found i Copy.afterRefusal Copy.code
        refine ⟨_, m, exec_copyUnitWrite_away found unit flies inOrder first (part ▸ there), out, ?_, mem⟩
        rw [copy, at_, Copy.afterRefusal, phase]
      · obtain ⟨m, out, copy, mem⟩ := State.unitLost_left found i (fun k => if k.phase = .running then .ending else k.phase)
          fun k => if k.phase = .running then 0x07 else k.code
        refine ⟨_, m, exec_copyUnitWrite_locked found unit flies inOrder first (part ▸ here) (part ▸ meets), out, ?_, mem⟩
        rw [copy, at_, if_pos phase, if_pos phase]
  case status =>
    intro empty
    refine ⟨fun code ends => ?_, fun phase => ?_⟩
    · exact ⟨_, exec_copyStatusWrite_retires found empty ends, s.retireCopy_retires c x code⟩
    · obtain ⟨t, run, copy, mem, greg⟩ := exec_copyStatusWrite_refused found empty phase
      exact ⟨t, run, ⟨copy, mem⟩, greg⟩
  case arrival =>
    intro cleaning phase on g a arrives
    refine ⟨fun none_ => exec_cpyhArrival_places found phase on none_, fun b held own waits acks => ?_,
      fun b held other => exec_cpyhArrival_joins found phase on held other⟩
    have go (clean : (cleaning = none ∧ k.l1 = []) ∨ cleaning = some { awaited := [], refused := none }) : arrives := by
      let u := s.modCore c fun k => k.sendArrival g.idx false
      let v := u.modCopy c id fun k => { k with phase := .barrier (s.core c).ticks }
      have core : u.core c = (s.core c).sendArrival g.idx false := s.core_modCore c _
      have found' : (u.core c).copy? id = some x := by rw [core]; exact found
      have copy : (v.core c).copy? id = some { x with phase := .barrier (s.core c).ticks } := State.copy?_modCopy found' fun _ => rfl
      have sent : (v.core c).arrivalSent g.idx false = true := by
        rw [State.core_modCopy, core]
        exact Core.arrivalSent_sendArrival held
      exact ⟨_, exec_cpyhArrival_sends found phase on held own waits acks clean, ⟨copy, rfl⟩, rfl, sent⟩
    refine ⟨fun none_ empty => go (.inl ⟨none_, empty⟩), fun clean => go (.inr clean), fun l dirty => ?_⟩
    exact ⟨_, exec_cpyhArrival_refused found phase on held own waits acks dirty,
      State.copy?_endCopy found (by rw [phase]; rfl), s.mem_endCopy c id 0x07⟩
  case sources =>
    intro phase on es hs free
    let u := s.modCore c fun q => { q with locks := q.locks ++ es, nextId := (s.core c).nextId + es.length }
    have core : u.core c = { s.core c with locks := (s.core c).locks ++ es, nextId := (s.core c).nextId + es.length } := s.core_modCore c _
    have found' : (u.core c).copy? id = some x := by rw [core]; exact found
    refine ⟨_, exec_cpyhSourceRegistration found phase on rfl rfl free, ?_, ⟨State.copy?_modCopy found' fun _ => rfl, rfl⟩, rfl⟩
    rw [State.core_posts, State.core_modCopy, core]
    rfl
  case resume =>
    intro target i u before after cores others copies phase refused unit touched back
    subst named
    exact ⟨_, exec_copyResume cores (fun e he => (others e he).2) copies phase refused unit touched back,
      ⟨State.copy?_modCopy found fun _ => rfl, rfl⟩, rfl⟩

end Sys2Proof.Machine
end

section
/-! PROOFS. The statement of `04_consistency.md` about register-only instructions: what popping a port, writing a destination, raising
flags, waiting and completing leave alone, and the instructions by the shape of their meaning (R94, R97, R113, R143). -/

namespace Sys2Proof.Machine

/-! ### One strand -/

/-- What a step of an instruction that touches only the registers of `u` leaves of its strand. -/
structure Strand.Touches (t t' : Strand) (u : RegUse) : Prop where
  rest : ∃ pc g v p e l0 l1 f k st po rr mr sc od, t' =
    { t with pc := pc, g := g, v := v, p := p, e := e, level0 := l0, level1 := l1, fctl := f, skip := k, stall := st, popped := po,
             rerun := rr, record := mr, scalars := sc, order := od }
  general : ∀ r, RegName.g r ∉ u.writes → t'.greg r = t.greg r
  vector : ∀ r, RegName.v r ∉ u.writes → t'.vreg r = t.vreg r
  predicate : ∀ r, RegName.p r ∉ u.writes → t'.preg r = t.preg r
  copyAddress : ∀ r, RegName.e r ∉ u.writes → t'.ereg r = t.ereg r

section
variable {u : RegUse} (t : Strand)

theorem Strand.touches_setGreg {d : Reg} (writes : .g d ∈ u.writes) (v : Word) : t.Touches (t.setGreg d v) u where
  rest := by
    unfold Strand.setGreg
    split <;> exact ⟨_, _, _, _, _, _, _, _, _, _, _, _, _, _, _, rfl⟩
  general r hr := t.greg_setGreg_other d r v fun same => hr (same ▸ writes)
  vector r _ := by rw [Strand.vreg, Strand.setGreg_v, Strand.vreg]
  predicate r _ := by simp only [Strand.preg, Strand.setGreg_p]
  copyAddress r _ := by rw [Strand.ereg, Strand.setGreg_e, Strand.ereg]

theorem Strand.touches_setVreg {d : Reg} (writes : .v d ∈ u.writes) (v : VReg) : t.Touches (t.setVreg d v) u where
  rest := ⟨_, _, _, _, _, _, _, _, _, _, _, _, _, _, _, rfl⟩
  general _ _ := rfl
  vector r hr := by
    have other : d.toNat ≠ r.toNat := fun same => hr (BitVec.eq_of_toNat_eq same ▸ writes)
    simp [Strand.vreg, Strand.setVreg, other]
  predicate _ _ := rfl
  copyAddress _ _ := rfl

theorem Strand.touches_setPreg {d : Pred} (writes : .p d ∈ u.writes) (v : Word) : t.Touches (t.setPreg d v) u where
  rest := by
    unfold Strand.setPreg
    split <;> exact ⟨_, _, _, _, _, _, _, _, _, _, _, _, _, _, _, rfl⟩
  general r _ := by simp only [Strand.greg, Strand.setPreg_g]
  vector r _ := by rw [Strand.vreg, Strand.setPreg_v, Strand.vreg]
  predicate r hr := t.preg_setPreg_other d r v fun same => hr (same ▸ writes)
  copyAddress r _ := by rw [Strand.ereg, Strand.setPreg_e, Strand.ereg]

theorem Strand.touches_setEreg {d : Reg} (writes : .e d ∈ u.writes) (v : Word) : t.Touches (t.setEreg d v) u where
  rest := ⟨_, _, _, _, _, _, _, _, _, _, _, _, _, _, _, rfl⟩
  general _ _ := rfl
  vector _ _ := rfl
  predicate _ _ := rfl
  copyAddress r hr := by
    have other : d.toNat ≠ r.toNat := fun same => hr (BitVec.eq_of_toNat_eq same ▸ writes)
    simp [Strand.ereg, Strand.setEreg, other]

/-- An update of the marks of a wait, `FCTL`, the PC and the loop levels alone. -/
theorem Strand.touches_marks {t' : Strand} (h : ∃ pc l0 l1 f k st po rr mr sc od, t' =
    { t with pc := pc, level0 := l0, level1 := l1, fctl := f, skip := k, stall := st, popped := po, rerun := rr, record := mr,
             scalars := sc, order := od }) : t.Touches t' u := by
  obtain ⟨pc, l0, l1, f, k, st, po, rr, mr, sc, od, rfl⟩ := h
  exact ⟨⟨_, _, _, _, _, _, _, _, _, _, _, _, _, _, _, rfl⟩, fun _ _ => rfl, fun _ _ => rfl, fun _ _ => rfl, fun _ _ => rfl⟩

end

/-! ### One step -/

section
variable {u : RegUse} {s t t' : State}

theorem RegFrame.cur (h : RegFrame s t u) : t.cur = s.cur := by rw [h.rest]

theorem RegFrame.namesPort (h : RegFrame s t u) : t.me.namesPort u = s.me.namesPort u := by
  obtain ⟨_, _, _, _, _, _, _, _, _, _, _, _, _, _, _, me⟩ := h.strand
  rw [me]
  rfl

theorem RegFrame.trans (h : RegFrame s t u) (h' : RegFrame t t' u) : RegFrame s t' u where
  rest := by
    rw [h'.rest]
    conv_lhs => rw [h.rest]
  others c hc := (h'.others c (by rwa [h.cur])).trans (h.others c hc)
  core := by
    obtain ⟨q, ss, core⟩ := h.core
    obtain ⟨q', ss', core'⟩ := h'.core
    rw [h.cur, core] at core'
    exact ⟨q', ss', core'⟩
  strands n hn := by
    have there := h'.strands n (by rwa [h.cur])
    rw [h.cur] at there
    exact there.trans (h.strands n hn)
  strand := by
    obtain ⟨_, _, _, _, _, _, _, _, _, _, _, _, _, _, _, me⟩ := h.strand
    obtain ⟨_, _, _, _, _, _, _, _, _, _, _, _, _, _, _, me'⟩ := h'.strand
    rw [me] at me'
    exact ⟨_, _, _, _, _, _, _, _, _, _, _, _, _, _, _, me'⟩
  general r hr := (h'.general r hr).trans (h.general r hr)
  vector r hr := (h'.vector r hr).trans (h.vector r hr)
  predicate r hr := (h'.predicate r hr).trans (h.predicate r hr)
  copyAddress r hr := (h'.copyAddress r hr).trans (h.copyAddress r hr)
  queues none := by
    have there := h'.queues (h.namesPort.trans none)
    rw [h.cur] at there
    exact there.trans (h.queues none)

theorem RegFrame.modMe {f : Strand → Strand} (h : s.me.Touches (f s.me) u) : RegFrame s (s.modMe f) u where
  rest := rfl
  others c hc := s.core_setCore_other _ _ _ hc
  core := ⟨_, _, s.core_modMe f⟩
  strands n hn := s.strand_modMe_other f _ n (.inr hn)
  strand := by rw [State.me_modMe]; exact h.rest
  general := by rw [State.me_modMe]; exact h.general
  vector := by rw [State.me_modMe]; exact h.vector
  predicate := by rw [State.me_modMe]; exact h.predicate
  copyAddress := by rw [State.me_modMe]; exact h.copyAddress
  queues _ := by rw [State.core_modMe, Core.setStrand_queues]

theorem RegFrame.refl (s : State) (u : RegUse) : RegFrame s s u where
  rest := rfl
  others _ _ := rfl
  core := ⟨_, _, rfl⟩
  strands _ _ := rfl
  strand := ⟨_, _, _, _, _, _, _, _, _, _, _, _, _, _, _, rfl⟩
  general _ _ := rfl
  vector _ _ := rfl
  predicate _ _ := rfl
  copyAddress _ _ := rfl
  queues _ := rfl

/-- A change of the queues, where the instruction names a port. -/
theorem RegFrame.queued (named : s.me.namesPort u = true) {f : Core → Core}
    (h : ∃ q, f (s.core s.cur.1) = { s.core s.cur.1 with queues := q }) : RegFrame s (s.modCore s.cur.1 f) u := by
  obtain ⟨q, hq⟩ := h
  have strand (n : Nat) : (s.modCore s.cur.1 f).strand s.cur.1 n = s.strand s.cur.1 n := State.strand_modCore_keeps (by rw [hq]) _ n
  have me : (s.modCore s.cur.1 f).me = s.me := strand s.cur.2
  exact {
    rest := rfl
    others := fun c hc => s.core_modCore_other _ _ _ hc
    core := ⟨q, _, (s.core_modCore _ _).trans hq⟩
    strands := fun n _ => strand n
    strand := ⟨_, _, _, _, _, _, _, _, _, _, _, _, _, _, _, me⟩
    general := fun r _ => congrArg (Strand.greg · r) me
    vector := fun r _ => congrArg (Strand.vreg · r) me
    predicate := fun r _ => congrArg (Strand.preg · r) me
    copyAddress := fun r _ => congrArg (Strand.ereg · r) me
    queues := fun none => Bool.noConfusion (named.symm.trans none) }

theorem RegFrame.flag (s : State) (fl : Flags) : RegFrame s (s.flag fl) u :=
  .modMe (s.me.touches_marks ⟨_, _, _, _, _, _, _, _, _, _, _, rfl⟩)

theorem RegFrame.wait (s : State) (why : StallWhy) : RegFrame s (s.wait why) u := by
  unfold State.wait
  refine RegFrame.modMe (Strand.touches_marks s.me ?_)
  split <;> exact ⟨_, _, _, _, _, _, _, _, _, _, _, rfl⟩

theorem RegFrame.retire (s : State) (f : Flow) : RegFrame s (s.retire f) u := by
  obtain ⟨pc, l0, l1, done⟩ := s.me.complete_frame s.me.pc s.me.skip f
  exact .modMe (s.me.touches_marks ⟨_, _, _, _, _, _, _, _, _, _, _, done⟩)

end

/-! ### Ports (R113) -/

section
variable {u : RegUse} {s : State}

theorem Strand.namesPort_of_port {t : Strand} {r : Reg} {q : Nat} (port : t.port? r = some q) (named : .g r ∈ u.reads ∨ .g r ∈ u.writes) :
    t.namesPort u = true := by
  rw [Strand.namesPort, List.any_eq_true]
  exact ⟨.g r, List.mem_append.mpr named, by simp [port]⟩

theorem Core.popQueue_queues (k : Core) (q : Nat) : ∃ qs, k.popQueue q = { k with queues := qs } := by
  unfold Core.popQueue
  split
  · exact ⟨_, rfl⟩
  · exact ⟨_, rfl⟩

theorem RegFrame.popOne (named : s.me.namesPort u = true) (q : Nat) : RegFrame s (s.popOne q) u := by
  unfold State.popOne
  split
  · exact .refl s u
  · exact (RegFrame.queued named (Core.popQueue_queues _ q)).trans (.modMe (Strand.touches_marks _ ⟨_, _, _, _, _, _, _, _, _, _, _, rfl⟩))

theorem RegFrame.pops {srcs : List Reg} (reads : ∀ r ∈ srcs, .g r ∈ u.reads) : RegFrame s (s.pops srcs) u := by
  unfold State.pops
  by_cases named : s.me.namesPort u = true
  · generalize s.me.ports srcs = l
    induction l generalizing s with
    | nil => exact .refl s u
    | cons q l ih =>
      have first := RegFrame.popOne named q
      exact first.trans (ih (first.namesPort.trans named))
  · have none : ∀ r ∈ srcs, s.me.port? r = none := fun r hr => by
      by_contra some_
      obtain ⟨q, port⟩ := Option.ne_none_iff_exists'.mp some_
      exact named (Strand.namesPort_of_port port (.inl (reads r hr)))
    rw [Strand.ports, List.filterMap_eq_nil_iff.mpr none]
    exact .refl s u

theorem RegFrame.write {d : Reg} (writes : .g d ∈ u.writes) (v : Word) : RegFrame s (s.write d v) u := by
  unfold State.write State.writeG
  split
  next q port => exact .queued (Strand.namesPort_of_port port (.inr writes)) ⟨_, rfl⟩
  next => exact RegFrame.modMe (f := fun t => t.setGreg d v) (s.me.touches_setGreg writes v)

end

/-! ### Instructions by the shape of their meaning -/

/-- An answer that, where it is a next state, leaves alone what is not of `u`. -/
def State.Frames (s : State) (o : Out) (u : RegUse) : Prop := ∀ t, o = .next t → RegFrame s t u

section
variable {u : RegUse} {s : State}

theorem RegFrame.frames {t : State} (h : RegFrame s t u) : s.Frames (.next t) u := by
  intro x hx
  cases hx
  exact h

theorem RegFrame.frames_trans {t : State} (h : RegFrame s t u) {o : Out} (h' : t.Frames o u) : s.Frames o u :=
  fun x hx => h.trans (h' x hx)

theorem State.frames_gate {o : Out} (h : s.Frames o u) (srcs pushes writes : List Reg) : s.Frames (s.gate srcs pushes writes o) u := by
  rcases s.gate_cases srcs pushes writes o with go | ⟨w, waits⟩
  · rw [go]; exact h
  · rw [waits]; exact (RegFrame.wait s w).frames

theorem State.frames_complete : s.Frames (.next (s.retire .on)) u := (RegFrame.retire s .on).frames

theorem State.frames_vresult {d : Reg} (writes : .v d ∈ u.writes) {v : VReg} {fl : Flags} : s.Frames (s.vresult d v fl) u :=
  (((RegFrame.modMe (s.me.touches_setVreg writes v)).trans (.flag _ fl)).trans (.retire _ .on)).frames

theorem State.frames_presult {d : Pred} (writes : .p d ∈ u.writes) {v : Word} {fl : Flags} : s.Frames (s.presult d v fl) u :=
  (((RegFrame.modMe (s.me.touches_setPreg writes v)).trans (.flag _ fl)).trans (.retire _ .on)).frames

section
variable {srcs : List Reg} (reads : ∀ r ∈ srcs, .g r ∈ u.reads)
include reads

theorem State.frames_result {d : Reg} (writes : .g d ∈ u.writes) {v : Word} : s.Frames (s.result srcs d v) u :=
  State.frames_gate (((RegFrame.pops reads).trans (.write writes v)).trans (.retire _ .on)).frames _ _ _

theorem State.frames_resultFlags {d : Reg} (writes : .g d ∈ u.writes) {v : Nat × Flags} : s.Frames (s.resultFlags srcs d v) u :=
  State.frames_gate ((((RegFrame.pops reads).trans (.write writes _)).trans (.flag _ v.2)).trans (.retire _ .on)).frames _ _ _

theorem State.frames_popped {o : Out} (h : (s.pops srcs).Frames o u) (pushes writes : List Reg) :
    s.Frames (s.gate srcs pushes writes o) u := State.frames_gate ((RegFrame.pops reads).frames_trans h) _ _ _

end

end

/-- Settles O14: every register-only instruction has one of eight shapes, whatever it computes. -/
theorem registerOnlyFrame : Obligations.RegisterOnlyFrame := by
  unfold Obligations.RegisterOnlyFrame
  intro i u s t use run
  cases i with
  | add | sub | and | or | xor | andn | orn | xnor | addw | subw | lea1 | lea2 | lea3 | lea4 | gname | sll | srl | sra | rol |
    ror | sllw | srlw | sraw | clz | ctz | popc | brev | bswap | bext | bdep | mul | mulhI64 | mulhW64 | mulI32 | divI64 |
    divW64 | remI64 | remW64 | divI32 | divW32 | remI32 | remW32 | seq | sne | sltI64 | sltW64 | sleI64 | sleW64 | minI64 |
    minW64 | maxI64 | maxW64 | czn | czz | fclassF64 | fclassF32 | addi | andi | ori | xori | sltiI64 | slli | srli | srai |
    rori | sltiW64 | lih | addpc | erd | ptog | vext =>
    cases use
    exact State.frames_result (by simp [gUse]) (by simp [gUse]) t run
  | fadd | fsub | fmul | fdiv | fsqrt | fmin | fmax | fsgnj | fsgnjn | fsgnjx | fmac | fmsc | fcvtF32F64 | fcvtF64F32 |
    fcvtF16F32 | fcvtF32F16 | fcvtBf16F32 | fcvtF32Bf16 | fcvtF16F64 | fcvtF64F16 | fcvtF64I64 | fcvtF64W64 | fcvtF32I64 |
    fcvtF32W64 | fcvtI64F64 | fcvtW64F64 | fcvtI64F32 | fcvtW64F32 | fcvtI32F64 | fcvtW32F64 | fcvtI32F32 | fcvtW32F32 | feqF64
    | fltF64 | fleF64 | feqF32 | fltF32 | fleF32 =>
    cases use
    exact State.frames_resultFlags (by simp [gUse]) (by simp [gUse]) t run
  | vadd | vsub | vmul | vmulh | vmin | vmax | vadds | vsubs | vand | vor | vxor | vandn | vsll | vsrl | vsra | vfadd | vfsub |
    vfmul | vfdiv | vfsqrt | vfmin | vfmax | vfabs | vfmaF32 | vfmsF32 | vfnmaF32 | vfnmsF32 | vfmaF16 | vfmaBf16 | vmaddI32 |
    vmaddI16 | vperm | vzipl | vziph | vunzpe | vunzpo | vrev | vradd | vrmin | vrmax | vrfadd | vrfmin | vrfmax | vcvtF32F16 |
    vcvtF16F32 | vcvtF32Bf16 | vcvtBf16F32 | vcvtF32I32 | vcvtF32W32 | vcvtI32F32 | vcvtW32F32 | vcvtI32I8 | vcvtI8I32 |
    vcvtF32D16 | vcvtF32D8 | vcvtF32D4 | vcvtD16F32 | vcvtD8F32 | vcvtD4F32 | vcvtF32E4m3 | vcvtF32E5m2 | vcvtF32E2m3 |
    vcvtF32E3m2 | vcvtF32E2m1 | vcvtF32Mxi8 | vcvtE4m3F32 | vcvtE5m2F32 | vcvtE2m3F32 | vcvtE3m2F32 | vcvtE2m1F32 | vcvtMxi8F32
    | vrcp | vrsqrt | vexp2 | vlog2 | vtanh | vsigm | vmov | vmerge | vdxdot | vdxamax =>
    cases use
    exact State.frames_vresult (by simp [vUse]) t run
  | vslide | vbcl | vdup | vins =>
    cases use
    exact State.frames_popped (by simp [vUse]) (State.frames_vresult (by simp [vUse])) _ _ t run
  | vceq | vcne | vclt | vcle | vcfeq | vcflt | vcfle | vcfun | pand | por | pxor | pandn | pnot =>
    cases use
    exact State.frames_presult (by simp [cUse]) t run
  | pfromg =>
    cases use
    exact State.frames_popped (by simp) (State.frames_presult (by simp)) _ _ t run
  | ewr =>
    cases use
    exact State.frames_popped (by simp) ((RegFrame.modMe (Strand.touches_setEreg _ (by simp) _)).trans (.retire _ .on)).frames _
      _ t run
  | nop | hlikely | hunlikely =>
    cases use
    exact State.frames_complete t run
  | _ => cases use

end Sys2Proof.Machine
end

section
/-! PROOFS. The statement of `04_consistency.md` about fences, `l1wb`, `l1inv`, `ptsync` and `netsync`: what each does in its first slot
(R82 to R85, R175, R295, R296). -/

namespace Sys2Proof.Machine

/-! ### What writing lines of slices back leaves alone (R85, R333) -/

/-- The fields that no slice's write-back, drop or translation changes. -/
def State.offSlices (s : State) := (s.cur, s.cores, s.agenda, s.partitions)

theorem State.offSlices_writeLine (s : State) (l : SliceLine) : (s.writeLine l).offSlices = s.offSlices := by
  obtain ⟨m, stored⟩ := s.setMasked_frame l.phys l.data l.dirty
  unfold State.writeLine
  split
  · rfl
  · split
    · unfold State.sendData
      dsimp only
      split <;> rfl
    · rw [stored]
      dsimp only
      split
      · rfl
      · split
        · rfl
        · split <;> rfl

theorem State.offSlices_applyInv (s : State) (k : Nat) (w : Word) : (s.applyInv k w).offSlices = s.offSlices := by
  rw [State.applyInv_eq]
  exact foldl_keeps State.offSlices (State.flushLine k) (fun s l => s.offSlices_writeLine l) _ s

theorem State.offSlices_applyLog (s : State) (site : Nat) : (s.applyLog site).offSlices = s.offSlices :=
  foldl_keeps State.offSlices _ (fun s w => foldl_keeps State.offSlices _ (fun s i => s.offSlices_applyInv (32 * site + i) w) _ s) _ s

theorem State.offSlices_overSlices {f : Nat → State → State} (h : ∀ k s, (f k s).offSlices = s.offSlices) (s : State) (part : Nat) :
    (s.overSlices part f).offSlices = s.offSlices := by
  unfold State.overSlices
  split
  · rfl
  · exact foldl_keeps State.offSlices _ (fun s k => h k s) _ s

theorem State.offSlices_writeFar (s : State) (part : Nat) : (s.writeFar part).offSlices = s.offSlices := by
  refine State.offSlices_overSlices (fun k s => ?_) s part
  refine foldl_keeps State.offSlices _ ?_ _ s
  exact fun s l => s.offSlices_writeLine l

theorem State.offSlices_dropFar (s : State) (part : Nat) : (s.dropFar part).offSlices = s.offSlices := by
  refine State.offSlices_overSlices ?_ s part
  exact fun _ _ => rfl

/-- What the fields that `State.offSlices` names determine. -/
theorem State.of_offSlices {s t : State} (h : t.offSlices = s.offSlices) :
    t.cur = s.cur ∧ (∀ c, t.core c = s.core c) ∧ t.agenda = s.agenda ∧ t.partitions = s.partitions := by
  simp only [State.offSlices, Prod.mk.injEq] at h
  obtain ⟨cur, cores, agenda, parts⟩ := h
  exact ⟨cur, fun c => by rw [State.core, cores, State.core], agenda, parts⟩

/-! ### The acquire action (R83, R85) -/

/-- Clean lines of the second tier and of host memory leave every slice of the partition. -/
theorem State.dropFar_leaves {s : State} {part : Nat} {p : Partition} (here : s.partition? part = some p) {k : Nat} (held : k ∈ p.slices) :
    ∀ l ∈ ((s.dropFar part).slice k).lines, ¬ (l.far = true ∧ l.dirty = 0) := by
  unfold State.dropFar State.overSlices
  rw [here]
  refine foldl_establishes (inv := fun _ => True) (P := fun t : State => ∀ l ∈ (t.slice k).lines, ¬ (l.far = true ∧ l.dirty = 0))
    (fun _ _ _ => trivial) (fun t _ l hl => ?_) (fun t j _ was l hl => ?_) held trivial
  · rw [State.slice_modSlice] at hl
    have kept := (List.mem_filter.mp hl).2
    simpa [Decidable.imp_iff_not_or] using kept
  · refine was l ?_
    change l ∈ ((t.modSlice j _).slice k).lines at hl
    by_cases same : j = k
    · rw [same, State.slice_modSlice] at hl
      exact List.mem_of_mem_filter hl
    · rwa [State.slice, State.modSlice, State.setSlice, lookupD_assign_other _ _ _ _ _ (Ne.symm same)] at hl

theorem State.acquire_package (s : State) (c : Nat) : (s.acquire c .package).cur = s.cur ∧
    (s.acquire c .package).core c = (s.core c).acquire ∧ ((s.acquire c .package).reticle (siteOf c)).invLog = [] ∧
    ∀ p, s.partition? (s.partOf c) = some p → ∀ k ∈ p.slices, ∀ l ∈ ((s.acquire c .package).slice k).lines,
      ¬ (l.far = true ∧ l.dirty = 0) := by
  let u := s.modCore c Core.acquire
  let v := u.applyLog (siteOf c)
  have run : s.acquire c .package = v.dropFar (u.partOf c) := rfl
  have ucore : u.core c = (s.core c).acquire := s.core_modCore c _
  have upart : u.partOf c = s.partOf c := by
    rw [State.partOf, ucore]
    rfl
  obtain ⟨vcur, vcore, -, vparts⟩ := State.of_offSlices (u.offSlices_applyLog (siteOf c))
  obtain ⟨tcur, tcore, -, -⟩ := State.of_offSlices (v.offSlices_dropFar (u.partOf c))
  have reticles : (v.dropFar (u.partOf c)).reticles = v.reticles := by
    unfold State.dropFar State.overSlices
    split
    · rfl
    · refine foldl_keeps State.reticles _ ?_ _ v
      exact fun _ _ => rfl
  rw [run]
  refine ⟨tcur.trans vcur, (tcore c).trans ((vcore c).trans ucore), ?_, fun p here k held => State.dropFar_leaves ?_ held⟩
  · rw [State.reticle, reticles]
    exact congrArg Reticle.invLog (State.reticle_setReticle _ _ _)
  · rw [upart, State.partition?, vparts]
    exact here

/-- A scope within the partition acquires at the core alone. -/
theorem State.acquire_near {sc : Scope} (near : sc ≠ .package) (s : State) (c : Nat) :
    s.acquire c sc = if wide sc then s.modCore c Core.acquire else s := by
  unfold State.acquire
  cases wide sc
  · rfl
  · exact if_neg near

/-- Updates of a core and of its issuing strand, neither of which sees the other. -/
theorem State.modCore_modMe {g : Core → Core} (apart : ∀ k n t, g (Core.setStrand k n t) = (g k).setStrand n t)
    (strands : ∀ k, (g k).strands = k.strands) (s : State) (f : Strand → Strand) :
    (s.modMe f).modCore s.cur.1 g = (s.modCore s.cur.1 g).modMe f := by
  have me : (s.modCore s.cur.1 g).me = s.me := s.me_modCore g (strands _)
  have here : (s.modCore s.cur.1 g).core s.cur.1 = g (s.core s.cur.1) := s.core_modCore _ g
  calc (s.modMe f).modCore s.cur.1 g = (s.modMe f).setCore s.cur.1 (g ((s.core s.cur.1).setStrand s.cur.2 (f s.me))) := by
        rw [State.modCore, State.core_modMe]
    _ = s.setCore s.cur.1 ((g (s.core s.cur.1)).setStrand s.cur.2 (f s.me)) := by
        rw [apart]
        exact s.setCore_setCore _ _ _
    _ = (s.modCore s.cur.1 g).modMe f := by
        rw [State.modMe, me, State.setMe, State.setStrand]
        change _ = (s.modCore s.cur.1 g).setCore s.cur.1 (((s.modCore s.cur.1 g).core s.cur.1).setStrand s.cur.2 (f s.me))
        rw [here]
        exact (s.setCore_setCore _ _ _).symm

theorem State.acquire_modMe {sc : Scope} (near : sc ≠ .package) (s : State) (f : Strand → Strand) :
    (s.modMe f).acquire s.cur.1 sc = (s.acquire s.cur.1 sc).modMe f := by
  rw [State.acquire_near near, State.acquire_near near]
  split
  · exact State.modCore_modMe (g := Core.acquire) (fun _ _ _ => rfl) (fun _ => rfl) s f
  · rfl

theorem State.me_acquire {sc : Scope} (near : sc ≠ .package) (s : State) : (s.acquire s.cur.1 sc).me = s.me := by
  rw [State.acquire_near near]
  split
  · exact s.me_modCore _ rfl
  · rfl

theorem State.cur_acquire {sc : Scope} (near : sc ≠ .package) (s : State) (c : Nat) : (s.acquire c sc).cur = s.cur := by
  rw [State.acquire_near near]
  split <;> rfl

/-! ### The first slot (R102) -/

section
variable {s : State} (free : s.Free)
include free

theorem State.begin_free (la : La) (p : Phase) :
    s.begin [] la p = ((s.modMe fun t => t.held (s.issued la p)).service s.cur.1 s.cur.2).endDone s.cur.1 s.cur.2 := by
  rw [State.begin, State.pops_free free, State.hold_free free]

/-- An instruction that is done with its first slot, the module but its strand being `u`, completes in the pipeline. -/
theorem State.ends_in_pipeline (idle : s.me.outst = none) {u : State} (cur : u.cur = s.cur) (me : u.me = s.me) {o : Outst}
    (pc : o.pc = s.me.pc) (retired : o.retired = 0) :
    ((u.modMe fun t => t.held o).done s.cur.1 s.cur.2).endDone s.cur.1 s.cur.2 = u.retire .on := by
  rw [← cur, State.done, State.setPhase_held, State.endDone, u.phase?_held]
  exact State.finish_held (o := { o with phase := .done none }) (by rw [me]; exact idle) (by rw [me]; exact free.noSkip)
    (by rw [me]; exact pc) retired .on

/-- The same, told by the issuing strand, where the slot has changed more than that strand. -/
theorem State.ends_as_strand (idle : s.me.outst = none) {y : State} (cur : y.cur = s.cur) {o : Outst}
    (held : y.strand s.cur.1 s.cur.2 = s.me.held o) (pc : o.pc = s.me.pc) (retired : o.retired = 0) :
    ∃ f, (y.done s.cur.1 s.cur.2).endDone s.cur.1 s.cur.2 = y.modStrand s.cur.1 s.cur.2 f ∧
      (y.modStrand s.cur.1 s.cur.2 f).me = (s.retire .on).me := by
  have outst : ((y.done s.cur.1 s.cur.2).strand s.cur.1 s.cur.2).outst = some { o with phase := .done none } := by
    rw [State.done_eq, State.strand_modStrand, held]
    rfl
  rw [State.endDone_of_done outst rfl, State.done_eq, State.modStrand_modStrand]
  refine ⟨_, rfl, ?_⟩
  rw [State.me, State.modStrand_cur, cur, State.strand_modStrand, held, State.me_retire, free.noSkip, ← s.me.complete_held idle o, ← pc,
    ← retired]
  rfl

end

/-- An instruction that its first slot leaves in its phase waits. -/
theorem State.waits_in_phase {s : State} (la : La) {p : Phase} (waits : ∀ r, p ≠ .done r) :
    s.WaitsIn ((s.modMe fun t => t.held (s.issued la p)).endDone s.cur.1 s.cur.2) p := by
  rw [State.endDone_held waits]
  exact State.waitsIn_of_held (o := s.issued la p) (s.me_modMe _) rfl

/-! ### Releases (R83, R85) -/

theorem State.release_wide {sc : Scope} (h : wide sc = true) (s : State) (c n : Nat) : s.release c n sc = s.release c n .partition := by
  cases sc with
  | strand | core => exact absurd h (by decide)
  | cluster | reticle | partition | package => rfl

/-- A release of any scope finds nothing to wait for in a settled strand. -/
theorem State.release_scope {s : State} (settled : s.Settled) {o : Outst} (new : o.cleaning = none) (sc : Scope) :
    ∃ w, (s.modMe fun t => t.held o).release s.cur.1 s.cur.2 sc = (.done, s.modMe fun t => t.held { o with cleaning := w }) := by
  have unchanged : { o with cleaning := none } = o := by cases o; cases new; rfl
  have acks : ((s.modMe fun t => t.held o).strand s.cur.1 s.cur.2).acks = 0 := by
    rw [State.strand_modMe]
    exact settled.acked
  by_cases far : wide sc = true
  · obtain ⟨w, released⟩ := State.release_settled settled new
    exact ⟨some w, (State.release_wide far _ _ _).trans released⟩
  · refine ⟨none, ?_⟩
    have local_ : wide sc = false := Bool.eq_false_iff.mpr far
    rw [unchanged, State.release, local_]
    by_cases own : sc = .strand
    · exact if_pos own
    · rw [if_neg own, if_neg (not_not_intro acks)]
      rfl

/-- A strand with stores unacknowledged releases nothing beyond its own order (R81, R83). -/
theorem State.release_unacknowledged {s : State} {c n : Nat} (acks : (s.strand c n).acks ≠ 0) {sc : Scope} (beyond : sc ≠ .strand) :
    s.release c n sc = (.wait, s) := by
  rw [State.release, if_neg beyond, if_pos acks]

/-- Slices of a core's partition hold dirty lines of the second tier or of host memory. -/
def State.OwesFar (s : State) (c : Nat) : Prop :=
  ∃ p, s.partition? (s.partOf c) = some p ∧ ∃ k ∈ p.slices, ∃ l ∈ (s.slice k).lines, l.far = true ∧ l.dirty ≠ 0

/-- The same, as a slot asks it. -/
def State.owesFar (s : State) (c : Nat) : Bool :=
  match s.partition? (s.partOf c) with
  | some p => p.slices.any fun k => (s.slice k).lines.any fun l => l.far && l.dirty != 0
  | none => false

theorem State.owesFar_iff {s : State} {c : Nat} : s.owesFar c = true ↔ s.OwesFar c := by
  unfold State.owesFar State.OwesFar
  cases s.partition? (s.partOf c) with
  | none => simp
  | some p => simp

theorem State.owesFar_modMe (s : State) (f : Strand → Strand) (c : Nat) : (s.modMe f).OwesFar c ↔ s.OwesFar c := by
  rw [State.OwesFar, State.partOf, (s.run_modMe f c).1]
  rfl

/-! ### Fences in a slot (R83, R85, R175) -/

section
variable {s : State} {c n : Nat} {o : Outst} (outst : (s.strand c n).outst = some o) (noTrap : o.err = none) {acq : Bool} {sc : Scope}
include outst noTrap

theorem State.service_acquire (phase : o.phase = .fence false acq sc) : s.service c n = (s.acquire c sc).done c n := by
  simp [State.service, outst, noTrap, phase]

theorem State.service_fenceAck (phase : o.phase = .fenceAck) :
    s.service c n = if (s.strand c n).acks = 0 then s.done c n else s := by
  simp [State.service, outst, noTrap, phase]

variable (phase : o.phase = .fence true acq sc)
include phase

theorem State.service_release_waits (released : s.release c n sc = (.wait, s)) : s.service c n = s := by
  simp [State.service, outst, noTrap, phase, State.releaseThen, released, State.onRelease]

theorem State.service_release {y : State} (released : s.release c n sc = (.done, y)) (h : sc ≠ .package ∨ ¬ y.OwesFar c) :
    s.service c n = (if acq then y.acquire c sc else y).done c n := by
  have ends : s.service c n =
      if sc = .package then if y.owesFar c then ((y.writeFar (y.partOf c)).setPhase c n (.tier acq)).post (.secondTierCompletion c n)
        else if acq then (y.acquire c sc).done c n else y.done c n
      else if acq then (y.acquire c sc).done c n else y.done c n := by
    simp only [State.service, outst, noTrap, phase, State.releaseThen, released, State.onRelease]
    rfl
  have near : (if acq then (y.acquire c sc).done c n else y.done c n) = (if acq then y.acquire c sc else y).done c n := by
    cases acq <;> rfl
  rw [ends, near]
  split
  next package =>
    have none : y.owesFar c = false := Bool.eq_false_iff.mpr fun owes => (h.resolve_left (not_not_intro package)) (y.owesFar_iff.mp owes)
    rw [none]
    rfl
  next => rfl

theorem State.service_release_far {y : State} (package : sc = .package) (released : s.release c n sc = (.done, y)) (far : y.OwesFar c) :
    s.service c n = ((y.writeFar (y.partOf c)).setPhase c n (.tier acq)).post (.secondTierCompletion c n) := by
  have owes : y.owesFar c = true := y.owesFar_iff.mpr far
  simp only [State.service, outst, noTrap, phase, State.releaseThen, released, State.onRelease, if_pos package]
  exact if_pos owes

end

/-! ### Fences as they are issued (R175) -/

/-- A completed fence of package scope, told by the fields an acquire of that scope governs (R85). -/
structure State.AcquiredPackage (s t : State) : Prop where
  me : t.me = (s.retire .on).me
  l1 : (t.core s.cur.1).l1 = (s.core s.cur.1).acquire.l1
  icache : (t.core s.cur.1).icache = []
  log : (t.reticle (siteOf s.cur.1)).invLog = []
  lines : ∀ p, s.partition? (s.partOf s.cur.1) = some p → ∀ k ∈ p.slices, ∀ l ∈ (t.slice k).lines, ¬ (l.far = true ∧ l.dirty = 0)

section
variable {s : State} (free : s.Free) (idle : s.me.outst = none) (la : La)
include free

/-- A fence whose release finds nothing to wait for. -/
theorem State.begin_release (settled : s.Settled) (acq : Bool) {sc : Scope} (h : sc ≠ .package ∨ ¬ s.OwesFar s.cur.1) :
    ∃ w, let y := s.modMe fun t => t.held { s.issued la (.fence true acq sc) with cleaning := w }
      s.begin [] la (.fence true acq sc) =
        ((if acq then y.acquire s.cur.1 sc else y).done s.cur.1 s.cur.2).endDone s.cur.1 s.cur.2 := by
  obtain ⟨w, released⟩ := State.release_scope settled (o := s.issued la (.fence true acq sc)) rfl sc
  refine ⟨w, ?_⟩
  rw [State.begin_free free, State.service_release (o := s.issued la (.fence true acq sc))
    (by rw [State.strand_modMe, Strand.held_outst]) rfl rfl released (h.imp_right (mt (s.owesFar_modMe _ _).mp))]

/-- A package release that finds dirty lines of the second tier writes them and waits for them (R85). -/
theorem State.begin_fenceRel_far (settled : s.Settled) (far : s.OwesFar s.cur.1) :
    ∃ t, s.begin [] la (.fence true false .package) = t ∧ t.me.phase? = some (.tier false) ∧ t.me.pc = s.me.pc + 4 ∧
      t.me.g = s.me.g ∧ t.agenda = s.agenda ++ [.secondTierCompletion s.cur.1 s.cur.2] := by
  obtain ⟨w, released⟩ := State.release_scope settled (o := s.issued la (.fence true false .package)) rfl .package
  let o := { s.issued la (.fence true false .package) with cleaning := w }
  let y := s.modMe fun t => t.held o
  let z := (y.writeFar (y.partOf s.cur.1)).setPhase s.cur.1 s.cur.2 (.tier false)
  obtain ⟨cur, core, agenda, -⟩ := State.of_offSlices (y.offSlices_writeFar (y.partOf s.cur.1))
  have held : (y.writeFar (y.partOf s.cur.1)).strand s.cur.1 s.cur.2 = s.me.held o := by
    rw [State.strand, core]
    exact s.strand_modMe _
  have strand : z.strand s.cur.1 s.cur.2 = s.me.held { o with phase := .tier false } := by
    refine (State.strand_modStrand _ _ _ _).trans ?_
    rw [held]
    rfl
  have me : z.me = s.me.held { o with phase := .tier false } := by
    rw [State.me, show z.cur = s.cur from cur]
    exact strand
  have waits : (z.post (.secondTierCompletion s.cur.1 s.cur.2)).endDone s.cur.1 s.cur.2 =
      z.post (.secondTierCompletion s.cur.1 s.cur.2) := by
    refine State.endDone_of_waits (p := .tier false) ?_ fun _ => nofun
    change (z.strand s.cur.1 s.cur.2).phase? = _
    rw [strand]
    rfl
  have run : s.begin [] la (.fence true false .package) = z.post (.secondTierCompletion s.cur.1 s.cur.2) := by
    rw [State.begin_free free, State.service_release_far (o := s.issued la (.fence true false .package))
      (by rw [State.strand_modMe, Strand.held_outst]) rfl rfl rfl released ((s.owesFar_modMe _ _).mpr far)]
    exact waits
  have zme : (z.post (.secondTierCompletion s.cur.1 s.cur.2)).me = z.me := rfl
  refine ⟨_, run, ?_, ?_, ?_, congrArg (· ++ _) agenda⟩ <;> rw [zme, me] <;> rfl

include idle

/-- The acquire of a fence whose release, if it has one, is done. -/
theorem State.ends_acquired {sc : Scope} (near : sc ≠ .package) {o : Outst} (pc : o.pc = s.me.pc) (retired : o.retired = 0) :
    (((s.modMe fun t => t.held o).acquire s.cur.1 sc).done s.cur.1 s.cur.2).endDone s.cur.1 s.cur.2 =
      (s.acquire s.cur.1 sc).retire .on := by
  rw [State.acquire_modMe near]
  exact State.ends_in_pipeline free idle (State.cur_acquire near s _) (State.me_acquire near s) pc retired

theorem State.ends_acquiredPackage {o : Outst} (pc : o.pc = s.me.pc) (retired : o.retired = 0) :
    s.AcquiredPackage ((((s.modMe fun t => t.held o).acquire s.cur.1 .package).done s.cur.1 s.cur.2).endDone s.cur.1 s.cur.2) := by
  let u := s.modMe fun t => t.held o
  have ucore : u.core s.cur.1 = (s.core s.cur.1).setStrand s.cur.2 (s.me.held o) := s.core_modMe _
  have part : u.partOf s.cur.1 = s.partOf s.cur.1 := by
    rw [State.partOf, ucore]
    rfl
  obtain ⟨cur, core, log, lines⟩ := u.acquire_package s.cur.1
  have held : (u.acquire s.cur.1 .package).strand s.cur.1 s.cur.2 = s.me.held o :=
    calc (u.acquire s.cur.1 .package).strand s.cur.1 s.cur.2 = u.strand s.cur.1 s.cur.2 := by
          rw [State.strand, core]
          rfl
      _ = s.me.held o := s.strand_modMe _
  obtain ⟨f, ends, me⟩ := State.ends_as_strand free idle cur held pc retired
  rw [ends]
  refine ⟨me, ?_, ?_, log, fun p here k hk l hl => lines p (part ▸ here) k hk l hl⟩
  · rw [State.core_modStrand, Core.setStrand_l1, core, ucore]
    rfl
  · rw [State.core_modStrand, core]
    rfl

theorem State.begin_acquire_near {sc : Scope} (near : sc ≠ .package) :
    s.begin [] la (.fence false true sc) = (s.acquire s.cur.1 sc).retire .on := by
  rw [State.begin_free free, State.service_acquire (o := s.issued la (.fence false true sc))
    (by rw [State.strand_modMe, Strand.held_outst]) rfl rfl]
  exact State.ends_acquired free idle near rfl rfl

theorem State.begin_acquire_package : s.AcquiredPackage (s.begin [] la (.fence false true .package)) := by
  rw [State.begin_free free, State.service_acquire (o := s.issued la (.fence false true .package))
    (by rw [State.strand_modMe, Strand.held_outst]) rfl rfl]
  exact State.ends_acquiredPackage free idle rfl rfl

theorem State.begin_fenceRel (settled : s.Settled) {sc : Scope} (h : sc ≠ .package ∨ ¬ s.OwesFar s.cur.1) :
    s.begin [] la (.fence true false sc) = s.retire .on := by
  obtain ⟨w, run⟩ := State.begin_release free la settled false h
  exact run.trans (State.ends_in_pipeline free idle rfl rfl rfl rfl)

theorem State.begin_fenceFull_near (settled : s.Settled) {sc : Scope} (near : sc ≠ .package) :
    s.begin [] la (.fence true true sc) = (s.acquire s.cur.1 sc).retire .on := by
  obtain ⟨w, run⟩ := State.begin_release free la settled true (.inl near)
  exact run.trans (State.ends_acquired free idle near rfl rfl)

theorem State.begin_fenceFull_package (settled : s.Settled) (none : ¬ s.OwesFar s.cur.1) :
    s.AcquiredPackage (s.begin [] la (.fence true true .package)) := by
  obtain ⟨w, run⟩ := State.begin_release free la settled true (sc := .package) (.inr none)
  rw [run]
  exact State.ends_acquiredPackage free idle rfl rfl

theorem State.begin_fenceAck (acks : s.me.acks = 0) : s.begin [] la .fenceAck = s.retire .on := by
  have acked : ((s.modMe fun t => t.held (s.issued la .fenceAck)).strand s.cur.1 s.cur.2).acks = 0 := by
    rw [State.strand_modMe]
    exact acks
  rw [State.begin_free free, State.service_fenceAck (o := s.issued la .fenceAck)
    (by rw [State.strand_modMe, Strand.held_outst]) rfl rfl, if_pos acked]
  exact State.ends_in_pipeline free idle rfl rfl rfl rfl

end

section
variable {s : State} (free : s.Free) (la : La) (acks : s.me.acks ≠ 0)
include free acks

theorem State.begin_fenceAck_waits : s.WaitsIn (s.begin [] la .fenceAck) .fenceAck := by
  have unacked : ((s.modMe fun t => t.held (s.issued la .fenceAck)).strand s.cur.1 s.cur.2).acks ≠ 0 := by
    rw [State.strand_modMe]
    exact acks
  rw [State.begin_free free, State.service_fenceAck (o := s.issued la .fenceAck)
    (by rw [State.strand_modMe, Strand.held_outst]) rfl rfl, if_neg unacked]
  exact State.waits_in_phase la fun _ => nofun

theorem State.begin_release_waits (acq : Bool) {sc : Scope} (beyond : sc ≠ .strand) :
    s.WaitsIn (s.begin [] la (.fence true acq sc)) (.fence true acq sc) := by
  have unacked : ((s.modMe fun t => t.held (s.issued la (.fence true acq sc))).strand s.cur.1 s.cur.2).acks ≠ 0 := by
    rw [State.strand_modMe]
    exact acks
  rw [State.begin_free free, State.service_release_waits (o := s.issued la (.fence true acq sc))
    (by rw [State.strand_modMe, Strand.held_outst]) rfl rfl (State.release_unacknowledged unacked beyond)]
  exact State.waits_in_phase la fun _ => nofun

end

/-! ### `l1wb`, `ptsync` and `netsync` (R295, R296) -/

theorem State.cleanL1_settled {s : State} (settled : s.Settled) {o : Outst} (new : o.cleaning = none) :
    ∃ w, (s.modMe fun t => t.held o).cleanL1 s.cur.1 s.cur.2 = (.done, s.modMe fun t => t.held { o with cleaning := some w }) := by
  obtain ⟨w, released⟩ := State.release_settled settled new
  have acks : ((s.modMe fun t => t.held o).strand s.cur.1 s.cur.2).acks = 0 := by
    rw [State.strand_modMe]
    exact settled.acked
  refine ⟨w, Eq.trans ?_ released⟩
  rw [State.release, if_neg nofun, if_neg (not_not_intro acks)]
  rfl

/-- Every strand of a core has a number. -/
theorem Core.exists_strand {k : Core} {t : Strand} (h : t ∈ k.strands.toList) : ∃ n, k.strand n = t := by
  obtain ⟨n, below, at_⟩ := Vector.mem_iff_getElem.mp (Vector.mem_toList_iff.mp h)
  refine ⟨n, ?_⟩
  simp only [Core.strand, Nat.mod_eq_of_lt below]
  exact at_

/-- Whether a message is a core's does not depend on the state: only which home it names does. -/
theorem State.length_farEnd (s t : State) (c : Nat) (e : Event) : (s.farEnd c e).length = (t.farEnd c e).length := by
  cases e with
  | theftReply core n f =>
    have one (u : State) : (u.farEnd c (.theftReply core n f)).length = if core = c then 1 else 0 := by
      unfold State.farEnd
      dsimp only
      split
      · split <;> split <;> rfl
      · split <;> rfl
    rw [one, one]
  | l1FillResponse | l1WritebackReply | barrierArrival | barrierWithdrawal | broadcastAccept | broadcastCreditReturn |
    reductionContribution | instructionFetchReturn =>
    unfold State.farEnd
    dsimp only
    split <;> rfl
  | _ => rfl

theorem State.farEnds_modMe_nil {s : State} {c : Nat} (h : s.farEnds c = []) (f : Strand → Strand) : (s.modMe f).farEnds c = [] := by
  have same (e : Event) (none : s.farEnd c e = []) : (s.modMe f).farEnd c e = [] := by
    rw [← List.length_eq_zero_iff, State.length_farEnd _ s, none]
    rfl
  simp only [State.farEnds, List.append_eq_nil_iff, List.flatMap_eq_nil_iff] at h
  obtain ⟨⟨inFlight, ejected⟩, atSlices⟩ := h
  simp only [State.farEnds, List.append_eq_nil_iff, List.flatMap_eq_nil_iff]
  exact ⟨⟨fun e he => same e (inFlight e he), fun x hx => same _ (ejected x hx)⟩, atSlices⟩

theorem State.netQuiet_modMe {s : State} {c : Nat} (quiet : s.farEnds c = []) (acks : ∀ n, (s.strand c n).acks = 0) {f : Strand → Strand}
    (keeps : (f s.me).acks = s.me.acks) : (s.modMe f).netQuiet c = true := by
  rw [State.netQuiet, State.farEnds_modMe_nil quiet, List.isEmpty_nil, Bool.true_and, List.all_eq_true]
  intro t ht
  obtain ⟨n, rfl⟩ := Core.exists_strand ht
  rw [beq_iff_eq]
  change ((s.modMe f).strand c n).acks = 0
  by_cases here : c = s.cur.1 ∧ n % 16 = s.cur.2 % 16
  · obtain ⟨rfl, same⟩ := here
    have at_ : (s.modMe f).strand s.cur.1 n = (s.modMe f).strand s.cur.1 s.cur.2 := by
      simp only [State.strand, Core.strand, same]
    rw [at_, State.strand_modMe, keeps]
    exact acks s.cur.2
  · rw [s.strand_modMe_other f c n (Decidable.not_and_iff_not_or_not.mp here)]
    exact acks n

theorem State.logsApplied_empty {s : State} {l : List Nat} (h : ∀ x ∈ l, (s.reticle x).invLog = []) :
    s.logsApplied (l.map fun x => (x, (s.reticle x).seq)) = true := by
  rw [State.logsApplied, List.all_map, List.all_eq_true]
  intro x hx
  simp [h x hx]

section
variable {s : State} (free : s.Free) (idle : s.me.outst = none)
include free idle

theorem exec_l1wb_settled (settled : s.Settled) : exec .l1wb s = .next (s.retire .on) := by
  obtain ⟨w, clean⟩ := State.cleanL1_settled settled (o := s.issued 0 .l1wb) rfl
  have ends : (s.modMe fun t => t.held (s.issued 0 .l1wb)).service s.cur.1 s.cur.2 =
      (s.modMe fun t => t.held { s.issued 0 .l1wb with cleaning := some w }).done s.cur.1 s.cur.2 := by
    have phase : (s.issued 0 .l1wb).phase = .l1wb := rfl
    have noTrap : (s.issued 0 .l1wb).err.isSome = false := rfl
    simp only [State.service, State.strand_modMe, Strand.held_outst, noTrap, phase, clean, State.onRelease]
    rfl
  change Host.Outcome.next (s.begin [] 0 .l1wb) = _
  rw [State.begin_free free, ends]
  exact congrArg Host.Outcome.next (State.ends_in_pipeline (u := s) free idle rfl rfl rfl rfl)

theorem exec_ptsync_empty (mode : 1 ≤ s.me.mode) (empty : ∀ x ∈ s.sitesOf s.cur.1, (s.reticle x).invLog = []) :
    exec .ptsync s = .next (s.retire .on) := by
  let marks := (s.sitesOf s.cur.1).map fun x => (x, (s.reticle x).seq)
  have nothing : (s.sitesOf s.cur.1).filter (fun x => !(s.reticle x).invLog.isEmpty) = [] := by
    rw [List.filter_eq_nil_iff]
    intro x hx
    simp [empty x hx]
  have applied : (s.modMe fun t => t.held (s.issued 0 (.ptsync marks))).logsApplied marks = true := State.logsApplied_empty empty
  have ends : (s.modMe fun t => t.held (s.issued 0 (.ptsync marks))).service s.cur.1 s.cur.2 =
      (s.modMe fun t => t.held (s.issued 0 (.ptsync marks))).done s.cur.1 s.cur.2 := by
    have phase : (s.issued 0 (.ptsync marks)).phase = .ptsync marks := rfl
    have noTrap : (s.issued 0 (.ptsync marks)).err.isSome = false := rfl
    simp only [State.service, State.strand_modMe, Strand.held_outst, noTrap, phase, applied]
    rfl
  change s.privileged 1 (.next ((s.posts (((s.sitesOf s.cur.1).filter fun x => !(s.reticle x).invLog.isEmpty).map _)).begin [] 0
    (.ptsync marks))) = _
  rw [nothing, List.map_nil, State.posts_nil, State.privileged, if_neg (by omega), State.begin_free free, ends]
  exact congrArg Host.Outcome.next (State.ends_in_pipeline (u := s) free idle rfl rfl rfl rfl)

theorem exec_netsync_quiet (mode : 1 ≤ s.me.mode) (none : s.farEnds s.cur.1 = []) (acks : ∀ n, (s.strand s.cur.1 n).acks = 0) :
    exec .netsync s = .next (s.retire .on) := by
  have quiet : (s.modMe fun t => t.held (s.issued 0 .netsync)).netQuiet s.cur.1 = true := State.netQuiet_modMe none acks rfl
  have ends : (s.modMe fun t => t.held (s.issued 0 .netsync)).service s.cur.1 s.cur.2 =
      (s.modMe fun t => t.held (s.issued 0 .netsync)).done s.cur.1 s.cur.2 := by
    have phase : (s.issued 0 .netsync).phase = .netsync := rfl
    have noTrap : (s.issued 0 .netsync).err.isSome = false := rfl
    simp only [State.service, State.strand_modMe, Strand.held_outst, noTrap, phase, quiet]
    rfl
  change s.privileged 1 (.next (s.begin [] 0 .netsync)) = _
  rw [State.privileged, if_neg (by omega), State.begin_free free, ends]
  exact congrArg Host.Outcome.next (State.ends_in_pipeline (u := s) free idle rfl rfl rfl rfl)

end

/-! ### The statement -/

/-- Settles O34: a settled release is done in its first slot, and an acquire is one update of the core, or of it, its reticle's log and the
partition's slices. -/
theorem fencesAndSynchronisation : Obligations.FencesAndSynchronisation := by
  unfold Obligations.FencesAndSynchronisation
  refine ⟨fun s free idle sc la => ?_, fun s free idle mode => ?_⟩
  · intro c far acquired after wide package
    have after_ (near : sc ≠ .package) : (s.acquire s.cur.1 sc).retire .on = after wide := by
      rw [State.acquire_near near]
      cases sc with
      | package => exact absurd rfl near
      | strand | core | cluster | reticle | partition => rfl
    have package_ {t : State} (h : s.AcquiredPackage t) : package t := ⟨h.me, h.l1, h.icache, h.log, h.lines⟩
    exact ⟨fun settled h => congrArg Host.Outcome.next (State.begin_fenceRel free idle la settled h),
      fun settled owes => by
        obtain ⟨t, run, waits⟩ := State.begin_fenceRel_far free la settled owes
        exact ⟨t, congrArg Host.Outcome.next run, waits⟩,
      fun near => congrArg Host.Outcome.next ((State.begin_acquire_near free idle la near).trans (after_ near)),
      ⟨_, rfl, package_ (State.begin_acquire_package free idle la)⟩,
      fun settled => ⟨fun near => congrArg Host.Outcome.next ((State.begin_fenceFull_near free idle la settled near).trans (after_ near)),
        fun none => ⟨_, rfl, package_ (State.begin_fenceFull_package free idle la settled none)⟩⟩,
      fun acks => congrArg Host.Outcome.next (State.begin_fenceAck free idle la acks),
      fun acks => ⟨⟨_, rfl, State.begin_fenceAck_waits free la acks⟩, fun beyond =>
        ⟨⟨_, rfl, State.begin_release_waits free la acks false beyond⟩, ⟨_, rfl, State.begin_release_waits free la acks true beyond⟩⟩⟩,
      exec_l1wb_settled free idle, rfl⟩
  · exact ⟨exec_ptsync_empty free idle mode, exec_netsync_quiet free idle mode⟩

end Sys2Proof.Machine
end

section
/-! PROOFS. The statement of `04_consistency.md` about scalar stores: the bytes of a line under a store (R54), and a store whose checks
pass at each place an address reaches (R63, R81, R87, R170, R171). -/

namespace Sys2Proof.Machine

/-! ### Bytes of a line (R54) -/

theorem putSlot_eq (lo n v w : Nat) : putSlot lo n v w = 2 ^ lo * (2 ^ n * (w / 2 ^ lo / 2 ^ n) + v % 2 ^ n) + w % 2 ^ lo := by
  have split : w = 2 ^ lo * (2 ^ n * (w / 2 ^ lo / 2 ^ n)) + w % 2 ^ lo + slot lo n w * 2 ^ lo :=
    calc w = 2 ^ lo * (w / 2 ^ lo) + w % 2 ^ lo := (Nat.div_add_mod _ _).symm
      _ = 2 ^ lo * (2 ^ n * (w / 2 ^ lo / 2 ^ n) + slot lo n w) + w % 2 ^ lo := by
          rw [slot, Nat.div_add_mod (w / 2 ^ lo)]
      _ = _ := by ring
  rw [putSlot, Nat.sub_eq_of_eq_add split]
  ring

theorem testBit_putSlot (lo n v w j : Nat) :
    (putSlot lo n v w).testBit j = if lo ≤ j ∧ j < lo + n then v.testBit (j - lo) else w.testBit j := by
  have low (i x : Nat) : x % 2 ^ i < 2 ^ i := Nat.mod_lt _ (Nat.two_pow_pos i)
  rw [putSlot_eq, Nat.testBit_two_pow_mul_add _ (low lo w), Nat.testBit_two_pow_mul_add _ (low n v)]
  by_cases below : j < lo
  · rw [if_pos below, if_neg (by omega), Nat.testBit_mod_two_pow]
    simp [below]
  rw [if_neg below]
  by_cases inside : j - lo < n
  · rw [if_pos inside, if_pos (by omega), Nat.testBit_mod_two_pow]
    simp [inside]
  · rw [if_neg inside, if_neg (by omega), Nat.testBit_div_two_pow, Nat.testBit_div_two_pow]
    congr 1
    omega

theorem testBit_lineBytes (data : Line) (i n j : Nat) :
    (lineBytes data i n).testBit j = (decide (j < 8 * n) && data.getLsbD (8 * i + j)) := by
  rw [lineBytes, Nat.testBit_mod_two_pow, Nat.testBit_div_two_pow, Nat.add_comm, BitVec.testBit_toNat]

/-- The bytes of a line in which a whole datum has been put. -/
theorem lineBytes_linePut {data : Line} {off n v i : Nat} (hv : v < 2 ^ (8 * n)) (hi : i < 128) :
    lineBytes (linePut data off n (fullMask n) v) i 1 =
      if off ≤ i ∧ i < off + n then v / 2 ^ (8 * (i - off)) % 256 else lineBytes data i 1 := by
  refine Nat.eq_of_testBit_eq fun j => ?_
  rw [testBit_lineBytes, linePut, mergeBits_full n v _ hv (lineBytes_lt data off n), BitVec.getLsbD_ofNat,
    testBit_putSlot]
  have inLine : j < 8 → 8 * i + j < 1024 := fun _ => by omega
  by_cases inside : off ≤ i ∧ i < off + n
  · rw [if_pos inside, show (256 : Nat) = 2 ^ 8 by rfl, Nat.testBit_mod_two_pow, Nat.testBit_div_two_pow]
    by_cases bit : j < 8
    · rw [if_pos (by omega), show 8 * i + j - 8 * off = j + 8 * (i - off) by omega]
      simp [bit, inLine bit]
    · simp [bit]
  · rw [if_neg inside, testBit_lineBytes]
    by_cases bit : j < 8
    · rw [if_neg (by omega), BitVec.testBit_toNat]
      simp only [bit, inLine bit, Nat.mul_one, decide_true, Bool.true_and]
    · simp [bit]

/-- A whole datum stored in a line's frame. -/
theorem Core.frame?_storeFrame {k : Core} {va f n v : Nat} {fr : L1Frame} (frame : k.frame? (va / 128) = some (f, fr))
    (hv : v < 2 ^ (8 * n)) :
    ∃ new, (k.storeFrame va n (fullMask n) v).frame? (va / 128) = some (f, new) ∧ fr.Stored new (va % 128) n v := by
  unfold Core.storeFrame
  rw [frame]
  refine ⟨_, Core.frame?_setFrame (k := k) (show fr.line = va / 128 from Core.frame?_line frame) fun e he => ?_, rfl, fun i hi => ⟨?_, ?_, ?_⟩⟩
  · rw [frame] at he
    rw [← Option.some.inj he]
  · dsimp only
    rw [lineBytes_linePut hv hi]
    simp
  · rw [BitVec.getLsbD_or, touchedBytes_full, Bool.or_comm, decide_eq_true hi, Bool.and_true]
  · rw [BitVec.getLsbD_or, touchedBytes_full, Bool.or_comm, decide_eq_true hi, Bool.and_true]

/-! ### Scalar stores (R170) -/

theorem State.strand_cn (s : State) : s.strand s.cur.1 s.cn = s.me := by simp [State.me, State.strand, Core.strand, State.cn]

/-- A write to another core's scratchpad is sent while the counter has a place (R81). -/
theorem State.storeOne_pad {s : State} {a : Word} {c off n mask v : Nat} (room : s.me.posted < 64) :
    s.storeOne s.cur.1 s.cn s.me.pc false a (.pad c off) n mask v =
      .done ((s.modMe fun t => { t with acks := t.acks + 1 }).post (.portRequest c (s.request a off 0 (.write n mask v)))) := by
  have strand : s.cn % 16 = s.cn := Nat.mod_mod _ _
  rw [State.storeOne, s.strand_cn, if_neg (Nat.not_le.mpr room), State.postStore, s.modStrand_cn, strand]
  rfl

section
variable {s : State} (free : s.Free) {a : Word} {n v : Nat} {t : Target} (la : La) (srcs : List Reg)
  (checked : s.checkElem .write 0 a n (fullMask n) v = .ok ⟨0, a, t, n, fullMask n, v⟩)
  (clear : s.elemVerdict s.cur.1 s.cur.2 true ⟨0, a, t, n, fullMask n, v⟩ = .clear)
include free checked clear

/-- A store to the own scratchpad, by whichever name, is performed and completes. -/
theorem State.stores_own_place {off : Nat} (own : t = .own off) :
    s.stores la srcs [(0, a, n, fullMask n, v)] = .next ((s.storeOwn s.cur.1 a off n (fullMask n) v).retire .on) := by
  subst own
  rw [State.stores, State.gate_free free]
  simp [State.checkElems, checked, lastWrites, State.verdicts, clear, Verdict.join, Target.isPad, Target.isVirt, State.frameLocked,
    Verdict.locks, Core.forced_nil, State.demanding_nil, State.retireViews_nil, State.pops_free free, State.storeOne, State.drain,
    Drained.finish, State.spilled]

/-- A store to another core is posted while the counter has a place (R81). -/
theorem State.stores_pad {c off : Nat} (pad : t = .pad c off) (room : s.me.posted < 64) :
    s.stores la srcs [(0, a, n, fullMask n, v)] = .next (((s.modMe fun t => { t with acks := t.acks + 1 }).post
      (.portRequest c (s.request a off 0 (.write n (fullMask n) v)))).retire .on) := by
  subst pad
  have posted := State.storeOne_pad (a := a) (off := off) (c := c) (n := n) (mask := fullMask n) (v := v) room
  rw [State.stores, State.gate_free free]
  simp [State.checkElems, checked, lastWrites, State.verdicts, clear, Verdict.join, Target.isPad, Target.isVirt, State.frameLocked,
    Verdict.locks, Core.forced_nil, State.demanding_nil, State.retireViews_nil, State.pops_free free, posted, room, State.drain,
    Drained.finish, State.spilled]

/-- A store to another core waits while the counter is full. -/
theorem State.stores_pad_full {c off : Nat} (pad : t = .pad c off) (full : 64 ≤ s.me.posted) :
    s.stores la srcs [(0, a, n, fullMask n, v)] = .next (s.wait .counter) := by
  subst pad
  rw [State.stores, State.gate_free free]
  simp [State.checkElems, checked, lastWrites, State.verdicts, clear, Verdict.join, Target.isPad, full]

/-- A store to a virtual address is performed in the frame that its line has or is given. -/
theorem State.stores_virt {va : Nat} (virt : t = .virt va) (spot : s.spotTarget s.cur.1 a = .virt va) (unlocked : s.frameLocked
    ⟨0, a, .virt va, n, fullMask n, v⟩ = false) {u : State}
    (stored : s.storeOne s.cur.1 s.cn s.me.pc false a (.virt va) n (fullMask n) v = .done u) :
    s.stores la srcs [(0, a, n, fullMask n, v)] = .next (u.retire .on) := by
  subst virt
  rw [State.stores, State.gate_free free]
  simp [State.checkElems, checked, lastWrites, State.verdicts, clear, Verdict.join, Target.isPad, Target.isVirt, unlocked,
    Verdict.locks, Core.forced_nil, State.demanding_nil, State.retireViews_nil, State.pops_free free, State.drain, spot, stored,
    Drained.finish, State.spilled]

end

/-- The write of a store to a virtual address (R54): into its line's frame, or an empty one of its set. -/
theorem State.storeOne_frame {s : State} {va f : Nat} {fr : L1Frame} (frame : (s.core s.cur.1).frame? (va / 128) = some (f, fr)) {a : Word}
    {c n v mask : Nat} (touches : mask ≠ 0) (pc : Word) : s.storeOne s.cur.1 c pc false a (.virt va) n mask v =
      .done (s.modCore s.cur.1 fun k => k.storeFrame va n mask v) := by
  simp [State.storeOne, touches, frame]

theorem State.leased_spotTarget {s : State} {a : Word} {n : Nat} {w : Right} (h : s.Leased a n w) :
    s.spotTarget s.cur.1 a = .virt (a.toNat % 2 ^ 57) := by
  have space := h.space
  have sel : field 63 60 a = 8 := by simp [field]; omega
  simp [State.spotTarget, State.spot, sel, field_56_0]

/-- An update of the issuing strand leaves every frame of an L1. -/
theorem State.frame?_modMe (s : State) (f : Strand → Strand) (c line : Nat) :
    ((s.modMe f).core c).frame? line = (s.core c).frame? line := by
  by_cases hc : c = s.cur.1
  · rw [hc, State.core_modMe]
    rfl
  · rw [show (s.modMe f).core c = s.core c from s.core_setCore_other _ _ _ hc]

section
variable {s : State} {va : Nat} (lane n mask v : Nat) (a : Word)

theorem State.frameLocked_frame {f : Nat} {fr : L1Frame} (frame : (s.core s.cur.1).frame? (va / 128) = some (f, fr)) :
    s.frameLocked ⟨lane, a, .virt va, n, mask, v⟩ = false := by
  simp [State.frameLocked, frame]

theorem State.frameLocked_got {u : State} (got : s.allocate s.cur.1 s.cn (va / 128) = .got u) :
    s.frameLocked ⟨lane, a, .virt va, n, mask, v⟩ = false := by
  simp [State.frameLocked, got]

end

/-- What a store leaves of its line's frame, and of everything else that a strand sees. -/
structure State.KeptInFrame (s u : State) (va n v : Nat) (old : L1Frame) : Prop where
  me : u.me = s.me
  mem : u.mem = s.mem
  agenda : u.agenda = s.agenda
  frame : ∃ f fr, (u.core s.cur.1).frame? (va / 128) = some (f, fr) ∧ old.Stored fr (va % 128) n v

theorem State.keptInFrame_storeFrame {s : State} {va f n v : Nat} {fr : L1Frame}
    (frame : (s.core s.cur.1).frame? (va / 128) = some (f, fr)) (hv : v < 2 ^ (8 * n)) :
    s.KeptInFrame (s.modCore s.cur.1 fun k => k.storeFrame va n (fullMask n) v) va n v fr where
  me := s.me_modCore _ (by unfold Core.storeFrame; split <;> rfl)
  mem := rfl
  agenda := rfl
  frame := by
    obtain ⟨new, found, stored⟩ := Core.frame?_storeFrame frame hv
    exact ⟨f, new, by rw [State.core_modCore]; exact found, stored⟩

section
variable {s : State} (free : s.Free) {a : Word} {n v : Nat} (leased : s.Leased a n .write) (la : La) (srcs : List Reg)
  (touches : fullMask n ≠ 0) (hv : v < 2 ^ (8 * n))
include free leased touches hv

theorem State.stores_frame {f : Nat} {fr : L1Frame} (frame : (s.core s.cur.1).frame? (a.toNat % 2 ^ 57 / 128) = some (f, fr)) :
    ∃ u, s.stores la srcs [(0, a, n, fullMask n, v)] = .next (u.retire .on) ∧ s.KeptInFrame u (a.toNat % 2 ^ 57) n v fr := by
  have clear := State.leased_elemVerdict leased s.cur.2 true 0 a (fullMask n) v
  have checked := State.checkElem_clear (State.leased_target leased s.me.mode) clear
  refine ⟨_, State.stores_virt free la srcs checked clear rfl (State.leased_spotTarget leased)
    (State.frameLocked_frame _ _ _ _ _ frame) (State.storeOne_frame frame touches _), State.keptInFrame_storeFrame frame hv⟩

theorem State.stores_allocates (absent : (s.core s.cur.1).frame? (a.toNat % 2 ^ 57 / 128) = none)
    (room : s.HasFrame (a.toNat % 2 ^ 57 / 128)) :
    ∃ u, s.stores la srcs [(0, a, n, fullMask n, v)] = .next (u.retire .on) ∧
      s.KeptInFrame u (a.toNat % 2 ^ 57) n v (emptyFrame (a.toNat % 2 ^ 57 / 128)) := by
  let line := a.toNat % 2 ^ 57 / 128
  have clear := State.leased_elemVerdict leased s.cur.2 true 0 a (fullMask n) v
  have checked := State.checkElem_clear (State.leased_target leased s.me.mode) clear
  obtain ⟨f, got⟩ := State.allocate_got room s.cn
  let u := s.modCore s.cur.1 fun k => (k.setFrame f (emptyFrame line)).touch f
  have me : u.me = s.me := s.me_modCore _ rfl
  have frame : (u.core u.cur.1).frame? line = some (f, emptyFrame line) := by
    change (u.core s.cur.1).frame? line = _
    rw [State.core_modCore]
    refine Core.frame?_setFrame (k := s.core s.cur.1) rfl fun e he => ?_
    rw [absent] at he
    cases he
  obtain ⟨kept, mem, agenda, stored⟩ := State.keptInFrame_storeFrame frame hv
  refine ⟨_, State.stores_virt free la srcs checked clear rfl (State.leased_spotTarget leased)
    (State.frameLocked_got _ _ _ _ _ got) ?_, kept.trans me, mem, agenda, stored⟩
  simp only [State.storeOne, if_neg touches, absent, got]
  rfl

end

/-- Settles O29: a store is one element, whose checks pass, at the own scratchpad, at another core's, or in the L1. -/
theorem ownStores : Obligations.OwnStores := by
  unfold Obligations.OwnStores
  intro s free wf d a b la imm w off c e he x n v stored
  have offset : ∀ k, s.offset a imm k = off k := fun k => by rw [State.offset, State.read_free free]; rfl
  have indexed : ∀ k, s.indexed a b k = s.me.greg a + s.me.greg b * BitVec.ofNat 64 k := fun k => by
    rw [State.indexed, State.read_free free, State.read_free free]
  obtain ⟨srcs, run, size⟩ : ∃ srcs, exec e.1 s = s.stores la srcs [(0, x, n, fullMask n, v)] ∧ (n = 1 ∨ n = 2 ∨ n = 4 ∨ n = 8) := by
    have plain (srcs : List Reg) (y z : Word) (k : Nat) (same : y = z) (hk : k = 1 ∨ k = 2 ∨ k = 4 ∨ k = 8) :
        ∃ srcs', s.store1 la srcs d y k = s.stores la srcs' [(0, z, k, fullMask k, (s.me.greg d).toNat % 2 ^ (8 * k))] ∧
          (k = 1 ∨ k = 2 ∨ k = 4 ∨ k = 8) :=
      ⟨srcs, by rw [State.store1, State.read_free free, same], hk⟩
    simp only [List.mem_cons, List.not_mem_nil, or_false] at he
    rcases he with rfl | rfl | rfl | rfl | rfl
    exacts [plain _ _ _ 1 (offset 1) (by decide), plain _ _ _ 2 (offset 2) (by decide), plain _ _ _ 4 (offset 4) (by decide),
      plain _ _ _ 8 (offset 8) (by decide), plain _ _ _ (2 ^ w.toNat) (indexed _) (by revert w; decide)]
  have completes {o : Out} (h : s.stores la srcs [(0, x, n, fullMask n, v)] = o) : exec e.1 s = o := run.trans h
  have hv : v < 2 ^ (8 * n) := Nat.mod_lt _ (Nat.two_pow_pos _)
  have touches : fullMask n ≠ 0 := fullMask_ne_zero n (by omega)
  clear_value x n v
  clear he
  have performed {o : Word} (own : s.Own o n)
      (h : s.stores la srcs [(0, x, n, fullMask n, v)] = .next ((s.storeOwn s.cur.1 x o.toNat n (fullMask n) v).retire .on)) :
      stored o := by
    have put : s.storeOwn s.cur.1 x o.toNat n (fullMask n) v = (s.put o n v).2 := by
      rw [State.storeOwn, if_neg touches, own.clean, State.storeMasked_full _ _ _ _ hv]
      rfl
    refine ⟨completes (h.trans (by rw [put])), State.stored_of_mem (t := (s.put o n v).2) ?_ rfl⟩
    have bytes := State.stored_bump wf (s.ownKey o) n v (s.ownKey o / 128)
    rwa [Nat.mod_eq_of_lt hv] at bytes
  refine ⟨fun own => ?_, ?_, fun t named other => ?_, fun leased => ?_⟩
  · exact performed own (State.stores_own_place free la srcs (s.own_checkElem own .write 0 _ _) (s.own_elemVerdict own _ _ _ _ _ _) rfl)
  · intro o named own
    have target : s.target s.cur.1 s.me.mode x n .write = .ok (.own o.toNat) := by
      rw [State.named_target named, if_pos rfl, BitVec.toNat_ofNat]
      congr 2
      omega
    have clear := s.own_elemVerdict own s.cur.2 true 0 x (fullMask n) v
    exact performed own (State.stores_own_place free la srcs (State.checkElem_clear target clear) clear rfl)
  · have clear := State.named_elemVerdict named s.cur.2 true 0 x (fullMask n) v
    have checked := State.checkElem_clear ((State.named_target named s.me.mode .write).trans (by rw [if_neg other])) clear
    exact ⟨fun room => completes (State.stores_pad free la srcs checked clear rfl room),
      fun full => completes (State.stores_pad_full free la srcs checked clear rfl full)⟩
  · intro line kept
    have fits : x.toNat % 2 ^ 57 % 128 = x.toNat % 128 := by omega
    have ends {u : State} {old : L1Frame} (h : s.stores la srcs [(0, x, n, fullMask n, v)] = .next (u.retire .on))
        (keeps : s.KeptInFrame u (x.toNat % 2 ^ 57) n v old) : kept old := by
      obtain ⟨me, mem, agenda, f, fr, frame, bytes⟩ := keeps
      rw [fits] at bytes
      refine ⟨_, f, fr, completes h, ?_, mem, agenda, ?_, bytes⟩
      · rw [State.me_retire, State.me_retire, me]
      · exact (u.frame?_modMe _ _ _).trans frame
    refine ⟨fun f fr frame => ?_, fun absent room => ?_⟩
    · obtain ⟨u, h, keeps⟩ := State.stores_frame free leased la srcs touches hv frame
      exact ends h keeps
    · obtain ⟨u, h, keeps⟩ := State.stores_allocates free leased la srcs touches hv absent room
      exact ends h keeps

end Sys2Proof.Machine
end

section
/-! PROOFS. The statement of `04_consistency.md` about acknowledged accesses and atomics: performed at the own scratchpad, and sent to
another home (R55, R63, R80, R86, R87, R172 to R174). -/

namespace Sys2Proof.Machine

/-! ### What an atomic computes (R174) -/

theorem signExt_eq (n v : Nat) : signExt n v = (BitVec.ofNat (8 * n) v).toInt := by
  rw [BitVec.toInt_eq_msb_cond, BitVec.msb_eq_decide]
  simp only [signExt, BitVec.toNat_ofNat, decide_eq_true_eq]
  split <;> simp

theorem atomNew_lt {n old : Nat} (hold : old < 2 ^ (8 * n)) (op : AtomOp) (sg : Bool) (x cmp : Word) :
    atomNew op sg n old x cmp < 2 ^ (8 * n) := by
  have operand : x.toNat % 2 ^ (8 * n) < 2 ^ (8 * n) := Nat.mod_lt _ (Nat.two_pow_pos _)
  have either {p : Prop} [Decidable p] {i j : Nat} (hi : i < 2 ^ (8 * n)) (hj : j < 2 ^ (8 * n)) : (if p then i else j) < 2 ^ (8 * n) := by
    split <;> assumption
  cases op
  case swap => exact operand
  case cas => exact either operand hold
  case add => exact Nat.mod_lt _ (Nat.two_pow_pos _)
  case and => exact Nat.and_lt_two_pow _ operand
  case or => exact Nat.or_lt_two_pow hold operand
  case xor => exact Nat.xor_lt_two_pow hold operand
  case min => exact either hold operand
  case max => exact either operand hold

/-! ### Acknowledged accesses without ports (R172 to R174) -/

section
variable {s : State} (free : s.Free) (la : La) (d a b : Reg)
include free

theorem exec_stAck_free (w : BitVec 2) : exec (.stAck w d a b la) s = s.acked la [a, b] [d] (.serial d) [.write] (s.me.greg a) (2 ^ w.toNat)
    (.writeAck (2 ^ w.toNat) ((s.me.greg b).toNat % 2 ^ (8 * 2 ^ w.toNat))) := by
  change execStAck w d a b la s = _
  rw [execStAck, State.read_free free, State.read_free free]

theorem exec_ldAck_free (w : BitVec 2) : exec (.ldAck w d a b la) s = s.acked la [a, b] [d] (.scalar d (2 ^ w.toNat) false true) [.read]
    (s.me.greg a + s.me.greg b) (2 ^ w.toNat) (.readAck (2 ^ w.toNat)) := by
  change execLdAck w d a b la s = _
  rw [execLdAck, State.read_free free, State.read_free free]

theorem State.atomic_free (op : AtomOp) (sg : Bool) (aw : AWidth) : s.atomic la op sg aw d a b =
    s.acked la (if op = .cas then [a, b, d] else [a, b]) [d] (.scalar d (atomBytes aw) sg true) [.read, .write] (s.me.greg a)
      (atomBytes aw) (.rmw op sg (atomBytes aw) (s.me.greg b) (if op = .cas then s.me.greg d else 0)) := by
  rw [State.atomic, State.read_free free, State.read_free free, State.read_free free]

end

/-! ### At the own scratchpad (R86, R87) -/

section
variable {u : State} (free : u.Free) (d : Reg) (v : Nat) (serial : BitVec 32)
include free

theorem State.retire_deliver_serial :
    (u.deliver u.cur.1 u.cur.2 (.serial d) [replyOk 0 v serial]).retire .on = u.wrote d (serial.zeroExtend 64) :=
  congrArg (State.retire · .on) (u.writeG_plain _ _ d (serial.zeroExtend 64) free.noPorts)

theorem State.retire_deliver_lastseq (n : Nat) (sg : Bool) :
    (u.deliver u.cur.1 u.cur.2 (.scalar d n sg true) [replyOk 0 v serial]).retire .on =
      (u.modMe fun t => { t with lastseq := serial }).wrote d (extendTo n sg v) := by
  have noPorts : (u.modMe fun t => { t with lastseq := serial }).me.qmap = false := by
    rw [State.me_modMe]
    exact free.noPorts
  exact congrArg (State.retire · .on) (State.writeG_plain _ _ _ d (extendTo n sg v) noPorts)

end

section
variable {s : State} (free : s.Free) {a : Word} {n : Nat} (own : s.Own a n) (la : La) (srcs writes : List Reg) (d : Reg)
  (rights : List Right)
include free

theorem State.put_keeps (v : Nat) : (s.put a n v).2.Free ∧ (s.put a n v).2.cur = s.cur := by
  obtain ⟨m, stored⟩ := s.store_frame (s.ownKey a) n v
  obtain ⟨sr, f, counted⟩ := (s.store (s.ownKey a) n v).bump_frame (s.ownKey a / 128)
  have frame : (s.put a n v).2 = { s with mem := m, serials := sr, fresh := f } := by rw [State.put, counted, stored]
  rw [frame]
  exact ⟨free.of_cores rfl rfl, rfl⟩

include own

theorem State.acked_own_write (v : Nat) : s.acked la srcs writes (.serial d) rights a n (.writeAck n v) =
    .next ((s.put a n v).2.wrote d ((s.put a n v).1.zeroExtend 64)) := by
  obtain ⟨still, cur⟩ := State.put_keeps free (a := a) (n := n) v
  have ends := State.retire_deliver_serial still d 0 (s.put a n v).1
  rw [cur] at ends
  exact (State.acked_own free own la srcs writes (.serial d) rights (.writeAck n v) nofun).trans (congrArg Host.Outcome.next ends)

theorem State.acked_own_read : s.acked la srcs writes (.scalar d n false true) rights a n (.readAck n) =
    .next (((s.serial (s.ownKey a / 128)).2.modMe fun t => { t with lastseq := (s.serial (s.ownKey a / 128)).1 }).wrote d
      (BitVec.ofNat 64 (s.load (s.ownKey a) n))) := by
  obtain ⟨sr, f, counted⟩ := s.serial_frame (s.ownKey a / 128)
  have free' : (s.serial (s.ownKey a / 128)).2.Free := by
    rw [counted]
    exact free.of_cores rfl rfl
  have cur : (s.serial (s.ownKey a / 128)).2.cur = s.cur := by rw [counted]
  have ends := State.retire_deliver_lastseq free' d (s.load (s.ownKey a) n) (s.serial (s.ownKey a / 128)).1 n false
  rw [cur, extendTo_unsigned (s.load_lt _ n)] at ends
  exact (State.acked_own free own la srcs writes (.scalar d n false true) rights (.readAck n) nofun).trans
    (congrArg Host.Outcome.next ends)

theorem State.acked_own_rmw (op : AtomOp) (sg : Bool) (x cmp : Word) :
    let p := s.put a n (atomNew op sg n (s.load (s.ownKey a) n) x cmp)
    s.acked la srcs writes (.scalar d n sg true) rights a n (.rmw op sg n x cmp) =
      .next ((p.2.modMe fun t => { t with lastseq := p.1 }).wrote d (extendTo n sg (s.load (s.ownKey a) n))) := by
  intro p
  obtain ⟨still, cur⟩ : p.2.Free ∧ p.2.cur = s.cur := State.put_keeps free _
  have ends := State.retire_deliver_lastseq still d (s.load (s.ownKey a) n) p.1 n sg
  rw [cur] at ends
  exact (State.acked_own free own la srcs writes (.scalar d n sg true) rights (.rmw op sg n x cmp) nofun).trans
    (congrArg Host.Outcome.next ends)

end

theorem State.stored_put {s t : State} (wf : Memory.wf s.mem = true) {a : Word} {n v : Nat} (hv : v < 2 ^ (8 * n))
    (mem : t.mem = (s.put a n v).2.mem) : s.Stored t (s.ownKey a) n v := by
  have bytes := State.stored_bump wf (s.ownKey a) n v (s.ownKey a / 128)
  rw [Nat.mod_eq_of_lt hv] at bytes
  exact State.stored_of_mem bytes mem

/-- An atomic at the own scratchpad stores the value that its operation makes, and gives its destination the old one. -/
theorem exec_atomic_own {s : State} (free : s.Free) (wf : Memory.wf s.mem = true) {la : La} {op : AtomOp} {sg : Bool} {aw : AWidth}
    {d a b : Reg} (own : s.Own (s.me.greg a) (atomBytes aw)) {i : Instr} {v : Nat} {r : Word}
    (runs : exec i s = s.atomic la op sg aw d a b)
    (makes : v = atomNew op sg (atomBytes aw) (s.load (s.ownKey (s.me.greg a)) (atomBytes aw)) (s.me.greg b)
      (if op = .cas then s.me.greg d else 0))
    (gives : r = extendTo (atomBytes aw) sg (s.load (s.ownKey (s.me.greg a)) (atomBytes aw))) :
    let p := s.put (s.me.greg a) (atomBytes aw) v
    let t := (p.2.modMe fun t => { t with lastseq := p.1 }).wrote d r
    exec i s = .next t ∧ s.Stored t (s.ownKey (s.me.greg a)) (atomBytes aw) v := by
  subst makes gives
  refine ⟨?_, State.stored_put wf (atomNew_lt (s.load_lt _ _) _ _ _ _) rfl⟩
  rw [runs, State.atomic_free free]
  exact State.acked_own_rmw free own la _ _ d _ op sg _ _

/-! ### At another home (R55, R63, R80) -/

/-- An acknowledged access passes the checks of all its rights. -/
theorem State.checkAcked_clear {s : State} {rights : List Right} {a : Word} {n : Nat} {t : Target}
    (targets : ∀ r ∈ rights, s.target s.cur.1 s.me.mode a n r = .ok t)
    (named : (if rights.contains .write then .write else .read) ∈ rights)
    (clear : ∀ w, s.elemVerdict s.cur.1 s.cur.2 w ⟨0, a, t, n, fullMask n, 0⟩ = .clear) :
    s.checkAcked rights a n = .ok ⟨0, a, t, n, fullMask n, 0⟩ := by
  have passed : (rights.findSome? fun w => match s.target s.cur.1 s.me.mode a n w with
      | .error e => some e
      | .ok _ => none) = none := by
    rw [List.findSome?_eq_none_iff]
    intro r hr
    rw [targets r hr]
  unfold State.checkAcked
  split
  next e failed => exact absurd (failed.symm.trans passed) nofun
  next => exact State.checkElem_clear (targets _ named) (clear _)

section
variable {s : State} (free : s.Free) {a : Word} {n : Nat} {t : Target} (la : La) (srcs writes : List Reg) (d : Dest) {rights : List Right}
  (acc : Access) (checked : s.checkAcked rights a n = .ok ⟨0, a, t, n, fullMask n, 0⟩)
  (clear : ∀ w, s.elemVerdict s.cur.1 s.cur.2 w ⟨0, a, t, n, fullMask n, 0⟩ = .clear)
include free checked clear

theorem State.acked_pad {c off : Nat} (pad : t = .pad c off) : s.acked la srcs writes d rights a n acc =
    .next ((s.modMe fun t => t.held (s.issued la (.access d n [] 1 []))).post (.portRequest c (s.request a off 0 acc))) := by
  subst pad
  rw [State.acked, State.gate_free free]
  simp only [checked, clear, Verdict.locks, Core.forced_nil, State.demanding_nil, State.retireViews_nil, State.pops_free free,
    State.hold_free free]

theorem State.acked_virt {va : Nat} (virt : t = .virt va) {u : State} (dropped : s.dropLine s.cur.1 s.cn (va / 128) = some u)
    (beside : s.Beside u) : s.acked la srcs writes d rights a n acc =
      .next ((u.modMe fun t => t.held (u.issued la (.access d n [] 1 []))).post
        (.sliceAccess (u.homeSlice (u.partOf s.cur.1) (va / 128)) (s.request a va 0 acc))) := by
  subst virt
  rw [State.acked, State.gate_free free]
  simp only [checked, clear, Verdict.locks, Core.forced_nil, State.demanding_nil, State.retireViews_nil, dropped,
    State.pops_free (free.beside beside), State.hold_free (free.beside beside), beside.cur]

end

/-- A line has left the L1, with messages, and nothing else that a strand sees has changed. -/
structure State.LineGone (s u : State) (line : Nat) (l : List Event) : Prop extends Beside s u where
  home : u.homeSlice (u.partOf s.cur.1) line = s.homeSlice (s.partOf s.cur.1) line
  sent : u.agenda = s.agenda ++ l

theorem State.dropLine_absent {s : State} {line : Nat} (absent : (s.core s.cur.1).frame? line = none) (n : Nat) :
    s.dropLine s.cur.1 n line = some s := by
  rw [State.dropLine, absent]

/-- A change of the issuing core's L1 alone. -/
theorem State.lineGone_modCore {s : State} {f : Core → Core}
    (h : ∃ l1 order, f (s.core s.cur.1) = { s.core s.cur.1 with l1 := l1, l1Use := order }) (line : Nat) : s.LineGone (s.modCore s.cur.1 f) line [] := by
  obtain ⟨l1, order, run⟩ := h
  have core := (s.core_modCore s.cur.1 f).trans run
  refine ⟨⟨rfl, rfl, by rw [core], by rw [core]⟩, ?_, (List.append_nil _).symm⟩
  rw [State.partOf, core]
  rfl

theorem State.LineGone.post {s u : State} {line : Nat} {l : List Event} (h : s.LineGone u line l) (e : Event) :
    s.LineGone (u.post e) line (l ++ [e]) :=
  ⟨⟨h.cur, h.mem, h.strands, h.copies⟩, h.home, (congrArg (· ++ [e]) h.sent).trans (List.append_assoc _ _ _)⟩

theorem L1Frame.ignoreFill_keeps (fr : L1Frame) :
    fr.ignoreFill.line = fr.line ∧ fr.ignoreFill.dirty = fr.dirty ∧ fr.ignoreFill.data = fr.data := by
  unfold L1Frame.ignoreFill
  split <;> exact ⟨rfl, rfl, rfl⟩

section
variable {s : State} {f line : Nat} {fr : L1Frame} (only : (s.core s.cur.1).l1 = [(f, fr)]) (holds : fr.line = line)
include only holds

theorem State.frame?_only : (s.core s.cur.1).frame? line = some (f, fr) := by simp [Core.frame?, only, holds]

/-- The only frame of an L1 lets a line without dirty bytes go. -/
theorem State.dropLine_clean (clean : fr.dirty = 0) (n : Nat) : ∃ u, s.dropLine s.cur.1 n line = some u ∧ s.LineGone u line [] ∧
    ∀ g ∈ (u.core s.cur.1).l1, g.2.present = 0 := by
  let left : L1Frame := { fr.ignoreFill with present := 0, evict := true }
  refine ⟨s.modCore s.cur.1 fun k => k.keepFrame f left, ?_, State.lineGone_modCore ?_ line, ?_⟩
  · simp only [State.dropLine, State.frame?_only only holds]
    rw [if_neg (by simp [clean]), if_neg (not_not_intro clean)]
  · unfold Core.keepFrame
    split <;> exact ⟨_, _, rfl⟩
  · rw [State.core_modCore, Core.keepFrame, Core.freeFrame, Core.setFrame, only]
    split
    · simp [unassign]
    · simp [assign, left]

/-- The only frame of an L1 lets a line go: its dirty bytes are written back first (R55). -/
theorem State.dropLine_dirty (dirty : fr.dirty ≠ 0) (idle : fr.sent = 0) (n : Nat) : ∃ u q, s.dropLine s.cur.1 n line = some u ∧
    s.LineGone u line [.sliceAccess (s.homeSlice (s.partOf s.cur.1) line) q] ∧ q.access = .writeback fr.dirty fr.data ∧
    ∀ g ∈ (u.core s.cur.1).l1, g.2.present = 0 := by
  let left : L1Frame := { fr.ignoreFill with present := 0, evict := true }
  let sent : L1Frame := { left with dirty := left.dirty &&& ~~~(BitVec.allOnes 128), sent := left.dirty &&& BitVec.allOnes 128,
                                    evict := true, refused := false }
  obtain ⟨sameLine, sameDirty, sameData⟩ := fr.ignoreFill_keeps
  have drops : s.dropLine s.cur.1 n line = some (s.writeback s.cur.1 n f left true) := by
    simp only [State.dropLine, State.frame?_only only holds]
    rw [if_neg (by simp [idle]), if_pos dirty]
  have gone : s.LineGone (s.modCore s.cur.1 fun k => k.setFrame f sent) line [] := State.lineGone_modCore ⟨_, _, rfl⟩ line
  obtain ⟨q, sends, access⟩ : ∃ q, s.writeback s.cur.1 n f left true = (s.modCore s.cur.1 fun k => k.setFrame f sent).post
      (.sliceAccess (s.homeSlice (s.partOf s.cur.1) line) q) ∧ q.access = .writeback fr.dirty fr.data := by
    rw [← holds, ← sameLine]
    exact ⟨_, rfl, congrArg₂ Access.writeback (BitVec.and_allOnes.trans sameDirty) sameData⟩
  refine ⟨_, q, drops.trans (congrArg some sends), gone.post _, access, ?_⟩
  change ∀ g ∈ ((s.modCore s.cur.1 fun k => k.setFrame f sent).core s.cur.1).l1, _
  rw [State.core_modCore, Core.setFrame, only]
  simp [assign, sent, left]

end

/-- An acknowledged access whose line has left the L1 waits for its home. -/
theorem State.acked_gone {s : State} (free : s.Free) {a : Word} {n : Nat} (la : La) (srcs writes : List Reg) (d : Dest) {rights : List Right}
    (acc : Access) (leased : ∀ r ∈ rights, s.Leased a n r) (named : (if rights.contains .write then .write else .read) ∈ rights) {u : State}
    {l : List Event} (dropped : s.dropLine s.cur.1 s.cn (a.toNat % 2 ^ 57 / 128) = some u)
    (gone : s.LineGone u (a.toNat % 2 ^ 57 / 128) l) :
    ∃ t, s.acked la srcs writes d rights a n acc = .next t ∧ s.WaitsIn t (.access d n [] 1 []) ∧ t.agenda = s.agenda ++ l ++
      [.sliceAccess (s.homeSlice (s.partOf s.cur.1) (a.toNat % 2 ^ 57 / 128)) (s.request a (a.toNat % 2 ^ 57) 0 acc)] ∧
      (t.core s.cur.1).l1 = (u.core s.cur.1).l1 := by
  have clear (w : Bool) := State.leased_elemVerdict (leased _ named) s.cur.2 w 0 a (fullMask n) 0
  have checked := State.checkAcked_clear (fun r hr => State.leased_target (leased r hr) _) named clear
  let v := u.modMe fun t => t.held (u.issued la (.access d n [] 1 []))
  have me : v.me = s.me.held (u.issued la (.access d n [] 1 [])) := (u.me_modMe _).trans (by rw [gone.toBeside.me])
  have l1 : (v.core s.cur.1).l1 = (u.core s.cur.1).l1 := by rw [← gone.cur, State.core_modMe, Core.setStrand_l1]
  refine ⟨_, State.acked_virt free la srcs writes d acc checked clear rfl dropped gone.toBeside,
    State.waitsIn_of_held (o := u.issued la _) me gone.mem, ?_, l1⟩
  rw [gone.home, ← gone.sent]
  rfl

/-- Settles O30: an access at the own scratchpad is performed at once; elsewhere its checks pass, and its request leaves behind what the
L1 owes the line. -/
theorem acknowledgedAtHome : Obligations.AcknowledgedAtHome := by
  unfold Obligations.AcknowledgedAtHome
  intro s free wf d a b la w aw sg x y
  refine ⟨?_, ?_, ?_, ?_⟩
  · intro n own p
    have run : exec (.stAck w d a b la) s = .next (p.2.wrote d (p.1.zeroExtend 64)) :=
      (exec_stAck_free free la d a b w).trans (State.acked_own_write free own la _ _ d _ (y n))
    exact ⟨run, State.stored_put wf (Nat.mod_lt _ (Nat.two_pow_pos _)) rfl⟩
  · intro n z own r
    exact (exec_ldAck_free free la d a b w).trans (State.acked_own_read free own la _ _ d _)
  · intro n m old cmp si less u sv own e he
    have unsigned : u old = extendTo n false old := (extendTo_unsigned (s.load_lt _ n)).symm
    have signed : sv old = extendTo n sg old := (extendTo_eq sg (s.load_lt _ n)).symm
    have less_ : less = (if sg then decide (signExt n old < signExt n (y n)) else decide (old < y n)) := by
      dsimp only [less, si]
      rw [signExt_eq, signExt_eq]
    have atomic {op : AtomOp} {sg' : Bool} {i : Instr} {v : Nat} {r : Word} (runs : exec i s = s.atomic la op sg' aw d a b)
        (makes : v = atomNew op sg' n old (s.me.greg b) (if op = .cas then s.me.greg d else 0)) (gives : r = extendTo n sg' old) :=
      exec_atomic_own free wf own runs makes gives
    simp only [List.mem_cons, List.not_mem_nil, or_false] at he
    rcases he with rfl | rfl | rfl | rfl | rfl | rfl | rfl | rfl
    exacts [atomic (op := .swap) rfl rfl unsigned, atomic (op := .cas) rfl rfl unsigned, atomic (op := .add) rfl rfl unsigned,
      atomic (op := .and) rfl rfl unsigned, atomic (op := .or) rfl rfl unsigned, atomic (op := .xor) rfl rfl unsigned,
      atomic (op := .min) rfl (by rw [atomNew, less_]) signed, atomic (op := .max) rfl (by rw [atomNew, less_]) signed]
  · intro c n v rmw old both e he z m line waits asked
    obtain ⟨srcs, run, named⟩ : ∃ srcs, exec e.1 s = s.acked la srcs [d] e.2.2.2.2.1 e.2.2.2.2.2 z m e.2.2.2.1 ∧
        (if e.2.2.2.2.2.contains Right.write then Right.write else .read) ∈ e.2.2.2.2.2 := by
      simp only [List.mem_cons, List.not_mem_nil, or_false] at he
      have atomics (op : AtomOp) (sg : Bool) := State.atomic_free free la d a b op sg aw
      have writes : (if [Right.write].contains Right.write then Right.write else .read) ∈ [Right.write] := by decide
      have readOnly : (if [Right.read].contains Right.write then Right.write else .read) ∈ [Right.read] := by decide
      have both_ : (if [Right.read, .write].contains Right.write then Right.write else .read) ∈ [Right.read, .write] := by decide
      rcases he with rfl | rfl | rfl | rfl | rfl | rfl | rfl | rfl | rfl | rfl
      exacts [⟨_, exec_stAck_free free la d a b w, writes⟩, ⟨_, exec_ldAck_free free la d a b w, readOnly⟩,
        ⟨_, atomics .swap false, both_⟩, ⟨_, atomics .cas false, both_⟩, ⟨_, atomics .add false, both_⟩,
        ⟨_, atomics .and false, both_⟩, ⟨_, atomics .or false, both_⟩, ⟨_, atomics .xor false, both_⟩,
        ⟨_, atomics .min sg, both_⟩, ⟨_, atomics .max sg, both_⟩]
    refine ⟨fun t at_ other => ?_, fun leased => ⟨fun absent => ?_, fun f fr only holds idle => ?_⟩⟩
    · have clear (w : Bool) := State.named_elemVerdict at_ s.cur.2 w 0 z (fullMask m) 0
      have checked := State.checkAcked_clear (fun r _ => (State.named_target at_ s.me.mode r).trans (by rw [if_neg other])) named clear
      refine ⟨_, run.trans (State.acked_pad free la srcs [d] _ _ checked clear rfl), ?_, ?_⟩
      · exact State.waitsIn_of_held (o := s.issued la _) (s.me_modMe fun t => t.held _) rfl
      · rw [List.append_nil]
        rfl
    · obtain ⟨t, ends, waits_, agenda, -⟩ := State.acked_gone free la srcs [d] e.2.2.2.2.1 e.2.2.2.1 leased named
        (State.dropLine_absent absent s.cn) ⟨State.Beside.refl s, rfl, (List.append_nil _).symm⟩
      exact ⟨t, run.trans ends, waits_, agenda⟩
    · by_cases clean : fr.dirty = 0
      · obtain ⟨u, dropped, gone, empty⟩ := State.dropLine_clean only holds clean s.cn
        obtain ⟨t, ends, waits_, agenda, l1⟩ := State.acked_gone free la srcs [d] e.2.2.2.2.1 e.2.2.2.1 leased named dropped gone
        exact ⟨t, [], ⟨run.trans ends, waits_, agenda⟩, by rw [l1]; exact empty, by rw [if_pos clean]⟩
      · obtain ⟨u, q, dropped, gone, access, empty⟩ := State.dropLine_dirty only holds clean idle s.cn
        obtain ⟨t, ends, waits_, agenda, l1⟩ := State.acked_gone free la srcs [d] e.2.2.2.2.1 e.2.2.2.1 leased named dropped gone
        exact ⟨t, _, ⟨run.trans ends, waits_, agenda⟩, by rw [l1]; exact empty, by rw [if_neg clean]; exact ⟨q, rfl, access⟩⟩

end Sys2Proof.Machine
end

section
/-! PROOFS. The statement of `05_execution_model.md` about the queue ports of `addi` and `add` (R113, R114). -/

namespace Sys2Proof.Machine

/-! ### A source read at issue (R113, R220) -/

/-- Strand 0 of core 256 with QMAP set, whose instruction is executed again after its tile work: it read 1 from g1 at its issue, and g1 holds
0 now. -/
def rerunWithPorts : State :=
  State.reset.modStrand 256 0 fun t => { t with life := .running, status := 8, rerun := true, scalars := [(1, 1)] }

theorem rerunWithPorts_me : rerunWithPorts.me = { Strand.reset with life := .running, status := 8, rerun := true, scalars := [(1, 1)] } :=
  State.strand_modStrand _ _ _ _

/-- An instruction that is executed again takes what it read at its issue, not what the register holds now. -/
theorem rerunWithPorts_pushes : ∃ t, exec (.addi 24 1 0) rerunWithPorts = .next t ∧ ((t.core 256).queue 0).entries = [1] :=
  ⟨_, rfl, by decide⟩

/-- Refutes O15: the clause about a push admits an instruction that is executed again (R220), whose source is what it read at its issue; the
value pushed is then not the register's. -/
theorem not_queuePorts : ¬ Obligations.QueuePorts := by
  intro h
  have me := rerunWithPorts_me
  obtain ⟨-, pushes, -⟩ := h rerunWithPorts 0 (by rw [me]; rfl) (by rw [me]; rfl) (by decide) (by decide)
  obtain ⟨t, run, pushed⟩ := (pushes 1 0 (by decide)).1 (by decide)
  obtain ⟨u, run', entries⟩ := rerunWithPorts_pushes
  cases Host.Outcome.next.inj (run.symm.trans run')
  have source : rerunWithPorts.me.greg 1 = 0 := by rw [me]; rfl
  rw [source] at pushed
  exact absurd (pushed.symm.trans entries) (by decide)

end Sys2Proof.Machine
end

section
/-! PROOFS. The statement of `05_execution_model.md` about a step at a slot (R99, R100, R102, R103): the instruction that the slot's strand
fetches, and the shadow of one that it waits for. -/

namespace Sys2Proof.Machine

/-! ### Instructions that answer a next state -/

/-- An answer that is a next state. -/
def Answers (o : Out) : Prop := ∃ t, o = .next t

theorem Answers.next (t : State) : Answers (.next t) := ⟨t, rfl⟩

theorem Answers.gate (s : State) (srcs pushes writes : List Reg) {o : Out} (h : Answers o) : Answers (s.gate srcs pushes writes o) := by
  rcases s.gate_cases srcs pushes writes o with go | ⟨w, waits⟩
  · rw [go]; exact h
  · rw [waits]; exact .next _

/-- A register-only instruction answers a next state: it completes, with or without a gate before it. -/
theorem exec_answers {i : Instr} {u : RegUse} (use : shadowUse i = some u) (s : State) : Answers (exec i s) := by
  cases i with
  | add | sub | and | or | xor | andn | orn | xnor | addw | subw | lea1 | lea2 | lea3 | lea4 | gname | sll | srl | sra | rol |
    ror | sllw | srlw | sraw | clz | ctz | popc | brev | bswap | bext | bdep | mul | mulhI64 | mulhW64 | mulI32 | divI64 |
    divW64 | remI64 | remW64 | divI32 | divW32 | remI32 | remW32 | seq | sne | sltI64 | sltW64 | sleI64 | sleW64 | minI64 |
    minW64 | maxI64 | maxW64 | czn | czz | fclassF64 | fclassF32 | addi | andi | ori | xori | sltiI64 | slli | srli | srai |
    rori | sltiW64 | lih | addpc | erd | ptog | vext | fadd | fsub | fmul | fdiv | fsqrt | fmin | fmax | fsgnj | fsgnjn | fsgnjx |
    fmac | fmsc | fcvtF32F64 | fcvtF64F32 | fcvtF16F32 | fcvtF32F16 | fcvtBf16F32 | fcvtF32Bf16 | fcvtF16F64 | fcvtF64F16 |
    fcvtF64I64 | fcvtF64W64 | fcvtF32I64 | fcvtF32W64 | fcvtI64F64 | fcvtW64F64 | fcvtI64F32 | fcvtW64F32 | fcvtI32F64 |
    fcvtW32F64 | fcvtI32F32 | fcvtW32F32 | feqF64 | fltF64 | fleF64 | feqF32 | fltF32 | fleF32 | vslide | vbcl | vdup | vins |
    pfromg | ewr => exact Answers.gate s _ _ _ (.next _)
  | vadd | vsub | vmul | vmulh | vmin | vmax | vadds | vsubs | vand | vor | vxor | vandn | vsll | vsrl | vsra | vfadd | vfsub |
    vfmul | vfdiv | vfsqrt | vfmin | vfmax | vfabs | vfmaF32 | vfmsF32 | vfnmaF32 | vfnmsF32 | vfmaF16 | vfmaBf16 | vmaddI32 |
    vmaddI16 | vperm | vzipl | vziph | vunzpe | vunzpo | vrev | vradd | vrmin | vrmax | vrfadd | vrfmin | vrfmax | vcvtF32F16 |
    vcvtF16F32 | vcvtF32Bf16 | vcvtBf16F32 | vcvtF32I32 | vcvtF32W32 | vcvtI32F32 | vcvtW32F32 | vcvtI32I8 | vcvtI8I32 |
    vcvtF32D16 | vcvtF32D8 | vcvtF32D4 | vcvtD16F32 | vcvtD8F32 | vcvtD4F32 | vcvtF32E4m3 | vcvtF32E5m2 | vcvtF32E2m3 |
    vcvtF32E3m2 | vcvtF32E2m1 | vcvtF32Mxi8 | vcvtE4m3F32 | vcvtE5m2F32 | vcvtE2m3F32 | vcvtE3m2F32 | vcvtE2m1F32 | vcvtMxi8F32
    | vrcp | vrsqrt | vexp2 | vlog2 | vtanh | vsigm | vmov | vmerge | vdxdot | vdxamax | vceq | vcne | vclt | vcle | vcfeq | vcflt |
    vcfle | vcfun | pand | por | pxor | pandn | pnot | nop | hlikely | hunlikely => exact .next _
  | _ => cases use

/-! ### The slot of a core (R99, R100) -/

section
variable {s : State} {c n : Nat}

/-- At a slot the step is what the slot's strand does, and then the core's cc ends. -/
theorem step_atSlot (h : s.AtSlot c n) : step s = State.after c (s.attempt c n) := by
  have quiet : s.deliverable = [] := by rw [State.deliverable, h.noMessage]; rfl
  obtain ⟨⟨c', k⟩, here, rfl⟩ := Option.map_eq_some_iff.mp h.turn
  have due : State.dueAll c' 64 s = .next s := by rw [State.dueAll, h.notDue]
  have slot : s.slot c' = s.attempt c' n := by rw [State.slot, h.owner]; exact if_pos h.issues
  have cycle : s.cycle = State.after c' (s.attempt c' n) := by
    rw [State.cycle, here]
    dsimp only
    rw [if_pos h.clocked, h.notAdding, due]
    exact congrArg _ slot
  rw [step, State.next, h.noModule]
  simp only [quiet]
  exact cycle

theorem State.attempt_atSlot (h : s.AtSlot c n) :
    s.attempt c n = if (s.strand c n).outst.isSome then s.outstSlot c n else s.ready c n := by
  have awake : ¬ ((s.strand c n).life ≠ .running || (s.strand c n).reaping || decide ((s.core c).ticks < (s.strand c n).startAt)) = true := by
    simp [h.running, h.notReaped, h.begun]
  rw [State.attempt]
  exact if_neg awake

theorem State.issue_fetches {w : BitVec 32} (h : s.Fetches c n w) : s.issue c n = exec (instrOfWord w) { s with cur := (c, n), ir := w } := by
  simp only [State.issue, h.mayFetch, h.noFetchFault, h.fetched]

/-- A strand that fetches runs what it fetches; one that has waited traps after it, once its wait has come to its limit. -/
theorem State.ready_fetches {w : BitVec 32} (h : s.Fetches c n w) : s.ready c n =
    match exec (instrOfWord w) { s with cur := (c, n), ir := w } with
    | .next u => (match if (s.strand c n).stall.isSome then u.dueStall c n else none with
      | some e => exec e.instr u
      | none => .next u)
    | r => r := by
  simp only [State.ready, h.noDeferred, h.noInterrupt, State.issue_fetches h]
  rfl

theorem instrOfWord_ok {w : BitVec 32} {i : Instr} (h : decode w.toNat = .ok i) : instrOfWord w = i := by
  rw [instrOfWord, h]

/-! ### The shadow of an instruction that waits (R102, R103) -/

/-- A phase that only a message ends. -/
def Phase.AwaitsMessage (p : Phase) : Prop :=
  (∃ g, p = .barrier g true) ∨ (∃ acq, p = .tier acq) ∨ ∃ a w m got, p = .access a w [] m got

section
variable {o : Outst} (outst : (s.strand c n).outst = some o) (noTrap : o.err = none) (awaits : o.phase.AwaitsMessage)
include outst noTrap awaits

theorem State.service_awaits : s.service c n = s := by
  rw [State.service, outst]
  rcases awaits with ⟨g, phase⟩ | ⟨acq, phase⟩ | ⟨a, w, m, got, phase⟩ <;> simp [noTrap, phase, State.askFills]

theorem State.settle_awaits : s.settle c n = s := by
  rw [State.settle, outst]
  rcases awaits with ⟨g, phase⟩ | ⟨acq, phase⟩ | ⟨a, w, m, got, phase⟩ <;>
    simp [noTrap, phase, State.endDone, Strand.phase?, outst]

omit noTrap in
/-- An interrupt or a deferred trap does not find it between instructions (R285, R301). -/
theorem Strand.between_awaits : (s.strand c n).between = false ∧ (s.strand c n).defers = false := by
  have between : (s.strand c n).between = false := by
    rw [Strand.between, outst]
    rcases awaits with ⟨g, phase⟩ | ⟨acq, phase⟩ | ⟨a, w, m, got, phase⟩ <;> simp [phase, Phase.formatY]
  refine ⟨between, ?_⟩
  rw [Strand.defers, between, outst]
  rcases awaits with ⟨g, phase⟩ | ⟨acq, phase⟩ | ⟨a, w, m, got, phase⟩ <;> simp [phase]

theorem State.dueOutst_awaits : s.dueOutst c n o = none := by
  have notHeld : s.heldResult c n = none := by
    rw [State.heldResult, outst]
    rcases awaits with ⟨g, phase⟩ | ⟨acq, phase⟩ | ⟨a, w, m, got, phase⟩ <;> simp [noTrap, phase]
  rw [State.dueOutst]
  rcases awaits with ⟨g, phase⟩ | ⟨acq, phase⟩ | ⟨a, w, m, got, phase⟩ <;> simp [noTrap, phase, notHeld]

/-- At its slots the strand of such an instruction runs its shadow, while it has lookahead left. -/
theorem State.outstSlot_awaits (slot : s.AtSlot c n) (ahead : o.retired < o.la) : s.outstSlot c n = s.shadow c n o := by
  obtain ⟨between, defers⟩ := Strand.between_awaits outst awaits
  have idle : s.handle (.longLatencyComplete c n) = .next s := by
    change execLongLatencyComplete c n s = _
    rw [execLongLatencyComplete, defers, State.service_awaits outst noTrap awaits, State.settle_awaits outst noTrap awaits]
    rfl
  have noInterrupt : s.interrupted c n = false := by simp [State.interrupted, between]
  rw [State.outstSlot, idle]
  simp [outst, noTrap, defers, slot.running, slot.notReaped, noInterrupt, State.dueOutst_awaits outst noTrap awaits, ahead]

omit noTrap awaits in
theorem State.endShadow_of_outst :
    s.endShadow c n = s.modStrand c n fun t => { t with outst := some { o with la := o.retired } } := by
  refine s.modStrand_congr c n ?_
  rw [outst]

end

theorem State.shadow_lost {o : Outst} (h : (s.fetchTrap c (s.strand c n).pc).isSome = true) : s.shadow c n o = .next (s.endShadow c n) := by
  obtain ⟨cause, lost⟩ := Option.isSome_iff_exists.mp h
  simp only [State.shadow, lost]

section
variable {o : Outst} {w : BitVec 32} (mayFetch : s.fetchTrap c (s.strand c n).pc = none)
  (fetched : (s.core c).fetched? (s.strand c n).pc = some w)
include mayFetch fetched

theorem State.shadow_ineligible (h : (s.strand c n).eligible (instrOfWord o.word) (instrOfWord w) = false) :
    s.shadow c n o = .next (s.endShadow c n) := by
  simp [State.shadow, mayFetch, fetched, h]

/-- An eligible instruction retires in the shadow if its PC moves on; else the slot stays empty. -/
theorem State.shadow_eligible (h : (s.strand c n).eligible (instrOfWord o.word) (instrOfWord w) = true) :
    ∃ u, exec (instrOfWord w) { s with cur := (c, n), ir := w } = .next u ∧
      s.shadow c n o = .next (if (u.strand c n).pc = (s.strand c n).pc then s else u.shadowRetired c n) := by
  have use : ∃ r, shadowUse (instrOfWord w) = some r := by
    rw [Strand.eligible] at h
    split at h
    · cases h
    · exact ⟨_, ‹_›⟩
  obtain ⟨r, use⟩ := use
  obtain ⟨u, run⟩ := exec_answers use { s with cur := (c, n), ir := w }
  exact ⟨u, run, by simp [State.shadow, mayFetch, fetched, h, run]⟩

end

end

/-! ### The statement -/

/-- Settles O3: a slot runs its strand's next instruction, or the shadow of the one it waits for. -/
theorem stepRunsDecoded : Obligations.StepRunsDecoded := by
  unfold Obligations.StepRunsDecoded
  refine ⟨fun s c n w i fetches decoded => ?_, fun s c n o slot outst noTrap awaits ahead => ?_⟩
  · intro o
    have run : step s = State.after c (s.ready c n) := by
      rw [step_atSlot fetches.toAtSlot, State.attempt_atSlot fetches.toAtSlot, fetches.nothingOutstanding]
      rfl
    rw [State.ready_fetches fetches, instrOfWord_ok decoded] at run
    refine ⟨fun first => run.trans (congrArg _ ?_), fun waited => run.trans (congrArg _ ?_)⟩
    · rw [first]
      change (match o with
        | .next u => _
        | r => r) = o
      cases o <;> rfl
    · rw [Option.isSome_iff_ne_none.mpr waited]
      rfl
  · intro ended
    have run : step s = State.after c (s.shadow c n o) := by
      rw [step_atSlot slot, State.attempt_atSlot slot, outst, if_pos Option.isSome_some, State.outstSlot_awaits outst noTrap awaits slot ahead]
    have ends : s.endShadow c n = ended := State.endShadow_of_outst outst
    refine ⟨fun lost => ?_, fun w mayFetch fetched => ⟨fun barred => ?_, fun eligible => ?_⟩⟩
    · rw [run, State.shadow_lost lost, ends]
    · rw [run, State.shadow_ineligible mayFetch fetched barred, ends]
    · obtain ⟨u, ran, shadow⟩ := State.shadow_eligible mayFetch fetched eligible
      refine ⟨u, ran, fun stays => ?_, fun moved => ?_⟩
      · rw [run, shadow, if_pos stays]
      · rw [run, shadow, if_neg moved]

end Sys2Proof.Machine
end

section
/-! PROOFS. The statement of `05_execution_model.md` about the state after reset (R97, R98, R275 to R277, R280 to R282). -/

namespace Sys2Proof.Machine

theorem State.core_reset (c : Nat) : State.reset.core c = Core.reset := rfl

theorem Core.strand_reset (n : Nat) : Core.reset.strand n = Strand.reset := by
  simp [Core.strand, Core.reset]

theorem State.strand_reset (c n : Nat) : State.reset.strand c n = Strand.reset := Core.strand_reset n

theorem Strand.greg_reset (r : Reg) : Strand.reset.greg r = 0 := by simp [Strand.greg, Strand.reset]

theorem Strand.vreg_reset (r : Reg) : Strand.reset.vreg r = 0 := by simp [Strand.vreg, Strand.reset]

theorem Strand.ereg_reset (r : Reg) : Strand.reset.ereg r = 0 := by simp [Strand.ereg, Strand.reset]

theorem Strand.preg_reset {p : Pred} (h : p ≠ 0) : Strand.reset.preg p = 0 := by
  rw [Strand.preg, if_neg h, Strand.reset]
  exact Vector.getElem_replicate _

theorem Strand.handle_reset (m : Tile) : Strand.reset.handle m = .empty := by simp [Strand.handle, Strand.reset]

/-- No interrupt is pending: TCMP is all ones, above every count but the last (R280). -/
theorem Core.ipend_reset (n : Nat) : Core.reset.ipend n = 0 := by
  have timer : Strand.reset.tcmp.ule Core.reset.calends = false := by decide
  rw [Core.ipend, Core.strand_reset, timer]
  by_cases steward : n % 16 = 0 <;> simp [steward, Core.reset, Strand.reset]

/-- Settles O7, register by register. -/
theorem resetState : Obligations.ResetState := by
  unfold Obligations.ResetState
  refine ⟨⟨State.wf_reset⟩, fun c n => ?_⟩
  dsimp only
  rw [State.strand_reset, State.core_reset]
  exact ⟨rfl, rfl, rfl, rfl, rfl, rfl, fun r => ⟨Strand.greg_reset r, Strand.vreg_reset r, Strand.ereg_reset r⟩, fun _ => Strand.preg_reset,
    Strand.handle_reset, rfl, rfl, rfl, rfl, rfl, Core.ipend_reset n, rfl, rfl, rfl, rfl, rfl, rfl, rfl, rfl⟩

end Sys2Proof.Machine
end

section
/-! PROOFS. The statement of `05_execution_model.md` about the completion of an instruction: the end actions of its loop levels and the
levels that a transfer leaves (R105, R106, R288). -/

namespace Sys2Proof.Machine

/-- An address is the last of an active level's body. -/
def Level.EndsAt (l : Level) (pc : Word) : Prop := l.active = true ∧ l.stop = pc

theorem Level.endsAt_iff {l : Level} {pc : Word} : (l.active && l.stop == pc) = true ↔ l.EndsAt pc := by
  simp [Level.EndsAt]

/-- An address is not in an active level's body. -/
def Level.LeftBy (l : Level) (a : Word) : Prop := l.active = true ∧ (a.toNat < l.start.toNat ∨ l.stop.toNat < a.toNat)

theorem Level.leftBy_iff {l : Level} {a : Word} : (l.active && !l.holds a) = true ↔ l.LeftBy a := by
  simp [Level.LeftBy, Level.holds]

/-! ### End actions (R105) -/

section
variable {t : Strand} {pc : Word} (go : Word)

theorem Strand.endAction_elsewhere (inner : ¬ t.level0.EndsAt pc) (outer : ¬ t.level1.EndsAt pc) :
    t.endAction pc go = { t with pc := go } := by
  rw [← Level.endsAt_iff] at inner outer
  rw [Strand.endAction, if_neg inner, if_neg outer]

theorem Strand.endAction_outer (inner : ¬ t.level0.EndsAt pc) (outer : t.level1.EndsAt pc) : t.endAction pc go =
    if 1 < t.level1.count.toNat then { t with pc := t.level1.start, level1 := { t.level1 with count := t.level1.count - 1 } }
    else { t with pc := go, level1 := { t.level1 with count := 0, active := false } } := by
  rw [← Level.endsAt_iff] at inner outer
  rw [Strand.endAction, if_neg inner, if_pos outer]

section
variable (inner : t.level0.EndsAt pc)
include inner

theorem Strand.endAction_repeats (more : 1 < t.level0.count.toNat) :
    t.endAction pc go = { t with pc := t.level0.start, level0 := { t.level0 with count := t.level0.count - 1 } } := by
  rw [← Level.endsAt_iff] at inner
  rw [Strand.endAction, if_pos inner, if_pos more, Strand.endInner, if_pos more]

variable (last : ¬ 1 < t.level0.count.toNat)
include last

theorem Strand.endAction_ends (alone : t.level1.active = false) :
    t.endAction pc go = { t with pc := go, level0 := { t.level0 with count := 0, active := false } } := by
  rw [← Level.endsAt_iff] at inner
  rw [Strand.endAction, if_pos inner, if_neg last, if_neg (by simp [alone]), Strand.endInner, if_neg last]

/-- The outer level takes the place of the inner one that ends, and its end action where it ends there too. -/
theorem Strand.endAction_outward (nested : t.level1.active = true) : t.endAction pc go =
    if t.level1.stop = pc then
      if 1 < t.level1.count.toNat then
        { t with pc := t.level1.start, level0 := { t.level1 with count := t.level1.count - 1 }, level1 := { t.level1 with active := false } }
      else { t with pc := go, level0 := { t.level1 with count := 0, active := false }, level1 := { t.level1 with active := false } }
    else { t with pc := go, level0 := t.level1, level1 := { t.level1 with active := false } } := by
  rw [← Level.endsAt_iff] at inner
  rw [Strand.endAction, if_pos inner, if_neg last, if_pos nested]
  simp only [beq_iff_eq, Strand.endInner]

end

end

/-! ### The statement -/

/-- A strand whose instruction has completed: its PC and its levels. -/
def Strand.past (t : Strand) (pc : Word) (a b : Level) : Strand :=
  { t with pc, level0 := a, level1 := b, stall := none, skip := 0, popped := [], rerun := false, record := none, scalars := [],
           order := none }

theorem Strand.complete_on_past {t : Strand} (noSkip : t.skip = 0) (pc : Word) :
    t.complete pc t.skip .on = (t.past t.pc t.level0 t.level1).endAction pc (pc + 4) := by
  rw [noSkip]
  rfl

theorem Strand.complete_cancels (t : Strand) (pc a : Word) (skip : Nat) : t.complete pc skip (.to a true) =
    t.past a (cancelLevels t.level0 t.level1 a).1 (cancelLevels t.level0 t.level1 a).2 := rfl

theorem cancelLevels_outer {l0 l1 : Level} {a : Word} (outer : l1.LeftBy a) :
    cancelLevels l0 l1 a = ({ l0 with active := false }, { l1 with active := false }) :=
  if_pos (Level.leftBy_iff.mpr outer)

theorem cancelLevels_inner {l0 l1 : Level} {a : Word} (outer : ¬ l1.LeftBy a) (inner : l0.LeftBy a) :
    cancelLevels l0 l1 a = if l1.active then (l1, { l1 with active := false }) else ({ l0 with active := false }, l1) := by
  rw [cancelLevels, if_neg (mt Level.leftBy_iff.mp outer), if_pos (Level.leftBy_iff.mpr inner)]

theorem cancelLevels_none {l0 l1 : Level} {a : Word} (outer : ¬ l1.LeftBy a) (inner : ¬ l0.LeftBy a) : cancelLevels l0 l1 a = (l0, l1) := by
  rw [cancelLevels, if_neg (mt Level.leftBy_iff.mp outer), if_neg (mt Level.leftBy_iff.mp inner)]

/-- Settles O17, level by level. -/
theorem completion : Obligations.Completion := by
  unfold Obligations.Completion
  intro s l0 l1 off fell spent ends leaves done on
  have goes {f : Flow} {pc : Word} {a b : Level} (h : s.me.complete s.me.pc s.me.skip f = s.me.past pc a b) : s.retire f = done pc a b :=
    s.modMe_congr h
  have cancels {x : Word} {a b : Level} (h : cancelLevels l0 l1 x = (a, b)) : s.retire (.to x true) = done x a b :=
    goes (by rw [Strand.complete_cancels, h])
  refine ⟨fun noSkip => ?_, fun x => ⟨goes rfl, fun outer => cancels (cancelLevels_outer outer), fun outer inner => ?_,
    fun outer inner => cancels (cancelLevels_none outer inner)⟩⟩
  · have acts {pc : Word} {a b : Level} (h : (s.me.past s.me.pc l0 l1).endAction s.me.pc on = s.me.past pc a b) :
        s.retire .on = done pc a b := goes ((Strand.complete_on_past noSkip _).trans h)
    refine ⟨fun n0 n1 => acts (Strand.endAction_elsewhere _ n0 n1), fun e0 more => acts (Strand.endAction_repeats _ e0 more),
      fun e0 few => ?_, fun n0 e1 => ?_⟩
    · have last : ¬ 1 < l0.count.toNat := Nat.not_lt.mpr few
      refine ⟨fun alone => acts (Strand.endAction_ends _ e0 last alone), fun nested elsewhere => acts ?_, fun e1 more => acts ?_,
        fun e1 few => acts ?_⟩
      · exact (Strand.endAction_outward (t := s.me.past s.me.pc l0 l1) _ e0 last nested).trans (if_neg elsewhere)
      · exact (Strand.endAction_outward (t := s.me.past s.me.pc l0 l1) _ e0 last e1.1).trans ((if_pos e1.2).trans (if_pos more))
      · exact (Strand.endAction_outward (t := s.me.past s.me.pc l0 l1) _ e0 last e1.1).trans ((if_pos e1.2).trans (if_neg (Nat.not_lt.mpr few)))
    · exact ⟨fun more => acts ((Strand.endAction_outer (t := s.me.past s.me.pc l0 l1) _ n0 e1).trans (if_pos more)),
        fun few => acts ((Strand.endAction_outer (t := s.me.past s.me.pc l0 l1) _ n0 e1).trans (if_neg (Nat.not_lt.mpr few)))⟩
  · have levels := cancelLevels_inner outer inner
    by_cases nested : l1.active = true
    · rw [if_pos nested]
      exact cancels (levels.trans (if_pos nested))
    · rw [if_neg nested]
      exact cancels (levels.trans (if_neg nested))

end Sys2Proof.Machine
end

section
/-! PROOFS. The statement of `05_execution_model.md` about loop starts and their traps, hints and `retire` (R104, R132, R157, R191). -/

namespace Sys2Proof.Machine

/-! ### Loop starts (R104, R157) -/

/-- The last address of the body of a loop that the issuing strand starts. -/
def State.loopStop (s : State) (len : BitVec 15) : Word := s.me.pc + BitVec.ofNat 64 (4 * len.toNat)

theorem State.loopStop_eq (s : State) (len : BitVec 15) : s.me.pc + (len.zeroExtend 64 <<< 2) = s.loopStop len := by
  have body : (len.zeroExtend 64 <<< 2 : Word) = BitVec.ofNat 64 (4 * len.toNat) := by
    apply BitVec.eq_of_toNat_eq
    simp [Nat.shiftLeft_eq]
    omega
  rw [State.loopStop, body]

/-- The innermost level that a loop of count k starts. -/
def State.freshLevel (s : State) (k : Word) (len : BitVec 15) : Level :=
  { start := s.me.pc + 4, stop := s.loopStop len, count := k, active := true }

/-- A loop has started: an active inner level has moved out. -/
def State.loopStarted (s : State) (k : Word) (len : BitVec 15) : State :=
  (s.modMe fun t => { t with level1 := if t.level0.active then t.level0 else t.level1, level0 := s.freshLevel k len }).retire
    (.to (s.me.pc + 4) false)

/-- The body of a loop of count 0 is skipped. -/
def State.loopSkipped (s : State) (len : BitVec 15) : State := s.retire (.to (s.loopStop len + 4) false)

/-- A loop that would reach beyond the enclosing one or make a third level. -/
def State.Misnests (s : State) (len : BitVec 15) : Prop :=
  s.me.level0.active = true ∧ (s.me.level0.stop.toNat < (s.loopStop len).toNat ∨ s.me.level1.active = true)

theorem State.misnests_iff {s : State} {len : BitVec 15} :
    (s.me.level0.active && (s.me.level1.active || s.me.level0.stop.ult (s.loopStop len))) = true ↔ s.Misnests len := by
  simp [State.Misnests, BitVec.ult, or_comm]

theorem Strand.atEnd_iff {t : Strand} {pc : Word} : t.atEnd pc = true ↔
    (t.level0.active = true ∧ t.level0.stop = pc) ∨ (t.level1.active = true ∧ t.level1.stop = pc) := by
  simp [Strand.atEnd]

section
variable {s : State} {srcs : List Reg} {n : Word} {len : BitVec 15}

theorem startLoop_traps_here (h : len = 0 ∨ s.me.atEnd s.me.pc = true) : startLoop s srcs n len = .next (s.trap .illegal s.word) :=
  if_pos (by simpa using h)

variable (free : s.Free) (body : len ≠ 0) (inside : ¬ s.me.atEnd s.me.pc = true)
include free body inside

/-- A loop with a body, not at the end of another's, looks at its count and its place. -/
theorem startLoop_free : startLoop s srcs n len =
    if n = 0 then .next (s.loopSkipped len)
    else if s.me.level0.active && (s.me.level1.active || s.me.level0.stop.ult (s.loopStop len)) then .next (s.trap .illegal s.word)
    else .next (s.loopStarted n len) := by
  have goes : ¬ (decide (len = 0) || s.me.atEnd s.me.pc) = true := by simpa using And.intro body inside
  simp only [startLoop, State.loopStop_eq, if_neg goes, State.gate_free free, State.pops_free free]
  rfl

theorem startLoop_skips (zero : n = 0) : startLoop s srcs n len = .next (s.loopSkipped len) := by
  rw [startLoop_free free body inside, if_pos zero]

theorem startLoop_misnests (more : n ≠ 0) (wrong : s.Misnests len) : startLoop s srcs n len = .next (s.trap .illegal s.word) := by
  rw [startLoop_free free body inside, if_neg more, if_pos (State.misnests_iff.mpr wrong)]

theorem startLoop_starts (right : ¬ s.Misnests len) :
    startLoop s srcs n len = .next (if n = 0 then s.loopSkipped len else s.loopStarted n len) := by
  rw [startLoop_free free body inside, if_neg (mt State.misnests_iff.mp right)]
  split <;> rfl

end

theorem exec_loop_free {s : State} (free : s.Free) (a : Reg) (len : BitVec 15) :
    exec (.loop a len) s = startLoop s [a] (s.me.greg a) len := by
  change startLoop s [a] (s.read a) len = _
  rw [State.read_free free]

theorem State.skipped_eq (s : State) (len : BitVec 15) :
    s.retire (.to (s.me.pc + BitVec.ofNat 64 (4 * len.toNat + 4)) false) = s.loopSkipped len := by
  rw [State.loopSkipped, State.loopStop, BitVec.ofNat_add, BitVec.add_assoc]
  rfl

/-- A count of `loopi` is zero where its ten bits are. -/
theorem zeroExtend_count_eq_zero {n : BitVec 10} : (n.zeroExtend 64 : Word) = 0 ↔ n = 0 := by bv_omega

/-- Both loop instructions start the loop of their count. -/
theorem exec_loops_start {s : State} (free : s.Free) {a : Reg} {n : BitVec 10} {len : BitVec 15} (body : len ≠ 0)
    (inside : ¬ s.me.atEnd s.me.pc = true) (right : ¬ s.Misnests len) :
    exec (.loop a len) s = .next (if s.me.greg a = 0 then s.loopSkipped len else s.loopStarted (s.me.greg a) len) ∧
      exec (.loopi n len) s = .next (if n = 0 then s.loopSkipped len else s.loopStarted (n.zeroExtend 64) len) := by
  constructor
  · rw [exec_loop_free free, startLoop_starts free body inside right]
  · change startLoop s [] (n.zeroExtend 64) len = _
    simp only [startLoop_starts free body inside right, zeroExtend_count_eq_zero]

/-- The traps of a loop start, and the skip of a body with count 0, whatever the count's source. -/
theorem startLoop_outcome {s : State} (free : s.Free) (tin : s.me.tin = false) (srcs : List Reg) (n : Word) (len : BitVec 15) :
    (len = 0 ∨ s.me.atEnd s.me.pc = true ∨ (n ≠ 0 ∧ s.Misnests len) →
      ∃ u, startLoop s srcs n len = .next u ∧ s.Trapped u 0x01 s.me.pc (s.ir.zeroExtend 64)) ∧
    (len ≠ 0 → ¬ s.me.atEnd s.me.pc = true → n = 0 → startLoop s srcs n len = .next (s.loopSkipped len)) := by
  have trapped : s.Trapped (s.trap .illegal s.word) 0x01 s.me.pc (s.ir.zeroExtend 64) :=
    State.trapped_trap (cause := .illegal) free tin nofun nofun _
  refine ⟨fun wrong => ⟨_, ?_, trapped⟩, fun body inside zero => startLoop_skips free body inside zero⟩
  by_cases here : len = 0 ∨ s.me.atEnd s.me.pc = true
  · exact startLoop_traps_here here
  · obtain ⟨body, inside⟩ := not_or.mp here
    obtain none | atEnd | ⟨more, misnests⟩ := wrong
    · exact absurd none body
    · exact absurd atEnd inside
    · exact startLoop_misnests free body inside more misnests

/-! ### The statement -/

/-- Settles O18: what a loop does follows from its body, its count and its place; the hints and `retire` do what they do by definition. -/
theorem loopsHintsAndRetire : Obligations.LoopsHintsAndRetire := by
  unfold Obligations.LoopsHintsAndRetire
  refine ⟨fun s free alone a n len body => ?_, fun s free inner outer elsewhere a n len body => ?_, fun s free tin a n len => ?_,
    fun s a imm la => ⟨rfl, rfl, rfl, rfl, rfl⟩⟩
  · intro fresh started skipped
    have inside : ¬ s.me.atEnd s.me.pc = true := by simp [Strand.atEnd, alone.inner, alone.outer]
    have right : ¬ s.Misnests len := fun h => Bool.false_ne_true (alone.inner.symm.trans h.1)
    have levels (k : Word) : s.loopStarted k len = started k :=
      congrArg (State.retire · _) (s.modMe_congr (by simp [State.freshLevel, State.loopStop, fresh, alone.inner]))
    have skips : skipped = s.loopSkipped len := s.skipped_eq len
    rw [skips, ← levels, ← levels]
    exact exec_loops_start free body inside right
  · intro stop started skipped within
    have inside : ¬ s.me.atEnd s.me.pc = true := by simp [Strand.atEnd, outer, elsewhere]
    have right : ¬ s.Misnests len := fun h => by
      obtain beyond | third := h.2
      · exact absurd beyond (Nat.not_lt.mpr within)
      · exact Bool.false_ne_true (outer.symm.trans third)
    have levels (k : Word) : s.loopStarted k len = started k :=
      congrArg (State.retire · _) (s.modMe_congr (by simp [State.freshLevel, State.loopStop, stop, inner]))
    rw [← levels, ← levels]
    exact exec_loops_start free body inside right
  · intro t stop atEnd e he
    have here : s.me.atEnd s.me.pc = true ↔ atEnd := Strand.atEnd_iff
    simp only [List.mem_cons, List.not_mem_nil, or_false] at he
    obtain rfl | rfl := he
    · rw [← here, exec_loop_free free]
      exact startLoop_outcome free tin [a] _ len
    · rw [← here]
      exact startLoop_outcome free tin [] _ len

end Sys2Proof.Machine
end

section
/-! PROOFS. The statement of `05_execution_model.md` about the group operations of a member (R116, R180 to R183): the arrival or contribution
that a core makes once, the broadcast that leaves, and the one that has come. -/

namespace Sys2Proof.Machine

/-! ### The slot of the issue (R102, R180) -/

/-- The slot in which a strand's instruction becomes outstanding in a phase. -/
def State.firstSlot (s : State) (la : La) (p : Phase) : State :=
  ((s.modMe fun t => t.held (s.issued la p)).service s.cur.1 s.cur.2).endDone s.cur.1 s.cur.2

section
variable {s : State} (free : s.Free) (la : La) (srcs writes : List Reg) {a : Reg} (p : GroupRef → Phase)
include free

theorem State.grouped_member {g : Group} (member : s.groupOf s.cur.1 ((s.me.greg a).toNat % 256) = some g) :
    s.grouped la srcs writes a p = .next (s.firstSlot la (p g.ref)) := by
  simp only [State.grouped, State.gate_free free, State.read_free free, member]
  rw [State.begin, State.pops_free free, State.hold_free free, State.firstSlot]

theorem State.grouped_stranger (tin : s.me.tin = false) (stranger : s.groupOf s.cur.1 ((s.me.greg a).toNat % 256) = none) :
    ∃ t, s.grouped la srcs writes a p = .next t ∧ s.Trapped t 0x05 s.me.pc (BitVec.ofNat 64 ((s.me.greg a).toNat % 256)) := by
  refine ⟨_, ?_, State.trapped_trap free tin (cause := .noSuchCore) nofun nofun _⟩
  simp only [State.grouped, State.gate_free free, State.read_free free, stranger]

end

theorem State.Settled.beside {s u : State} (h : s.Settled) (b : s.Beside u) (l1 : (u.core s.cur.1).l1 = (s.core s.cur.1).l1) :
    u.Settled where
  idle := by rw [b.me]; exact h.idle
  acked := by rw [b.me]; exact h.acked
  clean := by rw [b.cur, l1]; exact h.clean

/-- A slot that leaves its strand's instruction in a phase, with messages sent, leaves it waiting. -/
theorem State.slot_waits {s y : State} (b : s.Beside y) {o : Outst} (waits : ∀ r, o.phase ≠ .done r) (es : List Event) :
    let t := (y.modMe fun t => t.held o).posts es
    t.endDone s.cur.1 s.cur.2 = t ∧ s.WaitsIn t o.phase ∧ t.agenda = y.agenda ++ es := by
  intro t
  have me : t.me = s.me.held o := by
    rw [← b.me]
    exact y.me_modMe fun t => t.held o
  refine ⟨State.endDone_of_waits (p := o.phase) ?_ waits, State.waitsIn_of_held me b.mem, rfl⟩
  rw [← b.cur]
  exact congrArg Strand.phase? me

/-! ### The core's part in an episode (R116, R180, R183) -/

/-- The record of a part in an episode that the issuing strand makes for its core. -/
def State.ownArrival (s : State) (idx : Nat) (red : Bool) : Arrival :=
  { idx, reduction := red, arriver := .strand s.cn, sent := false, withdrawn := false }

/-- A core whose part in an episode has just left it. -/
def Core.arrived (k : Core) (a : Arrival) : Core := (k.putArrival a).sendArrival a.idx a.reduction

theorem Core.arrivalSent_arrived (k : Core) (a : Arrival) : (k.arrived a).arrivalSent a.idx a.reduction = true := by
  simp [Core.arrivalSent, Core.arrival?, Core.arrived, Core.sendArrival, Core.putArrival]

theorem State.beside_modCore {s : State} {f : Core → Core} (strands : (f (s.core s.cur.1)).strands = (s.core s.cur.1).strands)
    (copies : (f (s.core s.cur.1)).copies = (s.core s.cur.1).copies) : s.Beside (s.modCore s.cur.1 f) :=
  ⟨rfl, rfl, by rw [State.core_modCore, strands], by rw [State.core_modCore, copies]⟩

/-- Two changes of a core are one. -/
theorem State.modCore_modCore (s : State) (c : Nat) (f g : Core → Core) : (s.modCore c f).modCore c g = s.modCore c fun k => g (f k) := by
  rw [State.modCore, State.core_modCore]
  exact s.setCore_setCore _ _ _

section
variable {s : State} (red : Bool) (r : GroupRef) (join send : State → State) (o : Outst)

/-- The first strand of its core makes the core's part, which leaves at once where there is nothing to release. -/
theorem State.arriveThen_first (settled : s.Settled) (new : o.cleaning = none)
    (first : (s.core s.cur.1).arrival? r.idx red = none) :
    ∃ w, (s.modMe fun t => t.held o).arriveThen s.cur.1 s.cur.2 r red join send =
      send ((s.modCore s.cur.1 fun k => k.arrived (s.ownArrival r.idx red)).modMe fun t => t.held { o with cleaning := some w }) := by
  let put := s.modCore s.cur.1 fun k => k.putArrival (s.ownArrival r.idx red)
  have beside : s.Beside put := State.beside_modCore rfl rfl
  obtain ⟨w, released⟩ := State.release_settled (settled.beside beside (by rw [State.core_modCore]; rfl)) new
  refine ⟨w, ?_⟩
  have first_ : ((s.modMe fun t => t.held o).core s.cur.1).arrival? r.idx red = none := by
    rw [State.core_modMe]
    exact first
  have made : (s.modMe fun t => t.held o).modCore s.cur.1 (fun k => k.putArrival (s.ownArrival r.idx red)) = put.modMe fun t => t.held o :=
    State.modCore_modMe (g := fun k => k.putArrival _) (fun _ _ _ => rfl) (fun _ => rfl) s _
  have left : (put.modMe fun t => t.held { o with cleaning := some w }).modCore s.cur.1 (fun k => k.sendArrival r.idx red) =
      (s.modCore s.cur.1 fun k => k.arrived (s.ownArrival r.idx red)).modMe fun t => t.held { o with cleaning := some w } :=
    (State.modCore_modMe (g := fun k => k.sendArrival r.idx red) (fun _ _ _ => rfl) (fun _ => rfl) put _).trans
      (congrArg (State.modMe · _) (s.modCore_modCore _ _ _))
  rw [← left, State.arriveThen, first_]
  have released_ : ((s.modMe fun t => t.held o).modCore s.cur.1 fun k => k.putArrival (s.ownArrival r.idx red)).release s.cur.1 s.cur.2
      .partition = (.done, put.modMe fun t => t.held { o with cleaning := some w }) := by
    rw [made]
    exact released
  dsimp only
  rw [show ({ idx := r.idx, reduction := red, arriver := .strand (s.cur.2 % 16), sent := false, withdrawn := false } : Arrival) =
    s.ownArrival r.idx red from rfl, released_]

/-- A later strand of the core joins the part that its core has made. -/
theorem State.arriveThen_joins {x : Arrival} (made : (s.core s.cur.1).arrival? r.idx red = some x)
    (other : x.sent = true ∨ x.arriver ≠ .strand s.cn) :
    (s.modMe fun t => t.held o).arriveThen s.cur.1 s.cur.2 r red join send = join (s.modMe fun t => t.held o) := by
  have made_ : ((s.modMe fun t => t.held o).core s.cur.1).arrival? r.idx red = some x := by
    rw [State.core_modMe]
    exact made
  have joins : ¬ (decide (x.arriver = .strand (s.cur.2 % 16)) && !x.sent) = true := by
    simpa [State.cn, imp_iff_not_or, or_comm] using other
  rw [State.arriveThen, made_]
  exact if_neg joins

end

/-! ### Barriers and reductions (R181, R183) -/

/-- A phase in which a strand is yet to make or to join its core's part in an episode, the one in which it then waits, and the message that
the core sends. -/
structure Arrives (s : State) (r : GroupRef) (red : Bool) (before after : Phase) (e : Event) : Prop where
  slot : ∀ (u : State) (o : Outst), (u.strand s.cur.1 s.cur.2).outst = some o → o.err = none → o.phase = before →
    u.service s.cur.1 s.cur.2 = u.arriveThen s.cur.1 s.cur.2 r red (fun v => v.setPhase s.cur.1 s.cur.2 after)
      fun v => (v.setPhase s.cur.1 s.cur.2 after).post e
  waits : ∀ x, after ≠ .done x

theorem arrives_barrier (s : State) (r : GroupRef) :
    Arrives s r false (.barrier r false) (.barrier r true) (.barrierArrival r s.cur.1 s.cur.1) where
  slot u o outst noTrap phase := by
    simp only [State.service, outst, noTrap, phase]
    rfl
  waits _ := nofun

theorem arrives_reduce (s : State) (r : GroupRef) (d : Reg) (op : RedOp) (v : Word) :
    Arrives s r true (.reduce r d op v false) (.reduce r d op v true) (.reductionContribution r s.cur.1 s.cn op v s.cur.1) where
  slot u o outst noTrap phase := by
    simp only [State.service, outst, noTrap, phase]
    rfl
  waits _ := nofun

section
variable {s : State} {r : GroupRef} {red : Bool} {before after : Phase} {e : Event} (arrives : Arrives s r red before after e) (la : La)
include arrives

theorem Arrives.first (settled : s.Settled) (first : (s.core s.cur.1).arrival? r.idx red = none) :
    s.WaitsIn (s.firstSlot la before) after ∧ (s.firstSlot la before).agenda = s.agenda ++ [e] ∧
      ((s.firstSlot la before).core s.cur.1).arrivalSent r.idx red = true := by
  let y := s.modCore s.cur.1 fun k => k.arrived (s.ownArrival r.idx red)
  obtain ⟨w, run⟩ := State.arriveThen_first red r (fun v => v.setPhase s.cur.1 s.cur.2 after)
    (fun v => (v.setPhase s.cur.1 s.cur.2 after).post e) (s.issued la before) settled rfl first
  let o : Outst := { s.issued la before with cleaning := some w, phase := after }
  have service : (s.modMe fun t => t.held (s.issued la before)).service s.cur.1 s.cur.2 = (y.modMe fun t => t.held o).posts [e] := by
    rw [arrives.slot _ (s.issued la before) (by rw [State.strand_modMe]; rfl) rfl rfl, run]
    exact congrArg (State.post · e) (y.setPhase_held _ after)
  obtain ⟨ends, waits, agenda⟩ := State.slot_waits (s := s) (y := y) (State.beside_modCore rfl rfl) (o := o) arrives.waits [e]
  rw [State.firstSlot, service, ends]
  refine ⟨waits, agenda, ?_⟩
  rw [State.core_posts, show s.cur.1 = y.cur.1 from rfl, State.core_modMe]
  change (y.core s.cur.1).arrivalSent r.idx red = true
  rw [State.core_modCore]
  exact Core.arrivalSent_arrived _ _

theorem Arrives.joins {x : Arrival} (made : (s.core s.cur.1).arrival? r.idx red = some x) (other : x.sent = true ∨ x.arriver ≠ .strand s.cn) :
    s.WaitsIn (s.firstSlot la before) after ∧ (s.firstSlot la before).agenda = s.agenda := by
  let o : Outst := { s.issued la before with phase := after }
  have service : (s.modMe fun t => t.held (s.issued la before)).service s.cur.1 s.cur.2 = (s.modMe fun t => t.held o).posts [] := by
    rw [arrives.slot _ (s.issued la before) (by rw [State.strand_modMe]; rfl) rfl rfl, State.arriveThen_joins red r _ _ _ made other,
      State.posts_nil]
    exact s.setPhase_held _ after
  obtain ⟨ends, waits, agenda⟩ := State.slot_waits (State.Beside.refl s) (o := o) arrives.waits []
  rw [State.firstSlot, service, ends]
  exact ⟨waits, agenda.trans (List.append_nil _)⟩

end

/-! ### Broadcasts (R182) -/

section
variable {s : State} (settled : s.Settled) (la : La) (r : GroupRef)
include settled

theorem State.bcastSend_waits (v : Word) :
    let t := s.firstSlot la (.bcastSend r v false none)
    s.WaitsIn t (.bcastSend r v true (some (s.core s.cur.1).ticks)) ∧ t.agenda = s.agenda ++ [.broadcastAccept r s.cur.1 s.cur.2 v] := by
  obtain ⟨w, released⟩ := State.release_settled settled (o := s.issued la (.bcastSend r v false none)) rfl
  let o : Outst := { s.issued la (.bcastSend r v false none) with
    cleaning := some w, phase := .bcastSend r v true (some (s.core s.cur.1).ticks) }
  have noTrap : (s.issued la (.bcastSend r v false none)).err.isSome = false := rfl
  have phase : (s.issued la (.bcastSend r v false none)).phase = .bcastSend r v false none := rfl
  have service : (s.modMe fun t => t.held (s.issued la (.bcastSend r v false none))).service s.cur.1 s.cur.2 =
      (s.modMe fun t => t.held o).posts [.broadcastAccept r s.cur.1 s.cur.2 v] := by
    simp only [State.service, State.strand_modMe, Strand.held_outst, noTrap, phase, State.releaseThen, released, State.onRelease]
    rw [State.core_modMe]
    exact congrArg (State.post · _) (s.setPhase_held _ _)
  obtain ⟨ends, waits, agenda⟩ := State.slot_waits (State.Beside.refl s) (o := o) (fun _ => nofun) [.broadcastAccept r s.cur.1 s.cur.2 v]
  rw [State.firstSlot, service, ends]
  exact ⟨waits, agenda⟩

/-- A receive looks at its buffer in the slot of its issue. -/
theorem State.service_bcastRecv (d : Reg) :
    ∃ w, (s.modMe fun t => t.held (s.issued la (.bcastRecv r d none none))).service s.cur.1 s.cur.2 =
      (s.modMe fun t => t.held { s.issued la (.bcastRecv r d none none) with cleaning := some w }).receive s.cur.1 s.cur.2 r d
        (s.core s.cur.1).ticks none := by
  obtain ⟨w, released⟩ := State.release_settled settled (o := s.issued la (.bcastRecv r d none none)) rfl
  refine ⟨w, ?_⟩
  have noTrap : (s.issued la (.bcastRecv r d none none)).err.isSome = false := rfl
  have phase : (s.issued la (.bcastRecv r d none none)).phase = .bcastRecv r d none none := rfl
  simp only [State.service, State.strand_modMe, Strand.held_outst, noTrap, phase, State.releaseThen, released, State.onRelease]
  rw [State.core_modMe]
  rfl

theorem State.bcastRecv_waits (d : Reg) (empty : lookupD [] r.idx (s.core s.cur.1).bcast = []) :
    let t := s.firstSlot la (.bcastRecv r d none none)
    s.WaitsIn t (.bcastRecv r d (some (s.core s.cur.1).ticks) none) ∧ t.agenda = s.agenda := by
  obtain ⟨w, looks⟩ := State.service_bcastRecv settled la r d
  let o : Outst := { s.issued la (.bcastRecv r d none none) with
    cleaning := some w, phase := .bcastRecv r d (some (s.core s.cur.1).ticks) none }
  have service : (s.modMe fun t => t.held (s.issued la (.bcastRecv r d none none))).service s.cur.1 s.cur.2 =
      (s.modMe fun t => t.held o).posts [] := by
    rw [looks, State.receive, State.core_modMe, Core.setStrand_bcast, empty, State.posts_nil]
    exact s.setPhase_held _ _
  obtain ⟨ends, waits, agenda⟩ := State.slot_waits (State.Beside.refl s) (o := o) (fun _ => nofun) []
  rw [State.firstSlot, service, ends]
  exact ⟨waits, agenda.trans (List.append_nil _)⟩

omit settled in
theorem State.post_modMe (f : Strand → Strand) (e : Event) : (s.modMe f).post e = (s.post e).modMe f := rfl

/-- A core without the first of the values that have come. -/
def Core.popBcast (k : Core) (idx : Nat) (rest : List (Nat × Word)) : Core := { k with bcast := assign idx rest k.bcast }

omit settled in
theorem State.acquire_partition (s : State) (c : Nat) : s.acquire c .partition = s.modCore c Core.acquire :=
  State.acquire_near (sc := .partition) nofun s c

/-- A value that has come is popped, its credit returns, and the strand acquires. -/
def State.received (s : State) (r : GroupRef) (seq : Nat) (rest : List (Nat × Word)) : State :=
  ((s.modCore s.cur.1 (·.popBcast r.idx rest)).post (.broadcastCreditReturn r s.cur.1 seq s.cur.1)).acquire s.cur.1 .partition

omit settled in
theorem State.received_eq (seq : Nat) (rest : List (Nat × Word)) : s.received r seq rest =
    (s.modCore s.cur.1 fun k => (k.popBcast r.idx rest).acquire).post
      (.broadcastCreditReturn r s.cur.1 seq s.cur.1) := by
  rw [State.received, State.acquire_partition]
  exact congrArg (State.post · _) (s.modCore_modCore s.cur.1 _ Core.acquire)

omit settled in
theorem State.beside_received (seq : Nat) (rest : List (Nat × Word)) : s.Beside (s.received r seq rest) := by
  rw [State.received_eq]
  obtain ⟨cur, mem, strands, copies⟩ :=
    State.beside_modCore (s := s) (f := fun k => (k.popBcast r.idx rest).acquire) rfl rfl
  exact ⟨cur, mem, strands, copies⟩

omit settled in
theorem State.receive_pops {c n : Nat} {d : Reg} {seq : Nat} {x : Word} {rest : List (Nat × Word)}
    (come : lookupD [] r.idx (s.core c).bcast = (seq, x) :: rest) (room : s.fullPort c n d = false) (first : Nat) (push : Option Nat) :
    s.receive c n r d first push =
      (((s.modCore c (·.popBcast r.idx rest)).post (.broadcastCreditReturn r c seq c)).acquire c .partition).resultTo c n d x := by
  rw [State.receive, come]
  exact if_neg (by simp [room])

theorem State.bcastRecv_receives (free : s.Free) (d : Reg) {seq : Nat} {x : Word} {rest : List (Nat × Word)}
    (come : lookupD [] r.idx (s.core s.cur.1).bcast = (seq, x) :: rest) :
    s.firstSlot la (.bcastRecv r d none none) =
      (s.received r seq rest).wrote d x := by
  obtain ⟨w, looks⟩ := State.service_bcastRecv settled la r d
  let o : Outst := { s.issued la (.bcastRecv r d none none) with cleaning := some w }
  let y := s.received r seq rest
  have beside : s.Beside y := State.beside_received r seq rest
  have room : (s.modMe fun t => t.held o).fullPort s.cur.1 s.cur.2 d = false := by
    have plain : ((s.modMe fun t => t.held o).strand s.cur.1 s.cur.2).qmap = false := by
      rw [State.strand_modMe]
      exact free.noPorts
    rw [State.fullPort, Strand.port?_none _ _ plain]
  have popped : (((s.modMe fun t => t.held o).modCore s.cur.1 (·.popBcast r.idx rest)).post
      (.broadcastCreditReturn r s.cur.1 seq s.cur.1)).acquire s.cur.1 .partition = y.modMe fun t => t.held o := by
    rw [State.modCore_modMe (g := (·.popBcast r.idx rest)) (fun _ _ _ => rfl) (fun _ => rfl), State.post_modMe]
    exact State.acquire_modMe (sc := .partition) nofun
      ((s.modCore s.cur.1 (·.popBcast r.idx rest)).post (.broadcastCreditReturn r s.cur.1 seq s.cur.1)) fun t => t.held o
  have service : (s.modMe fun t => t.held (s.issued la (.bcastRecv r d none none))).service s.cur.1 s.cur.2 =
      (y.modMe fun t => t.held o).resultTo s.cur.1 s.cur.2 d x := by
    have come_ : lookupD [] r.idx ((s.modMe fun t => t.held o).core s.cur.1).bcast = (seq, x) :: rest := by
      rw [State.core_modMe]
      exact come
    rw [looks, State.receive_pops r come_ room, popped]
  rw [State.firstSlot, service, ← beside.cur]
  exact State.resultTo_held (free.beside beside) (by rw [beside.me]; exact settled.idle) (by rw [beside.me]; rfl) rfl d x

end

/-- A write of a general register changes its core in its strand alone. -/
theorem State.core_wrote (s : State) (d : Reg) (x : Word) : ∃ t, (s.wrote d x).core s.cur.1 = (s.core s.cur.1).setStrand s.cur.2 t := by
  rw [State.wrote, State.retire, State.modMe_modMe]
  exact ⟨_, s.core_modMe _⟩

theorem State.me_wrote (s : State) (d : Reg) (x : Word) :
    (s.wrote d x).me = (s.me.setGreg d x).complete (s.me.setGreg d x).pc (s.me.setGreg d x).skip .on := by
  rw [State.wrote, State.me_retire, State.me_modMe]

/-- What a received broadcast leaves. -/
theorem State.wrote_received (s : State) (r : GroupRef) (seq : Nat) (rest : List (Nat × Word)) (d : Reg) (x : Word) :
    let t := (s.received r seq rest).wrote d x
    t.me = (s.wrote d x).me ∧ lookupD [] r.idx (t.core s.cur.1).bcast = rest ∧
      t.agenda = s.agenda ++ [.broadcastCreditReturn r s.cur.1 seq s.cur.1] ∧ (t.core s.cur.1).icache = [] ∧ t.mem = s.mem := by
  have beside := State.beside_received (s := s) r seq rest
  have received := State.received_eq (s := s) r seq rest
  have core : (s.received r seq rest).core s.cur.1 = ((s.core s.cur.1).popBcast r.idx rest).acquire := by
    rw [received]
    exact s.core_modCore s.cur.1 fun k => (k.popBcast r.idx rest).acquire
  have agenda : (s.received r seq rest).agenda = s.agenda ++ [.broadcastCreditReturn r s.cur.1 seq s.cur.1] := by rw [received]; rfl
  obtain ⟨t, wrote⟩ := (s.received r seq rest).core_wrote d x
  rw [beside.cur, core] at wrote
  dsimp only
  refine ⟨?_, ?_, agenda, ?_, beside.mem⟩
  · rw [State.me_wrote, State.me_wrote, beside.me]
  · rw [wrote]
    exact lookupD_assign_self ..
  · rw [wrote]
    rfl

/-! ### The statement -/

section
variable {s : State} (free : s.Free) {g : Group} (a b d : Reg) (la : La) (member : s.groupOf s.cur.1 ((s.me.greg a).toNat % 256) = some g)
include free member

theorem exec_bar_member : exec (.bar a la) s = .next (s.firstSlot la (.barrier g.ref false)) :=
  State.grouped_member free la [a] [] (fun g => .barrier g false) member

theorem exec_bcastSend_member : exec (.bcastSend a b la) s = .next (s.firstSlot la (.bcastSend g.ref (s.me.greg b) false none)) := by
  rw [← State.read_free free b]
  exact State.grouped_member free la [a, b] [] (fun g => .bcastSend g (s.read b) false none) member

theorem exec_bcastRecv_member : exec (.bcastRecv d a la) s = .next (s.firstSlot la (.bcastRecv g.ref d none none)) :=
  State.grouped_member free la [a] [d] (fun g => .bcastRecv g d none none) member

/-- The reductions differ in their operation alone (R183). -/
theorem exec_red_member {e : Instr × RedOp} (he : e ∈ ([(.redAdd d a b la, .add), (.redMinI64 d a b la, .minI), (.redMinW64 d a b la, .minW),
    (.redMaxI64 d a b la, .maxI), (.redMaxW64 d a b la, .maxW)] : List (Instr × RedOp))) :
    exec e.1 s = .next (s.firstSlot la (.reduce g.ref d e.2 (s.me.greg b) false)) := by
  have runs (op : RedOp) := State.grouped_member free la [a, b] [d] (fun g => .reduce g d op (s.read b) false) member
  rw [← State.read_free free b]
  simp only [List.mem_cons, List.not_mem_nil, or_false] at he
  rcases he with rfl | rfl | rfl | rfl | rfl
  exacts [runs .add, runs .minI, runs .minW, runs .maxI, runs .maxW]

end

/-- Settles O36, operation by operation. -/
theorem groups : Obligations.Groups := by
  unfold Obligations.Groups
  intro s free d a b la i v c n
  refine ⟨fun settled g member => ?_, fun tin stranger j hj => ?_⟩
  · intro r now joins
    have bar := exec_bar_member free a la member
    have send := exec_bcastSend_member free a b la member
    have recv := exec_bcastRecv_member free a d la member
    refine ⟨fun first => ⟨_, bar, (arrives_barrier s r).first la settled first⟩,
      fun ⟨x, made, other⟩ => ⟨_, bar, (arrives_barrier s r).joins la made other⟩,
      ⟨_, send, State.bcastSend_waits settled la r v⟩, fun empty => ⟨_, recv, State.bcastRecv_waits settled la r d empty⟩,
      fun seq x rest come => ?_, fun e he => ⟨fun first => ?_, fun ⟨x, made, other⟩ => ?_⟩⟩
    · rw [State.bcastRecv_receives settled la r free d come] at recv
      exact ⟨_, recv, s.wrote_received r seq rest d x⟩
    · exact ⟨_, exec_red_member free a b d la member he, (arrives_reduce s r d e.2 v).first la settled first⟩
    · exact ⟨_, exec_red_member free a b d la member he, (arrives_reduce s r d e.2 v).joins la made other⟩
  · have trap (srcs writes : List Reg) (p : GroupRef → Phase) := State.grouped_stranger free la srcs writes p tin stranger
    have red (op : RedOp) := trap [a, b] [d] fun g => .reduce g d op (s.read b) false
    simp only [List.mem_cons, List.not_mem_nil, or_false] at hj
    rcases hj with rfl | rfl | rfl | rfl | rfl | rfl | rfl | rfl
    exacts [trap [a] [] fun g => .barrier g false, trap [a, b] [] fun g => .bcastSend g (s.read b) false none,
      trap [a] [d] fun g => .bcastRecv g d none none, red .add, red .minI, red .minW, red .maxI, red .maxW]

end Sys2Proof.Machine
end

section
/-! PROOFS. The statement of `05_execution_model.md` about thefts and levelling of frames (R107 to R110, R264). -/

namespace Sys2Proof.Machine

/-! ### The deque (R107, R108) -/

theorem State.modDeque_modDeque (s : State) (c : Nat) (f g : Deque → Deque) :
    (s.modDeque c f).modDeque c g = s.modDeque c fun q => g (f q) := by
  rw [State.modDeque, State.modCore, State.core_modDeque]
  exact State.setCore_setCore _ _ _ _

/-- A digit above n bits. -/
theorem add_mul_two_pow_lt {a x n m : Nat} (low : a < 2 ^ n) (high : x < 2 ^ m) : a + x * 2 ^ n < 2 ^ (n + m) :=
  calc a + x * 2 ^ n < 2 ^ n + x * 2 ^ n := Nat.add_lt_add_right low _
    _ = (x + 1) * 2 ^ n := by rw [Nat.add_mul, Nat.one_mul, Nat.add_comm]
    _ ≤ 2 ^ m * 2 ^ n := Nat.mul_le_mul_right _ high
    _ = 2 ^ (n + m) := by rw [Nat.pow_add, Nat.mul_comm]

/-- Words one above the other. -/
theorem words_lt (e : Word) (w : Nat → Word) {n k : Nat} (bits : k = 64 * (n + 1)) :
    e.toNat + (List.range n).foldl (fun a i => a + (w i).toNat * 2 ^ (64 * (i + 1))) 0 < 2 ^ k := by
  subst bits
  induction n with
  | zero => exact e.isLt
  | succ n ih =>
    rw [List.range_succ, List.foldl_append, List.foldl_cons, List.foldl_nil, ← Nat.add_assoc]
    exact add_mul_two_pow_lt ih (w n).isLt

/-- The image of a frame takes 64 bytes (R18). -/
theorem frameImage_lt (f : Frame) : frameImage f < 256 ^ 64 :=
  calc frameImage f < 2 ^ (448 + (16 + 16 + 16 + 16)) :=
        add_mul_two_pow_lt (words_lt f.entry (f.args.toList.getD · 0) (n := 6) rfl) (add_mul_two_pow_lt (add_mul_two_pow_lt
          (add_mul_two_pow_lt f.fmta.isLt f.fmtb.isLt) f.scla.isLt) f.sclb.isLt)
    _ = 2 ^ (8 * 64) := congrArg (2 ^ ·) rfl
    _ = 256 ^ 64 := by rw [Nat.pow_mul]

section
variable {s : State} {c : Nat}

theorem State.popFar_empty (near : (s.core c).deque.hw = []) (far : (s.core c).deque.overN = 0) : s.popFar c = none := by
  simp [State.popFar, near, far]

theorem State.popFar_near {f : Frame} (far : (s.core c).deque.overN = 0) (last : (s.core c).deque.hw.getLast? = some f) :
    s.popFar c = some (f, s.modDeque c fun q => { q with hw := q.hw.dropLast }) := by
  simp [State.popFar, far, last]

theorem State.popFar_over (far : 0 < (s.core c).deque.overN) : s.popFar c =
    some (frameOfImage (s.load (padKey c ((s.core c).deque.base + 64 * ((s.core c).deque.first % (s.core c).deque.slots))) 64),
      s.modDeque c fun q => { q with first := (q.first + 1) % q.slots, overN := q.overN - 1 }) := if_pos far

/-! ### Thefts (R108, R109) -/

section
variable (awake : s.Awake c) (a n : Nat)
include awake

theorem exec_theftRequest_empty (h : (s.core c).retired = true ∨ (s.core c).deque.taken = false ∨ s.popFar c = none) :
    exec (.theftRequest c a n) s = .next (s.post (.theftReply a n none)) := by
  change execTheftRequest c a n s = _
  rw [execTheftRequest, State.arrive_awake awake]
  split
  · rfl
  · rename_i inPlay
    obtain ⟨there, taken⟩ : (s.core c).retired = false ∧ (s.core c).deque.taken = true := by simpa [State.isRetired] using inPlay
    have none_ : s.popFar c = none := by simpa [there, taken] using h
    rw [none_]

theorem exec_theftRequest_takes (there : (s.core c).retired = false) (taken : (s.core c).deque.taken = true) {f : Frame} {u : State}
    (popped : s.popFar c = some (f, u)) : exec (.theftRequest c a n) s = .next (u.post (.theftReply a n (some f))) := by
  change execTheftRequest c a n s = _
  rw [execTheftRequest, State.arrive_awake awake, if_neg (by simp [State.isRetired, there, taken]), popped]

end

section
variable (on : (s.core c).switchedOut = false) {n : Nat} {d : Reg} {asked : List Nat} {m : Nat}
  (waits : (s.strand c n).phase? = some (.take d asked m none))
include on waits

theorem exec_theftReply_frame (f : Frame) : exec (.theftReply c n (some f)) s =
    .next (s.setPhase c n (.take d asked m (some (some f, (s.core c).ticks)))) := by
  change execTheftReply c n (some f) s = _
  simp only [execTheftReply, State.arrive_answer on, waits]

theorem exec_theftReply_empty : exec (.theftReply c n none) s = .next (s.askVictim c n d asked (m + 1)) := by
  change execTheftReply c n none s = _
  simp only [execTheftReply, State.arrive_answer on, waits]

end

theorem State.phase_setPhase_of {n : Nat} {p : Phase} (h : (s.strand c n).phase? = some p) (q : Phase) :
    ((s.setPhase c n q).strand c n).phase? = some q := by
  obtain ⟨o, outst, -⟩ := Option.map_eq_some_iff.mp h
  exact State.phase_setPhase outst q

/-- A `take` that has had fewer than 8 empty replies asks its next victim (R109). -/
theorem State.askVictim_asks {n : Nat} {p : Phase} (waits : (s.strand c n).phase? = some p) {d : Reg} {asked : List Nat} {m : Nat}
    (few : m < 8) {v q : Nat} (victim : s.victim c asked = (some v, q)) :
    let t := s.askVictim c n d asked m
    t.mem = s.mem ∧ (t.strand c n).phase? = some (.take d (asked ++ [v]) m none) ∧ (t.core c).deque.steal = q ∧
      t.agenda = s.agenda ++ [.theftRequest v c n] := by
  let u := s.modDeque c fun x => { x with steal := q }
  have asks : s.askVictim c n d asked m = (u.setPhase c n (.take d (asked ++ [v]) m none)).post (.theftRequest v c n) := by
    rw [State.askVictim, if_neg (Nat.not_le.mpr few), victim]
  have same : (u.strand c n).phase? = some p := (congrArg Strand.phase? (State.strand_modCore_keeps rfl c n)).trans waits
  dsimp only
  rw [asks]
  refine ⟨rfl, State.phase_setPhase_of same _, ?_, rfl⟩
  change (((u.setPhase c n _).core c).deque).steal = q
  rw [State.setPhase, State.core_modStrand, Core.setStrand_deque, State.core_modDeque]

/-! ### Frames on their way (R110) -/

theorem exec_levelledFrameArrival_none (awake : s.Awake c) (a unused : Nat) : exec (.levelledFrameArrival c a none unused) s =
    .next (s.modDeque c fun q => { q with reserved := q.reserved - unused }) := by
  change execLevelledFrameArrival c a none unused s = _
  rw [execLevelledFrameArrival, State.arrive_awake awake]
  rfl

theorem exec_levelledFrameArrival_some (awake : s.Awake c) (a unused : Nat) (f : Frame) :
    exec (.levelledFrameArrival c a (some f) unused) s =
      .next (((s.modDeque c fun q => { q with reserved := q.reserved - unused - 1 }).appendFar c f).modDeque a
        fun q => { q with leaving := q.leaving - 1 }) := by
  change execLevelledFrameArrival c a (some f) unused s = _
  rw [execLevelledFrameArrival, State.arrive_awake awake]
  rfl

theorem State.appendFar_near (far : (s.core c).deque.overN = 0) (room : (s.core c).deque.hw.length < 32) (f : Frame) :
    s.appendFar c f = s.modDeque c fun q => { q with hw := q.hw ++ [f] } := if_pos (by simp [far, room])

/-- A frame that comes to the overflow region is stored before its first (R107). -/
theorem State.appendFar_over (full : (s.core c).deque.overN ≠ 0 ∨ 32 ≤ (s.core c).deque.hw.length)
    (room : (s.core c).deque.overN < (s.core c).deque.slots) (f : Frame) :
    let q := (s.core c).deque
    let first := (q.first + q.slots - 1) % q.slots
    s.appendFar c f = (s.modDeque c fun q => { q with first := (q.first + q.slots - 1) % q.slots, overN := q.overN + 1 }).store
      (padKey c (q.base + 64 * (first % q.slots))) 64 (frameImage f) := by
  have notNear : ¬ (decide ((s.core c).deque.overN = 0) && decide ((s.core c).deque.hw.length < 32)) = true := by
    simpa [imp_iff_not_or] using full
  rw [State.appendFar]
  dsimp only
  rw [if_neg notNear, if_pos room, Core.dequeKey, State.core_modDeque]
  rfl

/-! ### Frames sent (R108, R110) -/

/-- Frames removed from the far end of a deque without an overflow part. -/
theorem State.takeFar_near (g : Nat) (s : State) (far : (s.core c).deque.overN = 0) :
    ∃ u, State.takeFar c g s = ((s.core c).deque.hw.reverse.take g, u) ∧ u.mem = s.mem ∧ u.agenda = s.agenda ∧
      (u.core c).deque = { (s.core c).deque with hw := (s.core c).deque.hw.take ((s.core c).deque.hw.length - g) } := by
  induction g generalizing s with
  | zero => exact ⟨s, rfl, rfl, rfl, by simp⟩
  | succ g ih =>
    rcases List.eq_nil_or_concat (s.core c).deque.hw with empty | ⟨rest, f, hw⟩
    · refine ⟨s, ?_, rfl, rfl, ?_⟩
      · rw [State.takeFar, State.popFar_empty empty far, empty]
        rfl
      · rw [empty, List.take_nil, ← empty]
    · rw [List.concat_eq_append] at hw
      let v := s.modDeque c fun q => { q with hw := q.hw.dropLast }
      have popped : s.popFar c = some (f, v) := State.popFar_near far (by simp [hw])
      have vq : (v.core c).deque = { (s.core c).deque with hw := rest } := by
        rw [State.core_modDeque]
        simp [hw]
      obtain ⟨u, run, mem, agenda, deque⟩ := ih v (by rw [vq]; exact far)
      rw [vq] at run deque
      refine ⟨u, ?_, mem, agenda, ?_⟩
      · simp only [State.takeFar, popped, run]
        simp [hw]
      · rw [deque, hw]
        simp [List.take_append]

theorem State.sendFrames_cons_cons (to_ g : Nat) (f f' : Frame) (r : List Frame) (s : State) :
    State.sendFrames c to_ (g + 1) (f :: f' :: r) s =
      State.sendFrames c to_ g (f' :: r) (s.post (.levelledFrameArrival to_ c (some f) 0)) := rfl

/-- Frames sent one by one, the last message with the places not used. -/
theorem State.sendFrames_eq (to_ : Nat) (fs : List Frame) (g : Nat) (some_ : 0 < g) (fit : fs.length ≤ g) (s : State) :
    State.sendFrames c to_ g fs s = s.posts ((fs.dropLast.map fun f => Event.levelledFrameArrival to_ c (some f) 0) ++
      [.levelledFrameArrival to_ c fs.getLast? (g - fs.length)]) := by
  induction fs generalizing g s with
  | nil =>
    obtain ⟨g, rfl⟩ := Nat.exists_eq_succ_of_ne_zero some_.ne'
    rfl
  | cons f r ih =>
    obtain ⟨g, rfl⟩ := Nat.exists_eq_succ_of_ne_zero some_.ne'
    cases r with
    | nil => rfl
    | cons f' r =>
      simp only [List.length_cons] at fit
      rw [State.sendFrames_cons_cons, ih g (by omega) (by simp only [List.length_cons]; omega)]
      simp [State.posts, State.post]

/-! ### Levelling intervals (R110, R264) -/

theorem exec_levellingGrantRequest_awake (awake : s.Awake c) (a cnt : Nat) : exec (.levellingGrantRequest c a cnt) s =
    let g := if (s.core c).retired || !(s.core c).deque.taken then 0 else min cnt (s.core c).deque.room
    .next ((s.modDeque c fun q => { q with reserved := q.reserved + g }).post (.levellingGrant a c g)) := by
  change execLevellingGrantRequest c a cnt s = _
  rw [execLevellingGrantRequest, State.arrive_awake awake]
  rfl

theorem exec_levellingInterval_due (run : (s.core c).run.isSome = true) (there : (s.core c).retired = false)
    (awake : (s.core c).stopped = false) (balance : (s.core c).balance ≠ 0) (taken : (s.core c).deque.taken = true)
    (due : (s.core c).levelAt ≤ (s.core c).ticks) {u : State}
    (hu : u = s.modCore c fun k => { k with levelAt := k.ticks + 2 ^ min 24 (max 8 k.balance.toNat) }) :
    exec (.levellingInterval c) s = match u.shallowest (u.neighbours c) with
      | none => .next u
      | some m => .next (if (u.core m).deque.depth + 2 ≤ (u.core c).deque.depth then
          u.post (.levellingGrantRequest m c (((u.core c).deque.depth - (u.core m).deque.depth) / 2)) else u) := by
  subst hu
  have goes : ¬ ((s.core c).run.isNone || (s.core c).retired || (s.core c).stopped || decide ((s.core c).balance = 0) ||
      !(s.core c).deque.taken || decide ((s.core c).ticks < (s.core c).levelAt)) = true := by
    simpa [there, awake, taken, Option.isSome_iff_ne_none.mp run, due] using balance
  change execLevellingInterval c s = _
  rw [execLevellingInterval]
  exact if_neg goes

theorem State.deque_modCore {f : Core → Core} (keeps : ∀ k, (f k).deque = k.deque) (m : Nat) :
    ((s.modCore c f).core m).deque = (s.core m).deque := by
  by_cases same : m = c
  · rw [same, State.core_modCore, keeps]
  · rw [State.core_modCore_other _ _ _ _ same]

end

/-! ### The statement -/

/-- A frame that comes to the overflow region: stored, and the region's first. -/
theorem exec_levelledFrameArrival_over (awake : s.Awake c) (wf : Memory.wf s.mem = true) (a unused : Nat) (f : Frame)
    (full : (s.core c).deque.overN ≠ 0 ∨ 32 ≤ (s.core c).deque.hw.length) (room : (s.core c).deque.overN < (s.core c).deque.slots) :
    let q := (s.core c).deque
    let front := (q.first + q.slots - 1) % q.slots
    ∃ t, exec (.levelledFrameArrival c a (some f) unused) s = .next t ∧
      s.Stored t (padKey c (q.base + 64 * (front % q.slots))) 64 (frameImage f) ∧
      ((t.core c).deque.first, (t.core c).deque.overN, (t.core c).deque.hw) = (front, q.overN + 1, q.hw) := by
  intro q front
  let u := s.modDeque c fun q => { q with reserved := q.reserved - unused - 1 }
  have uq : (u.core c).deque = { q with reserved := q.reserved - unused - 1 } := by rw [State.core_modDeque]
  have appends := State.appendFar_over (s := u) (c := c) (by rw [uq]; exact full) (by rw [uq]; exact room) f
  rw [uq] at appends
  let v := u.modDeque c fun q => { q with first := (q.first + q.slots - 1) % q.slots, overN := q.overN + 1 }
  let key := padKey c (q.base + 64 * (front % q.slots))
  have stored : s.Stored (v.store key 64 (frameImage f)) key 64 (frameImage f) := by
    refine ⟨?_, fun j hj => v.byte_store_other _ _ _ _ hj wf⟩
    rw [State.load_store v key 64 _ wf, Nat.mod_eq_of_lt (frameImage_lt f)]
  have deque : ((v.store key 64 (frameImage f)).core c).deque =
      { q with reserved := q.reserved - unused - 1, first := front, overN := q.overN + 1 } := by
    obtain ⟨m, mem⟩ := v.store_frame key 64 (frameImage f)
    rw [mem]
    change (v.core c).deque = _
    rw [State.core_modDeque, uq]
  have run : exec (.levelledFrameArrival c a (some f) unused) s =
      .next ((v.store key 64 (frameImage f)).modDeque a fun q => { q with leaving := q.leaving - 1 }) := by
    rw [exec_levelledFrameArrival_some awake, appends]
  generalize v.store key 64 (frameImage f) = w at run stored deque
  refine ⟨_, run, State.stored_of_mem stored rfl, ?_⟩
  by_cases same : c = a
  · rw [← same, State.core_modDeque, deque]
  · rw [State.modDeque, State.core_modCore_other _ _ _ _ same, deque]

/-- A grant is answered with frames from the far end. -/
theorem exec_levellingGrant_sends (on : (s.core c).switchedOut = false) (a : Nat) {cnt : Nat} (granted : 0 < cnt)
    (far : (s.core c).deque.overN = 0) :
    let q := (s.core c).deque
    let fs := q.hw.reverse.take cnt
    ∃ t, exec (.levellingGrant c a cnt) s = .next t ∧ t.mem = s.mem ∧
      (t.core c).deque = { q with hw := q.hw.take (q.hw.length - cnt), leaving := q.leaving + fs.length } ∧
      t.agenda = s.agenda ++ (fs.dropLast.map fun f => .levelledFrameArrival a c (some f) 0) ++
        [.levelledFrameArrival a c fs.getLast? (cnt - fs.length)] := by
  intro q fs
  obtain ⟨u, taken, mem, agenda, deque⟩ := State.takeFar_near cnt s far
  have run : exec (.levellingGrant c a cnt) s = .next (State.sendFrames c a cnt fs
      (u.modDeque c fun q => { q with leaving := q.leaving + fs.length })) := by
    change execLevellingGrant c a cnt s = _
    rw [execLevellingGrant, State.arrive_answer on, taken]
  rw [State.sendFrames_eq a fs cnt granted (List.length_take_le _ _)] at run
  refine ⟨_, run, mem, ?_, ?_⟩
  · rw [State.core_posts, State.core_modDeque, deque]
  · exact (congrArg (· ++ _) agenda).trans (List.append_assoc ..).symm

/-- Settles O52, message by message. -/
theorem stealingAndLevelling : Obligations.StealingAndLevelling := by
  unfold Obligations.StealingAndLevelling
  intro s c a n cnt k q g stolen
  refine ⟨fun awake => ⟨fun none_ => ?_, fun there taken => ⟨fun f far last => ?_, fun far => ?_⟩,
    exec_levellingGrantRequest_awake awake a cnt, exec_levelledFrameArrival_none awake a, fun f unused => ⟨fun far room => ?_,
      fun wf full room => ?_⟩⟩, fun on => ⟨fun d asked m waits =>
      ⟨exec_theftReply_frame on waits, fun many => ?_, fun v p few victim => ?_⟩, fun granted far => ?_⟩, fun run there awake balance taken due => ?_⟩
  · exact exec_theftRequest_empty awake a n (none_.imp_right (Or.imp_right fun h => State.popFar_empty h.1 h.2))
  · exact exec_theftRequest_takes awake a n there taken (State.popFar_near far last)
  · exact exec_theftRequest_takes awake a n there taken (State.popFar_over far)
  · have near := State.appendFar_near (s := s.modDeque c fun q => { q with reserved := q.reserved - unused - 1 }) (c := c)
      (by rw [State.core_modDeque]; exact far) (by rw [State.core_modDeque]; exact room) f
    rw [exec_levelledFrameArrival_some awake, near, State.modDeque_modDeque]
  · exact exec_levelledFrameArrival_over awake wf a unused f full room
  · rw [exec_theftReply_empty on waits, State.askVictim, if_pos (by omega)]
  · obtain ⟨mem, phase, steal, agenda⟩ := State.askVictim_asks waits (d := d) (by omega : m + 1 < 8) victim
    exact ⟨_, exec_theftReply_empty on waits, mem, phase, steal, agenda⟩
  · exact exec_levellingGrant_sends on a granted far
  · intro u
    have depth (m : Nat) : (u.core m).deque = (s.core m).deque := State.deque_modCore
      (f := fun k => { k with levelAt := k.ticks + 2 ^ min 24 (max 8 k.balance.toNat) }) (fun _ => rfl) m
    have interval := exec_levellingInterval_due run there awake balance taken due (u := u) rfl
    refine ⟨fun m neighbour => ?_, fun none_ => ?_⟩
    · rw [neighbour] at interval
      simp only [depth] at interval
      exact ⟨fun shallower => interval.trans (by rw [if_pos shallower]),
        fun near => interval.trans (by rw [if_neg (Nat.not_le.mpr near)])⟩
    · rw [interval, none_]

end Sys2Proof.Machine
end

section
/-! PROOFS. The statement of `05_execution_model.md` about `rett`, `wfi` and `halt` (R98, R288 to R290): what `halt` drops with the strand's
tiles, and what a core that leaves its groups spares. -/

namespace Sys2Proof.Machine

/-! ### `rett` (R288) -/

section
variable (t : Strand)

/-- The stored mode, or the present one where that is lower. -/
theorem Strand.mode_returned : t.returned.mode = min t.mode (t.tstatus.toNat % 4) := by
  have low (x y : Word) : (((x &&& 0xF198) ||| (y &&& 3)) &&& 3).toNat = y.toNat % 4 := by
    have : ((x &&& 0xF198) ||| (y &&& 3)) &&& 3 = y &&& 3 := by
      rw [BitVec.and_or_distrib_right, BitVec.and_assoc, BitVec.and_assoc, BitVec.and_self]
      exact (congrArg (· ||| _) BitVec.and_zero).trans BitVec.zero_or
    rw [this, BitVec.toNat_and]
    exact Nat.and_two_pow_sub_one_eq_mod _ 2
  have stored : (t.tstatus &&& 3).toNat = t.tstatus.toNat % 4 := by
    rw [BitVec.toNat_and]
    exact Nat.and_two_pow_sub_one_eq_mod _ 2
  have present : t.mode = t.status.toNat % 4 := by
    rw [Strand.mode, BitVec.toNat_and]
    exact Nat.and_two_pow_sub_one_eq_mod _ 2
  change (((t.tstatus &&& 0xF198) ||| if (t.tstatus &&& 3).toNat > t.mode then t.status &&& 3 else t.tstatus &&& 3) &&& 3).toNat = _
  rw [stored]
  split
  · rw [low, present]
    omega
  · rw [low]
    omega

/-- A field of STATUS above the mode is the stored one. -/
theorem Strand.status_returned {i : Nat} (field : (0xF198 : Word).getLsbD i = true) (above : 2 ≤ i) :
    t.returned.status.getLsbD i = t.tstatus.getLsbD i := by
  have low (x : Word) : (x &&& 3).getLsbD i = false := by
    have three : (3 : Word).getLsbD i = false :=
      Nat.testBit_lt_two_pow (Nat.lt_of_lt_of_le (by decide) (Nat.pow_le_pow_right (by decide) above : 2 ^ 2 ≤ 2 ^ i))
    rw [BitVec.getLsbD_and, three, Bool.and_false]
  change ((t.tstatus &&& 0xF198) ||| if (t.tstatus &&& 3).toNat > t.mode then t.status &&& 3 else t.tstatus &&& 3).getLsbD i = _
  rw [BitVec.getLsbD_or, BitVec.getLsbD_and, field, Bool.and_true]
  split <;> rw [low, Bool.or_false]

end

/-! ### The tiles that a strand drops (R245, R290) -/

section
variable {β : Type} (g : State → β)
  (locks : ∀ s c p, g (State.modCore s c fun k => { k with locks := k.locks.filter p }) = g s)
  (nodes : ∀ s c i, g (State.modCore s c fun k => k.dropNode i) = g s) (posts : ∀ s es, g (State.posts s es) = g s)
  (cluster : ∀ s k f, g (State.modCluster s k f) = g s)
include locks nodes posts cluster

theorem State.reconsider_keeps (s : State) (c i : Nat) : g (s.reconsider c i) = g s := by
  unfold State.reconsider
  split
  · rfl
  · exact State.leave_keeps g locks nodes posts cluster c 100 i s

theorem State.releaseHandle_keeps (s : State) (c n : Nat) (h : Handle) : g (s.releaseHandle c n h) = g s := by
  cases h with
  | empty => rfl
  | node i => exact State.reconsider_keeps g locks nodes posts cluster s c i
  | value b _ _ _ _ _ => exact State.freeBank_keeps g cluster s c n b

/-- What in addition no strand holds, the drop of a strand's tiles keeps. -/
theorem State.dropTiles_keeps (strand : ∀ s c n f, g (State.modStrand s c n f) = g s) (s : State) (c n : Nat) :
    g (s.dropTiles c n) = g s := by
  unfold State.dropTiles
  refine (foldl_keeps g _ (fun s e => ?_) _ _).trans (foldl_keeps g _ (fun s i => ?_) _ s)
  · exact State.leave_keeps g locks nodes posts cluster c 100 e.1 s
  · exact (State.releaseHandle_keeps g locks nodes posts cluster _ c n _).trans (strand s c n _)

end

/-- A strand whose handles are all EMPTY. -/
def Strand.untiled (t : Strand) : Strand := (List.range 16).foldl (fun t i => t.setHandle (BitVec.ofNat 4 i) .empty) t

theorem Strand.handle_untiled (t : Strand) (m : Tile) : t.untiled.handle m = .empty := by
  refine foldl_establishes (inv := fun _ => True) (P := fun t : Strand => t.handle m = .empty) (x := m.toNat) (fun _ _ _ => trivial)
    (fun t _ => ?_) (fun t i _ was => ?_) (List.mem_range.mpr m.isLt) trivial
  · rw [BitVec.ofNat_toNat, BitVec.setWidth_eq, Strand.handle_setHandle]
  · by_cases same : (BitVec.ofNat 4 i).toNat = m.toNat
    · rw [BitVec.eq_of_toNat_eq same, Strand.handle_setHandle]
    · exact (Vector.getElem_set_ne (BitVec.ofNat 4 i).isLt m.isLt same).trans was

/-- Only the handles differ. -/
theorem Strand.untiled_frame (t : Strand) : ∃ m, t.untiled = { t with m } := by
  unfold Strand.untiled
  generalize List.range 16 = l
  induction l generalizing t with
  | nil => exact ⟨_, rfl⟩
  | cons i l ih =>
    obtain ⟨m, rest⟩ := ih (t.setHandle (BitVec.ofNat 4 i) .empty)
    exact ⟨m, rest⟩

theorem State.strand_dropTiles (s : State) (c n : Nat) : (s.dropTiles c n).strand c n = (s.strand c n).untiled := by
  unfold State.dropTiles
  refine (foldl_keeps (fun s : State => s.strand c n) _ (fun s e => ?_) _ _).trans
    (List.foldl_hom (fun s : State => s.strand c n) (fun s i => (s.strand_putHandle c n _ _).symm)).symm
  exact State.strand_leave c 100 e.1 s c n

theorem State.mem_dropTiles (s : State) (c n : Nat) : (s.dropTiles c n).mem = s.mem :=
  State.dropTiles_keeps State.mem (fun _ _ _ => rfl) (fun _ _ _ => rfl) (fun _ _ => rfl) (fun _ _ _ => rfl) (fun _ _ _ _ => rfl) s c n

theorem State.cur_dropTiles (s : State) (c n : Nat) : (s.dropTiles c n).cur = s.cur :=
  State.dropTiles_keeps State.cur (fun _ _ _ => rfl) (fun _ _ _ => rfl) (fun _ _ => rfl) (fun _ _ _ => rfl) (fun _ _ _ _ => rfl) s c n

theorem State.deque_dropTiles (s : State) (c n : Nat) : ((s.dropTiles c n).core c).deque = (s.core c).deque := by
  refine State.dropTiles_keeps (fun s => (s.core c).deque) (fun s d p => ?_) (fun s d i => ?_) (fun _ _ => rfl) (fun _ _ _ => rfl)
    (fun s d m f => ?_) s c n
  · exact State.deque_modCore (f := fun k => { k with locks := k.locks.filter p }) (fun _ => rfl) c
  · exact State.deque_modCore (f := fun k => k.dropNode i) (fun _ => rfl) c
  · exact State.deque_modCore (f := fun k => k.setStrand m (f (s.strand d m))) (fun _ => rfl) c

/-! ### What a core that leaves its groups spares (R118, R290) -/

/-- Memory, the issuing strand's name and a strand that has nothing outstanding are spared. -/
def State.Spares (c n : Nat) (s t : State) : Prop :=
  (s.strand c n).outst = none → t.mem = s.mem ∧ t.cur = s.cur ∧ t.strand c n = s.strand c n

section
variable {c n : Nat} {s t u : State}

theorem State.Spares.refl (s : State) : State.Spares c n s s := fun _ => ⟨rfl, rfl, rfl⟩

theorem State.Spares.trans (h : State.Spares c n s t) (h' : State.Spares c n t u) : State.Spares c n s u := by
  intro idle
  obtain ⟨mem, cur, strand⟩ := h idle
  obtain ⟨mem', cur', strand'⟩ := h' (by rw [strand]; exact idle)
  exact ⟨mem'.trans mem, cur'.trans cur, strand'.trans strand⟩

theorem State.Spares.foldl {α : Type} {f : State → α → State} (h : ∀ s x, State.Spares c n s (f s x)) (l : List α) (s : State) :
    State.Spares c n s (l.foldl f s) := by
  induction l generalizing s with
  | nil => exact .refl s
  | cons x l ih => exact (h s x).trans (ih _)

theorem State.Spares.modCore (d : Nat) {f : Core → Core} (strands : ∀ k, (f k).strands = k.strands) :
    State.Spares c n s (s.modCore d f) := fun _ => ⟨rfl, rfl, State.strand_modCore_keeps (strands _) c n⟩

theorem State.Spares.posts (es : List Event) : State.Spares c n s (s.posts es) := fun _ => ⟨rfl, rfl, rfl⟩

theorem State.Spares.modGroup (r : GroupRef) (f : Group → Group) : State.Spares c n s (s.modGroup r f) := fun _ => ⟨rfl, rfl, rfl⟩

theorem State.Spares.acquires (d : Nat) : State.Spares c n s (s.acquire d .partition) :=
  .modCore d (f := Core.acquire) fun _ => rfl

/-- A strand with nothing outstanding has nothing that ends. -/
theorem State.Spares.done (d m : Nat) : State.Spares c n s (s.done d m) := by
  intro idle
  refine ⟨rfl, rfl, ?_⟩
  rw [State.done_eq]
  by_cases here : c = d ∧ n % 16 = m % 16
  · obtain ⟨rfl, same⟩ := here
    rw [State.strand_mod _ c same, State.strand_modStrand, ← s.strand_mod c same, Strand.ended, idle]
    exact congrArg (fun o => { s.strand c n with outst := o }) idle.symm
  · exact s.strand_modStrand_other _ _ _ _ _ (Decidable.not_and_iff_not_or_not.mp here)

/-- The result of an outstanding instruction goes to its strand, or to a queue. -/
theorem State.Spares.resultTo {d m : Nat} {p : Phase} (waits : (s.strand d m).phase? = some p) (r : Reg) (v : Word) :
    State.Spares c n s (s.resultTo d m r v) := by
  intro idle
  have other : c ≠ d ∨ n % 16 ≠ m % 16 := by
    by_contra here
    obtain ⟨rfl, same⟩ : c = d ∧ n % 16 = m % 16 := by simpa using here
    rw [← s.strand_mod c same, Strand.phase?, idle] at waits
    cases waits
  unfold State.resultTo
  split
  · exact ⟨rfl, rfl, s.strand_modStrand_other _ _ _ _ _ other⟩
  · refine ((?_ : State.Spares c n s (s.writeG d m r v)).trans (.done d m)) idle
    unfold State.writeG
    split
    · exact .modCore d fun _ => rfl
    · exact fun _ => ⟨rfl, rfl, s.strand_modStrand_other _ _ _ _ _ other⟩

theorem State.Spares.acquiresUnless (d : Nat) (b : Bool) : State.Spares c n s (if b then s else s.acquire d .partition) := by
  split
  · exact .refl s
  · exact .acquires d

theorem State.Spares.releaseCore (r : GroupRef) (d : Nat) : State.Spares c n s (s.releaseCore r d) := by
  unfold State.releaseCore
  split
  · exact .refl s
  · refine .trans (.trans (.trans (.modCore d ?_) (.acquiresUnless d _)) (.foldl (fun s m => .done d m) _ _)) (.posts _)
    exact fun _ => rfl

theorem State.Spares.tryBarrier (r : GroupRef) : State.Spares c n s (s.tryBarrier r) := by
  unfold State.tryBarrier
  split
  · exact .refl s
  · split
    · exact .refl s
    · exact (State.Spares.modGroup r _).trans (.foldl (fun s d => .releaseCore r d) _ _)

theorem State.Spares.tryReduction (r : GroupRef) : State.Spares c n s (s.tryReduction r) := by
  unfold State.tryReduction
  split
  · exact .refl s
  · split
    · split
      · exact .refl s
      · refine (State.Spares.modGroup r _).trans (.foldl (fun s d => ?_) _ _)
        refine .trans (.trans (.modCore d ?_) (.acquiresUnless d _)) (.foldl (fun s m => ?_) _ _)
        · exact fun _ => rfl
        · split
          · exact .resultTo (by assumption) _ _
          · exact .refl s
    · exact .refl s

theorem State.Spares.leaveGroups (d : Nat) : State.Spares c n s (s.leaveGroups d) :=
  .foldl (fun _ r => ((State.Spares.modGroup r _).trans (.tryBarrier r)).trans (.tryReduction r)) _ s

end

/-! ### `halt` (R290) -/

/-- A core whose steward has halted, its tiles dropped, leaves its groups and its run. -/
def State.haltedAlone (s : State) : State :=
  ((((s.retire .on).modMe fun t => { t with life := .dormant }).leaveGroups s.cur.1).modCore s.cur.1 fun k => { k with retired := true }).post
    (.completionRelease s.cur.1)

section
variable {s : State} (free : s.Free) (steward : s.cur.2 % 16 = 0)
include steward

section
include free

theorem exec_halt_alone (alone : ∀ n, n % 16 ≠ 0 → (s.strand s.cur.1 n).life = .dormant) (acks : s.me.acks = 0)
    (empty : (s.core s.cur.1).deque.depth = 0) (reserved : (s.core s.cur.1).deque.reserved = 0)
    (leaving : (s.core s.cur.1).deque.leaving = 0) (noFrame : s.frameComes s.cur.1 = false) :
    exec .halt s = .next (s.dropTiles s.cur.1 0).haltedAlone := by
  have others : ((List.range 16).any fun i => i != 0 && ((s.core s.cur.1).strand i).life != .dormant) = false := by
    rw [List.any_eq_false]
    intro i hi
    by_cases zero : i = 0
    · simp [zero]
    · simp [show ((s.core s.cur.1).strand i).life = .dormant from
        alone i (by rw [Nat.mod_eq_of_lt (List.mem_range.mp hi)]; exact zero)]
  have noCopies : ((s.core s.cur.1).copies.any fun x => x.strand == 0) = false := by
    rw [List.any_eq_false]
    intro x hx
    simpa [steward] using free.noCopies x hx
  have depth : ((s.dropTiles s.cur.1 0).core s.cur.1).deque.depth = 0 := by rw [State.deque_dropTiles, empty]
  have isSteward : ¬ s.cn ≠ 0 := not_not_intro steward
  change execHalt s = _
  rw [execHalt, State.steward, if_neg isSteward, State.haltedAlone, State.cur_dropTiles]
  simp [others, noCopies, acks, reserved, leaving, noFrame, depth]

end

/-- The dropped tiles are the steward's. -/
theorem State.me_dropTiles_steward : (s.dropTiles s.cur.1 0).me = s.me.untiled := by
  have zero : 0 % 16 = s.cur.2 % 16 := steward.symm
  rw [State.me, State.cur_dropTiles, ← State.strand_mod _ s.cur.1 zero, State.strand_dropTiles, State.strand_mod s s.cur.1 zero]
  rfl

end

/-- The steward is DORMANT, its handles and general registers as they were; its core has retired, and reports to the run. -/
theorem State.haltedAlone_spec {s : State} (idle : s.me.outst = none) : s.haltedAlone.me.life = .dormant ∧
    (s.haltedAlone.core s.cur.1).retired = true ∧ (∀ m, s.haltedAlone.me.handle m = s.me.handle m) ∧
    s.haltedAlone.agenda.getLast? = some (.completionRelease s.cur.1) ∧ s.haltedAlone.mem = s.mem ∧
    ∀ r, s.haltedAlone.me.greg r = s.me.greg r := by
  let u := (s.retire .on).modMe fun t => { t with life := .dormant }
  obtain ⟨pc, l0, l1, frame⟩ := s.me.complete_frame s.me.pc s.me.skip .on
  have ume : u.me = { s.me.complete s.me.pc s.me.skip .on with life := .dormant } := by
    rw [State.me_modMe, State.me_retire]
  have uidle : (u.strand s.cur.1 s.cur.2).outst = none := by
    refine (congrArg Strand.outst ume).trans ?_
    rw [frame]
    exact idle
  obtain ⟨mem, cur, strand⟩ := State.Spares.leaveGroups (c := s.cur.1) (n := s.cur.2) (s := u) s.cur.1 uidle
  have me : s.haltedAlone.me = u.me := by
    have hcur : s.haltedAlone.cur = s.cur := cur
    rw [State.me, hcur]
    exact (State.strand_modCore_keeps (f := fun k => { k with retired := true }) rfl s.cur.1 s.cur.2).trans strand
  have retired := congrArg Core.retired ((u.leaveGroups s.cur.1).core_modCore s.cur.1 fun k => { k with retired := true })
  rw [me, ume, frame]
  exact ⟨rfl, retired, fun _ => rfl, List.getLast?_concat, mem, fun _ => rfl⟩

theorem State.frameComes_none {s : State} {c : Nat} (absent : ∀ m f, Event.theftReply c m (some f) ∉ s.agenda) : s.frameComes c = false := by
  rw [State.frameComes, List.any_eq_false]
  intro e he
  split
  · rename_i d m f
    intro same
    exact absent m f (by rw [← beq_iff_eq.mp same]; exact he)
  · nofun

/-! ### The statement -/

/-- Settles O43: `rett` and `wfi` change their strand alone; `halt` drops the steward's tiles and leaves its groups, which spares the steward. -/
theorem returnWaitAndHalt : Obligations.ReturnWaitAndHalt := by
  unfold Obligations.ReturnWaitAndHalt
  intro s c k
  refine ⟨fun mode => ?_, fun mode => ⟨fun pending => ?_, fun none => ?_⟩,
    fun free idle steward alone acks hw overN reserved leaving noFrame => ?_⟩
  · have run : exec .rett s = .next (s.modMe Strand.returned) := if_neg (Nat.not_lt.mpr mode)
    have bits {i : Nat} := s.me.status_returned (i := i)
    refine ⟨_, run, ?_⟩
    rw [State.me_modMe]
    exact ⟨rfl, rfl, s.me.mode_returned, bits (by decide) (by decide), bits (by decide) (by decide), bits (by decide) (by decide),
      bits (by decide) (by decide), rfl, rfl, rfl, rfl, rfl, rfl⟩
  · exact (if_neg (Nat.not_lt.mpr mode)).trans (if_pos pending)
  · exact (if_neg (Nat.not_lt.mpr mode)).trans (if_neg (not_not_intro none))
  · have tiles := s.me_dropTiles_steward steward
    obtain ⟨m, frame⟩ := s.me.untiled_frame
    obtain ⟨life, retired, handles, agenda, mem, regs⟩ := State.haltedAlone_spec (s := s.dropTiles c 0) (by rw [tiles, frame]; exact idle)
    rw [State.cur_dropTiles] at retired agenda
    rw [tiles] at handles regs
    refine ⟨_, exec_halt_alone free steward alone acks (by rw [Deque.depth, hw, overN]; rfl) reserved leaving
      (State.frameComes_none noFrame), life, retired, fun m => (handles m).trans (s.me.handle_untiled m), agenda,
      mem.trans (s.mem_dropTiles c 0), fun r => (regs r).trans ?_⟩
    rw [frame]
    rfl

end Sys2Proof.Machine
end

section
/-! PROOFS. The statements of `06_formats_and_assembly.md` about the encoding (R122 to R131): a word is a constant with values added
in fields of their own, from which they are read back; so the decoder finds the instruction that was encoded. -/

namespace Sys2Proof

/-! ### Words laid out field by field -/

/-- A word made of a constant and of values added to it, each in a field of its own: a position and a width. -/
inductive Laid (c : Nat) : List (Nat × Nat) → List Nat → Nat → Prop
  | const : Laid c [] [] c
  | put {l : List (Nat × Nat)} {vs : List Nat} {w : Nat} (h : Laid c l vs w) (k : Nat) {n v : Nat} (small : v < 2 ^ n) :
    Laid c ((k, n) :: l) (v :: vs) (w + v * 2 ^ k)

theorem Laid.low {c : Nat} {l : List (Nat × Nat)} {vs : List Nat} {w n v : Nat} (h : Laid c l vs w) (small : v < 2 ^ n) :
    Laid c ((0, n) :: l) (v :: vs) (w + v) := by
  simpa using h.put 0 small

/-- What stands in a field of such a word: the value laid there, else what the constant has. -/
def readBack (c lo n : Nat) : List (Nat × Nat) → List Nat → Nat
  | f :: l, v :: vs => if f = (lo, n) then v else readBack c lo n l vs
  | _, _ => c / 2 ^ lo % 2 ^ n

/-- Two fields have no bit in common. -/
abbrev Apart (f g : Nat × Nat) : Prop := f.1 + f.2 ≤ g.1 ∨ g.1 + g.2 ≤ f.1

/-- The constant is clear in each of the fields, which have no bit in common with each other. -/
abbrev Fits (c : Nat) (l : List (Nat × Nat)) : Prop := (∀ f ∈ l, fld c f.1 f.2 = 0) ∧ l.Pairwise Apart

@[simp] theorem readBack_cons (c lo n v : Nat) (f : Nat × Nat) (l : List (Nat × Nat)) (vs : List Nat) :
    readBack c lo n (f :: l) (v :: vs) = if f = (lo, n) then v else readBack c lo n l vs := by
  rw [readBack]

@[simp] theorem readBack_nil (c lo n : Nat) : readBack c lo n [] [] = c / 2 ^ lo % 2 ^ n := by
  rw [readBack]
  nofun

/-- A value added where a word is clear stands there. -/
theorem fld_add_same {x v k n : Nat} (clear : fld x k n = 0) (small : v < 2 ^ n) : fld (x + v * 2 ^ k) k n = v := by
  rw [fld] at clear ⊢
  rw [Nat.add_mul_div_right _ _ (Nat.two_pow_pos k), Nat.add_mod, clear, zero_add, Nat.mod_mod, Nat.mod_eq_of_lt small]

/-- A value added where a word is clear leaves the fields apart from it alone. -/
theorem fld_add_apart {x v k n lo m : Nat} (clear : fld x k n = 0) (small : v < 2 ^ n) (h : Apart (k, n) (lo, m)) :
    fld (x + v * 2 ^ k) lo m = fld x lo m := by
  rw [fld] at clear ⊢
  rw [fld]
  rcases h with below | above
  · obtain ⟨j, rfl⟩ := Nat.exists_eq_add_of_le below
    have split : (x + v * 2 ^ k) / 2 ^ (k + n + j) = x / 2 ^ (k + n + j) := by
      rw [pow_add, pow_add, ← Nat.div_div_eq_div_mul, ← Nat.div_div_eq_div_mul, ← Nat.div_div_eq_div_mul,
        ← Nat.div_div_eq_div_mul, Nat.add_mul_div_right _ _ (Nat.two_pow_pos k)]
      rw [Nat.add_div (Nat.two_pow_pos n), clear, Nat.div_eq_of_lt small, Nat.mod_eq_of_lt small, zero_add,
        if_neg (Nat.not_le.mpr small), add_zero, add_zero]
    rw [split]
  · obtain ⟨j, rfl⟩ := Nat.exists_eq_add_of_le above
    rw [show v * 2 ^ (lo + m + j) = v * 2 ^ j * 2 ^ m * 2 ^ lo by ring, Nat.add_mul_div_right _ _ (Nat.two_pow_pos lo),
      Nat.add_mul_mod_self_right]

section
variable {c : Nat} {l : List (Nat × Nat)} {vs : List Nat} {w : Nat}

/-- The fields apart from all the values read as in the constant. -/
theorem Laid.fld_apart (laid : Laid c l vs w) (fits : Fits c l) {lo n : Nat} (h : ∀ f ∈ l, Apart f (lo, n)) :
    fld w lo n = fld c lo n := by
  induction laid generalizing lo n with
  | const => rfl
  | put _ k small ih =>
    obtain ⟨clear, disjoint⟩ := fits
    obtain ⟨clearHere, clear⟩ := List.forall_mem_cons.mp clear
    obtain ⟨apartHere, disjoint⟩ := List.pairwise_cons.mp disjoint
    obtain ⟨here, h⟩ := List.forall_mem_cons.mp h
    have fits := And.intro clear disjoint
    rw [fld_add_apart ((ih fits fun g hg => (apartHere g hg).symm).trans clearHere) small here, ih fits h]

/-- Each field of the word reads as the value laid there, and the bits of none as the constant has them. -/
theorem Laid.fld_eq (laid : Laid c l vs w) (fits : Fits c l) {lo n : Nat} (h : ∀ f ∈ l, Apart f (lo, n) ∨ f = (lo, n)) :
    fld w lo n = readBack c lo n l vs := by
  induction laid with
  | const => rw [readBack_nil, fld]
  | put laid k small ih =>
    obtain ⟨clear, disjoint⟩ := fits
    obtain ⟨clearHere, clear⟩ := List.forall_mem_cons.mp clear
    obtain ⟨apartHere, disjoint⟩ := List.pairwise_cons.mp disjoint
    obtain ⟨here, h⟩ := List.forall_mem_cons.mp h
    have fits := And.intro clear disjoint
    have clearHere := (laid.fld_apart fits fun g hg => (apartHere g hg).symm).trans clearHere
    rw [readBack_cons]
    split
    · rename_i same
      cases same
      exact fld_add_same clearHere small
    · rename_i other
      rw [fld_add_apart clearHere small (here.resolve_right other), ih fits h]

end

/-- Whether a field of such a word can be read back: it is one of those laid, or apart from them all. -/
def readable (c : Nat) (l : List (Nat × Nat)) (lo n : Nat) : Bool :=
  decide (Fits c l ∧ ∀ f ∈ l, Apart f (lo, n) ∨ f = (lo, n))

/-- The fields of an encoded word. -/
theorem reads {i : Instr} {w c x : Nat} {l : List (Nat × Nat)} {vs : List Nat} (h : encode i = some w) (laid : Laid c l vs x)
    (enc : encode i = some x) (lo n : Nat) (h' : readable c l lo n = true) : fld w lo n = readBack c lo n l vs := by
  obtain ⟨fits, each⟩ := of_decide_eq_true h'
  rw [Option.some.inj (h.symm.trans enc)]
  exact laid.fld_eq fits each

/-! ### The decoder on encoded words -/

/-! The codes of formats, widths and scopes fit their fields, and are read back (R127 to R130). -/

theorem SFmt.code_lt (t : SFmt) : t.code < 2 ^ 2 := by cases t <;> decide
theorem Rm.code_lt (r : Rm) : r.code < 2 ^ 3 := by cases r <;> decide
theorem AWidth.code_lt (w : AWidth) : w.code < 2 ^ 2 := by cases w <;> decide
theorem Scope.code_lt (s : Scope) : s.code < 2 ^ 3 := by cases s <;> decide
theorem LaneTy.code_lt (t : LaneTy) : t.code < 2 ^ 3 := by cases t <;> decide
theorem FLane.code_lt (t : FLane) : t.code < 2 ^ 3 := by cases t <;> decide
theorem DxTy.code_lt (t : DxTy) : t.code < 2 ^ 3 := by cases t <;> decide

@[simp] theorem SFmt.ofCode_code (t : SFmt) : SFmt.ofCode t.code = some t := by cases t <;> rfl
@[simp] theorem Rm.ofCode_code (r : Rm) : Rm.ofCode r.code = some r := by cases r <;> rfl
@[simp] theorem AWidth.ofCode_code (w : AWidth) : AWidth.ofCode w.code = some w := by cases w <;> rfl
@[simp] theorem Scope.ofCode_code (s : Scope) : Scope.ofCode s.code = some s := by cases s <;> rfl
@[simp] theorem LaneTy.ofCode_code (t : LaneTy) : LaneTy.ofCode t.code = some t := by cases t <;> rfl
@[simp] theorem FLane.ofCode_code (t : FLane) : FLane.ofCode t.code = some t := by cases t <;> rfl
@[simp] theorem DxTy.ofCode_code (t : DxTy) : DxTy.ofCode t.code = some t := by cases t <;> rfl

@[simp] theorem accOfCode_toNat (b : Bool) : accOfCode b.toNat = some b := by cases b <;> rfl

@[simp] theorem toNat_beq_one (b : Bool) : (b.toNat == 1) = b := by cases b <;> rfl

/-- A flag fills a field of one bit. -/
theorem flag_lt (b : Bool) : b.toNat < 2 ^ 1 := b.toNat_lt

/-- The mode of `tmma` is given two bits (R130). -/
theorem mode_lt (b : Bool) : b.toNat < 2 ^ 2 := b.toNat_lt.trans (by decide)

/-- Decoding the fields of an instruction's word gives the instruction back. -/
def Decodes (i : Instr) : Prop := ∀ w, encode i = some w → decodeFields w = .ok i

/-- An instruction stands between two places of the opcode table, whose order the constructors have. -/
def Instr.within (lo hi : Nat) (i : Instr) : Bool := Nat.ble lo i.ctorIdx && Nat.ble (i.ctorIdx + 1) hi

theorem Instr.within_iff {lo hi : Nat} {i : Instr} : i.within lo hi = true ↔ lo ≤ i.ctorIdx ∧ i.ctorIdx < hi := by
  rw [Instr.within, Bool.and_eq_true, Nat.ble_eq, Nat.ble_eq, Nat.succ_le_iff]

/-- The instructions that have a word are the first of the table. -/
theorem Instr.ctorIdx_of_encode {i : Instr} {w : Nat} (h : encode i = some w) : i.ctorIdx < 334 := by
  have word : (encode i).isSome = Nat.ble (i.ctorIdx + 1) 334 := by cases i <;> rfl
  rw [h] at word
  exact Nat.le_of_ble_eq_true word.symm

/-- Integer operations on registers (R127). -/
theorem decodes_alu {i : Instr} (h : i.within 0 54 = true) : Decodes i := by
  cases i with
  | add d a b | sub d a b | and d a b | or d a b | xor d a b | andn d a b | orn d a b | xnor d a b | addw d a b | subw d a b
  | lea1 d a b | lea2 d a b | lea3 d a b | lea4 d a b | gname d a b | sll d a b | srl d a b | sra d a b | rol d a b | ror d a b
  | sllw d a b | srlw d a b | sraw d a b | bext d a b | bdep d a b | mul d a b | mulhI64 d a b | mulhW64 d a b | mulI32 d a b
  | divI64 d a b | divW64 d a b | remI64 d a b | remW64 d a b | divI32 d a b | divW32 d a b | remI32 d a b | remW32 d a b
  | seq d a b | sne d a b | sltI64 d a b | sltW64 d a b | sleI64 d a b | sleW64 d a b | minI64 d a b | minW64 d a b
  | maxI64 d a b | maxW64 d a b | czn d a b | czz d a b =>
    intro w h
    simp (disch := decide) [decodeFields, decodeGroup0, decodeOp02, decodeOp03, decodeOp04, decodeOp05, bits,
      reads h (((Laid.const.put 20 d.isLt).put 15 a.isLt).put 10 b.isLt) rfl]
  | clz d a | ctz d a | popc d a | brev d a | bswap d a =>
    intro w h
    simp (disch := decide) [decodeFields, decodeGroup0, decodeOp03, bits,
      reads h ((Laid.const.put 20 d.isLt).put 15 a.isLt) rfl]
  | _ => nomatch h

/-- Scalar floating-point operations (R127). -/
theorem decodes_float {i : Instr} (h : i.within 54 94 = true) : Decodes i := by
  cases i with
  | fadd t rm d a b | fsub t rm d a b | fmul t rm d a b | fdiv t rm d a b | fmac t rm d a b | fmsc t rm d a b =>
    intro w h
    simp (disch := decide) [decodeFields, decodeGroup0, decodeOp06, bits,
      reads h (((((Laid.const.put 8 t.code_lt).put 5 rm.code_lt).put 20 d.isLt).put 15 a.isLt).put 10 b.isLt) rfl]
  | fsqrt t rm d a =>
    intro w h
    simp (disch := decide) [decodeFields, decodeGroup0, decodeOp06, bits,
      reads h ((((Laid.const.put 8 t.code_lt).put 5 rm.code_lt).put 20 d.isLt).put 15 a.isLt) rfl]
  | fmin t d a b | fmax t d a b | fsgnj t d a b | fsgnjn t d a b | fsgnjx t d a b =>
    intro w h
    simp (disch := decide) [decodeFields, decodeGroup0, decodeOp06, bits,
      reads h ((((Laid.const.put 8 t.code_lt).put 20 d.isLt).put 15 a.isLt).put 10 b.isLt) rfl]
  | fcvtF32F64 rm d a | fcvtF16F32 rm d a | fcvtBf16F32 rm d a | fcvtF16F64 rm d a | fcvtF64I64 rm d a | fcvtF64W64 rm d a
  | fcvtF32I64 rm d a | fcvtF32W64 rm d a | fcvtI64F64 rm d a | fcvtW64F64 rm d a | fcvtI64F32 rm d a | fcvtW64F32 rm d a
  | fcvtI32F64 rm d a | fcvtW32F64 rm d a | fcvtI32F32 rm d a | fcvtW32F32 rm d a =>
    intro w h
    simp (disch := decide) [decodeFields, decodeGroup0, decodeOp07, bits,
      reads h (((Laid.const.put 5 rm.code_lt).put 20 d.isLt).put 15 a.isLt) rfl]
  | fcvtF64F32 d a | fcvtF32F16 d a | fcvtF32Bf16 d a | fcvtF64F16 d a | fclassF64 d a | fclassF32 d a =>
    intro w h
    simp (disch := decide) [decodeFields, decodeGroup0, decodeOp07, bits,
      reads h ((Laid.const.put 20 d.isLt).put 15 a.isLt) rfl]
  | feqF64 d a b | fltF64 d a b | fleF64 d a b | feqF32 d a b | fltF32 d a b | fleF32 d a b =>
    intro w h
    simp (disch := decide) [decodeFields, decodeGroup0, decodeOp07, bits,
      reads h (((Laid.const.put 20 d.isLt).put 15 a.isLt).put 10 b.isLt) rfl]
  | _ => nomatch h

/-- Immediate forms, transfers, loops and hints (R127, R132). -/
theorem decodes_immediate {i : Instr} (h : i.within 94 120 = true) : Decodes i := by
  cases i with
  | addi d a imm | andi d a imm | ori d a imm | xori d a imm | sltiI64 d a imm | sltiW64 d a imm | jalr d a imm =>
    intro w h
    simp (disch := decide) [decodeFields, decodeGroup0, decodeGroup1, decodeOp08, decodeOp09, decodeOp0A, decodeOp0B,
      decodeOp0C, decodeOp0E, decodeOp12, bits, reads h (((Laid.const.put 20 d.isLt).put 15 a.isLt).low imm.isLt) rfl]
  | slli d a sh | srli d a sh | srai d a sh | rori d a sh =>
    intro w h
    simp (disch := decide) [decodeFields, decodeGroup0, decodeOp0D, bits,
      reads h (((Laid.const.put 20 d.isLt).put 15 a.isLt).low sh.isLt) rfl]
  | lih d imm | addpc d imm | jal d imm =>
    intro w h
    simp (disch := decide) [decodeFields, decodeGroup0, decodeGroup1, decodeOp0F, decodeOp10, decodeOp11, bits,
      reads h ((Laid.const.put 20 d.isLt).low imm.isLt) rfl]
  | beq a b off | bne a b off | bltI64 a b off | bgeI64 a b off | bltW64 a b off | bgeW64 a b off =>
    intro w h
    simp (disch := decide) [decodeFields, decodeGroup1, decodeOp13, decodeOp14, decodeOp15, decodeOp16, decodeOp17, decodeOp18,
      bits, reads h (((Laid.const.put 20 a.isLt).put 15 b.isLt).low off.isLt) rfl]
  | loop a len =>
    intro w h
    simp (disch := decide) [decodeFields, decodeGroup1, decodeOp19, bits, reads h ((Laid.const.put 15 a.isLt).low len.isLt) rfl]
  | loopi n len =>
    intro w h
    simp (disch := decide) [decodeFields, decodeGroup1, decodeOp1A, bits, reads h ((Laid.const.put 15 n.isLt).low len.isLt) rfl]
  | nop | hlikely | hunlikely =>
    intro w h
    simp (disch := decide) [decodeFields, decodeGroup0, decodeOp01, reads h Laid.const rfl]
  | pf a imm =>
    intro w h
    simp (disch := decide) [decodeFields, decodeGroup0, decodeOp01, bits, reads h ((Laid.const.put 15 a.isLt).low imm.isLt) rfl]
  | _ => nomatch h

/-- Memory accesses, fences and the almanac (R128). -/
theorem decodes_memory {i : Instr} (h : i.within 120 150 = true) : Decodes i := by
  cases i with
  | ldI8 d a la imm | ldW8 d a la imm | ldI16 d a la imm | ldW16 d a la imm | ldI32 d a la imm | ldW32 d a la imm
  | ldI64 d a la imm | stW8 d a la imm | stW16 d a la imm | stW32 d a la imm | stW64 d a la imm =>
    intro w h
    simp (disch := decide) [decodeFields, decodeGroup2, decodeOp20, decodeOp21, decodeOp22, decodeOp23, decodeOp24, decodeOp25,
      decodeOp26, decodeOp28, decodeOp29, decodeOp2A, decodeOp2B, bits,
      reads h ((((Laid.const.put 20 d.isLt).put 15 a.isLt).put 11 la.isLt).low imm.isLt) rfl]
  | ldx t d a b la =>
    intro w h
    cases t <;>
      simp (disch := decide) [decodeFields, decodeGroup2, decodeOp2C, bits, LdTy.ofCode, LdTy.code,
        reads h ((((Laid.const.put 20 d.isLt).put 15 a.isLt).put 10 b.isLt).put 6 la.isLt) rfl]
  | stx wd d a b la | stAck wd d a b la | ldAck wd d a b la =>
    intro w h
    simp (disch := decide) [decodeFields, decodeGroup2, decodeOp2C, bits,
      reads h (((((Laid.const.low wd.isLt).put 20 d.isLt).put 15 a.isLt).put 10 b.isLt).put 6 la.isLt) rfl]
  | aswap wd d a b la | acas wd d a b la | aadd wd d a b la | aand wd d a b la | aor wd d a b la | axor wd d a b la =>
    intro w h
    simp (disch := decide) [decodeFields, decodeGroup2, decodeOp2D, bits,
      reads h (((((Laid.const.low wd.code_lt).put 20 d.isLt).put 15 a.isLt).put 10 b.isLt).put 6 la.isLt) rfl]
  | amin sg wd d a b la | amax sg wd d a b la =>
    intro w h
    cases sg <;>
      simp (disch := decide) [decodeFields, decodeGroup2, decodeOp2D, bits,
        reads h (((((Laid.const.low wd.code_lt).put 20 d.isLt).put 15 a.isLt).put 10 b.isLt).put 6 la.isLt) rfl]
  | fenceRel sc la | fenceAcq sc la | fenceFull sc la =>
    intro w h
    simp (disch := decide) [decodeFields, decodeGroup2, decodeOp2E, bits,
      reads h ((Laid.const.low sc.code_lt).put 6 la.isLt) rfl]
  | fenceAck la =>
    intro w h
    simp (disch := decide) [decodeFields, decodeGroup2, decodeOp2E, bits, reads h (Laid.const.put 6 la.isLt) rfl]
  | alook d a la =>
    intro w h
    simp (disch := decide) [decodeFields, decodeGroup2, decodeOp2F, bits,
      reads h (((Laid.const.put 20 d.isLt).put 15 a.isLt).put 6 la.isLt) rfl]
  | alfill d a b la =>
    intro w h
    simp (disch := decide) [decodeFields, decodeGroup2, decodeOp2F, bits,
      reads h ((((Laid.const.put 20 d.isLt).put 15 a.isLt).put 10 b.isLt).put 6 la.isLt) rfl]
  | alevict a la =>
    intro w h
    simp (disch := decide) [decodeFields, decodeGroup2, decodeOp2F, bits,
      reads h ((Laid.const.put 15 a.isLt).put 6 la.isLt) rfl]
  | _ => nomatch h

/-- Groups, queues, frames, accumulators, copies and engine registers (R128). -/
theorem decodes_engines {i : Instr} (h : i.within 150 182 = true) : Decodes i := by
  cases i with
  | bar a la | spawn a la | join a la | laz a la =>
    intro w h
    simp (disch := decide) [decodeFields, decodeGroup3, decodeOp30, decodeOp32, decodeOp38, bits,
      reads h ((Laid.const.put 15 a.isLt).put 6 la.isLt) rfl]
  | bcastSend a b la | laadd a b la =>
    intro w h
    simp (disch := decide) [decodeFields, decodeGroup3, decodeOp30, decodeOp38, bits,
      reads h (((Laid.const.put 15 a.isLt).put 10 b.isLt).put 6 la.isLt) rfl]
  | bcastRecv d a la | larndF32 d a la | larndF64 d a la =>
    intro w h
    simp (disch := decide) [decodeFields, decodeGroup3, decodeOp30, decodeOp38, bits,
      reads h (((Laid.const.put 20 d.isLt).put 15 a.isLt).put 6 la.isLt) rfl]
  | redAdd d a b la | redMinI64 d a b la | redMinW64 d a b la | redMaxI64 d a b la | redMaxW64 d a b la | cpy d a b la
  | cpy2 d a b la | cpyh d a b la | cpyf d a b la =>
    intro w h
    simp (disch := decide) [decodeFields, decodeGroup3, decodeOp30, decodeOp39, bits,
      reads h ((((Laid.const.put 20 d.isLt).put 15 a.isLt).put 10 b.isLt).put 6 la.isLt) rfl]
  | daybarFill r la | daybarDrain r la =>
    intro w h
    simp (disch := decide) [decodeFields, decodeGroup3, decodeOp30, bits,
      reads h ((Laid.const.put 15 r.isLt).put 6 la.isLt) rfl]
  | vigilQne d q x la | vigilQnf d q x la | vigilReady d q x la | vigilRoom d q x la =>
    intro w h
    simp (disch := decide) [decodeFields, decodeGroup3, decodeOp31, bits,
      reads h ((((Laid.const.put 20 d.isLt).put 15 q.isLt).put 10 x.isLt).put 6 la.isLt) rfl]
  | qcount d q la =>
    intro w h
    simp (disch := decide) [decodeFields, decodeGroup3, decodeOp31, bits,
      reads h (((Laid.const.put 20 d.isLt).put 15 q.isLt).put 6 la.isLt) rfl]
  | take d la | cpycan d la =>
    intro w h
    simp (disch := decide) [decodeFields, decodeGroup3, decodeOp32, decodeOp39, bits,
      reads h ((Laid.const.put 20 d.isLt).put 6 la.isLt) rfl]
  | yield la | retire la =>
    intro w h
    simp (disch := decide) [decodeFields, decodeGroup3, decodeOp32, bits, reads h (Laid.const.put 6 la.isLt) rfl]
  | laaddp a b d la =>
    intro w h
    simp (disch := decide) [decodeFields, decodeGroup3, decodeOp38, bits,
      reads h ((((Laid.const.put 15 a.isLt).put 10 b.isLt).put 20 d.isLt).put 6 la.isLt) rfl]
  | erd d a | ewr d a =>
    intro w h
    simp (disch := decide) [decodeFields, decodeGroup3, decodeOp3A, bits,
      reads h ((Laid.const.put 20 d.isLt).put 15 a.isLt) rfl]
  | _ => nomatch h

/-- Vector memory accesses and arithmetic (R129). -/
theorem decodes_vectorArith {i : Instr} (h : i.within 182 221 = true) : Decodes i := by
  cases i with
  | vld d a b la p | vst d a b la p | vldZ d a b la p | vgathW32 d a b la p | vscatW32 d a b la p | vgathW16 d a b la p
  | vscatW16 d a b la p | vlbc d a b la p =>
    intro w h
    simp (disch := decide) [decodeFields, decodeGroup4, decodeOp40, bits,
      reads h (((((Laid.const.put 20 d.isLt).put 15 a.isLt).put 10 b.isLt).put 6 la.isLt).low p.isLt) rfl]
  | vadd t d a b p z | vsub t d a b p z | vmul t d a b p z | vmulh t d a b p z | vmin t d a b p z | vmax t d a b p z
  | vadds t d a b p z | vsubs t d a b p z | vsll t d a b p z | vsrl t d a b p z | vsra t d a b p z | vfadd t d a b p z
  | vfsub t d a b p z | vfmul t d a b p z | vfdiv t d a b p z | vfmin t d a b p z | vfmax t d a b p z =>
    intro w h
    simp (disch := decide) [decodeFields, decodeGroup4, decodeOp41, decodeOp42, decodeOp43, bits,
      reads h ((((((Laid.const.low t.code_lt).put 20 d.isLt).put 15 a.isLt).put 10 b.isLt).put 7 p.isLt).put 6 (flag_lt z)) rfl]
  | vand d a b p z | vor d a b p z | vxor d a b p z | vandn d a b p z =>
    intro w h
    simp (disch := decide) [decodeFields, decodeGroup4, decodeOp42, bits,
      reads h (((((Laid.const.put 20 d.isLt).put 15 a.isLt).put 10 b.isLt).put 7 p.isLt).put 6 (flag_lt z)) rfl]
  | vfsqrt t d a p z | vfabs t d a p z =>
    intro w h
    simp (disch := decide) [decodeFields, decodeGroup4, decodeOp43, bits,
      reads h (((((Laid.const.low t.code_lt).put 20 d.isLt).put 15 a.isLt).put 7 p.isLt).put 6 (flag_lt z)) rfl]
  | vfmaF32 d a b c p | vfmsF32 d a b c p | vfnmaF32 d a b c p | vfnmsF32 d a b c p | vfmaF16 d a b c p | vfmaBf16 d a b c p
  | vmaddI32 d a b c p | vmaddI16 d a b c p =>
    intro w h
    simp (disch := decide) [decodeFields, decodeGroup4, decodeOp44, decodeOp45, bits,
      reads h (((((Laid.const.put 20 d.isLt).put 15 a.isLt).put 10 b.isLt).put 5 c.isLt).put 2 p.isLt) rfl]
  | _ => nomatch h

/-- Vector comparisons, permutes and reductions (R129). -/
theorem decodes_vectorCompare {i : Instr} (h : i.within 221 250 = true) : Decodes i := by
  cases i with
  | vceq t d a b p z | vcne t d a b p z | vclt t d a b p z | vcle t d a b p z | vcfeq t d a b p z | vcflt t d a b p z
  | vcfle t d a b p z | vcfun t d a b p z | vperm t d a b p z | vzipl t d a b p z | vziph t d a b p z | vunzpe t d a b p z
  | vunzpo t d a b p z | vslide t d a b p z | vbcl t d a b p z =>
    intro w h
    simp (disch := decide) [decodeFields, decodeGroup4, decodeOp46, decodeOp48, bits,
      reads h ((((((Laid.const.low t.code_lt).put 20 d.isLt).put 15 a.isLt).put 10 b.isLt).put 7 p.isLt).put 6 (flag_lt z)) rfl]
  | pand d a b | por d a b | pxor d a b | pandn d a b =>
    intro w h
    simp (disch := decide) [decodeFields, decodeGroup4, decodeOp47, bits,
      reads h (((Laid.const.put 20 d.isLt).put 15 a.isLt).put 10 b.isLt) rfl]
  | pnot d a | pfromg d a | ptog d a =>
    intro w h
    simp (disch := decide) [decodeFields, decodeGroup4, decodeOp47, bits,
      reads h ((Laid.const.put 20 d.isLt).put 15 a.isLt) rfl]
  | vrev t d a p z =>
    intro w h
    simp (disch := decide) [decodeFields, decodeGroup4, decodeOp48, bits,
      reads h (((((Laid.const.low t.code_lt).put 20 d.isLt).put 15 a.isLt).put 7 p.isLt).put 6 (flag_lt z)) rfl]
  | vradd t d a b p | vrmin t d a b p | vrmax t d a b p | vrfadd t d a b p | vrfmin t d a b p | vrfmax t d a b p =>
    intro w h
    simp (disch := decide) [decodeFields, decodeGroup4, decodeOp49, bits,
      reads h (((((Laid.const.low t.code_lt).put 20 d.isLt).put 15 a.isLt).put 10 b.isLt).put 7 p.isLt) rfl]
  | _ => nomatch h

/-- Vector conversions, special functions, moves and DX (R129). -/
theorem decodes_vectorConvert {i : Instr} (h : i.within 250 291 = true) : Decodes i := by
  cases i with
  | vcvtF32F16 d a p | vcvtF32Bf16 d a p | vcvtF32I32 d a p | vcvtF32W32 d a p | vcvtI32F32 d a p | vcvtW32F32 d a p
  | vcvtI32I8 d a p =>
    intro w h
    simp (disch := decide) [decodeFields, decodeGroup4, decodeOp4A, bits,
      reads h (((Laid.const.put 20 d.isLt).put 15 a.isLt).put 7 p.isLt) rfl]
  | vcvtF16F32 d a b p | vcvtBf16F32 d a b p | vcvtI8I32 d a b p | vcvtF32D16 d a b p | vcvtF32D8 d a b p | vcvtF32D4 d a b p
  | vcvtD16F32 d a b p | vcvtD8F32 d a b p | vcvtD4F32 d a b p | vcvtF32E4m3 d a b p | vcvtF32E5m2 d a b p | vcvtF32E2m3 d a b p
  | vcvtF32E3m2 d a b p | vcvtF32E2m1 d a b p | vcvtF32Mxi8 d a b p | vcvtE4m3F32 d a b p | vcvtE5m2F32 d a b p
  | vcvtE2m3F32 d a b p | vcvtE3m2F32 d a b p | vcvtE2m1F32 d a b p | vcvtMxi8F32 d a b p =>
    intro w h
    simp (disch := decide) [decodeFields, decodeGroup4, decodeOp4A, bits,
      reads h ((((Laid.const.put 20 d.isLt).put 15 a.isLt).put 10 b.isLt).put 7 p.isLt) rfl]
  | vrcp t d a p z | vrsqrt t d a p z | vexp2 t d a p z | vlog2 t d a p z | vtanh t d a p z | vsigm t d a p z | vmov t d a p z
  | vdup t d a p z =>
    intro w h
    simp (disch := decide) [decodeFields, decodeGroup4, decodeOp4B, decodeOp4C, bits,
      reads h (((((Laid.const.low t.code_lt).put 20 d.isLt).put 15 a.isLt).put 7 p.isLt).put 6 (flag_lt z)) rfl]
  | vins t d a b | vext t d a b =>
    intro w h
    simp (disch := decide) [decodeFields, decodeGroup4, decodeOp4C, bits,
      reads h ((((Laid.const.low t.code_lt).put 20 d.isLt).put 15 a.isLt).put 10 b.isLt) rfl]
  | vmerge t d a b p | vdxdot t d a b p | vdxamax t d a b p =>
    intro w h
    simp (disch := decide) [decodeFields, decodeGroup4, decodeOp4C, decodeOp4D, bits,
      reads h (((((Laid.const.low t.code_lt).put 20 d.isLt).put 15 a.isLt).put 10 b.isLt).put 7 p.isLt) rfl]
  | _ => nomatch h

/-- Tile instructions (R130). -/
theorem decodes_tile {i : Instr} (h : i.within 291 312 = true) : Decodes i := by
  cases i with
  | tview m a la | twload m a la | tforce m a la | tquery m a la =>
    intro w h
    simp (disch := decide) [decodeFields, decodeGroup6, decodeOp60, decodeOp61, decodeOp65, decodeOp66, bits,
      reads h (((Laid.const.put 21 m.isLt).put 16 a.isLt).put 7 la.isLt) rfl]
  | tmma m ma mb g acc la =>
    intro w h
    simp (disch := decide) [decodeFields, decodeGroup6, decodeOp62, bits,
      reads h ((((((Laid.const.put 21 m.isLt).put 16 ma.isLt).put 11 mb.isLt).put 2 g.isLt).low (mode_lt acc)).put 7 la.isLt) rfl]
  | tadd m ma mb la | tmulw m ma mb la =>
    intro w h
    simp (disch := decide) [decodeFields, decodeGroup6, decodeOp63, bits,
      reads h ((((Laid.const.put 21 m.isLt).put 16 ma.isLt).put 11 mb.isLt).put 7 la.isLt) rfl]
  | tscale m ma b la | tcvt m ma b la | tmask m ma b la =>
    intro w h
    simp (disch := decide) [decodeFields, decodeGroup6, decodeOp63, decodeOp64, bits,
      reads h ((((Laid.const.put 21 m.isLt).put 16 ma.isLt).put 11 b.isLt).put 7 la.isLt) rfl]
  | tactRelu m ma la | tactGelu m ma la | tactSigm m ma la | tactTanh m ma la | tactExp m ma la | tredRowsum m ma la
  | tredColsum m ma la | tredRowmax m ma la | tredColmax m ma la =>
    intro w h
    simp (disch := decide) [decodeFields, decodeGroup6, decodeOp63, bits,
      reads h (((Laid.const.put 21 m.isLt).put 16 ma.isLt).put 7 la.isLt) rfl]
  | tstore m a b la =>
    intro w h
    simp (disch := decide) [decodeFields, decodeGroup6, decodeOp65, bits,
      reads h ((((Laid.const.put 21 m.isLt).put 16 a.isLt).put 11 b.isLt).put 7 la.isLt) rfl]
  | tdrop m la =>
    intro w h
    simp (disch := decide) [decodeFields, decodeGroup6, decodeOp66, bits,
      reads h ((Laid.const.put 21 m.isLt).put 7 la.isLt) rfl]
  | _ => nomatch h

/-- System instructions (R131). -/
theorem decodes_system {i : Instr} (h : i.within 312 334 = true) : Decodes i := by
  cases i with
  | scall | brk | rett | wfi | halt | ptsync | netsync | l1wb | l1inv =>
    intro w h
    simp (disch := decide) [decodeFields, decodeGroup7, decodeOp70, decodeOp73, reads h Laid.const rfl]
  | srr d sys =>
    intro w h
    simp (disch := decide) [decodeFields, decodeGroup7, decodeOp71, bits,
      reads h ((Laid.const.put 20 d.isLt).put 3 sys.isLt) rfl]
  | srw sys a =>
    intro w h
    simp (disch := decide) [decodeFields, decodeGroup7, decodeOp71, bits,
      reads h ((Laid.const.put 3 sys.isLt).put 15 a.isLt) rfl]
  | srx d sys a =>
    intro w h
    simp (disch := decide) [decodeFields, decodeGroup7, decodeOp71, bits,
      reads h (((Laid.const.put 20 d.isLt).put 3 sys.isLt).put 15 a.isLt) rfl]
  | startS a b | slotw a b =>
    intro w h
    simp (disch := decide) [decodeFields, decodeGroup7, decodeOp72, bits,
      reads h ((Laid.const.put 15 a.isLt).put 10 b.isLt) rfl]
  | reap a =>
    intro w h
    simp (disch := decide) [decodeFields, decodeGroup7, decodeOp72, bits, reads h (Laid.const.put 15 a.isLt) rfl]
  | accspill k a | accfill k a =>
    intro w h
    simp (disch := decide) [decodeFields, decodeGroup7, decodeOp73, bits,
      reads h ((Laid.const.put 20 k.isLt).put 15 a.isLt) rfl]
  | kslotw d a | nselw d a | grpw d a =>
    intro w h
    simp (disch := decide) [decodeFields, decodeGroup7, decodeOp74, bits,
      reads h ((Laid.const.put 20 d.isLt).put 15 a.isLt) rfl]
  | kslotclr d | blkfence d =>
    intro w h
    simp (disch := decide) [decodeFields, decodeGroup7, decodeOp74, bits, reads h (Laid.const.put 20 d.isLt) rfl]
  | _ => nomatch h

/-- Decoding the fields of an encoded word gives the instruction back. -/
theorem decodes (i : Instr) : Decodes i := by
  intro w h
  have last := Instr.ctorIdx_of_encode h
  rcases Nat.lt_or_ge i.ctorIdx 54 with below | from_
  · exact decodes_alu (Instr.within_iff.mpr ⟨Nat.zero_le _, below⟩) w h
  rcases Nat.lt_or_ge i.ctorIdx 94 with below | from_
  · exact decodes_float (Instr.within_iff.mpr ⟨from_, below⟩) w h
  rcases Nat.lt_or_ge i.ctorIdx 120 with below | from_
  · exact decodes_immediate (Instr.within_iff.mpr ⟨from_, below⟩) w h
  rcases Nat.lt_or_ge i.ctorIdx 150 with below | from_
  · exact decodes_memory (Instr.within_iff.mpr ⟨from_, below⟩) w h
  rcases Nat.lt_or_ge i.ctorIdx 182 with below | from_
  · exact decodes_engines (Instr.within_iff.mpr ⟨from_, below⟩) w h
  rcases Nat.lt_or_ge i.ctorIdx 221 with below | from_
  · exact decodes_vectorArith (Instr.within_iff.mpr ⟨from_, below⟩) w h
  rcases Nat.lt_or_ge i.ctorIdx 250 with below | from_
  · exact decodes_vectorCompare (Instr.within_iff.mpr ⟨from_, below⟩) w h
  rcases Nat.lt_or_ge i.ctorIdx 291 with below | from_
  · exact decodes_vectorConvert (Instr.within_iff.mpr ⟨from_, below⟩) w h
  rcases Nat.lt_or_ge i.ctorIdx 312 with below | from_
  · exact decodes_tile (Instr.within_iff.mpr ⟨from_, below⟩) w h
  exact decodes_system (Instr.within_iff.mpr ⟨from_, last⟩) w h

/-- Settles O1: the fields of an encoded word give its instruction back, whose literals pass the checks. -/
theorem decodeEncode : Obligations.DecodeEncode := by
  intro i w wellFormed h
  rw [decode, decodes i w h]
  exact if_pos wellFormed

/-- Settles O2: the words are those of their instructions, but for the last, whose opcode is not assigned. -/
theorem decodedWords : Obligations.DecodedWords := by
  unfold Obligations.DecodedWords
  refine ⟨?_, ?_, ?_, ?_, ?_, ?_, ?_, ?_, by decide +kernel⟩ <;> exact decodeEncode _ _ rfl rfl

end Sys2Proof
end

section
/-! PROOFS. The statement of `06_formats_and_assembly.md` about a step at a word that is no instruction, and at a PC that may not be
fetched from (R122, R133, R310): what the step's state keeps of the strand when the turn has passed. -/

namespace Sys2Proof.Machine

/-! ### The end of a cc keeps the strands -/

theorem State.strand_tick (s : State) (c d m : Nat) : (s.tick c).strand d m = s.strand d m :=
  State.strand_modCore_keeps rfl d m

theorem State.cores_writeTables (s : State) : s.writeTables.cores = s.cores :=
  foldl_keeps (fun u : State => u.cores) _ (fun u x => by split <;> rfl) s.nselDue s

theorem State.cores_passTurn (s : State) : s.passTurn.cores = s.cores := by
  rw [State.passTurn]
  split
  · rfl
  · dsimp only
    split
    · exact State.cores_writeTables _
    · exact State.cores_writeTables _

theorem State.strand_passTurn (s : State) (d m : Nat) : s.passTurn.strand d m = s.strand d m := by
  rw [State.strand, State.core, s.cores_passTurn]
  rfl

section
variable {s : State} {c n : Nat}

/-- What a strand's slot answers is what the step answers, but for the clocks and the turn. -/
theorem step_ready {u : State} (h : s.MayIssue c n) (run : s.ready c n = .next u) :
    ∃ t, step s = .next t ∧ t.strand c n = u.strand c n := by
  refine ⟨(u.tick c).passTurn, ?_, by rw [State.strand_passTurn, State.strand_tick]⟩
  rw [step_atSlot h.toAtSlot, State.attempt_atSlot h.toAtSlot, h.nothingOutstanding]
  exact congrArg _ run

theorem State.ready_noStall (h : s.MayIssue c n) (stall : (s.strand c n).stall = none) : s.ready c n = s.issue c n := by
  simp only [State.ready, h.noDeferred, h.noInterrupt, stall]
  cases s.issue c n <;> rfl

theorem instrOfWord_error {w : BitVec 32} {r : Reject} (h : decode w.toNat = .error r) : instrOfWord w = .unassignedEncoding w := by
  rw [instrOfWord, h]

theorem State.dueStall_of_none (h : (s.strand c n).stall = none) : s.dueStall c n = none := by
  rw [State.strand] at h
  simp only [State.dueStall, h]

/-! ### A fetch that fails its checks (R122) -/

/-- A PC is a virtual address where bit 63 is set and the must-be-zero bits 62 to 57 are clear (R49). -/
theorem virtual_iff (pc : Word) : pc.toNat / 2 ^ 57 = 64 ↔ field 63 63 pc ≠ 0 ∧ field 62 57 pc = 0 := by
  have := pc.isLt
  simp only [field]
  omega

theorem State.fetchTrap_notVirtual {pc : Word} (h : pc.toNat / 2 ^ 57 ≠ 64) : s.fetchTrap c pc = some .localRange := by
  rw [ne_eq, virtual_iff] at h
  rw [State.fetchTrap]
  split
  · rfl
  · next high => rw [if_pos fun low => h ⟨high, low⟩]

theorem State.fetchTrap_notLeased {pc : Word} (virt : pc.toNat / 2 ^ 57 = 64)
    (h : ∀ r, s.runOf c = some r → pageLeased r.lease (pc.toNat % 2 ^ 57) .exec = false) :
    s.fetchTrap c pc = some .leaseViolation := by
  obtain ⟨high, low⟩ := (virtual_iff pc).mp virt
  rw [State.fetchTrap, if_neg high, if_neg (not_not.mpr low)]
  split
  · rfl
  · next r run => rw [field_56_0, h r run]; rfl

theorem State.issue_fetchTrap {cause : Cause} (h : s.fetchTrap c (s.strand c n).pc = some cause) :
    s.issue c n = .next (s.fetchFault c n cause) := by
  simp only [State.issue, h]

section
variable (noPops : (s.strand c n).popped = [])
include noPops

/-- A fetch fault that does not end the task enters the handler, with TPC and TVAL at the PC. -/
theorem State.strand_fetchFault_enters {cause : Cause} (tin : (s.strand c n).tin = false) (lease : cause ≠ .leaseViolation)
    (walk : cause ≠ .walkRaceExhausted) : (s.fetchFault c n cause).strand c n =
      (s.strand c n).enter (s.core c).tvec (BitVec.ofNat 64 (causeCode cause)) (s.strand c n).pc (s.strand c n).pc 0 (s.strand c n).skip := by
  have same := s.strand_modStrand c n fun t => { t with fetchErr := none }
  rw [State.fetchFault, State.raise_enters (by rw [same]; exact noPops) (by rw [same]; exact tin) lease walk, State.strand_modStrand, same,
    State.core_modStrand, Core.setStrand_tvec]
  rfl

/-- A fetch that violates the lease ends the task: the trap registers hold the PC, and the handler is not entered (R310). -/
theorem State.strand_fetchFault_leaseViolation : ∃ o, (s.fetchFault c n .leaseViolation).strand c n =
    { (s.strand c n).saveTrap (BitVec.ofNat 64 (causeCode .leaseViolation)) (s.strand c n).pc (s.strand c n).pc 0 (s.strand c n).skip with
      fetchErr := none, outst := o, life := .faulted, stall := none } := by
  have same := s.strand_modStrand c n fun t => { t with fetchErr := none }
  rw [State.fetchFault, State.raise, State.unpop_of_none (by rw [same]; exact noPops)]
  obtain ⟨o, ends⟩ := State.strand_enterFaulted ((s.modStrand c n fun t => { t with fetchErr := none }).modStrand c n fun t =>
    t.saveTrap (BitVec.ofNat 64 (causeCode .leaseViolation)) (s.strand c n).pc (s.strand c n).pc 0 (s.strand c n).skip)
    c n (causeCode .leaseViolation)
  rw [State.strand_modStrand, same] at ends
  exact ⟨o, ends⟩

end

/-! ### A word that is no instruction (R133) -/

/-- The slot of a strand that fetches such a word: it enters the handler, and a wait that it had come to is over. -/
theorem State.ready_undecoded {w : BitVec 32} {r : Reject} (h : s.Fetches c n w) (undecoded : decode w.toNat = .error r)
    (tin : (s.strand c n).tin = false) (noPops : (s.strand c n).popped = []) :
    ∃ u, s.ready c n = .next u ∧ u.strand c n = (s.strand c n).enter (s.core c).tvec (BitVec.ofNat 64 (causeCode .illegal))
      (s.strand c n).pc (w.zeroExtend 64) 0 (s.strand c n).skip := by
  let v : State := { s with cur := (c, n), ir := w }
  have runs : exec (instrOfWord w) v = .next (v.trap .illegal (w.zeroExtend 64)) := by rw [instrOfWord_error undecoded]; rfl
  have strand : (v.trap .illegal (w.zeroExtend 64)).strand c n = (s.strand c n).enter (s.core c).tvec
      (BitVec.ofNat 64 (causeCode .illegal)) (s.strand c n).pc (w.zeroExtend 64) 0 (s.strand c n).skip := by
    have enters := State.raise_enters (s := v) (c := c) (n := n) (cause := .illegal) noPops tin nofun nofun
      (s.strand c n).pc (w.zeroExtend 64) 0 (s.strand c n).skip
    exact (congrArg (State.strand · c n) enters).trans (State.strand_modStrand _ _ _ _)
  have waits : (v.trap .illegal (w.zeroExtend 64)).dueStall c n = none := State.dueStall_of_none (by rw [strand]; rfl)
  refine ⟨_, ?_, strand⟩
  rw [State.ready_fetches h, runs]
  dsimp only
  rw [waits, ite_self]

end

/-! ### The statement -/

/-- Settles O4: the slot's strand takes the trap, or ends its task, and the end of the cc leaves it so. -/
theorem stepTrapsUndecoded : Obligations.StepTrapsUndecoded := by
  unfold Obligations.StepTrapsUndecoded
  refine ⟨fun s c n w r fetches undecoded tin noPops => ?_, fun s c n may tin noPops stall => ⟨fun notVirtual => ?_, fun virt notLeased => ?_⟩⟩
  · obtain ⟨u, run, enters⟩ := State.ready_undecoded fetches undecoded tin noPops
    obtain ⟨t, stepped, strand⟩ := step_ready fetches.toMayIssue run
    refine ⟨t, stepped, ?_⟩
    rw [strand, enters]
    exact ⟨rfl, rfl, rfl, rfl⟩
  · have run := (State.ready_noStall may stall).trans (State.issue_fetchTrap (State.fetchTrap_notVirtual notVirtual))
    obtain ⟨t, stepped, strand⟩ := step_ready may run
    refine ⟨t, stepped, ?_⟩
    rw [strand, State.strand_fetchFault_enters (cause := .localRange) noPops tin nofun nofun]
    exact ⟨rfl, rfl, rfl, rfl, rfl, rfl⟩
  · have run := (State.ready_noStall may stall).trans (State.issue_fetchTrap (State.fetchTrap_notLeased virt notLeased))
    obtain ⟨t, stepped, strand⟩ := step_ready may run
    obtain ⟨o, ends⟩ := State.strand_fetchFault_leaseViolation noPops
    refine ⟨t, stepped, ?_⟩
    rw [strand, ends]
    exact ⟨rfl, rfl, rfl, rfl, rfl, rfl, rfl, rfl, rfl⟩

end Sys2Proof.Machine
end

section
/-! PROOFS. The statement of `06_formats_and_assembly.md` that no instruction and no event stops the machine (R133, R299, R310): what
each shared operation answers where what it goes on with answers a next state, then the meanings by the families of the table. -/

namespace Sys2Proof.Machine

/-! ### Operations that go on with an answer -/

theorem Answers.ite {p : Prop} [Decidable p] {a b : Out} (ha : Answers a) (hb : Answers b) : Answers (if p then a else b) := by
  split
  · exact ha
  · exact hb

section
variable {s : State} {go : Out} (h : Answers go)
include h

theorem Answers.arrive (c : Nat) (answer : Bool) (e : Event) : Answers (s.arrive c answer e go) :=
  .ite (.next _) h

theorem Answers.atRoot (g : GroupRef) (e : Event) : Answers (s.atRoot g e go) := by
  unfold State.atRoot
  split
  · exact .next _
  · exact h.arrive ..

theorem Answers.climb (g : GroupRef) (sender : Nat) (msg : Nat → Event) : Answers (s.climb g sender msg go) := by
  unfold State.climb
  split
  · exact .next _
  · refine Answers.arrive ?_ ..
    split
    · exact h
    · exact .next _

theorem Answers.endpoint (rq : Request) (op : Nat) : Answers (s.endpoint rq op go) :=
  .ite h (.next _)

theorem Answers.moduleEndpoint (rq : Request) (op : Nat) : Answers (s.moduleEndpoint rq op go) :=
  .ite h (.next _)

theorem Answers.steward : Answers (s.steward go) :=
  .ite (.next _) h

theorem Answers.privileged (mode : Nat) : Answers (s.privileged mode go) :=
  .ite (.next _) h

theorem Answers.accUnit : Answers (s.accUnit go) :=
  .ite (.next _) h

theorem Answers.withLines {stopped : Out} (hs : Answers stopped) (c n : Nat) (full : Word) (lines : List Nat) (e : Event) :
    Answers (s.withLines c n full lines e stopped go) := by
  unfold State.withLines
  dsimp only
  split
  · exact h
  · split
    · exact hs
    · exact .next _

theorem Answers.withSaveLines (r : Run) (c va n : Nat) (e : Event) : Answers (s.withSaveLines r c va n e go) := by
  unfold State.withSaveLines
  split
  · exact h
  · exact .next _

theorem Answers.demanding (la : La) (srcs : List Reg) (ds : List (Nat × Region)) : Answers (s.demanding la srcs ds go) := by
  unfold State.demanding
  split
  · exact h
  · exact .next _

theorem Answers.copyGate (d a : Reg) (n : Nat) (srcs : List Reg) : Answers (s.copyGate d a n srcs go) := by
  unfold State.copyGate
  split
  · exact .next _
  · refine Answers.gate _ _ _ _ ?_
    split
    · exact .next _
    · exact h

theorem Answers.withQuota (la : La) (srcs : List Reg) : Answers (s.withQuota la srcs go) := by
  unfold State.withQuota
  dsimp only
  split
  · exact h
  · split
    · split
      · exact .next _
      · exact (Answers.next _).demanding ..
    · exact .next _

end

theorem Answers.onPage {s : State} {go : Partition → Pte → Out} (h : ∀ p e, Answers (go p e)) (rq : Request) (op : Nat) (va : Word)
    (e : Event) : Answers (s.onPage rq op va e go) := by
  unfold State.onPage
  dsimp only
  split
  · exact .next _
  · split
    · split
      · exact h _ _
      · exact .next _
    · exact .next _

theorem Answers.withRecord {s : State} {go : State → MapRec → Out} (h : ∀ s r, Answers (go s r)) (a : Word) :
    Answers (s.withRecord a go) := by
  unfold State.withRecord
  split
  · exact h _ _
  · refine .ite (.next _) ?_
    split
    · exact .next _
    · refine .ite (.next _) ?_
      dsimp only
      split
      · exact .next _
      · exact h _ _

/-! ### Shared operations -/

section
variable (s : State) (la : La) (srcs writes : List Reg)

theorem Answers.loads (d : Dest) (xs : List (Nat × Word × Nat × Nat)) : Answers (s.loads la srcs writes d xs) := by
  refine Answers.gate _ _ _ _ ?_
  split
  · exact .next _
  · refine .ite (.next _) ?_
    split
    · exact .next _
    · refine .ite (.next _) ?_
      dsimp only
      split <;> exact .next _

theorem Answers.stores (xs : List (Nat × Word × Nat × Nat × Nat)) : Answers (s.stores la srcs xs) := by
  refine Answers.gate _ _ _ _ ?_
  split
  · exact .next _
  · dsimp only
    split
    · exact .next _
    · split
      · exact .next _
      · split
        · exact .next _
        · exact (Answers.next _).demanding ..

theorem Answers.acked (d : Dest) (rights : List Right) (a : Word) (n : Nat) (acc : Access) :
    Answers (s.acked la srcs writes d rights a n acc) := by
  refine Answers.gate _ _ _ _ ?_
  split
  · exact .next _
  · split
    · exact .next _
    · refine Answers.demanding ?_ ..
      dsimp only
      repeat' split
      all_goals exact .next _

theorem Answers.accWrite (a : Word) (off : Nat) (clears : Bool) (ws : List (Nat × Nat)) :
    Answers (s.accWrite la srcs a off clears ws) := by
  unfold State.accWrite
  dsimp only
  split
  · exact .next _
  · split
    · exact .next _
    · exact (Answers.next _).demanding ..

theorem Answers.accAdding (a : Word) (x : Num) : Answers (s.accAdding la srcs a x) := by
  refine Answers.gate _ _ _ _ (Answers.accUnit ?_)
  split
  · exact .next _
  · split
    · exact .next _
    · exact Answers.accWrite ..

theorem Answers.accRound (d a : Reg) (f : Flt) : Answers (s.accRound la d a f) := by
  refine Answers.gate _ _ _ _ (Answers.accUnit ?_)
  dsimp only
  split
  · exact .next _
  · split <;> exact .next _

theorem Answers.launchCopy (d : Reg) (kind : CopyKind) (geo : List Word) (gb : Word) (rm : Nat) (rs : List CopyRange) :
    Answers (s.launchCopy la srcs d kind geo gb rm rs) := by
  unfold State.launchCopy
  split
  · exact .next _
  · split
    · exact .next _
    · dsimp only
      repeat' split
      all_goals exact .next _

theorem Answers.copyChecked (d : Reg) (kind : CopyKind) (geo : List Word) (gb : Word) (rm : Nat)
    (aligns : List (Word × Nat)) (raws : List RawRange) : Answers (s.copyChecked la srcs d kind geo gb rm aligns raws) := by
  unfold State.copyChecked
  split
  · exact .next _
  · split
    · exact .next _
    · split
      · exact .next _
      · exact Answers.launchCopy ..

theorem Answers.appendComputed (m : Tile) (v : Node) : Answers (s.appendComputed la srcs m v) :=
  Answers.withQuota (.next _) ..

theorem Answers.appendSource (m : Tile) (v : Node) (r : Option (Place × Nat × Nat)) : Answers (s.appendSource la srcs m v r) := by
  refine Answers.withQuota ?_ ..
  split
  · exact .next _
  · dsimp only
    split
    · exact .next _
    · split <;> exact .next _

theorem Answers.tile1 (m ma : Tile) (kind : NodeKind) (set : Nat → Node → Node) : Answers (s.tile1 la srcs m ma kind set) := by
  unfold State.tile1
  split
  · exact .next _
  · exact Answers.gate _ _ _ _ (Answers.appendComputed ..)

theorem Answers.tile2 (m ma mb : Tile) (kind : NodeKind) : Answers (s.tile2 la m ma mb kind) := by
  unfold State.tile2
  split
  · exact Answers.appendComputed ..
  · exact .next _

theorem Answers.startLoop (n : Word) (len : BitVec 15) : Answers (startLoop s srcs n len) := by
  unfold Machine.startLoop
  dsimp only
  split
  · exact .next _
  · refine Answers.gate _ _ _ _ ?_
    split
    · exact .next _
    · split <;> exact .next _

theorem Answers.grouped (a : Reg) (p : GroupRef → Phase) : Answers (s.grouped la srcs writes a p) := by
  refine Answers.gate _ _ _ _ ?_
  dsimp only
  split <;> exact .next _

theorem Answers.dayBarrier (i : Nat) (drain : Bool) : Answers (s.dayBarrier la i drain) := by
  unfold State.dayBarrier
  split
  · exact .next _
  · exact .ite (.next _) (.next _)

theorem Answers.vigil (fn : Nat) (d : Reg) (q x : Nat) : Answers (s.vigil la fn d q x) := by
  unfold State.vigil
  split
  · exact .next _
  · exact Answers.gate _ _ _ _ (.next _)

end

/-! ### Copies, frames and accumulators -/

section
variable (s : State) (la : La)

theorem execCpy_answers (d a b : Reg) : Answers (execCpy d a b la s) :=
  Answers.copyGate (.ite (.next _) (Answers.copyChecked ..)) ..

theorem execCpy2_answers (d a b : Reg) : Answers (execCpy2 d a b la s) :=
  Answers.copyGate (.ite (.next _) (Answers.copyChecked ..)) ..

theorem execCpyh_answers (d a b : Reg) : Answers (execCpyh d a b la s) := by
  refine Answers.copyGate (.ite (.next _) (.ite (.next _) (.ite (.next _) (.ite (.next _) (.ite (.next _) ?_))))) ..
  split
  · exact .next _
  · dsimp only
    split
    · exact .next _
    · exact Answers.launchCopy ..

theorem execCpyf_answers (d a b : Reg) : Answers (execCpyf d a b la s) := by
  refine Answers.copyGate ?_ ..
  dsimp only
  split
  · exact .next _
  · exact .ite (.next _) (.ite (.next _) (Answers.copyChecked ..))

theorem execAlfill_answers (d a b : Reg) : Answers (execAlfill d a b la s) := by
  refine Answers.copyGate (.ite (.next _) (.ite (.next _) (.ite (.next _) ?_))) ..
  split
  · exact .next _
  · exact .ite (.next _) (Answers.copyChecked ..)

theorem execCpycan_answers (d : Reg) : Answers (execCpycan d la s) := by
  unfold execCpycan
  split <;> exact .next _

theorem execAlevict_answers (a : Reg) : Answers (execAlevict a la s) := by
  refine Answers.gate _ _ _ _ (.ite (.next _) (.ite (.next _) ?_))
  split
  · exact .next _
  · exact .next _
  · exact .ite (.next _) (.next _)

theorem execSpawn_answers (a : Reg) : Answers (execSpawn a la s) := by
  refine Answers.gate _ _ _ _ ?_
  dsimp only
  split
  · exact .next _
  · split
    · refine .ite (.next _) (.ite (.next _) ?_)
      split
      · exact .next _
      · exact .ite (.next _) (.ite (.next _) (.next _))
    · exact .next _

theorem execTake_answers (d : Reg) : Answers (execTake d la s) := by
  refine Answers.gate _ _ _ _ ?_
  split
  · exact .ite (.next _) (.next _)
  · exact .next _

theorem execJoin_answers (a : Reg) : Answers (execJoin a la s) := by
  refine Answers.gate _ _ _ _ ?_
  dsimp only
  split
  · exact .next _
  · split
    · exact .next _
    · exact (Answers.next _).demanding ..

theorem execLaz_answers (a : Reg) : Answers (execLaz a la s) := by
  refine Answers.gate _ _ _ _ (Answers.accUnit ?_)
  dsimp only
  split
  · exact .next _
  · exact Answers.accWrite ..

/-! ### Tiles -/

/-- A source node is appended once its record passes the checks, and its range those of the access. -/
theorem source_answers (m : Tile) (a : Reg) : Answers (execTview m a la s) ∧ Answers (execTwload m a la s) := by
  constructor
  all_goals
    refine Answers.gate _ _ _ _ (Answers.withRecord (fun s r => ?_) _)
    split
    · exact .next _
    · dsimp only
      split
      · exact Answers.appendSource ..
      · split
        · exact .next _
        · exact Answers.appendSource ..

theorem execTmma_answers (m ma mb : Tile) (g : BitVec 5) (acc : Bool) : Answers (execTmma m ma mb g acc la s) := by
  unfold execTmma
  dsimp only
  split
  · exact .ite (.next _) (Answers.gate _ _ _ _ (Answers.appendComputed ..))
  · exact .next _

theorem execTcvt_answers (m ma : Tile) (b : Reg) : Answers (execTcvt m ma b la s) := by
  unfold execTcvt
  split
  · exact .next _
  · exact Answers.gate _ _ _ _ (.ite (.next _) (Answers.appendComputed ..))

theorem execTforce_answers (m : Tile) (a : Reg) : Answers (execTforce m a la s) := by
  refine Answers.gate _ _ _ _ ?_
  dsimp only
  split
  · split
    · exact .ite (.next _) ((Answers.next _).demanding ..)
    · exact .next _
  · exact .next _

theorem execTstore_answers (m : Tile) (a b : Reg) : Answers (execTstore m a b la s) := by
  unfold execTstore
  split
  · exact .next _
  · refine Answers.gate _ _ _ _ (Answers.withRecord (fun s r => ?_) _)
    split
    · exact .next _
    · dsimp only
      split
      · exact .next _
      · split
        · exact .next _
        · refine .ite (.next _) (Answers.demanding ?_ ..)
          split
          · exact .next _
          · split
            · exact .next _
            · refine .ite (.next _) ?_
              split <;> exact .next _
            · exact .next _

/-! ### System -/

theorem execHalt_answers : Answers (execHalt s) :=
  Answers.steward (.ite (.next _) (.ite (.next _) (.ite (.next _) (.next _))))

theorem execSrr_answers (d : Reg) (sys : BitVec 12) : Answers (execSrr d sys s) := by
  unfold execSrr
  split
  · exact .next _
  · exact Answers.gate _ _ _ _ (.next _)

theorem execSrw_answers (sys : BitVec 12) (a : Reg) : Answers (execSrw sys a s) := by
  unfold execSrw
  split
  · exact .next _
  · exact Answers.gate _ _ _ _ (.ite (.next _) (.next _))

theorem execSrx_answers (d : Reg) (sys : BitVec 12) (a : Reg) : Answers (execSrx d sys a s) := by
  unfold execSrx
  split
  · exact .next _
  · exact Answers.gate _ _ _ _ (.ite (.next _) (.next _))

theorem execReap_answers (a : Reg) : Answers (execReap a s) := by
  refine Answers.steward ?_
  split
  · exact .next _
  · exact Answers.gate _ _ _ _ (.next _)

theorem execAccspill_answers (k : BitVec 5) (a : Reg) : Answers (execAccspill k a s) := by
  refine Answers.privileged (.ite (.next _) (Answers.gate _ _ _ _ ?_)) _
  dsimp only
  split
  · exact .next _
  · refine .ite (.next _) ?_
    split
    · exact .next _
    · exact .ite (.next _) ((Answers.next _).demanding ..)

theorem execAccfill_answers (k : BitVec 5) (a : Reg) : Answers (execAccfill k a s) := by
  refine Answers.privileged (.ite (.next _) (Answers.gate _ _ _ _ (.ite (.next _) ?_))) _
  split
  · exact .next _
  · exact Answers.loads ..

theorem execKslotw_answers (d a : Reg) : Answers (execKslotw d a s) := by
  refine Answers.privileged (Answers.gate _ _ _ _ ?_) _
  dsimp only
  split
  · exact .next _
  · exact .next _
  · refine .ite (.next _) ?_
    split
    · exact .next _
    · exact (Answers.next _).demanding ..

theorem execGrpw_answers (d a : Reg) : Answers (execGrpw d a s) := by
  refine Answers.privileged (Answers.gate _ _ _ _ ?_) _
  dsimp only
  split
  · exact .next _
  · exact .next _
  · split
    · exact .next _
    · exact .next _
    · split
      · exact .next _
      · split <;> exact .next _

theorem execBlkfence_answers (d : Reg) : Answers (execBlkfence d s) := by
  refine Answers.privileged (Answers.gate _ _ _ _ ?_) _
  dsimp only
  split
  · exact .next _
  · split <;> exact .next _

end

/-! ### Events that wait for lines, and requests on pages -/

section
variable (s : State)

theorem execStreamerUnitRead_answers (core copy unit : Nat) : Answers (execStreamerUnitRead core copy unit s) := by
  unfold execStreamerUnitRead
  split
  · exact .next _
  · refine .ite (.next _) ?_
    split
    · exact .next _
    · refine .ite (.next _) (.ite (.next _) (.ite (.next _) (Answers.withLines ?_ (.next _) ..)))
      split <;> exact .next _

theorem execCopyUnitWrite_answers (core copy unit : Nat) (data : CopyData) : Answers (execCopyUnitWrite core copy unit data s) := by
  unfold execCopyUnitWrite
  split
  · exact .next _
  · split
    · exact .next _
    · exact .ite (.next _) (.ite (.next _) (.ite (.next _) (.ite (.next _) (.ite (.next _) (Answers.withLines (.next _) (.next _) ..)))))

theorem execCoreSwitchedOut_answers (core : Nat) : Answers (execCoreSwitchedOut core s) := by
  unfold execCoreSwitchedOut
  split
  · exact .next _
  · exact .ite (.next _) (Answers.withSaveLines (.next _) ..)

theorem execEjectSectionCopy_answers (part run : Nat) : Answers (execEjectSectionCopy part run s) := by
  unfold execEjectSectionCopy
  split
  · exact .next _
  · refine .ite (.next _) (.ite (.next _) (Answers.withSaveLines ?_ ..))
    dsimp only
    split <;> exact .next _

theorem execResume_answers (part run : Nat) : Answers (execResume part run s) := by
  unfold execResume
  split
  · exact .next _
  · split
    · exact .ite (.next _) (.next _)
    · exact .ite (.next _) (Answers.withSaveLines (.next _) ..)
    · exact .next _

theorem execEndRun_answers (rq : Request) (run : Nat) (trapped : Option (Nat × Nat)) : Answers (execEndRun rq run trapped s) := by
  unfold execEndRun
  split
  · exact .next _
  · refine Answers.endpoint ?_ ..
    split
    · exact .next _
    · split <;> exact .next _

theorem execUnmapPage_answers (rq : Request) (va : Word) : Answers (execUnmapPage rq va s) := by
  refine Answers.endpoint ?_ ..
  dsimp only
  split
  · exact .next _
  · exact Answers.onPage (fun p e => .ite (.next _) (.ite (.next _) (.next _))) ..

theorem execMovePage_answers (rq : Request) (va : Word) (frame : Nat) : Answers (execMovePage rq va frame s) := by
  refine Answers.endpoint ?_ ..
  dsimp only
  split
  · split <;> exact .next _
  · exact Answers.onPage (fun p e => .ite (.next _) (.ite (.next _) (.next _))) ..

theorem execClearD_answers (rq : Request) (va : Word) : Answers (execClearD rq va s) := by
  refine Answers.endpoint ?_ ..
  dsimp only
  split
  · exact .next _
  · exact Answers.onPage (fun p e => .ite (.next _) (.ite (.next _) (.ite (.next _) (.next _)))) ..

end

/-! ### The families of the table -/

/-- The instructions and events between two places of the table that do more than read and write registers. -/
def actsWithin (lo hi : Nat) (i : Instr) : Bool := i.within lo hi && (shadowUse i).isNone

theorem actsWithin_of_none {lo hi : Nat} {i : Instr} (use : shadowUse i = none) (above : lo ≤ i.ctorIdx) (below : i.ctorIdx < hi) :
    actsWithin lo hi i = true := by
  rw [actsWithin, Instr.within_iff.mpr ⟨above, below⟩, use]
  rfl

/-- Jumps, loops, accesses, fences and the almanac. -/
theorem access_answers {i : Instr} (h : actsWithin 0 150 i = true) (s : State) : Answers (exec i s) := by
  cases i with
  | pf | fenceRel | fenceAcq | fenceFull | fenceAck => exact .next _
  | jal | beq | bne | bltI64 | bgeI64 | bltW64 | bgeW64 => exact Answers.gate _ _ _ _ (.next _)
  | jalr | alook => exact Answers.gate _ _ _ _ (.ite (.next _) (.next _))
  | loop | loopi => exact Answers.startLoop ..
  | ldI8 | ldW8 | ldI16 | ldW16 | ldI32 | ldW32 | ldI64 | ldx => exact Answers.loads ..
  | stW8 | stW16 | stW32 | stW64 | stx => exact Answers.stores ..
  | stAck | ldAck | aswap | acas | aadd | aand | aor | axor | amin | amax => exact Answers.acked ..
  | alfill => exact execAlfill_answers ..
  | alevict a la => exact execAlevict_answers s la a
  | _ => nomatch h

/-- Groups, queues, frames, accumulators, copies and vector accesses. -/
theorem engine_answers {i : Instr} (h : actsWithin 150 291 i = true) (s : State) : Answers (exec i s) := by
  cases i with
  | yield | retire => exact .next _
  | bar | bcastSend | bcastRecv | redAdd | redMinI64 | redMinW64 | redMaxI64 | redMaxW64 =>
    dsimp only [exec]
    exact Answers.grouped ..
  | daybarFill | daybarDrain => exact Answers.dayBarrier ..
  | vigilQne | vigilQnf | vigilReady | vigilRoom =>
    dsimp only [exec, execVigilQne, execVigilQnf, execVigilReady, execVigilRoom]
    exact Answers.vigil ..
  | qcount => exact Answers.gate _ _ _ _ (.next _)
  | spawn a la => exact execSpawn_answers s la a
  | take => exact execTake_answers ..
  | join => exact execJoin_answers ..
  | laz => exact execLaz_answers ..
  | laadd | laaddp => exact Answers.accAdding ..
  | larndF32 | larndF64 => exact Answers.accRound ..
  | cpy => exact execCpy_answers ..
  | cpy2 => exact execCpy2_answers ..
  | cpyh => exact execCpyh_answers ..
  | cpyf => exact execCpyf_answers ..
  | cpycan d la => exact execCpycan_answers s la d
  | vld | vldZ | vgathW32 | vgathW16 | vlbc => exact Answers.loads ..
  | vst | vscatW32 | vscatW16 => exact Answers.stores ..
  | _ => nomatch h

/-- Tile and system instructions, and the word that is none. -/
theorem system_answers {i : Instr} (h : actsWithin 291 335 i = true) (s : State) : Answers (exec i s) := by
  cases i with
  | tdrop | scall | brk | l1wb | l1inv | unassignedEncoding => exact .next _
  | tview => exact (source_answers ..).1
  | twload => exact (source_answers ..).2
  | tmma => exact execTmma_answers ..
  | tadd | tmulw => exact Answers.tile2 ..
  | tscale | tactRelu | tactGelu | tactSigm | tactTanh | tactExp | tredRowsum | tredColsum | tredRowmax | tredColmax | tmask =>
    dsimp only [exec]
    exact Answers.tile1 ..
  | tcvt => exact execTcvt_answers ..
  | tforce => exact execTforce_answers ..
  | tstore => exact execTstore_answers ..
  | tquery => exact Answers.gate _ _ _ _ (.next _)
  | rett | ptsync | netsync => exact Answers.privileged (.next _) _
  | wfi => exact Answers.privileged (.ite (.next _) (.next _)) _
  | halt => exact execHalt_answers ..
  | srr => exact execSrr_answers ..
  | srw => exact execSrw_answers ..
  | srx => exact execSrx_answers ..
  | startS => exact Answers.steward (Answers.gate _ _ _ _ (.ite (.next _) (.next _)))
  | reap => exact execReap_answers ..
  | slotw | nselw => exact Answers.privileged (Answers.gate _ _ _ _ (.ite (.next _) (.next _))) _
  | accspill => exact execAccspill_answers ..
  | accfill => exact execAccfill_answers ..
  | kslotw => exact execKslotw_answers ..
  | kslotclr => exact Answers.privileged (Answers.gate _ _ _ _ (.next _)) _
  | grpw => exact execGrpw_answers ..
  | blkfence => exact execBlkfence_answers ..
  | _ => nomatch h

/-- What befalls strands, caches, locks, queues, groups and deques. -/
theorem strandEvent_answers {i : Instr} (h : actsWithin 335 384 i = true) (s : State) : Answers (exec i s) := by
  cases i with
  | doorbellWrite | hostmsgRead | ipendWrite | tcmpWrite | tstatusWrite | fctlWrite | timerExpiry | wfiWake | deferredTrap
  | longLatencyComplete | yieldTimeout | sliceAccess | writebackRetry | vigilTimeout | dayBarrierAdvance | advqWrite =>
    exact .next _
  | interruptEntry | slotTableSwitch | sliceMissFill | walkRequest | walkEntryReturn | walkRetry | walkRaceExhausted
  | registrationRetryTimeout | queueTimeout | dayBarrierTimeout | groupWaitTimeout | bcastSendTimeout | bcastRecvTimeout
  | levellingInterval =>
    dsimp only [exec, execInterruptEntry, execSlotTableSwitch, execSliceMissFill, execWalkRequest, execWalkEntryReturn,
      execWalkRetry, execWalkRaceExhausted, execRegistrationRetryTimeout, execQueueTimeout, execDayBarrierTimeout,
      execGroupWaitTimeout, execBcastSendTimeout, execBcastRecvTimeout, execLevellingInterval]
    repeat' split
    all_goals exact .next _
  | portRequest | loadResponse | postedStoreAck | lockRegistrationAck | broadcastFloodArrival | theftReply
  | levellingGrantRequest | levellingGrant | levelledFrameArrival => exact Answers.arrive (.next _) ..
  | l1FillResponse =>
    refine Answers.arrive ?_ ..
    split
    · exact .next _
    · exact .ite (.next _) (.next _)
  | l1WritebackReply =>
    refine Answers.arrive ?_ ..
    dsimp only
    split
    · exact .next _
    · exact .ite (.next _) (.next _)
  | theftRequest =>
    refine Answers.arrive (.ite (.next _) ?_) ..
    split <;> exact .next _
  | lockRegistration home =>
    cases home with
    | pad t => exact Answers.arrive (.next _) ..
    | slice k => exact .ite (.next _) (.next _)
  | lockRelease home =>
    cases home with
    | pad t => exact Answers.arrive (.next _) ..
    | slice k => exact .next _
  | barrierArrival | broadcastCreditReturn => exact Answers.climb (.next _) ..
  | barrierWithdrawal =>
    refine Answers.climb ?_ ..
    split
    · exact .next _
    · exact .ite (.next _) (.next _)
  | reductionContribution =>
    refine Answers.climb ?_ ..
    split
    · exact .next _
    · exact .ite (.next _) (.ite (.next _) (.next _))
  | broadcastAccept =>
    refine Answers.atRoot ?_ ..
    split
    · exact .next _
    · exact .ite (.next _) (.next _)
  | _ => nomatch h

/-- Steps of the tile array and of copies. -/
theorem engineEvent_answers {i : Instr} (h : actsWithin 384 396 i = true) (s : State) : Answers (exec i s) := by
  cases i with
  | copyResume => exact .next _
  | tileStep | arrayLeaseHandover | twloadFetchComplete | accBankWaitTimeout | copyStart | copyStatusWrite | cpyhArrival
  | cpyhBarrierTimeout | cpyhSourceRegistration =>
    dsimp only [exec, execTileStep, execArrayLeaseHandover, execTwloadFetchComplete, execAccBankWaitTimeout, execCopyStart,
      execCopyStatusWrite, execCpyhArrival, execCpyhBarrierTimeout, execCpyhSourceRegistration]
    repeat' split
    all_goals exact .next _
  | streamerUnitRead => exact execStreamerUnitRead_answers ..
  | copyUnitWrite => exact execCopyUnitWrite_answers ..
  | _ => nomatch h

/-- Intercalation, launch and the end of runs. -/
theorem runEvent_answers {i : Instr} (h : actsWithin 396 415 i = true) (s : State) : Answers (exec i s) := by
  cases i with
  | dirtyLogMerge | invalidationLogApply => exact .next _
  | intercalationProposal | intercalationCommit | intercalationStop | switchOutPoint | resumeIssue | stewardStart
  | completionRelease | harvest =>
    dsimp only [exec, execIntercalationProposal, execIntercalationCommit, execIntercalationStop, execSwitchOutPoint,
      execResumeIssue, execStewardStart, execCompletionRelease, execHarvest]
    repeat' split
    all_goals exact .next _
  | createPartition => exact Answers.endpoint (.next _) ..
  | intercalationRequest | destroyPartition | launch | hostmsg =>
    refine Answers.endpoint ?_ ..
    dsimp only
    repeat' split
    all_goals exact .next _
  | coreSwitchedOut => exact execCoreSwitchedOut_answers ..
  | ejectSectionCopy => exact execEjectSectionCopy_answers ..
  | resume => exact execResume_answers ..
  | endRun => exact execEndRun_answers ..
  | _ => nomatch h

/-- Commands of the host on pages, groups, keys and the module. -/
theorem command_answers {i : Instr} (h : actsWithin 415 435 i = true) (s : State) : Answers (exec i s) := by
  cases i with
  | journalRead => exact Answers.endpoint (.next _) ..
  | groupTableWrite | groupTableRead | keyClear | setWriteSlot => exact Answers.endpoint (.ite (.next _) (.next _)) ..
  | mapPage =>
    refine Answers.endpoint ?_ ..
    dsimp only
    split
    · exact .next _
    · exact .next _
    · refine .ite (.next _) (.ite (.next _) (.ite (.next _) (.ite (.next _) ?_)))
      split
      · exact .next _
      · split <;> exact .next _
  | keyLoad =>
    refine Answers.endpoint ?_ ..
    split
    · exact .next _
    · exact .ite (.next _) (.next _)
  | linkBind =>
    refine Answers.endpoint ?_ ..
    split <;> exact .next _
  | unmapPage => exact execUnmapPage_answers ..
  | movePage => exact execMovePage_answers ..
  | clearD => exact execClearD_answers ..
  | dirtyQuery => exact Answers.endpoint (Answers.onPage (fun _ _ => .next _) ..) ..
  | warmReset | coldReset | retentionEntry | retentionExit | powerOff | powerOn | firmwareUpdate =>
    exact Answers.moduleEndpoint (.next _) ..
  | startRecord => exact Answers.moduleEndpoint (.ite (.next _) (.next _)) ..
  | _ => nomatch h

/-- Errors, bring-up, power, thermal and link events, and a strand's fetches. -/
theorem moduleEvent_answers {i : Instr} (h : actsWithin 435 466 i = true) (s : State) : Answers (exec i s) := by
  cases i with
  | modulePowerGood | powerGood | clockLocked | linksTrained | configLoaded | chipReady | routingTableCommit
  | routingUpdateAbort | droopCap | linkRetryExhausted | operandFetchComplete | secondTierCompletion | powerLoss
  | bringupLimitOverrun | droopStretch | bondSupplyReading | thermalReading | thermalStepUp | droopEnd => exact .next _
  | bondMarkedDead | thermalFence => exact .ite (.next _) (.next _)
  | eccErrorDetected | selfTestPassed | wavefrontArrival | routingTableLoad | regulatorPhaseFailure | linkFlitReceive
  | calendsFlitSend | copyWaitTimeout | instructionFetchReturn =>
    dsimp only [exec, execEccErrorDetected, execSelfTestPassed, execWavefrontArrival, execRoutingTableLoad,
      execRegulatorPhaseFailure, execLinkFlitReceive, execCalendsFlitSend, execCopyWaitTimeout, execInstructionFetchReturn]
    repeat' split
    all_goals exact .next _
  | pageFaultRefusal =>
    refine Answers.endpoint ?_ ..
    split <;> exact .next _
  | _ => nomatch h

theorem instr_ctorIdx_lt (i : Instr) : i.ctorIdx < 466 := by
  have last : Nat.ble (i.ctorIdx + 1) 466 = true := by cases i <;> rfl
  exact Nat.le_of_ble_eq_true last

/-! ### The statement -/

/-- Settles O8: register-only instructions first, then the families of the table. -/
theorem alwaysNext : Obligations.AlwaysNext := by
  unfold Obligations.AlwaysNext
  intro i s
  cases use : shadowUse i with
  | some u => exact exec_answers use s
  | none =>
    rcases Nat.lt_or_ge i.ctorIdx 150 with below | above
    · exact access_answers (actsWithin_of_none use (Nat.zero_le _) below) s
    rcases Nat.lt_or_ge i.ctorIdx 291 with below | above
    · exact engine_answers (actsWithin_of_none use above below) s
    rcases Nat.lt_or_ge i.ctorIdx 335 with below | above
    · exact system_answers (actsWithin_of_none use above below) s
    rcases Nat.lt_or_ge i.ctorIdx 384 with below | above
    · exact strandEvent_answers (actsWithin_of_none use above below) s
    rcases Nat.lt_or_ge i.ctorIdx 396 with below | above
    · exact engineEvent_answers (actsWithin_of_none use above below) s
    rcases Nat.lt_or_ge i.ctorIdx 415 with below | above
    · exact runEvent_answers (actsWithin_of_none use above below) s
    rcases Nat.lt_or_ge i.ctorIdx 435 with below | above
    · exact command_answers (actsWithin_of_none use above below) s
    exact moduleEvent_answers (actsWithin_of_none use above (instr_ctorIdx_lt i)) s

end Sys2Proof.Machine
end
